-- ==== Sys2Proof/Word.lean ====
section
/-! DEFINITION. The plain types of the D1280 model: bytes and registers (R3, R4), byte memories in the host's cell form,
and tables that hold a value for each number named in them. What is done with them stands in Machine/Ops.lean. -/

namespace Sys2Proof

/-- A byte: the unit of every layout of the manual (R4). -/
abbrev Byte := BitVec 8

/-- A tile scalar register or an address-program register (R92, R255), and a stage-program word (R94). -/
abbrev Word64 := BitVec 64

/-- The 32-bit counts of semaphores and their complements (R276), and an FP32 encoding. -/
abbrev Word32 := BitVec 32

/-- A byte memory: address and byte, addresses strictly rising, no byte equal to what an unlisted address reads as. -/
abbrev Mem := List (Nat × BitVec 8)

/-- A table: a value for each number that is listed, keys strictly rising. What an unlisted number holds is said where
the table is read (Machine/Ops.lean: `tget`). -/
abbrev Tab (α : Type) := List (Nat × α)

end Sys2Proof
end

