-- ==== Sys2Proof/Syntax.lean ====
section
/-! DEFINITION. The commands of the block: one constructor for each row of the table of operations and events
(spec/opcode_table.json), in the table's order. A command is one whole step of the device: a write or read from a host or
manager, or one event of one unit of the device. The operands name the unit the step happens at, carry what arrives from
outside, and carry what the manual leaves to timing, to physics or to the device's choice (log entries 2 and 3). What a
unit already holds (a program word, a staged request, a packet received) is no operand: the step reads it from the state. An operand
with a default may be left out: no error is found, every lane trains, nothing is late. -/

namespace Sys2Proof

/-- The transport a management request comes over (R427 to R429). -/
inductive Transport where
  | t1s | i3c | pcie
  deriving DecidableEq, Repr

/-- The session role a request carries (R417). -/
inductive Role where
  | owner | observer | anonymous
  deriving DecidableEq, Repr

/-- One dictionary request as it reaches the Curator (R423): its transport, its requester (R426), the number of the secured
session it came in (0 for none, R427), and the message's bytes. `whole` is false when the transport delivered it incomplete,
and `later` says that the Curator is still busy with earlier requests, so that this one is queued behind them (R431). -/
structure Msg where
  transport : Transport
  requester : Nat
  session   : Nat
  bytes     : List Byte
  whole     : Bool
  later     : Bool
  deriving DecidableEq, Repr

/-- One SPDM request (R456): transport, requester, the session it belongs to (0 for none) and its bytes. -/
structure Spdm where
  transport : Transport
  requester : Nat
  session   : Nat
  bytes     : List Byte
  deriving DecidableEq, Repr

/-- The arbiters of R265: one for each HBM3E stack, LPDDR5X package, base die's reservoir SRAM, flash stack, pair of base
dies joined by a bridge, and fabric port. -/
inductive Arb where
  | hbm (stack : Nat) | lpddr (package : Nat) | sram (die : Nat) | flash (stack : Nat) | bridge (a b : Nat) | port (p : Nat)
  deriving DecidableEq, Repr

/-- What the code of a memory tier found on a read (R267 to R269): physics decides it, so the command carries it. -/
inductive MemErr where
  | clean | corrected | uncorrectable
  deriving DecidableEq, Repr

/-- A PCI Express configuration request (R395 to R397, R441): a read of an identity field, a write of the SR-IOV VF Enable
bit and NumVFs, or a write of a control bit of an absent capability (R396). -/
inductive CfgReq where
  | readDeviceId | readClass | readBarSizes
  | writeVfEnable (enable : Bool) (numVfs : Nat)
  | writeAbsent
  deriving DecidableEq, Repr

/-- What the Curator's sensors give at one evaluation of the power loop (R444): P100 in mW, I10 in mA, V10 in mV, the die
temperatures in milli-degrees Celsius (base dies 0 to 3, compute dies 0 to 7), and the step rate as an FP32 pattern. -/
structure Readings where
  p100 : Nat
  i10  : Nat
  v10  : Nat
  temps : List Nat
  rate : Nat
  deriving DecidableEq, Repr

/-- What the security block finds when it verifies what the configuration flash holds (R439, R449 to R454): the Falcon-1024
verdicts on firmware images A and B and on configuration copies A and B, on the identity record, and whether the PUF seed
is reconstructed. The algorithm is named and not defined by the manual, so the verdict comes with the command. -/
structure BootChecks where
  fwA : Bool
  fwB : Bool
  cfgA : Bool
  cfgB : Bool
  identity : Bool
  puf : Bool
  deriving DecidableEq, Repr

/-- The commands, one constructor for each row of the table. `t` is a dense tile number (Table 2-1), `e` an easel id,
`i` the number of a stream issue, `k` the place of a request or packet in the list it waits in, `x` the number of a
transfer, `f` a PCI Express function, `l` a primer lane, `p` a fabric port, `us` an elapsed local-timer duration. `whole` says that a
flit lies in no codeword that FEC could not correct, and `fec` what FEC found in the codewords since the flit before. `errs` names
places the step reads whose word its code finds in error, with what it finds: local-store offsets for a tile, offsets into the
read for BAR2 and a transfer, into the record for a lane, into the source for a reduction, easel virtual addresses for an update
and for a window chunk or a key and value block. -/
inductive Instr where
  /-- END (R99). Tile instruction that ends the program for the command; the tile then waits for its outstanding work before it reports done. -/
  | endProg (t : Nat)
  /-- LOOP (R96). Tile instruction that starts a hardware loop over the following body words, reading the count once. -/
  | loop (t : Nat)
  /-- BR (R97). Tile conditional branch that is taken when its condition holds between a and b. -/
  | br (t : Nat)
  /-- SETI (R94). Tile instruction that sets a register to a zero-extended 48-bit immediate. -/
  | seti (t : Nat)
  /-- SETHI (R94). Tile instruction that sets bits [63:48] of a register and keeps the low bits. -/
  | sethi (t : Nat)
  /-- ALU (R98). Tile scalar arithmetic on 64-bit values that wraps modulo 2^64 and never faults. -/
  | alu (t : Nat)
  /-- GETSLOT (R92). Tile instruction that reads a shape slot of the command's slot vector into a register. -/
  | getslot (t : Nat)
  /-- GETCTX (R93). Tile instruction that reads a context item into a register. -/
  | getctx (t : Nat)
  /-- MMA (R100). Tile matrix product instruction; operands are checked at issue and the product is handed to the array. -/
  | mma (t : Nat)
  /-- VCHAIN (R106). Tile instruction that hands a chain descriptor to the vector engine, which checks it under R205. -/
  | vchain (t : Nat) (errs : List (Nat × MemErr))
  /-- ISSUE (R107). Tile instruction that starts one run of a stream's block list with inputs p and q. -/
  | issue (t : Nat)
  /-- AWAIT (R108). Tile instruction that blocks until earlier issues of a stream, or of all streams, have completed. -/
  | await (t : Nat)
  /-- MARK (R109). Tile trace mark instruction that hands a mark record to the trace unit when tracing is enabled. -/
  | mark (t : Nat)
  /-- SIGNAL (R110). Tile instruction that sends signal(n) to a semaphore home after earlier mma and vchain writes. -/
  | signal (t : Nat)
  /-- WAIT (R110). Tile instruction that sends a consuming wait(n) to a semaphore and blocks until it is granted. -/
  | wait (t : Nat)
  /-- WAITV (R110). Tile instruction that sends a value wait and blocks until the count reaches v. -/
  | waitv (t : Nat)
  /-- FADD (R295). Tile fetch-add on a work counter that returns a ticket. -/
  | fadd (t : Nat)
  /-- CLAIM (R298). Tile instruction that sets a ticket's bit in a claim bitmap and reports whether it was clear. -/
  | claim (t : Nat)
  /-- MMA_COMPLETE (R131). The last result row of an mma's last fold tile lands, and its writes become visible. -/
  | mmaComplete (t : Nat) (errs : List (Nat × MemErr))
  /-- VCHAIN_COMPLETE (R217). A chain finishes its pass and writes any return value into the parameter register. -/
  | vchainComplete (t : Nat) (errs : List (Nat × MemErr))
  /-- ADDR_END (R255). Address-program instruction that ends the block. -/
  | addrEnd (i : Nat)
  /-- ADDR_SETI (R255). Address-program instruction that sets a register to an immediate. -/
  | addrSeti (i : Nat)
  /-- GETV (R255). Address-program instruction that loads a value source into a register. -/
  | getv (i : Nat)
  /-- MADD (R255). Address-program instruction that sets gd = ga + gb × immediate. -/
  | madd (i : Nat)
  /-- ADDI (R255). Address-program instruction that adds a sign-extended immediate. -/
  | addi (i : Nat)
  /-- ADDR_LOOP (R256). Address-program instruction that repeats a body a counted number of times. -/
  | addrLoop (i : Nat)
  /-- EMIT (R255). Address-program instruction that emits one run of bytes between two addresses. -/
  | emit (i : Nat)
  /-- ZERO (R255). Address-program instruction that writes zero bytes at the destination. -/
  | zero (i : Nat)
  /-- STREAM_RUN (R258). A stream engine checks an emitted run and splits it into transfers; the run waits for primer output or credit where needed. -/
  | streamRun (i steps : Nat)
  /-- ARBITER_GRANT (R265). An arbiter grants the pending request of least slack. -/
  | arbiterGrant (a : Arb)
  /-- STARVATION_GUARD_EXPIRY (R265). A request that has waited longer than starve_guard_us is granted next. -/
  | starvationGuardExpiry (x : Nat)
  /-- TRANSFER_LAND (R260). A transfer lands at its destination, with any first-write page fill done first. -/
  | transferLand (x : Nat) (errs : List (Nat × MemErr))
  /-- STREAM_ISSUE_COMPLETE (R107). All transfers of an issue are acknowledged, and its completion signal is raised. -/
  | streamIssueComplete (i : Nat)
  /-- SYNC_REQUEST_ARRIVAL (R277). A semaphore home applies an arriving signal, wait or wait-value and grants or releases waiters. -/
  | syncRequestArrival (k : Nat)
  /-- TILE_DONE (R99). A tile that has ended reports done once every instruction it issued has completed. -/
  | tileDone (t : Nat)
  /-- COMMAND_END (R291). Once every tile is done and no posted signal is pending, semaphores are checked against final values and reset, and completion is written. -/
  | commandEnd (e : Nat)
  /-- DESCRIPTOR_TAKE (R402). The device takes the next descriptor from a queue in turn and assigns a sequence number. -/
  | descriptorTake (e : Nat) (entry : List Byte) (intact : Bool)
  /-- COMMAND_DISPATCH (R404). A taken command is checked and dispatched once its start conditions and any needed verdict are met. -/
  | commandDispatch (e : Nat)
  /-- RUN_WORK (R91). Command op 0x01 that starts every tile of the active sheet at word 0. -/
  | runWork (e : Nat)
  /-- LOAD_CANVAS (R66). Barrier command op 0x02 that makes the loader read and check a canvas image. -/
  | loadCanvas (e : Nat) (verified : Bool)
  /-- CANVAS_LOADED (R68). The loader commits a checked canvas to the tiles and writes its record. -/
  | canvasLoaded (e us : Nat)
  /-- SHEET_SWITCH (R60). Barrier command op 0x03 that starts loading a new sheet's programs and initial values. -/
  | sheetSwitch (e : Nat)
  /-- SHEET_SWITCHED (R60). A sheet switch ends, and later commands may dispatch. -/
  | sheetSwitched (e : Nat)
  /-- REWEIGHT (R230). Barrier command op 0x04 that checks and starts moving tile rows between panels. -/
  | reweight (e : Nat)
  /-- PANEL_REWEIGHTED (R231). The reweight moves complete, and the record is written. -/
  | panelReweighted (e us : Nat)
  /-- INTAKE (R303). Command op 0x05 that checks an intake for the primer. -/
  | intake (e : Nat) (errs : List (Nat × Nat × MemErr) := [])
  /-- INTAKE_START (R303). An intake starts decoding once the lanes it names are free. -/
  | intakeStart (e : Nat)
  /-- LANE_RECORD_TAKE (R318). A free lane takes the next record in ordinal order and runs the pre-decode checks. -/
  | laneRecordTake (l : Nat) (errs : List (Nat × MemErr))
  /-- SAMPLE_SKIPPED_BUDGET (R316). A lane's work count passes the budget, and decoding is abandoned. -/
  | sampleSkippedBudget (l : Nat)
  /-- SAMPLE_DECODE_DONE (R315). A lane finishes decoding a sample, and the output is formed or the sample is judged corrupt. -/
  | sampleDecodeDone (l : Nat) (errs : List (Nat × MemErr) := [])
  /-- PRIMER_OUTPUT_DELIVERY (R318). The oldest finished output is delivered in order, with any skip replaced by a spare and logged. -/
  | primerOutputDelivery (e : Nat)
  /-- INTAKE_COMPLETE (R303). Every output of an intake has been placed and acknowledged. -/
  | intakeComplete (e : Nat)
  /-- UPDATE (R361). Command op 0x06 that checks an update block and its glaze entries. -/
  | update (e : Nat)
  /-- UPDATE_APPLY (R362). Glaze units start the update once the verdict, the done semaphores and the free varnish buffer are in place. -/
  | updateApply (e : Nat) (errs : List (Nat × MemErr))
  /-- UPDATE_COMPLETE (R362). Every glaze unit has finished, the varnish select flips and the update command completes. -/
  | updateComplete (e : Nat)
  /-- EXPORT (R392). Command op 0x07 that registers a layer-4 image export and completes at acceptance. -/
  | exportImage (e : Nat)
  /-- CHECKPOINT_WRITTEN (R370). A checkpoint or export image is acknowledged at its destination. -/
  | checkpointWritten (e layer : Nat)
  /-- NO_OPERATION (R403). Command op 0x08 that does nothing beyond its fence. -/
  | noOperation (e : Nat)
  /-- LOG_ENTRY_WRITE (R373). Once every owned shard of a step has landed, the device writes the step's pentimento log entry to its partner. -/
  | logEntryWrite (e : Nat)
  /-- VERDICT_WORD_SEND (R374). The device sends its step-verdict word once the last command of the step has completed and its log entry is acknowledged. -/
  | verdictWordSend (e : Nat)
  /-- STEP_VERDICT (R166). The verdict total of a training step arrives, and the device keeps or skips the step and adjusts the loss scale. -/
  | stepVerdict (e : Nat)
  /-- VERDICT_TIMEOUT (R354). No verdict total arrives within reduction_timeout_ms, and the easel faults. -/
  | verdictTimeout (e : Nat)
  /-- REDUCTION_FIRE (R350). A reduction's trigger semaphore reaches its value, and the slice reads, scales and sends contributions. -/
  | reductionFire (e r : Nat) (errs : List (Nat × MemErr))
  /-- SHARD_DELIVERY (R353). A shard delivery packet is checked and written to the shard window. -/
  | shardDelivery (k : Nat)
  /-- REDUCTION_TIMEOUT (R353). Owned segments have not all landed within the timeout, and the easel faults. -/
  | reductionTimeout (e r : Nat)
  /-- GROUP_MASK_SWITCH (R351). A staged group port mask takes effect at the start of its training step. -/
  | groupMaskSwitch (v : Nat)
  /-- DATA_FLIT (R330). A data flit is received, checked and accepted or discarded with a NAK. -/
  | dataFlit (p : Nat) (flit : List Byte) (whole : Bool) (fec : List MemErr)
  /-- NAK_FLIT (R330). A NAK flit is received, and the sender replays from after the acknowledged flit. -/
  | nakFlit (p : Nat) (flit : List Byte) (whole : Bool) (fec : List MemErr)
  /-- IDLE_FLIT (R329). An idle flit is received carrying an ack and credits. -/
  | idleFlit (p : Nat) (flit : List Byte) (whole : Bool) (fec : List MemErr)
  /-- RETRY_LIMIT_REACHED (R331). retry_limit consecutive NAKs without progress make the port retrain. -/
  | retryLimitReached (p : Nat) (trained : Bool) (found : List (Option Nat) := List.replicate 9 (some 0))
  /-- ACK_TIMEOUT (R331). 100 µs pass without an ack while flits are outstanding, and the port retrains. -/
  | ackTimeout (p : Nat) (trained : Bool) (found : List (Option Nat) := List.replicate 9 (some 0))
  /-- SER_WINDOW_END (R335). A 2^30-symbol error measurement ends, and a failing lane is spared or the port narrows or goes down. -/
  | serWindowEnd (p lane errors : Nat) (trained : Bool) (found : List (Option Nat) := List.replicate 9 (some 0))
  /-- PORT_BRING_UP (R333). An enabled port runs the bring-up sequence of Table 13-3. -/
  | portBringUp (p : Nat) (lanes : List (Option Nat)) (credits : List Nat)
  /-- LINK_PARAMETERS (R344). A management packet of subtype 0x01 is received, and the peer is checked. -/
  | linkParameters (k : Nat)
  /-- POSITION_ANNOUNCEMENT (R344). A management packet of subtype 0x02 announcing a new position is received. -/
  | positionAnnouncement (k : Nat)
  /-- FABRIC_WRITE (R343). An incoming write packet is translated, checked, landed and acknowledged. -/
  | fabricWrite (k : Nat)
  /-- FABRIC_READ_REQUEST (R343). An incoming read request is checked and answered with a response. -/
  | fabricReadRequest (k : Nat)
  /-- FABRIC_RESPONSE (R342). A response arrives for an outstanding remote request and completes it or faults the easel. -/
  | fabricResponse (k : Nat)
  /-- FABRIC_SIGNAL (R284). An ordinary remote signal arrives and is applied at its semaphore, or discarded if undeclared. -/
  | fabricSignal (k : Nat)
  /-- POSTED_SIGNAL (R286). A posted signal arrives and is applied or held pending under its fence key. -/
  | postedSignal (k : Nat)
  /-- FENCE_PACKET_LANDED (R286). A tagged data packet lands and is counted toward its fence key. -/
  | fencePacketLanded (k : Nat)
  /-- REMOTE_SIGNAL_ORPHAN (R287). A posted signal's packets have not all landed within 2 ms, and the signal is discarded. -/
  | remoteSignalOrphan (position channel tag : Nat)
  /-- FENCE_KEY_EXPIRY (R288). A key with no posted signal is freed 2 ms after its last packet. -/
  | fenceKeyExpiry (position channel tag : Nat)
  /-- REMOTE_ACCESS_TIMEOUT (R342). A remote request gets no response within remote_timeout_ms, and the easel faults. -/
  | remoteAccessTimeout (tag : Nat)
  /-- FABRIC_REFCLK_LOST (R486). A fabric reference clock is lost for 10 µs, and the ports of that base die go down. -/
  | fabricRefclkLost (die : Nat)
  /-- FABRIC_REFCLK_RETURN (R486). A fabric reference clock returns, and bring-up restarts. -/
  | fabricRefclkReturn (die : Nat)
  /-- READ (R423). A dictionary READ message is checked and answered with a value or a BLOB segment. -/
  | read (m : Msg)
  /-- WRITE (R419). A dictionary WRITE to an entry without its own row is checked and stores the value or a BLOB segment. -/
  | write (m : Msg)
  /-- LIST (R425). A dictionary LIST message returns the entry descriptors of an index. -/
  | list (m : Msg)
  /-- BLOB_STAGING_TIMEOUT (R421). A BLOB staging that receives no segment for 2 s is discarded. -/
  | blobStagingTimeout (requester index sub : Nat)
  /-- TRANSACTION_MEMORY_EXPIRY (R426). A remembered transaction is forgotten after 2 s. -/
  | transactionMemoryExpiry (requester transaction : Nat)
  /-- FAULT_LINE_RECORD (R32). The Curator accepts a fault-line copy and forwards it as notices; `aged` is how many of the notices counted
  for each target have left the last 1 s. -/
  | faultLineRecord (aged : List Nat)
  /-- BIND (R45). bind_execute with op 0x01 checks a bind request and clears and commits the named units. -/
  | bind (m : Msg)
  /-- UNBIND (R45). bind_execute with op 0x02 and forced 0 starts draining the easel that releases the units. -/
  | unbind (m : Msg)
  /-- FORCED_UNBIND (R59). bind_execute with op 0x02 and forced 1 stops in-flight work and clears the units. -/
  | forcedUnbind (m : Msg)
  /-- MOVE (R54). bind_execute with op 0x03 and forced 0 drains the source and moves units to the target. -/
  | move (m : Msg)
  /-- FORCED_MOVE (R54). bind_execute with op 0x03 and forced 1 stops the source at once and moves units. -/
  | forcedMove (m : Msg)
  /-- DRAIN_COMPLETE (R45). All in-flight commands of a draining easel complete, and clearing begins. -/
  | drainComplete
  /-- DRAIN_TIMEOUT (R45). The drain timeout expires, the easel returns to BOUND and the request is rejected. -/
  | drainTimeout
  /-- CLEARING_COMPLETE (R52). Named units finish clearing, binding entries are written, and BIND_DONE or the rollback follows. -/
  | clearingComplete (us : Nat)
  /-- EASEL_RESET (R55). A write to easel_reset returns a FAULTED easel to BOUND and clears it. -/
  | easelReset (m : Msg)
  /-- RESTORE_EXECUTE (R376). restore_execute restores a checkpoint image and replays logged steps. -/
  | restoreExecute (m : Msg)
  /-- TAKEOVER_EXECUTE (R378). takeover_execute makes a hot spare take a failed member's position and rank. -/
  | takeoverExecute (m : Msg)
  /-- SPREAD_EXECUTE (R383). spread_execute spreads a failed member's range over the survivors. -/
  | spreadExecute (m : Msg) (verified : Bool)
  /-- KEY_ENROL (R455). key_enrol with bit 8 clear enrols a staged key into a slot. -/
  | keyEnrol (m : Msg) (verified : Bool)
  /-- KEY_REVOKE (R455). key_enrol with bit 8 set revokes a key slot. -/
  | keyRevoke (m : Msg)
  /-- TILE_SELFTEST (R434). tile_selftest starts a self-test of an unbound tile. -/
  | tileSelftest (m : Msg)
  /-- SELFTEST_COMPLETE (R434). A tile self-test ends, and its result is recorded. -/
  | selftestComplete (passed : Bool)
  /-- SKETCH_BUILD (R472). sketch_build makes the units of an easel publish their wait state. -/
  | sketchBuild (m : Msg)
  /-- SKETCH_SECOND_PUBLICATION (R472). 1 ms later the units publish again, and the Curator joins the sketch. -/
  | sketchSecondPublication
  /-- TRACE_TRIGGER (R471). trace_trigger triggers the trace units it names. -/
  | traceTrigger (m : Msg)
  /-- TRACE_ARM (R470). trace_arm arms the trace units it names. -/
  | traceArm (m : Msg)
  /-- FW_COMMIT (R453). fw_commit verifies the staged firmware, writes it to the other slot and may restart the Curator. -/
  | fwCommit (m : Msg) (verified : Bool)
  /-- FW_CONFIRM (R453). fw_confirm raises the minimum security version to the running image's. -/
  | fwConfirm (m : Msg)
  /-- CONFIG_COMMIT (R453). config_commit writes the staged configuration over the lower-version copy. -/
  | configCommit (m : Msg) (verified : Bool)
  /-- VBUS_RESTART (R447). vbus_restart restarts the VBUS domain after a thermal or power-stage stop. -/
  | vbusRestart (m : Msg)
  /-- FABRIC_POSITION_WRITE (R338). A write of fabric_position announces the new position on every up port. -/
  | fabricPositionWrite (m : Msg)
  /-- GET_VERSION (R456). SPDM request GET_VERSION. -/
  | getVersion (q : Spdm)
  /-- GET_CAPABILITIES (R456). SPDM request GET_CAPABILITIES. -/
  | getCapabilities (q : Spdm)
  /-- NEGOTIATE_ALGORITHMS (R456). SPDM request NEGOTIATE_ALGORITHMS. -/
  | negotiateAlgorithms (q : Spdm)
  /-- GET_DIGESTS (R456). SPDM request GET_DIGESTS. -/
  | getDigests (q : Spdm)
  /-- GET_CERTIFICATE (R456). SPDM request GET_CERTIFICATE. -/
  | getCertificate (q : Spdm)
  /-- CHALLENGE (R456). SPDM request CHALLENGE. -/
  | challenge (q : Spdm)
  /-- GET_MEASUREMENTS (R456). SPDM request GET_MEASUREMENTS. -/
  | getMeasurements (q : Spdm)
  /-- KEY_EXCHANGE (R456). SPDM KEY_EXCHANGE that opens a secured session up to the session limit. -/
  | keyExchange (q : Spdm) (slot : Nat) (proven : Bool)
  /-- FINISH (R456). SPDM request FINISH. -/
  | finish (q : Spdm) (proven : Bool)
  /-- KEY_UPDATE (R456). SPDM request KEY_UPDATE. -/
  | keyUpdate (q : Spdm)
  /-- HEARTBEAT (R456). SPDM request HEARTBEAT. -/
  | heartbeat (q : Spdm)
  /-- END_SESSION (R456). SPDM request END_SESSION. -/
  | endSession (q : Spdm)
  /-- NEIGHBOR_DISCOVERY (R427). The device answers IPv6 Neighbor Discovery on its management addresses. -/
  | neighborDiscovery (target : List Byte)
  /-- I3C_DYNAMIC_ADDRESS (R428). The I3C target takes a dynamic address from the controller. -/
  | i3cDynamicAddress (address : Nat)
  /-- DOORBELL (R400). A command-queue doorbell write is accepted or stops the queue with QUEUE_OVERRUN. -/
  | doorbell (f q value : Nat)
  /-- EVENT_DOORBELL (R407). An event-queue head doorbell frees ring room, and held records are written. -/
  | eventDoorbell (f value : Nat)
  /-- QUEUE_ENABLE (R399). Setting enable of a command or event queue resets its counts if the setup is legal. -/
  | queueEnable (f q value : Nat)
  /-- QUEUE_DISABLE (R399). Clearing enable discards descriptors not yet taken. -/
  | queueDisable (f q value : Nat)
  /-- REGISTER_WRITE (R398). A BAR0 write to a register without a row of its own. -/
  | registerWrite (f offset size value : Nat)
  /-- BAR2_READ (R410). A BAR2 read of easel memory through the window. -/
  | bar2Read (f offset length : Nat) (errs : List (Nat × MemErr))
  /-- BAR2_WRITE (R410). A BAR2 write of easel memory through the window. -/
  | bar2Write (f offset : Nat) (bytes : List Byte)
  /-- MSIX_HOLDOFF_EXPIRY (R409). A vector's holdoff interval ends, and a message covers the records written during it. -/
  | msixHoldoffExpiry (f q : Nat)
  /-- CONFIG_REQUEST (R441). A PCI Express configuration request is answered, or gets Request Retry Status during start-up. -/
  | configRequest (f : Nat) (r : CfgReq)
  /-- FLR_VF (R58). FLR of a virtual function clears its easel. -/
  | flrVf (e : Nat)
  /-- FLR_PF (R412). FLR of PF0 clears VF Enable, revokes easels 1 to 63 and clears easel 0. -/
  | flrPf
  /-- VF_DISABLE (R58). Disabling a VF force-unbinds and revokes its easel. -/
  | vfDisable (numVfs : Nat)
  /-- HOT_RESET (R412). PCI Express hot reset, which acts as FLR of PF0. -/
  | hotReset
  /-- PERST_ASSERT (R412). PERST_N asserted, which acts as FLR of PF0. -/
  | perstAssert
  /-- PERST_DEASSERT (R441). PERST_N deasserted, and link training may start. -/
  | perstDeassert
  /-- PCIE_LINK_DOWN (R412). The PCI Express link goes down without reset, and records are held. -/
  | pcieLinkDown
  /-- D3HOT_ENTRY (R412). A function enters D3hot and refuses doorbells and BAR accesses. -/
  | d3hotEntry (f : Nat)
  /-- D0_RETURN (R412). A function returns to D0, which acts as its FLR. -/
  | d0Return (f : Nat)
  /-- VAUX_POWER_ON (R439). VAUX becomes present, and the management start-up runs. -/
  | vauxPowerOn (c : BootChecks)
  /-- VBUS_STARTUP (R440). The VBUS start-up begins once the management part is done and VBUS is present. -/
  | vbusStartup
  /-- REFCLK_ARRIVAL (R440). The PCI Express reference clock arrives, and timers are calibrated. -/
  | refclkArrival (us : Nat) (failed : List Nat) (later : Bool := false)
  /-- VBUS_LOW (R437). VBUS has been below 10.8 V for 1 ms, and a report is raised. -/
  | vbusLow (mv : Nat)
  /-- VBUS_HIGH (R437). VBUS has been above 13.2 V for 1 ms, and a report is raised. -/
  | vbusHigh (mv : Nat)
  /-- VBUS_COLLAPSE (R438). VBUS has been below 10.0 V for 50 µs, and the VBUS domain stops. -/
  | vbusCollapse (mv : Nat)
  /-- VAUX_OUT_OF_RANGE (R437). VAUX has been out of range for 1 ms, with a Curator reset below 3.0 V. -/
  | vauxOutOfRange (mv : Nat)
  /-- VIO_OUT_OF_RANGE (R437). VIO has been out of range for 1 ms, and I3C becomes unavailable. -/
  | vioOutOfRange (mv : Nat)
  /-- POWER_STAGE_FAILED (R437). A power stage fails while its rail group stays within rating, and the stage is retired. -/
  | powerStageFailed (stage : Nat)
  /-- POWER_STAGE_FAILED_OUT_OF_RATING (R438). A power stage failure leaves its rail group out of rating, and the VBUS domain stops. -/
  | powerStageFailedOutOfRating (stage : Nat)
  /-- LIMIT_NOT_MET (R445). The power loop has stayed over its limit at 550 mV for 100 ms, and a report is raised. -/
  | limitNotMet (mv : Nat)
  /-- PCIE_REFCLK_LOST (R437). The reference clock has been lost for 10 µs, and the VBUS domain stops. -/
  | pcieRefclkLost (mv : Nat)
  /-- VBUS_CAUSE_CLEARED (R438). The stop cause has been clear for 10 ms, and the VBUS domain restarts. -/
  | vbusCauseCleared
  /-- POWER_LOOP_TICK (R444). Every 1 ms the Curator evaluates power and temperature and moves the core rail. -/
  | powerLoopTick (r : Readings)
  /-- THERMAL_TRIP (R446). A die comparator reads 115 °C, and the VBUS domain is shut down. -/
  | thermalTrip (die : Nat) (celsius : Nat)
  /-- MRESET (R442). MRESET_N is asserted, and all of start-up runs again. -/
  | mreset (c : BootChecks)
  /-- MGT_CLK_LOST (R486). The management clock is lost, and 10BASE-T1S becomes unavailable. -/
  | mgtClkLost
  /-- CURATOR_RESTART (R443). The Curator restarts on a fault or its watchdog and rolls back any unfinished request; with `down` it has
  gone down and does not run yet. -/
  | curatorRestart (c : BootChecks) (down : Bool := false)
  /-- TILE_FAILURE (R40). A bound tile fails, and a spare takes its number or the tile is removed. -/
  | tileFailure (t choice : Nat)
  /-- SPARE_TILE_FAILURE (R493). A spare tile fails and is retired. -/
  | spareTileFailure (t : Nat)
  /-- TILE_RETIRE (R386). At the next command boundary a worn tile is retired to a spare. -/
  | tileRetire (t choice : Nat)
  /-- FLASH_READ_ONLY (R390). Flash over-provisioning is used up, and the flash tier turns read-only. -/
  | flashReadOnly (die : Nat)
  /-- PATROL_READ (R268). The patrol scrubber reads and corrects a written page or granule. -/
  | patrolRead (address : Nat) (err : MemErr) (newPeriod : Bool)
  /-- PC_SAMPLE (R465). A traced tile takes a program-counter sample every pc_sample_period steps. -/
  | pcSample (t : Nat)
  /-- COUNTER_PUBLICATION (R461). Every 65,536 steps a unit copies its active counter bank into the published bank. -/
  | counterPublication (cls unit : Nat)
  /-- DEVICE_COUNTER_PUBLICATION (R461). Every 1 ms a device-scope unit publishes its counters. -/
  | deviceCounterPublication (cls unit : Nat)
  /-- PCIE_LINK_UP (R408). The PCI Express link completes training and comes up, so held event records are written to a host-memory ring and BAR2 and doorbells are reachable again. -/
  | pcieLinkUp (generation width : Nat)
  /-- VIO_PRESENT (R436). VIO comes within its operating range, so I3C becomes available and PERST_N reads the host's level. -/
  | vioPresent (perstAsserted : Bool)
  /-- MGT_CLK_RETURN (R486). The management reference clock returns, so 10BASE-T1S becomes available again. -/
  | mgtClkReturn
  deriving DecidableEq, Repr

end Sys2Proof
end

