-- ==== Sys2Proof/Decode.lean ====
section
/-! DEFINITION. Commands spelled as words of the table. No row of spec/opcode_table.json gives bits, so no word spells one. -/

namespace Sys2Proof

/-- The command a word spells by the table's bits: the table gives bits to none of its rows, so none. -/
def decodeTableWord (nbits w : Nat) : Option Instr :=
  match nbits, w with
  | _, _ => none

end Sys2Proof
end

