-- ==== Sys2Proof/Config.lean ====
section
/-! DEFINITION. What an implementation of the D1280 fixes and the manual leaves open: opaque constants without a body, so
that nothing can be proved of a value of theirs. Each names the rule that leaves it open and its row of the assumption log. -/

namespace Sys2Proof.Config

/-- Vector transcendentals (R207, Table 8-5): the FP32 pattern the engine gives for operation code `op` on FP32 operand
`a`. Only the bound of Table 8-5 is stated; Machine/Transcendental.lean holds the value to that bound (log entry 9). -/
opaque transcendental (op : Nat) (a : Nat) : BitVec 32

/-- Byte `i` of Quelum's firmware public key, whose digest the mask ROM holds (R452), fixed at manufacture (log entry 10). -/
opaque romKey (i : Nat) : Byte

/-- A 32-byte draw of the security block's random source, used for `enrol_nonce` (R455); `n` numbers the draws (log entry 10). -/
opaque nonceByte (n i : Nat) : Byte

/-- The inverse DCT of the primer (R313): how sample `place` of a block with the dequantized coefficients `coefs` lies to the exact result,
0 one below, 1 on it, 2 one above, taken modulo 3. Only the accuracy of ISO/IEC 10918-1 is promised (log entry 156). -/
opaque idct (coefs : List Int) (place : Nat) : Nat

/-- The body of the device's answer to an SPDM request (R456): the standard fixes it, the manual does not (log entry 12). -/
opaque spdmAnswer (request : Nat) (bytes : List Byte) : List Byte

/-- Which line of two unordered writers a byte ends with, and other orders the manual leaves to timing (R261, R292):
`n` numbers the choices (log entry 13). -/
opaque coin (n : Nat) : Bool

/-- How many places the Curator's intake of fault-line copies has beyond the first: the manual says that it can be full and gives no
size (R32; log entry 124). -/
opaque curatorIntake : Nat

/-- A value the manual does not state for an output it calls undefined or leaves unsaid; `n` numbers them (log entry 13). -/
opaque freeNat (n : Nat) : Nat

/-- Quelum's Vendor ID (R397; log entry 14). -/
opaque vendorId : Nat

/-- The bytes of the identity record that manufacture chose, by their offset in it (R449, Table 17-10; log entry 14). -/
opaque identityByte (offset : Nat) : Byte

/-- Byte `i` of the device identity public key, derived from the PUF seed (R454; log entry 14). -/
opaque deviceKey (i : Nat) : Byte

/-- The digest of the mask ROM that measurement 1 holds (Table 17-12; log entry 14). -/
opaque maskRomDigest : List Byte

/-- The device certificate chain (R454; log entry 14). -/
opaque deviceCert : List Byte

/-- The text `fw_version` reads for a firmware image, from the image's body digest (R434; log entry 14). -/
opaque fwVersion (digest : List Byte) : List Byte

/-- Codes of fields whose values the manual does not give (R427, R434): 0 the I3C transport of `sessions`, 1 its owner role,
2 its observer role (log entry 14). -/
opaque freeCode (which : Nat) : Nat

end Sys2Proof.Config
end

