-- ==== Sys2Proof/Machine/Bits.lean ====
section
/-! DEFINITION. Bit fields, byte order, tables, byte memories, and the published checks and generators the manual names:
CRC-32C, SHAKE256 and Philox-4x32-10. -/

namespace Sys2Proof.Machine

/-! ### Fields and byte order (R3, R4) -/

/-- Bits [lo + n - 1 : lo] of `w`. -/
def fld (w lo n : Nat) : Nat := w / 2 ^ lo % 2 ^ n

/-- The number a little-endian run of bytes spells (R3). -/
def leNat : List Byte → Nat
  | [] => 0
  | b :: bs => b.toNat + 256 * leNat bs

/-- The `n` little-endian bytes of `v` (R3); bits beyond them are dropped. -/
def leBytes : Nat → Nat → List Byte
  | 0, _ => []
  | n + 1, v => BitVec.ofNat 8 (v % 256) :: leBytes n (v / 256)

/-- `n` bytes of a structure from offset `off`; bytes beyond its end read as zero. -/
def bytesAt (s : List Byte) (off n : Nat) : List Byte :=
  let t := (s.drop off).take n
  t ++ List.replicate (n - t.length) 0

/-- The field of `n` bytes at offset `off` of a structure (R3, R4). -/
def at8 (s : List Byte) (off n : Nat) : Nat := leNat ((s.drop off).take n)

/-- `n` as a two's complement number of `w` bits. -/
def toSigned (w n : Nat) : Int := if n % 2 ^ w < 2 ^ (w - 1) then (n % 2 ^ w : Nat) else ((n % 2 ^ w : Nat) : Int) - 2 ^ w

/-- The `w`-bit two's complement pattern of `z`. -/
def ofSigned (w : Nat) (z : Int) : Nat := (z % (2 ^ w : Nat)).toNat

/-- ceil(a / b); 0 when b is 0. -/
def ceilDiv (a b : Nat) : Nat := if b = 0 then 0 else (a + b - 1) / b

/-- floor(log2 n), 0 for 0. -/
def log2 (n : Nat) : Nat := Nat.log2 n

/-- `v` rounded up to a multiple of `m`. -/
def roundUp (v m : Nat) : Nat := ceilDiv v m * m

/-- All bytes are zero: a reserved range (R5). -/
def allZero (s : List Byte) : Bool := s.all (· == 0)

/-- The reserved bytes [off, off + n) of a structure are zero (R5). -/
def rsv (s : List Byte) (off n : Nat) : Bool := allZero ((s.drop off).take n)

/-- The rule of R88 in exact arithmetic: length ≤ size and offset ≤ size - length. -/
def within (offset length size : Nat) : Bool := decide (length ≤ size) && decide (offset ≤ size - length)

/-- The positions lo, lo + 1, … hi - 1. -/
def span (lo hi : Nat) : List Nat := (List.range (hi - lo)).map (lo + ·)

/-- The first element of a list that `p` accepts, with its place. -/
def findAt {α : Type} (p : α → Bool) : List α → Nat → Option (Nat × α)
  | [], _ => none
  | x :: xs, i => if p x then some (i, x) else findAt p xs (i + 1)

/-- A list with the element at `i` taken out. -/
def dropAt {α : Type} (xs : List α) (i : Nat) : List α := xs.take i ++ xs.drop (i + 1)

/-- A list with the element at `i` replaced. -/
def putAt {α : Type} (xs : List α) (i : Nat) (x : α) : List α := xs.set i x

/-- A counter that stops at `top` (R165, R227, R462). -/
def addSat (top a b : Nat) : Nat := min top (a + b)

/-! ### Tables -/

/-- What a table holds for `k`, `d` where it lists nothing. -/
def tget {α : Type} (d : α) : Tab α → Nat → α
  | [], _ => d
  | (i, x) :: t, k => if i = k then x else tget d t k

/-- A table with `k` set to `x`, keys kept rising. -/
def tset {α : Type} : Tab α → Nat → α → Tab α
  | [], k, x => [(k, x)]
  | (i, y) :: t, k, x => if k < i then (k, x) :: (i, y) :: t else if i = k then (k, x) :: t else (i, y) :: tset t k x

/-- A table without `k`. -/
def tdel {α : Type} (t : Tab α) (k : Nat) : Tab α := t.filter (fun e => e.1 != k)

/-- A table without the keys that `p` accepts. -/
def tdelIf {α : Type} (p : Nat → Bool) (t : Tab α) : Tab α := t.filter (fun e => !p e.1)

/-- Every value of a table changed by its key. -/
def tmap {α : Type} (f : Nat → α → α) (t : Tab α) : Tab α := t.map fun e => (e.1, f e.1 e.2)

/-- A rising list of numbers with `k` put in. -/
def insertSet : List Nat → Nat → List Nat
  | [], k => [k]
  | i :: t, k => if k < i then k :: i :: t else if i = k then i :: t else i :: insertSet t k

/-! ### Byte memories -/

/-- The byte at `a`; an unlisted byte reads as zero (R56, Table 2-8, R440 order 4). -/
def mget : Mem → Nat → Byte
  | [], _ => 0
  | (i, b) :: m, a => if i = a then b else mget m a

/-- The memory with byte `b` at `a`, in canonical form: a zero byte is not listed. -/
def mset : Mem → Nat → Byte → Mem
  | [], a, b => if b = 0 then [] else [(a, b)]
  | (i, c) :: m, a, b =>
    if a < i then (if b = 0 then (i, c) :: m else (a, b) :: (i, c) :: m)
    else if i = a then (if b = 0 then m else (a, b) :: m)
    else (i, c) :: mset m a b

/-- The memory with `bs` at addresses `a`, `a + 1`, …. -/
def mputs (m : Mem) (a : Nat) (bs : List Byte) : Mem :=
  m.takeWhile (fun e => e.1 < a)
    ++ ((bs.zipIdx a).filterMap fun (b, i) => if b = 0 then none else some (i, b))
    ++ m.dropWhile (fun e => e.1 < a + bs.length)

/-- The cells of `m` from `a` on, read out as `n` bytes in one pass. -/
def mreads : Mem → Nat → Nat → List Byte
  | _, _, 0 => []
  | m, a, n + 1 =>
    match m with
    | [] => 0 :: mreads [] (a + 1) n
    | (i, b) :: rest => if i = a then b :: mreads rest (a + 1) n else 0 :: mreads ((i, b) :: rest) (a + 1) n

/-- `n` bytes from `a`. -/
def mgets (m : Mem) (a n : Nat) : List Byte := mreads (m.dropWhile (fun e => e.1 < a)) a n

/-- The memory with every byte of [a, a + n) back to zero. -/
def mclear (m : Mem) (a n : Nat) : Mem := m.filter (fun e => decide (e.1 < a) || decide (a + n ≤ e.1))

/-- Canonical form: addresses strictly rising and no zero byte listed. -/
def Memory.wf : Mem → Bool
  | [] => true
  | [(_, b)] => b != 0
  | (i, b) :: (j, c) :: m => b != 0 && decide (i < j) && Memory.wf ((j, c) :: m)

/-! ### CRC-32C (R307, R329, R423) -/

/-- One bit of the reflected Castagnoli CRC. -/
def crcBit (c : Nat) : Nat := if c % 2 = 1 then (c / 2) ^^^ 0x82F63B78 else c / 2

def crcByte (c : Nat) (b : Byte) : Nat :=
  crcBit (crcBit (crcBit (crcBit (crcBit (crcBit (crcBit (crcBit (c ^^^ b.toNat))))))))

/-- CRC-32C of a run of bytes: polynomial 0x1EDC6F41 reflected, initial and final complement (PRESUMED: the published
definition the manual names without repeating, log entry 15). -/
def crc32c (s : List Byte) : Nat := (s.foldl crcByte 0xFFFFFFFF) ^^^ 0xFFFFFFFF

/-! ### SHAKE256 with 256-bit output (R69, R370, R449) -/

/-- A lane rotated left. -/
def rotl (x : Word64) (n : Nat) : Word64 := x.rotateLeft n

/-- A state of Keccak-f[1600] (FIPS 202): five planes of five lanes, plane `y` holding lanes (0, y) to (4, y). -/
abbrev Planes := List (List Word64)

/-- Two planes added lane by lane. -/
def xorPlane (p q : List Word64) : List Word64 := p.zipWith (· ^^^ ·) q

/-- Step theta: to each column the parities of the column before it and, rotated by one, of the column after it. -/
def thetaStep (a : Planes) : Planes :=
  let parity := a.foldl xorPlane (List.replicate 5 0)
  a.map (xorPlane (xorPlane (parity.rotateRight 1) ((parity.rotateLeft 1).map (rotl · 1))))

/-- The offsets of step rho from lane (x, y) on, as FIPS 202 walks them: the t-th lane visited gets (t + 1)(t + 2) / 2. -/
def rhoWalk : Nat → Nat → Nat → Nat → Tab Nat
  | 0, _, _, _ => []
  | left + 1, t, x, y => (x + 5 * y, (t + 1) * (t + 2) / 2 % 64) :: rhoWalk left (t + 1) y ((2 * x + 3 * y) % 5)

/-- Steps rho and pi: lane (x, y) of the result is lane (x + 3 y, x), rotated by that lane's offset. -/
def rhoPiStep (offsets : Tab Nat) (a : Planes) : Planes :=
  (List.range 5).map fun y => (a.zipIdx).map fun (plane, x) =>
    let from_ := (x + 3 * y) % 5
    rotl (plane.getD from_ 0) (tget 0 offsets (from_ + 5 * x))

/-- Step chi on one plane. -/
def chiStep (p : List Word64) : List Word64 :=
  xorPlane p (((p.rotateLeft 1).map (~~~ ·)).zipWith (· &&& ·) (p.rotateLeft 2))

/-- The bits of step iota as FIPS 202 generates them: a round's constant takes seven outputs of the feedback register `r`, the j-th at
bit 2^j - 1. What is answered is the constant and the register after them. -/
def iotaBits : Nat → Nat → Nat → Nat × Nat
  | 0, _, r => (0, r)
  | left + 1, j, r =>
    let rest := iotaBits left (j + 1) (if r < 128 then 2 * r else (2 * r - 256) ^^^ 0x71)
    (r % 2 * 2 ^ (2 ^ j - 1) + rest.1, rest.2)

/-- Rounds of Keccak-f[1600], the feedback register at `r`. -/
def keccakRounds (offsets : Tab Nat) : Nat → Nat → Planes → Planes
  | 0, _, a => a
  | left + 1, r, a =>
    let iota := iotaBits 7 0 r
    keccakRounds offsets left iota.2
      (match (rhoPiStep offsets (thetaStep a)).map chiStep with
       | (lane :: lanes) :: planes => ((lane ^^^ BitVec.ofNat 64 iota.1) :: lanes) :: planes
       | other => other)

def keccakF (a : Planes) : Planes := keccakRounds ((0, 0) :: rhoWalk 24 0 1 0) 24 1 a

/-- The rate of SHAKE256 in bytes. -/
def shakeRate : Nat := 136

/-- The lanes of a block, plane by plane; what lies beyond the rate is zero. -/
def blockPlanes (block : List Byte) : Planes :=
  (List.range 5).map fun y => (List.range 5).map fun x => BitVec.ofNat 64 (at8 block (8 * (x + 5 * y)) 8)

/-- One block of the rate absorbed. -/
def shakeAbsorb (a : Planes) (block : List Byte) : Planes := keccakF (a.zipWith xorPlane (blockPlanes block))

/-- The sponge over `left` whole blocks and the rest of a message, padded with 0x1F and, in the last byte of the rate, 0x80. -/
def shakeSponge : Nat → Planes → List Byte → Planes
  | 0, a, rest =>
    let pad := leBytes (shakeRate - rest.length) (0x1F + 0x80 * 256 ^ (shakeRate - rest.length - 1))
    shakeAbsorb a (rest ++ pad)
  | left + 1, a, message => shakeSponge left (shakeAbsorb a (message.take shakeRate)) (message.drop shakeRate)

/-- SHAKE256, 256-bit output: the first four lanes squeezed (PRESUMED: FIPS 202, which the manual names, log entry 15). -/
def shake256 (message : List Byte) : List Byte :=
  let a := shakeSponge (message.length / shakeRate) (List.replicate 5 (List.replicate 5 0)) message
  (a.flatten.take 4).flatMap fun lane => leBytes 8 lane.toNat

/-! ### Philox-4x32 with 10 rounds (R368) -/

/-- One round: the four counter words and the two key words. -/
def philoxRound (c : Nat × Nat × Nat × Nat) (k : Nat × Nat) : Nat × Nat × Nat × Nat :=
  let p0 := 0xD2511F53 * c.1
  let p1 := 0xCD9E8D57 * c.2.2.1
  ((p1 / 2 ^ 32) ^^^ c.2.1 ^^^ k.1, p1 % 2 ^ 32, (p0 / 2 ^ 32) ^^^ c.2.2.2 ^^^ k.2, p0 % 2 ^ 32)

def philoxRounds : Nat → Nat × Nat × Nat × Nat → Nat × Nat → Nat × Nat × Nat × Nat
  | 0, c, _ => c
  | n + 1, c, k => philoxRounds n (philoxRound c k) ((k.1 + 0x9E3779B9) % 2 ^ 32, (k.2 + 0xBB67AE85) % 2 ^ 32)

/-- The draw of R368 for easel seed `seed`, stream number `r`, training step `t` and draw index `i`. -/
def draw (seed r t i : Nat) : Nat :=
  let k0 := seed % 2 ^ 32
  let k1 := (seed / 2 ^ 32 % 2 ^ 32) ^^^ r
  let q := i / 4
  let o := philoxRounds 10 (q % 2 ^ 32, q / 2 ^ 32 % 2 ^ 32, t % 2 ^ 32, t / 2 ^ 32 % 2 ^ 16) (k0, k1)
  match i % 4 with
  | 0 => o.1
  | 1 => o.2.1
  | 2 => o.2.2.1
  | _ => o.2.2.2

/-- The first `n` numbers of a list, zero where it is shorter. -/
def padded (n : Nat) (l : List Nat) : List Nat := (List.range n).map fun i => l.getD i 0

end Sys2Proof.Machine
end

