-- ==== Sys2Proof/Machine/State.lean ====
section
/-! DEFINITION. The state of the D1280, all of it as plain data: what the manual gives the device, the commands that wait,
and the model's own bookkeeping (named so where it stands). Tables (`Tab`) list only what differs from the value the
reading side gives an unlisted number: a tile, a semaphore or an easel that is not listed is in its cleared state. -/

namespace Sys2Proof.Machine

/-! ### Records and outputs -/

/-- An event record (R9, Table 0-4); its check field is formed when it is written. -/
structure Event where
  code : Nat
  easel : Nat
  unitClass : Nat
  unitId : Nat
  seq : Nat
  detailA : Nat
  detailB : Nat
  deriving DecidableEq, Repr

/-- What leaves the device, oldest first: writes to host memory, MSI-X messages, completions of BAR and configuration
requests, dictionary responses, notices, flits, SPDM and Neighbor Discovery answers, lines driven. The list of them is the
model's own record of what an observer at the boundary sees (log entry 4). -/
inductive Out where
  | hostWrite (function address : Nat) (bytes : List Byte)
  | msix (function vector : Nat)
  | barRead (function : Nat) (status : Nat) (bytes : List Byte)
  | cfg (function status value : Nat)
  | response (transport : Transport) (requester : Nat) (bytes : List Byte)
  | notice (target count : Nat) (record : List Byte)
  | flit (port : Nat) (bytes : List Byte)
  | spdm (transport : Transport) (requester : Nat) (status : Nat) (bytes : List Byte)
  | neighbor (target : List Byte)
  | traceLine (die : Nat)
  deriving DecidableEq, Repr

/-! ### Easels, canvases and commands -/

/-- Table 2-2. -/
inductive EaselMode where
  | free | binding | bound | draining | clearing | faulted
  deriving DecidableEq, Repr

/-- A formula record (R77, Table 3-7): its factors are pairs of slot (0xFF unused) and divisor. -/
structure Formula where
  offset : Int
  coefficient : Int
  factors : List (Nat × Nat)
  deriving DecidableEq, Repr

/-- A panel entry (R72, Table 3-5). -/
structure Panel where
  number : Nat
  overlap : Bool
  origin : Nat
  rows : Nat
  cols : Nat
  stride : Nat
  program : Nat
  mSlot : Nat
  nSlot : Nat
  mGran : Nat
  nGran : Nat
  planFirst : Nat
  planCount : Nat
  deriving DecidableEq, Repr

/-- A buffer plan entry (R74, Table 3-6). -/
structure BufPlan where
  id : Nat
  dbl : Bool
  offset : Nat
  size : Nat
  used : Nat
  deriving DecidableEq, Repr

/-- A semaphore entry (R78, Table 3-8). -/
structure SemDecl where
  id : Nat
  kind : Nat
  initial : Nat
  max : Nat
  produce : Nat
  consume : Nat
  final : Nat
  home : Nat
  deriving DecidableEq, Repr

/-- A work counter entry (R79). -/
structure CtrDecl where
  number : Nat
  tickets : Nat
  bitmap : Nat
  first : Nat
  deriving DecidableEq, Repr

/-- A block of a stream descriptor (R251, Table 10-5) with its payload bytes. -/
structure Block where
  kind : Nat
  src : Nat
  dst : Nat
  page : Bool
  type : Nat
  srcBase : Nat
  dstBase : Nat
  srcExt : Nat
  dstExt : Nat
  position : Nat
  channel : Nat
  lane : Nat
  payload : List Byte
  deriving DecidableEq, Repr

/-- A stream descriptor (R251, Table 10-4). -/
structure StreamDesc where
  id : Nat
  panel : Nat
  slice : Nat
  localBytes : Nat
  rate : Nat
  localBuf : Nat
  dbl : Bool
  blocks : List Block
  deriving DecidableEq, Repr

/-- A reduction entry (R346, Table 13-7). -/
structure RedEntry where
  id : Nat
  channel : Nat
  wire : Nat
  srcSpace : Nat
  shardSpace : Nat
  slice : Nat
  trigger : Nat
  done : Nat
  triggerValue : Nat
  segments : Nat
  srcBase : Nat
  shardBase : Nat
  scaleAddr : Nat
  healthBase : Nat
  deriving DecidableEq, Repr

/-- One sheet of a canvas (R71). A program carries the directory index of its section, which panels name (R72). -/
structure Sheet where
  panels : List Panel
  bufs : List BufPlan
  programs : List (Nat × List Word64)
  streams : List StreamDesc
  sems : List SemDecl
  ctrs : List CtrDecl
  reds : List RedEntry
  deriving DecidableEq, Repr

/-- A canvas (R66 to R81): the checked image, and the logical tile map taken at the commit (R72). -/
structure Canvas where
  id : Nat
  version : Nat
  digest : List Byte
  slots : List (Nat × Nat)
  formulas : List Formula
  sheets : List Sheet
  tilesRequired : Nat
  tileMap : List Nat
  deriving DecidableEq, Repr

/-- Where a taken command stands: taken, dispatched, or started (R402 to R404). -/
inductive Phase where
  | taken | dispatched | started
  deriving DecidableEq, Repr

/-- A command from its taking to its end (R402 to R406). `slots` is its slot vector (R76). -/
structure Cmd where
  queue : Nat
  seq : Nat
  bytes : List Byte
  intact : Bool
  phase : Phase
  slots : List Nat
  sentFabric : Bool
  deriving DecidableEq, Repr

/-- The register block of a command queue (R398, Table 15-4), or the event queue's registers of Table 15-3 (there `head`
and `tail` are the event head and event tail). `state` is Table 15-4's. `inHoldoff` and `covered` are the holdoff
interval in progress and a record written in it (R409). -/
structure Queue where
  base : Nat
  size : Nat
  enable : Bool
  inEasel : Bool
  irq : Bool
  vector : Nat
  head : Nat
  tail : Nat
  state : Nat
  cause : Nat
  holdoff : Nat
  completed : Nat
  inHoldoff : Bool
  covered : Bool
  deriving DecidableEq, Repr

/-- An MSI-X table entry (R409) and its pending bit. -/
structure MsixEntry where
  address : Nat
  data : Nat
  masked : Bool
  pending : Bool
  deriving DecidableEq, Repr

/-- The step-verdict counts of one training step (R166). -/
structure StepCounts where
  step : Nat
  nonfinite : Nat
  saturated : Nat
  deriving DecidableEq, Repr

/-- What an image says of its step (R370): varnish select, canvas id, seed, k(t + 1), clean-step count, the step's update block, the glaze
entries and the extra extents. -/
structure ImageFacts where
  select : Nat
  canvas : Nat
  seed : Nat
  next : Int
  clean : Nat
  block : List Byte
  entries : List (List Byte)
  extents : List (Nat × Nat)
  deriving DecidableEq, Repr

/-- A checkpoint drain or export under way (R365, R369, R392): its number, layer and step, the varnish buffer and whether it still
holds it, where the image comes from (`via`: 0 the buffer, 1 the stage, 2 the flash slot of its step), how far it is (`phase`: 0 not
begun, 1 the payload or the stage copy under way, 2 the header), its destination, export format, the flash slot, the header, and what
the image says of its step. -/
structure Drain where
  id : Nat
  layer : Nat
  step : Nat
  buffer : Nat
  held : Bool
  via : Nat
  phase : Nat
  space : Nat
  address : Nat
  position : Nat
  channel : Nat
  format : Nat
  slot : Nat
  header : List Byte
  facts : ImageFacts
  deriving DecidableEq, Repr

/-- An update in progress (R361, R362): its step, its block and glaze table as checked, whether the units have run, whether the step
was skipped, the elements not updated, the entries whose done semaphore is awaited, whether its wait for the buffer was counted, and the
ranges of easel memory of the buffer that the units write (R367). -/
structure Update where
  seq : Nat
  step : Nat
  block : List Byte
  entries : List (List Byte)
  applied : Bool
  skipped : Bool
  nonfinite : Nat
  waiters : List Nat
  stalled : Bool
  writes : List (Nat × Nat)
  deriving DecidableEq, Repr

/-- A reduction firing (R350, R353): which segments have landed, and the counts of the shard's health record. -/
structure Firing where
  channel : Nat
  id : Nat
  step : Nat
  seq : Nat
  scale : Int
  landed : List Nat
  health : List Nat
  sent : Bool
  complete : Bool
  deriving DecidableEq, Repr

/-- A pentimento log entry on its way to the partner (R373): its step, its header and address, and its phase: 0 the payload, 1 the
header, 2 acknowledged. -/
structure LogState where
  step : Nat
  header : List Byte
  address : Nat
  phase : Nat
  deriving DecidableEq, Repr

/-- A decided verdict (R166, R169): whether the step was skipped, k(t), k(t + 1) and the clean-step count after t. -/
structure Verdict where
  skipped : Bool
  k : Int
  next : Int
  clean : Nat
  deriving DecidableEq, Repr

/-- A restore, takeover or spreading under way (R376, R378, R383): `kind` 0 to 2, the image's layer, slot, position, channel and base
as its record gives them, the step it names, what is fetched (`phase`: 0 the header, 1 the images, 2 the log, 3 a verdict total is
awaited, 4 a search for the second slot's header), the length of a slot, the bytes wanted, those that came by offset and the offsets of
the poisoned ones, the image chosen, the log entries still to
replay with the loss scale and clean-step count before them, and the elements of a spreading (R383). -/
structure Restore where
  kind : Nat
  layer : Nat
  slot : Nat
  position : Nat
  channel : Nat
  base : Nat
  step : Nat
  phase : Nat
  room : Nat
  want : Nat
  parts : Tab (List Byte)
  bad : List Nat
  image : List Byte
  log : List (List Byte)
  k : Int
  clean : Nat
  elements : List (Nat × Nat × Nat × Nat)
  deriving DecidableEq, Repr

/-- An easel (R39 to R65) with what the manual keeps for each easel: its record and commands, its numerics (R166 to R171),
its resilience state (R359 to R393) and its function's registers (Table 15-3). `moved` is the active sheet as a reweight left it
(R232), `rearranged` the one a reweight under way will leave. `verdicts` holds each training step decided since the record of R405
was cleared (R166, R170), `startCounts` and `startTickets` the semaphores' counts and the work counters' values as the run-work command began
and `rerun` the die and physical id of each failed tile for which it is to run again (R385), `lossNext` the k that the next training step begins with, `wordSent` the step whose verdict word was sent. -/
structure Easel where
  mode : EaselMode
  keyEpoch : Nat
  lastSeq : Nat
  sheet : Nat
  canvas : Option Canvas
  loading : Option Canvas
  rearranged : Option Sheet
  moved : Option Sheet
  slots : List Nat
  cmds : List Cmd
  nextQueue : Nat
  openStep : Nat
  closedStep : Nat
  lastDone : Nat
  queues : Tab Queue
  events : Queue
  lost : Nat
  dropped : Nat
  held : List Event
  windowBase : Nat
  msix : Tab MsixEntry
  faultAtBoundary : Bool
  /-- FAULTED by a dispatch rejection: commands dispatched before it continue (R86). -/
  rejected : Bool
  -- numerics
  lossExp : Int
  clean : Nat
  lossFresh : Bool
  verdictStep : Nat
  verdictSkipped : Bool
  verdicts : Tab Verdict
  lossNext : Option Int
  wordSent : Nat
  skippedSteps : Nat
  counts : List StepCounts
  awaiting : List Nat
  startCounts : List (Nat × Nat)
  startTickets : List (Nat × Nat)
  rerun : List (Nat × Nat)
  -- glaze units, varnish buffers and checkpoints
  select : Nat
  lastApplied : Nat
  varnishStalls : Nat
  glazeStats : List Nat
  update : Option Update
  drains : List Drain
  nextDue : List Nat
  ckptLast : List Nat
  partnerSlot : Nat
  flashSlot : Nat
  logPos : Nat
  logs : List LogState
  lastBlock : List Byte
  lastEntries : List (List Byte)
  nextDrain : Nat
  restore : Option Restore
  estimate : Nat
  firings : List Firing
  fired : List (Nat × Nat × Nat)
  ticketDups : Nat
  deriving DecidableEq, Repr

/-! ### Tiles -/

/-- A frame of the loop stack (R96): first and last word of the body, the count read, the iteration, the index register. -/
structure LoopFrame where
  first : Nat
  last : Nat
  count : Nat
  iter : Nat
  index : Nat
  deriving DecidableEq, Repr

/-- What the tile is held at (R95, R108, R110): nothing, a blocked wait or waitv, an await, a chain with a return (R217). -/
inductive Hold where
  | none | sem | value | await (stream : Option Nat) | chain
  deriving DecidableEq, Repr

/-- The kinds a written element is counted under (R165): each element under at most one of them. -/
inductive Tally where
  | plain | zero | saturated | nan | infinite
  deriving DecidableEq, Repr

/-- What the conversion that wrote an element counted it as, where its bits alone do not tell it (R158 to R161, R165): a saturation, a NaN's
substitute, or an element of a block-scaled format, with the FP32 pattern of its magnitude. A place keeps the tag until it is written
again (DEDUCED, log entry 25). -/
structure Tag where
  tally : Tally
  amax : Nat
  deriving DecidableEq, Repr

/-- A matrix instruction in the array queue (R100, R112): its program order, pc, its operands as checked at issue, and whether its panel
is in overlap mode (R128). -/
structure MmaOp where
  order : Nat
  pc : Nat
  word : Word64
  a : Nat
  b : Nat
  c : Nat
  units : List Nat × List Nat
  m : Nat
  n : Nat
  k : Nat
  fa : Nat
  fb : Nat
  fc : Nat
  seed : Bool
  partialOut : Bool
  scale : Int
  overlap : Bool
  deriving DecidableEq, Repr

/-- A chain in the vector queue (R106, R112): its program order, pc, the descriptor as read and checked at issue, the
evaluated value sources, the parameter register, the units it reads and writes (R220), whether it waits for the verdict of its
training step (R216), and the local-store ranges of its outputs. -/
structure VecOp where
  order : Nat
  pc : Nat
  desc : List Byte
  vals : List Int
  param : Word64
  reg : Nat
  ret : Bool
  units : List Nat × List Nat
  verdict : Bool
  outs : List (Nat × Nat)
  deriving DecidableEq, Repr

/-- A tile (Table 1-3, R90 to R92). Its local store lies in the device memory at Table 10-2's address. `counters` is the
active bank (Table 18-4), `published` the published one with the sequence number and final mark of it (R461). -/
structure Tile where
  program : List Word64
  pc : Nat
  running : Bool
  ended : Bool
  regs : Tab Word64
  loops : List LoopFrame
  hold : Hold
  arrayQ : List MmaOp
  vecQ : List VecOp
  order : Nat
  traced : Nat
  counters : List Nat
  countersSeq : Nat
  published : List Nat
  publishedSeq : Nat
  publishedFinal : Bool
  deriving DecidableEq, Repr

/-! ### Synchronization -/

/-- Who waits at a semaphore (R276, R280): a tile, a stream issue to consume, a gated issue, a reduction trigger (R350), or
an entry of an update (R362). -/
inductive Who where
  | tile (t : Nat) | issue (i : Nat) | gate (i : Nat) | reduction (e r : Nat) | update (e entry : Nat)
  deriving DecidableEq, Repr

/-- Whether a reduction waits for its trigger (R350). -/
def Who.isReduction : Who → Bool
  | .reduction _ _ => true
  | .tile _ | .issue _ | .gate _ | .update _ _ => false

/-- A waiter with its operand. -/
structure Waiter where
  who : Who
  n : Nat
  deriving DecidableEq, Repr

/-- A semaphore (R276): count, stored complement, planned maximum, consuming queue, value waiters. -/
structure Sem where
  count : Word32
  comp : Word32
  max : Nat
  queue : List Waiter
  values : List Waiter
  deriving DecidableEq, Repr

/-- The kinds of request a home takes (R277). -/
inductive SyncKind where
  | signal | wait | waitv
  deriving DecidableEq, Repr

/-- A request on its way to its semaphore's home (R276, R277): its easel, id, operand and sender; `after` is the program
order before which the sender's mma and vchain must have completed (R115). `unitClass` and `unitId` name the requester (R290). -/
structure SyncReq where
  kind : SyncKind
  easel : Nat
  sem : Nat
  n : Nat
  who : Who
  after : Nat
  unitClass : Nat
  unitId : Nat
  deriving DecidableEq, Repr

/-- A work counter (R294) with its claim bitmap as the list of claimed tickets, rising. -/
structure Counter where
  value : Nat
  claimed : List Nat
  deriving DecidableEq, Repr

/-! ### Streams -/

/-- A run (R254): its block's index, the length, both addresses, whether it writes zeros (R255), whether its checks have passed, so that
only transfers of what is left of it remain to be formed (R258, R262), and whether its wait for a primer output was counted (R320). -/
structure Run where
  block : Nat
  length : Nat
  src : Nat
  dst : Nat
  zero : Bool
  checked : Bool
  starved : Bool
  deriving DecidableEq, Repr

/-- What a transfer does when it lands: bytes between two places of Table 10-2 or flash, zeros, `len` bytes from offset `off` of a piece
of a window chunk (R180), the same of what a key and value block gives a tile of its panel (R238, `what`: 0 keys, 1 values, 2 mask,
3 header), an output of the primer (R320), or a packet to or from a remote device (R342): a write reads `src`, or sends zeros where there is none, and `slot` names the lane and output of a primer slot it reads. A copy
between two remote addresses is read first, and `got` holds what came with whether it was poisoned until it is written. -/
inductive Move where
  | copy (src dst len : Nat) | zeros (dst len : Nat)
  | chunk (piece off len : Nat) | attention (tile what off len : Nat) | primer (lane output src dst len : Nat)
  | remoteWrite (src : Option Nat) (address len position channel : Nat) (slot : Option (Nat × Nat))
  | remoteRead (address dst len position channel : Nat)
  | remoteCopy (src dst len position channel : Nat) (got : Option (List Byte × Bool))
  deriving DecidableEq, Repr

/-- A transfer (R260, R262): the issue it belongs to, its slack (R264), the arbiters that must still grant it, the request
tag of a remote access, its block, where it reads in the space of its source (R269), and the local stores it uses (R262). -/
structure Xfer where
  id : Nat
  issue : Nat
  move : Move
  slack : Nat
  arbs : List Arb
  sent : Option Nat
  block : Nat
  space : Nat
  addr : Nat
  stores : List Nat
  deriving DecidableEq, Repr

/-- Who asks an arbiter beside the streams (Table 10-9): a primer lane that reads, an easel's intake as it is checked, an
intake that writes its output, by easel and sequence number, a reduction
of an easel, a drain or export of an easel by number, a log entry by step, the glaze units for an easel's update, a read or a write
through a function's BAR2 window, and the trace unit of a base die. -/
inductive Asker where
  | lane (l : Nat) | intake (e : Nat) | output (e seq : Nat) | reduction (e r : Nat) | drain (e id : Nat) | log (e step : Nat) | glaze (e : Nat)
  | bar2 (f : Nat) (write : Bool) | trace (die : Nat)
  deriving DecidableEq, Repr

/-- A request of a unit at its arbiters (R265): its number, which transfers share, its slack, and the arbiters that must still grant
it; none are left once it has been granted. -/
structure Ask where
  id : Nat
  who : Asker
  slack : Nat
  arbs : List Arb
  deriving DecidableEq, Repr

/-- A stream issue (R107): the stream, inputs, local end and completion signal of its instruction, its place in the block list, the
address program's registers (R255), the runs emitted and not yet checked, what is left to move of a checked window or attention block,
the units its local end holds (R113), and whether it has started (R261). -/
structure Issue where
  id : Nat
  easel : Nat
  tile : Nat
  order : Nat
  seq : Nat
  stream : Nat
  p : Word64
  q : Word64
  useLocal : Bool
  buf : Nat
  off : Nat
  signal : Option Nat
  units : List Nat × List Nat
  block : Nat
  apc : Nat
  regs : Tab Word64
  loops : List LoopFrame
  inBlock : Bool
  runs : List Run
  emitted : Nat
  parts : List Move
  begun : Bool
  gates : Nat
  gated : Bool
  consumed : Bool
  finished : Bool
  deriving DecidableEq, Repr

/-- What the slack of a stream at a tile is formed from (R264): bytes landed and drained in the command. `chunk` is the
stripe and chunk of its latest window issue, one above them (R181). -/
structure Flow where
  tile : Nat
  stream : Nat
  seq : Nat
  landed : Nat
  drained : Nat
  chunk : Option (Nat × Nat)
  deriving DecidableEq, Repr

/-- A health record being counted (R165, Table 6-8) for a stream of an easel, with its published copy (R461). -/
structure Health where
  easel : Nat
  stream : Nat
  seq : Nat
  active : List Nat
  published : List Nat
  publishedSeq : Nat
  final : Bool
  deriving DecidableEq, Repr

/-- A command-scope counter bank of a slice or a primer lane (Table 18-1, R461): the active counts with the command sequence
number they belong to, and the published copy with its number and final mark. -/
structure Bank where
  active : List Nat
  seq : Nat
  published : List Nat
  publishedSeq : Nat
  final : Bool
  deriving DecidableEq, Repr

/-- The stream engines (R246 to R274): issues, transfers not yet landed in emit order, the requests of other units at the arbiters,
the numbers given out, flows, health counting, the counters of each slice (Table 18-4), the translation caches (R249) as holder (engine
0 to 31, or 32 for the BAR2 window), easel, virtual page and the device address it was resolved to, the misses of each holder, and for
each flash stack that is in the middle of a 64 KiB block, the issue whose block it is with the bytes of it that have landed (R260). -/
structure Streams where
  issues : List Issue
  xfers : List Xfer
  asks : List Ask
  nextIssue : Nat
  nextXfer : Nat
  flows : List Flow
  health : List Health
  slices : Tab Bank
  caches : List (Nat × Nat × Nat × Nat)
  misses : Tab Nat
  flashTurn : Tab (Nat × Nat)
  deriving DecidableEq, Repr

/-- Memory tiers beside their contents (R56, R267 to R270): written pages by device address over 2 MiB, corrected and
uncorrectable counts, corrected errors of a page in this patrol period, pages alarmed, and flash read-only (R390). A flash block that
streams write is programmed whole (R260): `flashStage` holds what has come by flash offset, and `flashBad` the blocks of it of which
something was poisoned. -/
structure Tiers where
  written : List Nat
  ceCount : Tab Nat
  ueCount : Tab Nat
  sramCe : Tab Nat
  pageCe : Tab Nat
  alarmed : List Nat
  alarms : Tab Nat
  bad : List Nat
  readOnly : Bool
  flashWear : List Nat
  flashKeys : Tab Nat
  flashStage : Mem
  flashBad : List Nat
  deriving DecidableEq, Repr

/-! ### Binding -/

/-- A run of units bound to one easel (R39, Table 2-5): class, first unit, count, placement of the first unit. -/
structure Extent where
  cls : Nat
  first : Nat
  count : Nat
  place : Nat
  easel : Nat
  deriving DecidableEq, Repr

/-- A bind request (R48): not started (R62), draining or clearing, with the states its rollback restores (R52). -/
structure Request where
  op : Nat
  easel : Nat
  source : Nat
  forced : Bool
  erase : Bool
  tag : Nat
  extents : List (Nat × Nat × Nat × Nat)
  draining : Bool
  clearing : Bool
  before : EaselMode
  beforeSource : EaselMode
  deriving DecidableEq, Repr

/-- The binding table and its request (R39 to R65), the role of every tile that is not bindable (Table 16-12), the tile that
serves a retired number (R40), and retired units (R386, R388). -/
structure Binding where
  table : List Extent
  request : Option Request
  status : Nat
  revoke : List (Nat × Nat)
  roles : Tab Nat
  standIn : Tab Nat
  retired : List (Nat × Nat × Nat)
  selftest : Nat
  deriving DecidableEq, Repr

/-! ### Fabric -/

/-- A packet (R341, Table 13-4). -/
structure Packet where
  type : Nat
  channel : Nat
  fenced : Bool
  poisoned : Bool
  destination : Nat
  source : Nat
  epoch : Nat
  tag : Nat
  a : Nat
  b : Nat
  payload : List Byte
  deriving DecidableEq, Repr

/-- A fabric port (R326 to R337): state (Table 13-8), lanes in use and failed, sequence numbers, NAKs without progress, the replay
buffer (sequence number, flit, and the packet whose last flit it is), packets that wait to be sent, credits by channel and as the
peer advertised them, credits to return, bytes of a packet not yet whole by channel with the flits they came in, statistics, the
position the peer declared, and of the FEC stream sent (R328): the codeword counter, the bytes not yet in a codeword, and the symbols of the
latest codeword by lane. -/
structure Port where
  state : Nat
  lanes : List Nat
  failed : List Nat
  ganged : Bool
  txSeq : Nat
  rxSeq : Nat
  nakSent : Bool
  naks : Nat
  replay : List (Nat × List Byte × Option Packet)
  waiting : List Packet
  credits : Tab Nat
  advertised : Tab Nat
  owed : Tab Nat
  partials : Tab (Nat × List Byte)
  stats : List Nat
  peer : Option Nat
  codeword : Nat
  stream : List Byte
  symbols : List (Nat × List Nat)
  deriving DecidableEq, Repr

/-- A packet received whole and not yet handled: its port and the flits of credit its handling returns (R332). -/
structure Arrival where
  port : Nat
  flits : Nat
  packet : Packet
  deriving DecidableEq, Repr

/-- A fence key (R286): sender, channel, tag, packets landed, the posted signal that is pending (semaphore id, packet count, n),
and the port of the latest packet, where its expiry is counted. -/
structure Fence where
  port : Nat
  position : Nat
  channel : Nat
  tag : Nat
  landed : Nat
  posted : Option (Nat × Nat × Nat)
  deriving DecidableEq, Repr

/-- A request sent to a far device and not answered (R342): its tag, easel, packet and port, and what it serves: an issue
and its transfer, a drain (8 times its number, plus the layer), a log entry by step, a restore's fetch by offset. -/
structure Remote where
  tag : Nat
  easel : Nat
  packet : Packet
  port : Nat
  issue : Option Nat
  xfer : Option Nat
  drain : Option Nat
  log : Option Nat
  fetch : Option Nat
  deriving DecidableEq, Repr

/-- The fabric (R326 to R358). `taken` names the port that each spare lane in use serves; `received` the packets that wait to be
handled and `landed` the tagged packets that have landed and not been counted by their fence (R286), `orphans` the keys (sender,
channel, tag) whose posted signal was discarded (R287), `withheld` what was handled and has its credit withheld (R289), `masks` the group port mask
in force of each data channel (R351), and `ignored` by easel the triggers of a reduction that had fired (R350). -/
structure Fabric where
  ports : Tab Port
  taken : Tab Nat
  received : List Arrival
  landed : List Arrival
  fences : List Fence
  orphans : List (Nat × Nat × Nat)
  withheld : List Arrival
  remotes : List Remote
  nextTag : Nat
  masks : Tab Nat
  refclk : List Bool
  ignored : Tab Nat
  deriving DecidableEq, Repr

/-! ### Primer -/

/-- A decoded sample (R309): height and width or frames and channels, channels, bits of an element, whether they are FP32 patterns,
and its elements row by row, channels innermost, as bit patterns; of a text, its tokens. -/
structure Sample where
  a : Nat
  b : Nat
  channels : Nat
  bits : Nat
  float : Bool
  values : List Nat
  deriving DecidableEq, Repr

/-- A record that a lane has taken and that is not delivered (R318): its index in the intake, its lane, sample id, skip code (0 for
none), payload as read, the sample once decoded, and whether its lane has finished with it. -/
structure Output where
  index : Nat
  lane : Nat
  sampleId : Nat
  skip : Nat
  payload : List Byte
  sample : Option Sample
  ready : Bool
  deriving DecidableEq, Repr

/-- A sample placed in a row of text, or about to be delivered (R312, R317): lane, sample id, ordinal, skip code, spare index, skip
index, and the sample as it is or as its spare. -/
structure Placed where
  lane : Nat
  sampleId : Nat
  ordinal : Nat
  skip : Nat
  spare : Nat
  k : Nat
  sample : Sample
  deriving DecidableEq, Repr

/-- What a lane decodes (R302, R316): the intake's easel and command, and the index of the record. -/
structure Lane where
  easel : Nat
  seq : Nat
  index : Nat
  deriving DecidableEq, Repr

/-- An intake (R303, Table 12-1): the command it belongs to and its training step, its block with the defaults in force put in,
whether it has started, records taken, outputs delivered, records that left the reorder buffer, skips so far, the reorder buffer,
spares as decoded, the row of text being filled (R312), bytes read of each slot and slots released, and whether it starved. -/
structure Intake where
  easel : Nat
  seq : Nat
  step : Nat
  block : List Byte
  started : Bool
  taken : Nat
  delivered : Nat
  consumed : Nat
  skips : Nat
  buffer : List Output
  spares : List Sample
  row : List Placed
  slotRead : Tab Nat
  released : Nat
  starved : Bool
  deriving DecidableEq, Repr

/-- The primer (R302 to R325): intakes in order, lanes, the counts of `primer_stats` of each easel, by easel the sequence number of its
latest intake with the k of that intake's next skip, and the ordinal after the latest output. -/
structure Primer where
  intakes : List Intake
  lanes : Tab Lane
  banks : Tab Bank
  stats : Tab (List Nat)
  nextSkip : Tab (Nat × Nat)
  nextOrdinal : Tab Nat
  deriving DecidableEq, Repr

/-! ### Host link, power and trust -/

/-- The host attachment (R395 to R413): link, VFs, functions in D3hot, PERST, error counts. `doorbells` lists the doorbells that wait for
an earlier BAR2 write of their function to land (R401): function, queue (32 the event queue) and value, in order of arrival. -/
structure HostLink where
  linkUp : Bool
  generation : Nat
  width : Nat
  numVfs : Nat
  d3hot : List Nat
  perst : Bool
  urCount : Nat
  doorbellsRejected : Nat
  doorbells : List (Nat × Nat × Nat)
  deriving DecidableEq, Repr

/-- Supplies, rails, temperature and start-up (R435 to R447). `cause` is the stop cause that waits to clear; `raised` the
supply causes that persist. `stoppedDies` lists the compute dies whose control sequencer has stopped (Table 1-9). -/
structure Power where
  vaux : Bool
  vbus : Bool
  vio : Bool
  vbusState : Nat
  stopCause : Nat
  stages : List Nat
  coreMv : Nat
  stepRate : Nat
  packagePower : Nat
  dieTemps : List Nat
  supplyReadings : List Nat
  supplyFaults : Nat
  raised : List Nat
  alert : Bool
  thermTrip : Bool
  thermalTrips : Nat
  overLimit : Bool
  hotDies : List Nat
  waitRefclk : Bool
  refclk : Bool
  calibrated : Bool
  mgtClk : Bool
  testEn : Bool
  startTimes : List Nat
  stopRecord : Option Event
  stoppedDies : List Nat
  deriving DecidableEq, Repr

/-- A firmware image as a slot of the configuration flash holds it (R448, R450): checked when it was written, so the
security version and the digest of the header remain to be told apart. -/
structure FwImage where
  secVersion : Nat
  digest : List Byte
  deriving DecidableEq, Repr

/-- A configuration image as a copy in the configuration flash holds it (R451): its version, its digest and its records
of index, subindex and value. -/
structure CfgImage where
  version : Nat
  digest : List Byte
  records : List (Nat × Nat × List Byte)
  deriving DecidableEq, Repr

/-- The security block and its flash (R448 to R457). Key slots hold state (Table 16-18), digest and public key. -/
structure Trust where
  fwA : Option FwImage
  fwB : Option FwImage
  cfgA : Option CfgImage
  cfgB : Option CfgImage
  preferred : Nat
  runningSlot : Nat
  minSec : Nat
  keySlots : Tab (Nat × List Byte × List Byte)
  nonceCount : Nat
  authFailures : Nat
  recovery : Bool
  pufOk : Bool
  identityOk : Bool
  configVersion : Nat
  configDigest : List Byte
  deriving DecidableEq, Repr

/-! ### The Curator and observability -/

/-- A BLOB being staged by a session (R421). -/
structure Staging where
  requester : Nat
  index : Nat
  sub : Nat
  bytes : List Byte
  deriving DecidableEq, Repr

/-- A remembered transaction (R426). -/
structure Transaction where
  requester : Nat
  number : Nat
  request : List Byte
  response : List Byte
  deriving DecidableEq, Repr

/-- An open session (R427): its number, transport, role, key slot, requester. -/
structure Session where
  id : Nat
  transport : Transport
  role : Role
  slot : Nat
  requester : Nat
  finished : Bool
  deriving DecidableEq, Repr

/-- The object dictionary (R415 to R434): values written over the defaults by index × 256 + subindex, generations of BLOBs,
stagings, transactions, sessions, statistics, the requests that wait while the Curator is busy and whether the first of them has its turn
(R431), whether the Curator is restarting, the fault-line copies that wait (R32), and notice counts of each target. `seen` holds what a computed BLOB read as last, against which its generation advances, and `frozen` what the planes' entries read as when VBUS
was lost (R432). -/
structure Dict where
  values : Tab (List Byte)
  generations : Tab Nat
  seen : Tab (List Byte)
  staging : List Staging
  transactions : List Transaction
  sessions : List Session
  nextSession : Nat
  stats : List Nat
  waiting : List Instr
  turn : Bool
  restarting : Bool
  intake : List Event
  missed : Nat
  noticeCount : Tab Nat
  noticeWindow : Tab Nat
  running : Bool
  i3cAddress : Nat
  frozen : Tab (List Byte)
  deriving DecidableEq, Repr

/-- A trace unit (R468 to R471): its mode, state and sink as taken at arming (space, easel, offset, size), the indices and
counts of its sink header (Table 18-7), the records it has staged, oldest first (R470), and its published counters. -/
structure TraceUnit where
  mode : Nat
  state : Nat
  triggered : Bool
  armed : Bool
  sink : Nat × Nat × Nat × Nat
  period : Nat
  arms : Nat
  write : Nat
  trigger : Nat
  lost : Nat
  dropped : Nat
  triggers : Nat
  stage : List (List Byte)
  published : List Nat
  deriving DecidableEq, Repr

/-- A node of the sketch (Table 18-8) as a unit publishes it; `key` tells apart the stream issues of one tile and stream. -/
structure SketchNode where
  kind : Nat
  ident : Nat
  key : Nat
  state : Nat
  value : Nat
  deriving DecidableEq, Repr

/-- Counters, trace and the sketch (R460 to R475): trace units by base die, the easel whose sketch is being built and the wait
state published first (R472), the sketch, the assembled snapshot, and the published bank of each device-scope unit. -/
structure Obs where
  trace : Tab TraceUnit
  sketchEasel : Option Nat
  firstState : List SketchNode
  sketch : List Byte
  snapshot : List Byte
  published : Tab (List Nat)
  deriving DecidableEq, Repr

/-! ### The whole -/

/-- The state of the block: the commands that wait, first in, first out, and every piece of state of the device. -/
structure State where
  pending : List Instr
  power : Power
  trust : Trust
  dict : Dict
  bind : Binding
  easels : Tab Easel
  tiles : Tab Tile
  mem : Mem
  flash : Mem
  poison : List Nat
  tags : Tab Tag
  tiers : Tiers
  sems : Tab Sem
  counters : Tab Counter
  net : List SyncReq
  streams : Streams
  host : HostLink
  fabric : Fabric
  primer : Primer
  obs : Obs
  out : List Out
  choices : Nat
  deriving DecidableEq, Repr

/-! ### Reset -/

/-- A queue's registers as clearing leaves them (R55, Table 2-8). -/
def Queue.reset (vector : Nat) : Queue :=
  { base := 0, size := 0, enable := false, inEasel := false, irq := false, vector := vector, head := 0, tail := 0,
    state := 0, cause := 0, holdoff := 0, completed := 0, inHoldoff := false, covered := false }

/-- An easel that holds nothing (R44, Table 2-7), with the defaults of Tables 6-9 and 14-8. -/
def Easel.reset : Easel :=
  { mode := .free, keyEpoch := 0, lastSeq := 0, sheet := 0, canvas := none, loading := none, rearranged := none, moved := none, slots := [], cmds := [],
    nextQueue := 0, openStep := 0, closedStep := 0, lastDone := 0, queues := [], events := Queue.reset 32, lost := 0, dropped := 0,
    held := [], windowBase := 0, msix := [], faultAtBoundary := false, rejected := false, lossExp := 16, clean := 0, lossFresh := true,
    verdictStep := 0, verdictSkipped := false, verdicts := [], lossNext := none, wordSent := 0, skippedSteps := 0, counts := [], awaiting := [], startCounts := [], startTickets := [],
    rerun := [], select := 0,
    lastApplied := 0, varnishStalls := 0, glazeStats := [0, 0, 0], update := none, drains := [], nextDue := [0, 0, 0],
    ckptLast := [0, 0, 0], partnerSlot := 0, flashSlot := 0, logPos := 0, logs := [], lastBlock := [], lastEntries := [], nextDrain := 0, restore := none, estimate := 0,
    firings := [], fired := [], ticketDups := 0 }

/-- A tile as clearing leaves it (Table 2-8). -/
def Tile.reset : Tile :=
  { program := [], pc := 0, running := false, ended := false, regs := [], loops := [], hold := .none, arrayQ := [],
    vecQ := [], order := 0, traced := 0, counters := [], countersSeq := 0, published := [], publishedSeq := 0,
    publishedFinal := false }

/-- A semaphore as clearing leaves it: count zero with its complement (Table 2-8). -/
def Sem.reset : Sem := { count := 0, comp := BitVec.allOnes 32, max := 0, queue := [], values := [] }

/-- A bank that has counted nothing. -/
def Bank.reset : Bank := { active := [], seq := 0, published := [], publishedSeq := 0, final := false }

/-- A work counter as clearing leaves it (Table 2-8). -/
def Counter.reset : Counter := { value := 0, claimed := [] }

/-- A port that is down with no lane in use (R333). -/
def Port.reset : Port :=
  { state := 0, lanes := [], failed := [], ganged := false, txSeq := 0, rxSeq := 0, nakSent := false, naks := 0, replay := [],
    waiting := [], credits := [], advertised := [], owed := [], partials := [], stats := [], peer := none,
    codeword := 0, stream := [], symbols := [] }

/-- A trace unit that has not been armed (R468). -/
def TraceUnit.reset : TraceUnit :=
  { mode := 2, state := 0, triggered := false, armed := false, sink := (0, 0, 0, 0), period := 65536, arms := 0, write := 0,
    trigger := 0, lost := 0, dropped := 0, triggers := 0, stage := [], published := [] }

/-- The tiles that serve as spares when the device is new: the last eight dense positions of each compute die. R16 fixes no
position, so the choice is a value of the model (DESIGN CHOICE, log entry 5). -/
def initialRoles : Tab Nat :=
  (List.range 8).flatMap fun d => (List.range 8).map fun k => (d * 168 + 160 + k, 1)

/-- No supply present (R436, Table 17-2, first row): the power-side registers before VAUX comes up. -/
def Power.reset : Power :=
  { vaux := false, vbus := false, vio := false, vbusState := 0, stopCause := 0, stages := [], coreMv := 750, stepRate := 0,
    packagePower := 0, dieTemps := [], supplyReadings := [0, 0, 0, 0], supplyFaults := 0, raised := [], alert := false,
    thermTrip := false, thermalTrips := 0, overLimit := false, hotDies := [], waitRefclk := false, refclk := false,
    calibrated := false, mgtClk := true, testEn := false, startTimes := [], stopRecord := none,
    stoppedDies := [] }

/-- The security block of a new device: image A preferred (R452), a factory image in each slot, a configuration copy without
records, no key enrolled (DESIGN CHOICE where the manual gives no content, log entry 5). -/
def Trust.reset : Trust :=
  { fwA := some { secVersion := 0, digest := [] }, fwB := some { secVersion := 0, digest := [] },
    cfgA := some { version := 0, digest := [], records := [] }, cfgB := none, preferred := 0, runningSlot := 0, minSec := 0,
    keySlots := [], nonceCount := 0, authFailures := 0, recovery := false, pufOk := false, identityOk := false,
    configVersion := 0, configDigest := [] }

/-- The dictionary with nothing written over its defaults (R422). -/
def Dict.reset : Dict :=
  { values := [], generations := [], seen := [], staging := [], transactions := [], sessions := [], nextSession := 1,
    stats := [0, 0, 0, 0, 0, 0, 0, 0], waiting := [], turn := false, restarting := false, intake := [], missed := 0, noticeCount := [], noticeWindow := [], running := false,
    i3cAddress := 0, frozen := [] }

/-- An empty binding table (R440 order 7 fills it). -/
def Binding.reset : Binding :=
  { table := [], request := none, status := 0, revoke := [], roles := initialRoles, standIn := [], retired := [],
    selftest := 0 }

def Tiers.reset : Tiers :=
  { written := [], ceCount := [], ueCount := [], sramCe := [], pageCe := [], alarmed := [], alarms := [], bad := [],
    readOnly := false, flashWear := [0, 0, 0, 0], flashKeys := [], flashStage := [], flashBad := [] }

def Streams.reset : Streams :=
  { issues := [], xfers := [], asks := [], nextIssue := 0, nextXfer := 0, flows := [], health := [], slices := [], caches := [],
    misses := [], flashTurn := [] }

def Fabric.reset : Fabric :=
  { ports := [], taken := [], received := [], landed := [], fences := [], orphans := [], withheld := [], remotes := [], nextTag := 0, masks := [],
    refclk := [true, true, true, true], ignored := [] }

def Primer.reset : Primer := { intakes := [], lanes := [], banks := [], stats := [], nextSkip := [], nextOrdinal := [] }

def HostLink.reset : HostLink :=
  { linkUp := false, generation := 0, width := 0, numVfs := 0, d3hot := [], perst := true, urCount := 0,
    doorbellsRejected := 0, doorbells := [] }

def Obs.reset : Obs :=
  { trace := [], sketchEasel := none, firstState := [], sketch := [], snapshot := [], published := [] }

/-- The device before any supply is present (R436): nothing bound, nothing listed in memory, no command waiting. The three
commands of start-up (R439, R440) bring it to START_COMPLETE (log entry 6). -/
def State.reset : State :=
  { pending := [], power := Power.reset, trust := Trust.reset, dict := Dict.reset, bind := Binding.reset, easels := [],
    tiles := [], mem := [], flash := [], poison := [], tags := [], tiers := Tiers.reset, sems := [], counters := [], net := [],
    streams := Streams.reset, host := HostLink.reset, fabric := Fabric.reset, primer := Primer.reset, obs := Obs.reset,
    out := [], choices := 0 }

/-- Why the device would stop for good. No command of the model stops so: every fault the manual describes is a record and
an easel in FAULTED, which is a next state. Kept closed with one name for a state the model's own bookkeeping excludes. -/
inductive Fault where
  /-- Raised by no meaning (safe: a run never ends so). -/
  | stuck
  deriving DecidableEq, Repr

/-- Why a command has no meaning. -/
inductive Refusal where
  /-- Raised by a dispatch arm whose command has no meaning yet (safe: the run ends there and nothing is claimed). -/
  | notModelled (mnemonic : String)
  deriving DecidableEq, Repr

end Sys2Proof.Machine
end

