-- ==== Sys2Proof/Machine/Entries.lean ====
section
/-! DEFINITION. The entries of the object dictionary as their tables give them (R415, R416, R418, R492; Tables 2-7, 6-9, 10-12,
12-11, 13-8, 13-9, 14-8, 15-10, 16-8 to 16-14, 16-18, 17-14, 18-11): type, right, size, marks, range and default. -/

namespace Sys2Proof.Machine

/-- One entry: its type code (Table 16-1), its right (Table 16-2), its size field (Table 16-6), whether it is assembled
(R430), the range its table states for a written value, and its default as bytes. -/
structure Entry where
  ty : Nat
  access : Nat
  size : Nat
  asm : Bool
  lo : Int
  hi : Int
  dflt : List Byte
  deriving DecidableEq, Repr

/-- Bytes of a fixed type (Table 16-1); 0 for STR and BLOB. -/
def typeSize : Nat → Nat
  | 0x01 => 1 | 0x02 => 1 | 0x03 => 2 | 0x04 => 4 | 0x05 => 8 | 0x06 => 4 | 0x07 => 8 | 0x08 => 4 | 0x0B => 8 | 0x0C => 16
  | _ => 0

/-- The text of a STR default, zero-padded (R416). -/
def strBytes (n : Nat) (t : List Nat) : List Byte := bytesAt (t.map (BitVec.ofNat 8)) 0 n

/-- A read-only or ranged entry of a fixed unsigned type. -/
def num (ty access lo hi dflt : Nat) : Option Entry :=
  some { ty, access, size := typeSize ty, asm := false, lo, hi, dflt := leBytes (typeSize ty) dflt }

/-- An I32 entry (two's complement). -/
def num32 (access : Nat) (lo hi dflt : Int) : Option Entry :=
  some { ty := 0x06, access, size := 4, asm := false, lo, hi, dflt := leBytes 4 (ofSigned 32 dflt) }

/-- A read-only entry. -/
def ro (ty dflt : Nat) : Option Entry := num ty 0x01 0 (2 ^ 64 - 1) dflt

/-- A BLOB with its right and maximum length. -/
def blob (access size : Nat) (asm : Bool) : Option Entry :=
  some { ty := 0x0A, access, size, asm, lo := 0, hi := 0, dflt := [] }

/-- A CMD entry (CU32). -/
def cmdEntry : Option Entry :=
  some { ty := 0x0B, access := 0x06, size := 8, asm := false, lo := 0, hi := 2 ^ 32 - 1, dflt := [] }

/-- A STR(n) entry. -/
def str (access n : Nat) (t : List Nat) : Option Entry :=
  some { ty := 0x09, access, size := n, asm := false, lo := 0, hi := 0, dflt := strBytes n t }

/-- Unit counts by class (Table 2-1). -/
def classSize : Nat → Nat
  | 0x01 => 1344 | 0x02 => 1048576 | 0x03 => 1048576 | 0x04 => 1024 | 0x05 => 128 | 0x06 => 64 | 0x07 => 16 | 0x08 => 512
  | 0x09 => 512 | 0x0A => 512 | 0x0B => 7168
  | _ => 0

/-- Tables 16-8, 17-14 (part) and 16-10: identity, communication, security. -/
def entryManagement (index sub : Nat) : Option Entry :=
  match index, sub with
  | 0x1000, 1 => str 1 16 [0x51, 0x75, 0x65, 0x6C, 0x75, 0x6D]
  | 0x1000, 2 => str 1 16 [0x51, 0x44, 0x31, 0x32, 0x38, 0x30, 0x2D, 0x41, 0x31]
  | 0x1000, 3 => str 1 4 [0x41, 0x31]
  | 0x1000, 4 => str 1 32 []
  | 0x1000, 5 => ro 0x02 0
  | 0x1000, 6 => ro 0x04 0
  | 0x1000, 7 => blob 1 2560 false
  | 0x1000, 8 => ro 0x05 0
  | 0x1100, 1 => ro 0x03 50321
  | 0x1100, 2 => blob 5 17 false
  | 0x1100, 3 => num 0x02 5 0 255 255
  | 0x1100, 4 => num 0x02 5 1 255 8
  | 0x1100, 5 => num 0x02 5 0 0x77 0
  | 0x1100, 6 => blob 5 96 false
  | 0x1100, 7 => num 0x03 5 0 0xFFFF 0x0E00
  | 0x1100, 8 => blob 1 64 false
  | 0x1100, 9 => blob 1 256 false
  | 0x1800, 1 => num 0x01 5 0 1 0
  | 0x1800, 2 => blob 1 640 false
  | 0x1800, 3 => blob 3 4096 false
  | 0x1800, 4 => cmdEntry
  | 0x1800, 5 => blob 1 65535 false
  | 0x1800, 6 => ro 0x05 0
  | 0x1800, 7 => blob 1 32 false
  | 0x1800, 8 => blob 3 33554432 false
  | 0x1800, 9 => cmdEntry
  | 0x1800, 0x0A => cmdEntry
  | 0x1800, 0x0B => ro 0x04 0
  | 0x1800, 0x0C => blob 3 1048576 false
  | 0x1800, 0x0D => cmdEntry
  | _, _ => none

/-- Tables 16-11 and 17-14: supplies, power, thermal and performance point. -/
def entryPower (sub : Nat) : Option Entry :=
  match sub with
  | 1 => num 0x03 5 1000 3400 3400
  | 2 => num 0x02 5 0 1 0
  | 3 => num 0x03 5 550 900 750
  | 4 => ro 0x03 750
  | 5 => ro 0x08 0
  | 6 => ro 0x08 0
  | 7 => blob 1 48 false
  | 8 => blob 1 16 false
  | 9 => ro 0x05 0
  | 0x0A => ro 0x02 0
  | 0x0B => cmdEntry
  | 0x0C => blob 1 56 false
  | 0x0D => ro 0x05 0
  | _ => none

/-- Table 2-7: an easel's record. -/
def entryEasel (e sub : Nat) : Option Entry :=
  match sub with
  | 1 => ro 0x02 (if e = 0 then 2 else 0)
  | 2 => str 5 32 []
  | 3 => num 0x02 4 0 1 0
  | 4 => num 0x05 4 0 (2 ^ 64 - 1) 0
  | 5 => ro 0x04 0
  | 6 => ro 0x05 0
  | 7 => ro 0x02 0
  | 8 => blob 1 33734912 false
  | 9 => cmdEntry
  | _ => none

/-- Table 10-12: memory. -/
def entryMemory (sub : Nat) : Option Entry :=
  match sub with
  | 1 => blob 1 256 true
  | 2 => blob 1 256 true
  | 3 => blob 1 96 false
  | 4 => num 0x03 5 0 720 24
  | 5 => num 0x03 5 0 65535 16
  | 6 => num 0x04 5 1 1000 20
  | 7 => num 0x02 5 0 1 0
  | 8 => ro 0x05 0
  | _ => none

/-- Table 13-8: ports. `lane_ser_limit` is 2.0 × 10^-4 as FP32, and its bounds are the FP32 values nearest 10^-6 and 10^-3. -/
def entryPorts (sub : Nat) : Option Entry :=
  match sub with
  | 1 => num 0x05 5 0 (2 ^ 64 - 1) 0
  | 2 => blob 1 64 false
  | 3 => num 0x04 5 0 (2 ^ 32 - 1) 0
  | 4 => num 0x08 5 0x358637BD 0x3A83126F 0x3951B717
  | 5 => num 0x02 5 1 64 8
  | 6 => blob 1 256 false
  | 7 => blob 1 4096 true
  | 8 => num 0x04 5 1 60000 100
  | _ => none

/-- Table 13-9 and `group_spread_rank` of Table 14-8: a data channel's group. -/
def entryGroup (sub : Nat) : Option Entry :=
  match sub with
  | 1 => num 0x03 4 1 4096 1
  | 2 => num 0x03 4 0 65535 0
  | 3 => num 0x03 4 0 65535 0
  | 4 => num 0x04 4 0 0xFFFFF 0
  | 5 => ro 0x05 0
  | 6 => num 0x05 5 0 (2 ^ 64 - 1) 0
  | 7 => num 0x05 5 0 (2 ^ 48 - 1) 0
  | 8 => num 0x04 5 10 60000 500
  | 9 => num 0x03 4 0 65535 0xFFFF
  | _ => none

/-- Table 12-11: the primer's entries of an easel. -/
def entryPrimer (sub : Nat) : Option Entry :=
  match sub with
  | 1 => num 0x03 5 1 65535 1024
  | 2 => num 0x03 5 1 65535 64
  | 3 => num 0x02 5 1 64 16
  | 4 => blob 1 56 true
  | 5 => ro 0x04 0
  | 6 => ro 0x05 0
  | _ => none

/-- Table 6-9: numerics. -/
def entryNumerics (sub : Nat) : Option Entry :=
  match sub with
  | 1 => num32 5 (-16) 32 16
  | 2 => num32 1 0 0 16
  | 3 => num 0x04 5 1 (2 ^ 31) 2000
  | 4 => ro 0x04 0
  | 5 => num 0x04 5 0 (2 ^ 32 - 1) 65536
  | 6 => ro 0x05 0
  | 7 => ro 0x05 0
  | _ => none

/-- Table 14-8: an easel's resilience entries. -/
def entryResilience (sub : Nat) : Option Entry :=
  match sub with
  | 1 => num 0x04 5 0 0xFFFFF 0xFFFFF
  | 2 => num 0x05 5 0 (2 ^ 64 - 1) 0
  | 3 => num 0x04 5 0 65536 64
  | 4 => num 0x04 5 0 (2 ^ 32 - 1) 1024
  | 5 => num 0x04 5 0 (2 ^ 32 - 1) 16384
  | 6 => num 0x05 5 0 (2 ^ 64 - 1) 0
  | 7 => num 0x02 5 1 16 2
  | 8 => blob 5 12 false
  | 9 => blob 5 1024 false
  | 0x0A => num 0x02 5 0 1 0
  | 0x0B => ro 0x04 0
  | 0x0C => blob 1 24 false
  | 0x0D => ro 0x05 0
  | 0x0E => ro 0x05 0
  | 0x0F => blob 1 24 false
  | 0x10 => blob 5 24 false
  | 0x11 => cmdEntry
  | 0x12 => blob 5 32 false
  | 0x13 => cmdEntry
  | 0x14 => blob 5 56 false
  | 0x15 => cmdEntry
  | _ => none

/-- Tables 16-13, 16-14 and 18-11: counters, trace and sketch. -/
def entryObserve (index sub : Nat) : Option Entry :=
  match index, sub with
  | 0xA000, 1 => ro 0x05 0
  | 0xA000, 2 => blob 1 512 false
  | 0xA000, 3 => blob 1 8585760 true
  | 0xA000, 4 => num 0x02 2 0 255 0xFF
  | 0xA000, 5 => blob 1 32 true
  | 0xB000, 1 => num 0x02 2 0 2 2
  | 0xB000, 2 => num 0x05 2 0 (2 ^ 64 - 1) 0
  | 0xB000, 3 => cmdEntry
  | 0xB000, 4 => blob 1 5242912 true
  | 0xB000, 5 => blob 5 96 false
  | 0xB000, 6 => num 0x04 2 1024 (2 ^ 32 - 1) 65536
  | 0xB000, 7 => num 0x02 2 0 100 25
  | 0xB000, 8 => num 0x03 2 0 0x0FFE 0x0FFE
  | 0xB000, 9 => num 0x04 2 0 0x1FFFF 0
  | 0xB000, 0x0A => cmdEntry
  | 0xB000, 0x0B => cmdEntry
  | _, _ => none

/-- Table 15-10: the host interface. -/
def entryHost (sub : Nat) : Option Entry :=
  match sub with
  | 1 => ro 0x05 0
  | 2 => num 0x02 5 1 7 7
  | 3 => ro 0x03 0
  | 4 => blob 1 32 false
  | 5 => ro 0x05 0
  | _ => none

/-- The entry named by index and subindex; every other one is absent (R415). -/
def entry (index sub : Nat) : Option Entry :=
  if 0x3000 ≤ index ∧ index < 0x3040 then entryEasel (index - 0x3000) sub
  else if 0x3110 ≤ index ∧ index ≤ 0x311A then
    if sub = 1 then blob 1 (classSize (index - 0x3110 + 1)) false else none
  else if 0x6110 ≤ index ∧ index < 0x6120 then entryGroup sub
  else if 0x7040 ≤ index ∧ index < 0x7080 then entryPrimer sub
  else if 0x8040 ≤ index ∧ index < 0x8080 then entryNumerics sub
  else if 0x9040 ≤ index ∧ index < 0x9080 then entryResilience sub
  else
    match index with
    | 0x1000 => entryManagement index sub
    | 0x1100 => entryManagement index sub
    | 0x1800 => entryManagement index sub
    | 0x2000 => entryPower sub
    | 0x3100 =>
      match sub with
      | 1 => blob 5 16400 false
      | 2 => cmdEntry
      | 3 => ro 0x04 0
      | _ => none
    | 0x4000 =>
      match sub with
      | 1 => blob 1 1344 false
      | 2 => blob 1 8 false
      | 3 => cmdEntry
      | 4 => ro 0x04 0
      | _ => none
    | 0x5000 => entryMemory sub
    | 0x6000 => entryPorts sub
    | 0x6100 => if sub = 1 then num 0x04 5 0 0xFFFFF 0xFFFFF else none
    | 0x9000 =>
      match sub with
      | 1 => ro 0x03 1280
      | 2 => ro 0x02 0
      | 3 => blob 1 33734912 false
      | 4 => num 0x02 5 1 32 3
      | 5 => blob 1 4 false
      | _ => none
    | 0xA000 => entryObserve index sub
    | 0xB000 => entryObserve index sub
    | 0xC000 => entryHost sub
    | _ => none

/-- The value written to an entry, or its default (R422). -/
def written (d : Dict) (index sub : Nat) : List Byte :=
  tget (match entry index sub with | some x => x.dflt | none => []) d.values (index * 256 + sub)

/-- The value of a fixed unsigned entry in force. -/
def policy (s : State) (index sub : Nat) : Nat := leNat (written s.dict index sub)

/-- The value of an I32 entry in force. -/
def policyInt (s : State) (index sub : Nat) : Int := toSigned 32 (policy s index sub)

end Sys2Proof.Machine
end

