-- ==== Sys2Proof/Machine/Number.lean ====
section
/-! DEFINITION. The arithmetic of the device (R144 to R165): formats, exact values, rounding, exact partials. A number is an
exact dyadic value, so every operation is exact until one rounding narrows it. -/

namespace Sys2Proof.Machine

/-- What an element stands for (R147, R151): NaN, an infinity, or (-1)^neg × m × 2^e; m = 0 is the zero of that sign. -/
inductive Num where
  | nan
  | inf (neg : Bool)
  | fin (neg : Bool) (m : Nat) (e : Int)
  deriving DecidableEq, Repr

/-- A floating-point format (Table 6-1): exponent and fraction widths, bias, and how its top exponent code is used:
0 infinities and NaNs (IEEE), 1 only S.1111.111 is NaN (E4M3), 2 no special code. -/
structure Fmt where
  ebits : Nat
  mbits : Nat
  bias : Nat
  special : Nat
  deriving DecidableEq, Repr

/-- The element layout of a format code (R144, Table 6-1); integers have none. Codes 0x5 and 0x6 share 0x3 and 0x4's; FP32X
(0xC) is its two planes read as one 48-bit pattern (R148). -/
def fmtOf : Nat → Option Fmt
  | 0x0 => some ⟨8, 23, 127, 0⟩
  | 0x1 => some ⟨8, 7, 127, 0⟩
  | 0x2 => some ⟨5, 10, 15, 0⟩
  | 0x3 => some ⟨4, 3, 7, 1⟩
  | 0x4 => some ⟨5, 2, 15, 0⟩
  | 0x5 => some ⟨4, 3, 7, 1⟩
  | 0x6 => some ⟨5, 2, 15, 0⟩
  | 0x7 => some ⟨3, 2, 3, 2⟩
  | 0x8 => some ⟨2, 3, 1, 2⟩
  | 0x9 => some ⟨2, 1, 1, 2⟩
  | 0xC => some ⟨8, 39, 127, 0⟩
  | _ => none

/-- Element width in bits (R102, R200); the FP32X high plane has 32, an exact partial (type 0x10) 128. -/
def widthOf : Nat → Nat
  | 0x0 => 32 | 0x1 => 16 | 0x2 => 16 | 0x3 => 8 | 0x4 => 8 | 0x5 => 8 | 0x6 => 8 | 0x7 => 6 | 0x8 => 6 | 0x9 => 4
  | 0xA => 8 | 0xB => 32 | 0xC => 32 | 0xD => 8 | 0xE => 16 | 0x10 => 128
  | _ => 8

/-- A block-scaled format (R145): 0x5 to 0x9. -/
def isMx (c : Nat) : Bool := decide (5 ≤ c) && decide (c ≤ 9)

/-- The value of 32-bit FP32 code 0x0 and the like: the layout used for FP32 arithmetic. -/
def f32 : Fmt := ⟨8, 23, 127, 0⟩

/-- The exponent of the smallest quantum of a format. -/
def Fmt.emin (f : Fmt) : Int := 1 - (f.bias : Int) - (f.mbits : Int)

/-- The bit pattern (without sign) of the largest finite value. -/
def Fmt.maxBits (f : Fmt) : Nat :=
  match f.special with
  | 0 => (2 ^ f.ebits - 1) * 2 ^ f.mbits - 1
  | 1 => 2 ^ (f.ebits + f.mbits) - 2
  | _ => 2 ^ (f.ebits + f.mbits) - 1

/-- What an element's bits stand for; every NaN code reads as NaN (R147) and subnormals keep their value (R145). -/
def Fmt.decode (f : Fmt) (bits : Nat) : Num :=
  let frac := bits % 2 ^ f.mbits
  let ex := bits / 2 ^ f.mbits % 2 ^ f.ebits
  let neg := bits / 2 ^ (f.mbits + f.ebits) % 2 = 1
  if f.special = 0 ∧ ex = 2 ^ f.ebits - 1 then (if frac = 0 then .inf neg else .nan)
  else if f.special = 1 ∧ bits % 2 ^ (f.mbits + f.ebits) = 2 ^ (f.mbits + f.ebits) - 1 then .nan
  else if ex = 0 then .fin neg frac f.emin
  else .fin neg (2 ^ f.mbits + frac) ((ex : Int) - f.bias - f.mbits)

/-- `m × 2^e` rounded to nearest even on the grid of a format with no top exponent: mantissa and quantum exponent (R157). -/
def Fmt.round (f : Fmt) (m : Nat) (e : Int) : Nat × Int :=
  let q := max f.emin (e + (log2 m : Nat) - f.mbits)
  if q ≤ e then (m * 2 ^ (e - q).toNat, q)
  else
    let d := 2 ^ (q - e).toNat
    let lo := m / d
    let r := m % d
    if 2 * r > d ∨ (2 * r = d ∧ lo % 2 = 1) then (lo + 1, q) else (lo, q)

/-- The pattern (without sign) of mantissa `m` at quantum `q`, which lies on the grid; beyond the top exponent the pattern
is larger than `maxBits`. -/
def Fmt.pack (f : Fmt) (m : Nat) (q : Int) : Nat :=
  if m < 2 ^ f.mbits then m
  else if m < 2 ^ (f.mbits + 1) then ((q - f.emin).toNat + 1) * 2 ^ f.mbits + (m - 2 ^ f.mbits)
  else ((q - f.emin).toNat + 2) * 2 ^ f.mbits + (m / 2 - 2 ^ f.mbits)

/-- The sign bit of a pattern. -/
def Fmt.sign (f : Fmt) (neg : Bool) : Nat := if neg then 2 ^ (f.ebits + f.mbits) else 0

/-- The canonical NaN of a format (Table 6-2); formats without one have their substitute formed by the caller. -/
def Fmt.nanBits (f : Fmt) : Nat :=
  match f.special with
  | 0 => (2 ^ f.ebits - 1) * 2 ^ f.mbits + 2 ^ (f.mbits - 1)
  | 1 => 2 ^ (f.ebits + f.mbits) - 1
  | _ => 0

def Fmt.infBits (f : Fmt) : Nat := (2 ^ f.ebits - 1) * 2 ^ f.mbits

/-- How a result beyond the largest finite value is written (Table 6-5): as an infinity, as the largest finite value, or as
NaN. -/
inductive Overflow where
  | infinity | saturate | toNan
  deriving DecidableEq, Repr

/-- The overflow column of Table 6-5: `mma` output or vector conversion, with its saturation mode. -/
def overflowOf (code : Nat) (mma sat : Bool) : Overflow :=
  match code with
  | 0x3 => if mma || sat then .saturate else .toNan
  | 0x4 => if mma || sat then .saturate else .infinity
  | 0x5 => .saturate
  | 0x6 => if sat then .saturate else .infinity
  | 0x7 => .saturate
  | 0x8 => .saturate
  | 0x9 => .saturate
  | _ => .infinity

/-- The pattern of a value in a format, rounded once (R157), with whether it is counted as a saturation (R158, R165). -/
def Fmt.encode (f : Fmt) (o : Overflow) (x : Num) : Nat × Bool :=
  let top := fun (neg : Bool) =>
    match o with
    | .infinity => (f.sign neg + f.infBits, false)
    | .saturate => (f.sign neg + f.maxBits, true)
    | .toNan => (f.nanBits, false)
  match x with
  | .nan => (f.nanBits, false)
  | .inf neg =>
    -- ±∞ written to E5M2 stays ±∞ (Table 6-6); to E4M3 it saturates or becomes NaN
    if f.special = 0 then (f.sign neg + f.infBits, false) else top neg
  | .fin neg 0 _ => (f.sign neg, false)
  | .fin neg m e =>
    let (r, q) := f.round m e
    let b := f.pack r q
    if b ≤ f.maxBits then (f.sign neg + b, false) else top neg

/-- A value rounded to a format and read back. -/
def Fmt.rnd (f : Fmt) (o : Overflow) (x : Num) : Num := f.decode (f.encode o x).1

/-- One rounding to FP32 (R135, R203). -/
def r32 (x : Num) : Num := f32.rnd .infinity x

/-- The FP32 pattern of a value, canonical for NaN (Table 6-2). -/
def bits32 (x : Num) : Nat := (f32.encode .infinity x).1

/-- The value of an FP32 pattern. -/
def of32 (b : Nat) : Num := f32.decode b

namespace Num

def isNan : Num → Bool | .nan => true | _ => false
def isInf : Num → Bool | .inf _ => true | _ => false
def isZero : Num → Bool | .fin _ 0 _ => true | _ => false
def isNeg : Num → Bool | .nan => false | .inf n => n | .fin n _ _ => n
def zero : Num := .fin false 0 0
def one : Num := .fin false 1 0

/-- The exact value of an integer. -/
def ofInt (z : Int) : Num := .fin (z < 0) z.natAbs 0

/-- The signed mantissa at exponent `e`, for `e` at most the value's own. -/
def mantAt (e : Int) : Num → Int
  | .fin neg m x => (if neg then -1 else 1) * ((m : Int) * 2 ^ (x - e).toNat)
  | _ => 0

def expo : Num → Int | .fin _ _ e => e | _ => 0

def neg : Num → Num
  | .nan => .nan
  | .inf n => .inf !n
  | .fin n m e => .fin (!n) m e

def abs : Num → Num
  | .nan => .nan
  | .inf _ => .inf false
  | .fin _ m e => .fin false m e

/-- The exact sum; x + (-x) is +0 and (-0) + (-0) is -0 (R157, Table 6-6). -/
def add (x y : Num) : Num :=
  match x, y with
  | .nan, _ => .nan
  | _, .nan => .nan
  | .inf a, .inf b => if a = b then .inf a else .nan
  | .inf a, _ => .inf a
  | _, .inf b => .inf b
  | .fin a m e, .fin b n f =>
    if m = 0 ∧ n = 0 then .fin (a && b) 0 0
    else
      let g := min e f
      let z := mantAt g (.fin a m e) + mantAt g (.fin b n f)
      .fin (z < 0) z.natAbs g

/-- The exact product; ∞ × 0 is NaN (Table 6-6). -/
def mul (x y : Num) : Num :=
  match x, y with
  | .nan, _ => .nan
  | _, .nan => .nan
  | .inf a, .inf b => .inf (a != b)
  | .inf a, .fin b m _ => if m = 0 then .nan else .inf (a != b)
  | .fin a m _, .inf b => if m = 0 then .nan else .inf (a != b)
  | .fin a m e, .fin b n f => .fin (a != b) (m * n) (e + f)

/-- Exact scaling by 2^k; zeros, infinities and NaN are unchanged (Table 6-6). -/
def scale (k : Int) : Num → Num
  | .fin n m e => if m = 0 then .fin n 0 0 else .fin n m (e + k)
  | x => x

/-- The order of two values that are no NaN: -1, 0 or 1; +0 equals -0 (R208). -/
def cmp (x y : Num) : Int :=
  match x, y with
  | .inf a, .inf b => if a = b then 0 else if a then -1 else 1
  | .inf a, _ => if a then -1 else 1
  | _, .inf b => if b then 1 else -1
  | a, b =>
    let g := min a.expo b.expo
    let d := mantAt g a - mantAt g b
    if d < 0 then -1 else if d = 0 then 0 else 1

def lt (x y : Num) : Bool := cmp x y < 0

/-- The smaller of two (R208): NaN wins, and -0 is below +0. -/
def min2 (x y : Num) : Num :=
  if x.isNan || y.isNan then .nan
  else if cmp x y < 0 then x else if cmp x y > 0 then y else if x.isNeg then x else y

/-- The larger of two (R208): NaN wins, and +0 is above -0. -/
def max2 (x y : Num) : Num :=
  if x.isNan || y.isNan then .nan
  else if cmp x y > 0 then x else if cmp x y < 0 then y else if x.isNeg then y else x

/-- The exact quotient to at least `p` bits and a sticky bit below them. x / 0 is ∞ of the sign, 0 / 0 and ∞ / ∞ NaN. -/
def div (p : Nat) (x y : Num) : Num :=
  match x, y with
  | .nan, _ => .nan
  | _, .nan => .nan
  | .inf _, .inf _ => .nan
  | .inf a, .fin b _ _ => .inf (a != b)
  | .fin a _ _, .inf b => .fin (a != b) 0 0
  | .fin a m e, .fin b n f =>
    if n = 0 then (if m = 0 then .nan else .inf (a != b))
    else if m = 0 then .fin (a != b) 0 0
    else
      let s := p + 4 + log2 n
      let q := m * 2 ^ s / n
      let r := m * 2 ^ s % n
      .fin (a != b) (2 * q + (if r = 0 then 0 else 1)) (e - f - s - 1)

/-- The exact square root to at least `p` bits and a sticky bit; a negative value gives NaN, -0 gives -0. -/
def sqrt (p : Nat) (x : Num) : Num :=
  match x with
  | .nan => .nan
  | .inf n => if n then .nan else .inf false
  | .fin n m e =>
    if m = 0 then .fin n 0 0
    else if n then .nan
    else
      let s := 2 * (p + 4)
      let s := if (e - s) % 2 = 0 then s else s + 1
      let v := m * 2 ^ s
      let r := Nat.sqrt v
      .fin false (2 * r + (if r * r = v then 0 else 1)) ((e - s) / 2 - 1)

/-- The value truncated toward zero to an integer multiple of 2^u, in those units (R155). -/
def truncAt (u : Int) : Num → Int
  | .fin n m e =>
    let k := if u ≤ e then m * 2 ^ (e - u).toNat else m / 2 ^ (u - e).toNat
    if n then -(k : Int) else k
  | _ => 0

/-- The nearest integer, ties to even (R159). -/
def roundInt : Num → Int
  | .fin n m e =>
    let k :=
      if 0 ≤ e then m * 2 ^ e.toNat
      else
        let d := 2 ^ (-e).toNat
        let lo := m / d
        let r := m % d
        if 2 * r > d ∨ (2 * r = d ∧ lo % 2 = 1) then lo + 1 else lo
    if n then -(k : Int) else k
  | _ => 0

end Num

/-- Fused multiply-add with one rounding to FP32 (R363). -/
def fma32 (a b c : Num) : Num := r32 (Num.add (Num.mul a b) c)
def add32 (a b : Num) : Num := r32 (Num.add a b)
def sub32 (a b : Num) : Num := r32 (Num.add a b.neg)
def mul32 (a b : Num) : Num := r32 (Num.mul a b)
def div32 (a b : Num) : Num := r32 (Num.div 30 a b)
def sqrt32 (a : Num) : Num := r32 (Num.sqrt 30 a)

/-- The range of an integer format (Table 6-1): lower and upper limit. -/
def intRange : Nat → Int × Int
  | 0xA => (-128, 127)
  | 0xB => (-2147483648, 2147483647)
  | 0xD => (0, 255)
  | _ => (0, 65535)

def isInt (c : Nat) : Bool := c = 0xA || c = 0xB || c = 0xD || c = 0xE

/-- The value of an element's bits in any format but the scale of an MX block (R144 to R149). -/
def decodeElem (code bits : Nat) : Num :=
  match fmtOf code with
  | some f => f.decode bits
  | none =>
    match code with
    | 0xA => Num.ofInt (toSigned 8 bits)
    | 0xB => Num.ofInt (toSigned 32 bits)
    | _ => Num.ofInt (bits : Nat)

/-- An element's bits in a format, and what it is counted as (R158, R159, R165). -/
def encodeElem (code : Nat) (mma sat : Bool) (x : Num) : Nat × Tally :=
  match fmtOf code with
  | some f =>
    let (b, s) := f.encode (overflowOf code mma sat) x
    let t := match x with
      | .nan => Tally.nan
      | _ => if s then .saturated else
        match f.decode b with
        | .nan => .nan
        | .inf _ => .infinite
        | y => if y.isZero then .zero else .plain
    (b, t)
  | none =>
    let (lo, hi) := intRange code
    let w := widthOf code
    match x with
    | .nan => (0, .nan)
    | .inf n => (ofSigned w (if n then lo else hi), .saturated)
    | y =>
      let z := y.roundInt
      if z < lo then (ofSigned w lo, .saturated)
      else if hi < z then (ofSigned w hi, .saturated)
      else (ofSigned w z, if z = 0 then .zero else .plain)

/-! ### E8M0 scales and MX blocks (R146, R161) -/

/-- The exponent of a scale code; `none` for the NaN scale. -/
def scaleExp (s : Nat) : Option Int := if s = 0xFF then none else some ((s : Int) - 127)

/-- An MX element's value: element × scale (R146). -/
def mxValue (code scale bits : Nat) : Num :=
  match scaleExp scale with
  | none => .nan
  | some k => (decodeElem code bits).scale k

/-- emax of the element formats (R161). -/
def mxEmax : Nat → Int
  | 0x5 => 8 | 0x6 => 15 | 0x7 => 4 | 0x8 => 2 | _ => 2

/-- floor(log2 |x|) of a non-zero finite value. -/
def Num.ilog2 : Num → Int
  | .fin _ m e => e + (log2 m : Nat)
  | _ => 0

/-- A block converted into an MX format (R161): scale code, element bits, tallies. -/
def mxBlock (code : Nat) (sat : Bool) (xs : List Num) : Nat × List Nat × List Tally :=
  if xs.any (fun x => x.isNan || x.isInf) then (0xFF, xs.map fun _ => 0, xs.map fun _ => .nan)
  else
    let nz := xs.filter (fun x => !x.isZero)
    let amaxLog := nz.foldl (fun a x => max a x.ilog2) (-100000)
    let k : Int := if nz.isEmpty then -127 else max (-127) (min 127 (amaxLog - mxEmax code))
    let es := xs.map fun x => encodeElem code false sat (x.scale (-k))
    ((k + 127).toNat, es.map (·.1), es.map (·.2))

/-! ### Exact partials (R150 to R156) -/

/-- An exact partial element (Table 6-3). -/
structure Partial where
  v : Int
  anchor : Int
  fixed : Bool
  nan : Bool
  pinf : Bool
  ninf : Bool
  deriving DecidableEq, Repr

/-- The exact zero every accumulator starts at with seed 0 (R132). -/
def Partial.zero : Partial := ⟨0, 0, false, false, false, false⟩

/-- The 16 bytes of an exact partial read; a reserved bit set reads as NaN (R151). -/
def Partial.ofBytes (s : List Byte) : Partial :=
  let fl := at8 s 14 1
  { v := toSigned 96 (at8 s 0 12), anchor := toSigned 16 (at8 s 12 2), fixed := fl % 2 = 1,
    nan := fl / 2 % 2 = 1 || fl / 16 != 0 || at8 s 15 1 != 0, pinf := fl / 4 % 2 = 1, ninf := fl / 8 % 2 = 1 }

/-- The 16 bytes of an exact partial; with a flag set the value is written as zero (R151). -/
def Partial.bytes (p : Partial) : List Byte :=
  let flagged := p.nan || p.pinf || p.ninf
  leBytes 12 (ofSigned 96 (if flagged then 0 else p.v)) ++ leBytes 2 (ofSigned 16 p.anchor)
    ++ leBytes 1 (p.fixed.toNat + 2 * p.nan.toNat + 4 * p.pinf.toNat + 8 * p.ninf.toNat) ++ [0]

/-- What an exact partial stands for (R151). -/
def Partial.num (p : Partial) : Num :=
  if p.nan || (p.pinf && p.ninf) then .nan
  else if p.pinf then .inf false
  else if p.ninf then .inf true
  else .fin (p.v < 0) p.v.natAbs (p.anchor - 32)

/-- A sum of window units at an anchor, flagged when its magnitude passes the window (R153). -/
def Partial.close (v a : Int) (fixed nan pinf ninf : Bool) : Partial :=
  let flagged := nan || pinf || ninf
  if !flagged && decide (v.natAbs ≥ 2 ^ 95) then ⟨0, a, fixed, false, decide (0 < v), decide (v < 0)⟩
  else ⟨if flagged then 0 else v, a, fixed, nan, pinf, ninf⟩

/-- The exact sum of two partials (R156, R214): the larger anchor, the other as one truncated term. -/
def Partial.xadd (x y : Partial) : Partial :=
  let a := max x.anchor y.anchor
  let u := fun (p : Partial) => Num.truncAt (a - 32) (.fin (p.v < 0) p.v.natAbs (p.anchor - 32))
  Partial.close (u x + u y) a (x.fixed && y.fixed && decide (x.anchor = y.anchor)) (x.nan || y.nan) (x.pinf || y.pinf)
    (x.ninf || y.ninf)

/-! ### Health counts (R165, Table 6-8) -/

/-- The counts [zeros, saturations, NaNs, infinities, amax as FP32]. -/
def healthZero : List Nat := [0, 0, 0, 0, 0]

/-- A magnitude truncated toward zero to FP32, the largest finite value where it lies beyond. -/
def amaxBits (x : Num) : Nat :=
  match x with
  | .fin _ m e =>
    if m = 0 then 0
    else
      let q := max f32.emin (e + (log2 m : Nat) - 23)
      let b := if q ≤ e then f32.pack (m * 2 ^ (e - q).toNat) q else f32.pack (m / 2 ^ (q - e).toNat) q
      min b f32.maxBits
  | _ => 0

/-- One written element counted: its tally, and its magnitude as an FP32 pattern where it is finite. -/
def healthAdd (h : List Nat) (t : Tally) (amax : Nat) : List Nat :=
  let inc := fun (i : Nat) (h : List Nat) => h.set i (addSat 0xFFFFFFFF (h.getD i 0) 1)
  let h := match t with
    | .plain => h
    | .zero => inc 0 h
    | .saturated => inc 1 h
    | .nan => inc 2 h
    | .infinite => inc 3 h
  match t with
  | .nan => h
  | .infinite => h
  | _ => h.set 4 (max (h.getD 4 0) amax)

/-- Two sets of counts joined. -/
def healthJoin (a b : List Nat) : List Nat :=
  (List.range 5).map fun i =>
    if i = 4 then max (a.getD 4 0) (b.getD 4 0) else addSat 0xFFFFFFFF (a.getD i 0) (b.getD i 0)

/-! ### The amax history and its scale (R163, R164) -/

/-- The largest x with 2^x × amax × margin ≤ format_max, clamped to -127 … 127; 0 for an amax of 0 (R163). Operands FP32. -/
def scaleFor (code : Nat) (amax margin : Num) : Int :=
  match Num.mul amax margin, fmtOf code with
  | .fin _ m e, some f =>
    if m = 0 then 0
    else
      match f.decode f.maxBits with
      | .fin _ n g =>
        -- 2^x × m × 2^e ≤ n × 2^g; the logarithms give x up to one
        let x0 : Int := (g + (log2 n : Nat)) - (e + (log2 m : Nat))
        let ok := fun (x : Int) => Num.cmp (.fin false m (e + x)) (.fin false n g) ≤ 0
        let x := if ok x0 then x0 else x0 - 1
        max (-127) (min 127 x)
      | _ => 0
  | _, _ => 0

/-- The BF16 working copy of an FP32X value (R160): `bits` its 48-bit pattern, `r` the draw. With the saturation count. -/
def stochasticBf16 (bits r : Nat) : Nat × Bool :=
  match (Fmt.decode ⟨8, 39, 127, 0⟩ bits) with
  | .nan => (0x7FC0, false)
  | .inf n => (if n then 0xFF80 else 0x7F80, false)
  | .fin n _ _ =>
    let hi := bits / 2 ^ 32 % 2 ^ 15
    let f := bits % 2 ^ 32
    let s := if n then 0x8000 else 0
    if f + r ≥ 2 ^ 32 then
      (if hi + 1 > 0x7F7F then (s + 0x7F7F, true) else (s + hi + 1, false))
    else (s + hi, false)

end Sys2Proof.Machine
end

