-- ==== Sys2Proof/Machine/Ops.lean ====
section
/-! DEFINITION. The named operations over the state that the meanings share: lookups, the binding table, addresses and
memory, poison, event records and their queues, interrupts, trace, and what a fault does to an easel. -/

namespace Sys2Proof.Machine

/-! ### Lookups -/

def State.easel (s : State) (e : Nat) : Easel := tget Easel.reset s.easels e
def State.setEasel (s : State) (e : Nat) (x : Easel) : State := { s with easels := tset s.easels e x }
def State.onEasel (s : State) (e : Nat) (f : Easel → Easel) : State := s.setEasel e (f (s.easel e))
def State.tile (s : State) (t : Nat) : Tile := tget Tile.reset s.tiles t
def State.setTile (s : State) (t : Nat) (x : Tile) : State := { s with tiles := tset s.tiles t x }
def State.onTile (s : State) (t : Nat) (f : Tile → Tile) : State := s.setTile t (f (s.tile t))
def State.emit (s : State) (o : Out) : State := { s with out := s.out ++ [o] }

/-- Register `r` of a tile; s0 reads as zero (R92). -/
def Tile.reg (x : Tile) (r : Nat) : Word64 := if r = 0 then 0 else tget 0 x.regs r

/-- A tile with register `r` written; writes to s0 are discarded (R92). -/
def Tile.setReg (x : Tile) (r : Nat) (v : Word64) : Tile := if r = 0 then x else { x with regs := tset x.regs r v }

/-- Whether an easel takes commands (R44): BOUND. -/
def State.bound (s : State) (e : Nat) : Bool := (s.easel e).mode == .bound

/-- Whether an easel's commands run (Table 2-2): BOUND or DRAINING, or FAULTED by a dispatch rejection, which lets the commands before it
run on (R86). -/
def Easel.works (x : Easel) : Bool := x.mode == .bound || x.mode == .draining || (x.mode == .faulted && x.rejected)
def State.works (s : State) (e : Nat) : Bool := (s.easel e).works

/-- A fresh number for a choice the manual leaves open (log entry 13). -/
def State.fresh (s : State) : Nat × State := (s.choices, { s with choices := s.choices + 1 })

/-! ### The binding table (R39 to R43) -/

/-- What is left of extents when the units [first, first + count) of a class are taken out. -/
def cutExtent (cls first count : Nat) (x : Extent) : List Extent :=
  if x.cls != cls || decide (first + count ≤ x.first) || decide (x.first + x.count ≤ first) then [x]
  else
    (if x.first < first then [{ x with count := first - x.first }] else [])
      ++ (if first + count < x.first + x.count then
            [{ x with first := first + count, count := x.first + x.count - (first + count),
                      place := if cls = 2 || cls = 3 || cls = 8 then x.place + (first + count - x.first) else x.place }]
          else [])

/-- The extents as accesses see them: a unit that a request is clearing is owned by no easel until the request ends (R52). -/
def State.live (s : State) : List Extent :=
  match s.bind.request with
  | some r =>
    if r.clearing && r.op != 1 then r.extents.foldl (fun l x => l.flatMap (cutExtent x.1 x.2.1 x.2.2.1)) s.bind.table
    else s.bind.table
  | none => s.bind.table

/-- The extents of a class in the table of an easel, in ascending first unit. -/
def State.held (s : State) (e cls : Nat) : List Extent := s.bind.table.filter fun x => x.easel = e && x.cls = cls

/-- The easel that holds a unit. -/
def State.ownerOf (s : State) (cls u : Nat) : Option Nat :=
  (s.live.find? fun x => x.cls = cls && decide (x.first ≤ u) && decide (u < x.first + x.count)).map (·.easel)

def State.holds (s : State) (e cls u : Nat) : Bool := s.ownerOf cls u = some e

/-- How many units of a class an easel holds. -/
def State.unitCount (s : State) (e cls : Nat) : Nat := ((s.held e cls).map (·.count)).foldl (· + ·) 0

/-- Bytes of checkpoint flash that an easel can use: none while the PUF seed is not reconstructed (R454). -/
def State.flashBytes (s : State) (e : Nat) : Nat := if s.trust.pufOk then s.unitCount e 0x0B * 1073741824 else 0

/-- Whether a key slot holds an enrolled key that can be used: none can while the PUF seed is not reconstructed (R454). -/
def State.keyUsable (s : State) (k : Nat) : Bool := s.trust.pufOk && (tget (0, [], []) s.trust.keySlots k).1 = 1

/-- Whether flash can be written: not once it has turned read-only (R390), nor without the keys of its extents (R454). -/
def State.flashWritable (s : State) : Bool := s.trust.pufOk && !s.tiers.readOnly

/-- The units of a class an easel holds, in ascending unit index. -/
def State.units (s : State) (e cls : Nat) : List Nat := (s.held e cls).flatMap fun x => span x.first (x.first + x.count)

/-- The k-th of the units that a list of extents holds, in its order (R250). -/
def nthUnit : List Extent → Nat → Option Nat
  | [], _ => none
  | x :: xs, k => if k < x.count then some (x.first + k) else nthUnit xs (k - x.count)

/-- An extent put into a table that is ordered by class and first unit. -/
def insertExtent : List Extent → Extent → List Extent
  | [], x => [x]
  | y :: t, x => if x.cls < y.cls || (x.cls = y.cls && decide (x.first < y.first)) then x :: y :: t else y :: insertExtent t x

/-- A physical tile id from a dense number (R7, Table 2-1). -/
def physId (n : Nat) : Nat := n / 168 * 256 + n % 168 / 14 * 16 + n % 14

/-- The dense number of the tile that serves a number (R40). -/
def State.server (s : State) (n : Nat) : Nat := tget n s.bind.standIn n

/-- The active sheet: as a reweight left it (R232), else as the image gives it. -/
def Easel.sheetDef (x : Easel) : Option Sheet :=
  match x.moved with
  | some d => if x.canvas.isSome then some d else none
  | none => x.canvas.bind fun c => c.sheets[x.sheet]?

/-- The logical tile index of a dense number in an easel's canvas, 0x7FF where it has none (Table 0-5). -/
def State.logical (s : State) (e t : Nat) : Nat :=
  match (s.easel e).canvas with
  | some c => if t ∈ c.tileMap then c.tileMap.idxOf t else 0x7FF
  | none => 0x7FF

/-- The dense number of logical tile `i` of an easel's canvas (R72). -/
def State.denseOf (s : State) (e i : Nat) : Option Nat := (s.easel e).canvas.bind fun c => c.tileMap[i]?

/-- Unit id of a tile (Table 0-5). -/
def State.tileUnit (s : State) (e t : Nat) : Nat := physId (s.server t) + s.logical e t * 65536

/-- The base die of a tile: two compute dies on each (R15). -/
def baseDie (t : Nat) : Nat := t / 336

/-! ### Addresses (R247 to R250) -/

def pageBytes : Nat := 2097152
def lpddrBase : Nat := 2199023255552
def sramBase : Nat := 17592186044416
def storeBase (t : Nat) : Nat := 35184372088832 + physId t * 2097152
/-- Flash lies apart from the device addresses: byte `o` of extent `x` is 2^62 + x × 2^30 + o here. -/
def flashBase : Nat := 4611686018427387904
def storeSize : Nat := 1572864

/-- The tier of a place: 0 HBM3E, 1 LPDDR5X, 2 flash, 3 reservoir SRAM, 4 local store (R269). -/
def tierOf (a : Nat) : Nat :=
  if flashBase ≤ a then 2 else if a < lpddrBase then 0 else if a < 2 * lpddrBase then 1
  else if a < storeBase 0 then 3 else 4

/-- The stack or package of a DRAM place (R248); the flash stack of an extent (a quarter of the extents each). -/
def stackOf (a : Nat) : Nat :=
  match tierOf a with
  | 2 => (a - flashBase) / 1073741824 / 1792
  | 3 => (a - sramBase) / 268435456
  | _ => a / pageBytes % 16

/-- The base die of a place. -/
def dieOf (a : Nat) : Nat :=
  match tierOf a with
  | 2 => stackOf a
  | 3 => stackOf a
  | 4 => (a - storeBase 0) / 2097152 / 512
  | _ => stackOf a / 4

/-- The dense number of the tile whose local store holds a place. -/
def storeTile (a : Nat) : Nat :=
  let id := (a - storeBase 0) / 2097152
  id / 256 * 168 + id / 16 % 16 * 14 + id % 16

/-- The device address of the page that easel `e` has at virtual page `vpn` (R249). -/
def State.pageAddr (s : State) (e vpn : Nat) : Option Nat :=
  (s.live.find? fun x => x.easel = e && (x.cls = 2 || x.cls = 3) && decide (x.place ≤ vpn)
      && decide (vpn < x.place + x.count)).map fun x =>
    (if x.cls = 2 then 0 else lpddrBase) + (x.first + (vpn - x.place)) * pageBytes

/-- The device address of an easel virtual address (R249). -/
def State.translate (s : State) (e va : Nat) : Option Nat :=
  if va < 2 ^ 48 then (s.pageAddr e (va / pageBytes)).map (· + va % pageBytes) else none

/-- A translation of pages [va, va + n) asked of the cache of `holder` (R249): engine 0 to 31, or 32 for the BAR2 window. A page
that is not cached is a miss, and the whole entry is kept. -/
def State.useTranslation (s : State) (holder e va n : Nat) : State :=
  if n = 0 then s
  else
    (span (va / pageBytes) ((va + n - 1) / pageBytes + 1)).foldl (fun s vpn =>
      match s.pageAddr e vpn with
      | none => s
      | some a =>
        if s.streams.caches.contains (holder, e, vpn, a) then s
        else { s with streams := { s.streams with caches := s.streams.caches ++ [(holder, e, vpn, a)],
                                                  misses := tset s.streams.misses holder (tget 0 s.streams.misses holder + 1) } }) s

/-- Cached translations that the binding table no longer gives invalidated (R249). -/
def State.invalidate (s : State) : State :=
  { s with streams := { s.streams with caches := s.streams.caches.filter fun c => s.pageAddr c.2.1 c.2.2.1 = some c.2.2.2 } }

/-- Whether an easel's pages cover virtual pages [vpn, stop); one extent is stepped over at each turn. -/
def coversFrom (table : List Extent) (e : Nat) : Nat → Nat → Nat → Bool
  | 0, vpn, stop => decide (stop ≤ vpn)
  | fuel + 1, vpn, stop =>
    if stop ≤ vpn then true
    else
      match table.find? fun x => x.easel = e && (x.cls = 2 || x.cls = 3) && decide (x.place ≤ vpn)
          && decide (vpn < x.place + x.count) with
      | none => false
      | some x => coversFrom table e fuel (x.place + x.count) stop

/-- Whether every page of [va, va + n) is held (R249); an empty range touches none. -/
def State.mapped (s : State) (e va n : Nat) : Bool :=
  n = 0 || (decide (va + n ≤ 2 ^ 48)
    && coversFrom s.live e s.live.length (va / pageBytes) ((va + n - 1) / pageBytes + 1))

/-- The place of an address of a space (Table 10-3) for easel `e`, where one exists: a device address, or a flash place.
`local0` is where the local end of the issue begins. -/
def State.placeOf (s : State) (e : Nat) (local0 : Nat) (space a : Nat) : Option Nat :=
  match space with
  | 0x0 => some (local0 + a)
  | 0x1 => s.translate e a
  | 0x2 => (s.denseOf e (a / 2097152)).map fun t => storeBase t + a % 2097152
  | 0x3 => ((nthUnit (s.held e 4) (a / 1048576)).filter (s.holds e 4)).map fun u => sramBase + u * 1048576 + a % 1048576
  | 0x4 => if !s.trust.pufOk then none else ((nthUnit (s.held e 0x0B) (a / 1073741824)).filter (s.holds e 0xB)).map fun u => flashBase + u * 1073741824 + a % 1073741824
  | _ => none

/-! ### Memory -/

/-- A DRAM address: below the end of LPDDR5X (Table 10-2). -/
def isDram (a : Nat) : Bool := decide (a < 2 * lpddrBase)

/-- `n` bytes at a place that lies within one page; an unwritten DRAM page reads as zeros (R56). -/
def State.readAt (s : State) (a n : Nat) : List Byte :=
  if flashBase ≤ a then mgets s.flash (a - flashBase) n
  else if isDram a && !(s.tiers.written.contains (a / pageBytes)) then List.replicate n 0
  else mgets s.mem a n

/-- What one mark of poison covers (Table 10-11): a word, or a block of flash. Poison is a list of word numbers; a block of flash is
marked at its first word. -/
def poisonUnit (a : Nat) : Nat := if flashBase ≤ a then 65536 else 8

/-- The marks that lie over [a, a + n). -/
def poisonMarks (a n : Nat) : List Nat :=
  let u := poisonUnit a
  (span (a / u) (ceilDiv (a + n) u)).map (· * (u / 8))

/-- The tags of elements that begin in [a, a + n) of the device memory, by the bit at which they begin. -/
def tagged (a n k : Nat) : Bool := decide (8 * a ≤ k) && decide (k < 8 * (a + n))

/-- Tags put on elements just written. -/
def State.tag (s : State) (l : List (Nat × Tag)) : State := { s with tags := l.foldl (fun m p => tset m p.1 p.2) s.tags }

/-- A place written within one page; the first write to a page fills it with zeros (R56), the poison marks it covers whole are cleared
(R269), and so are the tags of the elements it replaces. -/
def State.writeAt (s : State) (a : Nat) (bs : List Byte) : State :=
  if bs.isEmpty then s
  else
    let s := { s with poison := s.poison.filter fun w => decide (w * 8 < a) || decide (a + bs.length < w * 8 + poisonUnit (w * 8)),
                      tags := tdelIf (tagged a bs.length) s.tags }
    if flashBase ≤ a then { s with flash := mputs s.flash (a - flashBase) bs }
    else if isDram a && !(s.tiers.written.contains (a / pageBytes)) then
      { s with mem := mputs (mclear s.mem (a / pageBytes * pageBytes) pageBytes) a bs,
               tiers := { s.tiers with written := insertSet s.tiers.written (a / pageBytes) } }
    else { s with mem := mputs s.mem a bs }

/-- The pieces of [a, a + n) that do not cross a multiple of `m`; `fuel` bounds their number. -/
def pieces (m : Nat) : Nat → Nat → Nat → List (Nat × Nat)
  | 0, _, _ => []
  | fuel + 1, a, n => if n = 0 then [] else let k := min n (m - a % m); (a, k) :: pieces m fuel (a + k) (n - k)

def piecesOf (m a n : Nat) : List (Nat × Nat) := pieces m (n / m + 2) a n

/-- `n` bytes at an easel virtual address; `none` where a page is not held. -/
def State.readVa (s : State) (e va n : Nat) : Option (List Byte) :=
  (piecesOf pageBytes va n).foldl (fun acc p =>
    match acc, s.translate e p.1 with
    | some bs, some a => some (bs ++ s.readAt a p.2)
    | _, _ => none) (some [])

/-- Bytes written at an easel virtual address, page by page; a page not held is left out. -/
def State.writeVa (s : State) (e va : Nat) (bs : List Byte) : State :=
  ((piecesOf pageBytes va bs.length).foldl (fun (st : State × List Byte) p =>
    let s := match st.1.translate e p.1 with
      | some a => st.1.writeAt a (st.2.take p.2)
      | none => st.1
    (s, st.2.drop p.2)) (s, bs)).1

/-- Whether poison lies in [a, a + n) (R269). -/
def State.poisoned (s : State) (a n : Nat) : Bool :=
  s.poison.any fun w => decide (w * 8 < a + n) && decide (a < w * 8 + poisonUnit (w * 8))

/-- The words of [a, a + n), or its blocks of flash, marked as poison. -/
def State.setPoison (s : State) (a n : Nat) : State := { s with poison := (poisonMarks a n).foldl insertSet s.poison }

/-- Whether poison lies in an easel virtual range. -/
def State.poisonedVa (s : State) (e va n : Nat) : Bool :=
  (piecesOf pageBytes va n).any fun p => match s.translate e p.1 with | some a => s.poisoned a p.2 | none => false

/-! ### Requests at the arbiters (R265, Table 10-9) -/

/-- The arbiter of a place, if it has one (R265). -/
def arbOf (a : Nat) : List Arb :=
  match tierOf a with
  | 0 => [.hbm (stackOf a)]
  | 1 => [.lpddr (stackOf a)]
  | 2 => [.flash (stackOf a)]
  | 3 => [.sram (stackOf a)]
  | _ => []

/-- The bridge between two base dies. -/
def bridgeOf (a b : Nat) : List Arb := if a = b then [] else [.bridge (min a b) (max a b)]

/-- The arbiters that a unit of base die `die` passes to reach places, each once. -/
def arbsOfPlaces (die : Nat) (l : List Nat) : List Arb :=
  (l.flatMap fun a => bridgeOf die (dieOf a) ++ arbOf a).foldl (fun acc x => if acc.contains x then acc else acc ++ [x]) []

/-- The same for [va, va + n) of an easel's memory. -/
def State.arbsVa (s : State) (die e va n : Nat) : List Arb :=
  arbsOfPlaces die ((piecesOf pageBytes va n).filterMap fun p => s.translate e p.1)

/-- The request of a unit that is at its arbiters or has been granted. -/
def State.asked (s : State) (w : Asker) : Option Ask := s.streams.asks.find? (·.who == w)

/-- A request put to its arbiters. -/
def State.ask (s : State) (w : Asker) (slack : Nat) (arbs : List Arb) : State :=
  { s with streams := { s.streams with asks := s.streams.asks ++ [{ id := s.streams.nextXfer, who := w, slack, arbs }],
                                       nextXfer := s.streams.nextXfer + 1 } }

/-- The requests that `p` accepts taken away. -/
def State.unask (s : State) (p : Asker → Bool) : State :=
  { s with streams := { s.streams with asks := s.streams.asks.filter fun q => !p q.who } }

/-- A unit's access through its arbiters (R265): it takes effect once all of them have granted it. The command that finds no grant
leaves its request with them, and comes again (log entry 125). -/
def State.atArbiters (s : State) (w : Asker) (slack : Nat) (arbs : List Arb) (go : State → State) : State :=
  match s.asked w with
  | some q => if q.arbs.isEmpty then go (s.unask (· == w)) else s
  | none => if arbs.isEmpty then go s else s.ask w slack arbs

/-! ### Event records (R8 to R13) -/

/-- The 32 bytes of a record (Table 0-4), its check formed over bytes 0 to 3. -/
def Event.bytes (v : Event) : List Byte :=
  let h := leBytes 2 v.code ++ leBytes 1 v.easel ++ leBytes 1 v.unitClass
  h ++ leBytes 4 v.unitId ++ leBytes 8 (v.seq % 2 ^ 48) ++ leBytes 8 v.detailA ++ leBytes 4 v.detailB ++ h.map (~~~ ·)

/-- The queue whose vector announces a record: that of the command for COMMAND_DONE (R406), the event queue's else (R409). -/
def Event.queue (v : Event) : Nat := if v.code = 0x0103 then v.detailA / 256 % 64 else 32

def Easel.queueAt (x : Easel) (q : Nat) : Queue := if q = 32 then x.events else tget (Queue.reset q) x.queues q
def Easel.setQueue (x : Easel) (q : Nat) (u : Queue) : Easel :=
  if q = 32 then { x with events := u } else { x with queues := tset x.queues q u }

/-- State of an enabled command queue (Table 15-4): active while descriptors wait in it, else idle (DEDUCED, log entry 43). -/
def waitState (head tail : Nat) : Nat := if head = tail then 1 else 2

/-- An MSI-X entry that was not written: masked (Table 2-8). -/
def MsixEntry.reset : MsixEntry := { address := 0, data := 0, masked := true, pending := false }

def Easel.vectorAt (x : Easel) (v : Nat) : MsixEntry := tget MsixEntry.reset x.msix v

/-- A queue's vector fires (R409): in a holdoff interval the next message covers it; masked, without irq or behind a link
that is down, its pending bit is set. -/
def State.fireVector (s : State) (e q : Nat) : State :=
  let x := s.easel e
  let u := x.queueAt q
  let m := x.vectorAt u.vector
  if !u.enable then s
  else if u.inHoldoff then s.setEasel e (x.setQueue q { u with covered := true })
  else if u.irq && !m.masked && s.host.linkUp then
    (s.setEasel e (x.setQueue q { u with inHoldoff := u.holdoff != 0 })).emit (.msix e u.vector)
  else s.setEasel e { x with msix := tset x.msix u.vector { m with pending := true } }

/-- Whether the event queue of an easel can take a record now (R407, R408). -/
def State.eventRoom (s : State) (e : Nat) : Bool :=
  let u := (s.easel e).events
  u.enable && u.state != 3 && decide ((u.tail + 2 ^ 32 - u.head) % 2 ^ 32 < u.size)
    && (if u.inEasel then s.mapped e (u.base + 32 * (u.tail % max u.size 1)) 32 else s.host.linkUp)

/-- A record written into the ring, whole (R10), and its vector fired. -/
def State.putRecord (s : State) (e : Nat) (v : Event) : State :=
  let x := s.easel e
  let u := x.events
  let a := u.base + 32 * (u.tail % max u.size 1)
  let s := if u.inEasel then s.writeVa e a v.bytes else s.emit (.hostWrite e a v.bytes)
  let s := s.onEasel e fun x => { x with events := { x.events with tail := (u.tail + 1) % 2 ^ 32 } }
  s.fireVector e v.queue

/-- Held records written while there is room, in arrival order (R408). -/
def flushHeld (s : State) (e : Nat) : List Event → State
  | [] => s.onEasel e fun x => { x with held := [] }
  | v :: vs =>
    if s.eventRoom e then flushHeld (s.putRecord e v) e vs else s.onEasel e fun x => { x with held := v :: vs }

/-- The unit id of a host queue (Table 0-5). -/
def queueUnit (e q : Nat) : Nat := e + q * 256

/-- Room has returned: EVENT_OVERFLOW first where records were dropped, then the held records (R408). -/
def State.flush (s : State) (e : Nat) : State :=
  if s.eventRoom e then
    let x := s.easel e
    let s := if x.dropped = 0 then s
      else (s.setEasel e { x with dropped := 0 }).putRecord e
        { code := 0x0105, easel := e, unitClass := 0x01, unitId := queueUnit e 32, seq := x.lastSeq, detailA := x.dropped,
          detailB := 0 }
    flushHeld s e (s.easel e).held
  else s

/-- A record held for an easel: at most 256, COMMAND_DONE records dropped first (R408). -/
def Easel.hold (x : Easel) (v : Event) : Easel :=
  let lose := fun (y : Easel) => { y with lost := addSat (2 ^ 32 - 1) y.lost 1, dropped := y.dropped + 1 }
  if x.held.length < 256 then { x with held := x.held ++ [v] }
  else if v.code = 0x0103 then lose x
  else
    match findAt (fun (h : Event) => h.code = 0x0103) x.held 0 with
    | some (i, _) => lose { x with held := dropAt x.held i ++ [v] }
    | none => lose x

/-- A record delivered to the event queue of an easel (R32, R407, R408). -/
def State.deliver (s : State) (e : Nat) (v : Event) : State :=
  let x := s.easel e
  if x.held.isEmpty && x.dropped = 0 && s.eventRoom e then s.putRecord e v
  else (s.setEasel e (x.hold v)).flush e

/-- A copy of a record at the Curator: taken in, or missed while it is not running or its intake is full (R32). The manual gives the
intake no size, so its places beyond the first are a value of the implementation (log entry 124). -/
def Dict.accept (d : Dict) (v : Event) : Dict :=
  if d.running && decide (d.intake.length < Sys2Proof.Config.curatorIntake + 1) then { d with intake := d.intake ++ [v] }
  else { d with missed := addSat (2 ^ 64 - 1) d.missed 1 }

/-- The Curator's copy of a record (R32). -/
def State.copyIn (s : State) (v : Event) : State := { s with dict := s.dict.accept v }

/-- A record delivered without the trace units looking at it. A device-wide record goes to easel 0 (R11). -/
def State.post (s : State) (v : Event) : State := (s.deliver (if v.easel = 0xFF then 0 else v.easel) v).copyIn v

/-! ### Trace units (R467 to R471) -/

def State.traceUnit (s : State) (d : Nat) : TraceUnit := tget TraceUnit.reset s.obs.trace d
def State.setTrace (s : State) (d : Nat) (u : TraceUnit) : State := { s with obs := { s.obs with trace := tset s.obs.trace d u } }

/-- Whether a sink is usable (R468): its size and its region, HBM3E pages or reservoir granules, bound to its easel. -/
def State.sinkValid (s : State) (k : Nat × Nat × Nat × Nat) : Bool :=
  let (space, e, off, size) := k
  match space with
  | 0x1 => decide (96 ≤ size) && decide (size ≤ 1073741824) && decide (off + size ≤ 2 ^ 48)
    && coversFrom (s.live.filter (·.cls = 2)) e s.live.length (off / pageBytes) ((off + size - 1) / pageBytes + 1)
  | 0x3 => decide (65536 ≤ size) && decide (size ≤ 67108864) && within off size (s.unitCount e 4 * 1048576)
  | _ => false

/-- Bytes stored at an offset of a sink, piece by piece. -/
def State.sinkWrite (s : State) (k : Nat × Nat × Nat × Nat) (o : Nat) (bs : List Byte) : State :=
  let (space, e, off, _) := k
  ((piecesOf 1048576 (off + o) bs.length).foldl (fun (st : State × List Byte) p =>
    let s := match st.1.placeOf e 0 space p.1 with
      | some a => st.1.writeAt a (st.2.take p.2)
      | none => st.1
    (s, st.2.drop p.2)) (s, bs)).1

/-- Slots of a sink (R469). -/
def sinkSlots (k : Nat × Nat × Nat × Nat) : Nat := (k.2.2.2 - 64) / 32

/-- The sink header (Table 18-7). -/
def TraceUnit.header (u : TraceUnit) (d : Nat) : List Byte :=
  leBytes 4 0x43525451 ++ leBytes 2 0x0100 ++ leBytes 1 (u.mode + u.state * 4 + u.triggered.toNat * 16) ++ leBytes 1 d
    ++ leBytes 4 (sinkSlots u.sink) ++ leBytes 4 u.arms ++ leBytes 8 u.write ++ leBytes 8 u.trigger ++ leBytes 8 u.lost
    ++ leBytes 8 u.dropped ++ List.replicate 16 0

/-- A trace record (Table 18-6): kind, easel, reason, tile, PC, sequence, logical index, count, value, register. -/
def traceRecord (kind e reason tile pc seq logical count value reg : Nat) : List Byte :=
  leBytes 1 (e % 64 + kind * 64) ++ leBytes 1 reason ++ leBytes 2 tile ++ leBytes 4 (pc % 2 ^ 24) ++ leBytes 6 seq
    ++ leBytes 2 logical ++ leBytes 4 count ++ leBytes 2 value ++ leBytes 2 0 ++ leBytes 4 reg ++ leBytes 4 0

/-- Records kept from a trigger on (R470); at least the trigger record itself. -/
def State.afterTrigger (s : State) (u : TraceUnit) : Nat :=
  let n := sinkSlots u.sink
  max 1 (n - n * policy s 0xB000 7 / 100)

/-- A record of a trace unit itself, to the easel that holds its sink (R470, R471). -/
def State.traceNotice (s : State) (d code detailA : Nat) : Event :=
  let e := (s.traceUnit d).sink.2.1
  { code, easel := e, unitClass := 0x0D, unitId := d, seq := (s.easel e).lastSeq, detailA, detailB := d }

/-- A unit with a staged record asks to write it, header and record as one (R469, R470). -/
def State.traceAsk (s : State) (d : Nat) : State :=
  let u := s.traceUnit d
  if u.stage.isEmpty || (s.asked (.trace d)).isSome then s
  else
    let at_ := fun (o : Nat) => (s.placeOf u.sink.2.1 0 u.sink.1 (u.sink.2.2.1 + o)).toList
    s.ask (.trace d) 16384 (arbsOfPlaces d (at_ (64 + 32 * (u.write % max (sinkSlots u.sink) 1)) ++ at_ 0))

/-- A record handed to a trace unit (R468 to R470): staged, dropped once the unit has stopped, or lost where the stage of 4,096 is full.
What comes with the state is the TRACE_LOSS that the first loss of an arming raises. -/
def State.traceStore (s : State) (d e : Nat) (bs : List Byte) : State × List Event :=
  let u := s.traceUnit d
  if !u.armed || !s.sinkValid u.sink || (u.sink.2.1 != 0 && u.sink.2.1 != e) || sinkSlots u.sink = 0 then (s, [])
  else if u.state != 0 then (s.setTrace d { u with dropped := u.dropped + 1 }, [])
  else if 4096 ≤ u.stage.length then
    (s.setTrace d { u with lost := u.lost + 1 }, if u.lost = 0 then [s.traceNotice d 0x0B01 u.write] else [])
  else ((s.setTrace d { u with stage := u.stage ++ [bs] }).traceAsk d, [])

/-- Whether easel `e` is traced (R109, `trace_easels`). -/
def State.traced (s : State) (e : Nat) : Bool := decide (e < 64) && (policy s 0xB000 2).testBit e

/-- Trace unit `d` takes a trigger for `e` with triggering code `code` (R471). The staged records are written before its own, so the
index of the trigger is known: where that record is lost in a full stage, it is the index of the record that follows (log entry 126). -/
def State.traceTake (s : State) (d e code seq : Nat) : State × List Event :=
  let u := s.traceUnit d
  if u.armed && u.mode = 2 && u.state = 0 && !u.triggered && s.sinkValid u.sink && (u.sink.2.1 = 0 || u.sink.2.1 = e) then
    let t := u.write + u.stage.length
    let u' := { u with triggered := true, trigger := t, triggers := u.triggers + 1 }
    (s.setTrace d u').traceStore d e (traceRecord 2 e 0 0 0 seq 0 u'.triggers code (t % 2 ^ 32))
  else (s, [])

/-- Whether the trace units look at a record: a control-plane or data-plane unit raised it for a traced easel (R471). -/
def State.triggers (s : State) (v : Event) : Bool :=
  s.traced v.easel && (policy s 0xB000 8).testBit (v.code / 256) && v.unitClass != 0x0A && v.unitClass != 0x0B && v.unitClass != 0x0C

/-- A record delivered and shown to the trace units. A unit that a record triggers may raise a record of its own, which is shown to the
others; each unit triggers once, so `fuel` bounds the chain. -/
def raiseChain : Nat → Event → State → State
  | 0, v, s => s.post v
  | fuel + 1, v, s =>
    let s := s.post v
    if s.triggers v then
      (List.range 4).foldl (fun s d =>
        let r := s.traceTake d v.easel v.code v.seq
        r.2.foldl (fun s w => raiseChain fuel w s) r.1) s
    else s

/-! ### Raising records -/

/-- A record raised on a fault line (R32). -/
def State.raise (s : State) (v : Event) : State := raiseChain 8 v s

/-- What a trace unit did, with the records it raised. -/
def raiseAll (r : State × List Event) : State := r.2.foldl State.raise r.1

/-- The oldest staged record of a trace unit written, and the header behind it (R469, R470): a unit that freezes raises TRACE_FROZEN
(R471), and what it still has staged is dropped, as it is once the unit has stopped full. -/
def State.traceWrite (s : State) (d : Nat) : State :=
  let u := s.traceUnit d
  match u.stage with
  | [] => s
  | bs :: rest =>
    let n := sinkSlots u.sink
    if !s.sinkValid u.sink || n = 0 then s.setTrace d { u with stage := [] }
    else
      let w := u.write + 1
      let frozen := u.mode = 2 && u.triggered && decide (u.trigger + s.afterTrigger u ≤ w)
      let state := if frozen then 1 else if u.mode = 1 && decide (n ≤ w) then 2 else 0
      let u' := { u with write := w, state, stage := if state = 0 then rest else [],
                         dropped := u.dropped + if state = 0 then 0 else rest.length }
      let s := s.sinkWrite u.sink (64 + 32 * (u.write % n)) bs
      let s := ((s.sinkWrite u.sink 0 (u'.header d)).setTrace d u').traceAsk d
      if frozen then s.raise (s.traceNotice d 0x0B03 u.trigger) else s

/-- A record for easel `e` with its latest sequence number (R8). -/
def State.report (s : State) (code e cls unit a b : Nat) : State :=
  s.raise { code, easel := e, unitClass := cls, unitId := unit, seq := (s.easel e).lastSeq, detailA := a, detailB := b }

/-- A record for easel `e` under sequence number `seq`. -/
def State.reportSeq (s : State) (code e cls unit seq a b : Nat) : State :=
  s.raise { code, easel := e, unitClass := cls, unitId := unit, seq, detailA := a, detailB := b }

/-- A device-wide record (R11). -/
def State.reportDevice (s : State) (code cls unit a b : Nat) : State :=
  s.raise { code, easel := 0xFF, unitClass := cls, unitId := unit, seq := (s.easel 0).lastSeq, detailA := a, detailB := b }

/-! ### Commands -/

def Cmd.op (c : Cmd) : Nat := at8 c.bytes 0 1
def Cmd.notify (c : Cmd) : Bool := fld (at8 c.bytes 1 1) 0 1 = 1
def Cmd.last (c : Cmd) : Bool := fld (at8 c.bytes 1 1) 1 1 = 1
def Cmd.rerun (c : Cmd) : Bool := fld (at8 c.bytes 1 1) 2 1 = 1
def Cmd.fence (c : Cmd) : Bool := fld (at8 c.bytes 1 1) 3 1 = 1
def Cmd.listCount (c : Cmd) : Nat := at8 c.bytes 4 2
def Cmd.param (c : Cmd) : Nat := at8 c.bytes 8 8
def Cmd.paramLen (c : Cmd) : Nat := at8 c.bytes 16 4
def Cmd.step (c : Cmd) : Nat := at8 c.bytes 24 6

/-- The command of an easel that has started with operation `op`. -/
def Easel.running (x : Easel) (op : Nat) : Option Cmd := x.cmds.find? fun c => c.op = op && c.phase == .started

/-- A barrier command (R60, R66, R229). -/
def barrierOp (op : Nat) : Bool := op = 2 || op = 3 || op = 4

/-- Whether a dispatched command may start (Table 15-6): a barrier or a fenced one once every earlier one has completed, a
run-work command once the run before it has. -/
def Easel.mayStart (x : Easel) (c : Cmd) : Bool :=
  let before := x.cmds.filter fun d => decide (d.seq < c.seq)
  (!(barrierOp c.op || c.fence) || before.isEmpty) && (c.op != 1 || before.all fun d => d.op != 1)

/-- The command of an easel with operation `op` that is dispatched and may start now. -/
def Easel.dispatched (x : Easel) (op : Nat) : Option Cmd :=
  x.cmds.find? fun c => c.op = op && c.phase == .dispatched && x.mayStart c

/-- The slot vector that work of an easel uses (R76): its run-work command's, else the latest. -/
def Easel.vector (x : Easel) : List Nat := match x.running 0x01 with | some c => c.slots | none => x.slots

/-- The sequence number of the run-work command of an easel, or its latest. -/
def Easel.workSeq (x : Easel) : Nat := match x.running 0x01 with | some c => c.seq | none => x.lastSeq

def Easel.workStep (x : Easel) : Nat := match x.running 0x01 with | some c => c.step | none => 0

/-- Whether the verdict of a training step is decided, and whether it was skipped (R166). -/
def Easel.decided (x : Easel) (t : Nat) : Bool := x.verdicts.any (·.1 = t)
def Easel.verdict (x : Easel) (t : Nat) : Verdict :=
  tget { skipped := false, k := x.lossExp, next := x.lossExp, clean := x.clean } x.verdicts t
def Easel.wasSkipped (x : Easel) (t : Nat) : Bool := (x.verdict t).skipped

/-- A command with its phase changed. -/
def Easel.setPhase (x : Easel) (seq : Nat) (p : Phase) : Easel :=
  { x with cmds := x.cmds.map fun c => if c.seq = seq then { c with phase := p } else c }

/-- A command taken out of the list of an easel. -/
def Easel.dropCmd (x : Easel) (seq : Nat) : Easel := { x with cmds := x.cmds.filter fun c => c.seq != seq }

/-! ### Semaphores (R275, R276, R281) -/

def Easel.semDecl (x : Easel) (id : Nat) : Option SemDecl := x.sheetDef.bind fun d => d.sems.find? fun m => m.id = id

/-- The entry of a semaphore: of a tile (kind 0), or of a die-bank block (kind 1). -/
def semKeyOf (tileMap : List Nat) (d : SemDecl) : Option Nat :=
  if d.kind = 0 then (tileMap[d.home]?).map fun t => t * 256 + d.id % 256 else some (344064 + d.home * 256 + d.id % 256)

def Easel.semKey (x : Easel) (d : SemDecl) : Option Nat := x.canvas.bind fun c => semKeyOf c.tileMap d

def State.sem (s : State) (k : Nat) : Sem := tget Sem.reset s.sems k
def State.setSem (s : State) (k : Nat) (m : Sem) : State := { s with sems := tset s.sems k m }

/-- A count stored with its complement, as one whole (R281). -/
def Sem.store (m : Sem) (v : Word32) : Sem := { m with count := v, comp := ~~~ v }

/-- The complement holds (R281). -/
def Sem.sound (m : Sem) : Bool := m.comp == ~~~ m.count

def Easel.ctrDecl (x : Easel) (w : Nat) : Option CtrDecl := x.sheetDef.bind fun d => d.ctrs.find? fun m => m.number = w

/-- Unit class and unit id of a semaphore's home (R281). -/
def State.semHome (s : State) (e : Nat) (d : SemDecl) : Nat × Nat :=
  if d.kind = 0 then (0x04, match s.denseOf e d.home with | some t => s.tileUnit e t | none => 0) else (0x03, d.home / 64)

/-- An easel without the canvas it had. -/
def Easel.unload (x : Easel) : Easel := { x with canvas := none, moved := none }

/-! ### What a tile has under way (R112, R113, R129) -/

/-- Units (buffer × 2 + half) that an instruction reads and writes, held apart. -/
abbrev Units := List Nat × List Nat

/-- Whether an instruction that reads and writes `u` must wait for one that holds `v` (R113). -/
def clash (u v : Units) : Bool := u.2.any (fun x => v.1.contains x || v.2.contains x) || u.1.any (fun x => v.2.contains x)

/-- The outstanding issues of a tile. -/
def State.issuesOf (s : State) (t : Nat) : List Issue := s.streams.issues.filter (·.tile = t)

/-- Whether an earlier chain, or an earlier issue, holds a unit that a matrix instruction needs. -/
def State.mmaOnVector (s : State) (t : Nat) (op : MmaOp) : Bool :=
  (s.tile t).vecQ.any fun o => decide (o.order < op.order) && clash op.units o.units
def State.mmaOnStream (s : State) (t : Nat) (op : MmaOp) : Bool :=
  (s.issuesOf t).any fun y => decide (y.order < op.order) && clash op.units y.units

/-- Whether a matrix instruction may start under R113 as far as the vector engine and the streams go. -/
def State.mmaFree (s : State) (t : Nat) (op : MmaOp) : Bool := !s.mmaOnVector t op && !s.mmaOnStream t op

/-- How many matrix instructions may be in the array together: one, and in overlap mode as many as drain behind the last entered,
W + 190 steps at one every max(W, 64) (R128, R129). -/
def overlapDepth (op : MmaOp) : Nat := if op.overlap then 4 else 1

/-- The instructions at the head of an array queue that have entered the array: each may start, and takes a unit from none of those
before it. Steps are not counted, so one that may enter has (DEDUCED, log entry 29). -/
def State.enteredFrom (s : State) (t : Nat) : List MmaOp → List MmaOp → List MmaOp
  | _, [] => []
  | inside, op :: rest =>
    if s.mmaFree t op && decide (inside.length < overlapDepth op) && !(inside.any fun o => clash op.units o.units) then
      op :: s.enteredFrom t (inside ++ [op]) rest
    else []

def State.entered (s : State) (t : Nat) : List MmaOp := s.enteredFrom t [] (s.tile t).arrayQ

/-- Whether the oldest chain must wait: for an earlier `mma` or issue that holds a unit (R113), or for the verdict of its training
step (R216). -/
def State.chainOnArray (s : State) (t : Nat) (op : VecOp) : Bool :=
  (s.tile t).arrayQ.any fun o => decide (o.order < op.order) && clash op.units o.units
def State.chainOnStream (s : State) (t : Nat) (op : VecOp) : Bool :=
  (s.issuesOf t).any fun y => decide (y.order < op.order) && clash op.units y.units
def State.chainWaits (s : State) (e t : Nat) (op : VecOp) : Bool :=
  s.chainOnArray t op || s.chainOnStream t op
    || (op.verdict && (s.easel e).workStep != 0 && !(s.easel e).decided (s.easel e).workStep)

/-- Whether a pair sums in the long accumulator (Table 4-10): its formats are 8 bits or narrower. -/
def exactPair (fa : Nat) : Bool := decide (3 ≤ fa) && decide (fa ≤ 9)

/-- Bytes of one element of C (R103): an exact or FP32 partial, or an element of the output format. -/
def outSize (fa fc : Nat) (part : Bool) : Nat := if part then (if exactPair fa then 16 else 4) else widthOf fc / 8

/-- Pitch of a row of `n` elements of C (R102). -/
def outPitch (n size : Nat) : Nat := ceilDiv (n * size) 64 * 64

/-- Bytes of one element of an instruction's C, and the pitch of its rows. -/
def MmaOp.outBytes (op : MmaOp) : Nat := outSize op.fa op.fc op.partialOut
def MmaOp.outPitch (op : MmaOp) : Nat := Machine.outPitch op.n op.outBytes

/-- The local-store ranges of the outputs that a tile's engines are forming. -/
def State.forming (s : State) (e t : Nat) : List (Nat × Nat) :=
  (s.entered t).flatMap (fun op => (List.range op.m).map fun i => (op.c + i * op.outPitch, op.n * op.outBytes))
    ++ (match (s.tile t).vecQ with
        | op :: _ => if s.chainWaits e t op then [] else op.outs
        | [] => [])

/-- A range of a local store left undefined: each byte is a free value, and whether its poison marks stand is free (R117, R141, R221;
log entry 13). -/
def State.undefine (s : State) (a n : Nat) : State :=
  if n = 0 then s
  else
    let k := s.choices
    let bs := (List.range n).map fun i => BitVec.ofNat 8 (Sys2Proof.Config.freeNat (k + i))
    let s := { s with choices := k + n + 1 }
    if Sys2Proof.Config.coin (k + n) then { s with mem := mputs s.mem a bs, tags := tdelIf (tagged a n) s.tags } else s.writeAt a bs

/-- The same of a range of easel memory, page by page. -/
def State.undefineVa (s : State) (e a n : Nat) : State :=
  (piecesOf pageBytes a n).foldl (fun (s : State) p => match s.translate e p.1 with | some d => s.undefine d p.2 | none => s) s

/-- What the tiles' engines of an easel are forming left undefined. -/
def State.undefineForming (s : State) (e : Nat) : State :=
  (s.units e 1).foldl (fun (s : State) t => (s.forming e t).foldl (fun s p => s.undefine (storeBase t + p.1) p.2) s) s

/-- The varnish buffer that the glaze units are writing left undefined (R367). -/
def State.undefineUpdate (s : State) (e : Nat) : State :=
  match (s.easel e).update with
  | some u => u.writes.foldl (fun s p => s.undefineVa e p.1 p.2) s
  | none => s

/-! ### A fault stops an easel (R86, R117, R271, R300) -/

/-- A tile that stops issuing: its array and vector work is abandoned and its wait ends without a grant. -/
def Tile.stop (x : Tile) : Tile := { x with running := false, hold := .none, arrayQ := [], vecQ := [] }

/-- The waiters of an easel's semaphores released without a grant; counts stand. -/
def State.dropWaiters (s : State) (e : Nat) : State :=
  let mine := fun (w : Waiter) => match w.who with
    | .tile t => s.ownerOf 1 t = some e
    | .issue i => s.streams.issues.any fun y => y.id = i && y.easel = e
    | .gate i => s.streams.issues.any fun y => y.id = i && y.easel = e
    | .reduction f _ => f = e
    | .update f _ => f = e
  { s with sems := tmap (fun _ m => { m with queue := m.queue.filter (!mine ·), values := m.values.filter (!mine ·) }) s.sems }

/-- The stream issues of an easel stopped, with their transfers (R271). -/
def State.dropStreams (s : State) (e : Nat) : State :=
  let keep := fun (i : Nat) => s.streams.issues.any fun y => y.id = i && y.easel != e
  -- a flash block that was under way is not programmed
  let gone := (s.streams.flashTurn.filter fun t => !keep t.2.1).map (·.1)
  let lost := fun (o : Nat) => gone.contains (stackOf (flashBase + o))
  { s with streams := { s.streams with issues := s.streams.issues.filter (·.easel != e),
                                       xfers := s.streams.xfers.filter fun x => keep x.issue,
                                       flashTurn := s.streams.flashTurn.filter fun t => keep t.2.1 },
           tiers := { s.tiers with flashStage := s.tiers.flashStage.filter fun c => !lost c.1,
                                   flashBad := s.tiers.flashBad.filter fun b => !lost (b * 65536) } }

/-- Posted signals pending for an easel's data channels discarded (R300). -/
def State.dropPosted (s : State) (e : Nat) : State :=
  { s with fabric := { s.fabric with
      fences := s.fabric.fences.filter fun f => !(f.posted.isSome && s.holds e 7 f.channel) } }

/-- Every fence key of an easel's data channels discarded (R300). -/
def State.dropKeys (s : State) (e : Nat) : State :=
  { s with fabric := { s.fabric with fences := s.fabric.fences.filter fun f => !s.holds e 7 f.channel } }

/-- Whether a request at the arbiters serves work of an easel that a stop ends; its drains, but for exports, go on. -/
def State.askedBy (s : State) (e : Nat) : Asker → Bool
  | .lane l => match s.primer.lanes.find? (·.1 = l) with | some p => p.2.easel = e | none => true
  | .intake f => f = e
  | .output f _ => f = e
  | .reduction f _ => f = e
  | .glaze f => f = e
  | .drain f id => f = e && (s.easel e).drains.any fun d => d.id = id && d.layer = 4
  | .log f _ => f = e
  | .bar2 _ _ | .trace _ => false

/-- Everything in flight of an easel stops: tiles, waits, streams, signals on their way, intakes, update, exports, commands
and loads. Contents of memory, but for the buffer of an update (R367), counts and registers stand. -/
def State.stopEasel (s : State) (e : Nat) : State :=
  let s := ((s.undefineUpdate e).dropWaiters e).dropStreams e
  let s := s.dropPosted e
  let s := { s with
    fabric := { s.fabric with remotes := s.fabric.remotes.filter fun (r : Remote) =>
      r.easel != e || r.log.isSome || (match r.drain with | some l => l % 8 != 4 | none => false) },
    tiles := tmap (fun t x => if s.ownerOf 1 t = some e then x.stop else x) s.tiles,
    net := s.net.filter (·.easel != e),
    streams := { s.streams with asks := s.streams.asks.filter fun q => !(s.askedBy e q.who) },
    primer := { s.primer with intakes := s.primer.intakes.filter (·.easel != e),
                              lanes := s.primer.lanes.filter fun p => p.2.easel != e } }
  s.onEasel e fun x => { x with cmds := [], loading := none, rearranged := none, update := none, awaiting := [], firings := [], restore := none,
                                drains := x.drains.filter (·.layer != 4), faultAtBoundary := false, rejected := false, rerun := [] }

/-- The transfers of an easel that its arbiters have granted: they land yet, or are discarded with what is left of the easel's work
(R271). A part of a flash block is discarded, as no part is programmed alone (R260). -/
def State.granted (s : State) (e : Nat) : List Xfer := s.streams.xfers.filter fun x =>
  x.arbs.isEmpty && x.sent.isNone && (s.streams.issues.any fun y => y.id = x.issue && y.easel = e)
    && !(s.streams.flashTurn.any fun t => t.2.1 = x.issue)

/-- What granted transfers need to land: their issues, which have no more to move and never complete. -/
def State.landing (s : State) (l : List Xfer) : List Issue :=
  (s.streams.issues.filter fun y => l.any fun x => x.issue = y.id).map fun y => { y with runs := [], parts := [], finished := false }

/-- An easel enters FAULTED at once (Table 2-3). Outputs that its tiles' engines are forming are undefined (R141, R221), and granted
transfers may land still (R271). -/
def State.fault (s : State) (e : Nat) : State :=
  if s.works e then
    let s := s.undefineForming e
    let l := s.granted e
    let y := s.landing l
    let s := s.stopEasel e
    { s with streams := { s.streams with issues := s.streams.issues ++ y, xfers := s.streams.xfers ++ l } }.onEasel e
      fun x => { x with mode := .faulted }
  else s

/-- A record that places its easel in FAULTED. -/
def State.faultWith (s : State) (code e cls unit seq a b : Nat) : State :=
  (s.reportSeq code e cls unit seq a b).fault e

/-- A fault deferred to the next step boundary (R359). -/
def State.faultLater (s : State) (e : Nat) : State := s.onEasel e fun x => { x with faultAtBoundary := true }

/-- An uncorrectable error found where it arises (R269): the record, and the deferred fault of R270. -/
def State.uncorrectable (s : State) (e cls unit seq space addr tier requester stream : Nat) : State :=
  let s := s.reportSeq 0x0502 e cls unit seq (addr % 2 ^ 60 + space * 2 ^ 60) (tier + requester * 256 + stream * 65536)
  if policy s 0x5000 7 = 1 then s.faultLater e else s

/-- Every command of an easel ended (R60, R66): nothing of it is in flight. -/
def Easel.quiet (x : Easel) : Bool := x.cmds.all fun c => c.phase == .taken

/-- Whether an easel has a tile on a compute die whose control sequencer has stopped (Table 1-9). -/
def State.sequencerStopped (s : State) (e : Nat) : Bool := (s.held e 1).any fun x =>
  s.power.stoppedDies.any fun d => decide (x.first < (d + 1) * 168) && decide (d * 168 < x.first + x.count)

/-- A command of an easel completes (R406): COMPLETED advances and COMMAND_DONE is written where it asks for it; a fault
deferred to the step boundary (R359), or that of a stopped control sequencer (Table 1-9), takes its place. -/
def State.complete (s : State) (e : Nat) (c : Cmd) (boundary : Bool) : State :=
  let x := s.easel e
  if boundary && (x.faultAtBoundary || s.sequencerStopped e) then (s.onEasel e fun x => x.dropCmd c.seq).fault e
  else
    let u := x.queueAt c.queue
    let s := s.setEasel e ((x.dropCmd c.seq).setQueue c.queue { u with completed := u.completed + 1 })
    if c.notify then s.reportSeq 0x0103 e 0x01 (queueUnit e c.queue) c.seq (c.op + c.queue * 256) 0 else s

end Sys2Proof.Machine
end

