-- ==== Sys2Proof/Machine/Operands.lean ====
section
/-! DEFINITION. Operand forms: the stage-program word and the address-program word with their encoders, value sources,
formulas, shape slots, context items, panels and buffer plans. -/

namespace Sys2Proof.Machine

/-! ### Stage-program words (R94 to R111, Tables 4-2 to 4-16) -/

/-- A decoded stage-program word. An operand field that may hold a register, an immediate or a slot is kept as its 32 bits
beside its selector. -/
inductive TileOp where
  | fin
  | loop (src index body operand : Nat)
  | br (a cond kind b target : Nat)
  | seti (d imm : Nat)
  | sethi (d imm : Nat)
  | alu (d a func imm b : Nat)
  | getslot (d slot : Nat)
  | getctx (d item : Nat)
  | mma (aBuf aOff bBuf bOff cBuf cOff shape scale seed part : Nat)
  | vchain (buf off param : Nat)
  | issue (stream p q buf off useLocal sig sem : Nat)
  | await (stream all : Nat)
  | mark (value reg : Nat)
  | signal (sem imm operand : Nat)
  | wait (sem imm operand : Nat)
  | waitv (sem imm operand : Nat)
  | fadd (d counter imm operand : Nat)
  | claim (d counter ticket : Nat)
  deriving DecidableEq, Repr

/-- A register operand in the top four bits of a 32-bit operand field, the rest zero; any value when it is an immediate. -/
def regOrImm (imm operand : Nat) : Bool := imm = 1 || operand % 2 ^ 28 = 0

/-- The instruction a stage-program word encodes (Tables 4-2 to 4-16); `none` for a reserved class, opcode, code or field. -/
def decodeStage (w : Nat) : Option TileOp :=
  let f := fld w
  match f 60 4, f 54 6 with
  | 0x0, 0x00 => if f 0 54 = 0 then some .fin else none
  | 0x0, 0x01 =>
    let ok := match f 52 2 with
      | 0 => f 7 28 = 0
      | 1 => true
      | 2 => f 11 24 = 0
      | _ => false
    if ok && f 35 13 != 0 && decide (f 35 13 ≤ 8191) && f 0 3 = 0 then some (.loop (f 52 2) (f 48 4) (f 35 13) (f 3 32)) else none
  | 0x0, 0x02 =>
    let ok := match f 45 2 with
      | 0 => f 17 28 = 0
      | 1 => true
      | 2 => f 21 24 = 0
      | _ => false
    if ok && f 47 3 != 7 then some (.br (f 50 4) (f 47 3) (f 45 2) (f 13 32) (f 0 13)) else none
  | 0x0, 0x03 => if f 48 2 = 0 then some (.seti (f 50 4) (f 0 48)) else none
  | 0x0, 0x04 => if f 16 34 = 0 then some (.sethi (f 50 4) (f 0 16)) else none
  | 0x0, 0x05 =>
    if f 0 9 = 0 && regOrImm (f 41 1) (f 9 32) then some (.alu (f 50 4) (f 46 4) (f 42 4) (f 41 1) (f 9 32)) else none
  | 0x0, 0x06 => if f 0 42 = 0 then some (.getslot (f 50 4) (f 42 8)) else none
  | 0x0, 0x07 => if f 0 44 = 0 && decide (f 44 6 ≤ 13) then some (.getctx (f 50 4) (f 44 6)) else none
  | 0x1, 0x00 =>
    if f 0 8 = 0 then
      some (.mma (f 46 8) (f 42 4) (f 34 8) (f 30 4) (f 22 8) (f 18 4) (f 14 4) (f 10 4) (f 9 1) (f 8 1))
    else none
  | 0x2, 0x00 => if f 0 38 = 0 then some (.vchain (f 46 8) (f 42 4) (f 38 4)) else none
  | 0x3, 0x00 =>
    if f 0 6 = 0 && (f 22 1 = 1 || f 6 16 = 0) then
      some (.issue (f 44 10) (f 40 4) (f 36 4) (f 28 8) (f 24 4) (f 23 1) (f 22 1) (f 6 16))
    else none
  | 0x3, 0x01 => if f 0 43 = 0 then some (.await (f 44 10) (f 43 1)) else none
  | 0x4, 0x00 => if f 0 5 = 0 && regOrImm (f 37 1) (f 5 32) then some (.signal (f 38 16) (f 37 1) (f 5 32)) else none
  | 0x4, 0x01 => if f 0 5 = 0 && regOrImm (f 37 1) (f 5 32) then some (.wait (f 38 16) (f 37 1) (f 5 32)) else none
  | 0x4, 0x02 => if f 0 5 = 0 && regOrImm (f 37 1) (f 5 32) then some (.waitv (f 38 16) (f 37 1) (f 5 32)) else none
  | 0x4, 0x03 =>
    if f 0 1 = 0 && regOrImm (f 33 1) (f 1 32) then some (.fadd (f 50 4) (f 34 16) (f 33 1) (f 1 32)) else none
  | 0x4, 0x04 => if f 0 1 = 0 && f 33 1 = 0 && f 1 28 = 0 then some (.claim (f 50 4) (f 34 16) (f 29 4)) else none
  | 0x5, 0x00 => if f 0 34 = 0 then some (.mark (f 38 16) (f 34 4)) else none
  | _, _ => none

/-- The word of an instruction, from the same tables. -/
def encodeStage : TileOp → Nat
  | .fin => 0
  | .loop src index body operand => 1 * 2 ^ 54 + src * 2 ^ 52 + index * 2 ^ 48 + body * 2 ^ 35 + operand * 2 ^ 3
  | .br a cond kind b target => 2 * 2 ^ 54 + a * 2 ^ 50 + cond * 2 ^ 47 + kind * 2 ^ 45 + b * 2 ^ 13 + target
  | .seti d imm => 3 * 2 ^ 54 + d * 2 ^ 50 + imm
  | .sethi d imm => 4 * 2 ^ 54 + d * 2 ^ 50 + imm
  | .alu d a func imm b => 5 * 2 ^ 54 + d * 2 ^ 50 + a * 2 ^ 46 + func * 2 ^ 42 + imm * 2 ^ 41 + b * 2 ^ 9
  | .getslot d slot => 6 * 2 ^ 54 + d * 2 ^ 50 + slot * 2 ^ 42
  | .getctx d item => 7 * 2 ^ 54 + d * 2 ^ 50 + item * 2 ^ 44
  | .mma aBuf aOff bBuf bOff cBuf cOff shape scale seed part =>
    1 * 2 ^ 60 + aBuf * 2 ^ 46 + aOff * 2 ^ 42 + bBuf * 2 ^ 34 + bOff * 2 ^ 30 + cBuf * 2 ^ 22 + cOff * 2 ^ 18
      + shape * 2 ^ 14 + scale * 2 ^ 10 + seed * 2 ^ 9 + part * 2 ^ 8
  | .vchain buf off param => 2 * 2 ^ 60 + buf * 2 ^ 46 + off * 2 ^ 42 + param * 2 ^ 38
  | .issue stream p q buf off useLocal sig sem =>
    3 * 2 ^ 60 + stream * 2 ^ 44 + p * 2 ^ 40 + q * 2 ^ 36 + buf * 2 ^ 28 + off * 2 ^ 24 + useLocal * 2 ^ 23 + sig * 2 ^ 22
      + sem * 2 ^ 6
  | .await stream all => 3 * 2 ^ 60 + 1 * 2 ^ 54 + stream * 2 ^ 44 + all * 2 ^ 43
  | .signal sem imm operand => 4 * 2 ^ 60 + sem * 2 ^ 38 + imm * 2 ^ 37 + operand * 2 ^ 5
  | .wait sem imm operand => 4 * 2 ^ 60 + 1 * 2 ^ 54 + sem * 2 ^ 38 + imm * 2 ^ 37 + operand * 2 ^ 5
  | .waitv sem imm operand => 4 * 2 ^ 60 + 2 * 2 ^ 54 + sem * 2 ^ 38 + imm * 2 ^ 37 + operand * 2 ^ 5
  | .fadd d counter imm operand => 4 * 2 ^ 60 + 3 * 2 ^ 54 + d * 2 ^ 50 + counter * 2 ^ 34 + imm * 2 ^ 33 + operand * 2
  | .claim d counter ticket => 4 * 2 ^ 60 + 4 * 2 ^ 54 + d * 2 ^ 50 + counter * 2 ^ 34 + ticket * 2 ^ 29
  | .mark value reg => 5 * 2 ^ 60 + value * 2 ^ 38 + reg * 2 ^ 34

/-- The field ranges under which a stage instruction has a word of its own. -/
def TileOp.wf : TileOp → Bool
  | .fin => true
  | .loop src index body operand =>
    decide (src < 3) && decide (index < 16) && decide (1 ≤ body) && decide (body < 8192) && decide (operand < 2 ^ 32)
      && (src != 0 || decide (operand < 16)) && (src != 2 || decide (operand < 256))
  | .br a cond kind b target =>
    decide (a < 16) && decide (cond < 7) && decide (kind < 3) && decide (b < 2 ^ 32) && decide (target < 8192)
      && (kind != 0 || decide (b < 16)) && (kind != 2 || decide (b < 256))
  | .seti d imm => decide (d < 16) && decide (imm < 2 ^ 48)
  | .sethi d imm => decide (d < 16) && decide (imm < 2 ^ 16)
  | .alu d a func imm b =>
    decide (d < 16) && decide (a < 16) && decide (func < 16) && decide (imm < 2) && decide (b < 2 ^ 32) && regOrImm imm b
  | .getslot d slot => decide (d < 16) && decide (slot < 256)
  | .getctx d item => decide (d < 16) && decide (item ≤ 13)
  | .mma aBuf aOff bBuf bOff cBuf cOff shape scale seed part =>
    decide (aBuf < 256) && decide (aOff < 16) && decide (bBuf < 256) && decide (bOff < 16) && decide (cBuf < 256)
      && decide (cOff < 16) && decide (shape < 16) && decide (scale < 16) && decide (seed < 2) && decide (part < 2)
  | .vchain buf off param => decide (buf < 256) && decide (off < 16) && decide (param < 16)
  | .issue stream p q buf off useLocal sig sem =>
    decide (stream < 1024) && decide (p < 16) && decide (q < 16) && decide (buf < 256) && decide (off < 16)
      && decide (useLocal < 2) && decide (sig < 2) && decide (sem < 65536) && (sig = 1 || sem = 0)
  | .await stream all => decide (stream < 1024) && decide (all < 2)
  | .signal sem imm operand => decide (sem < 65536) && decide (imm < 2) && decide (operand < 2 ^ 32) && regOrImm imm operand
  | .wait sem imm operand => decide (sem < 65536) && decide (imm < 2) && decide (operand < 2 ^ 32) && regOrImm imm operand
  | .waitv sem imm operand => decide (sem < 65536) && decide (imm < 2) && decide (operand < 2 ^ 32) && regOrImm imm operand
  | .fadd d counter imm operand =>
    decide (d < 16) && decide (counter < 65536) && decide (imm < 2) && decide (operand < 2 ^ 32) && regOrImm imm operand
  | .claim d counter ticket => decide (d < 16) && decide (counter < 65536) && decide (ticket < 16)
  | .mark value reg => decide (value < 65536) && decide (reg < 16)

/-! ### Address-program words (R255, Table 10-7) -/

inductive AddrOp where
  | fin
  | seti (d imm : Nat)
  | getv (d src : Nat)
  | madd (d a b imm : Nat)
  | addi (d a imm : Nat)
  | loop (c body : Nat)
  | emit (a b l advSrc advDst : Nat)
  | zero (b l advDst : Nat)
  deriving DecidableEq, Repr

/-- The instruction an address-program word encodes; `none` for a reserved opcode or field. -/
def decodeAddr (w : Nat) : Option AddrOp :=
  let f := fld w
  match f 60 4 with
  | 0x0 => if f 0 60 = 0 then some .fin else none
  | 0x1 => if f 48 9 = 0 then some (.seti (f 57 3) (f 0 48)) else none
  | 0x2 => if f 32 25 = 0 && decide (f 29 3 ≤ 2) then some (.getv (f 57 3) (f 0 32)) else none
  | 0x3 => if f 32 19 = 0 then some (.madd (f 57 3) (f 54 3) (f 51 3) (f 0 32)) else none
  | 0x4 => if f 48 6 = 0 then some (.addi (f 57 3) (f 54 3) (f 0 48)) else none
  | 0x5 => if f 0 52 = 0 && f 52 5 != 0 && decide (f 52 5 ≤ 30) then some (.loop (f 57 3) (f 52 5)) else none
  | 0x6 => if f 0 49 = 0 then some (.emit (f 57 3) (f 54 3) (f 51 3) (f 50 1) (f 49 1)) else none
  | 0x7 => if f 0 49 = 0 && f 57 3 = 0 && f 50 1 = 0 then some (.zero (f 54 3) (f 51 3) (f 49 1)) else none
  | _ => none

/-- The word of an address-program instruction. -/
def encodeAddr : AddrOp → Nat
  | .fin => 0
  | .seti d imm => 1 * 2 ^ 60 + d * 2 ^ 57 + imm
  | .getv d src => 2 * 2 ^ 60 + d * 2 ^ 57 + src
  | .madd d a b imm => 3 * 2 ^ 60 + d * 2 ^ 57 + a * 2 ^ 54 + b * 2 ^ 51 + imm
  | .addi d a imm => 4 * 2 ^ 60 + d * 2 ^ 57 + a * 2 ^ 54 + imm
  | .loop c body => 5 * 2 ^ 60 + c * 2 ^ 57 + body * 2 ^ 52
  | .emit a b l advSrc advDst => 6 * 2 ^ 60 + a * 2 ^ 57 + b * 2 ^ 54 + l * 2 ^ 51 + advSrc * 2 ^ 50 + advDst * 2 ^ 49
  | .zero b l advDst => 7 * 2 ^ 60 + b * 2 ^ 54 + l * 2 ^ 51 + advDst * 2 ^ 49

/-- The field ranges under which an address-program instruction has a word of its own. -/
def AddrOp.wf : AddrOp → Bool
  | .fin => true
  | .seti d imm => decide (d < 8) && decide (imm < 2 ^ 48)
  | .getv d src => decide (d < 8) && decide (src < 3 * 2 ^ 29)
  | .madd d a b imm => decide (d < 8) && decide (a < 8) && decide (b < 8) && decide (imm < 2 ^ 32)
  | .addi d a imm => decide (d < 8) && decide (a < 8) && decide (imm < 2 ^ 48)
  | .loop c body => decide (c < 8) && decide (1 ≤ body) && decide (body ≤ 30)
  | .emit a b l advSrc advDst =>
    decide (a < 8) && decide (b < 8) && decide (l < 8) && decide (advSrc < 2) && decide (advDst < 2)
  | .zero b l advDst => decide (b < 8) && decide (l < 8) && decide (advDst < 2)

/-! ### Shape slots, formulas and ranges (R73, R76, R77) -/

/-- The value of a shape slot in a slot vector. -/
def slotAt (v : List Nat) (i : Nat) : Nat := v.getD i 0

/-- A formula's value (R77): offset + coefficient × the factors. -/
def Formula.value (f : Formula) (v : List Nat) : Int :=
  f.offset + f.coefficient * ((f.factors.map fun p => if p.1 = 0xFF then 1 else ceilDiv (slotAt v p.1) p.2).foldl (· * ·) 1 : Nat)

/-- The value of formula `i` of a canvas; 0 for an index it does not hold. -/
def Canvas.formula (c : Canvas) (i : Nat) (v : List Nat) : Int :=
  match c.formulas[i]? with | some f => f.value v | none => 0

/-- Whether a value lies in the 128-bit range of R77. -/
def inRange128 (z : Int) : Bool := decide (-(2 ^ 127) ≤ z) && decide (z < 2 ^ 127)

/-- A formula value as a window's length: one below 0, or outside the 128-bit range, leaves no room for any run (R77, R252). -/
def roomOf (z : Int) : Nat := if inRange128 z then z.toNat else 0

/-- A formula value as a run's length: one that no 64-bit length has, or outside the 128-bit range, lies beyond every limit (R77). -/
def runOf (z : Int) : Nat := if 0 ≤ z ∧ z < 2 ^ 64 then z.toNat else 2 ^ 128

/-- Whether a formula derives from a slot. -/
def Formula.derived (f : Formula) : Bool := f.coefficient != 0 && f.factors.any fun p => p.1 != 0xFF

/-- Whether a formula of the pool derives from slots. -/
def Canvas.derived (cv : Canvas) (i : Nat) : Bool := match cv.formulas[i]? with | some f => f.derived | none => false

/-- Whether the window of an end derives from slots. -/
def endDerived (cv : Canvas) (space ext : Nat) : Bool := space != 0 && space != 2 && cv.derived ext

/-- Whether an extent block's run length or a window of it derives from slots. -/
def extentDerived (cv : Canvas) (b : Block) : Bool :=
  cv.derived (at8 b.payload 24 2) || endDerived cv b.src b.srcExt || endDerived cv b.dst b.dstExt

/-- Whether an easel runs in compatibility mode (R65, R84). -/
def State.compat (s : State) (e : Nat) : Bool := policy s (0x3000 + e) 3 = 1

/-- Planned maxima of the slots of a canvas (R75). -/
def Canvas.plan (c : Canvas) : List Nat := c.slots.map (·.1)

/-- First index and extent of part `r` of `parts` over `total` with granule `g` (R73). -/
def splitRange (total parts g r : Nat) : Nat × Nat :=
  let b := g * ceilDiv total (parts * g)
  let lo := min total (r * b)
  (lo, min total ((r + 1) * b) - lo)

/-! ### Panels and buffers (R72, R74) -/

/-- The row and column of a logical tile in a panel. -/
def Panel.place (p : Panel) (li : Nat) : Option (Nat × Nat) :=
  if li < p.origin then none
  else
    let d := li - p.origin
    let r := d / max p.stride 1
    let c := d % max p.stride 1
    if r < p.rows ∧ c < p.cols then some (r, c) else none

/-- The panel of a sheet that holds a logical tile, with its row and column there. -/
def Sheet.panelOf (d : Sheet) (li : Nat) : Option (Panel × Nat × Nat) :=
  d.panels.findSome? fun p => (p.place li).map fun rc => (p, rc.1, rc.2)

/-- A panel's buffer plan (R74). -/
def Sheet.plan (d : Sheet) (p : Panel) : List BufPlan := (d.bufs.drop p.planFirst).take p.planCount

def Sheet.buf (d : Sheet) (p : Panel) (id : Nat) : Option BufPlan := (d.plan p).find? (·.id = id)

/-- Bytes of the window a buffer gives to a range: the buffer, or one half of a double buffer (R105 step 5). -/
def BufPlan.room (b : BufPlan) : Nat := if b.dbl then b.size / 2 else b.size

/-- Whether [off, off + len) lies in a buffer, wholly in one half of a double buffer (R88, R105). An empty range fits. -/
def BufPlan.fits (b : BufPlan) (off len : Nat) : Bool :=
  if len = 0 then true
  else if b.dbl then within (off % max (b.size / 2) 1) len (b.size / 2) && decide (off < b.size) else within off len b.size

/-- The hazard unit of an offset in a buffer (R113): the buffer, or its half. -/
def BufPlan.unit (b : BufPlan) (off : Nat) : Nat := b.id * 2 + (if b.dbl then off / max (b.size / 2) 1 % 2 else 0)

/-- The buffer of a panel's plan that contains a local-store offset (R252). -/
def Sheet.bufAt (d : Sheet) (p : Panel) (off : Nat) : Option BufPlan :=
  (d.plan p).find? fun b => decide (b.offset ≤ off) && decide (off < b.offset + b.size)

/-! ### What a tile runs in -/

/-- What a running tile sees of its command: easel, sheet, panel, place, slot vector, sequence and training step numbers. -/
structure TileCtx where
  e : Nat
  x : Easel
  canvas : Canvas
  sheet : Sheet
  panel : Panel
  r : Nat
  c : Nat
  li : Nat
  slots : List Nat
  seq : Nat
  step : Nat

/-- The context of a tile of an easel with a canvas (R91 to R93). -/
def State.tileCtx (s : State) (t : Nat) : Option TileCtx :=
  match s.ownerOf 1 t with
  | none => none
  | some e =>
    let x := s.easel e
    match x.canvas, x.sheetDef with
    | some cv, some d =>
      let li := s.logical e t
      match d.panelOf li with
      | some (p, r, c) => some ⟨e, x, cv, d, p, r, c, li, x.vector, x.workSeq, x.workStep⟩
      | none => none
    | _, _ => none

/-- The context items of Table 4-1. -/
def TileCtx.item (k : TileCtx) (i : Nat) : Nat :=
  let m := splitRange (slotAt k.slots k.panel.mSlot) k.panel.rows k.panel.mGran k.r
  let n := splitRange (slotAt k.slots k.panel.nSlot) k.panel.cols k.panel.nGran k.c
  match i with
  | 0 => k.li
  | 1 => k.panel.number
  | 2 => k.r
  | 3 => k.c
  | 4 => m.1
  | 5 => m.2
  | 6 => n.1
  | 7 => n.2
  | 8 => k.panel.rows
  | 9 => k.panel.cols
  | 10 => k.seq
  | 11 => k.step
  | 12 => k.x.sheet
  | 13 => k.e
  | _ => 0

/-! ### Value sources (R198, Table 8-2) -/

/-- Whether a value source is legal: its kind among `kinds`, its reserved bits zero, its slot and fields in range. -/
def sourceOk (kinds nslots v : Nat) : Bool :=
  let o := v % 2 ^ 29
  decide (v / 2 ^ 29 < kinds) &&
  match v / 2 ^ 29 with
  | 0 => true
  | 1 => decide (o < 256) && decide (o < nslots)
  | 2 => decide (o ≤ 13)
  | 3 => decide (o < 65536) && fld o 6 6 != 0 && decide (fld o 0 6 + fld o 6 6 ≤ 64)
  | 4 => o = 0
  | _ => false

/-- The value of a source: `sgn` where the field is signed. `param` is the `vchain` parameter and `k` the loss-scale exponent. -/
def TileCtx.source (c : TileCtx) (param : Nat) (k : Int) (sgn : Bool) (v : Nat) : Int :=
  let o := v % 2 ^ 29
  match v / 2 ^ 29 with
  | 0 => if sgn then toSigned 29 o else (o : Nat)
  | 1 => (slotAt c.slots (o % 256) : Nat)
  | 2 => (c.item (o % 64) : Nat)
  | 3 => (fld param (fld o 0 6) (fld o 6 6) * 2 ^ fld o 12 4 : Nat)
  | 4 => k
  | _ => 0

end Sys2Proof.Machine
end

