-- ==== Sys2Proof/Machine/Control.lean ====
section
/-! DEFINITION. Issue of tile instructions, and the control and trace instructions (R90 to R99, R109). A command that names
an instruction which is not the one at the tile's PC, or a tile that is held or not running, changes nothing (log entry 1). -/

namespace Sys2Proof.Machine

/-! ### Issue -/

/-- The counters of a unit with `n` added to number `i`, each stopping at its largest value (R462); missing ones are zero. -/
def bumpAt (l : List Nat) (i n : Nat) : List Nat :=
  let z := l ++ List.replicate (i + 1 - l.length) 0
  z.set i (addSat (2 ^ 64 - 1) (z.getD i 0) n)

/-- A bank with `n` added to its count `i` under command `seq`; a new command is a swap point (R461). -/
def Bank.bump (b : Bank) (seq i n : Nat) : Bank :=
  if b.seq = seq then { b with active := bumpAt b.active i n }
  else { active := bumpAt [] i n, seq, published := b.active, publishedSeq := b.seq, final := true }

/-- A publication of a bank (R461). -/
def Bank.publish (b : Bank) : Bank := { b with published := b.active, publishedSeq := b.seq, final := false }

/-- Where execution stands after a word whose successor is `n` (R96, R97): the end of a body starts the next iteration, or
leaves the loop after its last. -/
def settle : List LoopFrame → Nat → Tab Word64 → Nat × List LoopFrame × Tab Word64
  | [], n, g => (n, [], g)
  | f :: fs, n, g =>
    if n = f.last + 1 then
      if f.iter + 1 < f.count then
        (f.first, { f with iter := f.iter + 1 } :: fs,
          if f.index = 0 then g else tset g f.index (BitVec.ofNat 64 (f.iter + 1)))
      else settle fs n g
    else (n, f :: fs, g)

/-- A tile after an instruction whose next word is `n`: PC, loops and the issue count (Table 18-4, field 10). -/
def Tile.goto (x : Tile) (n : Nat) : Tile :=
  let r := settle x.loops n x.regs
  { x with pc := r.1, loops := r.2.1, regs := r.2.2, hold := .none, counters := bumpAt x.counters 10 1 }

/-- A tile past the instruction at its PC. -/
def Tile.advance (x : Tile) : Tile := x.goto (x.pc + 1)

/-- Whether a tile may issue: it runs, has not ended, and is held at no wait and no chain with a return. -/
def Tile.ready (x : Tile) : Bool :=
  x.running && !x.ended && match x.hold with | .none => true | .await _ => true | _ => false

/-- The word at a tile's PC. -/
def Tile.word (x : Tile) : Word64 := x.program.getD x.pc 0

/-- The instruction a tile issues next, with its context: the tile is ready, its easel's work is in flight (BOUND or
DRAINING, Table 2-2), and its word decodes (R94, R95). -/
def State.fetch (s : State) (t : Nat) : Option (TileCtx × TileOp) :=
  let x := s.tile t
  if x.ready && decide (x.pc < x.program.length) then
    match s.tileCtx t with
    | some k =>
      if k.x.works then (decodeStage x.word.toNat).map fun o => (k, o) else none
    | none => none
  else none

/-- The tile's part of a record (R116): class, unit and sequence; then the fault of R117. -/
def State.tileFault (s : State) (k : TileCtx) (t code a b : Nat) : State :=
  s.faultWith code k.e 0x04 (s.tileUnit k.e t) k.seq a b

/-- PROGRAM_OPERAND (R116). -/
def State.operandFault (s : State) (k : TileCtx) (t reason : Nat) : State :=
  s.tileFault k t 0x0220 (s.tile t).word.toNat ((s.tile t).pc % 2 ^ 13 + reason * 65536)

/-- The 64-bit value of an operand that is a register or a 32-bit immediate (Tables 4-15 and 4-16). -/
def Tile.operand (x : Tile) (imm operand : Nat) : Nat := if imm = 1 then operand else (x.reg (operand / 2 ^ 28)).toNat

/-! ### Control instructions -/

/-- `end` (R99): the tile then waits for what it issued. -/
def execEndProg (t : Nat) (s : State) : Host.Outcome State Fault Refusal :=
  match s.fetch t with
  | some (_, .fin) =>
    .next (s.onTile t fun x => { x with ended := true, hold := .none, counters := bumpAt x.counters 10 1 })
  | _ => .next s

/-- The count of a `loop` (Table 4-3), read once. -/
def loopCount (k : TileCtx) (x : Tile) (src operand : Nat) : Nat :=
  match src with
  | 0 => (x.reg (operand % 16)).toNat
  | 1 => operand
  | _ => slotAt k.slots (operand % 256)

/-- A tile at a `loop` (R96): with count 0 past the body, else at its first word with the index register at 0. -/
def Tile.enterLoop (x : Tile) (index body count : Nat) : Tile :=
  if count = 0 then x.goto (x.pc + body + 1)
  else
    { (x.setReg index 0) with
      pc := x.pc + 1, loops := ⟨x.pc + 1, x.pc + body, count, 0, index⟩ :: x.loops, hold := .none,
      counters := bumpAt x.counters 10 1 }

def execLoop (t : Nat) (s : State) : Host.Outcome State Fault Refusal :=
  match s.fetch t with
  | some (k, .loop src index body operand) =>
    .next (s.onTile t fun x => x.enterLoop index body (loopCount k x src operand))
  | _ => .next s

/-- The second operand of `br` (Table 4-4). -/
def brOperand (k : TileCtx) (x : Tile) (kind b : Nat) : Word64 :=
  match kind with
  | 0 => x.reg (b % 16)
  | 1 => (BitVec.ofNat 32 b).signExtend 64
  | _ => BitVec.ofNat 64 (slotAt k.slots (b % 256))

/-- The condition of `br` (R97, Table 4-4). -/
def brTaken (cond : Nat) (a b : Word64) : Bool :=
  match cond with
  | 0 => true
  | 1 => a == b
  | 2 => a != b
  | 3 => a.ult b
  | 4 => !a.ult b
  | 5 => a.slt b
  | 6 => !a.slt b
  | _ => false

def execBr (t : Nat) (s : State) : Host.Outcome State Fault Refusal :=
  match s.fetch t with
  | some (k, .br a cond kind b target) =>
    .next (s.onTile t fun x =>
      if brTaken cond (x.reg a) (brOperand k x kind b) then x.goto target else x.advance)
  | _ => .next s

/-- A register set and the PC moved on. -/
def State.setNext (s : State) (t d : Nat) (v : Word64) : State := s.onTile t fun x => (x.setReg d v).advance

def execSeti (t : Nat) (s : State) : Host.Outcome State Fault Refusal :=
  match s.fetch t with
  | some (_, .seti d imm) => .next (s.setNext t d (BitVec.ofNat 64 imm))
  | _ => .next s

/-- Bits [63:48] of a register replaced, the low bits kept (Table 4-5). -/
def sethiValue (old : Word64) (imm : Nat) : Word64 := BitVec.ofNat 64 (old.toNat % 2 ^ 48 + imm * 2 ^ 48)

def execSethi (t : Nat) (s : State) : Host.Outcome State Fault Refusal :=
  match s.fetch t with
  | some (_, .sethi d imm) => .next (s.setNext t d (sethiValue ((s.tile t).reg d) imm))
  | _ => .next s

/-- The functions of `alu` (R98, Table 4-7). -/
def aluValue (func : Nat) (a b : Word64) : Word64 :=
  match func with
  | 0x0 => a + b
  | 0x1 => a - b
  | 0x2 => a * b
  | 0x3 => a / b
  | 0x4 => BitVec.ofNat 64 (ceilDiv a.toNat b.toNat)
  | 0x5 => if b = 0 then 0 else a % b
  | 0x6 => if a.ult b then a else b
  | 0x7 => if a.ult b then b else a
  | 0x8 => a &&& b
  | 0x9 => a ||| b
  | 0xA => a ^^^ b
  | 0xB => a <<< (b.toNat % 64)
  | 0xC => a >>> (b.toNat % 64)
  | 0xD => a.sshiftRight (b.toNat % 64)
  | 0xE => if a.ult b then 1 else 0
  | _ => if a.slt b then 1 else 0

/-- The second operand of `alu`: a register in the top four bits, or the immediate zero-extended (Table 4-6). -/
def aluOperand (x : Tile) (imm b : Nat) : Word64 := BitVec.ofNat 64 (x.operand imm b)

def execAlu (t : Nat) (s : State) : Host.Outcome State Fault Refusal :=
  match s.fetch t with
  | some (_, .alu d a func imm b) =>
    .next (s.setNext t d (aluValue func ((s.tile t).reg a) (aluOperand (s.tile t) imm b)))
  | _ => .next s

def execGetslot (t : Nat) (s : State) : Host.Outcome State Fault Refusal :=
  match s.fetch t with
  | some (k, .getslot d slot) => .next (s.setNext t d (BitVec.ofNat 64 (slotAt k.slots slot)))
  | _ => .next s

def execGetctx (t : Nat) (s : State) : Host.Outcome State Fault Refusal :=
  match s.fetch t with
  | some (k, .getctx d item) => .next (s.setNext t d (BitVec.ofNat 64 (k.item item)))
  | _ => .next s

/-! ### Trace mark (R109, R467, R471) -/

/-- A mark record handed to the trace unit of the tile's base die, and the trigger a matching mark gives. -/
def State.traceMark (s : State) (k : TileCtx) (t value reg : Nat) : State :=
  let x := s.tile t
  let d := baseDie (s.server t)
  let s := s.onTile t fun x => { x with traced := x.traced + 1 }
  let s := raiseAll (s.traceStore d k.e
    (traceRecord 1 k.e 0 (physId (s.server t)) x.pc k.seq k.li x.traced value (reg % 2 ^ 32)))
  if policy s 0xB000 9 = 65536 + value then raiseAll (s.traceTake d k.e 0 k.seq) else s

/-- `mark`: nothing but the PC moves where tracing is off for the easel. -/
def execMark (t : Nat) (s : State) : Host.Outcome State Fault Refusal :=
  match s.fetch t with
  | some (k, .mark value reg) =>
    let r := ((s.tile t).reg reg).toNat
    let s := if s.traced k.e then s.traceMark k t value r else s
    .next (s.onTile t Tile.advance)
  | _ => .next s

end Sys2Proof.Machine
end

