-- ==== Sys2Proof/Machine/Sync.lean ====
section
/-! DEFINITION. Signals, semaphores and work counters (R110, R111, R275 to R301). A `signal`, `wait` or `waitv` leaves the
tile as a request; SYNC_REQUEST_ARRIVAL applies it at its semaphore's home. -/

namespace Sys2Proof.Machine

/-! ### The home of a semaphore (R277 to R281) -/

/-- What a grant or a release does for the one who waited: a tile goes on past its wait, a stream issue has consumed or
passed one of its gates, a reduction or an update entry has its count. -/
def State.release (s : State) (w : Who) : State :=
  match w with
  | .tile t => s.onTile t Tile.advance
  | .issue i =>
    { s with streams := { s.streams with issues := s.streams.issues.map fun y => if y.id = i then { y with consumed := true } else y } }
  | .gate i =>
    { s with streams := { s.streams with issues := s.streams.issues.map fun y =>
        if y.id = i then { y with gates := y.gates - 1, gated := decide (1 < y.gates) } else y } }
  | .reduction e r => s.onEasel e fun x => { x with awaiting := insertSet x.awaiting r }
  | .update e k =>
    s.onEasel e fun x => { x with update := x.update.map fun u => { u with waiters := u.waiters.filter (· != k) } }

/-- Consuming waiters granted in order of arrival: the count left, who stays, who is granted (R278). -/
def grantQueue : List Waiter → Nat → Nat × List Waiter × List Waiter
  | [], c => (c, [], [])
  | w :: ws, c =>
    if w.n ≤ c then
      let r := grantQueue ws (c - w.n)
      (r.1, r.2.1, w :: r.2.2)
    else (c, w :: ws, [])

/-- The semaphore after a signal of `n` that it can take, and who is released, in order (R277, R279). -/
def Sem.signal (m : Sem) (n : Nat) : Sem × List Waiter :=
  let c := m.count.toNat + n
  let r := grantQueue m.queue c
  ({ (m.store (BitVec.ofNat 32 r.1)) with queue := r.2.1, values := m.values.filter fun w => !decide (w.n ≤ c) },
    m.values.filter (fun w => decide (w.n ≤ c)) ++ r.2.2)

/-- SEM_COMPLEMENT (R281): the record and the fault. -/
def State.semComplement (s : State) (e : Nat) (d : SemDecl) (m : Sem) : State :=
  let h := s.semHome e d
  s.faultWith 0x0403 e h.1 h.2 (s.easel e).workSeq (m.count.toNat + m.comp.toNat * 2 ^ 32) (d.id + (s.easel e).sheet * 65536)

/-- SEM_OVERFLOW or SEM_UNDERFLOW (R290). -/
def State.semFault (s : State) (code e cls unit count limit id cause : Nat) : State :=
  s.faultWith code e cls unit (s.easel e).workSeq (count + limit * 2 ^ 32)
    (id + (s.easel e).sheet * 65536 + cause * 2 ^ 24)

/-- signal(n) applied at the home (R277, R290); `cls` and `unit` name the requester. -/
def State.applySignal (s : State) (e : Nat) (d : SemDecl) (n cls unit : Nat) : State :=
  match (s.easel e).semKey d with
  | none => s
  | some k =>
    let m := s.sem k
    if n = 0 then s
    else if !m.sound then s.semComplement e d m
    else if n > 0xFFFFFFFF then s.semFault 0x0401 e cls unit m.count.toNat m.max d.id 2
    else if m.count.toNat + n > m.max then s.semFault 0x0401 e cls unit m.count.toNat m.max d.id 1
    else
      let r := m.signal n
      r.2.foldl (fun s w => s.release w.who) (s.setSem k r.1)

/-- wait(n) applied at the home (R277). -/
def State.applyWait (s : State) (e : Nat) (d : SemDecl) (w : Waiter) : State :=
  match (s.easel e).semKey d with
  | none => s
  | some k =>
    let m := s.sem k
    if !m.sound then s.semComplement e d m
    else if m.queue.isEmpty && decide (w.n ≤ m.count.toNat) then
      (s.setSem k (m.store (BitVec.ofNat 32 (m.count.toNat - w.n)))).release w.who
    else s.setSem k { m with queue := m.queue ++ [w] }

/-- waitv(v) applied at the home (R277). -/
def State.applyWaitv (s : State) (e : Nat) (d : SemDecl) (w : Waiter) : State :=
  match (s.easel e).semKey d with
  | none => s
  | some k =>
    let m := s.sem k
    if !m.sound then s.semComplement e d m
    else if w.n ≤ m.count.toNat then s.release w.who
    else s.setSem k { m with values := m.values ++ [w] }

/-- Whether every `mma` and `vchain` before program order `n` of a tile has completed (R115). -/
def Tile.settled (x : Tile) (n : Nat) : Bool := x.arrayQ.all (fun o => decide (n ≤ o.order)) && x.vecQ.all (fun o => decide (n ≤ o.order))

/-- Whether a request on its way may arrive: what a `signal` announces has landed (R115), and no earlier request of the
same sender to the same semaphore is still on its way (R283). -/
def State.arrivable (s : State) (k : Nat) (r : SyncReq) : Bool :=
  (match r.kind, r.who with
   | .signal, .tile t => (s.tile t).settled r.after
   | _, _ => true)
    && !((s.net.take k).any fun q => q.who = r.who && q.sem = r.sem && q.easel = r.easel && q.unitClass = r.unitClass
          && q.unitId = r.unitId)

/-- SYNC_REQUEST_ARRIVAL (R277): request `k` of those on their way reaches its home. -/
def execSyncRequestArrival (k : Nat) (s : State) : Host.Outcome State Fault Refusal :=
  match s.net[k]? with
  | none => .next s
  | some r =>
    if !s.arrivable k r then .next s
    else
      let s := { s with net := dropAt s.net k }
      match (s.easel r.easel).semDecl r.sem with
      | none => .next s
      | some d =>
        .next (match r.kind with
          | .signal => s.applySignal r.easel d r.n r.unitClass r.unitId
          | .wait => s.applyWait r.easel d ⟨r.who, r.n⟩
          | .waitv => s.applyWaitv r.easel d ⟨r.who, r.n⟩)

/-! ### Tile instructions (R110) -/

/-- A request sent by a tile's instruction. -/
def State.sendSync (s : State) (k : TileCtx) (t : Nat) (kind : SyncKind) (sem n : Nat) : State :=
  { s with net := s.net ++ [{ kind, easel := k.e, sem, n, who := .tile t, after := (s.tile t).order, unitClass := 0x04,
                              unitId := s.tileUnit k.e t }] }

/-- `signal`: n = 0 does nothing; else the request leaves and the tile goes on. -/
def execSignal (t : Nat) (s : State) : Host.Outcome State Fault Refusal :=
  match s.fetch t with
  | some (k, .signal sem imm operand) =>
    let n := (s.tile t).operand imm operand
    let s := if n = 0 then s else s.sendSync k t .signal sem n
    .next (s.onTile t Tile.advance)
  | _ => .next s

/-- A `wait` or `waitv` at issue (R110): operand 0 completes at once; one beyond the planned maximum is SEM_UNDERFLOW and does
not block; else the request leaves and the tile is held at its PC. -/
def State.issueWait (s : State) (k : TileCtx) (t : Nat) (kind : SyncKind) (hold : Hold) (sem n : Nat) : State :=
  if n = 0 then s.onTile t Tile.advance
  else
    match k.x.semDecl sem with
    | none => s
    | some d =>
      if n > d.max then
        let m := match k.x.semKey d with | some key => s.sem key | none => Sem.reset
        -- detail A reads the count (R281)
        if !m.sound then s.semComplement k.e d m
        else s.semFault 0x0402 k.e 0x04 (s.tileUnit k.e t) m.count.toNat d.max sem 3
      else (s.sendSync k t kind sem n).onTile t fun x => { x with hold := hold }

def execWait (t : Nat) (s : State) : Host.Outcome State Fault Refusal :=
  match s.fetch t with
  | some (k, .wait sem imm operand) => .next (s.issueWait k t .wait .sem sem ((s.tile t).operand imm operand))
  | _ => .next s

def execWaitv (t : Nat) (s : State) : Host.Outcome State Fault Refusal :=
  match s.fetch t with
  | some (k, .waitv sem imm operand) => .next (s.issueWait k t .waitv .value sem ((s.tile t).operand imm operand))
  | _ => .next s

/-! ### Work counters and claims (R294 to R299) -/

def State.counter (s : State) (w : Nat) : Counter := tget Counter.reset s.counters w

/-- `fadd` (R295): the old value goes to d; past 2^32 - 1 WORK_COUNTER_OVERFLOW. -/
def execFadd (t : Nat) (s : State) : Host.Outcome State Fault Refusal :=
  match s.fetch t with
  | some (k, .fadd d w imm operand) =>
    let n := (s.tile t).operand imm operand
    let c := s.counter w
    if c.value + n > 0xFFFFFFFF then .next (s.tileFault k t 0x0406 (c.value + n % 2 ^ 32 * 2 ^ 32) w)
    else
      let s := if n = 0 then s else { s with counters := tset s.counters w { c with value := c.value + n } }
      .next (s.setNext t d (BitVec.ofNat 64 c.value))
  | _ => .next s

/-- `claim` (R111, R298, R299): 1 and the bit set where it was clear, else 0 and TICKET_DUPLICATE; a ticket at or beyond the
bitmap size is PROGRAM_OPERAND, reason 0x06. -/
def execClaim (t : Nat) (s : State) : Host.Outcome State Fault Refusal :=
  match s.fetch t with
  | some (k, .claim d w r) =>
    let ticket := ((s.tile t).reg r).toNat
    let size := match k.x.ctrDecl w with | some c => c.bitmap | none => 0
    if ticket ≥ size then .next (s.operandFault k t 0x06)
    else
      let c := s.counter w
      if c.claimed.contains ticket then
        let s := s.onEasel k.e fun x => { x with ticketDups := addSat (2 ^ 64 - 1) x.ticketDups 1 }
        let s := s.reportSeq 0x0404 k.e 0x04 (s.tileUnit k.e t) k.seq ticket (w + (s.tile t).pc % 2 ^ 13 * 65536)
        .next (s.setNext t d 0)
      else
        .next ({ s with counters := tset s.counters w { c with claimed := insertSet c.claimed ticket } }.setNext t d 1)
  | _ => .next s

end Sys2Proof.Machine
end

