-- ==== Sys2Proof/Machine/Link.lean ====
section
/-! DEFINITION. The sending side of the fabric (R326 to R332, R341, R342, R345): packets, flits, credit, and which port a
packet leaves by. -/

namespace Sys2Proof.Machine

def State.port (s : State) (p : Nat) : Port := tget Port.reset s.fabric.ports p
def State.setPort (s : State) (p : Nat) (x : Port) : State := { s with fabric := { s.fabric with ports := tset s.fabric.ports p x } }

/-- A port that is up (Table 13-8): x4, x3 narrowed to x2, or a ganged x8. -/
def Port.up (x : Port) : Bool := x.state = 2 || x.state = 3 || x.state = 4

/-- The device's fabric position (R338). -/
def State.position (s : State) : Nat := policy s 0x6100 1

/-- The 32-byte header and the payload of a packet (Table 13-4). -/
def Packet.bytes (p : Packet) : List Byte :=
  leBytes 1 p.type ++ leBytes 1 (p.channel + p.fenced.toNat * 32 + p.poisoned.toNat * 64) ++ leBytes 2 p.payload.length
    ++ leBytes 4 p.destination ++ leBytes 4 p.source ++ leBytes 2 p.epoch ++ leBytes 2 p.tag ++ leBytes 8 p.a ++ leBytes 8 p.b
    ++ p.payload

/-- Flits that `n` bytes of packet take, 240 bytes in each body (R329). -/
def flitsFor (n : Nat) : Nat := ceilDiv n 240

/-- One flit (Table 13-2). -/
def flitBytes (channel kind start sequence ack creditChannel credits : Nat) (body : List Byte) : List Byte :=
  let h := leBytes 1 (channel + kind * 32) ++ leBytes 1 start ++ leBytes 2 sequence ++ leBytes 2 ack ++ leBytes 1 creditChannel
    ++ leBytes 1 credits ++ bytesAt body 0 240
  h ++ leBytes 4 (crc32c h) ++ leBytes 4 0

/-- The ack a port sends: the last data flit received in order (R329). `rxSeq` is the number expected next. -/
def Port.ack (x : Port) : Nat := (x.rxSeq + 65535) % 65536

/-- The credit a flit returns: the lowest channel that is owed any (R329, R332). -/
def Port.creditBack (x : Port) : Nat × Nat × Port :=
  match x.owed.find? (fun o => o.2 != 0) with
  | some (c, n) => (c, min n 255, { x with owed := tset x.owed c (n - min n 255) })
  | none => (0, 0, x)

/-- The data flits of a packet: its first starts at the body's first byte, the rest carry on (R329). -/
def packetFlits : Nat → Packet → Bool → List Byte → Port → List (List Byte) → Port × List (List Byte)
  | 0, _, _, _, x, acc => (x, acc)
  | fuel + 1, k, first, bs, x, acc =>
    let (cc, cn, x) := x.creditBack
    let f := flitBytes k.channel 0 (if first then 0 else 0xF) x.txSeq x.ack cc cn bs
    packetFlits fuel k false (bs.drop 240)
      { x with txSeq := (x.txSeq + 1) % 65536,
               replay := x.replay ++ [(x.txSeq, f, if fuel = 0 then some k else none)] } (acc ++ [f])

/-- The flits of a packet. -/
def Packet.flits (k : Packet) : Nat := flitsFor (32 + k.payload.length)

/-- Whether a port may send the flits of a packet now: it is up, or in training for the management packets of bring-up, credit and
room in the replay buffer are there, and the channel is open (R330, R332 to R334). -/
def State.sendable (s : State) (x : Port) (k : Packet) : Bool :=
  (x.up || (x.state = 1 && k.channel = 17)) && decide (k.flits ≤ tget 0 x.credits k.channel)
    && decide (x.replay.length + k.flits ≤ 1024) && (k.channel = 17 || s.position != 0xFFFFF)

/-- A packet as it leaves: its source is the position in force. An unassigned position is never sent (R338); what the source of a
management packet is until then, the manual leaves open (log entry 57). -/
def State.stamp (s : State) (k : Packet) : Packet × State :=
  if s.position != 0xFFFFF then ({ k with source := s.position }, s)
  else let (n, s) := s.fresh; ({ k with source := Sys2Proof.Config.freeNat n % 0xFFFFF }, s)

/-! ### The FEC stream (R328) -/

/-- The product in GF(2^10) with x^10 + x^3 + 1, the field of the code RS(544,514) of IEEE 802.3 (PRESUMED, log entry 145). -/
def gfMul (a b : Nat) : Nat :=
  ((List.range 10).foldl (fun (s : Nat × Nat) i =>
    (if b.testBit i then s.1 ^^^ s.2 else s.1, if s.2.testBit 9 then (2 * s.2) ^^^ 0x409 else 2 * s.2)) (0, a)).1

/-- The generator polynomial of the code, the product of x + α^j for j below 30, lowest coefficient first. -/
def rsGenerator : List Nat :=
  ((List.range 30).foldl (fun (s : List Nat × Nat) _ =>
    (List.zipWith (· ^^^ ·) (0 :: s.1) ((s.1.map (gfMul s.2)) ++ [0]), gfMul s.2 2)) ([1], 1)).1

/-- The 30 parity symbols of message symbols: the remainder of the message, first symbol highest, by the generator. -/
def rsParity (l : List Nat) : List Nat :=
  let g := (rsGenerator.take 30).reverse
  l.foldl (fun r m =>
    let f := m ^^^ r.headD 0
    List.zipWith (fun x y => x ^^^ gfMul f y) (r.drop 1 ++ [0]) g) (List.replicate 30 0)

/-- The 544 symbols of a codeword: 20 header bits with the counter, 640 bytes of flit stream, the parity. -/
def codewordOf (counter : Nat) (bs : List Byte) : List Nat :=
  let w := counter % 65536 + leNat bs * 2 ^ 20
  let m := (List.range 514).map fun i => w / 2 ^ (10 * i) % 1024
  m ++ rsParity m

/-- Symbols round-robin over lanes in the order of the lane map. -/
def striped (lanes l : List Nat) : List (Nat × List Nat) :=
  lanes.zipIdx.map fun p => (p.1, (l.zipIdx.filter fun q => q.2 % lanes.length = p.2).map (·.1))

/-- Flit bytes behind the stream a port sends: 640 at a time form a codeword. -/
def Port.push (x : Port) (bs : List Byte) : Port :=
  let l := x.stream ++ bs
  if l.length < 640 then { x with stream := l }
  else { x with stream := l.drop 640, codeword := (x.codeword + 1) % 65536,
                symbols := striped x.lanes (codewordOf x.codeword (l.take 640)) }

/-- A flit sent on a port. -/
def State.sendFlit (s : State) (p : Nat) (f : List Byte) : State := (s.setPort p ((s.port p).push f)).emit (.flit p f)

/-! ### Sending -/

/-- The packets that wait at a port sent as far as they can be; packets of one channel keep their order, and behind a position
announcement that waits no packet leaves, as the position it names is new (R338). -/
def pump (p : Nat) : List Packet → List Nat → State → State
  | [], _, s => s
  | k :: rest, blocked, s =>
    let x := s.port p
    if blocked.contains k.channel || !s.sendable x k then
      let closed := if k.type = 8 ∧ k.a = 2 then List.range 18 else [k.channel]
      pump p rest (closed ++ blocked) (s.setPort p { x with waiting := x.waiting ++ [k] })
    else
      let (k', s) := s.stamp k
      let c := tset x.credits k.channel (tget 0 x.credits k.channel - k.flits)
      let (x', fs) := packetFlits k.flits k' true k'.bytes { x with credits := c } []
      pump p rest blocked (fs.foldl (fun s f => s.sendFlit p f) (s.setPort p x'))

/-- A port tries again what waits at it. -/
def State.pumpPort (s : State) (p : Nat) : State :=
  let w := (s.port p).waiting
  pump p w [] (s.setPort p { s.port p with waiting := [] })

/-- A packet handed to a port. -/
def State.sendOn (s : State) (p : Nat) (k : Packet) : State :=
  (s.setPort p { s.port p with waiting := (s.port p).waiting ++ [k] }).pumpPort p

/-- The ports of a mask, ascending. -/
def maskPorts (m : Nat) : List Nat := (List.range 64).filter (m.testBit ·)

/-- The mask in force of a data channel (R351). -/
def State.mask (s : State) (channel : Nat) : Nat := tget 0 s.fabric.masks channel

/-- The up port of a list with the shortest send queue, the lowest among equals (R345). -/
def State.pickPort (s : State) (ports : List Nat) : Option Nat :=
  (ports.filter fun p => (s.port p).up).foldl (fun (b : Option Nat) p =>
    match b with
    | none => some p
    | some q => if (s.port p).waiting.length < (s.port q).waiting.length then some p else some q) none

/-- The group epoch of a data channel (R340); zero on channels 16 and 17. -/
def State.epoch (s : State) (channel : Nat) : Nat := if channel < 16 then policy s (0x6110 + channel) 3 else 0

/-- A packet of this device. -/
def State.packet (s : State) (type channel dest a b : Nat) (payload : List Byte) : Packet :=
  { type, channel, fenced := false, poisoned := false, destination := dest, source := s.position, epoch := s.epoch channel,
    tag := 0, a, b, payload }

/-- The run-work command of an easel has sent a packet (R385). -/
def State.markSent (s : State) (e : Nat) : State :=
  s.onEasel e fun x => { x with cmds := x.cmds.map fun (c : Cmd) => if c.op = 1 && c.phase == .started then { c with sentFabric := true } else c }

/-- A request to a far device handed to port `p` under a fresh tag, and remembered until it is answered (R342): of an issue and its
transfer, a drain, a log entry or a fetch. -/
def State.requestOn (s : State) (p e type channel dest a bHigh : Nat) (payload : List Byte) (poisoned : Bool)
    (issue xfer drain log fetch : Option Nat) : State :=
  let tag := s.fabric.nextTag % 65536
  let k := { s.packet type channel dest a (tag + bHigh * 65536) payload with poisoned := poisoned }
  let r : Remote := { tag := tag, easel := e, packet := k, port := p, issue := issue, xfer := xfer, drain := drain, log := log,
                      fetch := fetch }
  { s with fabric := { s.fabric with nextTag := s.fabric.nextTag + 1, remotes := s.fabric.remotes ++ [r] } }.sendOn p k

/-- A request of an issue by the up port of the channel's mask with the shortest queue (R345); `none` while no port of it is up. -/
def State.request (s : State) (e type channel dest a bHigh : Nat) (payload : List Byte) (poisoned : Bool)
    (issue xfer : Option Nat) : Option State :=
  (s.pickPort (maskPorts (s.mask channel))).map fun p =>
    (s.requestOn p e type channel dest a bHigh payload poisoned issue xfer none none none).markSent e

/-- The port a packet of the device's own leaves by: as `request`, and the lowest of the mask where none is up (log entry 61). -/
def State.ownPort (s : State) (channel : Nat) : Option Nat :=
  let m := maskPorts (s.mask channel)
  match s.pickPort m with
  | some p => some p
  | none => m.head?

end Sys2Proof.Machine
end

