-- ==== Sys2Proof/Machine/Window.lean ====
section
/-! DEFINITION. Window records and attention records: the shapes of sliding windows, their taps, and what one chunk or one key
and value block moves (R175 to R196, R235 to R239). The payload of a block is the record; fields are read at their offsets. -/

namespace Sys2Proof.Machine

/-! ### Packed elements (R102) -/

/-- Elements of `w` bits packed from bit 0 upwards (R102). -/
def packBits (w : Nat) (xs : List Nat) : List Byte :=
  leBytes (ceilDiv (w * xs.length) 8) (xs.foldr (fun x acc => x % 2 ^ w + acc * 2 ^ w) 0)

/-- The `i`-th element of `w` bits of a packed run. -/
def elemAt (w : Nat) (s : List Byte) (i : Nat) : Nat := leNat (bytesAt s (w * i / 8) (w * i % 8 / 8 + (w * i % 8 + w + 7) / 8)) / 2 ^ (w * i % 8) % 2 ^ w

/-- Pitch of a row of `n` elements of `w` bits on 64 B boundaries (R102, R176). -/
def pitchOf (n w : Nat) : Nat := ceilDiv (n * w) 512 * 64

/-! ### The window record (Table 7-1) -/

def wKind (p : List Byte) : Nat := at8 p 0 1
def wFormat (p : List Byte) : Nat := at8 p 1 1 % 16
def wPad (p : List Byte) : Nat := fld (at8 p 2 1) 0 2
def wRegroup (p : List Byte) : Nat := fld (at8 p 2 1) 2 2
def wFactor (p : List Byte) : Nat := 2 ^ fld (at8 p 2 1) 4 2
def wProgress (p : List Byte) : Bool := fld (at8 p 3 1) 0 1 = 1
def wGate (p : List Byte) : Bool := fld (at8 p 3 1) 1 1 = 1
def wKh (p : List Byte) : Nat := at8 p 4 1
def wKw (p : List Byte) : Nat := at8 p 5 1
def wSy (p : List Byte) : Nat := at8 p 6 1
def wSx (p : List Byte) : Nat := at8 p 7 1
def wDy (p : List Byte) : Nat := at8 p 8 4
def wDx (p : List Byte) : Nat := at8 p 12 4
def wPt (p : List Byte) : Nat := at8 p 16 4
def wPb (p : List Byte) : Nat := at8 p 20 4
def wPl (p : List Byte) : Nat := at8 p 24 4
def wPr (p : List Byte) : Nat := at8 p 28 4
def wConstant (p : List Byte) : Nat := at8 p 32 4
def wGroups (p : List Byte) : Nat := at8 p 36 2
def wCg (p : List Byte) : Nat := at8 p 40 3
def wNg (p : List Byte) : Nat := at8 p 44 3
def wH (p : List Byte) : Nat := at8 p 60 2
def wWc (p : List Byte) : Nat := at8 p 62 2
def wPanel (p : List Byte) : Nat := at8 p 64 2
def wProgressBase (p : List Byte) : Nat := at8 p 66 2
def wGateBase (p : List Byte) : Nat := at8 p 68 2
def wHL (p : List Byte) : Nat := at8 p 70 2
def wRL (p : List Byte) : Nat := at8 p 72 1
def wCL (p : List Byte) : Nat := at8 p 73 1
def wProducer (p : List Byte) : Nat := at8 p 74 2

/-- A stored extent: of its slot, or the constant (offsets 48 to 59). -/
def wStored (p : List Byte) (v : List Nat) (slotOff constOff : Nat) : Nat :=
  if at8 p slotOff 1 = 0xFF then at8 p constOff 4 else slotAt v (at8 p slotOff 1)

/-- An extent as the window arithmetic sees it (R187): regrouped from the stored one. -/
def regrouped (p : List Byte) (n : Nat) : Nat :=
  match wRegroup p with
  | 1 => ceilDiv n (wFactor p)
  | 2 => n * wFactor p
  | _ => n

def wHeight (p : List Byte) (v : List Nat) : Nat := regrouped p (wStored p v 48 52)
def wWidth (p : List Byte) (v : List Nat) : Nat := regrouped p (wStored p v 49 56)

/-- Output extent along one axis (R177). -/
def outExtent (n padA padB k dil stride : Nat) : Nat :=
  if (k - 1) * dil + 1 ≤ n + padA + padB then (n + padA + padB - (k - 1) * dil - 1) / max stride 1 + 1 else 0

/-- Hout and Wout; for an output record the extents it states, seen through its regrouping (R178, R187). -/
def wHout (p : List Byte) (v : List Nat) : Nat :=
  if wKind p = 3 then
    (match wRegroup p with
     | 1 => wStored p v 48 52 * wFactor p
     | 2 => ceilDiv (wStored p v 48 52) (wFactor p)
     | _ => wStored p v 48 52)
  else outExtent (wHeight p v) (wPt p) (wPb p) (wKh p) (wDy p) (wSy p)
def wWout (p : List Byte) (v : List Nat) : Nat :=
  if wKind p = 3 then
    (match wRegroup p with
     | 1 => wStored p v 49 56 * wFactor p
     | 2 => ceilDiv (wStored p v 49 56) (wFactor p)
     | _ => wStored p v 49 56)
  else outExtent (wWidth p v) (wPl p) (wPr p) (wKw p) (wDx p) (wSx p)

/-- Stripes and chunks of a stripe (R179); a stripe of no width still has one chunk to issue (R185). -/
def wStripes (p : List Byte) (v : List Nat) : Nat := ceilDiv (wHout p v) (wH p)
def wChunks (p : List Byte) (v : List Nat) : Nat := max 1 (ceilDiv (wWout p v) (wWc p))

/-- Whether every position `y × stride + t × dil - pad` of the outputs lies below 0, or at or beyond the extent (R191). -/
def prunedTap (t dil pad stride out n : Nat) : Bool :=
  decide (out = 0) || decide ((out - 1) * stride + t * dil < pad) || decide (n + pad ≤ t * dil)

/-- Kept taps along one axis: pruned in pad mode 0, folded in pad mode 1, all kept in pad mode 2 (R191 to R193). `plan` holds
the slots' planned maxima. -/
def keptRows (p : List Byte) (plan : List Nat) : List Nat :=
  (List.range (wKh p)).filter fun t => wPad p = 2 || !prunedTap t (wDy p) (wPt p) (wSy p) (wHout p plan) (wHeight p plan)
def keptCols (p : List Byte) (plan : List Nat) : List Nat :=
  (List.range (wKw p)).filter fun t => wPad p = 2 || !prunedTap t (wDx p) (wPl p) (wSx p) (wWout p plan) (wWidth p plan)

/-- Kept taps in raster order (R175). -/
def keptTaps (p : List Byte) (plan : List Nat) : List (Nat × Nat) :=
  (keptRows p plan).flatMap fun y => (keptCols p plan).map fun x => (y, x)

/-- Groups in one product (R188). -/
def wPack (p : List Byte) : Nat := if wNg p < 64 then 64 / max (wNg p) 1 else 1

/-- K of one product (R175, R188). -/
def wK (p : List Byte) (plan : List Nat) : Nat :=
  (if wGroups p ≤ 1 then 1 else wPack p) * wCg p * (keptTaps p plan).length

/-! ### Reading pixels -/

/-- An element that a window block moves: its bits, whether it is poisoned, and its first and last byte in easel memory where it was
read there. -/
structure Elem where
  bits : Nat
  bad : Bool
  reads : List Nat

/-- An element that is supplied and not read: padding, or a `+0` of R188. -/
def Elem.given (bits : Nat) : Elem := ⟨bits, false, []⟩

/-- An element of `w` bits at bit `o` from an easel virtual address. -/
def State.elemVa (s : State) (e base o w : Nat) : Elem :=
  let a := base + o / 8
  let n := (o % 8 + w + 7) / 8
  match s.readVa e a n with
  | some bs => ⟨leNat bs / 2 ^ (o % 8) % 2 ^ w, !s.poison.isEmpty && s.poisonedVa e a n, [a, a + n - 1]⟩
  | none => ⟨0, false, [a, a + n - 1]⟩

/-- The stored channels of the tensor a record names, from the channels the window arithmetic sees (R187). -/
def storedChannels (p : List Byte) (c : Nat) : Nat :=
  match wRegroup p with
  | 1 => c / (wFactor p * wFactor p)
  | 2 => c * (wFactor p * wFactor p)
  | _ => c

/-- Where element (y, x, c) of the regrouped image is stored: row, column and channel (R187). -/
def regroupPos (p : List Byte) (cs y x c : Nat) : Nat × Nat × Nat :=
  let f := wFactor p
  match wRegroup p with
  | 1 => (y * f + c / cs / f, x * f + c / cs % f, c % cs)
  | 2 => (y / f, x / f, (y % f * f + x % f) * (cs / (f * f)) + c)
  | _ => (y, x, c)

/-- Element (y, x, c) of an input image in easel memory (R176, R187, R190); signed positions outside the extent are padded. -/
def State.pixel (s : State) (e : Nat) (p : List Byte) (v : List Nat) (base : Nat) (y x : Int) (c : Nat) : Elem :=
  let h : Int := (wHeight p v : Nat)
  let w : Int := (wWidth p v : Nat)
  let bits := widthOf (wFormat p)
  let read := fun (y x : Nat) =>
    let cs := storedChannels p (wGroups p * wCg p)
    let (sy, sx, sc) := regroupPos p (max cs 1) y x c
    let sh := wStored p v 48 52
    let sw := wStored p v 49 56
    if sh ≤ sy ∨ sw ≤ sx then Elem.given 0
    else s.elemVa e (base + sy * pitchOf (sw * cs) bits) ((sx * cs + sc) * bits) bits
  if 0 ≤ y ∧ y < h ∧ 0 ≤ x ∧ x < w then read y.toNat x.toNat
  else
    match wPad p with
    | 1 => Elem.given (wConstant p % 2 ^ bits)
    | 2 =>
      let fold := fun (a n : Int) => if a < 0 then -a else if n ≤ a then 2 * (n - 1) - a else a
      read (fold y h).toNat (fold x w).toNat
    | _ => Elem.given 0

/-! ### What a chunk moves (R180, R188, R194) -/

/-- One row of what a chunk lays out in the local end: its place there, the bits of an element, and its elements. -/
structure Piece where
  at_ : Nat
  width : Nat
  elems : List Elem

/-- Elements of one transfer (R260): what 512 B hold; of 6-bit elements as many as end on a 64 B line. -/
def perTransfer (w : Nat) : Nat := if w = 6 then 512 else 4096 / max w 1

/-- The transfers that the rows of a chunk are cut into: row, first element, elements; `sizes` gives each row's width and length. -/
def cutRows (sizes : List (Nat × Nat)) : List Move :=
  (sizes.zipIdx).flatMap fun ((w, n), k) =>
    (List.range (ceilDiv n (perTransfer w))).map fun i => .chunk k (i * perTransfer w) (min (perTransfer w) (n - i * perTransfer w))

/-- Output pixels of chunk (st, q): rows and columns, row-major (R175, R179). -/
def chunkPixels (p : List Byte) (v : List Nat) (st q : Nat) : List (Nat × Nat) :=
  (span (st * wH p) (min (wHout p v) ((st + 1) * wH p))).flatMap fun y =>
    (span (q * wWc p) (min (wWout p v) ((q + 1) * wWc p))).map fun x => (y, x)

/-- The groups a tile's output columns fall in, cut into products (R188): each a list of groups. -/
def productGroups (p : List Byte) (n0 n : Nat) : List (List Nat) :=
  if wGroups p ≤ 1 then [[0]]
  else if n = 0 then []
  else
    let g0 := n0 / max (wNg p) 1
    let g1 := (n0 + n - 1) / max (wNg p) 1 + 1
    (List.range (ceilDiv (g1 - g0) (wPack p))).map fun i => span (g0 + i * wPack p) (min g1 (g0 + (i + 1) * wPack p))

/-- The A operand of a convolution chunk (R175, R180, R188): one matrix for each product, M rows of K elements. R188 does not say where
the matrices of a tile's several products lie, nor what the K positions of the groups that a short last pack lacks hold: here the
matrices follow one another in the local end, and those positions are not written (DESIGN CHOICE, log entry 127). -/
def State.convInput (s : State) (e : Nat) (p : List Byte) (v plan : List Nat) (base st q n0 n at0 : Nat) : List Piece :=
  let px := chunkPixels p v st q
  let taps := keptTaps p plan
  let w := widthOf (wFormat p)
  let pitch := pitchOf (wK p plan) w
  ((productGroups p n0 n).zipIdx).flatMap fun (gs, i) =>
    (px.zipIdx).map fun ((y, x), m) =>
      ⟨at0 + (i * px.length + m) * pitch, w, gs.flatMap fun g => taps.flatMap fun (ty, tx) =>
        (List.range (wCg p)).map fun ci =>
          s.pixel e p v base ((y * wSy p + ty * wDy p : Nat) - (wPt p : Int)) ((x * wSx p + tx * wDx p : Nat) - (wPl p : Int))
            (g * wCg p + ci)⟩

/-- The B operand (R175, R176, R188): each output channel of the tile one column, with +0 at the K positions of other groups. -/
def State.convWeights (s : State) (e : Nat) (p : List Byte) (plan : List Nat) (base n0 n at0 : Nat) : List Piece :=
  let taps := keptTaps p plan
  let w := widthOf (wFormat p)
  let pitch := pitchOf (wK p plan) w
  let run := pitchOf (wKh p * wKw p * wCg p) w
  (List.range n).map fun j =>
    let ch := n0 + j
    let g := if wGroups p ≤ 1 then 0 else ch / max (wNg p) 1
    let place := if wGroups p ≤ 1 then 0 else (g - n0 / max (wNg p) 1) % wPack p
    let own := taps.flatMap fun (ty, tx) => (List.range (wCg p)).map fun ci =>
      s.elemVa e (base + ch * run) (((ty * wKw p + tx) * wCg p + ci) * w) w
    let after := if wGroups p ≤ 1 then 0 else wPack p - 1 - place
    ⟨at0 + j * pitch, w,
      List.replicate (place * own.length) (Elem.given 0) ++ own ++ List.replicate (after * own.length) (Elem.given 0)⟩

/-- The stripe rows of a pooling chunk (R194, R219): for each channel the input rows with their positions, then one byte for
each position, 1 where it lies in range (the layout is a choice of the model, log entry 24). -/
def State.poolInput (s : State) (e : Nat) (p : List Byte) (v : List Nat) (base st q n0 n at0 : Nat) : List Piece :=
  let rows := min (wH p) (wHout p v - st * wH p)
  let cols := min (wWc p) (wWout p v - q * wWc p)
  let inRows := if rows = 0 then 0 else (rows - 1) * wSy p + wKh p
  let inCols := if cols = 0 then 0 else (cols - 1) * wSx p + wKw p
  let w := widthOf (wFormat p)
  let pitch := pitchOf inCols w
  let pos := fun (r c : Nat) => (((st * wH p * wSy p + r : Nat) : Int) - wPt p, ((q * wWc p * wSx p + c : Nat) : Int) - wPl p)
  ((List.range n).flatMap fun ch => (List.range inRows).map fun r =>
      ⟨at0 + (ch * inRows + r) * pitch, w, (List.range inCols).map fun c =>
        s.pixel e p v base (pos r c).1 (pos r c).2 (n0 + ch)⟩)
    ++ (List.range inRows).map fun r =>
      ⟨at0 + n * inRows * pitch + r * inCols, 8, (List.range inCols).map fun c =>
        let a := pos r c
        Elem.given (if 0 ≤ a.1 ∧ a.1 < (wHeight p v : Nat) ∧ 0 ≤ a.2 ∧ a.2 < (wWidth p v : Nat) then 1 else 0)⟩

/-- Elements [off, off + n) of a row stored at device address `a0` + its place; a poisoned element marks its whole line (R269). -/
def State.storePiece (s : State) (a0 : Nat) (k : Piece) (off n : Nat) : State :=
  let xs := (k.elems.drop off).take n
  let at_ := a0 + k.at_ + off * k.width / 8
  let s := s.writeAt at_ (packBits k.width (xs.map (·.bits)))
  (xs.zipIdx).foldl (fun s (x, i) => if x.bad then s.setPoison ((at_ + k.width * i / 8) / 64 * 64) 64 else s) s

/-- Where element (y, x) of output channel `ch` of `total` is stored in the output tensor at `base` (R176, R187): its first byte and the
bit in it. -/
def outputPlace (p : List Byte) (v : List Nat) (base total y x ch : Nat) : Nat × Nat :=
  let w := widthOf (wFormat p)
  let f := wFactor p
  let (oy, ox, oc) :=
    match wRegroup p with
    | 2 =>  -- channel-to-space: the tile's channel holds (dy, dx, c)
      let c := max (total / (f * f)) 1
      (y * f + ch / c / f, x * f + ch / c % f, ch % c)
    | 1 => (y / f, x / f, (y % f * f + x % f) * total + ch)
    | _ => (y, x, ch)
  let cs := match wRegroup p with
    | 2 => total / (f * f)
    | 1 => total * (f * f)
    | _ => storedChannels p total
  let bit := (ox * cs + oc) * w
  (base + oy * pitchOf (wStored p v 49 56 * cs) w + bit / 8, bit % 8)

/-- One element stored at a bit of an easel virtual address; the bits beside it stay. -/
def State.putElem (s : State) (e : Nat) (place : Nat × Nat) (w bits : Nat) (bad : Bool) : State :=
  let k := (place.2 + w + 7) / 8
  match s.readVa e place.1 k, s.translate e place.1 with
  | some old, some d =>
    let o := leNat old
    let hi := o / 2 ^ (place.2 + w)
    let s := s.writeVa e place.1 (leBytes k (o % 2 ^ place.2 + bits * 2 ^ place.2 + hi * 2 ^ (place.2 + w)))
    if bad then s.setPoison (d / 64 * 64) 64 else s
  | _, _ => s

/-- Elements [off, off + len) of row `m` of a chunk's output (kind 0x03), the tile's result rows from device address `src` on, written
into the output tensor (R176, R187). -/
def State.windowOutput (s : State) (e : Nat) (p : List Byte) (v : List Nat) (base st q n0 n total src m off len : Nat) : State :=
  let w := widthOf (wFormat p)
  let pitch := pitchOf n w
  match (chunkPixels p v st q)[m]? with
  | none => s
  | some (y, x) =>
    let row := s.readAt (src + m * pitch) pitch
    (span off (off + len)).foldl (fun s j =>
      s.putElem e (outputPlace p v base total y x (n0 + j)) w (elemAt w row j)
        (!s.poison.isEmpty && s.poisoned (src + m * pitch + j * w / 8) 1)) s

/-! ### Gates (R183) -/

/-- The semaphores and values a gated fetch of stripe `st` waits for, above their initial values (R183); none for a stripe of no extent
(R185). -/
def gateWaits (p : List Byte) (v : List Nat) (st : Nat) : List (Nat × Nat) :=
  let sl := ceilDiv (wHeight p v) (wHL p)
  if wStripes p v ≤ st ∨ wWout p v = 0 then []
  else
    ((span (st - 1) (st + 2)).filter fun i => decide (i < sl)).flatMap fun i =>
      (List.range (wCL p)).map fun c => (wGateBase p + i % max (wRL p) 1 * wCL p + c, i / max (wRL p) 1 + 1)

/-! ### Attention (R235 to R238, Table 9-4) -/

def aFormat (p : List Byte) : Nat := at8 p 1 1 % 16
def aCausal (p : List Byte) : Bool := fld (at8 p 2 1) 0 1 = 1
def aSegments (p : List Byte) : Bool := fld (at8 p 2 1) 1 1 = 1
def aBq (p : List Byte) : Nat := at8 p 4 2
def aBk (p : List Byte) : Nat := at8 p 6 2
def aD (p : List Byte) : Nat := at8 p 8 2
def aLength (p : List Byte) (v : List Nat) : Nat := slotAt v (at8 p 10 1)
def aKeys (p : List Byte) (v : List Nat) : Nat := slotAt v (at8 p 11 1)
def aFirst (p : List Byte) (v : List Nat) : Nat := slotAt v (at8 p 12 1)
def aG (p : List Byte) : Nat := at8 p 13 1
def aPanel (p : List Byte) : Nat := at8 p 14 2
def aKBase (p : List Byte) : Nat := at8 p 16 8
def aVBase (p : List Byte) : Nat := at8 p 24 8
def aIdBase (p : List Byte) : Nat := at8 p 32 8
def aArrival (p : List Byte) : Nat := at8 p 40 2
def aRelease (p : List Byte) : Nat := at8 p 42 2
def aBuf (p : List Byte) (i : Nat) : Nat := at8 p (44 + i) 1

/-- The segment id of a token (R237). -/
def State.segment (s : State) (e : Nat) (p : List Byte) (t : Nat) : Nat :=
  if aSegments p then match s.readVa e (aIdBase p + 2 * t) 2 with | some b => leNat b | none => 0 else 1

/-- Whether key token `t` is allowed for query `u` (R237). -/
def allowedPair (p : List Byte) (l u t idU idT : Nat) : Bool :=
  decide (u < l) && decide (t < l) && idU = idT && idU != 0 && (!aCausal p || decide (t ≤ u))

/-- The mask of query block `i` against key block `j`, row by row of queries (R237, R238). -/
def State.attnMask (s : State) (e : Nat) (p : List Byte) (v : List Nat) (i j : Nat) : List (List Bool) :=
  let l := aLength p v
  let id := fun t => if t < l then s.segment e p t else 0
  let keys := (List.range (aBk p)).map fun k => (j * aBk p + k, id (j * aBk p + k))
  (List.range (aBq p)).map fun r =>
    let u := i * aBq p + r
    let iu := id u
    keys.map fun (t, it) => allowedPair p l u t iu it

/-- The class of a block (R237): 0 none allowed, 1 every pair, 2 otherwise. -/
def classOf (m : List (List Bool)) : Nat :=
  if m.all (fun r => r.all (!·)) then 0 else if m.all (fun r => r.all id) then 1 else 2

/-- The block header (Table 9-5). -/
def attnHeader (p : List Byte) (l j cls : Nat) : List Byte :=
  leBytes 4 j ++ leBytes 1 cls ++ List.replicate 3 0 ++ leBytes 4 (min (aBk p) (l - j * aBk p)) ++ List.replicate 52 0

/-- The bytes of one delivery (R238) and the places its data are read at, by byte: `what` is 0 the keys, 1 the values, 2 the mask,
3 the header of the tile whose query block is `qBlock`. Rows of tokens at or beyond L are `+0` and not read. -/
def State.attnBytes (s : State) (e : Nat) (p : List Byte) (v : List Nat) (qBlock j what : Nat) : List Byte :=
  let l := aLength p v
  let eb := widthOf (aFormat p) / 8
  let n := aBk p * aD p * eb
  let valid := l - j * aBk p
  let src := fun (base : Nat) => (s.readVa e (base + j * n) n).getD (List.replicate n 0)
  match what with
  | 0 => ((src (aKBase p)).zipIdx).map fun (b, i) => if i / max (aD p * eb) 1 < valid then b else 0
  | 1 => ((src (aVBase p)).zipIdx).map fun (b, i) => if i % max (aBk p * eb) 1 / max eb 1 < valid then b else 0
  | 2 => (s.attnMask e p v qBlock j).flatMap fun r => r.map fun b => if b then 1 else 0
  | _ => attnHeader p l j (classOf (s.attnMask e p v qBlock j))

/-- Bytes of each delivery of a block. -/
def attnSize (p : List Byte) (what : Nat) : Nat :=
  match what with
  | 2 => aBq p * aBk p
  | 3 => 64
  | _ => aBk p * aD p * (widthOf (aFormat p) / 8)

/-- The deliveries that a tile receives: the header, and by class the keys, the values and the mask (R238). -/
def attnParts (cls : Nat) : List Nat := if cls = 0 then [3] else if cls = 1 then [3, 0, 1] else [3, 0, 1, 2]

/-- Where in easel memory the 64 B line at offset `off` of a delivery is read, if its tokens lie below L. -/
def attnSource (p : List Byte) (v : List Nat) (j what off : Nat) : Option Nat :=
  let eb := widthOf (aFormat p) / 8
  let n := aBk p * aD p * eb
  let valid := aLength p v - j * aBk p
  match what with
  | 0 => if off / max (aD p * eb) 1 < valid then some (aKBase p + j * n + off) else none
  | 1 => if off % max (aBk p * eb) 1 / max eb 1 < valid then some (aVBase p + j * n + off) else none
  | _ => none

/-- The buffer of a panel that a delivery fills, and the place of the half of block `j` in the local store. -/
def attnHalf (p : List Byte) (bufs : List BufPlan) (j what : Nat) : Option (BufPlan × Nat) :=
  (bufs.find? (·.id = aBuf p what)).map fun b => (b, b.offset + j % 2 * (b.size / 2))

/-- Bytes [off, off + len) of a delivery stored in tile `t`; a poisoned line it is read from marks its line there (R269). -/
def State.attnLand (s : State) (e : Nat) (p : List Byte) (v : List Nat) (bufs : List BufPlan) (t qBlock j what off len : Nat) : State :=
  match attnHalf p bufs j what with
  | none => s
  | some (_, place) =>
    let a := storeBase t + place + off
    let lines := (List.range (ceilDiv len 64)).filter fun l =>
      !s.poison.isEmpty && (match attnSource p v j what (off + 64 * l) with | some va => s.poisonedVa e va 64 | none => false)
    let s := s.writeAt a (((s.attnBytes e p v qBlock j what).drop off).take len)
    lines.foldl (fun s l => s.setPoison (a + 64 * l) 64) s

end Sys2Proof.Machine
end

