-- ==== Sys2Proof/Machine/Health.lean ====
section
/-! DEFINITION. What a stream counts of the elements it writes (R165, R166), and the errors of a memory tier (R267 to R270). -/

namespace Sys2Proof.Machine

/-! ### Tensor health -/

/-- How one element of a type is counted by its bits alone; of a block-scaled type they are an element with scale 2^0 (DEDUCED, log
entry 25). -/
def countElem (ty bits : Nat) : Tally × Num :=
  match fmtOf ty with
  | some f => match f.decode bits with
    | .nan => (.nan, .nan)
    | .inf n => (.infinite, .inf n)
    | x => if x.isZero then (.zero, x) else (.plain, x)
  | none =>
    let x := decodeElem ty bits
    if x.isZero then (.zero, x) else (.plain, x)

/-- The tag of an element whose first bit is `bit`, converted into type `ty` and counted as `t`: none where the bits tell as much. -/
def tagOf (ty bit bits : Nat) (t : Tally) : Option (Nat × Tag) :=
  let c := countElem ty bits
  if t == c.1 then none else some (bit, ⟨t, amaxBits c.2⟩)

/-- How an exact partial is counted. -/
def countPartial (bs : List Byte) : Tally × Num :=
  match (Partial.ofBytes bs).num with
  | .nan => (.nan, .nan)
  | .inf n => (.infinite, .inf n)
  | x => if x.isZero then (.zero, x) else (.plain, x)

/-- The counts of a run of bytes written with element type `ty` (R165); `tags` gives the tag of an element by its first bit, counted
from the run's first bit. -/
def healthOf (ty : Nat) (bs : List Byte) (tags : Tab Tag) : List Nat :=
  if ty = 0xFE then healthZero
  else if isMx ty && !tags.isEmpty then tags.foldl (fun h p => healthAdd h p.2.tally p.2.amax) healthZero
  else if ty = 0x10 then
    (List.range (bs.length / 16)).foldl (fun h i =>
      let c := countPartial (bytesAt bs (16 * i) 16)
      healthAdd h c.1 (amaxBits c.2)) healthZero
  else
    -- FP32X is two planes of 32-bit words, and a stream sees the words (R148)
    let ty := if ty = 0xC then 0x0 else ty
    let w := widthOf ty
    (List.range (bs.length * 8 / w)).foldl (fun h i =>
      match tags.find? (·.1 = w * i) with
      | some p => healthAdd h p.2.tally p.2.amax
      | none =>
        let c := countElem ty (elemAt w bs i)
        healthAdd h c.1 (amaxBits c.2)) healthZero

/-- The tags of the elements that begin in [a, a + n), by their place from there. -/
def State.tagsAt (s : State) (a n : Nat) : Tab Tag :=
  (s.tags.filter fun p => tagged a n p.1).map fun p => (p.1 - 8 * a, p.2)

/-- Counts of a training step raised by those of one write (R166). -/
def addStep (l : List StepCounts) (step nonfinite saturated : Nat) : List StepCounts :=
  if step = 0 then l
  else
    match findAt (fun (c : StepCounts) => c.step = step) l 0 with
    | some (i, c) => l.set i { c with nonfinite := addSat 0xFFFFFFFF c.nonfinite nonfinite,
                                      saturated := addSat 0xFFFFFFFF c.saturated saturated }
    | none => l ++ [⟨step, min nonfinite 0xFFFFFFFF, min saturated 0xFFFFFFFF⟩]

/-- The health record of a stream of an easel. -/
def State.health (s : State) (e stream : Nat) : Health :=
  match s.streams.health.find? fun h => h.easel = e && h.stream = stream with
  | some h => h
  | none => { easel := e, stream, seq := 0, active := healthZero, published := healthZero, publishedSeq := 0, final := false }

def State.setHealth (s : State) (h : Health) : State :=
  let rest := s.streams.health.filter fun x => !(x.easel = h.easel && x.stream = h.stream)
  { s with streams := { s.streams with health := rest ++ [h] } }

/-- Elements written by a stream counted in its health record and in its training step (R165, R166). -/
def State.countHealth (s : State) (e stream step : Nat) (counts : List Nat) : State :=
  let h := s.health e stream
  let s := s.setHealth { h with active := healthJoin h.active counts }
  s.onEasel e fun x => { x with counts := addStep x.counts step (counts.getD 2 0 + counts.getD 3 0) (counts.getD 1 0) }

/-! ### Tiers (R267 to R270) -/

/-- Unit id of a memory controller (Table 0-5). -/
def memUnit (a : Nat) : Nat :=
  match tierOf a with
  | 0 => stackOf a / 4 + stackOf a % 4 * 4
  | 1 => stackOf a / 4 + stackOf a % 4 * 4 + 16
  | 2 => stackOf a + 32
  | _ => stackOf a + 48

/-- The easel that owns a DRAM place. -/
def State.pageOwner (s : State) (a : Nat) : Option Nat :=
  if tierOf a = 0 then s.ownerOf 2 (a / pageBytes) else s.ownerOf 3 ((a - lpddrBase) / pageBytes)

/-- A corrected error counted (R268, Table 10-12); past `ce_alarm` in one patrol period MEM_CORRECTED_HIGH, once. -/
def State.corrected (s : State) (a : Nat) : State :=
  match tierOf a with
  | 2 => s
  | 3 => { s with tiers := { s.tiers with sramCe := tset s.tiers.sramCe (stackOf a) (tget 0 s.tiers.sramCe (stackOf a) + 1) } }
  | 4 =>
    let d := 4 + storeTile a / 168
    { s with tiers := { s.tiers with sramCe := tset s.tiers.sramCe d (tget 0 s.tiers.sramCe d + 1) } }
  | k =>
    let i := stackOf a + 16 * k
    let page := a / pageBytes
    let n := tget 0 s.tiers.pageCe page + 1
    let s := { s with tiers := { s.tiers with ceCount := tset s.tiers.ceCount i (tget 0 s.tiers.ceCount i + 1),
                                              pageCe := tset s.tiers.pageCe page n } }
    let limit := policy s 0x5000 5
    if limit = 0 ∨ n ≤ limit ∨ page ∈ s.tiers.alarmed then s
    else
      let s := { s with tiers := { s.tiers with alarmed := insertSet s.tiers.alarmed page } }
      match s.pageOwner a with
      | some e => s.report 0x0505 e 0x07 (memUnit a) (page % 1048576) n
      | none => s.reportDevice 0x0505 0x07 (memUnit a) (page % 1048576) n

/-- An uncorrectable error where it arises (R269): the 64 B line, or the word of a local store, is poisoned and the record
raised; `space` and `addr` name it in Table 10-3. -/
def State.poisonAt (s : State) (e a space addr requester stream seq : Nat) : State :=
  let k := tierOf a
  let s := if k = 4 then s.setPoison (a / 8 * 8) 8 else s.setPoison (a / 64 * 64) 64
  let s := if k < 2 then
      let i := stackOf a + 16 * k
      { s with tiers := { s.tiers with
          ueCount := tset s.tiers.ueCount i (tget 0 s.tiers.ueCount i + 1), bad := insertSet s.tiers.bad (a / pageBytes) } }
    else s
  if k = 4 then s.uncorrectable e 0x04 (s.tileUnit e (storeTile a)) seq space addr k requester stream
  else s.uncorrectable e 0x07 (memUnit a) seq space addr k requester stream

/-- Whether a read of a place reaches the cells: an unwritten page raises no ECC event (R56). -/
def State.cellsRead (s : State) (a : Nat) : Bool := !isDram a || s.tiers.written.contains (a / pageBytes)

/-- What the code of a tier found on a read for requester `requester`, taken before the data is used: a corrected error is
counted, an uncorrectable one poisons the line or word and is reported, once: a word that carries the poison mark is no new
error (R268, R269). -/
def State.readError (s : State) (e a space addr requester stream seq : Nat) (err : MemErr) : State :=
  if !s.cellsRead a then s
  else
    match err with
    | .clean => s
    | .corrected => s.corrected a
    | .uncorrectable => if s.poisoned (a / 8 * 8) 8 then s else s.poisonAt e a space addr requester stream seq

end Sys2Proof.Machine
end

