-- ==== Sys2Proof/Machine/Streams.lean ====
section
/-! DEFINITION. Streams: `issue` and `await`, address programs, runs and their checks, transfers, arbiters, landing and
completion (R107, R108, R246 to R274). -/

namespace Sys2Proof.Machine

/-! ### Hazards (R113) -/

/-- The stream descriptor of an issue, with its sheet. -/
def Easel.stream (x : Easel) (id : Nat) : Option StreamDesc := x.sheetDef.bind fun d => d.streams.find? (·.id = id)

/-- Whether a stream reads its local end: some block has space 0x0 as its source. -/
def StreamDesc.localIsSource (d : StreamDesc) : Bool := d.blocks.any fun b => b.src = 0 && b.kind != 4

/-- Whether a stream has a local end (R251). -/
def StreamDesc.hasLocal (d : StreamDesc) : Bool := d.blocks.any fun b => (b.src = 0 || b.dst = 0) && b.kind != 4

/-- The units the local end of an issue with stream `d` holds (R113): read where the stream's source is there, else written. -/
def TileCtx.issueUnits (k : TileCtx) (d : StreamDesc) (buf off useLocal : Nat) : Units :=
  match k.sheet.buf k.panel buf with
  | some b => if useLocal != 1 then ([], []) else if d.localIsSource then ([b.unit off], []) else ([], [b.unit off])
  | none => ([], [])

/-- Whether an instruction of tile `t` with units `u` must wait under R113, on the array, the vector engine or an issue. -/
def State.hazardArray (s : State) (t : Nat) (u : Units) : Bool := (s.tile t).arrayQ.any fun o => clash u o.units
def State.hazardVector (s : State) (t : Nat) (u : Units) : Bool := (s.tile t).vecQ.any fun o => clash u o.units
def State.hazardStream (s : State) (t : Nat) (u : Units) : Bool := (s.issuesOf t).any fun y => clash u y.units
def State.hazard (s : State) (t : Nat) (u : Units) : Bool := s.hazardArray t u || s.hazardVector t u || s.hazardStream t u

/-! ### Flows (R264) -/

def State.flow (s : State) (t stream seq : Nat) : Flow :=
  match s.streams.flows.find? fun f => f.tile = t && f.stream = stream && f.seq = seq with
  | some f => f
  | none => { tile := t, stream, seq, landed := 0, drained := 0, chunk := none }

/-- A flow stored; only the flow of the current command of a tile and stream is kept. -/
def State.setFlow (s : State) (f : Flow) : State :=
  { s with streams := { s.streams with flows := (s.streams.flows.filter fun g => !(g.tile = f.tile && g.stream = f.stream)) ++ [f] } }

/-! ### `issue` and `await` (R107, R108, R259) -/

/-- Whether window issue (st, q) follows `last` in the order of R181 for tile row `r` of `rows`. -/
def stripeOrder (last : Option (Nat × Nat)) (rows r q0 st q : Nat) : Bool :=
  match last with
  | none => decide (st = r) && decide (q = 0)
  | some (a, b) => if b + 1 < q0 then decide (st = a) && decide (q = b + 1) else decide (st = a + rows) && decide (q = 0)

/-- The first image or output window of a stream (kinds 0x01, 0x03, 0x04 of Table 7-1): those that move chunks. A stream
of kind 0x02 records alone delivers weights, stripe by stripe or once for all: it is not held to the order of stripes (DESIGN CHOICE,
log entry 138). -/
def StreamDesc.window (d : StreamDesc) : Option (List Byte) :=
  (d.blocks.find? fun b => b.kind = 3 && wKind b.payload != 2).map (·.payload)

/-- The unit id of a stream engine (Table 0-5). -/
def streamUnit (d : StreamDesc) : Nat := d.slice / 4 + d.id * 65536

/-- A new stream issue; a first issue under a new command is a swap point of the health record (Table 18-1). -/
def State.openIssue (s : State) (y : Issue) (chunk : Option (Nat × Nat)) : State :=
  let h := s.health y.easel y.stream
  let s := if h.seq = y.seq then s
    else s.setHealth { h with seq := y.seq, active := healthZero, published := h.active, publishedSeq := h.seq, final := true }
  let f := s.flow y.tile y.stream y.seq
  let s := s.setFlow { f with chunk := match chunk with | some c => some c | none => f.chunk }
  { s with streams := { s.streams with issues := s.streams.issues ++ [y], nextIssue := y.id + 1 } }

/-- What stops an `issue` at its checks (R259, Table 10-4): the panel, the buffer and the use of the local end. -/
def issueMismatch (k : TileCtx) (d : StreamDesc) (buf useLocal : Nat) : Bool :=
  d.panel != k.panel.number || d.hasLocal != (useLocal = 1) || (d.hasLocal && d.localBuf != buf)

def execIssue (t : Nat) (s : State) : Host.Outcome State Fault Refusal :=
  match s.fetch t with
  | some (k, .issue stream p q buf off useLocal sig sem) =>
    match k.x.stream stream with
    | none => .next s
    | some d =>
      let x := s.tile t
      if issueMismatch k d buf useLocal then .next (s.operandFault k t 0x0B)
      else if 16 ≤ (s.issuesOf t).length then .next s
      else
        let u := k.issueUnits d buf (x.reg off).toNat useLocal
        let y : Issue :=
          { id := s.streams.nextIssue, easel := k.e, tile := t, order := x.order, seq := k.seq, stream, p := x.reg p, q := x.reg q,
            useLocal := useLocal = 1, buf, off := (x.reg off).toNat, signal := if sig = 1 then some sem else none, units := u, block := 0,
            apc := 0, regs := [], loops := [], inBlock := false, runs := [], emitted := 0, parts := [], begun := false, gates := 0,
            gated := false,
            consumed := false, finished := false }
        if s.hazard t u then .next s
        else
          let pass := fun (s : State) (c : Option (Nat × Nat)) =>
            (s.openIssue y c).onTile t fun x => { x.advance with order := x.order + 1 }
          match d.window with
          | none => .next (pass s none)
          | some w =>
            let c := ((x.reg p).toNat, (x.reg q).toNat)
            if stripeOrder (s.flow t stream k.seq).chunk k.panel.rows k.r (wChunks w k.slots) c.1 c.2 then .next (pass s (some c))
            else
              .next (s.faultWith 0x0305 k.e 0x04 (s.tileUnit k.e t) k.seq (c.1 % 2 ^ 32 + c.2 % 2 ^ 32 * 2 ^ 32) k.li)
  | _ => .next s

/-- Whether every earlier issue that an `await` names has completed (R108). -/
def State.awaited (s : State) (t stream all : Nat) : Bool :=
  (s.issuesOf t).all fun y => !(all = 1 || y.stream = stream)

/-- `await`: held until then. -/
def execAwait (t : Nat) (s : State) : Host.Outcome State Fault Refusal :=
  match s.fetch t with
  | some (_, .await stream all) =>
    if s.awaited t stream all then .next (s.onTile t Tile.advance)
    else .next (s.onTile t fun x => { x with hold := .await (if all = 1 then none else some stream) })
  | _ => .next s

/-! ### Issues in progress -/

def State.issue (s : State) (i : Nat) : Option Issue := s.streams.issues.find? (·.id = i)
def State.setIssue (s : State) (y : Issue) : State :=
  { s with streams := { s.streams with issues := s.streams.issues.map fun z => if z.id = y.id then y else z } }

/-- A stream engine's view of one issue: its tile's context, its stream and its present block. -/
structure IssueCtx where
  y : Issue
  k : TileCtx
  d : StreamDesc
  b : Block

/-- Whether an issue may start: the earlier issues of its stream from its tile have (R261). -/
def State.mayStart (s : State) (y : Issue) : Bool :=
  s.streams.issues.all fun z => !(z.tile = y.tile && z.stream = y.stream && decide (z.id < y.id)) || z.begun

/-- The issue, started, with its context and block; none once its blocks are done, before it may start, or while its easel's work does
not run. -/
def State.issueCtx (s : State) (i : Nat) : Option IssueCtx :=
  match s.issue i with
  | none => none
  | some y =>
    match s.tileCtx y.tile with
    | none => none
    | some k =>
      if !k.x.works || !s.mayStart y then none
      else
        match k.x.stream y.stream with
        | none => none
        | some d => (d.blocks[y.block]?).map fun b => ⟨{ y with begun := true }, k, d, b⟩

/-- An issue past its block. -/
def Issue.nextBlock (y : Issue) (d : StreamDesc) : Issue :=
  { y with block := y.block + 1, apc := 0, regs := [], loops := [], inBlock := false, parts := [], gates := 0,
           gated := y.gated && !y.runs.isEmpty, consumed := false, finished := decide (d.blocks.length ≤ y.block + 1) }

/-- A fault of a stream engine under an issue (R116, R258): unit class Stream engine. -/
def State.streamFault (s : State) (c : IssueCtx) (code a b : Nat) : State :=
  s.faultWith code c.y.easel 0x05 (streamUnit c.d) c.y.seq a b

/-! ### Address programs (R255, R256) -/

/-- The registers of an address program (R255), as set at the start of its block. -/
def Issue.areg (y : Issue) (b : Block) (r : Nat) : Word64 :=
  if y.inBlock then tget 0 y.regs r
  else
    match r with
    | 0 => BitVec.ofNat 64 b.srcBase
    | 1 => BitVec.ofNat 64 b.dstBase
    | 6 => y.p
    | 7 => y.q
    | _ => 0

/-- The register file written out, so that it holds from the first instruction of the block on. -/
def Issue.enter (y : Issue) (b : Block) : Issue :=
  if y.inBlock then y else { y with inBlock := true, regs := (List.range 8).map fun r => (r, y.areg b r) }

/-- Where an address program goes on after a word whose successor is `n`: a body's end starts its next run, or leaves it. -/
def settleAddr : List LoopFrame → Nat → Nat × List LoopFrame
  | [], n => (n, [])
  | f :: fs, n =>
    if n = f.last + 1 then
      if f.iter + 1 < f.count then (f.first, { f with iter := f.iter + 1 } :: fs) else settleAddr fs n
    else (n, f :: fs)

def Issue.agoto (y : Issue) (n : Nat) : Issue :=
  let r := settleAddr y.loops n
  { y with apc := r.1, loops := r.2 }

/-- Register `d` set and the program moved on. -/
def Issue.aset (y : Issue) (d : Nat) (v : Word64) : Issue := { y with regs := tset y.regs d v }.agoto (y.apc + 1)

/-- The instruction an issue's address program is at; its earlier runs may still wait to be checked. -/
def State.afetch (s : State) (i : Nat) : Option (IssueCtx × AddrOp) :=
  match s.issueCtx i with
  | some c =>
    if c.b.kind = 2 then
      (decodeAddr (at8 c.b.payload (8 * c.y.apc) 8)).map fun o => ({ c with y := c.y.enter c.b }, o)
    else none
  | none => none

def execAddrEnd (i : Nat) (s : State) : Host.Outcome State Fault Refusal :=
  match s.afetch i with
  | some (c, .fin) => .next (s.setIssue (c.y.nextBlock c.d))
  | _ => .next s

def execAddrSeti (i : Nat) (s : State) : Host.Outcome State Fault Refusal :=
  match s.afetch i with
  | some (c, .seti d imm) => .next (s.setIssue (c.y.aset d (BitVec.ofNat 64 imm)))
  | _ => .next s

def execGetv (i : Nat) (s : State) : Host.Outcome State Fault Refusal :=
  match s.afetch i with
  | some (c, .getv d src) => .next (s.setIssue (c.y.aset d (BitVec.ofInt 64 (c.k.source 0 0 false src))))
  | _ => .next s

def execMadd (i : Nat) (s : State) : Host.Outcome State Fault Refusal :=
  match s.afetch i with
  | some (c, .madd d a b imm) =>
    .next (s.setIssue (c.y.aset d (tget 0 c.y.regs a + tget 0 c.y.regs b * BitVec.ofInt 64 (toSigned 32 imm))))
  | _ => .next s

def execAddi (i : Nat) (s : State) : Host.Outcome State Fault Refusal :=
  match s.afetch i with
  | some (c, .addi d a imm) => .next (s.setIssue (c.y.aset d (tget 0 c.y.regs a + BitVec.ofInt 64 (toSigned 48 imm))))
  | _ => .next s

/-- STREAM_PROGRAM (R256). The manual gives its details no meaning, so they are free values (log entry 13). -/
def State.programFault (s : State) (c : IssueCtx) : State :=
  let (n, s) := s.fresh
  s.streamFault c 0x0504 (Config.freeNat (2 * n) % 2 ^ 64) (Config.freeNat (2 * n + 1) % 2 ^ 32)

/-- `loop` (R256): the count read once; above 2^24 the issue stops with STREAM_PROGRAM. -/
def execAddrLoop (i : Nat) (s : State) : Host.Outcome State Fault Refusal :=
  match s.afetch i with
  | some (c, .loop r body) =>
    let n := (tget 0 c.y.regs r).toNat
    if n > 2 ^ 24 then .next (s.programFault c)
    else if n = 0 then .next (s.setIssue (c.y.agoto (c.y.apc + body + 1)))
    else
      .next (s.setIssue { c.y with apc := c.y.apc + 1, loops := ⟨c.y.apc + 1, c.y.apc + body, n, 0, 0⟩ :: c.y.loops })
  | _ => .next s

/-- A run added to an issue's run list; a run of length 0 is none, and more than 2^32 runs are STREAM_PROGRAM (R256). -/
def State.emitRun (s : State) (c : IssueCtx) (r : Run) (y : Issue) : State :=
  if r.length = 0 then s.setIssue y
  else if c.y.emitted + 1 > 2 ^ 32 then s.programFault c
  else s.setIssue { y with runs := y.runs ++ [r], emitted := y.emitted + 1 }

def execEmit (i : Nat) (s : State) : Host.Outcome State Fault Refusal :=
  match s.afetch i with
  | some (c, .emit a b l advS advD) =>
    let g := fun (y : Issue) r => tget 0 y.regs r
    let len := g c.y l
    let va := g c.y a
    let vb := g c.y b
    let y := if advS = 1 then { c.y with regs := tset c.y.regs a (va + len) } else c.y
    let y := if advD = 1 then { y with regs := tset y.regs b (g y b + len) } else y
    .next (s.emitRun c ⟨c.y.block, len.toNat, va.toNat, vb.toNat, false, false, false⟩ (y.agoto (y.apc + 1)))
  | _ => .next s

def execZero (i : Nat) (s : State) : Host.Outcome State Fault Refusal :=
  match s.afetch i with
  | some (c, .zero b l advD) =>
    let len := tget 0 c.y.regs l
    let vb := tget 0 c.y.regs b
    let y := if advD = 1 then { c.y with regs := tset c.y.regs b (vb + len) } else c.y
    .next (s.emitRun c ⟨c.y.block, len.toNat, 0, vb.toNat, true, false, false⟩ (y.agoto (y.apc + 1)))
  | _ => .next s

/-! ### Runs and their checks (R252, R258) -/

/-- The run of an extent block (R254). -/
def extentRun (c : IssueCtx) : Run :=
  let p := c.b.payload
  let step := c.y.p * BitVec.ofInt 64 (toSigned 32 (at8 p 16 4)) + c.y.q * BitVec.ofInt 64 (toSigned 32 (at8 p 20 4))
  let fin := fun (space base off : Nat) =>
    let a : Word64 := BitVec.ofNat 64 base + BitVec.ofNat 64 off
    (if space = 0 || space = 2 then a else a + step).toNat
  { block := c.y.block, length := runOf (c.k.canvas.formula (at8 p 24 2) c.k.slots), src := fin c.b.src c.b.srcBase (at8 p 0 8),
    dst := fin c.b.dst c.b.dstBase (at8 p 8 8), zero := false, checked := false, starved := false }

/-- The unit an end of a run must be a multiple of (R257 check 4, R258 step 1). -/
def endUnit (b : Block) (space : Nat) : Nat := if b.page then pageBytes else if space = 4 then 65536 else 64

/-- The local buffer of an issue. -/
def IssueCtx.localBuf (c : IssueCtx) : Option BufPlan := c.k.sheet.buf c.k.panel c.y.buf

/-- The running slot-mode intake of an easel that holds a primer lane (R320). -/
def State.intakeOf (s : State) (e lane : Nat) : Option Intake :=
  s.primer.intakes.find? fun x => x.easel = e && x.started && fld (at8 x.block 1 1) 1 1 = 0 && (at8 x.block 8 8).testBit lane

/-- Lanes of an intake, and the slots of its ring (R320). -/
def Intake.laneCount (x : Intake) : Nat := ((List.range 64).filter fun i => (at8 x.block 8 8).testBit i).length
def Intake.ring (x : Intake) : Nat := 256 * x.laneCount
def Intake.slotSize (x : Intake) : Nat := at8 x.block 88 4
def Intake.outBase (x : Intake) : Nat := at8 x.block 96 8

/-- Whether output `i` of a slot ring has been released: recorded as more bytes than any slot has. -/
def Intake.gone (x : Intake) (i : Nat) : Bool := decide (2 ^ 32 ≤ tget 0 x.slotRead i)

/-- What a run finds at one end: it is fine, it waits, or a fault with its code and details. -/
inductive EndCheck where
  | fine
  | waits
  | bad (code a b : Nat)

/-- Detail B of STREAM_RANGE and STREAM_ALIGN (R258). -/
def rangeDetail (c : IssueCtx) (r : Run) (space : Nat) : Nat := c.d.id + r.block * 65536 + space * 2 ^ 24

/-- BUFFER_OVERFLOW's detail B (R87): the logical tile and the buffer, 0xFF for none. -/
def overflowDetail (li buf : Nat) : Nat := li + buf * 65536

/-- Bytes [o, o + len) of the local end of an issue within its buffer, or the half that holds its local offset (R252, R263); else
BUFFER_OVERFLOW with the details of R87. -/
def IssueCtx.localCheck (c : IssueCtx) (o len : Nat) : EndCheck :=
  match c.localBuf with
  | none => .bad 0x0303 o (overflowDetail c.k.li 0xFF)
  | some b =>
    let h := b.room
    let lo := if b.dbl then c.y.off / max h 1 * h else 0
    if lo ≤ o ∧ within (o - lo) len h ∧ lo + h ≤ b.size then .fine else .bad 0x0303 (b.offset + o) (overflowDetail c.k.li b.id)

/-- Step 2 of R258 at one end: the run within its window. In compatibility mode a slot-derived run longer than its window in memory is
LENGTH_EXCEEDS_BUFFER (R84, R89; DEDUCED where R258 names STREAM_RANGE for every other run, log entry 129). -/
def State.inWindow (s : State) (c : IssueCtx) (r : Run) (space a base ext : Nat) : EndCheck :=
  match space with
  | 0x0 => c.localCheck ((c.y.off + a) % 2 ^ 64) r.length
  | 0x2 =>
    let li := base / 2097152
    let o := base % 2097152
    match (c.k.sheet.panelOf li).bind fun pr => c.k.sheet.bufAt pr.1 o with
    | none => .bad 0x0303 (a % 2097152) (overflowDetail (a / 2097152 % 2048) 0xFF)
    | some b =>
      if li * 2097152 + b.offset ≤ a ∧ within (a - (li * 2097152 + b.offset)) r.length b.size then .fine
      else .bad 0x0303 (a % 2097152) (overflowDetail (a / 2097152 % 2048) b.id)
  | 0x7 =>
    match s.intakeOf c.y.easel c.b.lane with
    | none => .waits
    | some x =>
      let i := a / 2 ^ 24
      if x.gone i ∨ at8 x.block 32 4 ≤ i ∨ !within (a % 2 ^ 24) r.length x.slotSize then
        .bad 0x0501 a (rangeDetail c r space)
      else if x.delivered ≤ i then .waits
      else .fine
  | _ =>
    let w := roomOf (c.k.canvas.formula ext c.k.slots)
    if base ≤ a ∧ within (a - base) r.length w then .fine
    else if s.compat c.y.easel && c.b.kind = 1 && extentDerived c.k.canvas c.b && decide (w < r.length) then
      .bad 0x0310 (r.length % 2 ^ 64) (w % 2 ^ 32)
    else .bad 0x0501 a (rangeDetail c r space)

/-- Step 3 of R258 at one end: every page, granule or extent held. A write to flash that has turned read-only is refused as a range is
(R390). -/
def State.endHeld (s : State) (c : IssueCtx) (r : Run) (write : Bool) (space a : Nat) : EndCheck :=
  let ok := !(write && space = 4 && !s.flashWritable) && match space with
    | 0x1 => s.mapped c.y.easel a r.length
    | 0x3 => within a r.length (s.unitCount c.y.easel 4 * 1048576)
    | 0x4 => within a r.length (s.flashBytes c.y.easel)
    | _ => true
  if ok then .fine else .bad 0x0501 a (rangeDetail c r space)

/-- Step 1 of R258 at one end. -/
def endAligned (c : IssueCtx) (r : Run) (space a : Nat) : EndCheck :=
  let u := endUnit c.b space
  if a % u = 0 ∧ r.length % u = 0 then .fine else .bad 0x0503 a (rangeDetail c r space)

/-- The first of two checks that is not fine. -/
def EndCheck.orElse (x y : EndCheck) : EndCheck := match x with | .fine => y | _ => x

/-- The checks of a run in their order, the source before the destination in each (R258). A `zero` has no source. -/
def State.checkRun (s : State) (c : IssueCtx) (r : Run) : EndCheck :=
  let src := fun (f : Nat → Nat → EndCheck) => if r.zero then EndCheck.fine else f c.b.src r.src
  (src (endAligned c r)).orElse <| (endAligned c r c.b.dst r.dst).orElse <|
    (src fun sp a => s.inWindow c r sp a c.b.srcBase c.b.srcExt).orElse <|
    (s.inWindow c r c.b.dst r.dst c.b.dstBase c.b.dstExt).orElse <|
    (src (s.endHeld c r false)).orElse (s.endHeld c r true c.b.dst r.dst)

/-! ### Transfers (R260, R262, R264) -/

/-- Whether an end is a memory end: not in a local store. -/
def memEnd (space : Nat) : Bool := space != 0 && space != 2

/-- The next transfer's length of a run: at most 512 B, within a 512 B boundary of each memory end; a flash block moves as 128 transfers,
cut at its own boundaries alone, but for a page's end at the other end (R260). -/
def pieceLen (c : IssueCtx) (r : Run) : Nat :=
  let page := fun (space a : Nat) => if memEnd space then pageBytes - a % pageBytes else pageBytes
  if c.b.dst = 4 && !r.zero then min r.length (min (512 - r.dst % 512) (page c.b.src r.src))
  else if c.b.src = 4 && !r.zero then min r.length (min (512 - r.src % 512) (page c.b.dst r.dst))
  else
  let cut := fun (space a : Nat) => if memEnd space then 512 - a % 512 else 512
  let k := if r.zero then cut c.b.dst r.dst
    else if memEnd c.b.src || memEnd c.b.dst then min (cut c.b.src r.src) (cut c.b.dst r.dst) else 512 - r.dst % 512
  min r.length k

/-- The local start of space 0x0 as a device address. -/
def IssueCtx.local0 (c : IssueCtx) : Nat :=
  storeBase c.y.tile + (match c.localBuf with | some b => b.offset | none => 0) + c.y.off

/-- The source place of a run in space 0x7: its slot in the ring (R320). -/
def State.slotPlace (s : State) (c : IssueCtx) (a : Nat) : Option Nat :=
  (s.intakeOf c.y.easel c.b.lane).bind fun x =>
    s.translate c.y.easel (x.outBase + a / 2 ^ 24 % max x.ring 1 * x.slotSize + a % 2 ^ 24)

/-- What a transfer of `n` bytes from the head of a run moves. -/
def State.moveOf (s : State) (c : IssueCtx) (r : Run) (n : Nat) : Option Move :=
  let place := fun (space a : Nat) => s.placeOf c.y.easel c.local0 space a
  if r.zero then
    (if c.b.dst = 5 then some (.remoteWrite none r.dst n c.b.position c.b.channel none)
     else (place c.b.dst r.dst).map fun d => .zeros d n)
  else if c.b.dst = 5 then
    (if c.b.src = 7 then
       (s.slotPlace c r.src).map fun a => .remoteWrite (some a) r.dst n c.b.position c.b.channel (some (c.b.lane, r.src / 2 ^ 24))
     else if c.b.src = 5 then some (.remoteCopy r.src r.dst n c.b.position c.b.channel none)
     else (place c.b.src r.src).map fun a => .remoteWrite (some a) r.dst n c.b.position c.b.channel none)
  else
    (place c.b.dst r.dst).bind fun d =>
      if c.b.src = 5 then some (.remoteRead r.src d n c.b.position c.b.channel)
      else if c.b.src = 7 then (s.slotPlace c r.src).map fun a => .primer c.b.lane (r.src / 2 ^ 24) a d n
      else (place c.b.src r.src).map fun a => .copy a d n

/-- The rows of a window block's chunk: what an input lays out, with the memory each element is read from (R180, R188, R194). -/
def State.chunkRows (s : State) (c : IssueCtx) : List Piece :=
  let p := c.b.payload
  let v := c.k.slots
  let plan := c.k.canvas.plan
  let n0 := c.k.item 6
  let n := c.k.item 7
  match wKind p with
  | 1 => s.convInput c.y.easel p v plan c.b.srcBase c.y.p.toNat c.y.q.toNat n0 n 0
  | 2 => s.convWeights c.y.easel p plan c.b.srcBase n0 n 0
  | _ => s.poolInput c.y.easel p v c.b.srcBase c.y.p.toNat c.y.q.toNat n0 n 0

/-- The output tensor's channel count (R176): a kind 0x03 record holds none, so it is the value of the panel's N slot (DESIGN CHOICE,
log entry 130). -/
def IssueCtx.outChannels (c : IssueCtx) : Nat := slotAt c.k.slots c.k.panel.nSlot

/-- Width and length of each row of a chunk: an output's rows are the tile's result rows (R175). -/
def State.chunkSizes (s : State) (c : IssueCtx) : List (Nat × Nat) :=
  let p := c.b.payload
  if wKind p = 3 then (chunkPixels p c.k.slots c.y.p.toNat c.y.q.toNat).map fun _ => (widthOf (wFormat p), c.k.item 7)
  else (s.chunkRows c).map fun k => (k.width, k.elems.length)

/-- The bytes in easel memory that elements [off, off + n) of row `k` of a chunk touch. -/
def State.chunkPlaces (s : State) (c : IssueCtx) (k off n : Nat) : List Nat :=
  let p := c.b.payload
  if wKind p = 3 then
    match (chunkPixels p c.k.slots c.y.p.toNat c.y.q.toNat)[k]? with
    | some (y, x) => (span off (off + n)).flatMap fun j =>
      let a := outputPlace p c.k.slots c.b.dstBase c.outChannels y x (c.k.item 6 + j)
      [a.1, a.1 + (a.2 + widthOf (wFormat p) - 1) / 8]
    | none => []
  else
    match (s.chunkRows c)[k]? with
    | some row => ((row.elems.drop off).take n).flatMap (·.reads)
    | none => []

/-- The places in easel memory that a part of a window or attention block reads, or writes for an output. -/
def State.partPlaces (s : State) (c : IssueCtx) (m : Move) : List Nat :=
  match m with
  | .chunk k off n => s.chunkPlaces c k off n
  | .attention _ what off len =>
    (List.range (ceilDiv len 64)).filterMap fun l => attnSource c.b.payload c.k.slots c.y.p.toNat what (off + 64 * l)
  | _ => []

/-- The arbiters a transfer passes, from its source to its destination: the engine of `slice` lies on base die `slice / 32`. -/
def State.arbsOf (s : State) (c : IssueCtx) (m : Move) : List Arb :=
  let die := c.d.slice / 32
  let far := fun (channel : Nat) => match s.pickPort (maskPorts (s.mask channel)) with | some p => [Arb.port p] | none => []
  let pages := fun (m : Move) => arbsOfPlaces die ((s.partPlaces c m).filterMap (s.translate c.y.easel))
  match m with
  | .copy a d _ => arbOf a ++ bridgeOf (dieOf a) die ++ bridgeOf die (dieOf d) ++ arbOf d
  | .primer _ _ a d _ => arbOf a ++ bridgeOf (dieOf a) die ++ bridgeOf die (dieOf d) ++ arbOf d
  | .zeros d _ => bridgeOf die (dieOf d) ++ arbOf d
  | .remoteWrite (some a) _ _ _ ch _ => arbOf a ++ bridgeOf (dieOf a) die ++ far ch
  | .remoteWrite none _ _ _ ch _ => far ch
  | .remoteRead _ d _ _ ch => far ch ++ bridgeOf die (dieOf d) ++ arbOf d
  | .remoteCopy _ _ _ _ ch _ => far ch
  | .chunk _ _ _ => pages m ++ bridgeOf die (dieOf (storeBase c.y.tile))
  | .attention t _ _ _ => pages m ++ bridgeOf die (dieOf (storeBase t))

/-- The local stores a transfer uses (R262). -/
def IssueCtx.storesOf (c : IssueCtx) (m : Move) : List Nat :=
  let st := fun (a : Nat) => if tierOf a = 4 then [storeTile a] else []
  match m with
  | .copy a d _ => st a ++ st d
  | .primer _ _ _ d _ => st d
  | .zeros d _ => st d
  | .remoteWrite (some a) _ _ _ _ _ => st a
  | .remoteRead _ d _ _ _ => st d
  | .chunk _ _ _ => [c.y.tile]
  | .attention t _ _ _ => [t]
  | _ => []

/-- The translations a transfer asks of its engine's cache (R249). -/
def State.translateFor (s : State) (c : IssueCtx) (m : Move) (r : Option Run) (n : Nat) : State :=
  let h := c.d.slice / 4
  let one := fun (s : State) (space a : Nat) => if space = 1 then s.useTranslation h c.y.easel a n else s
  match r with
  | some r => one (if r.zero then s else one s c.b.src r.src) c.b.dst r.dst
  | none => (s.partPlaces c m).foldl (fun s a => s.useTranslation h c.y.easel a 1) s

/-- The slack of a transfer (R264), `steps` being the steps counted at its tile since the stream's first issue. -/
def State.slack (s : State) (c : IssueCtx) (steps : Nat) : Nat :=
  if c.d.rate = 0 then 65535
  else
    let f := s.flow c.y.tile c.y.stream c.y.seq
    let v :=
      if c.d.localIsSource then
        let u := match c.localBuf with | some b => b.room | none => 0
        (u * 1024 - (c.d.rate * steps - f.drained * 1024)) / c.d.rate
      else (f.landed * 1024 - c.d.rate * steps) / c.d.rate
    min v 65534

/-- Transfers in flight of a slice, and those at a tile's port (Table 10-8). -/
def State.inSlice (s : State) (slice : Nat) : Nat :=
  (s.streams.xfers.filter fun x => match s.issue x.issue with
    | some y => match (s.easel y.easel).stream y.stream with | some d => d.slice = slice | none => false
    | none => false).length
def State.atPort (s : State) (t : Nat) : Nat := (s.streams.xfers.filter fun x => x.stores.contains t).length

/-- Whether another issue of the slice is in the middle of a flash block, whose 128 transfers are consecutive (R260). -/
def State.midBlock (s : State) (c : IssueCtx) : Bool :=
  s.streams.issues.any fun z => z.id != c.y.id && (match z.runs, (s.easel z.easel).stream z.stream with
    | r :: _, some d => d.slice = c.d.slice && r.checked && r.length % 65536 != 0 && (match d.blocks[r.block]? with
        | some b => b.dst = 4 || (b.src = 4 && !r.zero)
        | none => false)
    | _, _ => false)

/-- Whether one more transfer may be formed (R260, R262). -/
def State.roomFor (s : State) (c : IssueCtx) (m : Move) : Bool :=
  !s.midBlock c && decide (s.inSlice c.d.slice < 192) && (c.storesOf m).all fun t => decide (s.atPort t < 64)

/-- A transfer put in flight. -/
def State.launch (s : State) (c : IssueCtx) (m : Move) (steps space addr : Nat) : State :=
  let x : Xfer := { id := s.streams.nextXfer, issue := c.y.id, move := m, slack := s.slack c steps, arbs := s.arbsOf c m,
                    sent := none, block := c.y.block, space := space, addr := addr, stores := c.storesOf m }
  { s with streams := { s.streams with xfers := s.streams.xfers ++ [x], nextXfer := s.streams.nextXfer + 1 } }

/-- A checked run split into transfers as far as the limits let it (R260, R262): what is left of it. -/
def splitRun (c : IssueCtx) (steps : Nat) : Nat → Run → State → State × Run
  | 0, r, s => (s, r)
  | fuel + 1, r, s =>
    if r.length = 0 then (s, r)
    else
      let n := pieceLen c r
      match s.moveOf c r n with
      | none => (s, r)
      | some m =>
        if !s.roomFor c m then (s, r)
        else
          let s := (s.translateFor c m (some r) n).launch c m steps c.b.src r.src
          splitRun c steps fuel { r with length := r.length - n, src := r.src + n, dst := r.dst + n } s

/-- The parts of a checked window or attention block put in flight as far as the limits let them: those left. -/
def launchParts (c : IssueCtx) (steps : Nat) : List Move → State → State × List Move
  | [], s => (s, [])
  | m :: rest, s =>
    if s.roomFor c m then
      launchParts c steps rest ((s.translateFor c m none 0).launch c m steps 0x1 ((s.partPlaces c m).headD 0))
    else (s, m :: rest)

/-- The context of a run: the block it came from, which may lie behind the issue's present one. -/
def IssueCtx.ofRun (c : IssueCtx) (r : Run) : IssueCtx :=
  match c.d.blocks[r.block]? with
  | some b => { c with b, y := { c.y with block := r.block } }
  | none => c

/-- A run whose checks have passed, taken as far as the limits let it; the block it came from is behind it for an extent. -/
def State.takeRun (s : State) (c : IssueCtx) (steps : Nat) (r : Run) (rest : List Run) (y : Issue) : State :=
  let (s, left) := splitRun (c.ofRun r) steps 192 r s
  s.setIssue { y with runs := if left.length = 0 then rest else { left with checked := true } :: rest, gated := false }

/-- A run that waits for a primer output (R320): once an intake holds the lane, the first wait of a run is counted, and the first in
an intake reported. -/
def State.starve (s : State) (c : IssueCtx) (r : Run) (rest : List Run) (y : Issue) : State :=
  match s.intakeOf c.y.easel c.b.lane with
  | none => s.setIssue { y with runs := r :: rest, gated := true }
  | some x =>
    let s := s.setIssue { y with runs := { r with starved := true } :: rest, gated := true }
    if r.starved then s
    else
      let st := tget [] s.primer.stats c.y.easel
      let z := st ++ List.replicate (7 - st.length) 0
      let s := { s with primer := { s.primer with
        stats := tset s.primer.stats c.y.easel (z.set 4 (z.getD 4 0 + 1)),
        banks := tset s.primer.banks c.b.lane ((tget Bank.reset s.primer.banks c.b.lane).bump x.seq 4 1),
        intakes := s.primer.intakes.map fun i => if i.easel = x.easel && i.seq = x.seq then { i with starved := true } else i } }
      if x.starved then s else s.reportSeq 0x0604 c.y.easel 0x06 c.b.lane c.y.seq (r.src / 2 ^ 24) 0

/-- A run at the head of an issue's list: checked once (R258), then split. -/
def State.stepRun (s : State) (c : IssueCtx) (steps : Nat) (r : Run) (rest : List Run) (y : Issue) : State :=
  if r.checked then s.takeRun c steps r rest y
  else
    match s.checkRun (c.ofRun r) r with
    | .fine => s.takeRun c steps r rest y
    | .waits => s.starve (c.ofRun r) r rest y
    | .bad code a b => s.streamFault c code a b

/-! ### Window and attention blocks (R183, R238, R253) -/

/-- Requests an issue sends to semaphores before it fetches: the gates of R183, or the release wait of R238. -/
def State.sendGates (s : State) (c : IssueCtx) (w : List (Nat × Nat)) (kind : SyncKind) (who : Who) : State :=
  { s with net := s.net ++ w.map fun g =>
      { kind, easel := c.y.easel, sem := g.1, n := g.2, who, after := 0, unitClass := 0x05, unitId := streamUnit c.d } }

/-- The checks of a window block's chunk before any byte of it moves (R252, R258), source before destination: its accesses are whole
64 B lines, so a block with page 1 fails the first; then the lines in memory within the declared window and the rows within the local
end; then the pages held. -/
def State.checkChunk (s : State) (c : IssueCtx) (parts : List Move) : EndCheck :=
  let p := c.b.payload
  let out := wKind p = 3
  let base := if out then c.b.dstBase else c.b.srcBase
  let w := roomOf (c.k.canvas.formula (if out then c.b.dstExt else c.b.srcExt) c.k.slots)
  let lines := (parts.flatMap (s.partPlaces c)).map fun a => a / 64 * 64
  let bad := fun (code a : Nat) => EndCheck.bad code a (c.d.id + c.y.block * 65536 + 2 ^ 24)
  let rows := if out then
      ((s.chunkSizes c).zipIdx).map fun (z, m) => (m * pitchOf z.2 z.1, ceilDiv (z.2 * z.1) 8)
    else (s.chunkRows c).map fun k => (k.at_, ceilDiv (k.elems.length * k.width) 8)
  let local_ := match rows.find? fun r => match c.localCheck (c.y.off + r.1) r.2 with | .fine => false | _ => true with
    | some r => c.localCheck (c.y.off + r.1) r.2
    | none => .fine
  let memory := match lines.find? fun a => !(decide (base ≤ a) && within (a - base) 64 w) with
    | some a => bad 0x0501 a
    | none => .fine
  let held := match lines.find? fun a => !s.mapped c.y.easel a 64 with
    | some a => bad 0x0501 a
    | none => .fine
  (if c.b.page && !lines.isEmpty then bad 0x0503 (lines.headD 0) else EndCheck.fine).orElse <|
    (if out then local_.orElse memory else memory.orElse local_).orElse held

/-- What is left of a block's parts after the limits took what they let through. -/
def State.stepParts (s : State) (c : IssueCtx) (steps : Nat) (parts : List Move) : State :=
  let (s, left) := launchParts c steps parts s
  s.setIssue (if left.isEmpty then c.y.nextBlock c.d else { c.y with parts := left })

/-- A block whose checks are made: its parts, or the fault. -/
def State.beginParts (s : State) (c : IssueCtx) (steps : Nat) (parts : List Move) (check : EndCheck) : State :=
  match check with
  | .bad code a b => s.streamFault c code a b
  | _ => s.stepParts c steps parts

/-- Whether a window issue lies in a zero-extent stripe (R185). -/
def zeroStripe (p : List Byte) (v : List Nat) (st : Nat) : Bool := decide (wStripes p v ≤ st) || decide (wWout p v = 0)

/-- A window block: the gates first, then the chunk's checks and its transfers (R180, R183, R260). -/
def State.windowStep (s : State) (c : IssueCtx) (steps : Nat) : State :=
  let p := c.b.payload
  if !c.y.inBlock then
    let waits := (if wGate p then gateWaits p c.k.slots c.y.p.toNat else []).map fun g =>
      (g.1, g.2 + match c.k.x.semDecl g.1 with | some d => d.initial | none => 0)
    (s.sendGates c waits .waitv (.gate c.y.id)).setIssue { c.y with inBlock := true, gates := waits.length, gated := waits.length != 0 }
  else if c.y.gates != 0 then s
  else if !c.y.parts.isEmpty then s.stepParts c steps c.y.parts
  else if zeroStripe p c.k.slots c.y.p.toNat then s.setIssue (c.y.nextBlock c.d)
  else
    let parts := cutRows (s.chunkSizes c)
    s.beginParts c steps parts (s.checkChunk c parts)

/-- The tiles of the panel that an attention block delivers to: place in the panel, dense number, query block (R237). -/
def State.attnTiles (s : State) (c : IssueCtx) : List (Nat × Nat × Nat) :=
  match c.k.sheet.panels.find? (·.number = aPanel c.b.payload) with
  | some q => (List.range (q.rows * q.cols)).filterMap fun k =>
    (s.denseOf c.y.easel (q.origin + k / max q.cols 1 * q.stride + k % max q.cols 1)).map fun t =>
      (k, t, aFirst c.b.payload c.k.slots + k * aG c.b.payload)
  | none => []

/-- The buffers that an attention block fills. -/
def IssueCtx.attnPlan (c : IssueCtx) : List BufPlan :=
  match c.k.sheet.panels.find? (·.number = aPanel c.b.payload) with | some q => c.k.sheet.plan q | none => []

/-- The deliveries of an attention block cut into transfers (R238, R260). -/
def State.attnMoves (s : State) (c : IssueCtx) : List Move :=
  let p := c.b.payload
  (s.attnTiles c).flatMap fun (_, t, qBlock) =>
    (attnParts (classOf (s.attnMask c.y.easel p c.k.slots qBlock c.y.p.toNat))).flatMap fun what =>
      (List.range (ceilDiv (attnSize p what) 512)).map fun i => .attention t what (512 * i) (min 512 (attnSize p what - 512 * i))

/-- The checks of an attention block before any byte moves (R258): keys, values and segment ids held, and every delivery within the half
it fills. A block with page 1 moves runs that are no multiple of 2 MiB. -/
def State.checkAttn (s : State) (c : IssueCtx) (parts : List Move) : EndCheck :=
  let p := c.b.payload
  let j := c.y.p.toNat
  let n := attnSize p 0
  let bad := fun (code a : Nat) => EndCheck.bad code a (c.d.id + c.y.block * 65536 + 2 ^ 24)
  let past := parts.findSome? fun m => match m with
    | .attention t what off len =>
      (match attnHalf p c.attnPlan j what with
       | some (b, place) => if within off len b.room then none
         else some (EndCheck.bad 0x0303 (place + off) (overflowDetail (s.logical c.y.easel t) b.id))
       | none => none)
    | _ => none
  let held := s.mapped c.y.easel (aKBase p + j * n) n && s.mapped c.y.easel (aVBase p + j * n) n
    && (!aSegments p || s.mapped c.y.easel (aIdBase p) (2 * max (aLength p c.k.slots) (j * aBk p)))
  (if c.b.page && !parts.isEmpty then bad 0x0503 (aKBase p + j * n) else EndCheck.fine).orElse <|
    (past.getD .fine).orElse (if held then .fine else bad 0x0501 (aKBase p + j * n))

/-- An attention block: nothing where the command streams no such key block (R239); from block 2 on the release wait, then the checks
and the transfers (R238). -/
def State.attentionStep (s : State) (c : IssueCtx) (steps : Nat) : State :=
  let p := c.b.payload
  let j := c.y.p.toNat
  if ceilDiv (aKeys p c.k.slots) (aBk p) ≤ j then s.setIssue (c.y.nextBlock c.d)
  else if !c.y.inBlock then
    let tiles := match c.k.sheet.panels.find? (·.number = aPanel p) with | some q => q.rows * q.cols | none => 0
    let w := if 2 ≤ j then [(aRelease p, tiles)] else []
    (s.sendGates c w .wait (.issue c.y.id)).setIssue { c.y with inBlock := true, consumed := decide (j < 2) }
  else if !c.y.consumed then s
  else if !c.y.parts.isEmpty then s.stepParts c steps c.y.parts
  else
    let parts := s.attnMoves c
    s.beginParts c steps parts (s.checkAttn c parts)

/-- STREAM_RUN (R258): the next run of an issue is checked and split into transfers. -/
def execStreamRun (i steps : Nat) (s : State) : Host.Outcome State Fault Refusal :=
  match s.issue i with
  | none => .next s
  | some y =>
    match y.runs, s.issueCtx i with
    | r :: rest, some c => .next (s.stepRun c steps r rest c.y)
    | r :: rest, none =>
      -- the last block is behind; its runs still wait to be formed
      match s.tileCtx y.tile, (s.easel y.easel).stream y.stream with
      | some k, some d =>
        match d.blocks[r.block]? with
        | some b => if k.x.works then .next (s.stepRun ⟨y, k, d, b⟩ steps r rest y) else .next s
        | none => .next s
      | _, _ => .next s
    | [], some c =>
      match c.b.kind with
      | 1 =>
        let r := extentRun c
        let y' := c.y.nextBlock c.d
        if r.length = 0 then .next (s.setIssue y') else .next (s.stepRun c steps r [] y')
      | 3 => .next (s.windowStep c steps)
      | 4 => .next (s.attentionStep c steps)
      | _ => .next s
    | [], none => .next s

/-! ### Arbiters (R265) -/

/-- Counter `i` of a slice's record raised (Table 18-4, kind 0x03) under command `seq`. -/
def State.bumpSlice (s : State) (slice seq i n : Nat) : State :=
  { s with streams := { s.streams with slices := tset s.streams.slices slice ((tget Bank.reset s.streams.slices slice).bump seq i n) } }

/-- The slice of a transfer and the command it works for. -/
def State.sliceOf (s : State) (x : Xfer) : Option (Nat × Nat) :=
  (s.issue x.issue).bind fun y => ((s.easel y.easel).stream y.stream).map fun d => (d.slice, y.seq)

/-- Whether a transfer is the oldest of its slice that is not granted yet: a slice's transfers are granted in emit order (R261). -/
def State.emitHead (s : State) (x : Xfer) : Bool :=
  let sliceNo := fun (z : Xfer) => (s.sliceOf z).map (·.1)
  match s.streams.xfers.find? fun z => !z.arbs.isEmpty && sliceNo z = sliceNo x with
  | some z => z.id = x.id
  | none => false

/-- Whether a flash stack, if it is in the middle of a block, is so for a transfer of the same issue (R260). -/
def State.flashFree (s : State) (a : Arb) (issue : Option Nat) : Bool :=
  match a with
  | .flash st => match s.streams.flashTurn.find? (·.1 = st) with | some t => issue = some t.2.1 | none => true
  | _ => true

/-- A request pending at an arbiter: a transfer, or a unit's. -/
inductive Pending where
  | xfer (x : Xfer) | ask (q : Ask)
  deriving DecidableEq, Repr

def Pending.slack : Pending → Nat | .xfer x => x.slack | .ask q => q.slack
def Pending.id : Pending → Nat | .xfer x => x.id | .ask q => q.id

/-- Whether a run waits on an output of an intake (R320, R322). -/
def State.awaits (s : State) (x : Intake) : Bool :=
  s.streams.issues.any fun y => y.easel = x.easel && y.gated &&
    match y.runs, (s.easel y.easel).stream y.stream with
    | r :: _, some d => match d.blocks[r.block]? with | some b => b.src = 7 && (at8 x.block 8 8).testBit b.lane | none => false
    | _, _ => false

/-- The intake that a primer's request serves. -/
def State.servedIntake (s : State) (w : Asker) : Option Intake :=
  match w with
  | .lane l => s.primer.intakes.find? fun x => x.started && (at8 x.block 8 8).testBit l
  | .output e seq => s.primer.intakes.find? fun x => x.easel = e && x.seq = seq
  | .intake _ | .reduction _ _ | .drain _ _ | .log _ _ | .glaze _ | .bar2 _ _ | .trace _ => none

/-- The slack of a drain or export (R366): 65,535 as it copies from the stage or from flash, else 32,768 until the next applied update
completes and 1,024 from then on. From the stage to the store is held as to flash (DESIGN CHOICE, log entry 147). -/
def Easel.drainSlack (x : Easel) (d : Drain) : Nat :=
  if d.via = 2 || (d.via = 1 && d.phase != 0) then 65535 else if d.step < x.lastApplied then 1024 else 32768

/-- A unit's request with the slack it has now: a primer's is 2,048 while a run waits on the output of its intake (R322), a drain's falls
as an update completes (R366). -/
def State.slackNow (s : State) (q : Ask) : Ask :=
  match q.who with
  | .drain e id => match (s.easel e).drains.find? (·.id = id) with | some d => { q with slack := (s.easel e).drainSlack d } | none => q
  | _ =>
    match s.servedIntake q.who with
    | some x => { q with slack := if s.awaits x then 2048 else q.slack }
    | none => q

/-- The requests that arbiter `a` may grant now. -/
def State.pendingAt (s : State) (a : Arb) : List Pending :=
  ((s.streams.xfers.filter fun x => x.arbs.head? = some a && s.emitHead x && s.flashFree a (some x.issue)).map .xfer)
    ++ (s.streams.asks.filter fun q => q.arbs.head? = some a && s.flashFree a none).map fun q => .ask (s.slackNow q)

/-- The request of least slack, the older of equals (R265). -/
def leastSlack : List Pending → Option Pending
  | [] => none
  | x :: rest =>
    match leastSlack rest with
    | none => some x
    | some y => if y.slack < x.slack || (y.slack = x.slack && decide (y.id < x.id)) then some y else some x

/-- Transfer `x` changed. -/
def State.onXfer (s : State) (x : Nat) (f : Xfer → Xfer) : State :=
  { s with streams := { s.streams with xfers := s.streams.xfers.map fun (z : Xfer) => if z.id = x then f z else z } }

/-- A transfer past its next arbiter; a last grant is counted by its slice, and a flash stack that grants the first transfer of a block
keeps to it (R260). -/
def State.grant (s : State) (x : Xfer) (forced : Bool) : State :=
  let s := match x.arbs with
    | .flash st :: _ =>
      if s.streams.flashTurn.any (·.1 = st) then s
      else { s with streams := { s.streams with flashTurn := tset s.streams.flashTurn st (x.issue, 0) } }
    | _ => s
  let s := s.onXfer x.id fun z => { z with arbs := z.arbs.tail }
  match s.sliceOf x with
  | some l =>
    let s := if x.arbs.length = 1 then s.bumpSlice l.1 l.2 0 1 else s
    if forced then s.bumpSlice l.1 l.2 2 1 else s
  | none => s

/-- A unit's request past its next arbiter; a trace unit writes as soon as it is granted (R470). -/
def State.grantAsk (s : State) (q : Ask) : State :=
  let s := { s with streams := { s.streams with asks := s.streams.asks.map fun z => if z.id = q.id then { z with arbs := z.arbs.tail } else z } }
  match q.who, q.arbs.tail with
  | .trace d, [] => (s.unask (· == .trace d)).traceWrite d
  | _, _ => s

def State.grantPending (s : State) (p : Pending) (forced : Bool) : State :=
  match p with
  | .xfer x => s.grant x forced
  | .ask q => s.grantAsk q

/-- ARBITER_GRANT. -/
def execArbiterGrant (a : Arb) (s : State) : Host.Outcome State Fault Refusal :=
  match leastSlack (s.pendingAt a) with
  | some p => .next (s.grantPending p false)
  | none => .next s

def State.xfer (s : State) (x : Nat) : Option Xfer := s.streams.xfers.find? (·.id = x)

/-- The request numbered `x`, where an arbiter may grant it now. -/
def State.pendingNo (s : State) (x : Nat) : Option Pending :=
  let next := ((s.xfer x).bind (·.arbs.head?)).or ((s.streams.asks.find? (·.id = x)).bind (·.arbs.head?))
  next.bind fun a => (s.pendingAt a).find? (·.id = x)

/-- STARVATION_GUARD_EXPIRY: request `x` has waited at its arbiter longer than the guard and is granted next, whatever its slack. One
behind an older transfer of its slice is not at the arbiter yet. -/
def execStarvationGuardExpiry (x : Nat) (s : State) : Host.Outcome State Fault Refusal :=
  match s.pendingNo x with
  | some p => .next (s.grantPending p true)
  | none => .next s

/-! ### Landing (R260, R261, R267, R269) -/

/-- Bytes read from one place and written to another, poison travelling by whole 64 B lines (R269); elements keep their tags. -/
def State.copyBytes (s : State) (a d n : Nat) : State :=
  let bs := s.readAt a n
  let lines := if s.poison.isEmpty then [] else (List.range (ceilDiv n 64)).filter fun l => s.poisoned (a + 64 * l) 64
  let tags := (s.tagsAt a n).map fun p => (p.1 + 8 * d, p.2)
  let s := (s.writeAt d bs).tag tags
  lines.foldl (fun s l => s.setPoison (d + 64 * l) 64) s

/-- What the code of the source tier found: `errs` by offset into the `n` bytes read at `a`. An address of the local end is
reported in its tile's space (Table 10-3). -/
def State.sourceErrors (s : State) (c : IssueCtx) (f : Xfer) (a n : Nat) (errs : List (Nat × MemErr)) : State :=
  errs.foldl (fun (s : State) r =>
    if r.1 < n then
      let place := if f.space = 0 then (2, c.k.li * 2097152 + (a + r.1 - storeBase c.y.tile)) else (f.space, f.addr + r.1)
      s.readError c.y.easel (a + r.1) place.1 place.2 0 c.y.stream c.y.seq r.2
    else s) s

/-- The same under a window chunk or a key and value block: `errs` by easel virtual address, or by local-store offset where
the local end is read. -/
def State.blockErrors (s : State) (c : IssueCtx) (errs : List (Nat × MemErr)) : State :=
  errs.foldl (fun (s : State) r =>
    if c.b.dst = 1 then
      s.readError c.y.easel (storeBase c.y.tile + r.1 % storeSize) 2 (c.k.li * 2097152 + r.1 % storeSize) 0 c.y.stream c.y.seq r.2
    else
      match s.translate c.y.easel r.1 with
      | some a => s.readError c.y.easel a 1 r.1 0 c.y.stream c.y.seq r.2
      | none => s) s

/-- The accounts of a landed transfer: the flow (R264), the health record (R165; `none` for what is no element of its type) and the
slice. -/
def State.account (s : State) (c : IssueCtx) (n : Nat) (counts : Option (List Nat)) : State :=
  let f := s.flow c.y.tile c.y.stream c.y.seq
  let s := s.setFlow { f with landed := f.landed + n, drained := f.drained + (if c.d.localIsSource then n else 0) }
  let s := match counts with
    | some h => if c.b.type = 0xFE then s else s.countHealth c.y.easel c.y.stream c.k.step h
    | none => s
  s.bumpSlice c.d.slice c.y.seq 1 n

def State.dropXfer (s : State) (x : Nat) : State :=
  { s with streams := { s.streams with xfers := s.streams.xfers.filter (·.id != x) } }

/-- The context of a transfer's issue with the transfer's own block. -/
def State.xferCtx (s : State) (x : Xfer) : Option IssueCtx :=
  match s.issue x.issue with
  | none => none
  | some y =>
    match s.tileCtx y.tile, (s.easel y.easel).stream y.stream with
    | some k, some d => (d.blocks[x.block]?).map fun b => ⟨y, k, d, b⟩
    | _, _ => none

/-- Bytes of a flash block's turn that have landed counted (R260): with the last one the stack is free again. What is answered is whether
the block is whole. -/
def State.flashLanded (s : State) (st n : Nat) : Bool × State :=
  match s.streams.flashTurn.find? (·.1 = st) with
  | some t =>
    let got := t.2.2 + n
    let turns := if 65536 ≤ got then tdel s.streams.flashTurn st else tset s.streams.flashTurn st (t.2.1, got)
    (decide (65536 ≤ got), { s with streams := { s.streams with flashTurn := turns } })
  | none => (false, s)

/-- A transfer's bytes put on the way into a flash block, which is programmed whole with its last one; poison marks the block (R260,
R267). -/
def State.programFlash (s : State) (d : Nat) (bs : List Byte) (bad : Bool) : State :=
  let o := d - flashBase
  let block := o / 65536 * 65536
  let s := { s with tiers := { s.tiers with
    flashStage := mputs s.tiers.flashStage o bs,
    flashBad := if bad then insertSet s.tiers.flashBad (o / 65536) else s.tiers.flashBad } }
  match s.flashLanded (stackOf d) bs.length with
  | (true, s) =>
    let marked := s.tiers.flashBad.contains (o / 65536)
    let content := mgets s.tiers.flashStage block 65536
    let s := { s with tiers := { s.tiers with flashStage := mclear s.tiers.flashStage block 65536,
                                              flashBad := s.tiers.flashBad.filter (· != o / 65536) } }
    let s := s.writeAt (flashBase + block) content
    if marked then s.setPoison (flashBase + block) 65536 else s
  | (false, s) => s

/-- Bytes that came for a place written there; those of a flash block wait for it to be whole. -/
def State.landBytes (s : State) (d : Nat) (bs : List Byte) (bad : Bool) : State :=
  if flashBase ≤ d then s.programFlash d bs bad
  else
    let s := s.writeAt d bs
    if bad then s.setPoison (d / 64 * 64) (d + bs.length - d / 64 * 64) else s

/-- Part of a chunk of a window stream lands (R180, R188, R194): elements [off, off + n) of its row `k`. -/
def State.landChunk (s : State) (c : IssueCtx) (k off n : Nat) : State :=
  let p := c.b.payload
  if wKind p = 3 then
    let w := widthOf (wFormat p)
    let row := s.readAt (c.local0 + k * pitchOf (c.k.item 7) w) (pitchOf (c.k.item 7) w)
    let bs := packBits w ((span off (off + n)).map (elemAt w row))
    let first := c.local0 + k * pitchOf (c.k.item 7) w
    let tags := (s.tags.filter fun t => decide (8 * first + w * off ≤ t.1) && decide (t.1 < 8 * first + w * (off + n))).map
      fun t => (t.1 - (8 * first + w * off), t.2)
    (s.windowOutput c.y.easel p c.k.slots c.b.dstBase c.y.p.toNat c.y.q.toNat (c.k.item 6) (c.k.item 7) c.outChannels c.local0 k off n).account
      c bs.length (some (healthOf c.b.type bs tags))
  else
    match (s.chunkRows c)[k]? with
    | some row =>
      let bs := packBits row.width (((row.elems.drop off).take n).map (·.bits))
      (s.storePiece c.local0 row off n).account c bs.length (some (healthOf c.b.type bs []))
    | none => s

/-- Whether a tile of an attention block still has deliveries of issue `y` to come, apart from transfer `x`. -/
def State.attnOwed (s : State) (y : Issue) (t x : Nat) : Bool :=
  let into := fun (m : Move) => match m with | .attention u _ _ _ => u = t | _ => false
  (s.streams.xfers.any fun z => z.issue = y.id && z.id != x && into z.move) || y.parts.any into

/-- Part of a key and value block lands in a tile (R238); keys and values are elements of the block's type, header and mask are none.
After the last of the tile, its arrival semaphore is signalled. -/
def State.landAttention (s : State) (c : IssueCtx) (x t what off len : Nat) : State :=
  let p := c.b.payload
  match (s.attnTiles c).find? (·.2.1 = t) with
  | none => s
  | some (k, _, qBlock) =>
    let bs := ((s.attnBytes c.y.easel p c.k.slots qBlock c.y.p.toNat what).drop off).take len
    let s := (s.attnLand c.y.easel p c.k.slots c.attnPlan t qBlock c.y.p.toNat what off len).account c len
      (if what = 2 || what = 3 then none else some (healthOf c.b.type bs []))
    if s.attnOwed c.y t x || !c.k.x.works then s else s.sendGates c [(aArrival p + k, 1)] .signal (.tile c.y.tile)

/-- A copy lands; one that reads or writes flash is part of a block. -/
def State.landCopy (s : State) (a d n : Nat) : State :=
  if flashBase ≤ d then s.programFlash d (s.readAt a n) (s.poisoned a n)
  else if flashBase ≤ a then ((s.copyBytes a d n).flashLanded (stackOf a) n).2
  else s.copyBytes a d n

/-- Bytes of a slot read by a run (R320): past 64 + the tensor's bytes the slot is released. -/
def State.readSlot (s : State) (e lane output n : Nat) : State :=
  match s.intakeOf e lane with
  | none => s
  | some x =>
    let size := match s.readVa e (x.outBase + output % max x.ring 1 * x.slotSize + 48) 8 with | some b => leNat b | none => 0
    let got := tget 0 x.slotRead output + n
    let x' := { x with slotRead := tset x.slotRead output (if 64 + size ≤ got then 2 ^ 64 else got),
                       released := x.released + (if 64 + size ≤ got && !x.gone output then 1 else 0) }
    { s with primer := { s.primer with intakes := s.primer.intakes.map fun i => if i.easel = x.easel && i.seq = x.seq then x' else i } }

/-- TRANSFER_LAND (R260): a transfer that every arbiter has granted lands; one to or from a far device is sent, and lands with
its response, when its bytes are acknowledged (R264, R342). -/
def execTransferLand (x : Nat) (errs : List (Nat × MemErr)) (s : State) : Host.Outcome State Fault Refusal :=
  match s.xfer x with
  | none => .next s
  | some f =>
    match s.xferCtx f with
    | none => .next s
    | some c =>
      if !f.arbs.isEmpty || f.sent.isSome then .next s
      else
        match f.move with
        | .copy a d n =>
          let s := s.sourceErrors c f a n errs
          .next (((s.landCopy a d n).account c n (some (healthOf c.b.type (s.readAt a n) (s.tagsAt a n)))).dropXfer x)
        | .primer lane out a d n =>
          let s := s.sourceErrors c f a n errs
          .next ((((s.landCopy a d n).account c n (some (healthOf c.b.type (s.readAt a n) (s.tagsAt a n)))).readSlot c.y.easel lane out n).dropXfer x)
        | .zeros d n =>
          let zs : List Byte := List.replicate n 0
          let s := if flashBase ≤ d then s.programFlash d zs false else s.writeAt d zs
          .next ((s.account c n (some (healthOf c.b.type zs []))).dropXfer x)
        | .chunk k off n => .next (((s.blockErrors c errs).landChunk c k off n).dropXfer x)
        | .attention t what off len => .next (((s.blockErrors c errs).landAttention c x t what off len).dropXfer x)
        | .remoteWrite src addr n pos ch slot =>
          let s := match src with | some a => s.sourceErrors c f a n errs | none => s
          let bs := match src with | some a => s.readAt a n | none => List.replicate n 0
          let bad := match src with | some a => s.poisoned a n | none => false
          match s.request c.y.easel 1 ch pos addr 0 bs bad (some c.y.id) (some x) with
          | some s' =>
            let s := s'.onXfer x fun z => { z with sent := some (s.fabric.nextTag % 65536) }
            let s := match src with | some a => if flashBase ≤ a then (s.flashLanded (stackOf a) n).2 else s | none => s
            .next (match slot with | some l => s.readSlot c.y.easel l.1 l.2 n | none => s)
          | none => .next s
        | .remoteRead addr _ n pos ch =>
          match s.request c.y.easel 2 ch pos addr n [] false (some c.y.id) (some x) with
          | some s' =>
            .next (s'.onXfer x fun z => { z with sent := some (s.fabric.nextTag % 65536) })
          | none => .next s
        | .remoteCopy a d n pos ch got =>
          let sent := match got with
            | none => s.request c.y.easel 2 ch pos a n [] false (some c.y.id) (some x)
            | some (bs, bad) => s.request c.y.easel 1 ch pos d 0 bs bad (some c.y.id) (some x)
          match sent with
          | some s' =>
            .next (s'.onXfer x fun z => { z with sent := some (s.fabric.nextTag % 65536) })
          | none => .next s

/-! ### Completion (R107, R182, R284) -/

/-- Whether an issue has nothing left, and the issues of its stream from its tile before it have completed (R107, R283). -/
def State.issueDone (s : State) (y : Issue) : Bool :=
  y.finished && y.runs.isEmpty && !(s.streams.xfers.any (·.issue = y.id))
    && s.streams.issues.all fun z => !(z.tile = y.tile && z.stream = y.stream && decide (z.id < y.id))

/-- The progress signals of an output stream's last chunk of a stripe (R182), one for each output record that asks for it. -/
def progressSignal (k : TileCtx) (d : StreamDesc) (y : Issue) : List Nat :=
  d.blocks.filterMap fun b =>
    let p := b.payload
    if b.kind = 3 && wKind p = 3 && wProgress p && decide (y.q.toNat + 1 = wChunks p k.slots) then
      some (wProgressBase p + k.r * k.panel.cols + k.c)
    else none

/-- STREAM_ISSUE_COMPLETE: the issue ends and its completion signal leaves, as a remote signal where its last block's
destination is a far device (R284). -/
def execStreamIssueComplete (i : Nat) (s : State) : Host.Outcome State Fault Refusal :=
  match s.issue i with
  | none => .next s
  | some y =>
    match s.tileCtx y.tile, (s.easel y.easel).stream y.stream with
    | some k, some d =>
      if !s.issueDone y then .next s
      else
        let done := fun (s : State) => { s with streams := { s.streams with issues := s.streams.issues.filter (·.id != i) } }
        let send := fun (s : State) (ids : List Nat) =>
          { s with net := s.net ++ ids.map fun id =>
              { kind := .signal, easel := y.easel, sem := id, n := 1, who := .tile y.tile, after := 0, unitClass := 0x05,
                unitId := streamUnit d } }
        let own := progressSignal k d y
        match y.signal, d.blocks.getLast? with
        | none, _ => .next (done (send s own))
        | some id, some b =>
          if b.dst = 5 then
            match s.request y.easel 4 b.channel b.position id 1 [] false none none with
            | some s' => .next (done (send s' own))
            | none => .next s
          else .next (done (send s (own ++ [id])))
        | some id, none => .next (done (send s (own ++ [id])))
    | _, _ => .next s

end Sys2Proof.Machine
end

