-- ==== Sys2Proof/Machine/Matrix.lean ====
section
/-! DEFINITION. The matrix array (R100 to R105, R120 to R143): the checks of `mma` at issue, and the product when it
completes. Fold, mode and timing decide when a result appears and never what it is (R126, R134), so they are no part of it. -/

namespace Sys2Proof.Machine

/-! ### The shape word and the formats (R100, R101) -/

/-- The shape word's fields (Table 4-9): M, N, K and the three format codes. -/
structure Shape where
  m : Nat
  n : Nat
  k : Nat
  fa : Nat
  fb : Nat
  fc : Nat
  deriving DecidableEq, Repr

def shapeOf (w : Nat) : Shape :=
  { m := fld w 0 13, n := fld w 13 13, k := fld w 26 25, fa := fld w 51 4, fb := fld w 55 4, fc := fld w 59 4 }

/-- Step 1 of R105. -/
def shapeOk (w : Nat) : Bool :=
  let h := shapeOf w
  decide (h.m ≤ 4096) && decide (h.n ≤ 4096) && decide (h.k ≤ 16777216) && fld w 63 1 = 0

/-- The combinations of Table 4-10, with the output format checked where partial is 0. -/
def formatsOk (h : Shape) (part : Nat) : Bool :=
  let c := fun (top : Nat) => part = 1 || decide (h.fc ≤ top)
  if (h.fa = 3 || h.fa = 4) && (h.fb = 3 || h.fb = 4) then c 4
  else if isMx h.fa && isMx h.fb then c 4
  else if (h.fa = 1 && h.fb = 1) || (h.fa = 2 && h.fb = 2) then c 2
  else if h.fa = 0 && h.fb = 0 then c 0
  else false

/-- Seed 1 with partial 0 is not legal (R103). -/
def seedOk (seed part : Nat) : Bool := seed = 0 || part = 1

/-! ### Operand ranges (R102, R105) -/

/-- Row pitch of the elements of an operand. -/
def elemPitch (f k : Nat) : Nat := pitchOf k (widthOf f)

/-- Pitch of its rows of scale bytes. -/
def scalePitch (k : Nat) : Nat := ceilDiv (ceilDiv k 32) 64 * 64

/-- Bytes of an operand of `rows` rows of K elements, its scales behind them. -/
def operandBytes (f rows k : Nat) : Nat := rows * elemPitch f k + (if isMx f then rows * scalePitch k else 0)

/-- Whether two ranges share a byte. -/
def overlaps (a n b m : Nat) : Bool := n != 0 && m != 0 && decide (a < b + m) && decide (b < a + n)

/-- What the checks of R105 give: a reason of PROGRAM_OPERAND, a BUFFER_OVERFLOW with the buffer and the local-store offset at
which its range begins, or the operands as they are handed to the array. -/
inductive MmaCheck where
  | operand (reason : Nat)
  | overflow (offset buf : Nat)
  | good (op : MmaOp)
  deriving DecidableEq, Repr

/-- The buffers and offsets of the three operands. -/
structure MmaArgs where
  a : BufPlan
  aOff : Nat
  b : BufPlan
  bOff : Nat
  c : BufPlan
  cOff : Nat

/-- The checks in the order of R105. `shape` and `scale` are the registers' values. -/
def checkMma (g : MmaArgs) (overlap : Bool) (shape : Nat) (scale : Int) (seed part order pc : Nat) (word : Word64) : MmaCheck :=
  let h := shapeOf shape
  let na := operandBytes h.fa h.m h.k
  let nb := operandBytes h.fb h.n h.k
  let nc := h.m * outPitch h.n (outSize h.fa h.fc (part = 1))
  let la := g.a.offset + g.aOff
  let lb := g.b.offset + g.bOff
  let lc := g.c.offset + g.cOff
  if !shapeOk shape then .operand 1
  else if !formatsOk h part || !seedOk seed part then .operand 2
  else if g.aOff % 64 != 0 || g.bOff % 64 != 0 || g.cOff % 64 != 0 then .operand 3
  else if scale < -512 ∨ 512 < scale then .operand 5
  else if !g.a.fits g.aOff na then .overflow la g.a.id
  else if !g.b.fits g.bOff nb then .overflow lb g.b.id
  else if !g.c.fits g.cOff nc then .overflow lc g.c.id
  else if overlaps lc nc la na || overlaps lc nc lb nb then .operand 4
  else
    let ua := g.a.unit g.aOff
    let ub := g.b.unit g.bOff
    let uc := g.c.unit g.cOff
    .good { order, pc, word, a := la, b := lb, c := lc,
            units := (if seed = 1 then [ua, ub, uc] else [ua, ub], [uc]),
            m := h.m, n := h.n, k := h.k, fa := h.fa, fb := h.fb, fc := h.fc, seed := seed = 1, partialOut := part = 1, scale, overlap }

/-- The operands of an `mma` as the panel's plan and the registers give them. -/
def TileCtx.mmaArgs (k : TileCtx) (x : Tile) (aBuf aOff bBuf bOff cBuf cOff : Nat) : Option MmaArgs :=
  match k.sheet.buf k.panel aBuf, k.sheet.buf k.panel bBuf, k.sheet.buf k.panel cBuf with
  | some a, some b, some c => some ⟨a, (x.reg aOff).toNat, b, (x.reg bOff).toNat, c, (x.reg cOff).toNat⟩
  | _, _, _ => none

/-- BUFFER_OVERFLOW raised by a tile (R87). -/
def State.tileOverflow (s : State) (k : TileCtx) (t offset buf : Nat) : State :=
  s.tileFault k t 0x0303 (offset % 2 ^ 64) (overflowDetail k.li buf)

/-- Whether the array queue is full (R112): four wait in it, behind those that have entered the array (R129, R141; DEDUCED, log
entry 29). -/
def State.arrayFull (s : State) (t : Nat) : Bool := decide (4 + (s.entered t).length ≤ (s.tile t).arrayQ.length)

/-- `mma` (R100, R104, R105, R112): with the array queue full issue stalls; checked operands enter the queue; an `mma` with M or
N equal to 0 completes at once. -/
def execMma (t : Nat) (s : State) : Host.Outcome State Fault Refusal :=
  match s.fetch t with
  | some (k, .mma aBuf aOff bBuf bOff cBuf cOff shape scale seed part) =>
    let x := s.tile t
    if s.arrayFull t then .next s
    else
      match k.mmaArgs x aBuf aOff bBuf bOff cBuf cOff with
      | none => .next s
      | some g =>
        match checkMma g k.panel.overlap (x.reg shape).toNat (x.reg scale).toInt seed part x.order x.pc x.word with
        | .operand r => .next (s.operandFault k t r)
        | .overflow o b => .next (s.tileOverflow k t o b)
        | .good op =>
          if op.m = 0 ∨ op.n = 0 then .next (s.onTile t Tile.advance)
          else .next (s.onTile t fun x => { x.advance with order := x.order + 1, arrayQ := x.arrayQ ++ [op] })
  | _ => .next s

/-! ### The product -/

/-- One row of A or column of B as it is read: element values, the exponent of each 32-element block's scale (none for the NaN
scale; 0 where the format has no scales), and whether an uncorrectable word lies in it (R142). -/
structure Line where
  values : List Num
  scales : List (Option Int)
  bad : Bool
  deriving DecidableEq, Repr

/-- Row or column `i` of an operand at store address `a0` (R102). -/
def State.line (s : State) (a0 f rows k i : Nat) : Line :=
  let w := widthOf f
  let a := a0 + i * elemPitch f k
  let n := ceilDiv (k * w) 8
  let bs := s.readAt a n
  let sa := a0 + rows * elemPitch f k + i * scalePitch k
  let nb := ceilDiv k 32
  { values := (List.range k).map fun j => decodeElem f (elemAt w bs j),
    scales := if isMx f then (s.readAt sa nb).map fun b => scaleExp b.toNat else [],
    bad := s.poisoned a n || (isMx f && s.poisoned sa nb) }

/-- The scale exponent of element `j` of a line. -/
def Line.scaleOf (l : Line) (j : Nat) : Option Int := if l.scales.isEmpty then some 0 else l.scales.getD (j / 32) (some 0)

/-- The largest sum of block-scale exponents over the blocks where both are finite: the anchor pre-pass (R130, R154). -/
def prePass (a b : Line) : Option Int :=
  ((a.scales.zip b.scales).filterMap fun p => match p.1, p.2 with | some x, some y => some (x + y) | _, _ => none).foldl
    (fun (m : Option Int) v => match m with | none => some v | some u => some (max u v)) none

/-- The exact terms of an output of a narrow pair: each product times its two scales; NaN where a scale is (R154, R155). -/
def exactTerms (a b : Line) : List Num :=
  ((a.values.zip b.values).zipIdx).map fun p =>
    match a.scaleOf p.2, b.scaleOf p.2 with
    | some x, some y => (Num.mul p.1.1 p.1.2).scale (x + y)
    | _, _ => .nan

/-- The long-accumulator sum of an output (R137, R152 to R155), and whether a fixed anchor was raised. With no K position the
seed passes as it is (R104). -/
def exactSum (a b : Line) (seed : Option Partial) : Partial × Bool :=
  let found := prePass a b
  let pre := found.getD 0
  let terms := exactTerms a b
  match seed with
  | none =>
    let v := (terms.map (Num.truncAt (pre - 32))).foldl (· + ·) 0
    (Partial.close v pre false (terms.any Num.isNan) (terms.any fun x => x == .inf false) (terms.any fun x => x == .inf true),
      false)
  | some p =>
    if terms.isEmpty then (p, false)
    else
      let anchor := max pre p.anchor
      let own := Num.truncAt (anchor - 32) (.fin (p.v < 0) p.v.natAbs (p.anchor - 32))
      let v := (terms.map (Num.truncAt (anchor - 32))).foldl (· + ·) own
      (Partial.close v anchor (p.fixed && decide (pre ≤ p.anchor)) (p.nan || terms.any Num.isNan)
          (p.pinf || terms.any fun x => x == .inf false) (p.ninf || terms.any fun x => x == .inf true),
        p.fixed && match found with | some x => decide (p.anchor < x) | none => false)

/-- One level of the summation tree: positions 2p and 2p + 1 added, a lone child taken unchanged (R135). -/
def treeLevel : List Num → List Num
  | x :: y :: rest => add32 x y :: treeLevel rest
  | l => l

/-- The tree over at most 2^`fuel` leaves; `none` for no leaf. -/
def treeSum : Nat → List Num → Option Num
  | 0, l => l.head?
  | fuel + 1, l => treeSum fuel (treeLevel l)

/-- Chunk sums of 64 leaves in ascending order, each added with one rounding (R135). -/
def chunkSums : Nat → Option Num → List Num → Option Num
  | 0, acc, _ => acc
  | fuel + 1, acc, l =>
    let acc :=
      match acc, treeSum 6 (l.take 64) with
      | none, c => c
      | some t, some c => some (add32 t c)
      | some t, none => some t
    chunkSums fuel acc (l.drop 64)

/-- The FP32 sum of an output of a BF16, FP16 or FP32 pair (R135); +0 where no K position is (R104). -/
def floatSum (a b : Line) : Num :=
  let leaves := (a.values.zip b.values).map fun p => mul32 p.1 p.2
  (chunkSums (ceilDiv leaves.length 64) none leaves).getD .zero

/-- One output as it is written: its bytes, what its conversion counted it as, whether its anchor was raised, its poison. -/
structure CElem where
  bytes : List Byte
  tally : Option Tally
  raised : Bool
  bad : Bool
  deriving DecidableEq, Repr

/-- One output (R103): the exact or FP32 partial, or the scaled sum rounded once. A long-accumulator sum of zero gives +0; an FP32 sum
keeps the zero IEEE 754 gives it (R157; DEDUCED, log entry 72). -/
def output (op : MmaOp) (a b : Line) (seed : List Byte) : CElem :=
  let narrow := fun (x : Num) (raised : Bool) =>
    let r := encodeElem op.fc true true (x.scale op.scale)
    { bytes := leBytes (widthOf op.fc / 8) r.1, tally := some r.2, raised, bad := false : CElem }
  if exactPair op.fa then
    let r := exactSum a b (if op.seed then some (Partial.ofBytes seed) else none)
    if op.partialOut then { bytes := r.1.bytes, tally := none, raised := r.2, bad := false } else narrow r.1.num r.2
  else
    let x := floatSum a b
    let x := if op.seed then add32 x (of32 (leNat seed)) else x
    if op.partialOut then { bytes := leBytes 4 (bits32 x), tally := none, raised := false, bad := false } else narrow x false

/-- The outputs of one row of C. One whose sum would include an element read with an uncorrectable error is poisoned, and what its bytes
are is open: no such element enters a sum, and none raises an anchor (R142; free values from number `k` on, log entry 13). -/
def rowOutputs (op : MmaOp) (k : Nat) (a : Line) (bs : List Line) (seeds : List (List Byte × Bool)) : List CElem :=
  ((bs.zip seeds).zipIdx).map fun p =>
    if a.bad || p.1.1.bad || p.1.2.2 then
      { bytes := (List.range op.outBytes).map fun i => BitVec.ofNat 8 (Sys2Proof.Config.freeNat (k + p.2 * op.outBytes + i)),
        tally := none, raised := false, bad := true }
    else output op a p.1.1 p.1.2.1

/-- The local-store addresses that outputs lie at: element `j` of row `i` (R102). -/
def MmaOp.outAt (op : MmaOp) (t i j : Nat) : Nat :=
  storeBase t + op.c + i * op.outPitch + j * op.outBytes

/-- Row `i` of C computed and written. -/
def State.mmaRow (s : State) (t : Nat) (op : MmaOp) (bs : List Line) (i : Nat) : State × Nat :=
  let a := s.line (storeBase t + op.a) op.fa op.m op.k i
  let n := op.outBytes
  let seeds := (List.range op.n).map fun j =>
    if op.seed then (s.readAt (op.outAt t i j) n, s.poisoned (op.outAt t i j) n) else ([], false)
  let r := (rowOutputs op s.choices a bs seeds).zipIdx
  let s := if r.any (·.1.bad) then { s with choices := s.choices + op.n * n } else s
  let s := s.writeAt (op.outAt t i 0) (r.flatMap (·.1.bytes))
  let s := s.tag (r.filterMap fun p => p.1.tally.bind (tagOf op.fc (8 * op.outAt t i p.2) (leNat p.1.bytes)))
  (r.foldl (fun s p => if p.1.bad then s.setPoison (op.outAt t i p.2) n else s) s, (r.filter (·.1.raised)).length)

/-- The whole product, and how many outputs raised their anchor. -/
def State.product (s : State) (t : Nat) (op : MmaOp) : State × Nat :=
  let bs := (List.range op.n).map fun j => s.line (storeBase t + op.b) op.fb op.n op.k j
  (List.range op.m).foldl (fun (acc : State × Nat) i =>
    let r := acc.1.mmaRow t op bs i
    (r.1, acc.2 + r.2)) (s, 0)

/-- Errors found in local-store words that lie in one of `ranges`, for requester `requester` (R142, R221, R269): each byte
offset `o` of the store names a word. -/
def State.storeErrors (s : State) (k : TileCtx) (t requester : Nat) (ranges : List (Nat × Nat)) (errs : List (Nat × MemErr)) : State :=
  errs.foldl (fun s r =>
    if ranges.any fun p => decide (p.1 < r.1 / 8 * 8 + 8) && decide (r.1 / 8 * 8 < p.1 + p.2) then
      s.readError k.e (storeBase t + r.1) 0x2 (k.li * 2097152 + r.1 / 8 * 8) requester 0 k.seq r.2
    else s) s

/-- The bytes of an operand of `rows` rows of K elements at `a` that a product reads: no bit beyond K, and none between the rows (R125). -/
def operandReads (a f rows k : Nat) : List (Nat × Nat) :=
  ((List.range rows).map fun i => (a + i * elemPitch f k, ceilDiv (k * widthOf f) 8))
    ++ (if isMx f then (List.range rows).map fun i => (a + rows * elemPitch f k + i * scalePitch k, ceilDiv k 32) else [])

/-- The local-store ranges a product reads. -/
def MmaOp.reads (op : MmaOp) : List (Nat × Nat) :=
  operandReads op.a op.fa op.m op.k ++ operandReads op.b op.fb op.n op.k
    ++ (if op.seed then (List.range op.m).map fun i => (op.c + i * op.outPitch, op.n * op.outBytes) else [])

/-- MMA_COMPLETE (R131): the oldest `mma` of the array queue has landed its last row; ANCHOR_RAISED once for it (R137). -/
def execMmaComplete (t : Nat) (errs : List (Nat × MemErr)) (s : State) : Host.Outcome State Fault Refusal :=
  match (s.tile t).arrayQ with
  | [] => .next s
  | op :: rest =>
    match s.tileCtx t with
    | none => .next s
    | some k =>
      if !s.mmaFree t op then .next s
      else
        let r := (s.storeErrors k t 4 op.reads errs).product t op
        let s := r.1.onTile t fun x => { x with arrayQ := rest }
        .next (if r.2 = 0 then s
          else s.reportSeq 0x0810 k.e 0x04 (s.tileUnit k.e t) k.seq r.2 (op.pc % 2 ^ 13))

end Sys2Proof.Machine
end

