-- ==== Sys2Proof/Machine/Chain.lean ====
section
/-! DEFINITION. Chain descriptors (R197 to R202, R205): their layout, and the checks at issue in their order. -/

namespace Sys2Proof.Machine

/-! ### Layout (Tables 8-1, 8-3, 8-4) -/

def chS (p : List Byte) : Nat := fld (at8 p 0 1) 0 4
def chT (p : List Byte) : Nat := fld (at8 p 1 1) 0 4
def chW (p : List Byte) : Nat := fld (at8 p 2 1) 0 4
def chDomain (p : List Byte) : Nat := fld (at8 p 3 1) 0 3
def chLength (p : List Byte) : Nat := at8 p 4 2
def chRetStage (p : List Byte) : Nat := fld (at8 p 6 1) 0 3
def chRet (p : List Byte) : Bool := fld (at8 p 6 1) 3 1 = 1

/-- Offset of tensor descriptor `i` and of stage entry `j`. -/
def tAt (i : Nat) : Nat := 32 + 64 * i
def sAt (p : List Byte) (j : Nat) : Nat := 32 + 64 * chT p + 32 * j

/-- A tensor as its descriptor and the evaluated sources give it: six extents, five strides (axes 1 to 5); `raw` is the descriptor. -/
structure Ten where
  buf : Nat
  ty : Nat
  rank : Nat
  base : Int
  ext : List Int
  stride : List Int
  aux : Int
  auxStride : Int
  raw : List Byte
  deriving DecidableEq, Repr

/-- A stage as its entry and the evaluated source give it. -/
structure Stage where
  op : Nat
  a : Nat
  b : Nat
  c : Nat
  out : Nat
  sat : Bool
  fill : Bool
  add : Bool
  axis : Nat
  aux : Nat
  n : Int
  const : Nat
  x : Nat
  y : Nat
  deriving DecidableEq, Repr

/-- A chain: working type, domain tensor, the stage it returns, its tensors and stages. -/
structure Chain where
  w : Nat
  domain : Nat
  ret : Option Nat
  tens : List Ten
  stages : List Stage
  deriving DecidableEq, Repr

/-- A signed 32-bit field. -/
def i32At (p : List Byte) (o : Nat) : Int := toSigned 32 (at8 p o 4)

/-- The value-source fields of a descriptor, in order: eight of each tensor (base, extents, aux), then one of each stage. -/
def chSources (p : List Byte) : List Nat :=
  ((List.range (chT p)).flatMap fun i =>
      at8 p (tAt i + 4) 4 :: ((List.range 6).map fun a => at8 p (tAt i + 8 + 4 * a) 4) ++ [at8 p (tAt i + 52) 4])
    ++ (List.range (chS p)).map fun j => at8 p (sAt p j + 8) 4

/-- Whether source `i` of `chSources` is a signed field: the exponent of a `copy`. -/
def chSigned (p : List Byte) (i : Nat) : Bool :=
  decide (8 * chT p ≤ i) && at8 p (sAt p (i - 8 * chT p)) 1 = 0x30

/-- The sources evaluated, once, at issue (R198). -/
def chValues (k : TileCtx) (p : List Byte) (param : Nat) : List Int :=
  (chSources p).zipIdx.map fun v => k.source param k.x.lossExp (chSigned p v.2) v.1

/-- The chain that a descriptor and its evaluated sources describe. -/
def chainOf (p : List Byte) (vals : List Int) : Chain :=
  { w := chW p, domain := chDomain p, ret := if chRet p then some (chRetStage p) else none,
    tens := (List.range (chT p)).map fun i =>
      { buf := at8 p (tAt i) 1, ty := at8 p (tAt i + 1) 1, rank := at8 p (tAt i + 2) 1, base := vals.getD (8 * i) 0,
        ext := (List.range 6).map fun a => if a < at8 p (tAt i + 2) 1 then vals.getD (8 * i + 1 + a) 0 else 1,
        stride := (List.range 5).map fun a => i32At p (tAt i + 32 + 4 * a),
        aux := vals.getD (8 * i + 7) 0, auxStride := i32At p (tAt i + 56), raw := bytesAt p (tAt i) 64 },
    stages := (List.range (chS p)).map fun j =>
      let o := sAt p j
      let fl := at8 p (o + 5) 1
      { op := at8 p o 1, a := at8 p (o + 1) 1, b := at8 p (o + 2) 1, c := at8 p (o + 3) 1, out := at8 p (o + 4) 1,
        sat := fld fl 0 1 = 0, fill := fld fl 1 1 = 1, add := fld fl 2 1 = 1, axis := at8 p (o + 6) 1, aux := at8 p (o + 7) 1,
        n := vals.getD (8 * chT p + j) 0, const := at8 p (o + 12) 4, x := at8 p (o + 16) 8, y := at8 p (o + 24) 8 } }

/-! ### Operations (Table 8-5) -/

/-- How many of the operands a, b, c an operation uses; `none` for a reserved code. -/
def opArity : Nat → Option Nat
  | 0x01 => some 2 | 0x02 => some 2 | 0x03 => some 2 | 0x04 => some 3 | 0x05 => some 2 | 0x06 => some 2 | 0x07 => some 1
  | 0x08 => some 1 | 0x09 => some 1 | 0x0A => some 1 | 0x0B => some 1 | 0x0C => some 1 | 0x0D => some 1 | 0x0E => some 1
  | 0x10 => some 0 | 0x11 => some 2 | 0x12 => some 3 | 0x20 => some 1 | 0x21 => some 1 | 0x22 => some 1 | 0x23 => some 1
  | 0x30 => some 1 | 0x31 => some 1 | 0x32 => some 1 | 0x38 => some 2 | 0x39 => some 2 | 0x40 => some 2 | 0x41 => some 2
  | 0x42 => some 2 | 0x43 => some 2 | 0x44 => some 3 | 0x48 => some 1 | 0x50 => some 0
  | _ => none

/-- Element-wise operations (R202, R220). -/
def elementwise (op : Nat) : Bool := decide (op ≤ 0x12) || op = 0x30 || op = 0x38

/-- Reductions along an axis. -/
def reduction (op : Nat) : Bool := decide (0x20 ≤ op) && decide (op ≤ 0x23)

/-- Float only (R207). -/
def floatOnly (op : Nat) : Bool := (decide (0x09 ≤ op) && decide (op ≤ 0x0E)) || op = 0x22

/-- Operations that write their outputs element by element as they go: they have no element of a result for each domain index that the
manual states. -/
def writer (op : Nat) : Bool := op = 0x32 || op = 0x39 || op = 0x41 || op = 0x42 || op = 0x43 || op = 0x44

/-- `recamax` has no result value (R217), so no operand may name it. Of the other writers the manual states only what they write: what
a later stage reads of one is the plane an `anchor` wrote, and a free value of the others (DESIGN CHOICE, log entry 143). -/
def resultless (op : Nat) : Bool := op = 0x32

/-- Index types (R212). -/
def indexType (ty : Nat) : Bool := ty = 0xB || ty = 0xE || ty = 0xD

/-- The tensors that X names for `compress` (R210): index and count. -/
def Stage.indexOut (g : Stage) : Nat := fld g.x 0 3
def Stage.countOut (g : Stage) : Nat := fld g.x 8 3

/-- The tensors a stage writes. -/
def Stage.outs (g : Stage) : List Nat :=
  (if g.out = 0xFF then [] else [g.out]) ++ (if g.op = 0x43 then [g.indexOut, g.countOut] else [])

/-- The operands of a stage. -/
def Stage.operands (g : Stage) : List Nat := [g.a, g.b, g.c]

/-- The tensor an operand byte names. -/
def tensorOf (o : Nat) : Option Nat := if o < 0x40 then some (o % 8) else none

/-- The stage an operand byte names. -/
def stageOf (o : Nat) : Option Nat := if 0x40 ≤ o ∧ o < 0x80 then some (o % 8) else none

/-- Whether an operand byte of stage `j` is legal (R201); `used` tells whether the operation uses it. -/
def operandByteOk (h : Chain) (j o : Nat) (used : Bool) : Bool :=
  if !used then o = 0xFF
  else if o < 0x40 then decide (o < 8) && decide (o < h.tens.length)
  else if o < 0x80 then
    decide (o < 0x48) && decide (o % 8 < j) && match h.stages[o % 8]? with | some g => !resultless g.op | none => false
  else o = 0x80

/-- The type of tensor `i`. -/
def Chain.ty (h : Chain) (i : Nat) : Nat := match h.tens[i]? with | some x => x.ty | none => 0

/-- What a stage's result is: in the working type, an INT32, an exact partial, or none. -/
inductive Kind where
  | word | int | part | none
  deriving DecidableEq, Repr

/-- The kind of stage `j`'s result. -/
def Chain.kind (h : Chain) (j : Nat) : Kind :=
  match h.stages[j]? with
  | Option.none => .none
  | some g =>
    if resultless g.op then .none
    else if g.op = 0x23 || g.op = 0x31 || (g.op = 0x50 && g.aux = 0) then .int
    else if g.op = 0x38 || g.op = 0x39 || ((g.op = 0x30 || g.op = 0x10) && g.out != 0xFF && h.ty g.out = 0x10) then .part
    else .word

/-- The kind of an operand: partial where its tensor or its stage is. -/
def Chain.operandKind (h : Chain) (o : Nat) : Kind :=
  match tensorOf o, stageOf o with
  | some i, _ => if h.ty i = 0x10 then .part else .word
  | _, some j => h.kind j
  | _, _ => .word

/-- Whether an operand holds an INT32: an INT32 tensor, a stage result that is one, or a constant when the working type is INT32 (R201,
R211). -/
def Chain.int32 (h : Chain) (o : Nat) : Bool :=
  match tensorOf o, stageOf o with
  | some i, _ => h.ty i = 0xB
  | _, some j => h.kind j == .int || (h.w = 0xB && h.kind j == .word)
  | _, _ => h.w = 0xB

/-- Whether the output of a stage has a type its operation may write, its operands types it may read, and its own fields their
values (R207, R210 to R219). -/
def Chain.typesOk (h : Chain) (g : Stage) : Bool :=
  let part := fun (o : Nat) => h.operandKind o == .part
  let outPart := g.out != 0xFF && h.ty g.out = 0x10
  let tensor := fun (o : Nat) => (tensorOf o).isSome
  let tyOf := fun (o : Nat) => match tensorOf o with | some i => h.ty i | none => 0xFF
  let plainOps := g.operands.all fun o => o = 0xFF || !part o
  let xySpare := g.x = 0 && g.y = 0
  (!(h.w = 0xB && (floatOnly g.op || (g.op = 0x50 && g.aux = 1)))) &&
  match g.op with
  | 0x10 => xySpare && (!outPart || g.const = 0)
  | 0x11 => xySpare && plainOps && !outPart && decide (g.aux ≤ 6)
  | 0x30 => xySpare && (if part g.a then true else !outPart)
  | 0x31 => xySpare && tyOf g.a = 0xD && decide ((match tensorOf g.a with | some i => (h.tens.map (·.rank)).getD i 0 | none => 0) = 1)
      && (g.aux = 3 || g.aux = 4) && !outPart
  | 0x32 => xySpare && plainOps && g.out != 0xFF && h.ty g.out = 0xD && decide ((h.tens.map (·.rank)).getD g.out 0 = 1)
  | 0x38 => xySpare && part g.a && part g.b && (g.out = 0xFF || outPart)
  | 0x39 => xySpare && tyOf g.a = 0xD && tyOf g.b = 0xD && outPart
  | 0x40 => xySpare && tensor g.a && !part g.a && indexType (tyOf g.b) && !outPart
  | 0x41 => xySpare && !part g.a && indexType (tyOf g.b) && g.out != 0xFF && !outPart
  | 0x42 => xySpare && !part g.a && indexType (tyOf g.b) && g.out != 0xFF && !outPart
  | 0x43 => g.y = 0 && fld g.x 3 5 = 0 && fld g.x 11 53 = 0 && !part g.a && g.out != 0xFF && !outPart
      && decide (g.indexOut < h.tens.length) && decide (g.countOut < h.tens.length) && h.ty g.indexOut = 0xB && h.ty g.countOut = 0xB
  | 0x44 => xySpare && tensor g.a && !part g.a && tyOf g.b = 0xB && h.int32 g.c && g.out != 0xFF && !outPart
  | 0x48 => g.y = 0 && fld g.x 32 32 = 0 && tensor g.a && !part g.a && !outPart && decide (g.aux ≤ 3)
      && (List.range 4).all fun i => fld g.x (8 * i) 8 != 0
  | 0x50 => !outPart && decide (g.aux ≤ 2) && (g.aux != 0 || g.out = 0xFF || isInt (h.ty g.out))
  | _ => xySpare && plainOps && !outPart

/-- Reserved bits and fields of one tensor descriptor (R199, R200). -/
def tensorFieldsOk (p : List Byte) (i : Nat) (plan : List BufPlan) (pooled : Bool) : Bool :=
  let o := tAt i
  let ty := at8 p (o + 1) 1
  let rank := at8 p (o + 2) 1
  (plan.any fun b => b.id = at8 p o 1) && (decide (ty ≤ 0xE) || ty = 0x10) && decide (1 ≤ rank) && decide (rank ≤ 6)
    && at8 p (o + 3) 1 = 0 && at8 p (o + 60) 4 = 0
    && ((List.range 6).all fun a => decide (a < rank) || at8 p (o + 8 + 4 * a) 4 = 0)
    && ((List.range 5).all fun a => decide (a + 1 < rank) || at8 p (o + 32 + 4 * a) 4 = 0)
    && (isMx ty || ty = 0xC || pooled || at8 p (o + 52) 4 = 0) && (isMx ty || at8 p (o + 56) 4 = 0)
    && (!isMx ty || decide (rank ≤ 2))

/-- Reserved bits, operands and types of one stage (R201). -/
def stageFieldsOk (h : Chain) (p : List Byte) (j : Nat) : Bool :=
  match h.stages[j]? with
  | none => false
  | some g =>
    let o := sAt p j
    match opArity g.op with
    | none => false
    | some n =>
      fld (at8 p (o + 5) 1) 3 5 = 0 && operandByteOk h j g.a (decide (1 ≤ n)) && operandByteOk h j g.b (decide (2 ≤ n)) && operandByteOk h j g.c (decide (3 ≤ n))
        && (g.out = 0xFF || decide (g.out < h.tens.length))
        && decide (g.axis ≤ 5)
        && (g.op = 0x30 || g.op = 0x50 || at8 p (o + 8) 4 = 0) && h.typesOk g

/-- Whether no number occurs twice. -/
def distinctNats : List Nat → Bool
  | [] => true
  | x :: xs => !xs.contains x && distinctNats xs

/-- Step 3 of R205. -/
def chainFieldsOk (h : Chain) (p : List Byte) (plan : List BufPlan) : Bool :=
  let pooled := fun (i : Nat) => h.stages.any fun g => g.op = 0x48 && g.a = i
  decide (1 ≤ chS p) && decide (chS p ≤ 8) && decide (1 ≤ chT p) && decide (chT p ≤ 8) && fld (at8 p 0 1) 4 4 = 0
    && fld (at8 p 1 1) 4 4 = 0 && (decide (chW p ≤ 3) || chW p = 0xB) && fld (at8 p 2 1) 4 4 = 0 && fld (at8 p 3 1) 3 5 = 0
    && decide (chDomain p < chT p) && chLength p = 32 + 64 * chT p + 32 * chS p && fld (at8 p 6 1) 4 4 = 0
    && (!chRet p || decide (chRetStage p < chS p)) && rsv p 7 25
    && ((List.range (chT p)).all fun i => tensorFieldsOk p i plan (pooled i))
    && ((List.range (chS p)).all fun j => stageFieldsOk h p j)
    && distinctNats (h.stages.flatMap Stage.outs)

/-- Step 4 of R205: sources legal, extents within 2^24, offsets not negative, the fields of an operation within their ranges. -/
def chainValuesOk (h : Chain) (p : List Byte) (nslots : Nat) : Bool :=
  (chSources p).all (sourceOk 5 nslots)
    && (h.tens.all fun x => (x.ext.all fun e => decide (0 ≤ e) && decide (e ≤ 16777216)) && decide (0 ≤ x.base) && decide (0 ≤ x.aux))
    && h.stages.all fun g =>
      match g.op with
      | 0x30 => decide (-512 ≤ g.n) && decide (g.n ≤ 512)
          && (!(h.operandKind g.a == .part && g.out != 0xFF && h.ty g.out = 0x10) || g.n = 0)
      | 0x31 => match of32 g.const with | .nan => false | y => decide (0 ≤ Num.cmp y .one)
      | 0x50 => decide (0 ≤ g.n)
      | _ => true

/-- Element size in bytes that base and strides are multiples of (R200). -/
def alignOf (ty : Nat) : Int :=
  if isMx ty then 64 else (widthOf ty / 8 : Nat)

/-- Step 5 of R205. -/
def chainAligned (h : Chain) : Bool :=
  h.tens.all fun x =>
    x.base % alignOf x.ty = 0 && (x.stride.all fun t => t % alignOf x.ty = 0) && (x.ty != 0xC || x.aux % 2 = 0)

/-! ### Shapes and ranges (R200, R202, R205 steps 6 and 7) -/

/-- Whether a tensor holds no element. -/
def Ten.empty (x : Ten) : Bool := x.ext.any (· == 0)

/-- Extent of axis `a`, and stride of axis `a` ≥ 1. -/
def Ten.e (x : Ten) (a : Nat) : Int := x.ext.getD a 1
def Ten.st (x : Ten) (a : Nat) : Int := x.stride.getD (a - 1) 0

/-- Bytes of a row along axis 0. -/
def Ten.rowBytes (x : Ten) : Int := (ceilDiv (widthOf x.ty * (x.e 0).toNat) 8 : Nat)

/-- First byte and the byte behind the last, over all indices (R205 step 7). -/
def Ten.span (x : Ten) : Int × Int :=
  let d := fun (f : Int → Int) => ((List.range 5).map fun a => f ((x.e (a + 1) - 1) * x.st (a + 1))).foldl (· + ·) 0
  (x.base + d (min 0), x.base + d (max 0) + x.rowBytes)

/-- The range of the aux plane, where the tensor has one: scales, extension words, or the in-range bytes of a pooled input. -/
def Ten.auxSpan (x : Ten) (pooled : Bool) : Option (Int × Int) :=
  if isMx x.ty then
    let d := (x.e 1 - 1) * x.auxStride
    some (x.aux + min 0 d, x.aux + max 0 d + (ceilDiv (x.e 0).toNat 32 : Nat))
  else if x.ty = 0xC then some (x.aux + (x.span.1 - x.base) / 2, x.aux + (x.span.2 - x.base) / 2)
  else if pooled then some (x.aux, x.aux + x.e 0 * x.e 1)
  else none

/-- The spans S(a) of an output (R200). -/
def Ten.outSpan (x : Ten) : Nat → Int
  | 0 => x.rowBytes
  | a + 1 => (x.e (a + 1) - 1) * x.st (a + 1) + x.outSpan a

/-- The indices of extents, axis 0 innermost (R202). -/
def indicesOf : List Nat → List (List Nat)
  | [] => [[]]
  | e :: es => (indicesOf es).flatMap fun t => (List.range e).map fun i => i :: t

/-- The extents of a tensor as numbers. -/
def Ten.exts (x : Ten) : List Nat := x.ext.map Int.toNat

/-- The byte offset of a row: axes 1 to 5 of an index. -/
def Ten.rowAt (x : Ten) (idx : List Nat) : Int :=
  x.base + ((List.range 5).map fun a => (idx.getD (a + 1) 0 : Int) * x.st (a + 1)).foldl (· + ·) 0

/-- The bytes of each row of a tensor that holds an element. -/
def Ten.rows (x : Ten) : List (Int × Int) :=
  if x.empty then [] else (indicesOf (x.exts.set 0 1)).map fun i => (x.rowAt i, x.rowAt i + x.rowBytes)

/-- The bytes of each row of its aux plane: scales, extension words, or the in-range bytes of a pooled input. -/
def Ten.auxRows (x : Ten) (pooled : Bool) : List (Int × Int) :=
  if x.empty then []
  else if isMx x.ty then
    (List.range (x.e 1).toNat).map fun (i : Nat) =>
      (x.aux + (i : Int) * x.auxStride, x.aux + (i : Int) * x.auxStride + (ceilDiv (x.e 0).toNat 32 : Nat))
  else if x.ty = 0xC then x.rows.map fun r => (x.aux + (r.1 - x.base) / 2, x.aux + (r.2 - x.base) / 2)
  else if pooled then
    (List.range (x.e 1).toNat).map fun (i : Nat) => (x.aux + (i : Int) * x.e 0, x.aux + (i : Int) * x.e 0 + x.e 0)
  else []

/-- Whether two byte ranges share a byte. -/
def sharesByte (r q : Int × Int) : Bool := decide (r.1 < q.2) && decide (q.1 < r.2)

/-- Whether every stride of an output is non-negative, and no two elements of it share a byte, scale or extension word (R200; DEDUCED of
the aux plane, log entry 142). -/
def Ten.outOk (x : Ten) : Bool :=
  ((List.range 5).all fun a => decide (0 ≤ x.st (a + 1))) && decide (0 ≤ x.auxStride)
    && (x.empty
      || (((List.range 5).all fun a => decide (x.e (a + 1) ≤ 1) || decide (x.outSpan a ≤ x.st (a + 1)))
        && (!isMx x.ty || decide (x.e 1 ≤ 1) || decide ((ceilDiv (x.e 0).toNat 32 : Nat) ≤ x.auxStride))
        && !(x.auxRows false).any fun r => x.rows.any (sharesByte r)))

/-- The domain's extents (R202). -/
def Chain.dom (h : Chain) : List Int := match h.tens[h.domain]? with | some x => x.ext | none => []

/-- Whether a tensor's extents are the domain's or 1, its axes in `free` aside. -/
def fitsDomain (d : List Int) (x : Ten) (free : List Nat) : Bool :=
  (List.range 6).all fun a => free.contains a || x.e a = d.getD a 1 || x.e a = 1

/-- Whether an output has the domain's extents, its axes in `free` aside; on axes in `one` it may have 1. -/
def outFits (d : List Int) (x : Ten) (free one : List Nat) : Bool :=
  (List.range 6).all fun a => free.contains a || x.e a = d.getD a 1 || (one.contains a && x.e a = 1)

def Ten.scalar (x : Ten) : Bool := x.ext.all (· == 1)

/-- Whether a tensor has extent 1 on every axis but those in `free`. -/
def Ten.lineOn (x : Ten) (free : List Nat) : Bool := (List.range 6).all fun a => free.contains a || x.e a = 1

/-- The extent of a stage's result on an axis: 1 for the scalar of `scalex` and on the axis a reduction reduces, else the domain's. -/
def Chain.resultExt (h : Chain) (g : Stage) (a : Nat) : Int :=
  if g.op = 0x31 || (reduction g.op && g.axis = a) then 1 else h.dom.getD a 1

/-- The result shape of a stage is a scalar (R217). -/
def Chain.scalarResult (h : Chain) (g : Stage) : Bool := (List.range 6).all fun a => h.resultExt g a = 1

/-- The shapes of one stage (R202, R209 to R217, R219). -/
def Chain.shapeOk (h : Chain) (g : Stage) : Bool :=
  let d := h.dom
  let ten := fun (o : Nat) => (tensorOf o).bind fun i => h.tens[i]?
  let inOk := fun (o : Nat) (free : List Nat) => match ten o with | some x => fitsDomain d x free | none => true
  let outOk := fun (free one : List Nat) => match h.tens[g.out]? with | some x => g.out = 0xFF || outFits d x free one | none => true
  let slice := g.operands.all fun o => match (stageOf o).bind fun j => h.stages[j]? with
    | some r => !reduction r.op || (r.axis = 0 && decide (d.getD 0 1 ≤ 4096))
    | none => true
  slice &&
  match g.op with
  | 0x31 => match h.tens[g.out]? with | some x => x.scalar | none => true
  | 0x32 =>
    match ten g.a, (stageOf g.a).bind fun j => h.stages[j]? with
    | some x, _ => x.scalar
    | _, some r => h.scalarResult r
    | _, _ => true
  | 0x39 =>
    match ten g.a, ten g.b, h.tens[g.out]? with
    | some a, some b, some o =>
      a.lineOn [0, 1] && b.lineOn [0, 1] && a.e 0 = b.e 0 && a.e 1 = o.e 1 && b.e 1 = o.e 0 && o.lineOn [0, 1] && outFits d o [] []
    | _, _, _ => false
  | 0x40 => inOk g.a [g.axis] && inOk g.b [] && outOk [] []
  | 0x41 => inOk g.a [] && inOk g.b [] && outOk [g.axis] []
  | 0x42 => inOk g.a [] && inOk g.b [] && outOk [g.axis] []
  | 0x43 =>
    inOk g.a [] && outOk [g.axis] []
      && (match ten g.b, (stageOf g.b).bind fun j => h.stages[j]? with
          | some x, _ => x.lineOn [g.axis] && x.e g.axis = d.getD g.axis 1
          | _, some r => (List.range 6).all fun a => h.resultExt r a = if a = g.axis then d.getD a 1 else 1
          | _, _ => true)
      && (match h.tens[g.out]?, h.tens[g.indexOut]?, h.tens[g.countOut]? with
          | some o, some i, some c => i.lineOn [g.axis] && decide (o.e g.axis ≤ i.e g.axis) && c.scalar
          | _, _, _ => false)
  | 0x44 =>
    (match ten g.a with | some x => outFits d x [] [] | none => false)
      && (match ten g.b with | some x => x.lineOn [g.axis] | none => false)
      && (match ten g.c, (stageOf g.c).bind fun j => h.stages[j]? with
          | some x, _ => x.scalar
          | _, some r => h.scalarResult r
          | _, _ => true)
      && outOk [g.axis] []
  | 0x48 =>
    (match ten g.a with
     | some x =>
       (d.any (· == 0) || (decide ((d.getD 0 1 - 1) * (fld g.x 24 8 : Nat) + (fld g.x 8 8 : Nat) ≤ x.e 0)
         && decide ((d.getD 1 1 - 1) * (fld g.x 16 8 : Nat) + (fld g.x 0 8 : Nat) ≤ x.e 1))) && fitsDomain d x [0, 1]
     | none => false) && outOk [] []
  | _ => inOk g.a [] && inOk g.b [] && inOk g.c [] && outOk [] (if reduction g.op then [g.axis] else [])

/-- The stages that read tensor `i`. -/
def Chain.readers (h : Chain) (i : Nat) : List Stage := h.stages.filter fun g => g.operands.any fun o => tensorOf o = some i

/-- The byte ranges of a tensor, main and aux. -/
def Chain.ranges (h : Chain) (i : Nat) : List (Int × Int) :=
  match h.tens[i]? with
  | some x =>
    if x.empty then []
    else
      let pooled := (h.readers i).any fun g => g.op = 0x48
      x.span :: (match x.auxSpan pooled with | some r => [r] | none => [])
  | none => []

/-- Whether two tensors share a byte. -/
def Chain.meet (h : Chain) (i j : Nat) : Bool :=
  match h.tens[i]?, h.tens[j]? with
  | some x, some y =>
    x.buf = y.buf && (h.ranges i).any fun r => (h.ranges j).any (sharesByte r)
  | _, _ => false

/-- All tensors a chain writes. -/
def Chain.outs (h : Chain) : List Nat := h.stages.flatMap Stage.outs

/-- The overlap rule (R220): an output meets an input only where their descriptors are identical, field by field, and every stage that
reads the input is element-wise; outputs do not meet. -/
def Chain.overlapOk (h : Chain) : Bool :=
  (h.outs.all fun i => (List.range h.tens.length).all fun j =>
      (h.readers j).isEmpty || !h.meet i j
        || (decide (h.tens[i]? = h.tens[j]?) && (h.readers j).all fun g => elementwise g.op))
    && h.outs.zipIdx.all fun a => h.outs.zipIdx.all fun b => a.2 = b.2 || !h.meet a.1 b.1

/-- The return stage (R217): a scalar, no exact partial, and no `recamax`. -/
def Chain.returnOk (h : Chain) : Bool :=
  match h.ret with
  | none => true
  | some j => match h.stages[j]? with
    | some g => !resultless g.op && h.kind j != .part && h.scalarResult g
    | none => false

/-- Step 6 of R205. -/
def chainShapesOk (h : Chain) : Bool :=
  h.stages.all h.shapeOk && (h.outs.all fun i => match h.tens[i]? with | some x => x.outOk | none => false) && h.overlapOk
    && h.returnOk

/-- A range of a buffer that is not wholly within it, or not in one half with `other` (R205 step 7). -/
def rangeBad (b : BufPlan) (r other : Int × Int) : Bool :=
  if r.2 ≤ r.1 then false
  else
    r.1 < 0 || !b.fits r.1.toNat (r.2 - r.1).toNat
      || (b.dbl && decide (other.1 < other.2) && b.unit r.1.toNat != b.unit other.1.toNat)

/-- Step 7 of R205: the first tensor whose range leaves its buffer, with the offset at which the range begins. -/
def chainOverflow (h : Chain) (plan : List BufPlan) : Option (Int × Nat) :=
  (List.range h.tens.length).findSome? fun i =>
    match h.tens[i]? with
    | some x =>
      match plan.find? (·.id = x.buf), h.ranges i with
      | some b, r :: rest =>
        (r :: rest).findSome? fun q => if rangeBad b q r then some ((b.offset : Int) + q.1, b.id) else none
      | _, _ => none
    | none => none

/-- What the checks of R205 give from step 3 on. -/
inductive ChainCheck where
  | operand (reason : Nat)
  | overflow (offset : Int) (buf : Nat)
  | good (h : Chain) (vals : List Int)
  deriving DecidableEq, Repr

/-- Steps 3 to 7 of R205 on a descriptor that has been read. -/
def checkChain (k : TileCtx) (p : List Byte) (param : Nat) : ChainCheck :=
  let vals := chValues k p param
  let h := chainOf p vals
  let plan := k.sheet.plan k.panel
  if !chainFieldsOk h p plan then .operand 7
  else if !chainValuesOk h p k.canvas.slots.length then .operand 8
  else if !chainAligned h then .operand 9
  else if !chainShapesOk h then .operand 0xA
  else
    match chainOverflow h plan with
    | some (o, b) => .overflow o b
    | none => .good h vals

/-- The units a chain holds (R113, R220): its descriptor's and its inputs' read, its outputs' written. -/
def Chain.units (h : Chain) (plan : List BufPlan) (descUnit : Nat) : Units :=
  let unit := fun (i : Nat) => match h.tens[i]? with
    | some x => (match plan.find? (·.id = x.buf) with | some b => [b.unit x.base.toNat] | none => [])
    | none => []
  (descUnit :: ((List.range h.tens.length).filter fun i => !(h.readers i).isEmpty).flatMap unit, h.outs.flatMap unit)

end Sys2Proof.Machine
end

