-- ==== Sys2Proof/Machine/Transcendental.lean ====
section
/-! DEFINITION. The transcendental operations of the vector engine (R207, R208). The manual bounds the result in ulp and
states it for special inputs; within the bound it is open, so the engine's own value is a free value held to the bound
(log entry 9). -/

namespace Sys2Proof.Machine

/-- Fraction bits of the fixed-point evaluations below. -/
def fixBits : Nat := 256

/-- One in fixed point. -/
def fixOne : Nat := 2 ^ fixBits

/-- ln 2, as the sum of 1 / (k 2^k). -/
def fixLn2 : Nat := (List.range 270).foldl (fun s k => s + fixOne / ((k + 1) * 2 ^ (k + 1))) 0

/-- atan(1 / n) by its series. -/
def fixAtanInv (n : Nat) : Int :=
  (List.range 120).foldl (fun (s : Int) k =>
    let t : Int := (fixOne / ((2 * k + 1) * n ^ (2 * k + 1)) : Nat)
    if k % 2 = 0 then s + t else s - t) 0

/-- π, by Machin's formula. -/
def fixPi : Nat := (16 * fixAtanInv 5 - 4 * fixAtanInv 239).toNat

/-- e^y for y in [0, 1) in fixed point. -/
def fixExp (y : Nat) : Nat :=
  ((List.range 70).foldl (fun (s : Nat × Nat) k => let t := s.2 * y / fixOne / (k + 1); (s.1 + t, t)) (fixOne, fixOne)).1

/-- 2^x to far more than FP32 precision, for |x| below 2^12. -/
def refExp2 (x : Num) : Num :=
  let z := Num.truncAt (-(fixBits : Int)) x
  let n := z / (fixOne : Int)
  let f := (z % (fixOne : Int)).toNat
  .fin false (fixExp (f * fixLn2 / fixOne)) (n - fixBits)

/-- log2 of a positive value: the exponent and a fraction found bit by bit. -/
def refLog2 (x : Num) : Num :=
  match x with
  | .fin _ m e =>
    let l := log2 m
    let y := if l ≤ fixBits then m * 2 ^ (fixBits - l) else m / 2 ^ (l - fixBits)
    let r := (List.range 120).foldl (fun (s : Nat × Nat) _ =>
      let q := s.2 * s.2 / fixOne
      if q ≥ 2 * fixOne then (2 * s.1 + 1, q / 2) else (2 * s.1, q)) (0, y)
    Num.add (Num.ofInt (e + l)) (.fin false r.1 (-120))
  | _ => .nan

/-- The odd series x - a x^3 + b x^5 that serves small magnitudes; coefficients in fixed point. -/
def refOdd (x : Num) (c a b : Nat) : Num :=
  let fx := fun (k : Nat) => Num.fin false k (-(fixBits : Int))
  let x2 := Num.mul x x
  let s := Num.add (fx fixOne) (Num.add (Num.mul x2 (fx a)).neg (Num.mul (Num.mul x2 x2) (fx b)))
  Num.mul (fx c) (Num.mul x s)

/-- tanh. -/
def refTanh (x : Num) : Num :=
  if Num.cmp x.abs (.fin false 1 (-12)) < 0 then refOdd x fixOne (fixOne / 3) (fixOne * 2 / 15)
  else if Num.cmp x.abs (.fin false 32 0) > 0 then .fin x.isNeg (fixOne - 1) (-(fixBits : Int))
  else
    -- t = e^(-2|x|) = 2^(-2|x| / ln 2)
    let y := Num.div fixBits (Num.mul x.abs (Num.ofInt 2)) (.fin false fixLn2 (-(fixBits : Int)))
    let t := (Num.truncAt (-(fixBits : Int)) (refExp2 y.neg)).toNat
    Num.div 80 (.fin x.isNeg (fixOne - t) 0) (.fin false (fixOne + t) 0)

/-- erf. -/
def refErf (x : Num) : Num :=
  let c := 2 * fixOne * 2 ^ (fixBits / 2) / Nat.sqrt (fixPi * 1)
  if Num.cmp x.abs (.fin false 1 (-12)) < 0 then refOdd x c (fixOne / 3) (fixOne / 10)
  else if Num.cmp x.abs (.fin false 6 0) > 0 then .fin x.isNeg (fixOne - 1) (-(fixBits : Int))
  else
    let z := (Num.truncAt (-(fixBits : Int)) x.abs).toNat
    let z2 := z * z / fixOne
    let s := (List.range 200).foldl (fun (s : Int × Nat) k =>
      let t : Int := (s.2 / (2 * k + 1) : Nat)
      (if k % 2 = 0 then s.1 + t else s.1 - t, s.2 * z2 / fixOne / (k + 1))) ((0 : Int), z)
    .fin x.isNeg (s.1.toNat * c / fixOne) (-(fixBits : Int))

/-- Whether FP32 pattern `b` lies within `k` ulp of `y` (ulp of FP32 at `y`), or within the absolute bound 2^-21 where
`abs21` is set (Table 8-5). -/
def withinUlp (b : Nat) (y : Num) (k : Nat) (abs21 : Bool) : Bool :=
  match of32 b with
  | .fin n m e =>
    let q := max f32.emin (y.ilog2 - 23)
    let d := (Num.add (.fin n m e) y.neg).abs
    Num.cmp d (.fin false k q) ≤ 0 || (abs21 && Num.cmp d (.fin false 1 (-21)) ≤ 0)
  | _ => false

/-- A bounded result: the engine's free value where it lies within the bound, else the correctly rounded one. Where the bound is in ulp
alone it has the sign of the exact result: an underflow of `exp2` gives a subnormal or +0 (Table 8-6). -/
def bounded (op : Nat) (a : Num) (y : Num) (k : Nat) (abs21 : Bool) : Num :=
  let c := (Config.transcendental op (bits32 a)).toNat
  if withinUlp c y k abs21 && (abs21 || (of32 c).isNeg == y.isNeg) then of32 c else r32 y

/-- `recip`, `rsqrt`, `exp2`, `log2`, `tanh`, `erf` (codes 0x09 to 0x0E) on an FP32 value: Table 8-6's special results, and
Table 8-5's bounds elsewhere. -/
def transcend (op : Nat) (a : Num) : Num :=
  match a with
  | .nan => .nan
  | .inf n =>
    match op with
    | 0x09 => .fin n 0 0
    | 0x0A => if n then .nan else .zero
    | 0x0B => if n then .zero else .inf false
    | 0x0C => if n then .nan else .inf false
    | _ => .fin n 1 0
  | .fin n m e =>
    match op with
    | 0x09 => if m = 0 then .inf n else bounded op a (Num.div 60 .one a) 1 false
    | 0x0A => if m = 0 then .inf n else if n then .nan else bounded op a (Num.div 60 .one (Num.sqrt 90 a)) 1 false
    | 0x0B =>
      if m = 0 then .one
      else if Num.cmp a (.fin false 128 0) ≥ 0 then .inf false
      else if Num.cmp a (.fin true 200 0) < 0 then .zero
      else if Num.cmp a (Num.ofInt a.roundInt) = 0 then r32 (.fin false 1 a.roundInt)
      else bounded op a (refExp2 a) 2 false
    | 0x0C =>
      if m = 0 then .inf true else if n then .nan
      else if Num.cmp a .one = 0 then .zero
      else bounded op a (refLog2 a) 2 true
    | 0x0D => if m = 0 then .fin n 0 0 else bounded op a (refTanh (.fin n m e)) 2 false
    | _ => if m = 0 then .fin n 0 0 else bounded op a (refErf (.fin n m e)) 3 false

end Sys2Proof.Machine
end

