-- ==== Sys2Proof/Machine/Vector.lean ====
section
/-! DEFINITION. The vector engine (R106, R197 to R221): what each stage gives, what a chain writes, and its completion. -/

namespace Sys2Proof.Machine

/-! ### Elements -/

/-- An element as it is read or formed: its value, the exact partial it is where it is one, its poison (R221), and whether a rounding
into the working or the output type has left it at a largest finite value or range limit (R158). -/
structure Elt where
  num : Num
  part : Partial
  bad : Bool
  full : Bool
  deriving DecidableEq, Repr

def Elt.of (x : Num) (bad : Bool) : Elt := { num := x, part := Partial.zero, bad, full := false }

/-- A signed 32-bit result that wraps, and one that saturates (R207). -/
def wrap32 (z : Int) : Int := toSigned 32 (ofSigned 32 z)
def sat32 (z : Int) : Int := max (-2147483648) (min 2147483647 z)

/-- The integer an INT32 value holds. -/
def Num.int (x : Num) : Int := x.roundInt

/-- A value rounded once into a type (R157 to R159, R203): the type's own value of the pattern it gives. -/
def intoType (ty : Nat) (sat : Bool) (x : Num) : Num := decodeElem ty (encodeElem ty false sat x).1

/-- A value as a working value (R203). -/
def intoW (w : Nat) (sat : Bool) (x : Num) : Num := intoType w sat x

/-- Whether a rounding into a type saturates (R158, R159). -/
def fills (ty : Nat) (sat : Bool) (x : Num) : Bool := (encodeElem ty false sat x).2 == .saturated

/-- A stage result: its exact value rounded once into W. -/
def Elt.into (w : Nat) (sat : Bool) (x : Num) (bad : Bool) : Elt := { Elt.of (intoW w sat x) bad with full := fills w sat x }

/-- The linear index of an index in extents. -/
def linear : List Nat → List Nat → Nat
  | e :: es, i :: is => i + e * linear es is
  | _, _ => 0

/-! ### Reading and writing tensors (R200) -/

/-- What a chain is run with: the tile, its context, the buffer plan, the parameter. -/
structure VecCtx where
  t : Nat
  k : TileCtx
  plan : List BufPlan
  h : Chain

/-- The device address where a tensor's buffer begins. -/
def VecCtx.bufBase (c : VecCtx) (x : Ten) : Nat :=
  storeBase c.t + (match c.plan.find? (·.id = x.buf) with | some b => b.offset | none => 0)

/-- An index clipped to a tensor's extents: an extent of 1 broadcasts (R202). -/
def Ten.clip (x : Ten) (idx : List Nat) : List Nat := (List.range 6).map fun a => if x.e a = 1 then 0 else idx.getD a 0

/-- Bits and poison of `w` bits at bit `bit` of a row. -/
def State.bitsAt (s : State) (a bit w : Nat) : Nat × Bool :=
  let n := (bit % 8 + w + 7) / 8
  (leNat (s.readAt (a + bit / 8) n) / 2 ^ (bit % 8) % 2 ^ w, s.poisoned (a + bit / 8) n)

/-- The element of a tensor at an index (R146, R149, R151, R200). -/
def State.load (s : State) (c : VecCtx) (x : Ten) (idx : List Nat) : Elt :=
  let i := x.clip idx
  let b0 := c.bufBase x
  let row := x.rowAt i
  let a := b0 + row.toNat
  let i0 := i.getD 0 0
  let w := widthOf x.ty
  if x.ty = 0x10 then
    let bs := s.readAt (a + 16 * i0) 16
    { Elt.of (Partial.ofBytes bs).num (s.poisoned (a + 16 * i0) 16) with part := Partial.ofBytes bs }
  else
    let v := s.bitsAt a (w * i0) w
    if isMx x.ty then
      let sa := b0 + (x.aux + (i.getD 1 0 : Int) * x.auxStride).toNat + i0 / 32
      Elt.of (r32 (mxValue x.ty (leNat (s.readAt sa 1)) v.1)) (v.2 || s.poisoned sa 1)
    else if x.ty = 0xC then
      let xa := b0 + (x.aux + (row + 4 * (i0 : Int) - x.base) / 2).toNat
      let ext := if fld v.1 23 8 = 255 then 0 else leNat (s.readAt xa 2)
      Elt.of ((Fmt.mk 8 39 127 0).decode (v.1 * 65536 + ext)) (v.2 || s.poisoned xa 2)
    else Elt.of (decodeElem x.ty v.1) v.2

/-- Bytes written at an address, whether they are poisoned, and the tags of the elements they hold. -/
structure Put where
  at_ : Nat
  bytes : List Byte
  bad : Bool
  tags : List (Nat × Tag)
  deriving DecidableEq, Repr

/-- Puts written, and their tags and poison marked behind all of them. -/
def State.puts (s : State) (l : List Put) : State :=
  let s := l.foldl (fun s p => s.writeAt p.at_ p.bytes) s
  let s := s.tag (l.flatMap (·.tags))
  l.foldl (fun s p => if p.bad then s.setPoison p.at_ p.bytes.length else s) s

/-- One element stored into a type that is not block-scaled: the puts it makes. A rounding into FP32X is at the extension's last bit; a
value that was rounded into a floating-point W leaves extension word 0 (R149, R159, R203, R215). -/
def storeElt (c : VecCtx) (x : Ten) (sat : Bool) (idx : List Nat) (v : Elt) : List Put :=
  let b0 := c.bufBase x
  let row := x.rowAt idx
  let i0 := idx.getD 0 0
  let w := widthOf x.ty
  let a := b0 + row.toNat + w / 8 * i0
  if x.ty = 0x10 then [⟨a, v.part.bytes, v.bad, []⟩]
  else
    let r := encodeElem x.ty false sat v.num
    if x.ty = 0xC then
      let xa := b0 + (x.aux + (row + 4 * (i0 : Int) - x.base) / 2).toNat
      [⟨a, leBytes 4 (r.1 / 65536), v.bad, []⟩, ⟨xa, leBytes 2 (r.1 % 65536), v.bad, []⟩]
    else
      let tally := if v.full && x.ty = c.h.w then .saturated else r.2
      [⟨a, leBytes (w / 8) r.1, v.bad, (tagOf x.ty (8 * a) r.1 tally).toList⟩]

/-- One row of a block-scaled output: 32 elements a block, each with its own scale (R161). A block with no element given is
left; one with some given is formed from them and from what it holds. -/
def State.storeMxRow (s : State) (c : VecCtx) (x : Ten) (sat : Bool) (i1 : Nat) (cells : List (Option Elt)) : List Put :=
  let b0 := c.bufBase x
  let w := widthOf x.ty
  let blocks := (List.range (ceilDiv cells.length 32)).map fun b =>
    let part := (cells.drop (32 * b)).take 32
    if part.all Option.isNone then none
    else
      let es := part.zipIdx.map fun p => match p.1 with | some v => v | none => s.load c x [32 * b + p.2, i1]
      let r := mxBlock x.ty sat (es.map (·.num))
      some (r, es.any (·.bad))
  blocks.zipIdx.flatMap fun p =>
    match p.1 with
    | none => []
    | some ((scale, bits, tallies), bad) =>
      let a := b0 + (x.rowAt [0, i1]).toNat + w * 32 * p.2 / 8
      let sa := b0 + (x.aux + (i1 : Int) * x.auxStride).toNat + p.2
      let tags := (bits.zip tallies).zipIdx.map fun q => (8 * a + w * q.2, Tag.mk q.1.2 (amaxBits (mxValue x.ty scale q.1.1)))
      [⟨a, packBits w bits, bad, tags⟩, ⟨sa, leBytes 1 scale, bad, []⟩]

/-- An output written whole: `f` gives the element of each index, `none` where it keeps what it holds. -/
def State.storeOut (s : State) (c : VecCtx) (x : Ten) (sat : Bool) (f : List Nat → Option Elt) : State :=
  if isMx x.ty then
    s.puts ((List.range (x.e 1).toNat).flatMap fun i1 =>
      s.storeMxRow c x sat i1 ((List.range (x.e 0).toNat).map fun i0 => f [i0, i1, 0, 0, 0, 0]))
  else
    s.puts ((indicesOf x.exts).flatMap fun i => match f i with | some v => storeElt c x sat i v | none => [])

/-! ### Stage operations (Table 8-5) -/

/-- The FP32 or INT32 constant of a stage as a working value. -/
def Stage.constant (g : Stage) (w : Nat) : Num :=
  if w = 0xB then Num.ofInt (toSigned 32 g.const) else intoW w g.sat (of32 g.const)

/-- `cmp` (R208): the codes of aux. -/
def cmpValue (aux : Nat) (a b : Num) : Bool :=
  if a.isNan || b.isNan then aux = 1 || aux = 6
  else
    let c := Num.cmp a b
    match aux with
    | 0 => c = 0
    | 1 => c != 0
    | 2 => c < 0
    | 3 => c ≤ 0
    | 4 => 0 < c
    | 5 => 0 ≤ c
    | _ => false

/-- A shift right by `n` of an integer, rounding to nearest even. -/
def shrRne (z : Int) (n : Nat) : Int := Num.roundInt (.fin (z < 0) z.natAbs (-(n : Int)))

/-- An element-wise operation on working values when W is a floating-point format: the value before the one rounding into W. -/
def floatOp (g : Stage) (a b c : Num) : Num :=
  match g.op with
  | 0x01 => Num.add a b
  | 0x02 => Num.add a b.neg
  | 0x03 => Num.mul a b
  | 0x04 => Num.add (Num.mul a b) c
  | 0x05 => Num.min2 a b
  | 0x06 => Num.max2 a b
  | 0x07 => a.abs
  | 0x08 => a.neg
  | 0x11 => if cmpValue g.aux a b then .one else .zero
  | 0x12 => if c.isNan || !c.isZero then a else b
  | 0x30 => a.scale g.n
  | _ => transcend g.op (r32 a)

/-- The same when W is INT32. -/
def intOp (g : Stage) (a b c : Int) : Int :=
  match g.op with
  | 0x01 => wrap32 (a + b)
  | 0x02 => wrap32 (a - b)
  | 0x03 => wrap32 (a * b)
  | 0x04 => wrap32 (a * b + c)
  | 0x05 => min a b
  | 0x06 => max a b
  | 0x07 => sat32 a.natAbs
  | 0x08 => sat32 (-a)
  | 0x11 => if cmpValue g.aux (Num.ofInt a) (Num.ofInt b) then 1 else 0
  | 0x12 => if c = 0 then b else a
  | 0x30 => if 0 ≤ g.n then sat32 (a * 2 ^ g.n.toNat) else shrRne a (-g.n).toNat
  | _ => 0

/-- Whether an INT32 operation saturates (Table 8-5). -/
def intFull (g : Stage) (a : Int) : Bool :=
  ((g.op = 0x07 || g.op = 0x08) && a = -2147483648) || (g.op = 0x30 && decide (0 ≤ g.n) && sat32 (a * 2 ^ g.n.toNat) != a * 2 ^ g.n.toNat)

/-- One element of an element-wise stage; a value copied as it is keeps what filled it. -/
def elementOp (w : Nat) (g : Stage) (a b c : Elt) : Elt :=
  let bad := a.bad || b.bad || c.bad
  let r := if w = 0xB then { Elt.of (Num.ofInt (intOp g a.num.int b.num.int c.num.int)) bad with full := intFull g a.num.int }
    else Elt.into w g.sat (floatOp g a.num b.num c.num) bad
  { r with full := r.full || (g.op = 0x30 && g.n = 0 && a.full) }

/-- A reduction of the values along an axis (R207 to R209). -/
def reduceOp (w : Nat) (g : Stage) (l : List Elt) : Elt :=
  let xs := l.map (·.num)
  let bad := l.any (·.bad)
  match g.op with
  | 0x20 =>
    if w = 0xB then Elt.into 0xB true (Num.ofInt ((xs.map Num.int).foldl (· + ·) 0)) bad
    else Elt.into w g.sat ((treeSum 25 xs).getD .zero) bad
  | 0x21 => Elt.of (match xs with | [] => .zero | x :: t => t.foldl Num.max2 x) bad
  | 0x22 =>
    Elt.of ((xs.filter fun x => !x.isNan && !x.isInf).foldl (fun m x => if Num.lt m x.abs then x.abs else m) .zero) bad
  | _ =>
    let best := xs.zipIdx.foldl (fun (m : Option (Num × Nat)) p =>
      match m with
      | none => some p
      | some q => if q.1.isNan then m else if p.1.isNan || Num.lt q.1 p.1 then some p else m) none
    Elt.of (Num.ofInt ((match best with | some p => p.2 | none => 0) : Nat)) bad

/-- A window of `pool` (R194, R219): in-range values row by row of taps. -/
def poolOp (g : Stage) (rows : List (List (Option Elt))) : Elt :=
  let here := (rows.flatMap id).filterMap id
  let bad := here.any (·.bad)
  if fld g.aux 0 1 = 0 then
    Elt.of (match here.map (·.num) with | [] => .zero | x :: t => t.foldl Num.max2 x) bad
  else
    let add := fun (l : List Num) => match l with | [] => none | x :: t => some (t.foldl add32 (r32 x))
    let sums := rows.filterMap fun r => add ((r.filterMap id).map (·.num))
    let total := (add sums).getD .zero
    let n := if fld g.aux 1 1 = 1 then fld g.x 0 8 * fld g.x 8 8 else here.length
    Elt.of (mul32 total (div32 .one (Num.ofInt n))) bad

/-! ### The amax history (R163, R164, R216) -/

/-- Whether the bytes of a record are well formed, `n` being the tensor's extent (R216). -/
def recordOk (r : List Byte) (n : Nat) : Bool :=
  let len := at8 r 0 2
  let head := at8 r 2 2
  let filled := at8 r 4 2
  decide (1 ≤ len) && decide (len ≤ 1024) && decide (head < len) && decide (filled ≤ len) && decide (16 + 4 * len ≤ n)
    && (List.range filled).all fun i =>
      match of32 (at8 r (16 + 4 * ((head + len - 1 - i) % len)) 4) with
      | .fin neg m _ => !neg || m = 0
      | _ => false

/-- The largest filled entry; 0 for an empty history. -/
def recordAmax (r : List Byte) : Num :=
  let len := at8 r 0 2
  ((List.range (at8 r 4 2)).map fun i => of32 (at8 r (16 + 4 * ((at8 r 2 2 + len - 1 - i) % max len 1)) 4)).foldl
    (fun m x => if Num.lt m x then x else m) .zero

/-- The record with `amax` taken in for step `t` (R164 step 3). -/
def recordTake (r : List Byte) (amax : Num) (t : Nat) : List Byte :=
  let len := at8 r 0 2
  let head := at8 r 2 2
  let put := fun (b : List Byte) (o : Nat) (v : List Byte) => b.take o ++ v ++ b.drop (o + v.length)
  put (put (put (put r (16 + 4 * head) (leBytes 4 (bits32 amax))) 2 (leBytes 2 ((head + 1) % max len 1))) 4
    (leBytes 2 (min len (at8 r 4 2 + 1)))) 8 (leBytes 6 t)

/-! ### One stage over the domain -/

/-- The value of operand byte `o` of a stage at domain index `idx`, as a working value: a conversion into W on read is a rounding into
the working type, under the stage's sat bit (R203, Table 8-4). An FP32X input is one value of 48 bits and is rounded once into W, not to FP32
before (DEDUCED, log entry 144). -/
def State.operandAt (s : State) (c : VecCtx) (d : List Nat) (g : Stage) (done : List (List Elt)) (o : Nat) (idx : List Nat) : Elt :=
  match tensorOf o, stageOf o with
  | some i, _ =>
    match c.h.tens[i]? with
    | some x =>
      let v := s.load c x idx
      if x.ty = 0x10 then v else Elt.into c.h.w g.sat v.num v.bad
    | none => Elt.of .zero false
  | _, some j =>
    let v := (done.getD j []).getD (linear d idx) (Elt.of .zero false)
    if c.h.kind j == .int then Elt.into c.h.w g.sat v.num v.bad else v
  | _, _ => Elt.of (g.constant c.h.w) false

/-- An index operand: the integer as the tensor's type holds it (R212). -/
def State.indexAt (s : State) (c : VecCtx) (o : Nat) (idx : List Nat) : Int × Bool :=
  match (tensorOf o).bind fun i => c.h.tens[i]? with
  | some x => let v := s.load c x idx; (v.num.int, v.bad)
  | none => (0, false)

/-- An index with axis `a` replaced. -/
def atAxis (idx : List Nat) (a i : Nat) : List Nat := idx.set a i

/-- The domain indices that differ from `idx` on axis `a` alone. -/
def sliceOfAxis (d idx : List Nat) (a : Nat) : List (List Nat) := (List.range (d.getD a 1)).map fun i => atAxis idx a i

/-- The address and length of a record tensor's bytes. -/
def VecCtx.record (c : VecCtx) (x : Ten) : Nat × Nat := (c.bufBase x + x.base.toNat, (x.e 0).toNat)

/-- The count `expand` takes (R211), an INT32 as it stands: of a tensor, of a stage's result, or the constant. -/
def State.countAt (s : State) (c : VecCtx) (g : Stage) (done : List (List Elt)) : Int × Bool :=
  match tensorOf g.c, stageOf g.c with
  | some _, _ => s.indexAt c g.c (List.replicate 6 0)
  | _, some j => let v := (done.getD j []).getD 0 (Elt.of .zero false); (v.num.int, v.bad)
  | _, _ => (toSigned 32 g.const, false)

/-- One element of the plane `anchor` folds into (R214). -/
def State.anchorElt (s : State) (c : VecCtx) (a b x : Ten) (i : List Nat) : Elt :=
  let old := s.load c x i
  let pairs := (List.range (a.e 0).toNat).map fun n =>
    (s.load c a [n, i.getD 1 0, 0, 0, 0, 0], s.load c b [n, i.getD 0 0, 0, 0, 0, 0])
  let finite := pairs.filter fun p => p.1.num.int != 255 && p.2.num.int != 255
  let best := (finite.map fun p => p.1.num.int - 127 + (p.2.num.int - 127)).foldl
    (fun (m : Option Int) v => match m with | none => some v | some u => some (max u v)) none
  let p := old.part
  let p := { p with v := 0, nan := p.nan || pairs.any fun q => q.1.num.int = 255 || q.2.num.int = 255 }
  let p := match best with
    | none => p
    | some v => if p.fixed then { p with anchor := max p.anchor v } else { p with anchor := v, fixed := true }
  { Elt.of p.num (old.bad || pairs.any fun q => q.1.bad || q.2.bad) with part := p }

/-- What a later stage reads of a writer's result: a free value for each domain index, from number `k` on (log entry 143). -/
def freeResult (w k : Nat) (dom : List (List Nat)) : List Elt :=
  dom.zipIdx.map fun p => Elt.of (decodeElem w (Sys2Proof.Config.freeNat (k + p.2) % 2 ^ widthOf w)) false

/-- The result of a stage that has one, over the domain, and the indices counted out of range. -/
def State.stageResult (s : State) (c : VecCtx) (d : List Nat) (done : List (List Elt)) (g : Stage) : List Elt × Nat :=
  let w := c.h.w
  let dom := indicesOf d
  let arg := fun (o : Nat) (i : List Nat) => s.operandAt c d g done o i
  let ten := fun (o : Nat) => (tensorOf o).bind fun i => c.h.tens[i]?
  if reduction g.op then
    (dom.map fun i =>
      reduceOp w g ((sliceOfAxis d i g.axis).map fun j => arg g.a j), 0)
  else
    match g.op with
    | 0x10 => (dom.map fun _ => { Elt.of (g.constant w) false with part := Partial.zero }, 0)
    | 0x30 =>
      if c.h.operandKind g.a == .part then
        -- rounded once, directly into the output type (R215); for a later stage into W
        (dom.map fun i => let v := arg g.a i; { v with num := v.num.scale g.n }, 0)
      else (dom.map fun i => elementOp w g (arg g.a i) (Elt.of .zero false) (Elt.of .zero false), 0)
    | 0x31 =>
      match ten g.a with
      | some x =>
        let r := c.record x
        let bs := s.readAt r.1 r.2
        let v := if recordOk bs r.2 then scaleFor g.aux (recordAmax bs) (of32 g.const) else 0
        (dom.map fun _ => Elt.of (Num.ofInt v) (s.poisoned r.1 r.2), 0)
      | none => ([], 0)
    | 0x38 =>
      (dom.map fun i =>
        let a := arg g.a i
        let b := arg g.b i
        let p := a.part.xadd b.part
        { Elt.of p.num (a.bad || b.bad) with part := p }, 0)
    | 0x39 =>
      match ten g.a, ten g.b, c.h.tens[g.out]? with
      | some a, some b, some x => (dom.map (s.anchorElt c a b x), 0)
      | _, _, _ => ([], 0)
    | 0x40 =>
      match ten g.a with
      | some x =>
        let rs := dom.map fun i =>
          let j := s.indexAt c g.b i
          if 0 ≤ j.1 ∧ j.1 < x.e g.axis then
            let v := s.load c x (atAxis i g.axis j.1.toNat)
            (Elt.into w g.sat v.num v.bad, j.2, 0)
          else (Elt.of (g.constant w) false, j.2, 1)
        let bad := rs.any (·.2.1)
        (rs.map fun r => { r.1 with bad := r.1.bad || bad }, (rs.map (·.2.2)).foldl (· + ·) 0)
      | none => ([], 0)
    | 0x48 =>
      match ten g.a with
      | some x =>
        let flagAt := fun (c0 r0 : Nat) => c.bufBase x + (x.aux + (r0 : Int) * x.e 0 + c0).toNat
        (dom.map fun i =>
          let rows := (List.range (fld g.x 0 8)).map fun ty => (List.range (fld g.x 8 8)).map fun tx =>
            let c0 := i.getD 0 0 * fld g.x 24 8 + tx
            let r0 := i.getD 1 0 * fld g.x 16 8 + ty
            if leNat (s.readAt (flagAt c0 r0) 1) = 1 then
              let v := s.load c x (atAxis (atAxis i 0 c0) 1 r0)
              some (Elt.into w g.sat v.num v.bad)
            else none
          let dirty := (List.range (fld g.x 0 8)).any fun ty => (List.range (fld g.x 8 8)).any fun tx =>
            s.poisoned (flagAt (i.getD 0 0 * fld g.x 24 8 + tx) (i.getD 1 0 * fld g.x 16 8 + ty)) 1
          let v := poolOp g rows
          Elt.into w g.sat v.num (v.bad || dirty), 0)
      | none => ([], 0)
    | 0x50 =>
      let seed := policy s (0x3000 + c.k.e) 4
      (dom.zipIdx.map fun p =>
        let r := draw seed (fld g.x 0 32) c.k.step ((g.y : Int) + g.n + p.2).toNat
        match g.aux with
        | 0 => Elt.of (Num.ofInt (r : Nat)) false
        | 1 => Elt.of (intoW w g.sat (.fin false (r / 256) (-24))) false
        | _ => Elt.of (if r < fld g.x 32 32 then .one else .zero) false, 0)
    | _ => (dom.map fun i => elementOp w g (arg g.a i) (arg g.b i) (arg g.c i), 0)

/-- One addition into an output element (R212): in FP32 and then into the output's type; INT32 wraps. -/
def addInto (w ty : Nat) (sat : Bool) (old new : Elt) : Elt :=
  let v := if w = 0xB then Num.ofInt (wrap32 (old.num.int + new.num.int)) else add32 old.num new.num
  { Elt.of (if isMx ty then v else intoType ty sat v) (old.bad || new.bad) with full := !isMx ty && fills ty sat v }

/-- Elements put one after another into an output by linear index; `none` for one that is never named. -/
def scatterInto (w : Nat) (x : Ten) (sat add : Bool) (old : List Nat → Elt) (puts : List (List Nat × Elt)) : Tab Elt :=
  puts.foldl (fun (m : Tab Elt) p =>
    let l := linear x.exts p.1
    let v := if add then addInto w x.ty sat (match m.find? (·.1 = l) with | some q => q.2 | none => old p.1) p.2 else p.2
    tset m l v) []

/-- Every row of an output marked as poison where `bad` says so: a poisoned index or count may name any element (R221). -/
def State.poisonOut (c : VecCtx) (x : Ten) (bad : Bool) (s : State) : State :=
  if bad then
    (indicesOf (x.exts.set 0 1)).foldl (fun s i => s.setPoison (c.bufBase x + (x.rowAt i).toNat) x.rowBytes.toNat) s
  else s

/-- What a stage without a result does to its outputs, and the indices counted out of range. -/
def State.stageWrite (s : State) (c : VecCtx) (d : List Nat) (done : List (List Elt)) (g : Stage) : State × Nat :=
  let w := c.h.w
  let dom := indicesOf d
  let arg := fun (o : Nat) (i : List Nat) => s.operandAt c d g done o i
  let ten := fun (o : Nat) => (tensorOf o).bind fun i => c.h.tens[i]?
  match c.h.tens[g.out]? with
  | none => (s, 0)
  | some x =>
    let finish := fun (m : Tab Elt) (bad fill : Bool) (named : Nat → Bool) =>
      State.poisonOut c x bad <| s.storeOut c x g.sat fun i =>
        match m.find? (·.1 = linear x.exts i) with
        | some q => some { q.2 with bad := q.2.bad || bad }
        | none => if fill && !named (i.getD g.axis 0) then some (Elt.of .zero bad) else none
    match g.op with
    | 0x32 =>
      let r := c.record x
      let bs := s.readAt r.1 r.2
      let v := arg g.a (List.replicate 6 0)
      let t := c.k.step
      let e := c.k.x
      let fine := match v.num with | .fin n m _ => !n || m = 0 | _ => false
      if t = 0 ∨ e.wasSkipped t ∨ !recordOk bs r.2 ∨ at8 bs 8 6 = t ∨ !fine then (s, 0)
      else (s.puts [⟨r.1, recordTake bs v.num t, v.bad || s.poisoned r.1 r.2, []⟩], 0)
    | 0x39 =>
      match ten g.a, ten g.b with
      | some a, some b => (s.storeOut c x g.sat fun i => some (s.anchorElt c a b x i), 0)
      | _, _ => (s, 0)
    | 0x43 =>
      match c.h.tens[g.indexOut]?, c.h.tens[g.countOut]? with
      | some xi, some xc =>
        let n := d.getD g.axis 1
        let mask := (List.range n).map fun i =>
          match ten g.b with
          | some y => s.load c y (atAxis (List.replicate 6 0) g.axis i)
          | none => arg g.b (atAxis (List.replicate 6 0) g.axis i)
        let bad := mask.any (·.bad)
        let active := (mask.zipIdx.filter fun p => p.1.num.isNan || !p.1.num.isZero).map (·.2)
        let cap := (x.e g.axis).toNat
        let s1 := s.storeOut c x g.sat fun i =>
          match active[i.getD g.axis 0]? with
          | some j => let v := arg g.a (atAxis i g.axis j); some { v with bad := v.bad || bad }
          | none => some (Elt.of .zero bad)
        let s2 := s1.storeOut c xi g.sat fun i =>
          let k := i.getD g.axis 0
          if cap ≤ k then none
          else some (Elt.of (match active[k]? with | some j => Num.ofInt (j : Nat) | none => Num.ofInt (-1)) bad)
        (s2.storeOut c xc g.sat fun _ => some (Elt.of (Num.ofInt (active.length : Nat)) bad), 0)
      | _, _ => (s, 0)
    | 0x44 =>
      match ten g.a, ten g.b with
      | some a, some b =>
        let cnt := s.countAt c g done
        let n := min (min cnt.1.toNat (a.e g.axis).toNat) (b.e g.axis).toNat
        let idx := (List.range n).map fun k => let v := s.load c b (atAxis (List.replicate 6 0) g.axis k); (v.num.int, v.bad)
        let bad := cnt.2 || idx.any (·.2)
        let ok := fun (j : Int) => decide (0 ≤ j) && decide (j < x.e g.axis)
        let rest := indicesOf (a.exts.set g.axis 1)
        let puts := idx.zipIdx.flatMap fun p =>
          if ok p.1.1 then rest.map fun i =>
            let v := s.load c a (atAxis i g.axis p.2)
            (atAxis i g.axis p.1.1.toNat, Elt.into w g.sat v.num v.bad)
          else []
        let m := scatterInto w x g.sat g.add (fun i => s.load c x i) puts
        (finish m bad g.fill fun j => idx.any fun q => q.1 = (j : Int), ((idx.filter fun p => !ok p.1).length))
      | _, _ => (s, 0)
    | _ =>  -- scatter and scatteradd
      let rs := dom.map fun i => (i, s.indexAt c g.b i)
      let bad := rs.any (·.2.2)
      let ok := fun (j : Int) => decide (0 ≤ j) && decide (j < x.e g.axis)
      let puts := rs.filterMap fun r => if ok r.2.1 then some (atAxis r.1 g.axis r.2.1.toNat, arg g.a r.1) else none
      let m := scatterInto w x g.sat (g.op = 0x42) (fun i => s.load c x i) puts
      (finish m bad false fun _ => false, (rs.filter fun r => !ok r.2.1).length)

/-! ### A whole chain -/

/-- A result as it is stored: the result of a partial rounded straight into the output is kept unrounded until then (R215). -/
def State.storeResult (s : State) (c : VecCtx) (d : List Nat) (g : Stage) (r : List Elt) : State :=
  match c.h.tens[g.out]? with
  | some x => s.storeOut c x g.sat fun i =>
      let v := r.getD (linear d i) (Elt.of .zero false)
      -- the bits of a draw go into an integer output unchanged, the low ones into a narrower one (R218)
      some (if g.op = 0x50 && g.aux = 0 then { v with num := decodeElem x.ty (v.num.int.toNat % 2 ^ widthOf x.ty) } else v)
  | none => s

/-- What a later stage sees of a result: a partial rounded into W where it is not kept as a partial. -/
def settled (h : Chain) (j : Nat) (l : List Elt) : List Elt :=
  match h.stages[j]? with
  | some g => if g.op = 0x30 && h.operandKind g.a == .part && h.kind j == .word then
      l.map fun v => Elt.into h.w g.sat v.num v.bad
    else if g.op = 0x50 && g.aux = 0 then l.map fun v => { v with num := Num.ofInt (wrap32 v.num.int) } else l
  | none => l

/-- The stages with later stages fed from settled results. -/
def State.resultsOf (s : State) (c : VecCtx) (d : List Nat) : Nat → List Stage → List (List Elt) → List (List Elt) → Nat →
    List (List Elt) × Nat
  | _, [], _, raw, n => (raw, n)
  | j, g :: gs, done, raw, n =>
    if resultless g.op then s.resultsOf c d (j + 1) gs (done ++ [[]]) (raw ++ [[]]) n
    else if writer g.op && g.op != 0x39 then
      let dom := indicesOf d
      let l := freeResult c.h.w (s.choices + j * dom.length) dom
      s.resultsOf c d (j + 1) gs (done ++ [l]) (raw ++ [l]) n
    else
      let r := s.stageResult c d done g
      s.resultsOf c d (j + 1) gs (done ++ [settled c.h j r.1]) (raw ++ [r.1]) (n + r.2)

/-- The value a chain returns (R217): INT32 sign-extended, a floating-point result as its W pattern, zero-extended. -/
def returnWord (h : Chain) (j : Nat) (v : Elt) : Word64 :=
  if h.w = 0xB || h.kind j == .int then BitVec.ofInt 64 v.num.int else BitVec.ofNat 64 (encodeElem h.w false true v.num).1

/-- Whether a chain's domain holds no element (R206). -/
def Chain.idle (h : Chain) : Bool := h.dom.any (· == 0)

/-- Tensors that a stage reads as it writes them (R220): the record of `recamax`, the plane of `anchor`, the output of `scatteradd` and
of `expand` with add. -/
def Chain.inPlace (h : Chain) : List Nat :=
  (h.stages.filter fun g => g.op = 0x32 || g.op = 0x39 || g.op = 0x42 || (g.op = 0x44 && g.add)).map (·.out)

/-- The local-store ranges of the rows of tensors, main and aux. -/
def VecCtx.rowsOf (c : VecCtx) (l : List Nat) : List (Nat × Nat) :=
  l.flatMap fun i => match c.h.tens[i]? with
    | some x =>
      let pooled := (c.h.readers i).any fun g => g.op = 0x48
      (x.rows ++ x.auxRows pooled).map fun r => (c.bufBase x - storeBase c.t + r.1.toNat, (r.2 - r.1).toNat)
    | none => []

/-- The local-store ranges a chain reads, and those it writes: none with an empty domain (R206). -/
def VecCtx.reads (c : VecCtx) : List (Nat × Nat) :=
  if c.h.idle then []
  else c.rowsOf ((List.range c.h.tens.length).filter fun i => !(c.h.readers i).isEmpty || c.h.inPlace.contains i)
def VecCtx.writes (c : VecCtx) : List (Nat × Nat) := if c.h.idle then [] else c.rowsOf c.h.outs

/-- A chain run whole: every stage is evaluated over the memory at its start, then the outputs are written in stage order, so
that each element is read before it is written (R202, R220). The state, the value returned, the indices out of range. -/
def State.runChain (s : State) (c : VecCtx) : State × Word64 × Nat :=
  let d := c.h.dom.map Int.toNat
  if c.h.idle then (s, 0, 0)
  else
    let r := s.resultsOf c d 0 c.h.stages [] [] 0
    let s := if c.h.stages.any fun g => writer g.op then { s with choices := s.choices + 8 * (indicesOf d).length } else s
    let done := r.1.zipIdx.map fun p => settled c.h p.2 p.1
    let w := c.h.stages.zipIdx.foldl (fun (acc : State × Nat) p =>
      let g := p.1
      if writer g.op then
        let r := acc.1.stageWrite c d done g
        (r.1, acc.2 + r.2)
      else if g.out = 0xFF then acc
      else (acc.1.storeResult c d g (r.1.getD p.2 []), acc.2)) (s, r.2)
    let ret := match c.h.ret with
      | some j => returnWord c.h j ((done.getD j []).getD 0 (Elt.of .zero false))
      | none => 0
    (w.1, ret, w.2)

/-! ### `vchain` (R106, R112, R205, R497) -/

/-- The context a chain of a tile runs in. -/
def vecCtx (k : TileCtx) (t : Nat) (h : Chain) : VecCtx := { t, k, plan := k.sheet.plan k.panel, h }

/-- An uncorrectable word in what is read of the descriptor ends the instruction (R497). -/
def State.descPoison (s : State) (k : TileCtx) (t lo n : Nat) (fresh : Bool) : State :=
  let w := (List.range (ceilDiv n 8)).find? fun i => s.poisoned (storeBase t + lo + 8 * i) 8
  let s := if fresh then s
    else s.uncorrectable k.e 0x04 (s.tileUnit k.e t) k.seq 0x2 (k.li * 2097152 + lo + 8 * w.getD 0) 4 5 0
  s.operandFault k t 7

/-- What is read of a descriptor, [lo, lo + n) of the local store, with the errors found there: the fault it ends in, or the state after
the read. -/
def State.readDesc (s : State) (k : TileCtx) (t lo n : Nat) (errs : List (Nat × MemErr)) : Bool × State :=
  let old := s.poisoned (storeBase t + lo) n
  let s' := s.storeErrors k t 5 [(lo, n)] errs
  if s'.poisoned (storeBase t + lo) n then (true, s'.descPoison k t lo n (!old)) else (false, s')

/-- What a checked chain is in the vector queue. -/
def VecCtx.op (c : VecCtx) (x : Tile) (p : List Byte) (vals : List Int) (param : Nat) (u : Units) : VecOp :=
  { order := x.order, pc := x.pc, desc := p, vals, param := x.reg param, reg := param, ret := c.h.ret.isSome, units := u,
    verdict := !c.h.idle && c.h.stages.any (·.op = 0x32), outs := c.writes }

/-- The issue of a `vchain` whose descriptor lies at `off` of buffer `b`: the header is read, then the rest. -/
def State.vchainIssue (s : State) (k : TileCtx) (t : Nat) (b : BufPlan) (off param : Nat) (errs : List (Nat × MemErr)) : State :=
  let x := s.tile t
  let lo := b.offset + off
  if off % 64 != 0 then s.operandFault k t 3
  else if !b.fits off 32 then s.tileOverflow k t lo b.id
  else
    match s.readDesc k t lo 32 errs with
    | (true, s') => s'
    | (false, s') =>
      let n := at8 (s'.readAt (storeBase t + lo) 32) 4 2
      if !b.fits off n then s'.tileOverflow k t lo b.id
      else
        match s'.readDesc k t (lo + 32) (n - 32) errs with
        | (true, s') => s'
        | (false, s') =>
          let p := bytesAt (s'.readAt (storeBase t + lo) n) 0 (max n 32)
          match checkChain k p (x.reg param).toNat with
          | .operand r => s'.operandFault k t r
          | .overflow o i => s'.tileOverflow k t (ofSigned 64 o) i
          | .good h vals =>
            let u := h.units (k.sheet.plan k.panel) (b.unit off)
            if s.hazardArray t u || s.hazardStream t u then s
            else
              let back := h.ret.isSome && param != 0
              s'.onTile t fun x =>
                { x.advance with order := x.order + 1, hold := if back then .chain else .none,
                                 vecQ := x.vecQ ++ [(vecCtx k t h).op x p vals param u] }

/-- Whether the vector queue is full (R112): four wait in it, the oldest only while something holds it (log entry 29). -/
def State.vectorFull (s : State) (e t : Nat) : Bool :=
  match (s.tile t).vecQ with
  | [] => false
  | op :: rest => decide (4 ≤ rest.length + (if s.chainWaits e t op then 1 else 0))

/-- `vchain`: with the vector queue full, or a hazard on the descriptor's buffer, issue stalls. -/
def execVchain (t : Nat) (errs : List (Nat × MemErr)) (s : State) : Host.Outcome State Fault Refusal :=
  match s.fetch t with
  | some (k, .vchain buf off param) =>
    let x := s.tile t
    match k.sheet.buf k.panel buf with
    | none => .next s
    | some b =>
      let o := (x.reg off).toNat
      if s.vectorFull k.e t || s.hazard t ([b.unit o], []) then .next s
      else .next (s.vchainIssue k t b o param errs)
  | _ => .next s

/-- VCHAIN_COMPLETE (R217): the oldest chain finishes its pass; its return value goes to the parameter register. -/
def execVchainComplete (t : Nat) (errs : List (Nat × MemErr)) (s : State) : Host.Outcome State Fault Refusal :=
  match (s.tile t).vecQ with
  | [] => .next s
  | op :: rest =>
    match s.tileCtx t with
    | none => .next s
    | some k =>
      if s.chainWaits k.e t op then .next s
      else
        let c := vecCtx k t (chainOf op.desc op.vals)
        let r := (s.storeErrors k t 5 c.reads errs).runChain c
        .next (r.1.onTile t fun x =>
          let x := { x with vecQ := rest, counters := bumpAt x.counters 11 r.2.2 }
          if op.ret && op.reg != 0 then { (x.setReg op.reg r.2.1) with hold := .none } else x)

end Sys2Proof.Machine
end

