-- ==== Sys2Proof/Machine/Commands.lean ====
section
/-! DEFINITION. Commands from their taking to their end (R91, R99, R290 to R293, R359, R402 to R406): DESCRIPTOR_TAKE,
COMMAND_DISPATCH, RUN_WORK, TILE_DONE, COMMAND_END, NO_OPERATION. -/

namespace Sys2Proof.Machine

/-! ### Queues (R42, R399, R402) -/

/-- Whether an easel holds a command queue of local number `q` (R42, Table 2-5). -/
def State.hasQueue (s : State) (e q : Nat) : Bool :=
  (s.held e 8).any fun x => decide (x.place ≤ q) && decide (q < x.place + x.count)

/-- Whether descriptors wait in queue `q` of a BOUND easel and the device can read them. -/
def State.takeable (s : State) (e q : Nat) : Bool :=
  let u := (s.easel e).queueAt q
  s.hasQueue e q && u.enable && u.state != 3 && u.head != u.tail && (u.inEasel || s.host.linkUp)

/-- The queue whose turn it is: the lowest from `nextQueue` on that can be taken from, else the lowest of all (R402). -/
def State.turn (s : State) (e : Nat) : Option Nat :=
  let qs := (List.range 32).filter (s.takeable e)
  match qs.find? fun q => decide ((s.easel e).nextQueue ≤ q) with
  | some q => some q
  | none => qs.head?

/-- The entry at the head of a queue whose ring lies in easel memory: its bytes, and whether they read without an uncorrectable
error. A page no longer held reads as one (DEDUCED, log entry 42). -/
def State.ringEntry (s : State) (e : Nat) (u : Queue) : List Byte × Bool :=
  let a := u.base + 128 * (u.head % max u.size 1)
  match s.readVa e a 128 with
  | some bs => (bs, !s.poisonedVa e a 128)
  | none => (List.replicate 128 0, false)

/-- The command a descriptor becomes: under the next sequence number (R8, R402). -/
def newCmd (q seq : Nat) (bytes : List Byte) (intact : Bool) : Cmd :=
  { queue := q, seq, bytes := bytesAt bytes 0 128, intact, phase := .taken, slots := [], sentFabric := false }

/-- DESCRIPTOR_TAKE (R402): `entry` is what a host-memory ring holds at the head, `intact` that the entry was read without an
uncorrectable error. -/
def execDescriptorTake (e : Nat) (entry : List Byte) (intact : Bool) (s : State) : Host.Outcome State Fault Refusal :=
  if !s.bound e then .next s
  else
    match s.turn e with
    | none => .next s
    | some q =>
      let x := s.easel e
      let u := x.queueAt q
      let r := if u.inEasel then let r := s.ringEntry e u; (r.1, r.2 && intact) else (entry, intact)
      let seq := x.lastSeq + 1
      let u' := { u with head := (u.head + 1) % 2 ^ 32, state := waitState ((u.head + 1) % 2 ^ 32) u.tail }
      let x' := { (x.setQueue q u') with
        lastSeq := min seq (2 ^ 48 - 1), nextQueue := q + 1, cmds := x.cmds ++ [newCmd q seq r.1 r.2] }
      let s' := s.setEasel e x'
      -- after all queues were empty the turn starts at the lowest (DEDUCED, log entry 43)
      let s' := if (s'.turn e).isNone then s'.onEasel e fun x => { x with nextQueue := 0 } else s'
      if u.inEasel && !intact then
        -- the requester code of a control sequencer is not among those of R269
        let (n, s') := s'.fresh
        let a := u.base + 128 * (u.head % max u.size 1)
        match s.translate e a with
        | some d => .next ((s'.setPoison (d / 64 * 64) 64).uncorrectable e 0x07 (memUnit d) (min seq (2 ^ 48 - 1)) 0x1 a (tierOf d)
            (Sys2Proof.Config.freeNat n % 256) 0)
        | none => .next s'
      else .next s'

/-! ### Dispatch checks (R404, Table 15-8) -/

/-- Parameter-block sizes of Table 15-6; op 0x02 has the image's own length. -/
def blockSize : Nat → Nat
  | 0x04 => 72 | 0x05 => 144 | 0x06 => 64 | 0x07 => 32
  | _ => 0

/-- Whether a command is stepped (R405). -/
def Cmd.stepped (c : Cmd) : Bool := c.step != 0 && (decide (c.op ≤ 4) || c.op = 8)

/-- Inline slot entries. -/
def Cmd.inlineCount (c : Cmd) : Nat := fld (at8 c.bytes 2 1) 0 3
def Cmd.argument (c : Cmd) : Nat := at8 c.bytes 3 1

/-- A slot entry in the inline layout: slot, value. -/
def slotEntry (bs : List Byte) (o : Nat) : Nat × Nat := (at8 bs o 1, at8 bs (o + 8) 8)

/-- The first failing byte of order 3 of Table 15-8, by rising offset; `slots` is the canvas's slot count, `none` without one. -/
def formatFault (x : Easel) (c : Cmd) : Option Nat :=
  let p := c.bytes
  let slots := match x.canvas with | some v => v.slots.length | none => 0
  let sheets := match x.canvas with | some v => v.sheets.length | none => 0
  let inl := (List.range 4).findSome? fun j =>
    let o := 32 + 16 * j
    if j < c.inlineCount then
      if slots ≤ at8 p o 1 then some o else if !rsv p (o + 1) 7 then some (o + 1) else none
    else if !rsv p o 16 then some o else none
  if c.op = 0 ∨ 8 < c.op then some 0
  else if c.op != 2 && x.canvas.isNone then some 0
  else if fld (at8 p 1 1) 4 4 != 0 || (c.last && !c.stepped) then some 1
  else if fld (at8 p 2 1) 3 5 != 0 || decide (4 < c.inlineCount) || (c.op = 2 && c.inlineCount != 0) then some 2
  else if (c.op != 3 && c.argument != 0) || (c.op = 3 && decide (sheets ≤ c.argument)) then some 3
  else if 64 < c.listCount ∨ (c.op = 2 ∧ c.listCount ≠ 0) then some 4
  else if at8 p 6 2 != 0 then some 6
  else if c.param % 64 != 0 || (c.paramLen = 0 && c.param != 0) then some 8
  else if at8 p 20 4 != 0 then some 20
  else if c.stepped && ((x.openStep != 0 && c.step != x.openStep) || decide (c.step ≤ x.closedStep)) then some 24
  else if at8 p 30 2 != 0 then some 30
  else inl

/-- What a dispatch check finds: the record's code and details. -/
abbrev Reject := Nat × Nat × Nat

/-- Orders 1 to 5 of Table 15-8. -/
def State.checkHeader (s : State) (e : Nat) (c : Cmd) : Option Reject :=
  let x := s.easel e
  let comp := (c.bytes.take 32).map (~~~ ·)
  if 2 ^ 48 ≤ c.seq then some (0x0102, 0, 2)
  else if !c.intact || (c.bytes.drop 96).take 32 != comp then some (0x0101, at8 c.bytes 0 8, 0)
  else
    match formatFault x c with
    | some o => some (0x0104, 0, o)
    | none =>
      let sizeOk := if c.op = 2 then decide (c.paramLen ≤ 1073741824) else c.paramLen = 16 * c.listCount + blockSize c.op
      if !sizeOk then some (0x0104, 0, 16)
      else if 2 ^ 48 < c.param + c.paramLen then some (0x0310, c.paramLen, 0)
      else if !s.mapped e c.param c.paramLen then some (0x0501, c.param, 2 ^ 24)
      else none

/-- The slot entries of a command: inline, then the list's (R403). -/
def State.slotEntries (s : State) (e : Nat) (c : Cmd) : List (Nat × Nat) :=
  let list := (s.readVa e c.param (16 * c.listCount)).getD []
  (List.range c.inlineCount).map (fun j => slotEntry c.bytes (32 + 16 * j))
    ++ (List.range c.listCount).map fun j => slotEntry list (16 * j)

/-- The slot list is legal: reserved bytes zero, slots the canvas has, no poisoned line (DEDUCED offset 4, log entry 44). -/
def State.listOk (s : State) (e : Nat) (c : Cmd) : Bool :=
  match s.readVa e c.param (16 * c.listCount), (s.easel e).canvas with
  | some l, some v =>
    !s.poisonedVa e c.param (16 * c.listCount)
      && (List.range c.listCount).all fun j => rsv l (16 * j + 1) 7 && decide (at8 l (16 * j) 1 < v.slots.length)
  | _, _ => c.listCount = 0

/-- The vector with entries applied in order (R403). -/
def applySlots (v : List Nat) (es : List (Nat × Nat)) : List Nat := es.foldl (fun v e => v.set e.1 e.2) v

/-- The first slot, ascending, that an entry sets beyond its planned maximum (R86). -/
def overPlan (plan v : List Nat) (es : List (Nat × Nat)) : Option Reject :=
  (List.range plan.length).findSome? fun i =>
    if es.any (fun q => q.1 = i) && decide (plan.getD i 0 < slotAt v i) then some (0x0302, slotAt v i, i) else none

/-- The window extents of a sheet compared with their slots (R196). -/
def windowMismatch (d : Sheet) (v : List Nat) : Option Reject :=
  d.streams.findSome? fun t => t.blocks.findSome? fun b =>
    let p := b.payload
    if b.kind = 3 && (wKind p = 1 || wKind p = 4) then
      if wHout p v != slotAt v (at8 p 50 1) then some (0x0304, wHout p v, at8 p 50 1)
      else if wWout p v != slotAt v (at8 p 51 1) then some (0x0304, wWout p v, at8 p 51 1)
      else none
    else none

/-- The window of one end of an extent block (R252): its size and where in it the run begins, with p = q = 0, for slots `v`;
`none` where that end has no window known before the run. A space 0x2 base in no buffer leaves an empty window. -/
def endWindow (cv : Canvas) (d : Sheet) (t : StreamDesc) (v : List Nat) (space base ext off : Nat) : Option (Int × Nat) :=
  match space with
  | 0x0 =>
    ((d.panels.find? (·.number = t.panel)).bind fun p => d.buf p t.localBuf).map fun f => ((f.room : Int), base + off)
  | 0x2 =>
    match (d.panelOf (base / 2097152)).bind fun q => d.bufAt q.1 (base % 2097152) with
    | some f => some ((f.size : Int), base % 2097152 + off - f.offset)
    | none => some (0, 0)
  | 0x7 => none
  | _ => some (cv.formula ext v, off)

/-- Whether a run of `len` bytes at `off` lies in a window of `size` (R88). -/
def windowFits (len size : Int) (off : Nat) : Bool :=
  decide (0 ≤ len) && decide (len ≤ size) && decide ((off : Int) ≤ size - len)

/-- An end of an extent block whose run does not lie in its window for slots `v` (R494): the run length and window size. With
`fixedOnly` the fixed windows alone are looked at. -/
def extentMisfit (cv : Canvas) (d : Sheet) (t : StreamDesc) (b : Block) (fixedOnly : Bool) (v : List Nat) : Option (Int × Int) :=
  let len := cv.formula (at8 b.payload 24 2) v
  let one := fun (space base ext off : Nat) =>
    if fixedOnly && endDerived cv space ext then none else
    match endWindow cv d t v space base ext off with
    | some (size, o) => if windowFits len size o then none else some (len, size)
    | none => none
  match one b.src b.srcBase b.srcExt (at8 b.payload 0 8) with
  | some r => some r
  | none => one b.dst b.dstBase b.dstExt (at8 b.payload 8 8)

/-- The slot-derived runs of a sheet (R494, native mode). -/
def lengthMisfit (cv : Canvas) (d : Sheet) (v : List Nat) : Option Reject :=
  d.streams.findSome? fun t => t.blocks.findSome? fun b =>
    if b.kind = 1 && extentDerived cv b then
      (extentMisfit cv d t b false v).map fun r => (0x0310, ofSigned 64 r.1, ofSigned 32 r.2)
    else none

/-- Order 6 of Table 15-8. DESIGN CHOICE (log entry 132): in compatibility mode a slot of planned maximum 0 is no exception to R87; a
command that sets it runs with the value. -/
def State.checkShapes (s : State) (e : Nat) (v : List Nat) (es : List (Nat × Nat)) : Option Reject :=
  let x := s.easel e
  match x.canvas, x.sheetDef with
  | some cv, some d =>
    match (if s.compat e then none else overPlan cv.plan v es) with
    | some r => some r
    | none =>
      match windowMismatch d v with
      | some r => some r
      | none => if s.compat e then none else lengthMisfit cv d v
  | _, _ => none

/-! ### COMMAND_DISPATCH -/

/-- The first command that is taken and not dispatched: none overtakes another (DEDUCED, log entry 45). -/
def Easel.waiting (x : Easel) : Option Cmd := x.cmds.find? fun c => c.phase == .taken

/-- Whether a command may dispatch: no barrier before it has still to end (R60), no restore is under way (R376), and for a
run-work command, whose chains may read the loss-scale exponent, the verdict of the step before is decided (R170, log entry 45). -/
def Easel.startable (x : Easel) (c : Cmd) : Bool :=
  x.restore.isNone && (x.cmds.all fun d => d.phase == .taken || !barrierOp d.op)
    && !(c.op = 1 && x.closedStep != 0 && decide (x.closedStep < c.step) && !x.decided x.closedStep)

/-- The record of a stepped command (R405). -/
def Easel.openFor (x : Easel) (c : Cmd) : Easel :=
  if !c.stepped then x
  else if c.last then { x with openStep := 0, closedStep := c.step }
  else { x with openStep := c.step }

/-- A dispatch rejection (R404, R86): the record with the descriptor's sequence number, then FAULTED at once; the commands dispatched
before it continue to completion, those taken and not dispatched are gone. DESIGN CHOICE (log entry 131): a descriptor beyond sequence
number 2^48 - 1 is reported under 2^48 - 1, the greatest that the record's field holds. -/
def State.reject (s : State) (e : Nat) (c : Cmd) (r : Reject) : State :=
  let s := s.reportSeq r.1 e 0x01 (queueUnit e c.queue) (min c.seq (2 ^ 48 - 1)) r.2.1 r.2.2
  if (s.easel e).quiet then s.fault e
  else s.onEasel e fun x => { x with mode := .faulted, rejected := true, cmds := x.cmds.filter (·.phase != .taken) }

/-- COMMAND_DISPATCH (R404); a stopped control sequencer dispatches nothing (Table 1-9). -/
def execCommandDispatch (e : Nat) (s : State) : Host.Outcome State Fault Refusal :=
  let x := s.easel e
  if !s.bound e || s.sequencerStopped e then .next s
  else
    match x.waiting with
    | none => .next s
    | some c =>
      if !x.startable c then .next s
      else
        match s.checkHeader e c with
        | some r => .next (s.reject e c r)
        | none =>
          if !s.listOk e c then .next (s.reject e c (0x0104, 0, 4))
          else
            let es := s.slotEntries e c
            let v := applySlots x.slots es
            match (if c.op = 2 then none else s.checkShapes e v es) with
            | some r => .next (s.reject e c r)
            | none =>
              -- the first training step after a load begins with loss_scale_init (R169)
              let x := if c.stepped && x.lossFresh then { x with lossExp := policyInt s (0x8040 + e) 1, lossFresh := false }
                else match x.lossNext with
                  | some k => if c.stepped then { x with lossExp := k, lossNext := none } else x
                  | none => x
              .next (s.setEasel e { (x.openFor c) with
                slots := v, cmds := x.cmds.map fun (d : Cmd) => if d.seq = c.seq then { d with phase := .dispatched, slots := v } else d })

/-! ### Step boundaries (R359) -/

/-- Whether the completion of a command is a step boundary: of an update; of a step's last command where no update of that step
is under way; of any command where the easel runs no training steps. -/
def Easel.boundary (x : Easel) (c : Cmd) : Bool :=
  c.op = 6 || (c.last && !(x.cmds.any fun d => d.op = 6 && d.step = c.step))
    || (x.openStep = 0 && x.closedStep = 0 && c.step = 0)

/-- A command completes under its own boundary rule. -/
def State.finishCmd (s : State) (e : Nat) (c : Cmd) : State :=
  let x := s.easel e
  let s := if c.last then s.setEasel e { x with lastDone := c.step } else s
  s.complete e c (x.boundary c)

/-- NO_OPERATION (R403): nothing beyond its fence. -/
def execNoOperation (e : Nat) (s : State) : Host.Outcome State Fault Refusal :=
  match (s.easel e).dispatched 8 with
  | some c => .next (s.finishCmd e c)
  | none => .next s

/-! ### RUN_WORK (R91) -/

/-- The logical tiles of a panel. -/
def Panel.tiles (p : Panel) : List Nat :=
  (List.range p.rows).flatMap fun r => (List.range p.cols).map fun c => p.origin + r * p.stride + c

/-- The dense tiles of the active sheet's panels. -/
def State.sheetTiles (s : State) (e : Nat) : List Nat :=
  match (s.easel e).sheetDef with
  | some d => d.panels.flatMap fun p => p.tiles.filterMap (s.denseOf e)
  | none => []

/-- A tile at the start of a command (R91): word 0, registers zero, loops and queues empty; a swap point of its counters (R461). -/
def Tile.start (x : Tile) (seq : Nat) : Tile :=
  { x with pc := 0, running := true, ended := false, regs := [], loops := [], hold := .none, arrayQ := [], vecQ := [], order := 0,
           traced := 0, counters := [], countersSeq := seq, published := x.counters, publishedSeq := x.countersSeq,
           publishedFinal := true }

/-- The value waiters that the triggers of a sheet's reductions are (R350). -/
def State.armTriggers (s : State) (e : Nat) : State :=
  match (s.easel e).sheetDef with
  | none => s
  | some d => d.reds.zipIdx.foldl (fun s r =>
      match (s.easel e).semDecl r.1.trigger with
      | some m => s.applyWaitv e m ⟨.reduction e r.2, r.1.triggerValue⟩
      | none => s) s

/-- The tiles of a command set going. -/
def State.startTiles (s : State) (e seq : Nat) : State :=
  (s.sheetTiles e).foldl (fun s t => s.onTile t fun x => x.start seq) s

/-- The counts of the active sheet's semaphores by id, and the values of its work counters by number. -/
def State.countsOf (s : State) (e : Nat) : List (Nat × Nat) :=
  match (s.easel e).sheetDef with
  | some d => d.sems.filterMap fun m => ((s.easel e).semKey m).map fun k => (m.id, (s.sem k).count.toNat)
  | none => []
def State.ticketsOf (s : State) (e : Nat) : List (Nat × Nat) :=
  match (s.easel e).sheetDef with
  | some d => d.ctrs.map fun w => (w.number, (s.counter w.number).value)
  | none => []

/-- A semaphore's count set. A reduction's wait for its trigger ends with the command it was armed in (R350); other waiters stay. -/
def State.setCount (s : State) (e : Nat) (m : SemDecl) (n : Nat) : State :=
  match (s.easel e).semKey m with
  | some k => s.setSem k ({ (s.sem k) with max := m.max, values := (s.sem k).values.filter fun w => !w.who.isReduction }.store (BitVec.ofNat 32 n))
  | none => s

/-- Whether a stream issue waits for a grant or an output: nothing of it moves until then. -/
def State.issueWaits (s : State) (y : Issue) : Bool := (y.gated || (y.inBlock && !y.consumed)) && !(s.streams.xfers.any (·.issue = y.id))

/-- Whether the streams of an easel whose tiles were stopped have ended, but for issues that wait for what the stopped tiles no longer
give (R385; DEDUCED, log entry 149). -/
def State.streamsEnded (s : State) (e : Nat) : Bool := (s.streams.issues.filter (·.easel = e)).all s.issueWaits

/-- Semaphores and work counters as at the command's start, claim bitmaps kept (R385 order 2). An update's waits stay. -/
def State.restoreSync (s : State) (e : Nat) : State :=
  let x := s.easel e
  let mine := fun (w : Waiter) => match w.who with
    | .tile t => s.ownerOf 1 t = some e
    | .issue i | .gate i => (s.issue i).any (·.easel = e)
    | .reduction _ _ | .update _ _ => false
  let s := { s with sems := tmap (fun _ m => { m with queue := m.queue.filter (!mine ·), values := m.values.filter (!mine ·) }) s.sems }
  let s := x.startCounts.foldl (fun s q => match x.semDecl q.1 with | some m => s.setCount e m q.2 | none => s) s
  { s with counters := x.startTickets.foldl (fun t w => tset t w.1 { tget Counter.reset t w.1 with value := w.2 }) s.counters }

/-- The command run again from word 0 on every tile, and COMMAND_RERUN for each tile that failed (R385). -/
def State.runAgain (s : State) (e : Nat) (c : Cmd) : State :=
  let failed := (s.easel e).rerun
  let s := (s.restoreSync e).dropStreams e
  let s := { s with net := s.net.filter fun r => !(r.easel = e && r.unitClass != 6) }
  let s := ((s.onEasel e fun x => { x with rerun := [] }).startTiles e c.seq).armTriggers e
  failed.foldl (fun s q => s.reportSeq 0x090E e 0x03 q.1 c.seq q.2 0) s

/-- RUN_WORK (R91): every tile of the active sheet begins at word 0. One whose tiles were stopped for a failed tile begins again once its
streams have ended (R385). -/
def execRunWork (e : Nat) (s : State) : Host.Outcome State Fault Refusal :=
  let x := s.easel e
  match x.dispatched 1 with
  | none =>
    match x.running 1 with
    | some c => if x.rerun.isEmpty || !s.streamsEnded e then .next s else .next (s.runAgain e c)
    | none => .next s
  | some c =>
    if !x.works then .next s
    else
      let s := s.setEasel e { (x.setPhase c.seq .started) with
        awaiting := [], startCounts := s.countsOf e, startTickets := s.ticketsOf e }
      .next ((s.startTiles e c.seq).armTriggers e)

/-! ### TILE_DONE and COMMAND_END (R99, R291) -/

/-- TILE_DONE: a tile that has ended, once every instruction it issued has completed. -/
def execTileDone (t : Nat) (s : State) : Host.Outcome State Fault Refusal :=
  let x := s.tile t
  if x.running && x.ended && x.arrayQ.isEmpty && x.vecQ.isEmpty && (s.issuesOf t).isEmpty then
    .next (s.setTile t { x with running := false })
  else .next s

/-- Whether a posted signal is pending for an easel (Table 11-4 order 2). -/
def State.postedPending (s : State) (e : Nat) : Bool := s.fabric.fences.any fun f => f.posted.isSome && s.holds e 7 f.channel

/-- The declarations of a sheet in ascending semaphore id. -/
def insertDecl (d : SemDecl) : List SemDecl → List SemDecl
  | [] => [d]
  | x :: xs => if d.id ≤ x.id then d :: x :: xs else x :: insertDecl d xs

def sortDecls (l : List SemDecl) : List SemDecl := l.foldr insertDecl []

/-- The first semaphore that its final value check or its complement fails, with the final value (R281, R291). -/
def State.finalMismatch (s : State) (e : Nat) (c : Cmd) : Option (SemDecl × Int) :=
  let x := s.easel e
  match x.canvas, x.sheetDef with
  | some cv, some d =>
    (sortDecls d.sems).findSome? fun m =>
      match x.semKey m with
      | some k =>
        let z := s.sem k
        let f := cv.formula m.final c.slots
        if !z.sound then some (m, f)
        else if m.final != 0xFFFF && f != (z.count.toNat : Int) then some (m, f) else none
      | none => none
  | _, _ => none

/-- Semaphores at their initial values, work counters at their first tickets, claims cleared (R291 order 4, R293). -/
def State.initialSync (s : State) (e : Nat) : State :=
  match (s.easel e).sheetDef with
  | some d =>
    let s := d.sems.foldl (fun s m => s.setCount e m m.initial) s
    { s with counters := d.ctrs.foldl (fun t w => tset t w.number { value := w.first, claimed := [] }) s.counters }
  | none => s

/-- Publications at the end of a command (R461): its tiles, and the health records and slices of its streams. -/
def State.publishWork (s : State) (e : Nat) : State :=
  let mine := fun (n : Nat) => s.ownerOf 1 n = some e
  { s with
    tiles := tmap (fun t x => if mine t then { x with published := x.counters, publishedSeq := x.countersSeq, publishedFinal := false } else x) s.tiles,
    streams := { s.streams with
      health := s.streams.health.map fun (h : Health) =>
        if h.easel = e then { h with published := h.active, publishedSeq := h.seq, final := false } else h,
      slices := tmap (fun l b => if s.ownerOf 5 l = some e then b.publish else b) s.streams.slices } }

/-- A final-value mismatch (R281, R290): the record at the semaphore's home, and FAULTED. -/
def State.endFault (s : State) (e : Nat) (m : SemDecl) (final : Int) : State :=
  match (s.easel e).semKey m with
  | none => s
  | some k =>
    let z := s.sem k
    let h := s.semHome e m
    if !z.sound then s.semComplement e m z
    else if final < (z.count.toNat : Int) then s.semFault 0x0401 e h.1 h.2 z.count.toNat (ofSigned 32 final) m.id 4
    else s.semFault 0x0402 e h.1 h.2 z.count.toNat (ofSigned 32 final) m.id 5

/-- COMMAND_END (R291, Table 11-4): every tile done, no posted signal pending and each reduction fired that its trigger has reached
(R350), the final values are compared, everything is
set to its initial value and the completion is written. -/
def execCommandEnd (e : Nat) (s : State) : Host.Outcome State Fault Refusal :=
  match (s.easel e).running 1 with
  | none => .next s
  | some c =>
    if (s.sheetTiles e).any (fun t => (s.tile t).running) || s.postedPending e || !(s.easel e).awaiting.isEmpty
        || !(s.easel e).rerun.isEmpty then .next s
    else
      match s.finalMismatch e c with
      | some (m, f) => .next (s.endFault e m f)
      | none => .next (((s.initialSync e).publishWork e).finishCmd e c)

end Sys2Proof.Machine
end

