-- ==== Sys2Proof/Machine/Flags.lean ====
section
/-! DEFINITION. What the device shows of its units from outside: stall reasons (R119, R466), program-counter samples (R465 to
R467), publications of counters (R461, R462), and the counter snapshot (R463, Tables 18-2 to 18-4). -/

namespace Sys2Proof.Machine

/-! ### Stall reasons (Tables 4-18 and 18-5) -/

/-- Whether a packet of an issue's transfers waits at a port for credit (R332). -/
def State.creditWait (s : State) (y : Issue) : Bool :=
  s.fabric.remotes.any fun r => r.issue = some y.id && (s.port r.port).waiting.contains r.packet

/-- What a tile held on stream issues is held by (R466). -/
def State.streamReason (s : State) (l : List Issue) : Nat :=
  if l.any fun y => y.gated && match y.runs with
      | r :: _ => (match ((s.easel y.easel).stream y.stream).bind (fun d => d.blocks[r.block]?) with
          | some b => b.src = 7 | none => false)
      | [] => false then 7
  else if l.any s.creditWait then 6
  else 2

/-- What an instruction held on a stream issue that holds a unit of `u` shows (R113); 0 where none does. -/
def State.starvedOn (s : State) (t : Nat) (u : Units) : Nat :=
  if s.hazardStream t u then s.streamReason ((s.issuesOf t).filter fun y => clash u y.units) else 0

/-- What an `mma` that cannot issue shows (R133): the array queue is full. Stream starved where nothing has entered the array because the
head of the queue waits on a stream issue, else array busy. -/
def State.mmaReason (s : State) (t : Nat) : Nat :=
  match (s.tile t).arrayQ with
  | op :: _ => if !s.mmaOnVector t op && s.mmaOnStream t op then s.starvedOn t op.units else 3
  | [] => 0

/-- The units of the tensors of a chain about to issue, whose descriptor lies at `off` of buffer `b`; none where its checks would fail. -/
def State.chainUnits (s : State) (k : TileCtx) (t : Nat) (b : BufPlan) (off param : Nat) : Units :=
  let lo := storeBase t + b.offset + off
  let n := at8 (s.readAt lo 32) 4 2
  match checkChain k (bytesAt (s.readAt lo n) 0 (max n 32)) ((s.tile t).reg param).toNat with
  | .good h _ => h.units (k.sheet.plan k.panel) (b.unit off)
  | _ => ([], [])

/-- What a `vchain` that cannot issue shows: the vector queue full or a unit held by the vector engine, else a stream issue; waiting on
the array is no reason of Table 4-18. -/
def State.chainReason (s : State) (k : TileCtx) (t buf off param : Nat) : Nat :=
  match k.sheet.buf k.panel buf with
  | some b =>
    let o := ((s.tile t).reg off).toNat
    let desc : Units := ([b.unit o], [])
    if s.vectorFull k.e t || s.hazardVector t desc then 4
    else if s.hazardStream t desc then s.starvedOn t desc
    else if s.hazardArray t desc then 0
    else s.starvedOn t (s.chainUnits k t b o param)
  | none => 0

/-- The counter that an instruction asks the home of. -/
def counterOf : TileOp → Option Nat
  | .fadd _ w _ _ => some w
  | .claim _ w _ => some w
  | _ => none

/-- Whether another tile's next instruction asks the home of the same counter: the two arbitrate (DEDUCED, log entry 141). -/
def State.contended (s : State) (t w : Nat) : Bool :=
  s.tiles.any fun p => p.1 != t && match s.fetch p.1 with | some (_, o) => counterOf o == some w | none => false

/-- The reason of an instruction that has not issued (Table 4-18). -/
def State.issueReason (s : State) (t : Nat) (k : TileCtx) (o : TileOp) : Nat :=
  match o with
  | .mma .. => if s.arrayFull t then s.mmaReason t else 0
  | .vchain buf off param => s.chainReason k t buf off param
  | .issue stream _ _ buf off useLocal _ _ =>
    if 16 ≤ (s.issuesOf t).length || decide (64 ≤ s.atPort t) then 5
    else match k.x.stream stream with
      | some d => s.starvedOn t (k.issueUnits d buf ((s.tile t).reg off).toNat useLocal)
      | none => 0
  | .fadd _ w _ _ => if s.contended t w then 8 else 0
  | .claim _ w _ => if s.contended t w then 8 else 0
  | _ => 0

/-- The stall reason of a tile (Table 18-5). -/
def State.stallReason (s : State) (t : Nat) : Nat :=
  match (s.tile t).hold with
  | .sem => 1
  | .value => 1
  | .await i => s.streamReason ((s.issuesOf t).filter fun y => match i with | none => true | some k => y.stream = k)
  | .chain => 0
  | .none => match s.fetch t with | some (k, o) => s.issueReason t k o | none => 0

/-! ### PC_SAMPLE (R465) -/

/-- A running tile of a traced easel takes one sample; it costs the tile no step. -/
def execPcSample (t : Nat) (s : State) : Host.Outcome State Fault Refusal :=
  let x := s.tile t
  match s.tileCtx t with
  | some k =>
    if x.running && s.traced k.e then
      let bs := traceRecord 0 k.e (s.stallReason t) (physId (s.server t)) x.pc k.seq k.li (x.traced + 1) 0 0
      .next (raiseAll ((s.onTile t fun x => { x with traced := x.traced + 1, counters := bumpAt x.counters 12 1 }).traceStore
        (baseDie (s.server t)) k.e bs))
    else .next s
  | none => .next s

/-! ### Publications (R461) -/

/-- Where the published bank of a device-scope unit lies, by unit class and unit. -/
def pubKey (cls unit : Nat) : Nat := cls * 2 ^ 32 + unit

def State.publishAt (s : State) (cls unit : Nat) (l : List Nat) : State :=
  { s with obs := { s.obs with published := tset s.obs.published (pubKey cls unit) l } }

/-- COUNTER_PUBLICATION of a unit of command scope: a tile by its dense number, a primer lane, a slice below 128, or from 128
on the health record of stream `i` of easel `e` at 128 + 1024 e + i. -/
def execCounterPublication (cls unit : Nat) (s : State) : Host.Outcome State Fault Refusal :=
  match cls with
  | 0x04 => .next (s.onTile unit fun x => { x with published := x.counters, publishedSeq := x.countersSeq, publishedFinal := false })
  | 0x05 =>
    if unit < 128 then
      .next { s with streams := { s.streams with slices := tmap (fun i b => if i = unit then b.publish else b) s.streams.slices } }
    else
      let h := s.health ((unit - 128) / 1024) ((unit - 128) % 1024)
      .next (s.setHealth { h with published := h.active, publishedSeq := h.seq, final := false })
  | 0x06 =>
    let s := { s with primer := { s.primer with banks := tmap (fun i b => if i = unit then b.publish else b) s.primer.banks } }
    .next (match s.ownerOf 6 unit with | some e => s.publishAt 0x06 e (tget [] s.primer.stats e) | none => s)
  | _ => .next s

/-- The counters of a device-scope unit: a memory controller's corrected and uncorrectable errors, those of the SRAM on base die
`unit - 32` (its reservoir, then the local stores of its two compute dies), a stream engine's translation misses or, at 32, the BAR2
window's (R249), a port's statistics, a trace unit's records. -/
def State.deviceCounters (s : State) (cls unit : Nat) : List Nat :=
  match cls with
  | 0x05 => [tget 0 s.streams.misses unit]
  | 0x07 =>
    if unit < 32 then [tget 0 s.tiers.ceCount unit, tget 0 s.tiers.ueCount unit]
    else let d := unit - 32; [tget 0 s.tiers.sramCe d, tget 0 s.tiers.sramCe (4 + 2 * d), tget 0 s.tiers.sramCe (5 + 2 * d)]
  | 0x08 => (s.port unit).stats
  | 0x0D => let u := s.traceUnit unit; [u.write, u.lost, u.dropped, u.triggers]
  | _ => []

/-- DEVICE_COUNTER_PUBLICATION (R461): every 1 ms. A memory controller is named by the place of its stack or package in
`mem_ce_count`, that of a base die's SRAM from 32 on. The model counts for an easel what the glaze units count for it together, so one
unit's publication publishes each easel's counts (log entry 128). -/
def execDeviceCounterPublication (cls unit : Nat) (s : State) : Host.Outcome State Fault Refusal :=
  if cls = 0x09 then
    .next ((List.range 64).foldl (fun s e => s.publishAt 0x09 e ((s.easel e).glazeStats ++ [(s.easel e).varnishStalls])) s)
  else if cls = 0x05 ∨ cls = 0x07 ∨ cls = 0x08 ∨ cls = 0x0D then .next (s.publishAt cls unit (s.deviceCounters cls unit))
  else .next s

/-! ### The counter snapshot (R463) -/

/-- A snapshot record (Table 18-3). -/
def snapRecord (kind cls easel : Nat) (final : Bool) (unit seq : Nat) (payload : List Byte) : List Byte :=
  leBytes 1 kind ++ leBytes 1 cls ++ leBytes 1 easel ++ leBytes 1 final.toNat ++ leBytes 4 unit ++ leBytes 8 (seq % 2 ^ 48)
    ++ bytesAt payload 0 112

/-- `n` U64 fields. -/
def fields (n : Nat) (l : List Nat) : List Byte := (List.range n).flatMap fun i => leBytes 8 (l.getD i 0)

/-- A health record of 32 bytes (Table 6-8). -/
def healthRecord (stream seq : Nat) (l : List Nat) : List Byte :=
  (List.range 5).flatMap (fun i => leBytes 4 (l.getD i 0)) ++ leBytes 4 stream ++ leBytes 8 (seq % 2 ^ 48)

/-- The unit id of a stream's health record: the engine of its slice with the stream id (Table 0-5). -/
def State.healthUnit (s : State) (h : Health) : Nat :=
  match (s.easel h.easel).stream h.stream with | some d => streamUnit d | none => h.stream * 65536

/-- A record keyed by unit class and unit id put among records in ascending order, behind its equals. -/
def insertSnap (k : Nat) (r : List Byte) : List (Nat × List Byte) → List (Nat × List Byte)
  | [] => [(k, r)]
  | (j, q) :: t => if k < j then (k, r) :: (j, q) :: t else (j, q) :: insertSnap k r t

/-- Counts with `n` of them, from number `i` on, those of steps, free: steps are time, which no command carries (R19, R133, R464; log
entries 13, 116). -/
def withSteps (k i n : Nat) (l : List Nat) : List Nat :=
  (List.range n).foldl (fun l j => l.set (i + j) (Sys2Proof.Config.freeNat (k + j) % 2 ^ 64)) (padded (i + n) l ++ l.drop (i + n))

/-- Records of the units of class `cls` that easel `e` holds, from the published banks. -/
def State.easelSnap (s : State) (e : Nat) : List (Nat × List Byte) :=
  ((s.units e 1).map fun t =>
      let x := s.tile t
      (pubKey 4 (s.tileUnit e t), snapRecord 1 4 e x.publishedFinal (s.tileUnit e t) x.publishedSeq (fields 13 (withSteps (s.choices + 10 * t) 0 10 x.published))))
    ++ ((s.streams.health.filter (·.easel = e)).map fun h =>
      (pubKey 5 (s.healthUnit h), snapRecord 2 5 e h.final (s.healthUnit h) h.publishedSeq (healthRecord h.stream h.publishedSeq h.published)))
    ++ ((s.units e 5).map fun l =>
      let b := tget Bank.reset s.streams.slices l
      (pubKey 5 (l / 4), snapRecord 3 5 e b.final (l / 4) b.publishedSeq (fields 4 (withSteps (s.choices + 13440 + l) 3 1 b.published))))
    ++ ((s.units e 6).map fun l =>
      let b := tget Bank.reset s.primer.banks l
      (pubKey 6 l, snapRecord 4 6 e b.final l b.publishedSeq (fields 6 b.published)))

/-- The records of the trace units. -/
def State.traceSnap (s : State) : List (Nat × List Byte) :=
  (List.range 4).map fun d => (pubKey 0x0D d, snapRecord 5 0x0D 0xFF false d 0 (fields 4 (tget [] s.obs.published (pubKey 0x0D d))))

/-- `counter_snapshot` assembled anew under `snapshot_select`. -/
def State.assemble (s : State) : List Byte :=
  let sel := policy s 0xA000 4
  let recs := if sel = 0xFF then (List.range 64).flatMap s.easelSnap ++ s.traceSnap else s.easelSnap sel
  let sorted := recs.foldl (fun l r => insertSnap r.1 r.2 l) []
  leBytes 4 0x504E5351 ++ leBytes 2 0x0100 ++ leBytes 1 sel ++ leBytes 1 0 ++ leBytes 4 recs.length ++ List.replicate 20 0
    ++ sorted.flatMap (·.2)

end Sys2Proof.Machine
end

