-- ==== Sys2Proof/Machine/HostIf.lean ====
section
/-! DEFINITION. The host interface (R395 to R411): BAR0 registers, doorbells, queue control, the BAR2 window, MSI-X holdoff,
and the link coming up and going down. -/

namespace Sys2Proof.Machine

/-! ### Functions -/

/-- A function that exists: PF0, or a VF that is enabled (R58). -/
def State.functionOn (s : State) (f : Nat) : Bool := f = 0 || decide (f ≤ s.host.numVfs)

/-- A function that answers the host: the link is up, and its BARs can be set, for configuration requests succeed (R441). -/
def State.answers (s : State) (f : Nat) : Bool := s.host.linkUp && s.power.vbusState = 2 && s.functionOn f

/-- A function whose BARs the host reaches: it answers and is in D0 (R412). -/
def State.reachable (s : State) (f : Nat) : Bool := s.answers f && !s.host.d3hot.contains f

/-- An Unsupported Request counted (Table 15-10). -/
def State.unsupported (s : State) : State := { s with host := { s.host with urCount := s.host.urCount + 1 } }

/-- A BAR0 access of a function (R412): answered as an Unsupported Request in D3hot, and never arrived where the link is down or the
function is not enabled. -/
def State.atBar0 (s : State) (f : Nat) (go : State → State) : State :=
  if s.reachable f then go s else if s.answers f then s.unsupported else s

/-- Whether an easel holds the queue of a number: one of its command queues, or its event queue (R41, R42). -/
def State.ownsQueue (s : State) (e q : Nat) : Bool :=
  if q = 32 then (s.easel e).mode != .free
  else (s.held e 8).any fun x => decide (x.place ≤ q) && decide (q < x.place + x.count)

/-! ### Queue control (R399) -/

/-- Ring bytes of a queue: 128 for a descriptor, 32 for a record. -/
def ringBytes (q size : Nat) : Nat := (if q = 32 then 32 else 128) * size

/-- A legal ring size: a power of two from 64 to 65,536. -/
def sizeLegal (n : Nat) : Bool := (List.range 11).any fun k => n = 64 * 2 ^ k

/-- The enabled queues of an easel, the event queue among them. -/
def State.enabledQueues (s : State) (e : Nat) : List Nat := (List.range 33).filter fun q => s.ownsQueue e q && ((s.easel e).queueAt q).enable

/-- Whether setting enable of a queue takes effect. -/
def State.enableLegal (s : State) (e q : Nat) (u : Queue) : Bool :=
  sizeLegal u.size && u.base % 4096 = 0
    && (s.enabledQueues e).all (fun p => p = q || ((s.easel e).queueAt p).vector != u.vector)
    && (!u.inEasel || s.mapped e u.base (ringBytes q u.size)) && (q = 32 || s.bound e)

/-- A CONTROL value written: location, irq and vector (Table 15-4); location and vector only while enable is 0. -/
def Queue.control (u : Queue) (v : Nat) : Queue :=
  if u.enable then { u with irq := v.testBit 2 } else { u with irq := v.testBit 2, inEasel := v.testBit 1, vector := fld v 16 11 }

/-- Enable set from 0 to 1. -/
def Queue.start (u : Queue) : Queue :=
  { u with enable := true, head := 0, tail := 0, completed := 0, state := 1, cause := 0, inHoldoff := false, covered := false }

/-- Enable cleared: descriptors not yet taken are gone. -/
def Queue.stop (u : Queue) : Queue := { u with enable := false, state := 0, cause := 0 }

/-- A write of CONTROL of queue `q` (32 for event control). -/
def State.writeControl (s : State) (e q v : Nat) : State :=
  if !s.ownsQueue e q then s
  else
    let x := s.easel e
    let u := (x.queueAt q).control v
    if v.testBit 0 then
      if u.enable then s.setEasel e (x.setQueue q u)
      else if s.enableLegal e q u then
        let s := s.setEasel e (x.setQueue q u.start)
        if q = 32 then (s.onEasel e fun x => { x with lost := 0 }).flush e else s
      else s.setEasel e (x.setQueue q u)
    else s.setEasel e (x.setQueue q u.stop)

/-- QUEUE_ENABLE (R399): a CONTROL write with enable 1. -/
def execQueueEnable (f q value : Nat) (s : State) : Host.Outcome State Fault Refusal :=
  .next (s.atBar0 f fun s => if value.testBit 0 then s.writeControl f q value else s)

/-- QUEUE_DISABLE (R399): a CONTROL write with enable 0. -/
def execQueueDisable (f q value : Nat) (s : State) : Host.Outcome State Fault Refusal :=
  .next (s.atBar0 f fun s => if value.testBit 0 then s else s.writeControl f q value)

/-! ### Doorbells (R400, R401, R407) -/

/-- Free-running difference of two counts. -/
def since (a b : Nat) : Nat := (a + 2 ^ 32 - b % 2 ^ 32) % 2 ^ 32

/-- A doorbell discarded is counted (Table 15-10). -/
def State.rejectDoorbell (s : State) : State := { s with host := { s.host with doorbellsRejected := s.host.doorbellsRejected + 1 } }

/-- A doorbell outside the rule: the queue stops and QUEUE_OVERRUN is raised (R400). -/
def State.overrun (s : State) (e q d : Nat) : State :=
  let s := s.rejectDoorbell.onEasel e fun x => x.setQueue q { x.queueAt q with state := 3, cause := 0x02 }
  s.report 0x0102 e 0x01 (queueUnit e q) d 1

/-- DOORBELL (R400): the new tail of command queue `q`. -/
def State.doorbell (s : State) (e q d : Nat) : State :=
  let u := (s.easel e).queueAt q
  if !s.ownsQueue e q then s
  else if !u.enable || u.state = 3 || !s.bound e then s.rejectDoorbell
  else if since d u.head ≤ u.size ∧ since d u.tail ≤ u.size then
    s.onEasel e fun x => x.setQueue q { u with tail := d % 2 ^ 32, state := waitState u.head (d % 2 ^ 32) }
  else s.overrun e q d

/-- EVENT_DOORBELL (R407): the head moves towards the tail (DEDUCED reading of R400's rule, log entry 47); room returns. -/
def State.eventDoorbell (s : State) (e d : Nat) : State :=
  let u := (s.easel e).events
  if (s.easel e).mode = .free then s
  else if !u.enable || u.state = 3 then s.rejectDoorbell
  else if since u.tail d ≤ u.size ∧ since d u.head ≤ u.size then
    (s.onEasel e fun x => { x with events := { u with head := d % 2 ^ 32 } }).flush e
  else s.overrun e 32 d

/-- A doorbell of command queue `q`, or of the event queue as 32, in effect. -/
def State.applyDoorbell (s : State) (e q d : Nat) : State := if q = 32 then s.eventDoorbell e d else s.doorbell e q d

/-- A doorbell as it arrives (R401): it waits while an earlier BAR2 write of the function has not landed. -/
def State.ring (s : State) (f q d : Nat) : State :=
  if (s.asked (.bar2 f true)).isSome then { s with host := { s.host with doorbells := s.host.doorbells ++ [(f, q, d)] } }
  else s.applyDoorbell f q d

/-- The doorbells of a function that waited for its BAR2 write, in order of arrival. -/
def State.ringHeld (s : State) (f : Nat) : State :=
  (s.host.doorbells.filter (·.1 = f)).foldl (fun (s : State) x => s.applyDoorbell f x.2.1 x.2.2)
    { s with host := { s.host with doorbells := s.host.doorbells.filter (·.1 != f) } }

/-- DOORBELL (R400): of a command queue. -/
def execDoorbell (f q value : Nat) (s : State) : Host.Outcome State Fault Refusal :=
  .next (s.atBar0 f fun s => if q < 32 then s.ring f q value else s)

/-- EVENT_DOORBELL (R407). -/
def execEventDoorbell (f value : Nat) (s : State) : Host.Outcome State Fault Refusal :=
  .next (s.atBar0 f fun s => s.ring f 32 value)

/-! ### BAR0 registers (R398) -/

/-- The low (0) or high (1) 32 bits of a 64-bit register replaced. -/
def half64 (old hi v : Nat) : Nat := if hi = 0 then old / 2 ^ 32 * 2 ^ 32 + v % 2 ^ 32 else old % 2 ^ 32 + v % 2 ^ 32 * 2 ^ 32

/-- A pending message sent (R409): the entry is unmasked and an enabled queue with irq names it. -/
def State.sendPending (s : State) (e v : Nat) : State :=
  let m := (s.easel e).vectorAt v
  let named := (s.enabledQueues e).any fun q => let u := (s.easel e).queueAt q; u.irq && u.vector = v
  if m.pending && !m.masked && named && s.host.linkUp then
    (s.onEasel e fun x => { x with msix := tset x.msix v { m with pending := false } }).emit (.msix e v)
  else s

/-- An MSI-X table word (R409). -/
def State.writeMsix (s : State) (e v word val : Nat) : State :=
  let m := (s.easel e).vectorAt v
  let m' := match word with
    | 0 => { m with address := half64 m.address 0 val }
    | 1 => { m with address := half64 m.address 1 val }
    | 2 => { m with data := val % 2 ^ 32 }
    | _ => { m with masked := val.testBit 0 }
  (s.onEasel e fun x => { x with msix := tset x.msix v m' }).sendPending e v

/-- A word of a queue's register block, at its offset in Table 15-4. -/
def State.writeQueueReg (s : State) (e q off v : Nat) : State :=
  if !s.ownsQueue e q then s
  else
    let u := (s.easel e).queueAt q
    let put := fun (u : Queue) => s.onEasel e fun x => x.setQueue q u
    match off with
    | 0x00 => if u.enable then s else put { u with base := half64 u.base 0 v }
    | 0x04 => if u.enable then s else put { u with base := half64 u.base 1 v }
    | 0x08 => if u.enable then s else put { u with size := v % 2 ^ 32 }
    | 0x0C => s.writeControl e q v
    | 0x1C => if v % 65536 ≤ 1000 then put { u with holdoff := v % 65536 } else s
    | _ => s

/-- A 32-bit write to BAR0 of an easel's function (Tables 15-2 to 15-4). -/
def State.writeBar0 (s : State) (e off v : Nat) : State :=
  if off < 0x100 then
    match off with
    | 0x18 => s.onEasel e fun x => { x with windowBase := half64 x.windowBase 0 v / 2097152 * 2097152 }
    | 0x1C => s.onEasel e fun x => { x with windowBase := half64 x.windowBase 1 (v % 65536) }
    | 0x20 => s.writeQueueReg e 32 0x00 v
    | 0x24 => s.writeQueueReg e 32 0x04 v
    | 0x28 => s.writeQueueReg e 32 0x08 v
    | 0x2C => s.writeQueueReg e 32 0x0C v
    | 0x3C => s.writeQueueReg e 32 0x1C v
    | _ => s
  else if 0x1000 ≤ off ∧ off < 0x3000 then s.writeQueueReg e (off / 0x100 - 0x10) (off % 0x100) v
  else if 0x100000 ≤ off ∧ off < 0x120000 ∧ off % 0x1000 = 0 then s.ring e (off / 0x1000 - 0x100) v
  else if off = 0x120000 then s.ring e 32 v
  else if 0x200000 ≤ off ∧ off < 0x208000 then s.writeMsix e ((off - 0x200000) / 16) (off % 16 / 4) v
  else s

/-- REGISTER_WRITE (R398): 32-bit or 64-bit aligned words; any other access is discarded. A 64-bit write is its two words, the
low one first. -/
def execRegisterWrite (f offset size value : Nat) (s : State) : Host.Outcome State Fault Refusal :=
  .next (s.atBar0 f fun s =>
    if size = 4 ∧ offset % 4 = 0 then s.writeBar0 f offset (value % 2 ^ 32)
    else if size = 8 ∧ offset % 8 = 0 then
      (s.writeBar0 f offset (value % 2 ^ 32)).writeBar0 f (offset + 4) (value / 2 ^ 32 % 2 ^ 32)
    else s)

/-! ### The BAR2 window (R410, R411) -/

/-- Whether a BAR2 access reaches memory. -/
def State.bar2Ok (s : State) (f offset n : Nat) : Bool :=
  decide (offset + n ≤ 2 ^ 38) && s.mapped f ((s.easel f).windowBase + offset) n

/-- What the codes found under a BAR2 read: `errs` by offset into the read (requester 2, R269). -/
def State.bar2Errors (s : State) (e va : Nat) (errs : List (Nat × MemErr)) (n : Nat) : State :=
  errs.foldl (fun s x =>
    if x.1 < n then
      match s.translate e (va + x.1) with
      | some a => s.readError e a 1 (va + x.1) 2 0 (s.easel e).lastSeq x.2
      | none => s
    else s) s

/-- The bytes a BAR2 read answers: all ones for a poisoned line, and whether there is one (the EP bit). -/
def State.bar2Bytes (s : State) (e va n : Nat) : List Byte × Bool :=
  (piecesOf 64 va n).foldl (fun (r : List Byte × Bool) p =>
    if s.poisonedVa e (p.1 / 64 * 64) 64 then (r.1 ++ List.replicate p.2 0xFF, true)
    else (r.1 ++ (s.readVa e p.1 p.2).getD [], r.2)) ([], false)

/-- A BAR2 access of easel `e` as the arbiters see it (R265, R410): slack 8,192, from base die 0 (R15, Table 1-2), through the window's
translation cache (R249). -/
def State.bar2Access (s : State) (e : Nat) (write : Bool) (va n : Nat) (go : State → State) : State :=
  s.atArbiters (.bar2 e write) 8192 (s.arbsVa 0 e va n) fun s => go (s.useTranslation 32 e va n)

/-- What a BAR2 read answers: its bytes, with the EP bit where a line is poisoned. -/
def State.bar2Answer (s : State) (e va n : Nat) (errs : List (Nat × MemErr)) : State :=
  let s := s.bar2Errors e va errs n
  let r := s.bar2Bytes e va n
  s.emit (.barRead e (if r.2 then 2 else 0) r.1)

/-- BAR2_READ: completion status 0 success, 1 Unsupported Request, 2 success with the EP bit (the model's own code). -/
def execBar2Read (f offset length : Nat) (errs : List (Nat × MemErr)) (s : State) : Host.Outcome State Fault Refusal :=
  if !s.answers f then .next s
  else if s.host.d3hot.contains f || !s.bar2Ok f offset length then .next (s.unsupported.emit (.barRead f 1 []))
  else
    let va := (s.easel f).windowBase + offset
    .next (s.bar2Access f false va length fun s => s.bar2Answer f va length errs)

/-- Bytes written through the window, line by line: a poisoned line that the write covers only in part stays poisoned. -/
def State.bar2Store (s : State) (e va : Nat) (bs : List Byte) : State :=
  let lines := if s.poison.isEmpty then [] else
    (piecesOf 64 va bs.length).filter fun p => p.2 != 64 && s.poisonedVa e (p.1 / 64 * 64) 64
  lines.foldl (fun s p => match s.translate e (p.1 / 64 * 64) with | some a => s.setPoison a 64 | none => s) (s.writeVa e va bs)

/-- BAR2_WRITE. As it lands, doorbells that waited for it take effect (R401). -/
def execBar2Write (f offset : Nat) (bytes : List Byte) (s : State) : Host.Outcome State Fault Refusal :=
  if !s.answers f then .next s
  else if s.host.d3hot.contains f || !s.bar2Ok f offset bytes.length then .next s.unsupported
  else
    let va := (s.easel f).windowBase + offset
    .next (s.bar2Access f true va bytes.length fun s => (s.bar2Store f va bytes).ringHeld f)

/-! ### Holdoff, link and power state (R409, R408, R412) -/

/-- MSIX_HOLDOFF_EXPIRY (R409): the interval of a queue's vector ends; a record written in it is covered by a message now. -/
def execMsixHoldoffExpiry (f q : Nat) (s : State) : Host.Outcome State Fault Refusal :=
  let u := (s.easel f).queueAt q
  if !u.inHoldoff then .next s
  else
    let s' := s.onEasel f fun x => x.setQueue q { u with inHoldoff := false, covered := false }
    .next (if u.covered then s'.fireVector f q else s')

/-- PCIE_LINK_DOWN (R412): everything runs on; records for rings in host memory are held (R408). -/
def execPcieLinkDown (s : State) : Host.Outcome State Fault Refusal :=
  .next { s with host := { s.host with linkUp := false, generation := 0, width := 0 } }

/-- Held records and pending messages of every easel leave once the link is back. -/
def State.linkBack (s : State) : State :=
  (List.range 64).foldl (fun s e =>
    let s := s.flush e
    (((s.easel e).msix.map (·.1)).foldl (fun s v => s.sendPending e v) s)) s

/-- PCIE_LINK_UP (R408, R441): the link trains once the reference clock is there and PERST_N is deasserted, at most at
`pcie_max_gen`. -/
def execPcieLinkUp (generation width : Nat) (s : State) : Host.Outcome State Fault Refusal :=
  if s.host.perst || !s.power.calibrated || s.host.linkUp then .next s
  else
    .next { s with host := { s.host with linkUp := true, generation := min generation (policy s 0xC000 2), width := width } }.linkBack

/-- D3HOT_ENTRY (R412). -/
def execD3hotEntry (f : Nat) (s : State) : Host.Outcome State Fault Refusal :=
  if s.functionOn f then .next { s with host := { s.host with d3hot := insertSet s.host.d3hot f } } else .next s

end Sys2Proof.Machine
end

