-- ==== Sys2Proof/Machine/Values.lean ====
section
/-! DEFINITION. What the dictionary's read-only and assembled entries read as (Tables 2-7, 6-9, 10-12, 12-11, 13-8, 13-9, 14-8,
15-10, 16-8 to 16-14, 17-14, 18-11). -/

namespace Sys2Proof.Machine

/-! ### Numbers -/

/-- FP32 of n / 1000, rounded to nearest even: readings in thousandths (Tables 16-11, 17-3). -/
def milliF32 (n : Nat) : Nat :=
  if n = 0 then 0
  else
    let m := n * 2 ^ 40
    let sh := log2 (m / 1000) - 23
    let d := 1000 * 2 ^ sh
    let q := m / d
    let r := m % d
    let q := if d < 2 * r || (2 * r = d && q % 2 = 1) then q + 1 else q
    -- a carry out of the mantissa raises the exponent by itself
    (sh + 23 + 127 - 40) * 2 ^ 23 + (q - 2 ^ 23)

def u32s (l : List Nat) : List Byte := l.flatMap (leBytes 4)
def u64s (l : List Nat) : List Byte := l.flatMap (leBytes 8)

/-- Counts 0 to n - 1 of a table. -/
def tabList (n : Nat) (t : Tab Nat) : List Nat := (List.range n).map fun i => tget 0 t i

/-! ### Easels and binding -/

/-- `easel_state` (Table 2-2). -/
def modeCode : EaselMode → Nat
  | .free => 0 | .binding => 1 | .bound => 2 | .draining => 3 | .clearing => 4 | .faulted => 5

/-- Whether placements continue in a class (Table 16-18). -/
def placed (cls : Nat) : Bool := cls = 2 || cls = 3 || cls = 8

/-- Maximal runs of consecutive units, and of consecutive placements where the class has them (Table 16-18). -/
def mergeRuns : List Extent → List Extent
  | [] => []
  | x :: t =>
    match mergeRuns t with
    | y :: r =>
      if x.cls = y.cls && x.first + x.count = y.first && (!placed x.cls || x.place + x.count = y.place) then
        { x with count := x.count + y.count } :: r
      else x :: y :: r
    | [] => [x]

/-- `easel_resources`: extents in the layout of Table 2-5. -/
def State.resources (s : State) (e : Nat) : List Byte :=
  (mergeRuns (s.bind.table.filter (·.easel = e))).flatMap fun x =>
    leBytes 4 x.cls ++ leBytes 4 x.first ++ leBytes 4 x.count ++ leBytes 4 (if placed x.cls then x.place else 0)

/-- The role of a tile position (Table 16-12). -/
def State.role (s : State) (n : Nat) : Nat := tget 0 s.bind.roles n

/-- Whether a number is a dense tile number that is bindable (R40): roles 0 and 3. -/
def State.bindable (s : State) (n : Nat) : Bool := decide (n < 1344) && (s.role n = 0 || s.role n = 3)

/-- `bindable_tiles` (R387). -/
def State.bindableTiles (s : State) : Nat := 1344 - (s.bind.roles.filter fun r => !(r.2 = 0 || r.2 = 3)).length

/-- Spares of a compute die. -/
def State.spares (s : State) (die : Nat) : List Nat :=
  (s.bind.roles.filter fun r => r.2 = 1 && r.1 / 168 = die).map (·.1)

/-- `capacity_class` (Table 14-8). -/
def capacityClass (n : Nat) : Nat := if n ≥ 1280 then 0 else if n ≥ 1240 then 1 else if n ≥ 1120 then 2 else 3

/-- Bytes [o, o + n) of `owner_map` of a class: the owning easel of each unit or 0xFF. -/
def State.ownerBytes (s : State) (cls o n : Nat) : List Byte :=
  (span o (min (classSize cls) (o + n))).map fun u =>
    match s.ownerOf cls u with
    | some e => if cls = 1 && s.role u = 2 then 0xFF else BitVec.ofNat 8 e
    | none => 0xFF

/-! ### BAR0 (R398, R399) -/

/-- Fields of one bit and more, each at its place, as a word. -/
def word32 (l : List (Nat × Nat)) : Nat := (l.foldl (fun n x => n + x.1 * 2 ^ x.2) 0) % 2 ^ 32

/-- CONTROL (Table 15-4). -/
def Queue.controlWord (u : Queue) : Nat := word32 [(u.enable.toNat, 0), (u.inEasel.toNat, 1), (u.irq.toNat, 2), (u.vector, 16)]

/-- A register of a command queue (Table 15-4): zero where the easel does not hold the queue, disabled while the easel is not BOUND. -/
def State.readQueueReg (s : State) (e q off : Nat) : Nat :=
  if !s.ownsQueue e q then 0
  else
    let u := (s.easel e).queueAt q
    let u := if s.bound e then u else { u with enable := false, state := 0 }
    match off with
    | 0x00 => u.base % 2 ^ 32
    | 0x04 => u.base / 2 ^ 32
    | 0x08 => u.size
    | 0x0C => u.controlWord
    | 0x10 => u.head
    | 0x14 => u.tail
    | 0x18 => word32 [(u.state, 0), (u.cause, 8)]
    | 0x1C => u.holdoff
    | 0x20 => u.completed % 2 ^ 32
    | 0x24 => u.completed / 2 ^ 32 % 2 ^ 32
    | _ => 0

/-- A function register (Table 15-3). -/
def State.readFunctionReg (s : State) (e off : Nat) : Nat :=
  let x := s.easel e
  match off with
  | 0x00 => word32 [(e, 0), (0x0100, 16)]
  | 0x08 => modeCode x.mode
  | 0x10 => x.lastSeq % 2 ^ 32
  | 0x14 => x.lastSeq / 2 ^ 32 % 2 ^ 16
  | 0x18 => x.windowBase % 2 ^ 32
  | 0x1C => x.windowBase / 2 ^ 32
  | 0x20 => x.events.base % 2 ^ 32
  | 0x24 => x.events.base / 2 ^ 32
  | 0x28 => x.events.size
  | 0x2C => x.events.controlWord
  | 0x30 => x.events.tail
  | 0x34 => x.events.head
  | 0x38 => x.lost
  | 0x3C => x.events.holdoff
  | _ => 0

/-- A word of the MSI-X table (Table 15-2). -/
def MsixEntry.word (m : MsixEntry) : Nat → Nat
  | 0 => m.address % 2 ^ 32
  | 1 => m.address / 2 ^ 32
  | 2 => m.data
  | _ => m.masked.toNat

/-- What a 32-bit aligned read of BAR0 answers (Tables 15-2 to 15-4): zero at a reserved offset. The doorbell pages
read as the value they hold, the tail or the event head. No row of the opcode table is a BAR0 read. -/
def State.readBar0 (s : State) (e off : Nat) : Nat :=
  if off < 0x100 then s.readFunctionReg e off
  else if 0x1000 ≤ off ∧ off < 0x3000 then s.readQueueReg e (off / 0x100 - 0x10) (off % 0x100)
  else if 0x100000 ≤ off ∧ off < 0x120000 ∧ off % 0x1000 = 0 then s.readQueueReg e (off / 0x1000 - 0x100) 0x14
  else if off = 0x120000 then (s.easel e).events.head
  else if 0x200000 ≤ off ∧ off < 0x208000 then ((s.easel e).vectorAt ((off - 0x200000) / 16)).word (off % 16 / 4)
  else if 0x210000 ≤ off ∧ off < 0x210100 then
    word32 ((List.range 32).map fun i => (((s.easel e).vectorAt ((off - 0x210000) * 8 + i)).pending.toNat, i))
  else 0

/-! ### Management -/

def transportCode : Transport → Nat
  | .t1s => 1 | .pcie => 2 | .i3c => Sys2Proof.Config.freeCode 0

def roleCode : Role → Nat
  | .owner => Sys2Proof.Config.freeCode 1 | _ => Sys2Proof.Config.freeCode 2

/-- `sessions` (Table 16-9): the open ones. -/
def State.sessionBytes (s : State) : List Byte :=
  (s.dict.sessions.filter (·.finished)).flatMap fun x =>
    leBytes 1 (transportCode x.transport) ++ leBytes 1 (roleCode x.role) ++ leBytes 2 0 ++ leBytes 1 x.slot ++ leBytes 3 0
      ++ leBytes 8 x.requester

/-- `key_slots` (Table 16-18). -/
def State.keySlotBytes (s : State) : List Byte :=
  (List.range 16).flatMap fun i =>
    let k := tget (0, [], []) s.trust.keySlots i
    leBytes 8 k.1 ++ bytesAt k.2.1 0 32

/-- The image a firmware slot holds. -/
def Trust.image (x : Trust) (slot : Nat) : Option FwImage := if slot = 0 then x.fwA else x.fwB

/-- `fw_version`. -/
def State.fwVersion (s : State) : List Byte :=
  match s.trust.image s.trust.runningSlot with
  | some i => bytesAt (Sys2Proof.Config.fwVersion i.digest) 0 32
  | none => List.replicate 32 0

/-- `port_state` (Table 13-8). -/
def State.portStates (s : State) : List Byte :=
  (List.range 64).map fun p => BitVec.ofNat 8 (tget Port.reset s.fabric.ports p).state

/-- The physical lane of a port's lane number: 0 to 3 and the spare as 4; of a ganged pair 0 to 7 and the spare as 8 (R326). -/
def physLane (ganged : Bool) (l : Nat) : Nat := if ganged then (if l = 8 then 4 else l % 4) else l

/-- `lane_map`: the physical lane of each active lane; the second four of a ganged port stand at its partner (log entry 58). -/
def State.laneMap (s : State) : List Byte :=
  (List.range 64).flatMap fun p =>
    let x := tget Port.reset s.fabric.ports p
    let g := tget Port.reset s.fabric.ports (p - p % 2)
    let l := if x.state = 5 then g.lanes.drop 4 else x.lanes
    (List.range 4).map fun i => match l[i]? with | some l => BitVec.ofNat 8 (physLane g.ganged l) | none => 0xFF

/-- `port_stats`, from the ports' publications (R463). -/
def State.portStats (s : State) : List Byte :=
  (List.range 64).flatMap fun p => u64s (padded 8 (tget [] s.obs.published (pubKey 0x08 p)))

/-- `verdict_last` (Table 6-9). -/
def Easel.verdictLast (x : Easel) : Nat := x.verdictStep % 2 ^ 48 + x.verdictSkipped.toNat * 2 ^ 63

/-- `retired_units`: class, unit index and training step in 16 bytes (DEDUCED layout, log entry 48). -/
def State.retiredBytes (s : State) : List Byte :=
  s.bind.retired.flatMap fun r => leBytes 4 r.1 ++ leBytes 4 r.2.1 ++ leBytes 8 r.2.2

/-! ### The identity record (R449, Table 17-10) -/

/-- A die entry's byte at offset `o` of it, of die `k`: kind, number, a site of its kind (R482), then what manufacture wrote. -/
def dieEntryByte (k o : Nat) : Byte :=
  let made := Sys2Proof.Config.identityByte (128 + 32 * k + o)
  if o = 0 then (if k < 4 then 0 else 1)
  else if o = 1 then BitVec.ofNat 8 (if k < 4 then k else k - 4)
  else if o = 2 then BitVec.ofNat 8 (if k < 4 then made.toNat % 4 else 4 + made.toNat % 8)
  else if o < 21 then made else 0

/-- The length of the record's signature. -/
def identitySignature : Nat := 1 + (at8 [Sys2Proof.Config.identityByte 512, Sys2Proof.Config.identityByte 513] 0 2) % 2044

/-- Byte `o` of the signature block (R81): the length, key slot 0xFF for Quelum's key, a reserved byte, the signature, zeros. -/
def identitySignatureByte (o : Nat) : Byte :=
  if o < 2 then (leBytes 2 identitySignature).getD o 0
  else if o = 2 then 0xFF
  else if o = 3 then 0
  else if o < 4 + identitySignature then Sys2Proof.Config.identityByte (512 + o) else 0

/-- The identity record: magic, version and die count; serial number, lot and MAC address; the digest of the device identity public key; the
die entries; the signature block. -/
def identityRecord : List Byte :=
  leBytes 4 0x52444951 ++ leBytes 2 0x0100 ++ [12, 0] ++ (span 8 38).map Sys2Proof.Config.identityByte ++ [0, 0]
    ++ shake256 ((List.range 1793).map Sys2Proof.Config.deviceKey) ++ List.replicate 56 0
    ++ (List.range 384).map (fun i => dieEntryByte (i / 32) (i % 32)) ++ (List.range 2048).map identitySignatureByte

/-- `mac_address`: the management MAC address of the identity record. -/
def macAddress : Nat := at8 ((span 32 38).map Sys2Proof.Config.identityByte) 0 6

/-! ### Values -/

/-- What a read-only entry of an easel's ranges reads as. -/
def State.easelValue (s : State) (base e sub : Nat) : List Byte :=
  let x := s.easel e
  match base, sub with
  | 0x3000, 1 => leBytes 1 (modeCode x.mode)
  | 0x3000, 5 => leBytes 4 x.keyEpoch
  | 0x3000, 6 => leBytes 8 x.lastSeq
  | 0x3000, 7 => leBytes 1 x.sheet
  | 0x3000, 8 => s.resources e
  | 0x7040, 4 => u64s (padded 7 (tget [] s.obs.published (pubKey 0x06 e)))
  | 0x7040, 5 => leBytes 4 (tget (0, 0) s.primer.nextSkip e).2
  | 0x7040, 6 => leBytes 8 (tget 0 s.primer.nextOrdinal e)
  | 0x8040, 2 => leBytes 4 (ofSigned 32 x.lossExp)
  | 0x8040, 4 => leBytes 4 x.clean
  | 0x8040, 6 => leBytes 8 x.verdictLast
  | 0x8040, 7 => leBytes 8 x.skippedSteps
  | 0x9040, 0x0B => leBytes 4 x.estimate
  | 0x9040, 0x0C => u64s (padded 3 x.ckptLast)
  | 0x9040, 0x0D => leBytes 8 (x.lastApplied % 2 ^ 48 + x.select * 2 ^ 48)
  | 0x9040, 0x0E => leBytes 8 ((tget [] s.obs.published (pubKey 0x09 e)).getD 3 0)
  | 0x9040, 0x0F => u64s (padded 3 (tget [] s.obs.published (pubKey 0x09 e)))
  | _, _ => []

/-- What a read-only entry of the Curator's own ranges reads as. -/
def State.curatorValue (s : State) (index sub : Nat) : List Byte :=
  match index, sub with
  | 0x1000, 4 => s.fwVersion
  | 0x1000, 5 => leBytes 1 s.trust.runningSlot
  | 0x1000, 6 => leBytes 4 s.trust.configVersion
  | 0x1000, 7 => identityRecord
  | 0x1000, 8 => leBytes 8 macAddress
  | 0x1100, 8 => u64s (padded 8 s.dict.stats)
  | 0x1100, 9 => s.sessionBytes
  | 0x1800, 2 => s.keySlotBytes
  | 0x1800, 5 => Sys2Proof.Config.deviceCert.take 65535
  | 0x1800, 6 => leBytes 8 s.trust.authFailures
  | 0x1800, 7 => (List.range 32).map (Sys2Proof.Config.nonceByte s.trust.nonceCount)
  | 0x1800, 0x0B => leBytes 4 s.trust.minSec
  | 0x2000, 4 => leBytes 2 s.power.coreMv
  | 0x2000, 5 => leBytes 4 s.power.stepRate
  | 0x2000, 6 => leBytes 4 s.power.packagePower
  | 0x2000, 7 => u32s (padded 12 s.power.dieTemps)
  | 0x2000, 8 => u32s (padded 4 s.power.supplyReadings)
  | 0x2000, 9 => leBytes 8 s.power.supplyFaults
  | 0x2000, 0x0A => leBytes 1 s.power.vbusState
  | 0x2000, 0x0C => u32s (padded 14 s.power.startTimes)
  | 0x2000, 0x0D => leBytes 8 s.power.thermalTrips
  | 0x3100, 3 => leBytes 4 s.bind.status
  | 0x4000, 1 => (List.range 1344).map fun n => BitVec.ofNat 8 (s.role n)
  | 0x4000, 2 => (List.range 8).map fun d => BitVec.ofNat 8 (s.spares d).length
  | 0x4000, 4 => leBytes 4 s.bind.selftest
  | 0x9000, 1 => leBytes 2 s.bindableTiles
  | 0x9000, 2 => leBytes 1 (capacityClass s.bindableTiles)
  | 0x9000, 3 => s.retiredBytes
  | 0x9000, 5 => (padded 4 s.tiers.flashWear).map (BitVec.ofNat 8)
  | 0xA000, 1 => leBytes 8 s.dict.missed
  | 0xB000, 4 => s.obs.sketch
  | _, _ => []

/-- What a read-only entry of the control and data planes reads as. -/
def State.planeValue (s : State) (index sub : Nat) : List Byte :=
  match index, sub with
  | 0x5000, 1 => u64s ((List.range 32).map fun i => (tget [] s.obs.published (pubKey 0x07 i)).getD 0 0)
  | 0x5000, 2 => u64s ((List.range 32).map fun i => (tget [] s.obs.published (pubKey 0x07 i)).getD 1 0)
  | 0x5000, 3 =>
    let count := fun (d i : Nat) => (tget [] s.obs.published (pubKey 0x07 (32 + d))).getD i 0
    u64s ((List.range 4).map (count · 0) ++ (List.range 8).map fun k => count (k / 2) (1 + k % 2))
  | 0x5000, 8 => leBytes 8 (((List.range 33).map fun i => (tget [] s.obs.published (pubKey 0x05 i)).getD 0 0).foldl (addSat (2 ^ 64 - 1)) 0)
  | 0x6000, 2 => s.portStates
  | 0x6000, 6 => s.laneMap
  | 0x6000, 7 => s.portStats
  | 0xA000, 2 => u64s ((List.range 64).map fun e => (s.easel e).ticketDups)
  | 0xA000, 3 => s.obs.snapshot
  | 0xA000, 5 => u64s ((List.range 4).map fun d => (tget [] s.obs.published (pubKey 0x0D d)).getD 1 0)
  | 0xC000, 1 => leBytes 8 (Sys2Proof.Config.vendorId % 65536 + 0x1280 * 2 ^ 16 + 0x1281 * 2 ^ 32)
  | 0xC000, 3 => leBytes 2 (s.host.generation + s.host.width * 256)
  | 0xC000, 4 => u64s [0, 0, 0, s.host.urCount]
  | 0xC000, 5 => leBytes 8 s.host.doorbellsRejected
  | _, _ =>
    if 0x7040 ≤ index ∧ index < 0x7080 then s.easelValue 0x7040 (index - 0x7040) sub
    else if 0x8040 ≤ index ∧ index < 0x8080 then s.easelValue 0x8040 (index - 0x8040) sub
    else if 0x9040 ≤ index ∧ index < 0x9080 then s.easelValue 0x9040 (index - 0x9040) sub
    else if 0x6110 ≤ index ∧ index < 0x6120 then leBytes 8 (tget 0 s.fabric.masks (index - 0x6110))
    else []

/-- Whether an index lies in a range of the control and data planes. -/
def planeIndex (i : Nat) : Bool :=
  i = 0x5000 || i = 0x6000 || (decide (0x6110 ≤ i) && decide (i < 0x6120)) || (decide (0x7040 ≤ i) && decide (i < 0x7080))
    || (decide (0x8040 ≤ i) && decide (i < 0x8080)) || (decide (0x9040 ≤ i) && decide (i < 0x9080)) || i = 0xA000 || i = 0xC000

/-- What a read-only entry reads as; with VBUS away the planes' entries read as they stood (R432). -/
def State.readOnly (s : State) (index sub : Nat) (dflt : List Byte) : List Byte :=
  if planeIndex index && !(index = 0xA000 && sub = 1) && !(index = 0xC000 && sub = 1) then
    (if s.power.vbusState = 2 then s.planeValue index sub
     -- an easel that nothing had touched stood at its reset values when VBUS was lost, and still does
     else tget (if s.dict.frozen.isEmpty then dflt else s.planeValue index sub) s.dict.frozen (index * 256 + sub))
  else if 0x3000 ≤ index ∧ index < 0x3040 then s.easelValue 0x3000 (index - 0x3000) sub
  else if index = 0xC000 then s.planeValue index sub
  else s.curatorValue index sub

/-- The planes' read-only entries kept at the moment VBUS is lost (R432). -/
def State.freeze (s : State) : State :=
  let subs := fun (i : Nat) =>
    if i = 0x5000 then [1, 2, 3, 8] else if i = 0x6000 then [2, 6, 7] else if i = 0xA000 then [2, 3, 5]
    else if i = 0xC000 then [3, 4, 5] else if 0x6110 ≤ i ∧ i < 0x6120 then [5] else if i < 0x7080 then [4, 5, 6]
    else if i < 0x8080 then [2, 4, 6, 7] else [0x0B, 0x0C, 0x0D, 0x0E, 0x0F]
  let own := (s.easels.map (·.1)).flatMap fun e => [0x7040 + e, 0x8040 + e, 0x9040 + e]
  let all := [0x5000, 0x6000, 0xA000, 0xC000] ++ span 0x6110 0x6120 ++ own
  let f := all.foldl (fun f i => (subs i).foldl (fun f b => tset f (i * 256 + b) (s.planeValue i b)) f) ([] : Tab (List Byte))
  { s with dict := { s.dict with frozen := f } }

/-- A constant read-only entry: its value is its default (identity texts, `mgmt_port`). -/
def constantEntry (index sub : Nat) : Bool := (index = 0x1000 && decide (sub ≤ 3)) || (index = 0x1100 && sub = 1)

/-- The value of an entry (R419): written or default, or what a read-only one stands for. -/
def State.value (s : State) (index sub : Nat) : List Byte :=
  match entry index sub with
  | some x =>
    if x.access = 1 && !constantEntry index sub then s.readOnly index sub x.dflt
    else if x.ty = 0x0A then written s.dict index sub
    else bytesAt (written s.dict index sub) 0 x.size
  | none => []

end Sys2Proof.Machine
end

