-- ==== Sys2Proof/Machine/Dict.lean ====
section
/-! DEFINITION. The object dictionary's messages (R415 to R433): framing, roles, the order of checks, values, BLOB segments,
remembered transactions, responses and notices. -/

namespace Sys2Proof.Machine

/-! ### The message (R423, Table 16-3) -/

def mOp (m : Msg) : Nat := at8 m.bytes 1 1
def mTransaction (m : Msg) : Nat := at8 m.bytes 2 2
def mIndex (m : Msg) : Nat := at8 m.bytes 4 2
def mSub (m : Msg) : Nat := at8 m.bytes 6 1
def mOffset (m : Msg) : Nat := at8 m.bytes 8 4
def mLength (m : Msg) : Nat := at8 m.bytes 12 2
def mLast (m : Msg) : Bool := (at8 m.bytes 14 1).testBit 0
def mData (m : Msg) : List Byte := (m.bytes.drop 24).take (mLength m)

/-- The value half of a CU32 write. -/
def mValue (m : Msg) : Nat := at8 (mData m) 0 4

/-- The bitwise complement of the value half agrees (R6, R416). -/
def cu32Ok (d : List Byte) : Bool := at8 d 0 4 + at8 d 4 4 = 0xFFFFFFFF

/-- A message delivered whole, with the length its header states and a right CRC (R424). -/
def msgIntact (m : Msg) : Bool :=
  m.whole && m.bytes.length = 28 + mLength m && at8 m.bytes (24 + mLength m) 4 = crc32c (m.bytes.take (24 + mLength m))

/-- The first FORMAT check of Table 16-5. -/
def formatOk (m : Msg) : Bool :=
  let op := mOp m
  at8 m.bytes 0 1 = 1 && decide (1 ≤ op) && decide (op ≤ 3) && decide (at8 m.bytes 14 2 ≤ 1) && decide (mLength m ≤ 1024)
    && at8 m.bytes 7 1 = 0 && at8 m.bytes 16 4 = 0 && at8 m.bytes 20 4 = 0
    && (op = 2 || mLength m = 0) && (op = 2 || !mLast m) && (op != 3 || mSub m = 0)

/-- A requester as R426 has it: a session where one is open, else an address on a transport. -/
def requesterKey (m : Msg) : Nat :=
  if m.session != 0 then m.session * 4 + 3
  else m.requester * 4 + match m.transport with | .t1s => 0 | .i3c => 1 | .pcie => 2

/-! ### Roles and rights (R417, R418) -/

/-- Whether a transport reaches the Curator (R427 to R429, Table 17-2). -/
def State.transportUp (s : State) (t : Transport) : Bool :=
  s.dict.running && s.power.vaux && match t with
    | .t1s => s.power.mgtClk
    | .i3c => s.power.vio && (s.dict.i3cAddress != 0 || policy s 0x1100 5 != 0)
    | .pcie => s.host.linkUp

/-- The session of a number. -/
def State.session (s : State) (id : Nat) : Option Session := s.dict.sessions.find? fun x => x.id = id && x.finished

/-- The role of a request; none where it names a session that is not open. -/
def State.roleOf (s : State) (m : Msg) : Option Role :=
  if m.session = 0 then some (match m.transport with | .pcie => .owner | _ => .anonymous)
  else match s.session m.session with
    | some x => if x.transport = m.transport then some x.role else none
    | none => none

/-- The entries that recovery opens to every role (R452). -/
def recoveryEntry (index sub : Nat) : Bool := index = 0x1800 && (sub = 8 || sub = 9)

/-- What the anonymous role may read (R418). -/
def anonymousReads (index sub : Nat) : Bool :=
  (decide (0x1000 ≤ index) && decide (index ≤ 0x10FF)) || (index = 0x1100 && sub = 1)

/-- Whether a role is permitted a request, as far as ACCESS goes (Table 16-2; absent entries are judged after it). -/
def State.permitted (s : State) (role : Role) (op index sub : Nat) : Bool :=
  (s.trust.recovery && op = 2 && recoveryEntry index sub) ||
  match role with
  | .owner => true
  | .observer => op != 2 || match entry index sub with | some x => x.access = 1 || x.access = 2 | none => true
  | .anonymous =>
    (op = 1 && anonymousReads index sub) || (op = 3 && ((decide (0x1000 ≤ index) && decide (index ≤ 0x10FF)) || index = 0x1100))

/-- The defined subindexes of an index that a role may list (R418, R425). -/
def listed (role : Role) (index : Nat) : List Nat :=
  (List.range 256).filter fun i => (entry index i).isSome && (match role with | .anonymous => anonymousReads index i | _ => true)

/-- Whether an entry exists for a request (R415): the entry, or for LIST any entry of the index. -/
def present (op index sub : Nat) : Bool :=
  if op = 3 then (List.range 256).any fun i => (entry index i).isSome else (entry index sub).isSome

/-! ### Values at a write (R416, R419) -/

/-- Continuation bytes of UTF-8. -/
def utf8Tail (b : Nat) : Bool := b / 64 = 2

/-- Well-formed UTF-8 text: the shortest form, no surrogate, at most U+10FFFF; `fuel` bounds the characters. -/
def utf8From : Nat → List Nat → Bool
  | _, [] => true
  | 0, _ => false
  | fuel + 1, b :: t =>
    if b < 0x80 then utf8From fuel t
    else match t with
      | c :: t =>
        if 0xC2 ≤ b ∧ b ≤ 0xDF then utf8Tail c && utf8From fuel t
        else match t with
          | d :: t =>
            if 0xE0 ≤ b ∧ b ≤ 0xEF then
              utf8Tail c && utf8Tail d && (b != 0xE0 || decide (0xA0 ≤ c)) && (b != 0xED || decide (c ≤ 0x9F)) && utf8From fuel t
            else match t with
              | e :: t =>
                decide (0xF0 ≤ b) && decide (b ≤ 0xF4) && utf8Tail c && utf8Tail d && utf8Tail e
                  && (b != 0xF0 || decide (0x90 ≤ c)) && (b != 0xF4 || decide (c ≤ 0x8F)) && utf8From fuel t
              | [] => false
          | [] => false
      | [] => false

/-- A STR value: text, then zeros only. -/
def strOk (d : List Byte) : Bool :=
  let text := d.takeWhile (· != 0)
  utf8From text.length (text.map (·.toNat)) && allZero (d.drop text.length)

/-- The cadences of R369 with one replaced: 3 partner, 4 flash, 5 store; those that are not 0 are each a multiple of the
one before. -/
def State.cadencesOk (s : State) (index sub v : Nat) : Bool :=
  let c := fun (k : Nat) => if k = sub then v else policy s index k
  let p := c 3
  let f := c 4
  let g := c 5
  (f = 0 || p = 0 || f % p = 0) && (g = 0 || (if f != 0 then g % f = 0 else p = 0 || g % p = 0))

/-- The ranges that tables state beside plain bounds, and the relations between entries (R419). -/
def State.extraRange (s : State) (index sub v : Nat) : Bool :=
  if index = 0x1100 ∧ sub = 5 then v = 0 || decide (8 ≤ v)
  else if (index = 0x1100 ∧ sub = 7) ∨ (index = 0xB000 ∧ sub = 8) then v % 2 = 0 && decide (v < 4096)
  else if index = 0xA000 ∧ sub = 4 then decide (v < 64) || v = 255
  else if index = 0x5000 ∧ sub = 4 then decide (v ≤ 720)
  else if 0x6110 ≤ index ∧ index < 0x6120 ∧ sub = 1 then decide (policy s index 2 < v)
  else if 0x6110 ≤ index ∧ index < 0x6120 ∧ sub = 2 then decide (v < policy s index 1)
  else if 0x9040 ≤ index ∧ index < 0x9080 ∧ 3 ≤ sub ∧ sub ≤ 5 then s.cadencesOk index sub v
  else true

/-- Whether a value lies in its range. -/
def State.valueOk (s : State) (index sub : Nat) (x : Entry) (d : List Byte) : Bool :=
  if x.ty = 0x09 then strOk d
  else
    let v := leNat d
    let z : Int := if x.ty = 0x06 then toSigned 32 v else if x.ty = 0x07 then toSigned 64 v else v
    decide (x.lo ≤ z) && decide (z ≤ x.hi) && s.extraRange index sub v

/-- Whether the resource that an RWS entry names is unbound (R418). -/
def State.unboundFor (s : State) (index : Nat) : Bool :=
  if index < 0x4000 then
    let e := index - 0x3000
    (s.easel e).mode == .free && !(match s.bind.request with | some r => r.easel = e || (r.op = 3 && r.source = e) | none => false)
  else
    let v := index - 0x6110
    (s.ownerOf 7 v).isNone && !(match s.bind.request with
      | some r => r.extents.any fun x => x.1 = 7 && decide (x.2.1 ≤ v) && decide (v < x.2.1 + x.2.2.1)
      | none => false)

/-- Whether data of a type has its size (TYPE). -/
def sizeOk (x : Entry) (n : Nat) : Bool :=
  if x.ty = 0x0A then true else if x.ty = 0x09 then decide (1 ≤ n) && decide (n ≤ x.size) else n = x.size

/-! ### BLOBs (R421) -/

def State.staged (s : State) (k index sub : Nat) : Option Staging :=
  s.dict.staging.find? fun g => g.requester = k && g.index = index && g.sub = sub

def Dict.unstage (d : Dict) (k index sub : Nat) : Dict :=
  { d with staging := d.staging.filter fun g => !(g.requester = k && g.index = index && g.sub = sub) }

/-- The bytes staged before a segment at an offset, if the segment may follow them. -/
def State.stagedBefore (s : State) (k index sub off : Nat) : Option (List Byte) :=
  if off = 0 then some []
  else match s.staged k index sub with
    | some g => if g.bytes.length = off then some g.bytes else none
    | none => none

/-- The generation of a BLOB entry. -/
def Dict.generation (d : Dict) (index sub : Nat) : Nat := tget 0 d.generations (index * 256 + sub)

def Dict.nextGeneration (d : Dict) (index sub : Nat) : Dict :=
  { d with generations := tset d.generations (index * 256 + sub) ((d.generation index sub + 1) % 2 ^ 32) }

/-- A value committed (R419); a BLOB that changes advances its generation. -/
def State.commitValue (s : State) (index sub : Nat) (isBlob : Bool) (d : List Byte) : State :=
  let old := written s.dict index sub
  let dict := { s.dict with values := tset s.dict.values (index * 256 + sub) d }
  { s with dict := if isBlob && old != d then dict.nextGeneration index sub else dict }

/-- A BLOB segment stored, or the whole value committed by its last one. -/
def State.storeSegment (s : State) (k index sub : Nat) (bytes : List Byte) (last : Bool) : State :=
  let s := { s with dict := s.dict.unstage k index sub }
  if last then s.commitValue index sub true bytes
  else { s with dict := { s.dict with staging := s.dict.staging ++ [⟨k, index, sub, bytes⟩] } }

/-! ### Replies -/

/-- What a request is answered with: status, offset field, generation, total and data. -/
structure Reply where
  status : Nat
  offset : Nat
  generation : Nat
  total : Nat
  data : List Byte
  deriving DecidableEq, Repr

def plainReply (status : Nat) : Reply := ⟨status, 0, 0, 0, []⟩

/-- The response message. -/
def replyBytes (m : Msg) (r : Reply) : List Byte :=
  let h := leBytes 1 1 ++ leBytes 1 (mOp m + 0x80) ++ leBytes 2 (mTransaction m) ++ leBytes 2 (mIndex m) ++ leBytes 1 (mSub m)
    ++ leBytes 1 r.status ++ leBytes 4 r.offset ++ leBytes 2 r.data.length ++ leBytes 2 0 ++ leBytes 4 r.generation
    ++ leBytes 4 r.total ++ r.data
  h ++ leBytes 4 (crc32c h)

/-- One of the counts of `mgmt_stats` raised. -/
def State.countMgmt (s : State) (i : Nat) : State :=
  { s with dict := { s.dict with stats := s.dict.stats.set i (s.dict.stats.getD i 0 + 1) } }

/-- The count a status goes to (Table 16-9). -/
def statusCount : Nat → Option Nat
  | 0x00 => none
  | 0x0C => some 2
  | 0x02 => some 3
  | 0x09 => some 4
  | _ => some 5

/-- The remembered response to an identical request (R426). -/
def State.remembered (s : State) (m : Msg) : Option (List Byte) :=
  (s.dict.transactions.find? fun t => t.requester = requesterKey m && t.number = mTransaction m && t.request = m.bytes).map (·.response)

/-- Transactions of one requester cut to its latest 16. -/
def keepTransactions (k : Nat) (l : List Transaction) : List Transaction :=
  let mine := l.filter (·.requester = k)
  if 16 < mine.length then
    match findAt (fun (t : Transaction) => t.requester = k) l 0 with
    | some (i, _) => dropAt l i
    | none => l
  else l

/-- A reply sent, counted and remembered. -/
def State.answer (s : State) (m : Msg) (r : Reply) : State :=
  let bs := replyBytes m r
  let k := requesterKey m
  let s := match statusCount r.status with | some i => s.countMgmt i | none => s
  let new : Transaction := ⟨k, mTransaction m, m.bytes, bs⟩
  let old := s.dict.transactions.filter fun t => !(t.requester = k && t.number = mTransaction m)
  let s := { s with dict := { s.dict with transactions := keepTransactions k (old ++ [new]) } }
  s.emit (.response m.transport m.requester bs)

/-- One request: unreachable, discarded, answered from memory, or run. The second component is the status of a request that
was run now, and none of any other. -/
def State.serve (s : State) (m : Msg) (run : State → Role → Reply × State) : State × Option Nat :=
  if !s.transportUp m.transport then (s, none)
  else if !msgIntact m then (s.countMgmt 1, none)
  else
    match s.roleOf m with
    | none => (s, none)
    | some role =>
      let s := s.countMgmt 0
      match s.remembered m with
      | some bs => (s.emit (.response m.transport m.requester bs), none)
      | none =>
        let r := if formatOk m then run s role else (plainReply 0x0C, s)
        (r.2.answer m r.1, some r.1.status)

/-- A request `c` with message `m` at the Curator (R431): run now, or queued behind the earlier ones; BUSY at once where 64 are queued. One
that no transport brings whole is not queued. A BUSY that the queue gives is not remembered (DESIGN CHOICE, log entry 140): the request
was never taken. -/
def State.atCurator (s : State) (c : Instr) (m : Msg) (go : State → State) : State :=
  if s.dict.turn then go { s with dict := { s.dict with turn := false } }
  else if !(s.transportUp m.transport && msgIntact m && (s.roleOf m).isSome) || (!m.later && s.dict.waiting.isEmpty) then go s
  else if 64 ≤ s.dict.waiting.length then
    ((s.countMgmt 0).countMgmt 4).emit (.response m.transport m.requester (replyBytes m (plainReply 0x09)))
  else { s with dict := { s.dict with waiting := s.dict.waiting ++ [c] } }

/-- The oldest request that waits for the Curator taken out of its queue, its turn come. -/
def State.nextRequest (s : State) : Option (Instr × State) :=
  match s.dict.waiting with
  | c :: rest => if s.dict.running then some (c, { s with dict := { s.dict with waiting := rest, turn := true } }) else none
  | [] => none

/-- The checks that every operation shares, from ACCESS to the second FORMAT (Table 16-5). -/
def State.sharedCheck (s : State) (m : Msg) (role : Role) : Option Nat :=
  let op := mOp m
  if !s.permitted role op (mIndex m) (mSub m) then some 0x02
  else if !present op (mIndex m) (mSub m) then some 0x01
  else if op != 3 && (mOffset m != 0 || mLast m) && (match entry (mIndex m) (mSub m) with | some x => x.ty != 0x0A | none => false) then
    some 0x0C
  else none

/-- Whether recovery withholds an entry (R452, DESIGN CHOICE of the status, log entry 50). -/
def State.withheld (s : State) (index sub : Nat) : Bool :=
  s.trust.recovery && !recoveryEntry index sub && !(index = 0x1000 && decide (sub ≤ 7))

/-! ### READ and LIST -/

/-- What a computed BLOB is compared with to advance its generation: its value, or for `owner_map` the extents of its class. -/
def State.blobSeen (s : State) (index sub : Nat) : List Byte :=
  if 0x3110 ≤ index ∧ index ≤ 0x311A then
    (s.bind.table.filter (·.cls = index - 0x310F)).flatMap fun x => leBytes 4 x.first ++ leBytes 4 x.count ++ leBytes 1 x.easel
  else s.value index sub

/-- A BLOB about to be read: a snapshot is assembled at offset 0 (R463), and the generation of a computed value that changed
since it was last read advances (log entry 51). -/
def State.refresh (s : State) (index sub off : Nat) : State :=
  if index = 0xA000 ∧ sub = 3 then
    if off = 0 && s.power.vbusState = 2 then
      { s with obs := { s.obs with snapshot := s.assemble }, dict := s.dict.nextGeneration index sub, choices := s.choices + 16384 }
    else s
  else
    match entry index sub with
    | some x =>
      if x.access != 1 then s
      else
        let key := index * 256 + sub
        let now := s.blobSeen index sub
        let first := !(s.dict.seen.any fun e => e.1 = key)
        let d := { s.dict with seen := tset s.dict.seen key now }
        { s with dict := if !first && tget [] s.dict.seen key != now then d.nextGeneration index sub else d }
    | none => s

/-- A BLOB segment read. -/
def State.readBlob (s : State) (index sub off : Nat) : Reply × State :=
  if off % 4 != 0 then (plainReply 0x0B, s)
  else
    let s := s.refresh index sub off
    let g := s.dict.generation index sub
    if 0x3110 ≤ index ∧ index ≤ 0x311A then
      let cls := index - 0x310F
      (⟨0, off, g, classSize cls, s.ownerBytes cls off 1024⟩, s)
    else
      let v := s.value index sub
      (⟨0, off, g, v.length, (v.drop off).take 1024⟩, s)

/-- READ, after its framing. -/
def State.readEntry (s : State) (m : Msg) (role : Role) : Reply × State :=
  match s.sharedCheck m role with
  | some st => (plainReply st, s)
  | none =>
    match entry (mIndex m) (mSub m) with
    | none => (plainReply 0x01, s)
    | some x =>
      if x.access = 0x03 ∨ x.access = 0x06 then (plainReply 0x04, s)
      else if s.withheld (mIndex m) (mSub m) then (plainReply 0x0A, s)
      else if x.ty = 0x0A then s.readBlob (mIndex m) (mSub m) (mOffset m)
      else (⟨0, 0, 0, 0, s.value (mIndex m) (mSub m)⟩, s)

/-- READ (R423): messages of op 0x01, and of a reserved op, which receive FORMAT. -/
def execRead (m : Msg) (s : State) : Host.Outcome State Fault Refusal :=
  if mOp m = 2 ∨ mOp m = 3 then .next s
  else .next (s.atCurator (.read m) m fun s => (s.serve m fun s role => s.readEntry m role).1)

/-- An entry descriptor (Table 16-6). -/
def descriptor (index sub : Nat) : List Byte :=
  match entry index sub with
  | some x =>
    leBytes 1 sub ++ leBytes 1 x.ty ++ leBytes 1 x.access ++ leBytes 1 (x.asm.toNat + (anonymousReads index sub).toNat * 2)
      ++ leBytes 4 x.size
  | none => []

def State.listEntries (s : State) (m : Msg) (role : Role) : Reply :=
  match s.sharedCheck m role with
  | some st => plainReply st
  | none =>
    if s.trust.recovery && mIndex m != 0x1000 then plainReply 0x0A
    else
      let l := listed role (mIndex m)
      ⟨0, mOffset m, 0, l.length, ((l.drop (mOffset m)).take 128).flatMap (descriptor (mIndex m))⟩

/-- LIST (R425). -/
def execList (m : Msg) (s : State) : Host.Outcome State Fault Refusal :=
  if mOp m = 3 then .next (s.atCurator (.list m) m fun s => (s.serve m fun s role => (s.listEntries m role, s)).1) else .next s

/-! ### WRITE -/

/-- The checks of a write from READ_ONLY to BOUND (Table 16-5); `before` is what the staging holds for a BLOB. -/
def State.writeCheck (s : State) (m : Msg) (x : Entry) (before : Option (List Byte)) : Nat :=
  let d := mData m
  if x.access = 1 then 0x03
  else if !sizeOk x d.length then 0x05
  else if x.ty = 0x0B && !cu32Ok d then 0x06
  else if x.ty = 0x0A && before.isNone then 0x0B
  else if x.ty = 0x0A && decide (x.size < ((before.getD []).length + d.length)) then 0x07
  else if x.ty != 0x0A && x.ty != 0x0B && !s.valueOk (mIndex m) (mSub m) x d then 0x07
  else if x.access = 4 && !s.unboundFor (mIndex m) then 0x08
  else 0

/-- A write of a value or a BLOB segment. -/
def State.writeEntry (s : State) (m : Msg) (role : Role) : Reply × State :=
  match s.sharedCheck m role with
  | some st => (plainReply st, s)
  | none =>
    match entry (mIndex m) (mSub m) with
    | none => (plainReply 0x01, s)
    | some x =>
      let i := mIndex m
      let b := mSub m
      let k := requesterKey m
      let before := if x.ty = 0x0A then s.stagedBefore k i b (mOffset m) else some []
      match s.writeCheck m x before with
      | 0 =>
        if s.withheld i b then (plainReply 0x0A, s)
        else if x.ty = 0x0A then (plainReply 0, s.storeSegment k i b (before.getD [] ++ mData m) (mLast m))
        else if x.ty = 0x0B then (plainReply 0x0A, s)
        else (plainReply 0, s.commitValue i b false (mData m))
      | st =>
        -- a refused segment discards the staging (R421)
        (plainReply st, if x.ty = 0x0A && (st = 0x0B || st = 0x07) then { s with dict := s.dict.unstage k i b } else s)

/-- The entries whose writes have rows of their own. -/
def ownRow (index sub : Nat) : Bool :=
  (match entry index sub with | some x => x.access = 6 | none => false) || (index = 0x6100 && sub = 1)

/-- WRITE (R419) of an entry without a row of its own. -/
def execWrite (m : Msg) (s : State) : Host.Outcome State Fault Refusal :=
  if mOp m = 2 && !ownRow (mIndex m) (mSub m) then .next (s.atCurator (.write m) m fun s => (s.serve m fun s role => s.writeEntry m role).1)
  else .next s

/-! ### CMD entries (R418, R420) -/

/-- A write of a CMD entry after its framing: the shared checks, TYPE and COMPLEMENT, then the action's own check of the
value, from RANGE on. -/
def State.commandStatus (s : State) (m : Msg) (role : Role) (check : State → Nat → Nat) : Nat :=
  match s.sharedCheck m role with
  | some st => st
  | none =>
    match entry (mIndex m) (mSub m) with
    | none => 0x01
    | some x =>
      match s.writeCheck m x (some []) with
      | 0 => if s.withheld (mIndex m) (mSub m) then 0x0A else check s (mValue m)
      | st => st

/-- A CMD write: answered when the action is accepted, and the action follows the response (R420). `fail` is what a check
that refuses the action leaves behind. -/
def State.command (s : State) (m : Msg) (check : State → Nat → Nat) (fail : State → Nat → State) (go : State → Nat → State) :
    State :=
  match s.serve m fun s role => (plainReply (s.commandStatus m role check), s) with
  | (s', some 0) => go s' (mValue m)
  | (s', some st) => fail s' st
  | (s', none) => s'

/-- Whether a message is a write of the entry named. -/
def writes (m : Msg) (index sub : Nat) : Bool := mOp m = 2 && mIndex m = index && mSub m = sub

/-- The VBUS domain runs (R432). -/
def State.vbusUp (s : State) : Bool := s.power.vbusState = 2

/-! ### Time limits of the Curator (R421, R426) -/

/-- BLOB_STAGING_TIMEOUT: `requester` is a key as `requesterKey` forms it. -/
def execBlobStagingTimeout (requester index sub : Nat) (s : State) : Host.Outcome State Fault Refusal :=
  .next { s with dict := s.dict.unstage requester index sub }

/-- TRANSACTION_MEMORY_EXPIRY. -/
def execTransactionMemoryExpiry (requester transaction : Nat) (s : State) : Host.Outcome State Fault Refusal :=
  .next { s with dict := { s.dict with transactions := s.dict.transactions.filter fun t => !(t.requester = requester && t.number = transaction) } }

/-! ### Notices (R433) -/

/-- Record `k` of `notice_targets` (Table 16-9): its transport, where there is a record that names one and holds zeros where it must. -/
def State.noticeTarget (s : State) (k : Nat) : Option Nat :=
  let b := written s.dict 0x1100 6
  let t := at8 b (24 * k) 1
  if 24 * (k + 1) ≤ b.length && rsv b (24 * k + 1) 7 && (t = 1 || (t = 2 && rsv b (24 * k + 9) 15)) then some t else none

/-- The NOTICE message of a record, with the notice count in its transaction field (R433, Tables 16-3 and 16-4). -/
def noticeBytes (count : Nat) (v : Event) : List Byte :=
  let h := leBytes 1 1 ++ leBytes 1 0x10 ++ leBytes 2 count ++ List.replicate 8 0 ++ leBytes 2 32 ++ List.replicate 10 0 ++ v.bytes
  h ++ leBytes 4 (crc32c h)

/-- The notices sent to each target in the last 1 s, after some of them have left it (R433). -/
def Dict.age (d : Dict) (aged : List Nat) : Dict :=
  { d with noticeWindow := aged.zipIdx.foldl (fun t x => tset t x.2 (tget 0 t x.2 - x.1)) d.noticeWindow }

/-- A notice to one target: the count advances, and past 1,000 in the last second it is withheld. -/
def State.notify (s : State) (v : Event) (k : Nat) : State :=
  match s.noticeTarget k with
  | none => s
  | some t =>
    let n := tget 0 s.dict.noticeCount k
    let w := tget 0 s.dict.noticeWindow k
    let s := { s with dict := { s.dict with noticeCount := tset s.dict.noticeCount k ((n + 1) % 65536) } }
    if 1000 ≤ w then s.countMgmt 7
    else
      let s := ({ s with dict := { s.dict with noticeWindow := tset s.dict.noticeWindow k (w + 1) } } : State).countMgmt 6
      if s.transportUp (if t = 2 then .pcie else .t1s) then s.emit (.notice k n (noticeBytes n v)) else s

/-- FAULT_LINE_RECORD (R32): the oldest copy that waits at the Curator goes out as notices. -/
def execFaultLineRecord (aged : List Nat) (s : State) : Host.Outcome State Fault Refusal :=
  if !s.dict.running then .next s
  else
    let s := { s with dict := s.dict.age aged }
    match s.dict.intake with
    | [] => .next s
    | v :: rest =>
      let s := { s with dict := { s.dict with intake := rest } }
      if (policy s 0x1100 7).testBit (v.code / 256) then .next ((List.range 4).foldl (fun s k => s.notify v k) s) else .next s

/-! ### The management ports (R427, R428) -/

/-- The link-local address formed from the MAC address under the modified EUI-64 rule: fe80::/64, then the MAC with FFFE in
its middle and bit 1 of its first byte turned over. `mac_address` holds the first byte in its highest place. -/
def State.linkLocal (s : State) : List Byte :=
  let mac := leNat (s.value 0x1000 8)
  let b := fun (i : Nat) => BitVec.ofNat 8 (mac / 256 ^ (5 - i) % 256)
  [0xFE, 0x80, 0, 0, 0, 0, 0, 0, b 0 ^^^ 2, b 1, b 2, 0xFF, 0xFE, b 3, b 4, b 5]

/-- A global address as `ipv6_global` holds it (Table 16-9): 16 bytes and a prefix length of 1 to 128. -/
def globalOk (g : List Byte) : Bool := g.length = 17 && decide (1 ≤ at8 g 16 1) && decide (at8 g 16 1 ≤ 128)

/-- NEIGHBOR_DISCOVERY: the device answers for its own addresses. -/
def execNeighborDiscovery (target : List Byte) (s : State) : Host.Outcome State Fault Refusal :=
  let g := written s.dict 0x1100 2
  if s.transportUp .t1s && (target = s.linkLocal || (globalOk g && target = g.take 16)) then
    .next (s.emit (.neighbor target))
  else .next s

/-- I3C_DYNAMIC_ADDRESS: with `i3c_static` set, the target uses that. -/
def execI3cDynamicAddress (address : Nat) (s : State) : Host.Outcome State Fault Refusal :=
  if s.dict.running && s.power.vaux && s.power.vio && policy s 0x1100 5 = 0 then
    .next { s with dict := { s.dict with i3cAddress := address } }
  else .next s

end Sys2Proof.Machine
end

