-- ==== Sys2Proof/Machine/Image.lean ====
section
/-! DEFINITION. The canvas image (R69 to R81, R251, R346): the header, the directory, and the entries of every section read
from their bytes, each with the place it has in the image. -/

namespace Sys2Proof.Machine

/-- Where a check fails (R82): byte offset in the image, sheet (0xFF shared), directory index (0xFFFF header). -/
abbrev Locus := Nat × Nat × Nat

/-- The first element a predicate finds bad. -/
def firstBad {α : Type} (l : List (Locus × α)) (bad : α → Bool) : Option Locus := (l.find? fun x => bad x.2).map (·.1)

/-- A directory entry (Table 3-3). -/
structure Sec where
  idx : Nat
  kind : Nat
  sheet : Nat
  count : Nat
  off : Nat
  len : Nat

def imSheets (b : List Byte) : Nat := at8 b 16 1
def imSlots (b : List Byte) : Nat := at8 b 17 1
def imSections (b : List Byte) : Nat := at8 b 18 2
def imSigned (b : List Byte) : Bool := fld (at8 b 6 1) 0 1 = 1
def imSigOff (b : List Byte) : Nat := at8 b 64 4
def imOld (b : List Byte) : Bool := at8 b 4 2 = 0x0100

/-- The directory. -/
def imDir (b : List Byte) : List Sec :=
  (List.range (imSections b)).map fun i =>
    let o := 128 + 16 * i
    { idx := i, kind := at8 b o 1, sheet := at8 b (o + 1) 1, count := at8 b (o + 4) 4, off := at8 b (o + 8) 4, len := at8 b (o + 12) 4 }

/-- D, the end of the digested range (R69). -/
def imEnd (b : List Byte) : Nat := (imDir b).foldl (fun d s => max d (s.off + s.len)) (128 + 16 * imSections b)

/-- The locus of a place in a section. -/
def Sec.at_ (s : Sec) (o : Nat) : Locus := (o, s.sheet, s.idx)

/-- The entries of `size` bytes of the sections of a kind on a sheet, read by `f` at their offsets. DESIGN CHOICE (log entry 137):
several sections of one kind are numbered one after another in directory order, so that a plan first counts over all of them. -/
def imEntries {α : Type} (b : List Byte) (kind sheet size : Nat) (f : Nat → α) : List (Locus × α) :=
  ((imDir b).filter fun s => s.kind = kind && s.sheet = sheet).flatMap fun s =>
    (List.range s.count).map fun i => (s.at_ (s.off + size * i), f (s.off + size * i))

/-! ### Entries -/

def formulaAt (b : List Byte) (o : Nat) : Formula :=
  { offset := toSigned 64 (at8 b o 8), coefficient := toSigned 32 (at8 b (o + 8) 4),
    factors := (List.range 4).map fun i => (at8 b (o + 16 + 4 * i) 1, at8 b (o + 17 + 4 * i) 3) }

def panelAt (b : List Byte) (o : Nat) : Panel :=
  { number := at8 b o 2, overlap := fld (at8 b (o + 2) 1) 0 1 = 1, origin := fld (at8 b (o + 4) 2) 0 11, rows := at8 b (o + 6) 1,
    cols := at8 b (o + 7) 1, stride := at8 b (o + 8) 2, program := at8 b (o + 10) 2, mSlot := at8 b (o + 12) 1,
    nSlot := at8 b (o + 13) 1, mGran := at8 b (o + 16) 4, nGran := at8 b (o + 20) 4, planFirst := at8 b (o + 24) 4,
    planCount := at8 b (o + 28) 2 }

def bufAt (b : List Byte) (o : Nat) : BufPlan :=
  { id := at8 b o 2, dbl := fld (at8 b (o + 2) 1) 0 1 = 1, offset := at8 b (o + 4) 4, size := at8 b (o + 8) 4, used := at8 b (o + 12) 2 }

def semAt (b : List Byte) (o : Nat) : SemDecl :=
  { id := at8 b o 2, kind := at8 b (o + 2) 1, initial := at8 b (o + 4) 4, max := at8 b (o + 8) 4, produce := at8 b (o + 12) 2,
    consume := at8 b (o + 14) 2, final := at8 b (o + 16) 2, home := at8 b (o + 20) 4 }

def ctrAt (b : List Byte) (o : Nat) : CtrDecl :=
  { number := at8 b o 2, tickets := at8 b (o + 2) 2, bitmap := at8 b (o + 4) 4, first := at8 b (o + 8) 4 }

def redAt (b : List Byte) (o : Nat) : RedEntry :=
  { id := at8 b o 3, channel := fld (at8 b (o + 4) 1) 0 4, wire := fld (at8 b (o + 4) 1) 4 4, srcSpace := fld (at8 b (o + 5) 1) 0 4,
    shardSpace := fld (at8 b (o + 5) 1) 4 4, slice := fld (at8 b (o + 6) 1) 0 7, trigger := at8 b (o + 8) 2, done := at8 b (o + 10) 2,
    triggerValue := at8 b (o + 12) 4, segments := at8 b (o + 16) 4, srcBase := at8 b (o + 24) 8, shardBase := at8 b (o + 32) 8,
    scaleAddr := at8 b (o + 40) 8, healthBase := at8 b (o + 48) 8 }

/-- A block and its payload (Table 10-5). -/
def blockAt (b : List Byte) (o : Nat) : Block :=
  { kind := at8 b o 1, src := fld (at8 b (o + 1) 1) 0 4, dst := fld (at8 b (o + 1) 1) 4 4, page := fld (at8 b (o + 2) 1) 0 1 = 1,
    type := at8 b (o + 3) 1, srcBase := at8 b (o + 8) 8, dstBase := at8 b (o + 16) 8, srcExt := at8 b (o + 24) 2,
    dstExt := at8 b (o + 26) 2, position := fld (at8 b (o + 28) 4) 0 20, channel := fld (at8 b (o + 28) 4) 24 4,
    lane := fld (at8 b (o + 32) 1) 0 6, payload := bytesAt b (o + 48) (at8 b (o + 4) 4) }

/-- The blocks of a stream from offset `o` on: `n` of them, none reaching beyond `stop`; each with its offset. -/
def blocksAt (b : List Byte) (stop : Nat) : Nat → Nat → Option (List (Nat × Block))
  | 0, o => if o = stop then some [] else none
  | n + 1, o =>
    let len := 48 + at8 b (o + 4) 4
    if o + len ≤ stop ∧ len % 8 = 0 then (blocksAt b stop n (o + len)).map fun r => (o, blockAt b o) :: r else none

/-- A stream descriptor with the offsets of its blocks (Table 10-4); `none` where its lengths do not agree (R251). -/
def streamAt (b : List Byte) (stop o : Nat) : Option (StreamDesc × List Nat) :=
  let len := at8 b (o + 16) 4
  if o + 32 ≤ stop ∧ 32 ≤ len ∧ o + len ≤ stop then
    (blocksAt b (o + len) (at8 b (o + 5) 1) (o + 32)).map fun bl =>
      ({ id := fld (at8 b o 2) 0 10, panel := at8 b (o + 2) 2, slice := fld (at8 b (o + 4) 1) 0 7, localBytes := at8 b (o + 6) 2,
         rate := at8 b (o + 8) 4, localBuf := at8 b (o + 12) 1, dbl := fld (at8 b (o + 13) 1) 0 1 = 1, blocks := bl.map (·.2) },
       bl.map (·.1))
  else none

/-- The streams of a section: those read, and the offset where one is malformed or bytes are left over. -/
def streamsAt (b : List Byte) (stop : Nat) : Nat → Nat → List (Nat × StreamDesc × List Nat) × Option Nat
  | 0, o => ([], if o = stop then none else some o)
  | n + 1, o =>
    match streamAt b stop o with
    | none => ([], some o)
    | some d => let r := streamsAt b stop n (o + at8 b (o + 16) 4); ((o, d) :: r.1, r.2)

/-- The streams of a sheet with their loci and the offsets of their blocks. -/
def imStreams (b : List Byte) (sheet : Nat) : List (Locus × StreamDesc × List Nat) :=
  ((imDir b).filter fun s => s.kind = 6 && s.sheet = sheet).flatMap fun s =>
    (streamsAt b (s.off + s.len) s.count s.off).1.map fun x => (s.at_ x.1, x.2)

/-- The words of a stage program section. -/
def secWords (b : List Byte) (s : Sec) : List Nat := (List.range s.count).map fun i => at8 b (s.off + 8 * i) 8

/-! ### The canvas -/

/-- A sheet of the image. -/
def imSheet (b : List Byte) (h : Nat) : Sheet :=
  { panels := (imEntries b 3 h 32 (panelAt b)).map (·.2), bufs := (imEntries b 5 h 16 (bufAt b)).map (·.2),
    programs := ((imDir b).filter fun s => s.kind = 4 && s.sheet = h).map fun s => (s.idx, (secWords b s).map (BitVec.ofNat 64)),
    streams := (imStreams b h).map (·.2.1), sems := (imEntries b 7 h 24 (semAt b)).map (·.2),
    ctrs := (imEntries b 8 h 16 (ctrAt b)).map (·.2), reds := (imEntries b 9 h 64 (redAt b)).map (·.2) }

/-- The canvas an image describes; its tile map is taken at the commit (R72). -/
def imCanvas (b : List Byte) : Canvas :=
  { id := at8 b 24 8, version := at8 b 4 2, digest := bytesAt b 32 32,
    slots := (imEntries b 1 0xFF 16 fun o => (at8 b o 8, at8 b (o + 8) 8)).map (·.2),
    formulas := (imEntries b 2 0xFF 32 (formulaAt b)).map (·.2), sheets := (List.range (imSheets b)).map (imSheet b),
    tilesRequired := at8 b 20 2, tileMap := [] }

end Sys2Proof.Machine
end

