-- ==== Sys2Proof/Machine/Checks.lean ====
section
/-! DEFINITION. The loader's checks (R82, Table 3-9), each answering where it fails first: header, signature form, forms of
all entries, alignment, counts, resources, planned use, ranges, lengths, synchronization formulas. -/

namespace Sys2Proof.Machine

/-- The first finding of a list of places to look. -/
def firstOf (l : List (Option Locus)) : Option Locus := l.findSome? id

/-- A condition at a locus. -/
def need (ok : Bool) (l : Locus) : Option Locus := if ok then none else some l

/-! ### Check 1: the header (R69) -/

def headLocus (o : Nat) : Locus := (o, 0xFF, 0xFFFF)

def sigOffsetOk (b : List Byte) : Bool :=
  if imSigned b then imSigOff b % 64 = 0 && decide (imEnd b ≤ imSigOff b) && decide (imSigOff b + 2048 ≤ at8 b 8 8)
  else imSigOff b = 0

/-- Check 1: `len` is the length the load command gives, `old` whether the easel is in compatibility mode. -/
def checkHead (b : List Byte) (len : Nat) (old : Bool) : Option Locus :=
  let w := fun (ok : Bool) (o : Nat) => need ok (headLocus o)
  firstOf [
    w (at8 b 0 4 = 0x564E4344) 0,
    w (at8 b 4 2 = 0x0200 || (imOld b && old)) 4,
    w (at8 b 8 8 = len && len % 64 = 0 && decide (len ≤ 1073741824) && decide (128 ≤ len)) 8,
    w (decide (1 ≤ imSheets b) && decide (imSheets b ≤ 4)) 16,
    w (decide (imSlots b ≤ 64)) 17,
    w (decide (1 ≤ imSections b) && decide (imSections b ≤ 4096)) 18,
    w (decide (imEnd b ≤ len)) 8,
    w (sigOffsetOk b) 64,
    w (shake256 ((b.drop 128).take (imEnd b - 128)) == bytesAt b 32 32) 32,
    w (fld (at8 b 6 2) 1 15 = 0) 6, w (rsv b 22 2) 22, w (rsv b 68 4) 68, w (rsv b 72 56) 72]

/-! ### Check 2: the form of the signature block (R81) -/

def checkSignature (b : List Byte) : Option Locus :=
  if !imSigned b then none
  else
    let o := imSigOff b
    let n := at8 b o 2
    firstOf [need (decide (1 ≤ n) && decide (n ≤ 2044)) (headLocus o), need (rsv b (o + 3) 1) (headLocus (o + 3)),
      need (rsv b (o + 4 + n) (2044 - n)) (headLocus (o + 4 + n))]

/-! ### Check 3: directory and entries -/

/-- The entry size of a kind; 0 where its own chapter fixes the length. -/
def entrySize : Nat → Nat
  | 1 => 16 | 2 => 32 | 3 => 32 | 4 => 8 | 5 => 16 | 7 => 24 | 8 => 16 | 9 => 64 | _ => 0

/-- Whether two ranges share a byte. -/
def overlap (a n c m : Nat) : Bool := n != 0 && m != 0 && decide (a < c + m) && decide (c < a + n)

/-- The directory (R70, R71, Table 3-4). -/
def checkDir (b : List Byte) : Option Locus :=
  let dir := imDir b
  let at_ := fun (s : Sec) => (128 + 16 * s.idx, s.sheet, s.idx)
  let one := fun (s : Sec) =>
    let before := dir.take s.idx
    need (decide (1 ≤ s.kind) && decide (s.kind ≤ 9) && rsv b (130 + 16 * s.idx) 2
      && (if s.kind ≤ 2 then s.sheet = 0xFF else decide (s.sheet < imSheets b))
      && (s.kind = 6 || s.len = s.count * entrySize s.kind)
      && !(overlap 0 (128 + 16 * imSections b) s.off s.len)
      && !(imSigned b && overlap (imSigOff b) 2048 s.off s.len)
      && decide (s.off + s.len ≤ at8 b 8 8)
      && before.all (fun t => !overlap t.off t.len s.off s.len)
      && (decide (3 < s.kind) || before.all fun t => !(t.kind = s.kind && t.sheet = s.sheet))) (at_ s)
  let missing := (List.range (imSheets b)).any fun h => !(dir.any fun s => s.kind = 3 && s.sheet = h)
  firstOf (dir.map one ++ [need (!missing) (headLocus 16),
    need (imSlots b = ((dir.filter (·.kind = 1)).map (·.count)).foldl (· + ·) 0) (headLocus 17)])

/-- A formula record is well formed and stays in 128 bits at both extremes (R77). -/
def formulaOk (b : List Byte) (plan : List Nat) (o : Nat) : Bool :=
  let f := formulaAt b o
  let inRange := fun (v : Int) => decide (-(2 ^ 127) ≤ v) && decide (v < 2 ^ 127)
  rsv b (o + 12) 4
    && f.factors.all (fun p => if p.1 = 0xFF then p.2 = 1 else decide (p.1 < plan.length) && decide (1 ≤ p.2))
    && inRange (f.value (plan.map fun _ => 0)) && inRange (f.value plan)

/-- A panel entry (Table 3-5). -/
def panelOk (b : List Byte) (h nslots nbufs : Nat) (o : Nat) : Bool :=
  let p := panelAt b o
  fld (at8 b (o + 2) 1) 1 7 = 0 && rsv b (o + 3) 1 && fld (at8 b (o + 4) 2) 11 5 = 0 && rsv b (o + 14) 2 && rsv b (o + 30) 2
    && decide (1 ≤ p.rows) && decide (1 ≤ p.cols) && decide (p.rows * p.cols ≤ 1280) && decide (p.cols ≤ p.stride)
    && decide (p.mSlot < nslots) && decide (p.nSlot < nslots) && decide (1 ≤ p.mGran) && decide (p.mGran ≤ 2 ^ 24)
    && decide (1 ≤ p.nGran) && decide (p.nGran ≤ 2 ^ 24) && decide (p.planFirst + p.planCount ≤ nbufs)
    && (imDir b).any fun s => s.idx = p.program && s.kind = 4 && s.sheet = h

/-- The loop bodies of a program as first and last word. -/
def stageBodies (ops : List (Option TileOp)) : List (Nat × Nat) :=
  ops.zipIdx.filterMap fun x => match x.1 with | some (.loop _ _ body _) => some (x.2 + 1, x.2 + body) | _ => none

/-- The innermost body that contains a word. -/
def innermost (bodies : List (Nat × Nat)) (i : Nat) : Option (Nat × Nat) :=
  (bodies.filter fun r => decide (r.1 ≤ i) && decide (i ≤ r.2)).foldl (fun (a : Option (Nat × Nat)) r =>
    match a with | none => some r | some q => if q.1 < r.1 then some r else some q) none

/-- A body lies wholly inside the bodies around it, `depth` deep at most, and ends before word `last` (R96, R97, R256). -/
def bodyOk (bodies : List (Nat × Nat)) (depth last : Nat) (r : Nat × Nat) : Bool :=
  decide (r.2 < last)
    && bodies.all (fun q => !(decide (q.1 < r.1) && decide (r.1 ≤ q.2 + 1)) || decide (r.2 ≤ q.2))
    && decide ((bodies.filter fun q => decide (q.1 ≤ r.1) && decide (r.1 ≤ q.2)).length ≤ depth)

/-- Every body of a program holds the rules. -/
def bodiesOk (bodies : List (Nat × Nat)) (depth last : Nat) : Bool := bodies.all (bodyOk bodies depth last)

/-- A word of a stage program: it decodes, its slot exists, its branch stays in its body (R80, R97). -/
def stageWordOk (ops : List (Option TileOp)) (bodies : List (Nat × Nat)) (nslots i : Nat) : Bool :=
  match ops.getD i none with
  | none => false
  | some (.loop src _ _ operand) => src != 2 || decide (operand % 256 < nslots)
  | some (.getslot _ slot) => decide (slot < nslots)
  | some (.br _ _ kind v target) =>
    (kind != 2 || decide (v % 256 < nslots)) && decide (target < ops.length)
      && (innermost bodies target = innermost bodies i || match innermost bodies i with
          | some r => target = r.2 + 1
          | none => false)
  | some _ => true

/-- The first bad word of a stage program section. -/
def checkProgram (b : List Byte) (nslots : Nat) (s : Sec) : Option Locus :=
  let ops := (secWords b s).map decodeStage
  let bodies := stageBodies ops
  let lastOk := match ops.getLast? with
    | some (some .fin) => true
    | some (some (.br _ 0 _ _ _)) => true
    | _ => false
  firstOf ((List.range s.count).map (fun i =>
      need (stageWordOk ops bodies nslots i && bodies.all fun r => r.1 != i + 1 || bodyOk bodies 4 (s.count - 1) r)
        (s.at_ (s.off + 8 * i)))
    ++ [need lastOk (s.at_ (s.off + 8 * (s.count - 1)))])

/-- A formula index that an entry gives: 0xFFFF names none, whatever the pool holds (Table 3-6, R496). -/
def formIndex (nforms i : Nat) : Bool := i != 0xFFFF && decide (i < nforms)

/-- A buffer plan entry (Table 3-6). -/
def bufOk (b : List Byte) (nforms o : Nat) : Bool :=
  let p := bufAt b o
  fld (at8 b (o + 2) 1) 1 7 = 0 && rsv b (o + 3) 1 && rsv b (o + 14) 2 && decide (p.id < 256) && decide (64 ≤ p.size)
    && (formIndex nforms p.used || (p.used = 0xFFFF && imOld b))

/-- A semaphore entry (Table 3-8, R496). -/
def semOk (b : List Byte) (nforms o : Nat) : Bool :=
  let p := semAt b o
  let none3 := p.produce = 0xFFFF && p.consume = 0xFFFF && p.final = 0xFFFF
  decide (p.kind < 2) && rsv b (o + 3) 1 && rsv b (o + 18) 2
    && ((none3 && imOld b) || (formIndex nforms p.produce && formIndex nforms p.consume && formIndex nforms p.final))

/-- A work counter entry (R79). -/
def ctrOk (b : List Byte) (nforms o : Nat) : Bool :=
  let p := ctrAt b o
  rsv b (o + 12) 4 && decide (p.tickets < nforms) && decide (p.bitmap ≤ 1048576)

/-- A reduction entry (Table 13-7). -/
def redOk (b : List Byte) (o : Nat) : Bool :=
  let p := redAt b o
  p.id != 0 && rsv b (o + 3) 1 && (p.wire = 3 || p.wire = 0) && (p.srcSpace = 1 || p.srcSpace = 3)
    && (p.shardSpace = 1 || p.shardSpace = 3) && fld (at8 b (o + 6) 1) 7 1 = 0 && rsv b (o + 7) 1 && p.triggerValue != 0
    && p.segments != 0 && decide (p.segments ≤ 2 ^ 24) && rsv b (o + 20) 4 && rsv b (o + 56) 8 && (p.wire != 0 || p.scaleAddr = 0)

/-- A stored extent of a window record: its slot, or a constant of 1 to 2^20. -/
def extentOk (p : List Byte) (nslots slotOff constOff : Nat) : Bool :=
  if at8 p slotOff 1 = 0xFF then decide (1 ≤ at8 p constOff 4) && decide (at8 p constOff 4 ≤ 1048576)
  else decide (at8 p slotOff 1 < nslots) && at8 p constOff 4 = 0

/-- The reach of a reflected axis (R193), in integers: an output extent of 0 has `out - 1` at -1. -/
def reflectOk (pad out stride k dil n : Nat) : Bool :=
  let i := fun (a : Nat) => (a : Int)
  decide (i pad ≤ i n - 1) && decide ((i out - 1) * i stride + (i k - 1) * i dil - i pad ≤ 2 * (i n - 1))

/-- A window record (Table 7-1, R178, R190, R193, R194). DESIGN CHOICE (log entry 133): Cg and Ng are at least 1, where the table gives
them no lower bound. DEDUCED (log entry 134): a kind 0x02 record compares no extents, so its out-height and out-width slots are unused. -/
def windowOk (p : List Byte) (nslots : Nat) (plan : List Nat) : Bool :=
  let k := wKind p
  let pool := k = 4
  let fmt := wFormat p
  let kmax := if pool then 16 else 64
  let dmax := if pool then 1 else 1048576
  let rng := fun (v lo hi : Nat) => decide (lo ≤ v) && decide (v ≤ hi)
  let regroupOk := rng (wRegroup p) 0 2 && (if wRegroup p = 0 then fld (at8 p 2 1) 4 2 = 0 else fld (at8 p 2 1) 4 2 != 0)
  let flagsOk := (pool || fld (at8 p 2 1) 6 2 = 0) && (fld (at8 p 2 1) 6 1 = 1 || fld (at8 p 2 1) 7 1 = 0)
    && (k = 3 || !wProgress p) && (k = 1 || pool || !wGate p) && fld (at8 p 3 1) 2 6 = 0
  let gateOk := wGate p || rsv p 68 8
  let progressOk := wProgress p || rsv p 66 2
  let shapeOk := rng (wKh p) 1 kmax && rng (wKw p) 1 kmax && rng (wSy p) 1 16 && rng (wSx p) 1 16 && rng (wDy p) 1 dmax
    && rng (wDx p) 1 dmax && [wPt p, wPb p, wPl p, wPr p].all (fun v => decide (v ≤ 1048576)) && wGroups p != 0 && rsv p 38 2
    && rsv p 43 1 && rsv p 47 1 && wCg p != 0 && wNg p != 0 && (!pool || wNg p = wCg p)
    && (wPad p = 1 || wConstant p = 0) && (wPad p != 1 || decide (fmt ≤ 4))
    && (!pool || (wPad p = 0 && decide (max (wPt p) (wPb p) < wKh p) && decide (max (wPl p) (wPr p) < wKw p)))
    && (wPad p != 2 || (at8 p 48 1 = 0xFF && at8 p 49 1 = 0xFF
        && reflectOk (wPt p) (wHout p plan) (wSy p) (wKh p) (wDy p) (wHeight p plan)
        && reflectOk (wPl p) (wWout p plan) (wSx p) (wKw p) (wDx p) (wWidth p plan)))
  let tileOk := rng (wH p) 1 4096 && rng (wWc p) 1 4096
  decide (1 ≤ k) && decide (k ≤ 4) && at8 p 1 1 / 16 = 0 && decide (fmt ≤ 0xE) && wPad p != 3 && regroupOk && flagsOk && gateOk
    && progressOk && rsv p 76 4 && extentOk p nslots 48 52 && extentOk p nslots 49 56
    && (match k with
        | 3 => wPad p = 0 && rsv p 4 44 && rsv p 50 2 && tileOk
        | 2 => shapeOk && tileOk && rsv p 50 2
        | _ => shapeOk && tileOk && decide (at8 p 50 1 < nslots) && decide (at8 p 51 1 < nslots))

/-- An attention record (Table 9-4). -/
def attentionOk (p : List Byte) (nslots : Nat) : Bool :=
  let f := aFormat p
  let m := fun (v lo hi : Nat) => decide (lo ≤ v) && decide (v ≤ hi) && v % 64 = 0
  at8 p 0 1 = 1 && (f = 1 || f = 3 || f = 4) && at8 p 1 1 / 16 = f && fld (at8 p 2 1) 2 6 = 0 && rsv p 3 1 && m (aBq p) 64 4096
    && m (aBk p) 64 4096 && m (aD p) 64 1024 && decide (at8 p 10 1 < nslots) && decide (at8 p 11 1 < nslots)
    && decide (at8 p 12 1 < nslots) && decide (1 ≤ aG p) && decide (aG p ≤ 64) && (aSegments p || aIdBase p = 0) && rsv p 48 16

/-- The words of an address program. -/
def addrWords (p : List Byte) : List (Option AddrOp) := (List.range (p.length / 8)).map fun i => decodeAddr (at8 p (8 * i) 8)

/-- An address program (R255, R256). -/
def addrOk (p : List Byte) (nslots : Nat) : Bool :=
  let ops := addrWords p
  let bodies := ops.zipIdx.filterMap fun x => match x.1 with | some (.loop _ body) => some (x.2 + 1, x.2 + body) | _ => none
  decide (1 ≤ ops.length) && decide (ops.length ≤ 32) && p.length % 8 = 0
    && ops.all (fun o => match o with
        | none => false
        | some (.getv _ src) => sourceOk 3 nslots src
        | some _ => true)
    && ops.getLast? = some (some .fin) && bodiesOk bodies 8 (ops.length - 1)

/-- A block as check 3 sees it (Table 10-5, R250, R253, R256). -/
def blockOk (b : List Byte) (nslots : Nat) (plan : List Nat) (o : Nat) : Bool :=
  let k := blockAt b o
  let p := k.payload
  let spaces := k.src != 6 && decide (k.src ≤ 7) && decide (k.dst ≤ 5) && !(k.src = 0 && k.dst = 0) && !(k.src = 4 && k.dst = 4)
  let far := k.src = 5 || k.dst = 5
  let endOk := fun (space base ext : Nat) => space != 0 || (base = 0 && ext = 0xFFFF)
  let typeOk := decide (k.type ≤ 0xE) || k.type = 0x10 || k.type = 0xFE
  fld (at8 b (o + 2) 1) 1 7 = 0 && fld (at8 b (o + 28) 4) 20 4 = 0 && fld (at8 b (o + 28) 4) 28 4 = 0
    && fld (at8 b (o + 32) 1) 6 2 = 0 && rsv b (o + 33) 15 && typeOk && (far || (k.position = 0 && k.channel = 0))
    && (k.src = 7 || k.lane = 0) && spaces
    && (match k.kind with
        | 1 => p.length = 32 && rsv p 26 6 && endOk k.src k.srcBase k.srcExt && endOk k.dst k.dstBase k.dstExt
        | 2 => addrOk p nslots && endOk k.src k.srcBase k.srcExt && endOk k.dst k.dstBase k.dstExt
        | 3 => p.length = 80 && windowOk p nslots plan && k.type = wFormat p
            && (if wKind p = 3 then k.src = 0 && k.dst = 1 else k.src = 1 && k.dst = 0)
            && endOk k.src k.srcBase k.srcExt && endOk k.dst k.dstBase k.dstExt
        | 4 => p.length = 64 && attentionOk p nslots && k.src = 1 && k.dst = 2 && k.srcBase = 0 && k.dstBase = 0 && k.srcExt = 0
            && k.dstExt = 0
        | _ => false)

/-- The header of a stream descriptor (Table 10-4). -/
def streamOk (b : List Byte) (d : StreamDesc) (o : Nat) : Bool :=
  let sides := d.blocks.filter (·.kind != 4)
  let oneSide := !(sides.any (·.src = 0) && sides.any (·.dst = 0))
  fld (at8 b o 2) 10 6 = 0 && fld (at8 b (o + 4) 1) 7 1 = 0 && fld (at8 b (o + 13) 1) 1 7 = 0 && rsv b (o + 14) 2 && rsv b (o + 20) 12
    && decide (1 ≤ d.blocks.length) && decide (d.blocks.length ≤ 64) && oneSide
    && (d.hasLocal || (d.localBytes = 0xFFFF && d.localBuf = 0xFF && !d.dbl)) && (!d.hasLocal || d.localBytes != 0xFFFF)

/-- The streams of a section. -/
def checkStreamForms (b : List Byte) (nslots : Nat) (plan : List Nat) (s : Sec) : Option Locus :=
  let r := streamsAt b (s.off + s.len) s.count s.off
  firstOf ((r.1.map fun x => firstOf (need (streamOk b x.2.1 x.1) (s.at_ x.1)
      :: x.2.2.map fun o => need (blockOk b nslots plan o) (s.at_ o)))
    ++ [r.2.map fun o => s.at_ o])

/-- The first entry whose key an earlier entry of the list has. -/
def firstRepeat : List (Locus × Nat) → List Nat → Option Locus
  | [], _ => none
  | (l, k) :: t, seen => if seen.contains k then some l else firstRepeat t (k :: seen)

/-- Check 3. -/
def checkForms (b : List Byte) : Option Locus :=
  let dir := imDir b
  let cv := imCanvas b
  let plan := cv.plan
  let n := imSlots b
  let nf := cv.formulas.length
  let places := fun (kind sheet size : Nat) => imEntries b kind sheet size (fun o => o)
  let sheets := List.range (imSheets b)
  let perSheet := sheets.map fun h =>
    let panels := imEntries b 3 h 32 (panelAt b)
    let bufs := imEntries b 5 h 16 (bufAt b)
    firstOf ([firstBad (places 3 h 32) fun o => !panelOk b h n bufs.length o,
        firstRepeat (panels.map fun x => (x.1, x.2.number)) [],
        firstBad (places 5 h 16) (fun o => !bufOk b nf o),
        firstBad (places 7 h 24) (fun o => !semOk b nf o),
        firstRepeat ((imEntries b 7 h 24 (semAt b)).map fun x => (x.1, x.2.id)) [],
        firstBad (places 8 h 16) (fun o => !ctrOk b nf o),
        firstBad (places 9 h 64) (fun o => !redOk b o),
        firstRepeat ((imEntries b 9 h 64 (redAt b)).map fun x => (x.1, x.2.channel * 2 ^ 24 + x.2.id)) []]
      ++ panels.map fun p => firstRepeat (((bufs.drop p.2.planFirst).take p.2.planCount).map fun x => (x.1, x.2.id)) [])
  match checkDir b with
  | some l => some l
  | none =>
    firstOf ([firstBad (imEntries b 1 0xFF 16 fun o => (at8 b o 8, at8 b (o + 8) 8)) (fun x => decide (x.1 < x.2)),
        firstBad (places 2 0xFF 32) (fun o => !formulaOk b plan o)]
      ++ perSheet
      ++ (dir.filter (·.kind = 4)).map (checkProgram b n)
      ++ (dir.filter (·.kind = 6)).map (checkStreamForms b n plan)
      ++ sheets.map fun h => firstRepeat ((imStreams b h).map fun x => (x.1, x.2.1.id)) [])

/-! ### Check 4: alignment -/

/-- The fixed value of a formula, `none` where it derives from slots. -/
def Canvas.fixed (cv : Canvas) (i : Nat) : Option Int :=
  match cv.formulas[i]? with
  | some f => if f.derived then none else some (f.value [])
  | none => none

/-- A block's bases, offsets, strides and fixed lengths (R257, check 4). -/
def alignOk (cv : Canvas) (b : Block) : Bool :=
  let us := endUnit b b.src
  let ud := endUnit b b.dst
  let fixedOk := fun (i u : Nat) => match cv.fixed i with | some v => v % (u : Int) = 0 | none => true
  let winOk := fun (space base ext u : Nat) => space = 0 || (base % u = 0 && fixedOk ext u)
  let stride := max (if memEnd b.src then us else 64) (if memEnd b.dst then ud else 64)
  match b.kind with
  | 4 => aKBase b.payload % us = 0 && aVBase b.payload % us = 0 && aIdBase b.payload % us = 0
  | 1 => winOk b.src b.srcBase b.srcExt us && winOk b.dst b.dstBase b.dstExt ud && at8 b.payload 0 8 % us = 0
      && at8 b.payload 8 8 % ud = 0 && at8 b.payload 16 4 % stride = 0 && at8 b.payload 20 4 % stride = 0
      && fixedOk (at8 b.payload 24 2) us && fixedOk (at8 b.payload 24 2) ud
  | _ => winOk b.src b.srcBase b.srcExt us && winOk b.dst b.dstBase b.dstExt ud

def redAlignOk (r : RedEntry) : Bool :=
  r.srcBase % 4096 = 0 && r.shardBase % 4096 = 0 && r.scaleAddr % 64 = 0 && r.healthBase % 64 = 0

/-- The first block of a sheet's streams that fails a check. -/
def firstBlock (b : List Byte) (h : Nat) (ok : StreamDesc → Block → Bool) : Option Locus :=
  firstOf ((imStreams b h).map fun x =>
    ((x.2.1.blocks.zip x.2.2).find? fun k => !ok x.2.1 k.1).map fun k => (k.2, x.1.2.1, x.1.2.2))

def checkAlign (b : List Byte) : Option Locus :=
  let cv := imCanvas b
  firstOf ((imDir b).map (fun s => need (s.off % 64 = 0) (128 + 16 * s.idx, s.sheet, s.idx))
    ++ (List.range (imSheets b)).map fun h => firstOf
      [firstBad (imEntries b 5 h 16 (bufAt b)) (fun p => p.offset % 64 != 0 || p.size % 64 != 0),
       firstBlock b h (fun _ k => alignOk cv k),
       firstBad (imEntries b 9 h 64 (redAt b)) (fun r => !redAlignOk r)])

/-! ### Check 5: counts against what is bound -/

/-- A stream names things that are there (R257 check 5, Tables 7-3, R235). -/
def State.streamCount (s : State) (e : Nat) (d : Sheet) (t : StreamDesc) : Bool :=
  let panel := d.panels.find? (·.number = t.panel)
  panel.isSome && s.holds e 5 t.slice
    && (!t.hasLocal || match panel with | some p => (d.buf p t.localBuf).isSome | none => false)

/-- A block at check 5. DEDUCED (log entry 135): the panel of a window record, whose tiles issue the stream, is the stream's panel. -/
def State.blockCount (s : State) (e nf : Nat) (d : Sheet) (t : StreamDesc) (b : Block) : Bool :=
  let sem := fun (i : Nat) => d.sems.any (·.id = i)
  let form := fun (i : Nat) => decide (i < nf)
  let ends := (b.src = 0 || form b.srcExt) && (b.dst = 0 || form b.dstExt)
  let p := b.payload
  (!t.hasLocal || form t.localBytes) && (!(b.src = 5 || b.dst = 5) || s.holds e 7 b.channel) && (b.src != 7 || s.holds e 6 b.lane)
    && (match b.kind with
        | 1 => ends && form (at8 p 24 2)
        | 2 => ends
        | 3 => ends && wPanel p = t.panel
            && (!wProgress p || match d.panels.find? (·.number = wPanel p) with
                | some q => (List.range (q.rows * q.cols)).all fun k => sem (wProgressBase p + k)
                | none => false)
            && (!wGate p || ((d.panels.any (·.number = wProducer p))
                && (List.range (wRL p * wCL p)).all fun k => sem (wGateBase p + k)))
        | _ =>
          match d.panels.find? (·.number = aPanel p) with
          | some q =>
            [0, 1, 2, 3].all (fun i => match d.buf q (aBuf p i) with | some f => f.dbl | none => false)
              && (List.range (q.rows * q.cols)).all (fun k => sem (aArrival p + k)) && sem (aRelease p)
          | none => false)

/-- What an instruction of a stage program names is there (R118): buffers in the plan of every panel that runs it, streams,
semaphores and counters declared in its sheet. -/
def wordNamesOk (d : Sheet) (users : List Panel) (op : TileOp) : Bool :=
  let buf := fun (i : Nat) => users.all fun p => (d.buf p i).isSome
  let stream := fun (i : Nat) => d.streams.any (·.id = i)
  let sem := fun (i : Nat) => d.sems.any (·.id = i)
  let ctr := fun (i : Nat) => d.ctrs.any (·.number = i)
  match op with
  | .mma a _ b _ c _ _ _ _ _ => buf a && buf b && buf c
  | .vchain a _ _ => buf a
  | .issue t _ _ b _ useLocal sig m => stream t && (useLocal = 0 || buf b) && (sig = 0 || sem m)
  | .await t all => all = 1 || stream t
  | .signal m _ _ => sem m
  | .wait m _ _ => sem m
  | .waitv m _ _ => sem m
  | .fadd _ c _ _ => ctr c
  | .claim _ c _ => ctr c
  | _ => true

/-- The first word of a program that names something undeclared. -/
def checkNames (b : List Byte) (d : Sheet) (x : Sec) : Option Locus :=
  let users := d.panels.filter (·.program = x.idx)
  firstOf ((secWords b x).zipIdx.map fun w =>
    need (match decodeStage w.1 with | some op => wordNamesOk d users op | none => true) (x.at_ (x.off + 8 * w.2)))

/-- Check 5. DESIGN CHOICE (log entry 136): the tiles required are compared with the tiles bound and not with the tiles used. -/
def State.checkCount (s : State) (e : Nat) (b : List Byte) : Option Locus :=
  let cv := imCanvas b
  let n := s.unitCount e 1
  let nf := cv.formulas.length
  firstOf (need (decide (cv.tilesRequired ≤ n)) (headLocus 20)
    :: (List.range (imSheets b)).map fun h =>
      let d := imSheet b h
      firstOf
        [firstBad (imEntries b 3 h 32 (panelAt b)) (fun p => p.tiles.any fun i => decide (n ≤ i)),
         firstBad (imEntries b 7 h 24 (semAt b)) (fun m =>
           if m.kind = 0 then decide (n ≤ m.home) else !(s.holds e 9 m.home)),
         firstBad (imEntries b 8 h 16 (ctrAt b)) (fun c => !s.holds e 0xA (c.number / 16)),
         firstBad ((imStreams b h).map fun x => (x.1, x.2.1)) (fun t => !s.streamCount e d t),
         firstBlock b h (s.blockCount e nf d),
         firstOf (((imDir b).filter fun x => x.kind = 4 && x.sheet = h).map (checkNames b d)),
         firstBad (imEntries b 9 h 64 (redAt b)) (fun r =>
           !(s.holds e 7 r.channel && s.holds e 5 r.slice && d.sems.any (·.id = r.trigger) && d.sems.any (·.id = r.done)))])

/-! ### Check 6: resources -/

/-- Owned segments of a reduction of `n` segments for rank ρ of a group of G (R348): first and count. -/
def ownedSegments (g rho n : Nat) : Nat × Nat :=
  let first := rho * n / max g 1
  (first, (rho + 1) * n / max g 1 - first)

/-- The group of a data channel in force: G and ρ (R348). -/
def State.group (s : State) (channel : Nat) : Nat × Nat := (policy s (0x6110 + channel) 1, policy s (0x6110 + channel) 2)

/-- The owned segments of a reduction of this device. -/
def State.owned (s : State) (r : RedEntry) : Nat × Nat :=
  let g := s.group r.channel
  ownedSegments g.1 g.2 r.segments

/-- The part of the range of a member f that was spread (R382) which this device takes: its first segment and count, none where
`group_spread_rank` names no other member of the group. -/
def State.spread (s : State) (r : RedEntry) : Nat × Nat :=
  let g := s.group r.channel
  let f := policy s (0x6110 + r.channel) 9
  if f < g.1 ∧ f ≠ g.2 then
    let whole := ownedSegments g.1 f r.segments
    let mine := ownedSegments (g.1 - 1) (if g.2 < f then g.2 else g.2 - 1) whole.2
    (whole.1 + mine.1, mine.2)
  else (0, 0)

/-- The segments of the shard window of a reduction (R348, R382). -/
def State.shardCount (s : State) (r : RedEntry) : Nat := (s.owned r).2 + (s.spread r).2

/-- Buffers of a panel in its local store without overlap, double ones in two halves of whole lines (R74): the first entry of
its plan that does not hold. -/
def placement (plan : List (Locus × BufPlan)) : Option Locus :=
  (plan.zipIdx.find? fun x =>
    let b := x.1.2
    !(decide (b.offset + b.size ≤ storeSize) && (!b.dbl || b.size % 128 = 0))
      || (plan.take x.2).any fun y => overlap y.2.offset y.2.size b.offset b.size).map (·.1.1)

/-- A window in reservoir SRAM at its planned maximum (R257 check 6). -/
def State.sramOk (s : State) (e : Nat) (cv : Canvas) (b : Block) : Bool :=
  let one := fun (space base ext : Nat) =>
    space != 3 || decide ((base : Int) + cv.formula ext cv.plan ≤ (s.unitCount e 4 * 1048576 : Nat))
  b.kind = 4 || (one b.src b.srcBase b.srcExt && one b.dst b.dstBase b.dstExt)

/-- A window or attention record at check 6 (Table 7-3, R235). -/
def recordRoom (plan : List Nat) (b : Block) : Bool :=
  match b.kind with
  | 3 => (wKind b.payload = 3 || wKind b.payload = 4 || decide (wK b.payload plan ≤ 2 ^ 24)) && decide (wH b.payload * wWc b.payload ≤ 4096)
  | 4 => decide (aLength b.payload plan ≤ 2 ^ 24) && decide (aKeys b.payload plan ≤ aLength b.payload plan)
  | _ => true

/-- Claim storage (R297): the first counter at which the bitmaps on its compute die pass the blocks held there. -/
def State.claimOver (s : State) (e : Nat) (l : List (Locus × CtrDecl)) : Option Locus :=
  (l.zipIdx.find? fun x =>
    let d := x.1.2.number / 1024
    let used := (((l.take (x.2 + 1)).filter fun c => c.2.number / 1024 = d).map (·.2.bitmap)).foldl (· + ·) 0
    decide (262144 * ((s.units e 0xA).filter fun u => u / 64 = d).length < used)).map (·.1.1)

def State.checkResource (s : State) (e : Nat) (b : List Byte) : Option Locus :=
  let cv := imCanvas b
  let cap := s.unitCount e 4 * 1048576
  firstOf ((List.range (imSheets b)).map fun h =>
    let d := imSheet b h
    let panels := imEntries b 3 h 32 (panelAt b)
    firstOf
      [firstRepeat (panels.flatMap fun p => p.2.tiles.map fun t => (p.1, t)) [],
       firstOf (((imDir b).filter fun x => x.kind = 4 && x.sheet = h).map fun x =>
         need (decide (x.count ≤ 8192)) (128 + 16 * x.idx, x.sheet, x.idx)),
       firstOf (panels.map fun p => placement (((imEntries b 5 h 16 (bufAt b)).drop p.2.planFirst).take p.2.planCount)),
       firstBad ((imStreams b h).map fun x => (x.1, x.2.1)) (fun t =>
         t.hasLocal && match (d.panels.find? (·.number = t.panel)).bind fun p => d.buf p t.localBuf with
           | some f => f.dbl != t.dbl
           | none => false),
       firstRepeat ((imEntries b 7 h 24 (semAt b)).map fun x => (x.1, x.2.home * 512 + x.2.kind * 256 + x.2.id % 256)) [],
       firstBlock b h (fun _ k => s.sramOk e cv k && recordRoom cv.plan k),
       firstBad (imEntries b 9 h 64 (redAt b)) (fun r =>
         (r.srcSpace = 3 && !within r.srcBase (r.segments * 4096) cap)
           || (r.shardSpace = 3 && !within r.shardBase (s.shardCount r * 4096) cap)),
       s.claimOver e (imEntries b 8 h 16 (ctrAt b))])

/-! ### Check 7: planned use (native mode) -/

/-- A limit passed by a formula at one of its two extremes (R77). -/
def Canvas.passes (cv : Canvas) (limit : Int) (i : Nat) : Bool :=
  decide (limit < cv.formula i cv.plan) || decide (limit < cv.formula i (cv.plan.map fun _ => 0))

def checkUse (b : List Byte) : Option Locus :=
  let cv := imCanvas b
  firstOf ((List.range (imSheets b)).map fun h =>
    let d := imSheet b h
    firstOf
      [firstBad (imEntries b 5 h 16 (bufAt b)) (fun p => p.used != 0xFFFF && cv.passes p.room p.used),
       firstBad (imEntries b 8 h 16 (ctrAt b)) (fun c =>
         c.bitmap != 0 && cv.passes ((c.bitmap : Int) - c.first) c.tickets),
       firstBad ((imStreams b h).map fun x => (x.1, x.2.1)) (fun t =>
         t.hasLocal && match (d.panels.find? (·.number = t.panel)).bind fun p => d.buf p t.localBuf with
           | some f => cv.passes f.room t.localBytes
           | none => false)])

/-! ### Check 8: ranges -/

/-- Whether formula `i` is looked at in this mode: always in native mode, fixed ones alone in compatibility mode. -/
def Canvas.looked (cv : Canvas) (compat : Bool) (i : Nat) : Bool := !compat || (cv.fixed i).isSome

/-- A window's length and range (R257 check 8). What attention reads follows from its length slot: at run time in compatibility mode. -/
def State.rangeOk (s : State) (e : Nat) (cv : Canvas) (compat : Bool) (b : Block) : Bool :=
  let zero := cv.plan.map fun _ => 0
  let one := fun (space base ext : Nat) =>
    if space = 0 || !cv.looked compat ext then true
    else
      let hi := cv.formula ext cv.plan
      decide (0 ≤ cv.formula ext zero) && decide (0 ≤ hi)
        && (match space with
            | 0x1 => s.mapped e base hi.toNat
            | 0x4 => within base hi.toNat (s.flashBytes e)
            | _ => true)
  if b.kind = 4 then
    let p := b.payload
    let l := aLength p cv.plan
    let n := ceilDiv l (aBk p) * (aBk p * aD p * (widthOf (aFormat p) / 8))
    compat || (s.mapped e (aKBase p) n && s.mapped e (aVBase p) n && (!aSegments p || s.mapped e (aIdBase p) (2 * l)))
  else one b.src b.srcBase b.srcExt && one b.dst b.dstBase b.dstExt

def State.redRangeOk (s : State) (e : Nat) (r : RedEntry) : Bool :=
  (r.srcSpace != 1 || s.mapped e r.srcBase (r.segments * 4096))
    && (r.shardSpace != 1 || s.mapped e r.shardBase (s.shardCount r * 4096))
    && (r.wire = 0 || s.mapped e r.scaleAddr 4) && (r.healthBase = 0 || s.mapped e r.healthBase 64)

def State.checkRanges (s : State) (e : Nat) (b : List Byte) (compat : Bool) : Option Locus :=
  let cv := imCanvas b
  firstOf ((List.range (imSheets b)).map fun h => firstOf
    [firstBlock b h (fun _ k => s.rangeOk e cv compat k),
     firstBad (imEntries b 9 h 64 (redAt b)) (fun r => !s.redRangeOk e r)])

/-! ### Check 9: lengths (R88, R494) -/

/-- The fixed lengths of a block that is no extent, each against the buffer or the half it goes to: what an attention block delivers, and
the largest chunk of an ungrouped convolution input of constant extents. -/
def fixedLengthOk (cv : Canvas) (d : Sheet) (t : StreamDesc) (b : Block) : Bool :=
  let p := b.payload
  let fits := fun (panel buf n : Nat) =>
    match (d.panels.find? (·.number = panel)).bind fun q => d.buf q buf with
    | some f => decide (n ≤ f.room)
    | none => true
  match b.kind with
  | 3 =>
    let rows := min (wH p) (wHout p cv.plan) * min (wWc p) (wWout p cv.plan)
    if wKind p = 1 && decide (wGroups p ≤ 1) && at8 p 48 1 = 0xFF && at8 p 49 1 = 0xFF then
      fits t.panel t.localBuf (rows * pitchOf (wK p cv.plan) (widthOf (wFormat p)))
    else true
  | 4 => [0, 1, 2, 3].all fun i => fits (aPanel p) (aBuf p i) (attnSize p i)
  | _ => true

def lengthOk (cv : Canvas) (d : Sheet) (compat : Bool) (t : StreamDesc) (b : Block) : Bool :=
  if b.kind != 1 then fixedLengthOk cv d t b
  else if compat then cv.derived (at8 b.payload 24 2) || (extentMisfit cv d t b true cv.plan).isNone
  else if extentDerived cv b then
    (extentMisfit cv d t b false (cv.plan.map fun _ => 0)).isNone && (extentMisfit cv d t b false cv.plan).isNone
  else (extentMisfit cv d t b false cv.plan).isNone

def checkLengths (b : List Byte) (compat : Bool) : Option Locus :=
  let cv := imCanvas b
  firstOf ((List.range (imSheets b)).map fun h => firstBlock b h (lengthOk cv (imSheet b h) compat))

/-! ### Check 10: synchronization formulas -/

/-- The produce, consume and final formulas of a semaphore; `none` without them (R496). -/
def Canvas.semForms (cv : Canvas) (m : SemDecl) : Option (Formula × Formula × Formula) :=
  if m.final = 0xFFFF then none else
  match cv.formulas[m.produce]?, cv.formulas[m.consume]?, cv.formulas[m.final]? with
  | some p, some c, some f => some (p, c, f)
  | _, _, _ => none

/-- R78. -/
def semPlanOk (cv : Canvas) (m : SemDecl) : Bool :=
  match cv.semForms m with
  | none => true
  | some (p, c, f) =>
    let zero := cv.plan.map fun _ => 0
    let ok := fun (v : Int) => decide (0 ≤ v) && decide (v ≤ (m.max : Int))
    p.factors == c.factors && c.factors == f.factors && f.coefficient = p.coefficient - c.coefficient
      && f.offset = (m.initial : Int) + p.offset - c.offset
      && [zero, cv.plan].all fun v => ok (f.value v) && ok ((m.initial : Int) + p.value v)

/-- A formula of coefficient `k` with one factor of slot and divisor, and offset `o`. -/
def Formula.is (f : Formula) (k slot divisor : Nat) (o : Int) : Bool :=
  f.coefficient = (k : Int) && f.offset = o && (f.factors.filter fun p => p.1 != 0xFF) == [(slot, divisor)]

/-- The out-height slot of a layer whose output record is `p` (R182): that of an input record of its panel, else the slot
of the output's own height (DEDUCED, log entry 46). -/
def outHeightSlot (d : Sheet) (p : List Byte) : Nat :=
  let ins := d.streams.flatMap fun t => t.blocks.filterMap fun b =>
    if b.kind = 3 && (wKind b.payload = 1 || wKind b.payload = 4) && wPanel b.payload = wPanel p then some (at8 b.payload 50 1) else none
  match ins.head? with | some i => i | none => at8 p 48 1

/-- Progress semaphores of an output record (R182). -/
def progressOk (cv : Canvas) (d : Sheet) (p : List Byte) : Bool :=
  match d.panels.find? (·.number = wPanel p) with
  | none => false
  | some q =>
    let slot := outHeightSlot d p
    (List.range (q.rows * q.cols)).all fun k =>
      match (d.sems.find? (·.id = wProgressBase p + k)).bind fun m => (cv.semForms m).map fun f => (m, f) with
      | some (m, f) => f.1.is 1 slot (q.rows * wH p) f.1.offset && f.2.1.coefficient = 0
          && f.2.2.is 1 slot (q.rows * wH p) (m.initial : Int)
      | none => false

/-- A gated record (R184): reach, and the producer's panel and output record. -/
def gateRecordOk (d : Sheet) (plan : List Nat) (p : List Byte) : Bool :=
  let rows := keptRows p plan
  let lo := rows.head?.getD 0
  let hi := rows.getLast?.getD 0
  let producer := d.panels.find? (·.number = wProducer p)
  let outs := d.streams.flatMap fun t => t.blocks.filterMap fun b =>
    if b.kind = 3 && wKind b.payload = 3 && wPanel b.payload = wProducer p && wProgress b.payload && wProgressBase b.payload = wGateBase p
      then some b.payload else none
  wHL p = wSy p * wH p && decide ((wPt p : Int) - (lo * wDy p : Nat) ≤ (wHL p : Nat))
    && decide ((hi * wDy p : Nat) - (wPt p : Int) - (wSy p : Nat) + 1 ≤ (wHL p : Nat))
    && (match producer with | some q => q.rows = wRL p && q.cols = wCL p | none => false)
    && (match outs.head? with | some o => wH o = wHL p | none => false)

/-- Attention semaphores (R239). -/
def attentionSems (cv : Canvas) (d : Sheet) (p : List Byte) : Bool :=
  let slot := at8 p 11 1
  let forms := fun (id k : Nat) =>
    match (d.sems.find? (·.id = id)).bind fun m => (cv.semForms m).map fun f => (m, f) with
    | some (m, f) => f.1.is k slot (aBk p) f.1.offset && f.2.1.is k slot (aBk p) f.2.1.offset && f.2.2.offset = (m.initial : Int)
    | none => false
  match d.panels.find? (·.number = aPanel p) with
  | some q => (List.range (q.rows * q.cols)).all (fun k => forms (aArrival p + k) 1) && forms (aRelease p) (q.rows * q.cols)
  | none => false

/-- A record at check 10 (Table 7-3, R239). -/
def recordPlanOk (cv : Canvas) (d : Sheet) (b : Block) : Bool :=
  let p := b.payload
  match b.kind with
  | 3 =>
    (!wProgress p || progressOk cv d p) && (!wGate p || gateRecordOk d cv.plan p)
      && (!(wKind p = 1 || wKind p = 4)
          || (decide (wHout p cv.plan ≤ slotAt cv.plan (at8 p 50 1)) && decide (wWout p cv.plan ≤ slotAt cv.plan (at8 p 51 1))))
  | 4 => attentionSems cv d p
  | _ => true

/-- The done semaphore of a reduction (R349). -/
def State.redPlanOk (s : State) (cv : Canvas) (d : Sheet) (r : RedEntry) : Bool :=
  match (d.sems.find? (·.id = r.done)).bind cv.semForms with
  | some f => f.1.coefficient = 0 && f.1.offset = (ceilDiv (s.owned r).2 65535 + ceilDiv (s.spread r).2 65535 : Nat)
  | none => false

def State.checkPlan (s : State) (b : List Byte) (compat : Bool) : Option Locus :=
  let cv := imCanvas b
  firstOf ((List.range (imSheets b)).map fun h =>
    let d := imSheet b h
    firstOf
      [firstBad (imEntries b 7 h 24 (semAt b)) (fun m => !semPlanOk cv m),
       firstBlock b h (fun _ k => recordPlanOk cv d k),
       firstBad (imEntries b 9 h 64 (redAt b)) (fun r =>
         !(s.redPlanOk cv d r || (compat && ((d.sems.find? (·.id = r.done)).bind cv.semForms).isNone)))])

end Sys2Proof.Machine
end

