-- ==== Sys2Proof/Machine/Loader.lean ====
section
/-! DEFINITION. Loading a canvas (R66 to R68, R81 to R83), switching sheets (R60, R61) and moving tile rows between panels
(R229 to R234). -/

namespace Sys2Proof.Machine

/-- AUTH_FAIL (R457): counted, and raised by the security block. -/
def State.authFail (s : State) (e : Nat) (seq a cause : Nat) : State :=
  let s := { s with trust := { s.trust with authFailures := s.trust.authFailures + 1 } }
  s.reportSeq 0x0A01 e 0x0B 0 seq a cause

/-! ### LOAD_CANVAS -/

/-- What the checks find: the fault code, the check number and where. -/
def State.checkImage (s : State) (e : Nat) (b : List Byte) : Option (Nat × Nat × Locus) :=
  let compat := s.compat e
  let on := fun (code n : Nat) (r : Unit → Option Locus) (rest : Unit → Option (Nat × Nat × Locus)) =>
    match r () with
    | some l => some (code, n, l)
    | none => rest ()
  on 0x0201 3 (fun _ => checkForms b) fun _ =>
  on 0x0203 4 (fun _ => checkAlign b) fun _ =>
  on 0x0204 5 (fun _ => s.checkCount e b) fun _ =>
  on 0x0202 6 (fun _ => s.checkResource e b) fun _ =>
  on 0x0202 7 (fun _ => if compat then none else checkUse b) fun _ =>
  on 0x0501 8 (fun _ => s.checkRanges e b compat) fun _ =>
  on 0x0310 9 (fun _ => checkLengths b compat) fun _ =>
  on 0x0205 10 (fun _ => s.checkPlan b compat) fun _ => none

/-- Check 2 beyond the form (R81): a signed image verifies against an enrolled owner key, an unsigned one is allowed. -/
def State.signatureOk (s : State) (b : List Byte) (verified : Bool) : Bool :=
  if imSigned b then
    let slot := at8 b (imSigOff b + 2) 1
    verified && decide (slot < 8) && s.keyUsable slot
  else policy s 0x1800 1 = 0

/-- The record of a load that a check ends (R82). -/
def State.loadFault (s : State) (e : Nat) (c : Cmd) (code n : Nat) (l : Locus) : State :=
  s.reportSeq code e 0x02 e c.seq l.1 (n + l.2.1 * 256 + l.2.2 * 65536)

/-- The image a load command names, and whether a poisoned line lies in what of it is read: bytes 0 to D - 1 and the signature block
(R69). -/
def State.image (s : State) (e : Nat) (c : Cmd) : List Byte × Bool :=
  let b := (s.readVa e c.param c.paramLen).getD []
  let signature := imSigned b && decide (imSigOff b + 2048 ≤ c.paramLen) && s.poisonedVa e (c.param + imSigOff b) 2048
  (b, s.poisonedVa e c.param (min (imEnd b) c.paramLen) || signature)

/-- What becomes of a load: the checks of Table 3-9 in order; a good image waits for its commit. -/
def State.loadImage (s : State) (e : Nat) (c : Cmd) (verified : Bool) : State :=
  let (b, bad) := s.image e c
  match (if bad then some (headLocus 0) else checkHead b c.paramLen (s.compat e)) with
  | some l => (s.loadFault e c 0x0201 1 l).finishCmd e c
  | none =>
    match checkSignature b with
    | some l => (s.loadFault e c 0x0201 2 l).finishCmd e c
    | none =>
      if !s.signatureOk b verified then (s.authFail e c.seq (imSigOff b) 4).finishCmd e c
      else
        match s.checkImage e b with
        | some (code, n, l) => (s.loadFault e c code n l).finishCmd e c
        | none => s.onEasel e fun x => { (x.setPhase c.seq .started) with loading := some (imCanvas b) }

/-- LOAD_CANVAS (R66): `verified` is the verdict of the security block on the signature. -/
def execLoadCanvas (e : Nat) (verified : Bool) (s : State) : Host.Outcome State Fault Refusal :=
  match (s.easel e).dispatched 2 with
  | some c => if s.works e then .next (s.loadImage e c verified) else .next s
  | none => .next s

/-! ### The commit -/

/-- The programs of the active sheet written to the tiles of its panels (Table 3-1 order 4, R61). -/
def State.installPrograms (s : State) (e : Nat) : State :=
  match (s.easel e).sheetDef with
  | none => s
  | some d => d.panels.foldl (fun s p =>
      let w := match d.programs.find? (·.1 = p.program) with | some q => q.2 | none => []
      (p.tiles.filterMap (s.denseOf e)).foldl (fun s t => s.onTile t fun x => { x with program := w }) s) s

/-- Buffer levels and consumption of an easel's streams forgotten (Table 2-8, R61). -/
def State.clearFlows (s : State) (e : Nat) : State :=
  { s with streams := { s.streams with flows := s.streams.flows.filter fun f => s.ownerOf 1 f.tile != some e } }

/-- A sheet put in force: programs, initial values, stream slices. -/
def State.installSheet (s : State) (e : Nat) : State := ((s.installPrograms e).initialSync e).clearFlows e

/-- An easel with the loaded canvas committed over the tiles bound now (R72, R405, R169). -/
def Easel.commit (x : Easel) (cv : Canvas) (tiles : List Nat) : Easel :=
  { x with canvas := some { cv with tileMap := tiles }, loading := none, sheet := 0, slots := cv.slots.map (·.2), openStep := 0,
           closedStep := 0, verdicts := [], fired := [], clean := 0, lossFresh := true, lossNext := none, moved := none, rearranged := none }

/-- CANVAS_LOADED (R67, R68): the commit, the record and the end of the load. -/
def execCanvasLoaded (e us : Nat) (s : State) : Host.Outcome State Fault Refusal :=
  let x := s.easel e
  match x.loading, x.running 2 with
  | some cv, some c =>
    if !s.works e then .next s
    else
      let s := (s.setEasel e (x.commit cv (s.units e 1))).installSheet e
      .next ((s.reportSeq 0x0211 e 0x02 e c.seq cv.id (us % 2 ^ 32)).finishCmd e c)
  | _, _ => .next s

/-- CANVAS_UNLOADED (R53, R55, R68): the canvas is gone with all its sheets. -/
def State.unloadCanvas (s : State) (e : Nat) : State :=
  match (s.easel e).canvas with
  | some cv => (s.report 0x0212 e 0x02 e cv.id 0).onEasel e fun x => x.unload
  | none => s

/-! ### Sheets -/

/-- Unit of the control sequencer of an easel: the compute die of its logical tile 0, the first of its tiles without a canvas. -/
def State.sequencer (s : State) (e : Nat) : Nat :=
  match s.denseOf e 0 with
  | some t => s.server t / 168
  | none => match (s.units e 1).head? with | some t => s.server t / 168 | none => 0

/-- SHEET_SWITCH (R60): the new sheet begins to load. -/
def execSheetSwitch (e : Nat) (s : State) : Host.Outcome State Fault Refusal :=
  match (s.easel e).dispatched 3 with
  | some c => if s.works e then .next (s.onEasel e fun x => x.setPhase c.seq .started) else .next s
  | none => .next s

/-- SHEET_SWITCHED (R60, R61, R232): the arrangement the image gives the sheet, its programs and its initial values. -/
def execSheetSwitched (e : Nat) (s : State) : Host.Outcome State Fault Refusal :=
  let x := s.easel e
  match x.running 3 with
  | none => .next s
  | some c =>
    if !s.works e then .next s
    else
      let s := (s.setEasel e { x with sheet := c.argument, moved := none }).installSheet e
      .next ((s.reportSeq 0x0210 e 0x03 (s.sequencer e) c.seq (x.sheet + c.argument * 256) 0).finishCmd e c)

/-! ### Reweight -/

/-- Move `k` of a reweight block: donor, receiver, rows. -/
def rwMove (p : List Byte) (k : Nat) : Nat × Nat × Nat := (at8 p (8 + 8 * k) 2, at8 p (10 + 8 * k) 2, at8 p (12 + 8 * k) 1)

/-- The donor gives up its last rows (the receiver follows it), or its first (the donor follows the receiver). -/
def giveLast (d r : Panel) : Bool := r.origin = d.origin + d.rows * d.stride

/-- The logical tiles a move takes. -/
def movedTiles (d r : Panel) (rows : Nat) : List Nat :=
  let first := if giveLast d r then d.rows - rows else 0
  (List.range rows).flatMap fun i => (List.range d.cols).map fun c => d.origin + (first + i) * d.stride + c

/-- Both panels after a move (R231). -/
def moveRows (d r : Panel) (rows : Nat) : Panel × Panel :=
  if giveLast d r then
    ({ d with rows := d.rows - rows }, { r with origin := r.origin - rows * r.stride, rows := r.rows + rows })
  else ({ d with origin := d.origin + rows * d.stride, rows := d.rows - rows }, { r with rows := r.rows + rows })

/-- Whether a window record with progress or gate names a panel. -/
def windowNames (sh : Sheet) (n : Nat) : Bool :=
  sh.streams.any fun t => t.blocks.any fun b =>
    b.kind = 3 && (wProgress b.payload || wGate b.payload) && (wPanel b.payload = n || (wGate b.payload && wProducer b.payload = n))

/-- A move against the arrangement before it: the reason it is refused (Table 9-3), or the arrangement it leaves. -/
def oneMove (sh : Sheet) (m : Nat × Nat × Nat) (reserved : Bool) : Nat ⊕ Sheet :=
  if !reserved || m.2.2 = 0 || decide (254 < m.2.2) then .inl 1
  else
    match sh.panels.find? (·.number = m.1), sh.panels.find? (·.number = m.2.1) with
    | some d, some r =>
      if d.number = r.number then .inl 2
      else if d.cols != r.cols || d.stride != r.stride || !(giveLast d r || d.origin = r.origin + r.rows * r.stride) then .inl 3
      else if d.rows ≤ m.2.2 || decide (255 < r.rows + m.2.2) then .inl 4
      else if windowNames sh d.number || windowNames sh r.number then .inl 5
      else if sh.sems.any fun q => q.kind = 0 && (movedTiles d r m.2.2).contains q.home then .inl 6
      else
        let n := moveRows d r m.2.2
        .inr { sh with panels := sh.panels.map fun p =>
          if p.number = d.number then n.1 else if p.number = r.number then n.2 else p }
    | _, _ => .inl 2

/-- The moves of a block in order: the reason and index of the first refused, or the arrangement. -/
def allMoves (p : List Byte) : Nat → Nat → Sheet → (Nat × Nat) ⊕ Sheet
  | 0, _, sh => .inr sh
  | n + 1, k, sh =>
    match oneMove sh (rwMove p k) (rsv p (13 + 8 * k) 3) with
    | .inl r => .inl (r, k)
    | .inr sh' => allMoves p n (k + 1) sh'

/-- The whole block checked (R230). -/
def checkReweight (p : List Byte) (sh : Sheet) : (Nat × Nat) ⊕ Sheet :=
  let n := at8 p 0 1
  if n = 0 || decide (8 < n) || !rsv p 1 7 then .inl (1, 0)
  else allMoves p n 0 sh

/-- The parameter block of a command, behind its slot list (R403). -/
def State.blockOf (s : State) (e : Nat) (c : Cmd) : List Byte :=
  bytesAt ((s.readVa e (c.param + 16 * c.listCount) (blockSize c.op)).getD []) 0 (blockSize c.op)

/-- REWEIGHT (R230): the moves checked whole; a refused command changes nothing and ends. -/
def execReweight (e : Nat) (s : State) : Host.Outcome State Fault Refusal :=
  let x := s.easel e
  match x.dispatched 4, x.sheetDef with
  | some c, some sh =>
    if !s.works e then .next s
    else
      match checkReweight (s.blockOf e c) sh with
      | .inl (r, k) => .next ((s.reportSeq 0x0214 e 0x03 (s.sequencer e) c.seq 0 (r + k * 256)).finishCmd e c)
      | .inr sh' => .next (s.setEasel e { (x.setPhase c.seq .started) with rearranged := some sh' })
  | _, _ => .next s

/-- PANEL_REWEIGHTED (R231): the moved tiles have the receiver's program; counts and local stores keep their values. -/
def execPanelReweighted (e us : Nat) (s : State) : Host.Outcome State Fault Refusal :=
  let x := s.easel e
  match x.running 4, x.rearranged with
  | some c, some sh =>
    if !s.works e then .next s
    else
      let s := (s.setEasel e { x with moved := some sh, rearranged := none }).installPrograms e
      .next ((s.reportSeq 0x0213 e 0x03 (s.sequencer e) c.seq (at8 (s.blockOf e c) 0 1) (us % 2 ^ 32)).finishCmd e c)
  | _, _ => .next s

end Sys2Proof.Machine
end

