-- ==== Sys2Proof/Machine/Binding.lean ====
section
/-! DEFINITION. Binding (R39 to R62, R495): requests, draining, clearing, the end of a request and its rollback, `easel_reset`,
function resets and revocation. -/

namespace Sys2Proof.Machine

/-! ### The staged request (R48, Tables 2-4 and 2-5) -/

def rqOp (b : List Byte) : Nat := at8 b 0 1
def rqEasel (b : List Byte) : Nat := at8 b 1 1 % 64
def rqSource (b : List Byte) : Nat := at8 b 2 1 % 64
def rqForced (b : List Byte) : Bool := (at8 b 3 1).testBit 0
def rqErase (b : List Byte) : Bool := (at8 b 3 1).testBit 1
def rqCount (b : List Byte) : Nat := at8 b 4 2
def rqTimeout (b : List Byte) : Nat := at8 b 8 4
def rqTag (b : List Byte) : Nat := at8 b 12 4

/-- Extents: class, first, count, placement. -/
def rqExtents (b : List Byte) : List (Nat × Nat × Nat × Nat) :=
  (List.range (rqCount b)).map fun k => (at8 b (16 + 16 * k) 1, at8 b (20 + 16 * k) 4, at8 b (24 + 16 * k) 4, at8 b (28 + 16 * k) 4)

/-- The easel that releases units: of an unbind the easel, of a move the source. -/
def rqReleases (b : List Byte) : Nat := if rqOp b = 3 then rqSource b else rqEasel b

/-! ### The checks in the order of R495 -/

/-- Step 1. -/
def headerOk (b : List Byte) : Bool :=
  b.length = 16 + 16 * rqCount b && decide (1 ≤ rqOp b) && decide (rqOp b ≤ 3) && decide (at8 b 1 1 < 64)
    && decide (at8 b 2 1 < 64) && decide (at8 b 3 1 < 4) && rsv b 6 2 && decide (1 ≤ rqCount b) && decide (rqCount b ≤ 1024)
    && (rqOp b = 3 || rqSource b = 0) && (rqForced b || decide (rqTimeout b ≤ 60000))
    && !(rqOp b = 3 && rqSource b = rqEasel b)

/-- The first extent, ascending, that `bad` names. -/
def badExtent (b : List Byte) (bad : Nat → Nat × Nat × Nat × Nat → Bool) : Option Nat :=
  ((rqExtents b).zipIdx.find? fun x => bad x.2 x.1).map (·.2)

/-- Step 2 at extent `k`. -/
def extentForm (b : List Byte) (k : Nat) (x : Nat × Nat × Nat × Nat) : Bool :=
  decide (1 ≤ x.1) && decide (x.1 ≤ 0xB) && rsv b (17 + 16 * k) 3 && x.2.2.1 != 0 && (placed x.1 || x.2.2.2 = 0)

/-- Step 5. -/
def rangeForm (x : Nat × Nat × Nat × Nat) : Bool :=
  decide (x.2.1 + x.2.2.1 ≤ classSize x.1)
    && (!(x.1 = 2 || x.1 = 3) || decide (x.2.2.2 + x.2.2.1 ≤ 2 ^ 27)) && (x.1 != 8 || decide (x.2.2.2 + x.2.2.1 ≤ 32))

/-- Two runs [a, a + n) and [c, c + m) share a number. -/
def meets (a n c m : Nat) : Bool := decide (a < c + m) && decide (c < a + n)

/-- Step 6: extent `k` names a unit that an earlier extent names. -/
def namedTwice (l : List (Nat × Nat × Nat × Nat)) (k : Nat) (x : Nat × Nat × Nat × Nat) : Bool :=
  (l.take k).any fun y => y.1 = x.1 && meets y.2.1 y.2.2.1 x.2.1 x.2.2.1

/-- Step 8: a tile number that is not bindable (R40), or a retired unit of another class (R386, R388). -/
def State.unbindable (s : State) (x : Nat × Nat × Nat × Nat) : Bool :=
  if x.1 = 1 then (span x.2.1 (x.2.1 + x.2.2.1)).any fun n => !s.bindable n
  else s.bind.retired.any fun r => r.1 = x.1 && decide (x.2.1 ≤ r.2.1) && decide (r.2.1 < x.2.1 + x.2.2.1)

/-- How many units of a run an easel holds. -/
def State.heldIn (s : State) (e cls first count : Nat) : Nat :=
  ((s.held e cls).map fun x => min (x.first + x.count) (first + count) - max x.first first).foldl (· + ·) 0

/-- Step 9: ownership (reason 0x03). -/
def State.wrongOwner (s : State) (op e : Nat) (x : Nat × Nat × Nat × Nat) : Bool :=
  if op = 1 then s.bind.table.any fun y => y.cls = x.1 && meets y.first y.count x.2.1 x.2.2.1
  else s.heldIn e x.1 x.2.1 x.2.2.1 != x.2.2.1

/-- Classes whose placements share a space: pages of both tiers, and queues. -/
def sameSpace (c d : Nat) : Bool := ((c = 2 || c = 3) && (d = 2 || d = 3)) || (c = 8 && d = 8)

/-- Step 10: a placement in use in the target, or given twice. -/
def State.placedTwice (s : State) (l : List (Nat × Nat × Nat × Nat)) (e k : Nat) (x : Nat × Nat × Nat × Nat) : Bool :=
  placed x.1 &&
    ((s.bind.table.any fun y => y.easel = e && sameSpace y.cls x.1 && meets y.place y.count x.2.2.2 x.2.2.1)
      || (l.take k).any fun y => sameSpace y.1 x.1 && meets y.2.2.2 y.2.2.1 x.2.2.2 x.2.2.1)

/-- The reason and extent index of the first check that fails; 0xFFFF for a header. -/
def State.checkRequest (s : State) (b : List Byte) : Option (Nat × Nat) :=
  let op := rqOp b
  let l := rqExtents b
  let at_ := fun (reason : Nat) (o : Option Nat) => o.map fun k => (reason, k)
  if !headerOk b then some (0x01, 0xFFFF)
  else
    match at_ 0x01 (badExtent b fun k x => !extentForm b k x) with
    | some r => some r
    | none =>
      if op != 2 && !s.functionOn (rqEasel b) then some (0x06, 0xFFFF)
      else if op != 1 && (s.easel (rqReleases b)).mode == .free then some (0x03, 0xFFFF)
      else
        (at_ 0x02 (badExtent b fun _ x => !rangeForm x)).orElse fun _ =>
        (at_ 0x01 (badExtent b (namedTwice l))).orElse fun _ =>
        (at_ 0x0A (badExtent b fun _ x => op != 1 && x.1 = 8 && x.2.1 = 0)).orElse fun _ =>
        (at_ 0x04 (badExtent b fun _ x => s.unbindable x)).orElse fun _ =>
        (at_ 0x03 (badExtent b fun _ x => s.wrongOwner op (rqReleases b) x)).orElse fun _ =>
        at_ 0x05 (badExtent b fun k x => op != 2 && s.placedTwice l (rqEasel b) k x)

/-! ### What a canvas names (R53) -/

/-- Whether a released run meets the pages, granules or flash of a window [base, base + n) of a space. -/
def State.windowMeets (s : State) (e space base n : Nat) (r : Nat × Nat × Nat) : Bool :=
  n != 0 && match space with
    | 0x1 => (r.1 = 2 || r.1 = 3) && (s.held e r.1).any fun x =>
        -- virtual pages of the released part of this extent
        let lo := max x.first r.2.1
        let hi := min (x.first + x.count) (r.2.1 + r.2.2)
        decide (lo < hi) && meets (x.place + (lo - x.first)) (hi - lo) (base / pageBytes) ((base + n - 1) / pageBytes + 1 - base / pageBytes)
    | 0x3 => r.1 = 4 && (span (base / 1048576) ((base + n - 1) / 1048576 + 1)).any fun k =>
        match nthUnit (s.held e 4) k with | some u => decide (r.2.1 ≤ u) && decide (u < r.2.1 + r.2.2) | none => false
    | 0x4 => r.1 = 0xB && (span (base / 1073741824) ((base + n - 1) / 1073741824 + 1)).any fun k =>
        match nthUnit (s.held e 0xB) k with | some u => decide (r.2.1 ≤ u) && decide (u < r.2.1 + r.2.2) | none => false
    | _ => false

/-- The address windows of a block at planned maxima: space, base, bytes. -/
def blockWindows (cv : Canvas) (b : Block) : List (Nat × Nat × Nat) :=
  if b.kind = 4 then
    let p := b.payload
    let l := aLength p cv.plan
    let n := ceilDiv l (aBk p) * (aBk p * aD p * (widthOf (aFormat p) / 8))
    [(1, aKBase p, n), (1, aVBase p, n)] ++ (if aSegments p then [(1, aIdBase p, 2 * l)] else [])
  else [(b.src, b.srcBase, (cv.formula b.srcExt cv.plan).toNat), (b.dst, b.dstBase, (cv.formula b.dstExt cv.plan).toNat)]

/-- Fabric channels and primer lanes a block names. -/
def blockUnits (b : Block) : List (Nat × Nat) :=
  (if b.src = 7 then [(6, b.lane)] else []) ++ (if b.src = 5 || b.dst = 5 then [(7, b.channel)] else [])

/-- Whether a released run (class, first, count) holds a unit that the canvas of `e` names. -/
def State.canvasNames (s : State) (e : Nat) (cv : Canvas) (r : Nat × Nat × Nat) : Bool :=
  let hit := fun (cls u : Nat) => r.1 = cls && decide (r.2.1 ≤ u) && decide (u < r.2.1 + r.2.2)
  (cv.tileMap.take cv.tilesRequired).any (hit 1) ||
  cv.sheets.any fun d =>
    d.sems.any (fun m => m.kind = 1 && hit 9 m.home) || d.ctrs.any (fun c => hit 0xA (c.number / 16))
      || d.streams.any (fun t => hit 5 t.slice || t.blocks.any fun b =>
          (blockUnits b).any (fun u => hit u.1 u.2) || (blockWindows cv b).any fun w => s.windowMeets e w.1 w.2.1 w.2.2 r)
      || d.reds.any fun q =>
          hit 5 q.slice || hit 7 q.channel || s.windowMeets e q.srcSpace q.srcBase (q.segments * 4096) r
            || s.windowMeets e q.shardSpace q.shardBase (s.shardCount q * 4096) r || s.windowMeets e 1 q.scaleAddr (if q.scaleAddr = 0 then 0 else 4) r
            || s.windowMeets e 1 q.healthBase (if q.healthBase = 0 then 0 else 64) r

/-! ### Clearing (R55, Table 2-8) -/

/-- [a, a + n) of the device memory zeroed. -/
def State.wipe (s : State) (a n : Nat) : State :=
  { s with mem := mclear s.mem a n, poison := s.poison.filter fun w => decide (w * 8 + 8 ≤ a) || decide (a + n ≤ w * 8),
           tags := tdelIf (tagged a n) s.tags }

def State.clearTile (s : State) (t : Nat) : State :=
  let s := s.wipe (storeBase t) pageBytes
  { s with tiles := tdel s.tiles t, sems := tdelIf (fun k => k / 256 = t && decide (k < 344064)) s.sems }

/-- A page's written bit cleared: it reads zeros from now on (R56). -/
def State.clearPages (s : State) (base first count : Nat) : State :=
  let s := s.wipe (base + first * pageBytes) (count * pageBytes)
  let lo := base / pageBytes + first
  { s with tiers := { s.tiers with written := s.tiers.written.filter fun p => decide (p < lo) || decide (lo + count ≤ p) } }

/-- A data channel's credits, fences and reductions; its epoch advances when it is released or passes on (R340). -/
def State.clearChannel (s : State) (v : Nat) (released : Bool) : State :=
  let key := (0x6110 + v) * 256 + 3
  { s with
    fabric := { s.fabric with
      fences := s.fabric.fences.filter (·.channel != v),
      orphans := s.fabric.orphans.filter (·.2.1 != v),
      ports := tmap (fun _ p => { p with credits := tset p.credits v (tget 0 p.advertised v) }) s.fabric.ports },
    easels := tmap (fun _ x => { x with firings := x.firings.filter (·.channel != v), fired := x.fired.filter (·.1 != v) }) s.easels,
    dict := if released then { s.dict with values := tset s.dict.values key (leBytes 2 ((policy s (0x6110 + v) 3 + 1) % 65536)) }
            else s.dict }

/-- A vector masked (Table 2-8). -/
def Easel.maskVector (x : Easel) (v : Nat) : Easel := { x with msix := tset x.msix v { x.vectorAt v with masked := true, pending := false } }

/-- An easel-local queue zeroed; its commands not yet dispatched go with it. -/
def Easel.clearQueue (x : Easel) (q vector : Nat) : Easel :=
  let x := x.maskVector (x.queueAt q).vector
  { x with queues := if vector = q then tdel x.queues q else tset x.queues q (Queue.reset vector),
           cmds := x.cmds.filter fun c => !(c.queue = q && c.phase == .taken) }

/-- The units [first, first + count) of a class cleared; `released` when they leave their easel, `erase` for flash. -/
def State.clearUnits (s : State) (cls first count : Nat) (released erase : Bool) : State :=
  let us := span first (first + count)
  let hit := fun (u : Nat) => decide (first ≤ u) && decide (u < first + count)
  match cls with
  | 1 => us.foldl State.clearTile s
  | 2 => s.clearPages 0 first count
  | 3 => s.clearPages lpddrBase first count
  | 4 => s.wipe (sramBase + first * 1048576) (count * 1048576)
  | 5 => { s with streams := { s.streams with slices := tdelIf hit s.streams.slices } }
  | 6 => { s with primer := { s.primer with lanes := tdelIf hit s.primer.lanes, banks := tdelIf hit s.primer.banks } }
  | 7 => us.foldl (fun s v => s.clearChannel v released) s
  | 9 => { s with sems := tdelIf (fun k => decide (344064 + first * 256 ≤ k) && decide (k < 344064 + (first + count) * 256)) s.sems }
  | 0xA => { s with counters := tdelIf (fun k => hit (k / 16)) s.counters }
  | 0xB =>
    if erase then
      { s with flash := mclear s.flash (first * 1073741824) (count * 1073741824),
               tiers := { s.tiers with flashKeys := us.foldl (fun k u => tset k u (tget 0 k u + 1)) s.tiers.flashKeys } }
    else s
  | _ => s

/-- The command queues of a released run zeroed in the easel that had them. -/
def State.clearQueues (s : State) (e first count : Nat) : State :=
  (s.held e 8).foldl (fun s x =>
    let lo := max x.first first
    let hi := min (x.first + x.count) (first + count)
    (span lo hi).foldl (fun s u => s.onEasel e fun y => y.clearQueue (x.place + (u - x.first)) (x.place + (u - x.first))) s) s

/-- Every unit of an easel cleared where it stays bound: by `easel_reset` without pages, flash and reservoir, by FLR with
pages and reservoir. Queues and the event queue are zeroed, vector fields too. -/
def State.clearEasel (s : State) (e : Nat) (memory : Bool) : State :=
  let mine := s.bind.table.filter (·.easel = e)
  let s := (mine.filter fun x => x.cls != 0xB && (memory || !(x.cls = 2 || x.cls = 3 || x.cls = 4))).foldl
    (fun s x => if x.cls = 8 then (span x.place (x.place + x.count)).foldl (fun s q => s.onEasel e fun y => y.clearQueue q 0) s
                else s.clearUnits x.cls x.first x.count false false) s
  s.onEasel e fun x => { x with events := Queue.reset 0, lost := 0, openStep := 0, closedStep := 0, verdicts := [], cmds := [] }

/-- A new easel key drawn (R57). -/
def State.drawKey (s : State) (e : Nat) : State := s.onEasel e fun x => { x with keyEpoch := (x.keyEpoch + 1) % 2 ^ 32 }

/-- Requests to far devices of an easel forgotten. -/
def State.forgetRemotes (s : State) (e : Nat) : State :=
  { s with fabric := { s.fabric with remotes := s.fabric.remotes.filter (·.easel != e) } }

/-- An easel left with no unit (Table 2-3): FREE, its event queue gone with it (R41). -/
def State.freeEasel (s : State) (e : Nat) : State :=
  (s.forgetRemotes e).onEasel e fun x =>
    { Easel.reset with
      keyEpoch := x.keyEpoch, lastSeq := x.lastSeq, windowBase := x.windowBase, ticketDups := x.ticketDups,
      varnishStalls := x.varnishStalls, glazeStats := x.glazeStats, msix := x.msix }

/-- An easel that leaves FREE: numbering from 1, a new key (R46, R57). -/
def State.leaveFree (s : State) (e : Nat) : State :=
  (s.onEasel e fun x => { x with mode := .binding, lastSeq := 0, skippedSteps := 0 }).drawKey e

/-! ### Release (R53, R388) -/

/-- A page that was to be retired at its release: UNIT_RETIRED, and it is bound to no easel again (R388). -/
def State.retirePages (s : State) (e cls first count : Nat) : State :=
  let base := if cls = 2 then 0 else lpddrBase / pageBytes
  if cls = 2 ∨ cls = 3 then
    (s.tiers.bad.filter fun p => decide (base + first ≤ p) && decide (p < base + first + count)).foldl (fun s p =>
      let s := { s with bind := { s.bind with retired := s.bind.retired ++ [(cls, p - base, (s.easel e).lastApplied)] },
                        tiers := { s.tiers with bad := s.tiers.bad.filter (· != p) } }
      s.report 0x090B e 0x0A 0 (p - base) cls) s
  else s

/-- Runs taken out of the binding table. -/
def State.unbindRun (s : State) (cls first count : Nat) : State :=
  { s with bind := { s.bind with table := s.bind.table.flatMap (cutExtent cls first count) } }

/-- Whether any of the runs an easel releases holds a unit its canvas names. -/
def State.namesAny (s : State) (e : Nat) (l : List (Nat × Nat × Nat)) : Bool :=
  match (s.easel e).canvas with
  | some cv => l.any (s.canvasNames e cv)
  | none => false

/-- Runs released by an easel: queues zeroed, units cleared, pages retired, entries written last (R52). -/
def State.releaseRuns (s : State) (e : Nat) (l : List (Nat × Nat × Nat)) (erase : Bool) : State :=
  l.foldl (fun s r =>
    let s := if r.1 = 8 then s.clearQueues e r.2.1 r.2.2 else s.clearUnits r.1 r.2.1 r.2.2 true erase
    (s.retirePages e r.1 r.2.1 r.2.2).unbindRun r.1 r.2.1 r.2.2) s

/-- Whether an easel holds no unit. -/
def State.empty (s : State) (e : Nat) : Bool := s.bind.table.all (·.easel != e)

/-! ### Records of a request (R51, R59) -/

/-- A Curator record to the easels of a list and to the Curator. -/
def State.tell (s : State) (es : List Nat) (v : Event) : State := (es.foldl (fun s e => s.deliver e v) s).copyIn v

/-- EASEL_REVOKED (R59). -/
def State.revoked (s : State) (e cause : Nat) : State :=
  s.tell (if e = 0 then [0] else [e, 0])
    { code := 0x0A12, easel := e, unitClass := 0x0A, unitId := 0, seq := (s.easel e).lastSeq, detailA := cause, detailB := 0 }

/-- Every unit of an easel force-unbound at once, after EASEL_REVOKED (R58, R59). -/
def State.revokeEasel (s : State) (e cause : Nat) : State :=
  if (s.easel e).mode == .free then s
  else
    let s := (s.stopEasel e).revoked e cause
    let mine := (s.bind.table.filter (·.easel = e)).map fun x => (x.cls, x.first, x.count)
    ((s.releaseRuns e mine false).freeEasel e).invalidate

/-- Revocations that waited for the running request (R59). -/
def State.revokeWaiting (s : State) : State :=
  s.bind.revoke.foldl (fun s r => s.revokeEasel r.1 r.2) { s with bind := { s.bind with revoke := [] } }

/-- The end of a request: status, its one record, and what waited for it. -/
def State.endRequest (s : State) (easel status code a b : Nat) : State :=
  let v : Event := { code, easel, unitClass := 0x0A, unitId := 0, seq := (s.easel easel).lastSeq, detailA := a, detailB := b }
  -- no cached translation outlives its entry (R249)
  let s := { s.invalidate with bind := { s.bind with request := none, status } }
  (s.tell (if easel != 0 && s.bound easel then [0, easel] else [0]) v).revokeWaiting

/-- BIND_REJECTED. -/
def State.rejectRequest (s : State) (easel tag reason idx : Nat) : State :=
  s.endRequest easel (3 + reason * 256 + idx * 65536) 0x0A11 tag (reason + idx * 65536)

/-! ### A request from its acceptance on -/

/-- The easel that releases units in a request. -/
def Request.releases (r : Request) : Nat := if r.op = 3 then r.source else r.easel

/-- Whether a command that the request waits for is under way at an easel: a sheet switch or reweight, for the easel that receives the
units a load too (R62, R83, R234). -/
def Easel.holdsRequest (x : Easel) (receives : Bool) : Bool :=
  x.cmds.any fun c => c.phase == .started && (c.op = 3 || c.op = 4 || (receives && c.op = 2))

/-- Whether a request waits: a forced unbind does not, and a forced move stops its source as one would (R54). -/
def State.requestWaits (s : State) (r : Request) : Bool :=
  (r.op != 2 && (s.easel r.easel).holdsRequest true) || (r.op != 1 && !r.forced && (s.easel r.releases).holdsRequest false)

/-- A request begins: the target leaves FREE, and the releasing easel drains or begins to clear (Table 2-3). A FAULTED easel whose earlier
commands still run (R86) is left FAULTED until they have ended (DEDUCED, log entry 52). -/
def State.beginRequest (s : State) (r : Request) : State :=
  let e := r.releases
  let r := { r with before := (s.easel r.easel).mode, beforeSource := (s.easel e).mode }
  let s := if r.op != 2 && r.before == .free then s.leaveFree r.easel else s
  let put := fun (s : State) (r : Request) => ({ s with bind := { s.bind with request := some r } } : State)
  if r.op = 1 then put s { r with clearing := true }
  else if r.forced then put (((s.stopEasel e).dropKeys e).onEasel e fun x => { x with mode := .clearing }) { r with clearing := true }
  else if r.beforeSource == .bound then put (s.onEasel e fun x => { x with mode := .draining }) { r with draining := true }
  else if !(s.easel e).quiet then put s { r with draining := true }
  else put (s.onEasel e fun x => { x with mode := .clearing }) { r with clearing := true }

/-- A waiting request begins once what it waited for has ended. -/
def State.wakeRequest (s : State) : State :=
  match s.bind.request with
  | some r => if !r.draining && !r.clearing && !s.requestWaits r then s.beginRequest r else s
  | none => s

/-- `bind_execute` accepted: the staged request is checked whole, then begins or waits. -/
def State.startRequest (s : State) : State :=
  let b := written s.dict 0x3100 1
  match s.checkRequest b with
  | some (reason, idx) => s.rejectRequest (rqEasel b) (rqTag b) reason idx
  | none =>
    let r : Request :=
      { op := rqOp b, easel := rqEasel b, source := rqSource b, forced := rqForced b, erase := rqErase b, tag := rqTag b,
        extents := rqExtents b, draining := false, clearing := false, before := .free, beforeSource := .free }
    ({ s with bind := { s.bind with request := some r, status := 1 } } : State).wakeRequest

/-- The checks of `bind_execute` itself: BUSY while a request runs (R50), UNAVAILABLE without VBUS (R432). -/
def State.bindCheck (s : State) (_ : Nat) : Nat := if s.bind.request.isSome then 0x09 else if !s.vbusUp then 0x0A else 0

/-- The five rows of `bind_execute` share it; the staged op and forced bit say which of them a message is as it arrives. -/
def State.bindExecute (s : State) (c : Instr) (m : Msg) (which : List Byte → Bool) : State :=
  if writes m 0x3100 2 && (s.dict.turn || which (written s.dict 0x3100 1)) then
    s.atCurator c m fun s => s.command m State.bindCheck (fun s _ => s) (fun s _ => s.startRequest)
  else s

def isUnbind (b : List Byte) : Bool := rqOp b = 2 && !rqForced b
def isForcedUnbind (b : List Byte) : Bool := rqOp b = 2 && rqForced b
def isMove (b : List Byte) : Bool := rqOp b = 3 && !rqForced b
def isForcedMove (b : List Byte) : Bool := rqOp b = 3 && rqForced b

/-- BIND (R45): op 0x01, and every staged request whose op is none of the three. -/
def execBind (m : Msg) (s : State) : Host.Outcome State Fault Refusal := .next (s.bindExecute (.bind m) m fun b => !(rqOp b = 2 || rqOp b = 3))

/-- UNBIND (R45). -/
def execUnbind (m : Msg) (s : State) : Host.Outcome State Fault Refusal := .next (s.bindExecute (.unbind m) m isUnbind)

/-- FORCED_UNBIND (R59). -/
def execForcedUnbind (m : Msg) (s : State) : Host.Outcome State Fault Refusal := .next (s.bindExecute (.forcedUnbind m) m isForcedUnbind)

/-- MOVE (R54). -/
def execMove (m : Msg) (s : State) : Host.Outcome State Fault Refusal := .next (s.bindExecute (.move m) m isMove)

/-- FORCED_MOVE (R54). -/
def execForcedMove (m : Msg) (s : State) : Host.Outcome State Fault Refusal := .next (s.bindExecute (.forcedMove m) m isForcedMove)

/-! ### Draining -/

/-- DRAIN_COMPLETE (R45): the easel, with nothing of it in flight, begins to clear. One that fell into FAULTED while it drained was not
FAULTED when the request began, and ends BOUND (Table 2-3). A request that waited for a sheet switch, a reweight or a load begins. -/
def execDrainComplete (s : State) : Host.Outcome State Fault Refusal :=
  match s.bind.request with
  | some r =>
    if !s.dict.running then .next s
    else if r.draining then
      let e := r.releases
      let x := s.easel e
      if (x.mode == .faulted || x.mode == .draining) && x.quiet then
        let r := { r with draining := false, clearing := true }
        .next { ((s.dropStreams e).onEasel e fun x => { x with mode := .clearing }) with bind := { s.bind with request := some r } }
      else .next s
    else .next s.wakeRequest
  | none => .next s

/-- A target that left FREE for this request and got nothing goes back. -/
def State.backToFree (s : State) (r : Request) : State :=
  if r.op != 2 && (s.easel r.easel).mode == .binding then s.freeEasel r.easel else s

/-- DRAIN_TIMEOUT (R45): the easel returns to BOUND, and the request is rejected with reason 0x07. -/
def execDrainTimeout (s : State) : Host.Outcome State Fault Refusal :=
  match s.bind.request with
  | some r =>
    if r.draining && s.dict.running then
      let e := r.releases
      let s := if (s.easel e).mode == .draining then s.onEasel e fun x => { x with mode := .bound } else s
      .next ((s.backToFree r).rejectRequest r.easel r.tag 0x07 0xFFFF)
    else .next s
  | none => .next s

/-! ### The commit (R52 to R54) -/

/-- The state an easel that released units comes to. -/
def State.afterRelease (s : State) (e : Nat) (before : EaselMode) : State :=
  if s.empty e then s.freeEasel e
  else s.onEasel e fun x => { x with mode := if x.mode == .clearing then (if before == .faulted then .faulted else .bound) else x.mode }

/-- Units that leave an easel, with the canvas that names them: EASEL_REVOKED comes first where a forced unbind leaves no unit,
CANVAS_UNLOADED otherwise. -/
def State.releaseFor (s : State) (r : Request) : State :=
  let e := r.releases
  let runs := r.extents.map fun x => (x.1, x.2.1, x.2.2.1)
  let all := (runs.foldl (fun (s : State) x => s.unbindRun x.1 x.2.1 x.2.2) s).empty e
  let s := if r.forced && all then s.revoked e 1 else if s.namesAny e runs then s.unloadCanvas e else s
  s.releaseRuns e runs r.erase

/-- Units that come to the target: cleared, then their entries written. A page retired at its release is not bound, nor is a tile that
was lost without a spare before the clearing began (DESIGN CHOICE, log entry 139). -/
def State.acquire (s : State) (r : Request) : State :=
  let s := if r.op = 1 then r.extents.foldl (fun s x => if x.1 = 8 then s else s.clearUnits x.1 x.2.1 x.2.2.1 false false) s else s
  let s := r.extents.foldl (fun (s : State) x =>
    { s with bind := { s.bind with table := insertExtent s.bind.table ⟨x.1, x.2.1, x.2.2.1, x.2.2.2, r.easel⟩ } }) s
  let gone := s.bind.retired.filter fun q => q.1 = 2 || q.1 = 3
  let s := gone.foldl (fun (s : State) q => s.unbindRun q.1 q.2.1 1) s
  let s := ((r.extents.filter (·.1 = 1)).flatMap fun x => (span x.2.1 (x.2.1 + x.2.2.1)).filter fun n => !s.bindable n).foldl
    (fun s n => s.unbindRun 1 n 1) s
  s.onEasel r.easel fun x => { x with mode := if x.mode == .binding then .bound else x.mode }

/-- CLEARING_COMPLETE (R52): the entries are written last, the easels change state, and BIND_DONE reports `us`. -/
def execClearingComplete (us : Nat) (s : State) : Host.Outcome State Fault Refusal :=
  match s.bind.request with
  | some r =>
    if !s.dict.running then .next s
    else if r.clearing then
      let s := { s with bind := { s.bind with request := none } }
      let s := if r.op = 1 then s else (s.releaseFor r).afterRelease r.releases r.beforeSource
      let s := if r.op = 2 then s else s.acquire r
      .next (s.endRequest r.easel 2 0x0A10 r.tag (us % 2 ^ 32))
    else .next s.wakeRequest
  | none => .next s

/-! ### Rollback (R52, reasons 0x08 and 0x09) -/

/-- The units of a run whose clearing had begun, which the manual leaves to timing (log entry 13): one choice for each. -/
def begunUnits (n first count : Nat) : List Nat := ((List.range count).filter fun i => Sys2Proof.Config.coin (n + i)).map (first + ·)

/-- The begun units of the extents as runs of one unit. -/
def begunRuns : Nat → List (Nat × Nat × Nat × Nat) → List (Nat × Nat × Nat)
  | _, [] => []
  | n, x :: t => (begunUnits n x.2.1 x.2.2.1).map (fun u => (x.1, u, 1)) ++ begunRuns (n + x.2.2.1) t

/-- What a rollback leaves (R52): begun units cleared and FREE, the rest where it was, each easel in its former state, a canvas that names a
unit of `lost` or one that became FREE unloaded. -/
def State.rollback (s : State) (r : Request) (reason idx : Nat) (lost : List (Nat × Nat × Nat)) : State :=
  let s := { s with bind := { s.bind with request := none } }
  let e := r.releases
  let total := (r.extents.map (·.2.2.1)).foldl (· + ·) 0
  let s' := { s with choices := s.choices + total }
  let s' := if r.op = 1 || !r.clearing then s'
    else
      let runs := begunRuns s.choices r.extents
      (if s'.namesAny e (runs ++ lost) then s'.unloadCanvas e else s').releaseRuns e runs r.erase
  let s' := if r.op = 1 then s'
    else if s'.empty e then s'.freeEasel e
    else s'.onEasel e fun x =>
      { x with mode := if x.mode == .clearing || x.mode == .draining then
                          (if r.beforeSource == .free then x.mode else r.beforeSource) else x.mode }
  (s'.backToFree r).rejectRequest r.easel r.tag reason idx

/-! ### `easel_reset`, FLR and revocation (R55, R58, R412) -/

/-- Tiles of an easel that were removed leave it (R387). -/
def State.dropRemoved (s : State) (e : Nat) : State :=
  ((s.units e 1).filter fun n => s.role n = 2).foldl (fun s n => s.unbindRun 1 n 1) s

/-- EASEL_RESET: FAULTED to BOUND. -/
def State.resetEasel (s : State) (e : Nat) : State :=
  ((((s.dropStreams e).unloadCanvas e).clearEasel e false).dropRemoved e).onEasel e fun x => { x with mode := .bound }

/-- `easel_reset` (R45, R65): RANGE for a value other than nn or an easel that is not FAULTED. -/
def execEaselReset (m : Msg) (s : State) : Host.Outcome State Fault Refusal :=
  let e := mIndex m - 0x3000
  if mOp m = 2 && decide (0x3000 ≤ mIndex m) && decide (e < 64) && mSub m = 9 then
    .next <| s.atCurator (.easelReset m) m fun s => (s.command m
      (fun s v => if v != e || (s.easel e).mode != .faulted then 0x07 else if !s.vbusUp then 0x0A else 0) (fun s _ => s)
      (fun s _ => s.resetEasel e))
  else .next s

/-- The host's accesses of a function that wait, BAR2 requests and doorbells, forgotten with the function that is reset or disabled. -/
def State.dropAccesses (s : State) (f : Nat) : State :=
  let s := s.unask fun w => w == .bar2 f false || w == .bar2 f true
  { s with host := { s.host with doorbells := s.host.doorbells.filter (·.1 != f) } }

/-- FLR of an easel's function (R58): a new key whatever the easel's state (R57); cleared, BOUND with no canvas. A request that drains or
clears the easel keeps its state (DEDUCED, log entry 53). -/
def State.functionReset (s : State) (e : Nat) : State :=
  let s := s.dropAccesses e
  let x := s.easel e
  if x.mode == .free || x.mode == .binding then s.drawKey e
  else
    let s := (((s.stopEasel e).forgetRemotes e).unloadCanvas e).clearEasel e true
    (s.drawKey e).onEasel e fun x => { x with mode := if x.mode == .faulted then .bound else x.mode, drains := [] }

/-- A function that was reset is in D0. -/
def State.setD0 (s : State) (f : Nat) : State := { s with host := { s.host with d3hot := s.host.d3hot.filter (· != f) } }

/-- FLR_VF: of an enabled virtual function. -/
def execFlrVf (e : Nat) (s : State) : Host.Outcome State Fault Refusal :=
  if e != 0 && s.functionOn e && s.vbusUp then .next ((s.functionReset e).setD0 e) else .next s

/-- VFs above a number disabled: their easels are revoked, at once or when the running request ends (R58, R59), by which time an easel that
was FREE at the change may have been bound. -/
def State.disableVfs (s : State) (n cause : Nat) : State :=
  let es := (span (n + 1) 64).filter fun e => decide (e ≤ s.host.numVfs)
  let s := { s with host := { s.host with numVfs := min n s.host.numVfs, d3hot := s.host.d3hot.filter fun f => decide (f ≤ n) } }
  let s := es.foldl State.dropAccesses s
  if s.bind.request.isSome then { s with bind := { s.bind with revoke := s.bind.revoke ++ es.map fun e => (e, cause) } }
  else es.foldl (fun s e => s.revokeEasel e cause) s

/-- FLR of PF0 (R412): VF Enable cleared, easels 1 to 63 revoked, easel 0 cleared. -/
def State.pfReset (s : State) : State :=
  let s := (s.disableVfs 0 3).functionReset 0
  { s with host := { s.host with d3hot := [] } }

/-- FLR_PF. -/
def execFlrPf (s : State) : Host.Outcome State Fault Refusal := if s.vbusUp then .next s.pfReset else .next s

/-- VF_DISABLE (R58): VF Enable cleared (0) or NumVFs lowered. -/
def execVfDisable (numVfs : Nat) (s : State) : Host.Outcome State Fault Refusal :=
  if decide (numVfs < s.host.numVfs) then .next (s.disableVfs numVfs 2) else .next s

/-- HOT_RESET (R412): as FLR of PF0; the link trains anew. -/
def execHotReset (s : State) : Host.Outcome State Fault Refusal :=
  if s.host.linkUp then
    let s := s.pfReset
    .next { s with host := { s.host with linkUp := false, generation := 0, width := 0 } }
  else .next s

/-- PERST_N asserted (R412, R437): as FLR of PF0; the link stays in reset. -/
def State.assertPerst (s : State) : State :=
  if s.host.perst then s
  else
    let s := if s.vbusUp then s.pfReset else s
    { s with host := { s.host with perst := true, linkUp := false, generation := 0, width := 0 } }

/-- PERST_ASSERT. -/
def execPerstAssert (s : State) : Host.Outcome State Fault Refusal := .next s.assertPerst

/-- PERST_DEASSERT (R441): read at the land only while VIO is present (Table 17-2). -/
def execPerstDeassert (s : State) : Host.Outcome State Fault Refusal :=
  if s.power.vio && s.power.vaux then .next { s with host := { s.host with perst := false } } else .next s

/-- D0_RETURN (R412): as FLR of the function. -/
def execD0Return (f : Nat) (s : State) : Host.Outcome State Fault Refusal :=
  if !s.host.d3hot.contains f || !s.functionOn f then .next s
  else if f = 0 then .next s.pfReset
  else
    .next ((s.functionReset f).setD0 f)

end Sys2Proof.Machine
end

