-- ==== Sys2Proof/Machine/Tiles.lean ====
section
/-! DEFINITION. Tiles that fail or wear out, and the patrol of the memory tiers (R16, R17, R40, R268, R385 to R390, R434, R493). -/

namespace Sys2Proof.Machine

/-! ### Roles (Table 16-12) -/

def State.setRole (s : State) (n r : Nat) : State := { s with bind := { s.bind with roles := tset s.bind.roles n r } }

/-- A retired unit recorded (`retired_units`): class, unit, and the training step its easel stands at. -/
def State.recordRetired (s : State) (cls unit step : Nat) : State :=
  { s with bind := { s.bind with retired := s.bind.retired ++ [(cls, unit, step)] } }

/-- The spare that takes over: the device's own choice among those of the die (R17). -/
def State.spareFor (s : State) (n choice : Nat) : Option Nat :=
  let l := s.spares (n / 168)
  l[choice % max l.length 1]?

/-- A spare becomes the stand-in of tile number `n` (R40): the number keeps its binding. -/
def State.replaceTile (s : State) (n spare : Nat) : State :=
  let old := s.server n
  let s := (s.recordRetired 1 old ((s.ownerOf 1 n).elim 0 fun e => (s.easel e).lastApplied)).setRole old (if old = n then 3 else 2)
  let s := s.setRole spare 4
  { s with bind := { s.bind with standIn := tset s.bind.standIn n spare } }

/-- Tile number `n` is removed: no stand-in serves it any more (R387). -/
def State.removeTile (s : State) (n : Nat) : State :=
  let old := s.server n
  let s := s.recordRetired 1 old ((s.ownerOf 1 n).elim 0 fun e => (s.easel e).lastApplied)
  let s := (s.setRole old 2).setRole n 2
  { s with bind := { s.bind with standIn := tdel s.bind.standIn n } }

/-- SPARE_EXHAUSTED (R387), device-wide where no easel holds the tile (DEDUCED, log entry 54). -/
def State.spareExhausted (s : State) (owner : Option Nat) (phys : Nat) : State :=
  match owner with
  | some e => s.report 0x0901 e 0x0A 0 phys s.bindableTiles
  | none => s.reportDevice 0x0901 0x0A 0 phys s.bindableTiles

/-! ### Re-running a command (R385) -/

/-- Whether the run-work command in flight may be run again. -/
def Easel.rerunnable (x : Easel) (c : Cmd) : Bool := c.rerun && !c.sentFabric && !x.firings.any fun f => f.seq = c.seq

/-- Every tile of an easel stopped, so that the command runs again once its streams have ended (R385 order 1). -/
def State.stopToRerun (s : State) (e : Nat) (die phys : Nat) : State :=
  let s := s.undefineForming e
  { s with tiles := tmap (fun t x => if s.ownerOf 1 t = some e then x.stop else x) s.tiles }.onEasel e fun x =>
    { x with rerun := x.rerun ++ [(die, phys)] }

/-- What a sudden failure does to the easel that holds the tile once a spare serves it: a command in flight is to run again, or the
easel is FAULTED at once; a load or a switch under way writes the spare. -/
def State.afterFailure (s : State) (e : Nat) (die phys : Nat) : State :=
  let x := s.easel e
  match x.running 1 with
  | some c => if x.rerunnable c then s.stopToRerun e die phys else s.fault e
  | none => s

/-- The stand-in's own local store: a spare holds zeros (Table 17-5, order 4). -/
def State.freshStore (s : State) (n : Nat) : State :=
  (s.wipe (storeBase n) pageBytes).onTile n fun x => { Tile.reset with program := x.program }

/-- The extent of a running request that names a tile. -/
def Request.extentOf (r : Request) (n : Nat) : Option Nat :=
  (r.extents.zipIdx.find? fun x => x.1.1 = 1 && decide (x.1.2.1 ≤ n) && decide (n < x.1.2.1 + x.1.2.2.1)).map (·.2)

/-- A named tile failed with no spare while the request clears (Table 2-6, reason 0x08). -/
def State.requestTileLost (s : State) (n : Nat) : State :=
  match s.bind.request with
  | some r =>
    if r.clearing then
      match r.extentOf n with
      | some k => s.rollback r 0x08 k (if r.op = 1 then [] else [(1, n, 1)])
      | none => s
    else s
  | none => s

/-- A canvas load that a tile lost without a spare ends (R83): CANVAS_COUNT at check 5. -/
def State.loadTileLost (s : State) (e : Nat) : State :=
  let x := s.easel e
  match x.running 2 with
  | some c => ((s.setEasel e { x with loading := none }).loadFault e c 0x0204 5 (headLocus 20)).finishCmd e c
  | none => s

/-- A tile without a spare is lost (R387): removed, reported, and its easel faulted, at once or at the next step boundary. One in the middle
of clearing is owned by no easel (R52): its request is rolled back, and the easels return to their prior states. A worn tile serves its easel until then, and leaves it at `easel_reset` (DEDUCED, log entry 55). -/
def State.loseTile (s : State) (n : Nat) (sudden : Bool) : State :=
  let owner := s.ownerOf 1 n
  let phys := physId (s.server n)
  let s := s.removeTile n
  let s := if sudden || owner.isNone then (s.clearTile n).unbindRun 1 n 1 else s
  let s := (s.spareExhausted owner phys).requestTileLost n
  match owner with
  | some e => let s := s.loadTileLost e; if sudden then s.fault e else s.faultLater e
  | none => s

/-- TILE_FAILURE (R40): the tile behind a bindable dense number fails; `choice` picks the spare. -/
def execTileFailure (t choice : Nat) (s : State) : Host.Outcome State Fault Refusal :=
  if !s.bindable t || !s.vbusUp then .next s
  else
    match s.spareFor t choice with
    | none => .next (s.loseTile t true)
    | some p =>
      let phys := physId (s.server t)
      let s := (s.replaceTile t p).freshStore t
      .next (match s.ownerOf 1 t with | some e => s.afterFailure e (t / 168) phys | none => s)

/-- UNIT_RETIRED of a tile: to its easel, or device-wide. -/
def State.unitRetired (s : State) (owner : Option Nat) (unit cls : Nat) : State :=
  match owner with
  | some e => s.report 0x090B e 0x0A 0 unit cls
  | none => s.reportDevice 0x090B 0x0A 0 unit cls

/-- TILE_RETIRE (R386): at a command boundary a worn tile's local store and semaphores pass to a spare; without one it is lost. -/
def execTileRetire (t choice : Nat) (s : State) : Host.Outcome State Fault Refusal :=
  let idle := match s.ownerOf 1 t with | some e => (s.easel e).quiet | none => true
  if !s.bindable t || !idle || !s.vbusUp then .next s
  else
    let phys := physId (s.server t)
    let owner := s.ownerOf 1 t
    match s.spareFor t choice with
    | some p => .next ((s.replaceTile t p).unitRetired owner phys 1)
    | none => .next ((s.unitRetired owner phys 1).loseTile t false)

/-- A spare that fails or fails its self-test (R493). -/
def State.retireSpare (s : State) (t : Nat) : State :=
  ((s.recordRetired 1 t 0).setRole t 2).unitRetired none (physId t) 1

/-- SPARE_TILE_FAILURE. -/
def execSpareTileFailure (t : Nat) (s : State) : Host.Outcome State Fault Refusal :=
  if s.role t = 1 && decide (t < 1344) && s.vbusUp then .next (s.retireSpare t) else .next s

/-! ### Self-test (R434, R386) -/

/-- The dense position of a physical tile id; none where there is no such tile. -/
def densePos (id : Nat) : Option Nat :=
  let n := id / 256 * 168 + id / 16 % 16 * 14 + id % 16
  if id < 2048 ∧ id / 16 % 16 < 12 ∧ id % 16 < 14 then some n else none

/-- The dense number a position serves: its own, or the one it stands in for. -/
def State.serves (s : State) (n : Nat) : Nat :=
  match s.bind.standIn.find? (·.2 = n) with | some p => p.1 | none => n

/-- The checks of `tile_selftest`: a tile bound to no easel, one test at a time, VBUS up. -/
def State.selftestCheck (s : State) (v : Nat) : Nat :=
  match densePos v with
  | none => 0x07
  | some n =>
    if (s.ownerOf 1 (s.serves n)).isSome then 0x07
    else if s.bind.selftest / 65536 = 1 then 0x09
    else if !s.vbusUp then 0x0A else 0

/-- TILE_SELFTEST. -/
def execTileSelftest (m : Msg) (s : State) : Host.Outcome State Fault Refusal :=
  if writes m 0x4000 3 then
    .next <| s.atCurator (.tileSelftest m) m fun s => (s.command m State.selftestCheck (fun s _ => s) fun s v => { s with bind := { s.bind with selftest := v + 65536 } })
  else .next s

/-- A tile that fails its margin test at no binding: a spare takes its number, or it is removed; a spare is retired (R386,
R387, R493). Which spare it is the manual leaves open: a free value (log entry 13). -/
def State.failedTest (s : State) (n : Nat) : State :=
  if s.role n = 1 then s.retireSpare n
  else if s.role n = 2 ∨ s.role n = 3 then s
  else
    let t := s.serves n
    let k := s.choices
    let s := { s with choices := s.choices + 1 }
    match s.spareFor t (Sys2Proof.Config.freeNat k) with
    | some p => (s.replaceTile t p).unitRetired none (physId n) 1
    | none => (s.unitRetired none (physId n) 1).loseTile t false

/-- SELFTEST_COMPLETE. -/
def execSelftestComplete (passed : Bool) (s : State) : Host.Outcome State Fault Refusal :=
  let v := s.bind.selftest
  if v / 65536 != 1 then .next s
  else
    let id := v % 2048
    let s := { s with bind := { s.bind with selftest := id + (if passed then 2 else 3) * 65536 } }
    match passed, densePos id with
    | false, some n => .next (s.failedTest n)
    | _, _ => .next s

/-! ### Patrol and flash wear (R268, R388, R390) -/

/-- A new patrol period of a page's counts (R268): consecutive periods with an alarm count towards retirement (R388). -/
def State.newPatrol (s : State) : State :=
  { s with tiers := { s.tiers with
      pageCe := [], alarmed := [],
      alarms := s.tiers.alarmed.foldl (fun t p => tset t p (tget 0 s.tiers.alarms p + 1)) [] } }

/-- Pages whose alarms reached `retire_ce_periods` in a row are to be retired at their release (R388). -/
def State.markWorn (s : State) (a : Nat) : State :=
  let p := a / pageBytes
  if isDram a && s.tiers.alarmed.contains p && decide (policy s 0x9000 4 ≤ tget 0 s.tiers.alarms p + 1) then
    { s with tiers := { s.tiers with bad := insertSet s.tiers.bad p } }
  else s

/-- Where a place lies for the record of an error: its easel, space and address there; none where no easel holds it. -/
def State.whereIs (s : State) (a : Nat) : Option (Nat × Nat × Nat) :=
  let inClass := fun (cls unit : Nat) => s.bind.table.find? fun x => x.cls = cls && decide (x.first ≤ unit) && decide (unit < x.first + x.count)
  match tierOf a with
  | 0 => (inClass 2 (a / pageBytes)).map fun x => (x.easel, 1, (x.place + (a / pageBytes - x.first)) * pageBytes + a % pageBytes)
  | 1 => (inClass 3 ((a - lpddrBase) / pageBytes)).map fun x =>
      (x.easel, 1, (x.place + ((a - lpddrBase) / pageBytes - x.first)) * pageBytes + a % pageBytes)
  | 3 => (inClass 4 ((a - sramBase) / 1048576)).map fun x =>
      (x.easel, 3, ((s.units x.easel 4).idxOf ((a - sramBase) / 1048576)) * 1048576 + a % 1048576)
  | _ => none

/-- PATROL_READ (R268): a written page or a granule is read once no other request pends at its arbiter (R265); a corrected word is counted
and written back, an uncorrectable one poisoned and reported with requester code 3. -/
def execPatrolRead (address : Nat) (err : MemErr) (newPeriod : Bool) (s : State) : Host.Outcome State Fault Refusal :=
  if !s.vbusUp || policy s 0x5000 4 = 0 || (arbOf address).any (fun a => !(s.pendingAt a).isEmpty) then .next s
  else
    let s := if newPeriod then s.newPatrol else s
    let ok := (isDram address && s.tiers.written.contains (address / pageBytes)) || tierOf address = 3
    if !ok then .next s
    else
      match s.whereIs address with
      | some (e, space, addr) => .next ((s.readError e address space addr 3 0 (s.easel e).lastSeq err).markWorn address)
      | none => .next s

/-- FLASH_READ_ONLY (R390): over-provisioning is used up; the whole flash tier turns read-only. -/
def execFlashReadOnly (die : Nat) (s : State) : Host.Outcome State Fault Refusal :=
  if s.tiers.readOnly || !s.vbusUp then .next s
  else
    let s := { s with tiers := { s.tiers with readOnly := true, flashWear := s.tiers.flashWear.set die 100 } }
    .next (s.reportDevice 0x0902 0x07 (die + 32) die 0)

end Sys2Proof.Machine
end

