-- ==== Sys2Proof/Machine/Trust.lean ====
section
/-! DEFINITION. Identity, firmware, configuration, keys and SPDM (R422, R448 to R457). -/

namespace Sys2Proof.Machine

/-! ### Images (R450, R451, Table 17-11) -/

/-- A signature block's form (R81): its length, its reserved byte, zeros behind the signature. -/
def signatureForm (b : List Byte) (o : Nat) : Bool :=
  let n := at8 b o 2
  decide (1 ≤ n) && decide (n ≤ 2044) && rsv b (o + 3) 1 && rsv b (o + 4 + n) (2044 - n)

/-- A key block's form (R450): the key length, zeros behind the key. -/
def keyForm (b : List Byte) (o : Nat) : Bool := at8 b o 2 = 1793 && rsv b (o + 1795) 253

/-- The key of a key block. -/
def keyOf (b : List Byte) (o : Nat) : List Byte := bytesAt b (o + 2) 1793

/-- The digest that the mask ROM holds (R452): of the 1,793 bytes of Quelum's firmware key. -/
def romKeyDigest : List Byte := shake256 ((List.range 1793).map Sys2Proof.Config.romKey)

def imgLength (b : List Byte) : Nat := at8 b 16 8

/-- The header fields and reserved fields of an image. -/
def imageHeaderOk (b : List Byte) (magic keyOff top : Nat) : Bool :=
  at8 b 0 4 = magic && at8 b 4 2 = 0x0100 && rsv b 6 2 && rsv b 12 4 && rsv b 24 8 && at8 b 64 4 = keyOff && at8 b 68 4 = 2176
    && rsv b 72 56 && imgLength b % 64 = 0 && decide (4288 ≤ imgLength b) && decide (imgLength b ≤ top)
    && b.length = imgLength b && signatureForm b 2176

/-- The body digest. -/
def bodyDigestOk (b : List Byte) : Bool := (b.drop 32).take 32 = shake256 (b.drop 4224)

/-- The checks of R452 on a staged firmware image. -/
def State.firmwareOk (s : State) (b : List Byte) (verified : Bool) : Bool :=
  imageHeaderOk b 0x49574651 128 33554432 && keyForm b 128 && shake256 (keyOf b 128) = romKeyDigest
    && at8 b 2178 1 = 0xFF && verified && decide (s.trust.minSec ≤ at8 b 8 4) && bodyDigestOk b

/-- The records of a configuration body (R451): index, subindex, type, value; none where one runs over the end. -/
def cfgRecords : Nat → List Byte → Option (List (Nat × Nat × Nat × List Byte))
  | _, [] => some []
  | 0, _ => none
  | fuel + 1, b =>
    let n := at8 b 4 2
    let room := roundUp n 8
    if b.length < 8 + room ∨ !rsv b 6 2 ∨ !rsv b (8 + n) (room - n) then
      -- zeros to the end of the last line are no record
      if allZero b then some [] else none
    else if allZero (b.take 8) then (if allZero b then some [] else none)
    else (cfgRecords fuel (b.drop (8 + room))).map fun t => (at8 b 0 2, at8 b 2 1, at8 b 3 1, bytesAt b 8 n) :: t

/-- Whether a record may stand in a configuration image: an entry of access RW, RWO or RWS with an allowed value (R453). -/
def State.recordAllowed (s : State) (r : Nat × Nat × Nat × List Byte) : Bool :=
  match entry r.1 r.2.1 with
  | some x =>
    (x.access = 2 || x.access = 4 || x.access = 5) && x.ty = r.2.2.1 && sizeOk x r.2.2.2.length
      && (if x.ty = 0x0A then decide (r.2.2.2.length ≤ x.size) else s.valueOk r.1 r.2.1 x r.2.2.2)
  | none => false

/-- A configuration image checked: its version, digest and records, or none (R451, R453). The relations between entries are
judged against the defaults, from the first record on. -/
def State.checkConfig (s : State) (b : List Byte) (verified : Bool) : Option CfgImage :=
  let slot := at8 b 2178 1
  let signer := slot = 0xFF || (decide (slot < 8) && s.keyUsable slot)
  if imageHeaderOk b 0x47464351 0 1048576 && signer && verified && bodyDigestOk b then
    match cfgRecords b.length (b.drop 4224) with
    | some l =>
      let fresh := { s with dict := { s.dict with values := [] } }
      let step := fun (a : Option State) (r : Nat × Nat × Nat × List Byte) => a.bind fun s =>
        if s.recordAllowed r then some (s.commitValue r.1 r.2.1 false r.2.2.2) else none
      match l.foldl step (some fresh) with
      | some _ => some { version := at8 b 8 4, digest := (b.drop 32).take 32, records := l.map fun r => (r.1, r.2.1, r.2.2.2) }
      | none => none
    | none => none
  else none

/-! ### Boot (R452, R453, R454) -/

/-- AUTH_FAIL of the security block, device-wide. -/
def State.authFailDevice (s : State) (a cause : Nat) : State :=
  ({ s with trust := { s.trust with authFailures := s.trust.authFailures + 1 } } : State).reportDevice 0x0A01 0x0B 0 a cause

/-- Whether the image of a slot is accepted: present, verified, and its security version high enough. -/
def State.slotBoots (s : State) (c : BootChecks) (slot : Nat) : Bool :=
  (if slot = 0 then c.fwA else c.fwB) &&
    match s.trust.image slot with | some i => decide (s.trust.minSec ≤ i.secVersion) | none => false

/-- Orders 2 and 3 of Table 17-4: the preferred slot, then the other, then recovery. -/
def State.bootFirmware (s : State) (c : BootChecks) : State :=
  let p := s.trust.preferred
  let o := 1 - p
  let run := fun (s : State) (slot : Nat) => ({ s with trust := { s.trust with runningSlot := slot, recovery := false } } : State)
  if s.slotBoots c p then run s p
  else
    let s := s.authFailDevice p (1 + p)
    if s.slotBoots c o then (run s o).reportDevice 0x0A04 0x0A 0 o 0
    else
      let s := s.authFailDevice o (1 + o)
      { s with trust := { s.trust with recovery := true } }

/-- Order 4: the identity record and the PUF seed. -/
def State.bootIdentity (s : State) (c : BootChecks) : State :=
  if s.trust.recovery then s
  else
    let s := if c.identity then s else s.authFailDevice 0 8
    let s := { s with trust := { s.trust with pufOk := c.puf, identityOk := c.identity } }
    if c.puf then s else s.authFailDevice 0 7

/-- Order 5: the valid copy of the higher version is applied over the defaults, or CONFIG_INVALID is raised. -/
def State.bootConfig (s : State) (c : BootChecks) : State :=
  if s.trust.recovery then s
  else
    let take := fun (s : State) (copy : Nat) (img : Option CfgImage) (ok : Bool) =>
      match img with
      | some i => if ok then (s, some i) else (s.authFailDevice copy 3, none)
      | none => (s, none)
    let a := take s 0 s.trust.cfgA c.cfgA
    let b := take a.1 1 s.trust.cfgB c.cfgB
    let best := match a.2, b.2 with
      | some x, some y => some (if x.version < y.version then y else x)
      | some x, none => some x
      | none, y => y
    match best with
    | some i =>
      let s := i.records.foldl (fun s r => s.commitValue r.1 r.2.1 false r.2.2) b.1
      { s with trust := { s.trust with configVersion := i.version, configDigest := i.digest } }
    | none => b.1.reportDevice 0x0A06 0x0A 0 0 0

/-- The management start-up (R439, Table 17-4): the dictionary at its defaults, then the image; the Curator answers. -/
def State.startManagement (s : State) (c : BootChecks) : State :=
  let d := { Dict.reset with running := true, frozen := s.dict.frozen, i3cAddress := s.dict.i3cAddress }
  let s := { s with dict := d, trust := { s.trust with authFailures := 0, configVersion := 0, configDigest := [] },
                    bind := { s.bind with request := none, status := 0, selftest := 0 }, obs := { s.obs with sketch := [] } }
  ((s.bootFirmware c).bootIdentity c).bootConfig c

/-- The Curator stops for a restart (R443, R422): committed values stay; stagings, sessions, remembered transactions and waiting requests
are gone. Until it answers again, requests receive no response and its copies of records are missed (R32, Table 1-9). -/
def State.stopCurator (s : State) : State :=
  { s with dict := { s.dict with staging := [], transactions := [], sessions := [], waiting := [], running := false, restarting := true } }

/-- The end of a restart: the firmware verified again, and a request that ended before its commit rolled back with reason 0x09 (R52). -/
def State.restartCurator (s : State) (c : BootChecks) : State :=
  let s := s.stopCurator
  let s := { s with dict := { s.dict with running := true, restarting := false } }
  let s := (s.bootFirmware c).bootIdentity c
  match s.bind.request with
  | some r => s.rollback r 0x09 0xFFFF []
  | none => s

/-- CURATOR_RESTART: with `down` the Curator goes down and its restart is still to end; without, the restart ends, or is over at once
where the Curator ran. -/
def execCuratorRestart (c : BootChecks) (s : State) (down : Bool := false) : Host.Outcome State Fault Refusal :=
  if !s.power.vaux || !(s.dict.running || s.dict.restarting) then .next s
  else if down then .next s.stopCurator
  else .next (s.restartCurator c)

/-! ### Firmware and configuration (R453) -/

/-- FW_COMMIT: the staged image goes to the slot that is not running, which becomes preferred. -/
def execFwCommit (m : Msg) (verified : Bool) (s : State) : Host.Outcome State Fault Refusal :=
  if writes m 0x1800 9 then
    .next <| s.atCurator (.fwCommit m verified) m fun s => (s.command m
      (fun s v => if v < 2 && s.firmwareOk (written s.dict 0x1800 8) verified then 0 else 0x07) (fun s _ => s)
      fun s v =>
        let b := written s.dict 0x1800 8
        let img : FwImage := { secVersion := at8 b 8 4, digest := (b.drop 32).take 32 }
        let slot := 1 - s.trust.runningSlot
        let t := if slot = 0 then { s.trust with fwA := some img } else { s.trust with fwB := some img }
        let s := { s with trust := { t with preferred := slot } }
        -- the restart that follows ends with a CURATOR_RESTART
        if v = 1 then s.stopCurator
        else s)
  else .next s

/-- FW_CONFIRM: the minimum security version rises to the running image's. -/
def execFwConfirm (m : Msg) (s : State) : Host.Outcome State Fault Refusal :=
  if writes m 0x1800 0x0A then
    .next <| s.atCurator (.fwConfirm m) m fun s => (s.command m (fun _ _ => 0) (fun s _ => s) fun s _ =>
      match s.trust.image s.trust.runningSlot with
      | some i => { s with trust := { s.trust with minSec := max s.trust.minSec i.secVersion } }
      | none => s)
  else .next s

/-- The copy that `config_commit` writes: an empty one, else the one of the lower version. -/
def Trust.commitCopy (t : Trust) : Nat :=
  match t.cfgA, t.cfgB with
  | none, _ => 0
  | _, none => 1
  | some a, some b => if b.version < a.version then 1 else 0

/-- CONFIG_COMMIT: a refused image receives RANGE and raises AUTH_FAIL cause 0x03. -/
def execConfigCommit (m : Msg) (verified : Bool) (s : State) : Host.Outcome State Fault Refusal :=
  if writes m 0x1800 0x0D then
    .next <| s.atCurator (.configCommit m verified) m fun s => (s.command m
      (fun s _ => if (s.checkConfig (written s.dict 0x1800 0x0C) verified).isSome then 0 else 0x07)
      (fun s st => if st = 0x07 then s.authFailDevice s.trust.commitCopy 3 else s)
      fun s _ =>
        match s.checkConfig (written s.dict 0x1800 0x0C) verified with
        | some i =>
          let t := if s.trust.commitCopy = 0 then { s.trust with cfgA := some i } else { s.trust with cfgB := some i }
          { s with trust := t }
        | none => s)
  else .next s

/-! ### Keys (R455) -/

def State.keySlot (s : State) (k : Nat) : Nat × List Byte × List Byte := tget (0, [], []) s.trust.keySlots k

def State.setKeySlot (s : State) (k : Nat) (x : Nat × List Byte × List Byte) : State :=
  { s with trust := { s.trust with keySlots := tset s.trust.keySlots k x } }

/-- The form of the staged proof for a slot. -/
def proofOk (b : List Byte) (slot : Nat) : Bool :=
  b.length = 4096 && keyForm b 0 && signatureForm b 2048 && at8 b 2050 1 = slot

/-- The nonce changes after every enrolment attempt. -/
def State.nextNonce (s : State) : State := { s with trust := { s.trust with nonceCount := s.trust.nonceCount + 1 } }

/-- KEY_ENROLLED. -/
def State.keyEnrolled (s : State) (slot what : Nat) : State := s.reportDevice 0x0A07 0x0B 0 slot what

/-- The check of an enrolment: the value names a slot, and the proof of the staged key holds. -/
def State.enrolCheck (s : State) (verified : Bool) (v : Nat) : Nat :=
  if !s.trust.pufOk then 0x0A else if v < 16 && proofOk (written s.dict 0x1800 3) v && verified then 0 else 0x07

/-- KEY_ENROL: `key_enrol` with bit 8 clear, and every value that is neither form. -/
def execKeyEnrol (m : Msg) (verified : Bool) (s : State) : Host.Outcome State Fault Refusal :=
  if writes m 0x1800 4 && !(mValue m).testBit 8 then
    .next <| s.atCurator (.keyEnrol m verified) m fun s => (s.command m (fun s v => s.enrolCheck verified v)
      (fun s st => if st = 0x07 then (s.nextNonce).authFailDevice (mValue m % 16) 5 else s)
      fun s v =>
        let key := keyOf (written s.dict 0x1800 3) 0
        ((s.setKeySlot v (1, shake256 key, key)).nextNonce).keyEnrolled v 0)
  else .next s

/-- Enrolled owner keys. -/
def State.ownerKeys (s : State) : Nat := ((List.range 8).filter fun i => (s.keySlot i).1 = 1).length

/-- The check of a revoke: an enrolled slot that is not the last owner key. -/
def State.revokeCheck (s : State) (v : Nat) : Nat :=
  let slot := v % 16
  if !s.trust.pufOk then 0x0A
  else if v / 16 != 16 || (s.keySlot slot).1 != 1 || (decide (slot < 8) && s.ownerKeys = 1) then 0x07 else 0

/-- KEY_REVOKE. -/
def execKeyRevoke (m : Msg) (s : State) : Host.Outcome State Fault Refusal :=
  if writes m 0x1800 4 && (mValue m).testBit 8 then
    .next <| s.atCurator (.keyRevoke m) m fun s => (s.command m State.revokeCheck (fun s _ => s) fun s v =>
      (s.setKeySlot (v % 16) (2, (s.keySlot (v % 16)).2.1, (s.keySlot (v % 16)).2.2)).keyEnrolled (v % 16) 1)
  else .next s

/-! ### SPDM (R427, R456, Table 17-12) -/

/-- The measurement blocks of Table 17-12. -/
def State.measurements (s : State) : List Byte :=
  let fw := match s.trust.image s.trust.runningSlot with | some i => bytesAt i.digest 0 32 ++ leBytes 4 i.secVersion | none => []
  let canvases := (List.range 64).flatMap fun e => match (s.easel e).canvas with
    | some c => leBytes 4 e ++ leBytes 8 c.id ++ bytesAt c.digest 0 32
    | none => []
  Sys2Proof.Config.maskRomDigest ++ fw ++ s.trust.configDigest ++ shake256 identityRecord
    ++ (List.range 16).flatMap (fun i => bytesAt (s.keySlot i).2.1 0 32) ++ canvases

/-- An answer: status 0, or an SPDM error by name of the model's own (1 refused, 2 SessionLimitExceeded). -/
def State.spdmReply (s : State) (q : Spdm) (request : Nat) (content : List Byte) : State :=
  s.emit (.spdm q.transport q.requester 0 (Sys2Proof.Config.spdmAnswer request (q.bytes ++ content)))

def State.spdmError (s : State) (q : Spdm) (code : Nat) : State := s.emit (.spdm q.transport q.requester code [])

/-- An SPDM request handled while its transport reaches the Curator (R428, R429, R456). -/
def State.onSpdm (s : State) (q : Spdm) (f : State → State) : Host.Outcome State Fault Refusal :=
  if s.transportUp q.transport && !s.trust.recovery then .next (f s) else .next s

/-- GET_VERSION. -/
def execGetVersion (q : Spdm) (s : State) : Host.Outcome State Fault Refusal := s.onSpdm q fun s => s.spdmReply q 1 []

/-- GET_CAPABILITIES. -/
def execGetCapabilities (q : Spdm) (s : State) : Host.Outcome State Fault Refusal := s.onSpdm q fun s => s.spdmReply q 2 []

/-- NEGOTIATE_ALGORITHMS. -/
def execNegotiateAlgorithms (q : Spdm) (s : State) : Host.Outcome State Fault Refusal := s.onSpdm q fun s => s.spdmReply q 3 []

/-- Whether the device attests itself: not while the PUF seed is not reconstructed (R454), nor where the signature of the identity record is
invalid (Table 17-13 cause 0x08). -/
def State.attests (s : State) : Bool := s.trust.pufOk && s.trust.identityOk

/-- A request for attestation. -/
def State.attested (s : State) (q : Spdm) (request : Nat) (content : List Byte) : State :=
  if s.attests then s.spdmReply q request content else s.spdmError q 1

/-- GET_DIGESTS. -/
def execGetDigests (q : Spdm) (s : State) : Host.Outcome State Fault Refusal :=
  s.onSpdm q fun s => s.attested q 4 (shake256 Sys2Proof.Config.deviceCert)

/-- GET_CERTIFICATE. -/
def execGetCertificate (q : Spdm) (s : State) : Host.Outcome State Fault Refusal :=
  s.onSpdm q fun s => s.attested q 5 Sys2Proof.Config.deviceCert

/-- CHALLENGE. -/
def execChallenge (q : Spdm) (s : State) : Host.Outcome State Fault Refusal := s.onSpdm q fun s => s.attested q 6 s.measurements

/-- GET_MEASUREMENTS. -/
def execGetMeasurements (q : Spdm) (s : State) : Host.Outcome State Fault Refusal :=
  s.onSpdm q fun s => s.attested q 7 s.measurements

/-- KEY_EXCHANGE: `slot` is the slot of the requester's key and `proven` what the exchange shows of it. A 17th session is
refused with SessionLimitExceeded; a key that is not enrolled or not proven raises AUTH_FAIL cause 0x06. -/
def execKeyExchange (q : Spdm) (slot : Nat) (proven : Bool) (s : State) : Host.Outcome State Fault Refusal :=
  s.onSpdm q fun s =>
    if !s.trust.pufOk then s.spdmError q 1
    else if 16 ≤ s.dict.sessions.length then s.spdmError q 2
    else if !proven || decide (16 ≤ slot) || !s.keyUsable slot then (s.spdmError q 1).authFailDevice slot 6
    else
      let x : Session :=
        { id := s.dict.nextSession, transport := q.transport, role := if slot < 8 then .owner else .observer, slot,
          requester := q.requester, finished := false }
      ({ s with dict := { s.dict with sessions := s.dict.sessions ++ [x], nextSession := s.dict.nextSession + 1 } } : State).spdmReply q 8 []

/-- The session an SPDM request names on its transport. -/
def State.spdmSession (s : State) (q : Spdm) : Option Session := s.dict.sessions.find? fun x => x.id = q.session && x.transport = q.transport

def State.dropSession (s : State) (id : Nat) : State :=
  { s with dict := { s.dict with sessions := s.dict.sessions.filter (·.id != id),
                                 staging := s.dict.staging.filter fun g => g.requester != id * 4 + 3 } }

/-- FINISH: the session is open once the mutual authentication holds; a failed one ends it with AUTH_FAIL cause 0x06. -/
def execFinish (q : Spdm) (proven : Bool) (s : State) : Host.Outcome State Fault Refusal :=
  s.onSpdm q fun s =>
    match s.spdmSession q with
    | some x =>
      if x.finished then s.spdmError q 1
      else if proven then
        ({ s with dict := { s.dict with sessions := s.dict.sessions.map fun (y : Session) => if y.id = x.id then { y with finished := true } else y } } : State).spdmReply q 9 []
      else ((s.dropSession x.id).spdmError q 1).authFailDevice x.slot 6
    | none => s.spdmError q 1

/-- A request inside an open session. -/
def State.inSession (s : State) (q : Spdm) (request : Nat) : State :=
  match s.spdmSession q with
  | some x => if x.finished then s.spdmReply q request [] else s.spdmError q 1
  | none => s.spdmError q 1

/-- KEY_UPDATE: the session's keys change, which nothing outside the security block shows. -/
def execKeyUpdate (q : Spdm) (s : State) : Host.Outcome State Fault Refusal := s.onSpdm q fun s => s.inSession q 10

/-- HEARTBEAT. -/
def execHeartbeat (q : Spdm) (s : State) : Host.Outcome State Fault Refusal := s.onSpdm q fun s => s.inSession q 11

/-- END_SESSION. -/
def execEndSession (q : Spdm) (s : State) : Host.Outcome State Fault Refusal :=
  s.onSpdm q fun s =>
    match s.spdmSession q with
    | some x => (s.spdmReply q 12 []).dropSession x.id
    | none => s.spdmError q 1

end Sys2Proof.Machine
end

