-- ==== Sys2Proof/Machine/Power.lean ====
section
/-! DEFINITION. Supplies, start-up, resets, and the voltage and temperature loop (R22, R24, R435 to R447, R486). -/

namespace Sys2Proof.Machine

/-! ### Losing the VBUS domain (R438) -/

/-- A stop cause of thermal shutdown; the others are Table 17-3's. -/
def thermalCause : Nat := 0x10

/-- The data and control planes without their state: easels FREE, the table empty, memories other than flash gone. What the
planes' entries read is kept (R432). A running request ends with reason 0x09, for it can no longer commit (DEDUCED, log
entry 56). -/
def State.losePlanes (s : State) : State :=
  let s := if s.vbusUp then s.freeze else s
  let s := match s.bind.request with
    | some r => s.rejectRequest r.easel r.tag 0x09 0xFFFF
    | none => s
  { s with
    easels := s.easels.map fun p => (p.1, { Easel.reset with keyEpoch := p.2.keyEpoch, lastSeq := p.2.lastSeq }),
    tiles := [], mem := [], poison := s.poison.filter fun w => decide (flashBase ≤ w * 8),
    tags := [], sems := [], counters := [], net := [],
    streams := Streams.reset, fabric := { Fabric.reset with refclk := s.fabric.refclk }, primer := Primer.reset, obs := { Obs.reset with sketch := s.obs.sketch },
    tiers := { Tiers.reset with bad := s.tiers.bad, readOnly := s.tiers.readOnly, flashWear := s.tiers.flashWear, flashKeys := s.tiers.flashKeys },
    bind := { s.bind with table := [], request := none, revoke := [],
                          selftest := if s.bind.selftest / 65536 = 1 then 0 else s.bind.selftest },
    host := { HostLink.reset with perst := s.host.perst, doorbellsRejected := s.host.doorbellsRejected },
    power := { s.power with calibrated := false, waitRefclk := false } }

/-- A domain that runs or starts stops with `state` for `cause`; the record of the stop is kept, and is raised to the Curator. -/
def State.stopVbus (s : State) (state cause : Nat) (v : Event) : State :=
  let s := s.losePlanes
  let s := { s with power := { s.power with vbusState := state, stopCause := cause, stopRecord := some v } }
  s.copyIn v

/-- The VBUS domain is on, or on its way. -/
def State.vbusOn (s : State) : Bool := s.power.vbusState = 1 || s.power.vbusState = 2

/-! ### SUPPLY_FAULT (R437) -/

/-- The record of a supply fault: unit class Curator, or Power stage for causes 0x06 and 0x07. -/
def supplyRecord (cause a : Nat) : Event :=
  { code := 0x0A02, easel := 0xFF, unitClass := if cause = 6 || cause = 7 then 0x0C else 0x0A,
    unitId := if cause = 6 || cause = 7 then a else 0, seq := 0, detailA := a, detailB := cause }

/-- A cause that persists from now on, with PWR_ALERT_N asserted and the record counted. -/
def State.markCause (s : State) (cause : Nat) : State :=
  { s with power := { s.power with raised := insertSet s.power.raised cause, alert := true, supplyFaults := s.power.supplyFaults + 1 } }

/-- Causes that no longer persist. -/
def State.clearCauses (s : State) (gone : Nat → Bool) : State :=
  let r := s.power.raised.filter fun c => !gone c
  { s with power := { s.power with raised := r, alert := !r.isEmpty } }

/-- A report: once while its cause persists. -/
def State.supplyReport (s : State) (cause a : Nat) : State :=
  if !s.dict.running || s.power.raised.contains cause then s
  else
    let v := supplyRecord cause a
    (s.markCause cause).raise { v with seq := (s.easel 0).lastSeq }

/-- VBUS_LOW. -/
def execVbusLow (mv : Nat) (s : State) : Host.Outcome State Fault Refusal :=
  if s.power.vbus && decide (mv < 10800) then .next (s.supplyReport 1 mv) else .next s

/-- VBUS_HIGH. -/
def execVbusHigh (mv : Nat) (s : State) : Host.Outcome State Fault Refusal :=
  if s.power.vbus && decide (13200 < mv) then .next (s.supplyReport 2 mv) else .next s

/-- VBUS_COLLAPSE (R438). -/
def execVbusCollapse (mv : Nat) (s : State) : Host.Outcome State Fault Refusal :=
  if s.vbusOn && decide (mv < 10000) then
    let s := s.markCause 3
    let s := s.stopVbus 3 3 { supplyRecord 3 mv with seq := (s.easel 0).lastSeq }
    .next { s with power := { s.power with vbus := false } }
  else .next s

/-- The management plane without VAUX: nothing runs (Table 17-2). -/
def State.loseVaux (s : State) : State :=
  let s := s.losePlanes
  { s with dict := { s.dict with running := false, restarting := false, waiting := [], staging := [], transactions := [], sessions := [],
                                 intake := [], i3cAddress := 0 },
           power := { s.power with vaux := false, vbusState := 0, alert := false } }

/-- VAUX_OUT_OF_RANGE: a report, or below 3.0 V a Curator reset: VAUX then comes up anew. -/
def execVauxOutOfRange (mv : Nat) (s : State) : Host.Outcome State Fault Refusal :=
  if !s.power.vaux || (decide (3135 ≤ mv) && decide (mv ≤ 3465)) then .next s
  else if mv < 3000 then .next s.loseVaux
  else .next (s.supplyReport 4 mv)

/-- VIO_OUT_OF_RANGE: I3C is unavailable and PERST_N reads as asserted. -/
def execVioOutOfRange (mv : Nat) (s : State) : Host.Outcome State Fault Refusal :=
  if !s.power.vio || (decide (1710 ≤ mv) && decide (mv ≤ 1890)) then .next s
  else
    let s := s.supplyReport 5 mv
    .next ({ s with power := { s.power with vio := false } } : State).assertPerst

/-- VIO_PRESENT (R436): I3C becomes available, and PERST_N reads the host's level. -/
def execVioPresent (perstAsserted : Bool) (s : State) : Host.Outcome State Fault Refusal :=
  let s := ({ s with power := { s.power with vio := true } } : State).clearCauses (· = 5)
  .next (if perstAsserted then s.assertPerst else { s with host := { s.host with perst := false } })

/-- A power stage retired. -/
def State.retireStage (s : State) (stage : Nat) : State :=
  { s with power := { s.power with stages := insertSet s.power.stages stage } }

/-- POWER_STAGE_FAILED (cause 0x06), once for each stage. -/
def execPowerStageFailed (stage : Nat) (s : State) : Host.Outcome State Fault Refusal :=
  if !s.vbusOn || s.power.stages.contains stage then .next s
  else
    let s := (s.retireStage stage).markCause 6
    .next (s.raise { supplyRecord 6 stage with seq := (s.easel 0).lastSeq })

/-- POWER_STAGE_FAILED_OUT_OF_RATING (cause 0x07): the domain stops. -/
def execPowerStageFailedOutOfRating (stage : Nat) (s : State) : Host.Outcome State Fault Refusal :=
  if !s.vbusOn then .next s
  else
    let s := (s.retireStage stage).markCause 7
    .next (s.stopVbus 3 7 { supplyRecord 7 stage with seq := (s.easel 0).lastSeq })

/-- LIMIT_NOT_MET (R445): over the limit at 550 mV. -/
def execLimitNotMet (mv : Nat) (s : State) : Host.Outcome State Fault Refusal :=
  if s.vbusUp && s.power.overLimit && s.power.coreMv = 550 then .next (s.supplyReport 8 mv) else .next s

/-- PCIE_REFCLK_LOST (cause 0x09). -/
def execPcieRefclkLost (mv : Nat) (s : State) : Host.Outcome State Fault Refusal :=
  if !s.vbusUp then .next s
  else
    let s := s.markCause 9
    let s := s.stopVbus 3 9 { supplyRecord 9 mv with seq := (s.easel 0).lastSeq }
    .next { s with power := { s.power with refclk := false } }

/-! ### Start-up (R439, R440) -/

/-- Times of start-up orders, which nothing fixes but their bounds: free values (log entry 13). -/
def State.freeTimes (s : State) (lo n : Nat) : State :=
  let t := padded 14 s.power.startTimes
  let t := (List.range n).foldl (fun t i => t.set (lo + i) (Sys2Proof.Config.freeNat (s.choices + i) % 2 ^ 32)) t
  { s with power := { s.power with startTimes := t }, choices := s.choices + n }

/-- VAUX_POWER_ON (Table 17-4). -/
def execVauxPowerOn (c : BootChecks) (s : State) : Host.Outcome State Fault Refusal :=
  if s.power.vaux then .next s
  else
    let p := { s.power with vaux := true, supplyFaults := 0, thermalTrips := 0, raised := s.power.raised.filter (· != 4), startTimes := [] }
    let s := { s with power := p, dict := { s.dict with frozen := [] } }
    .next ((s.startManagement c).freeTimes 0 6)

/-- Power stages tested at no load before a start after cause 0x07 (R438): which pass is the hardware's: free choices. -/
def State.testStages (s : State) : State :=
  let l := s.power.stages.zipIdx.filter fun x => !Sys2Proof.Config.coin (s.choices + x.2)
  { s with power := { s.power with stages := l.map (·.1) }, choices := s.choices + s.power.stages.length }

/-- Orders 1 and 2 of Table 17-5: every rail up with the core rail at 750 mV, then the wait of order 3. -/
def State.beginVbus (s : State) : State :=
  let p := { s.power with vbusState := 1, waitRefclk := true, stopCause := 0, coreMv := 750, thermTrip := false, overLimit := false,
                          vbus := true }
  { s with power := p }

/-- The start of the VBUS part: after cause 0x07 the stages are tested first, and a rail group still out of rating raises the
cause again and stops. -/
def State.startVbus (s : State) : State :=
  if s.power.stopCause = 7 then
    let s := s.testStages
    let k := s.choices
    let s := { s with choices := s.choices + 1 }
    if s.power.stages.isEmpty || Sys2Proof.Config.coin k then (s.clearCauses (· = 7)).beginVbus
    else
      let s := s.markCause 7
      let v := { supplyRecord 7 (s.power.stages.headD 0) with seq := (s.easel 0).lastSeq }
      ({ s with power := { s.power with vbusState := 3, stopRecord := some v } } : State).copyIn v
  else s.beginVbus

/-- Every die reads below 95 °C (R447): FP32 patterns of positive readings compare as numbers. -/
def State.cool (s : State) : Bool := s.power.dieTemps.all fun t => decide (t < milliF32 95000)

/-- VBUS_STARTUP (R440): the management part is done and VBUS is present. -/
def execVbusStartup (s : State) : Host.Outcome State Fault Refusal :=
  if s.power.vaux && s.dict.running && !s.trust.recovery && s.power.vbusState = 0
      && (s.power.stopCause != thermalCause || s.cool) then
    .next s.startVbus
  else .next s

/-- Order 6 of Table 17-5: tiles that fail their margin self-test are retired to spares. -/
def State.startupTests (s : State) (failed : List Nat) : State := failed.foldl State.failedTest s

/-- Order 7: the binding table, and easel 0, which leaves FREE with a new key (R57), BOUND with its event queue and command queue 0 (R41). With TEST_EN high the device runs
no easel and the table stays empty (R481). -/
def State.initBinding (s : State) : State :=
  if s.power.testEn then { s with bind := { s.bind with table := [] } }
  else
  let s := { s with bind := { s.bind with table := [⟨8, 0, 1, 0, 0⟩] } }
  (s.leaveFree 0).onEasel 0 fun x => { x with mode := .bound }

/-- The sink that `trace_sink` names for a base die (Table 18-11): its space, easel, offset and size; of no size where the record's
reserved bytes are not zero (R5). -/
def State.sinkNamed (s : State) (d : Nat) : Nat × Nat × Nat × Nat :=
  let b := written s.dict 0xB000 5
  (at8 b (24 * d) 1, at8 b (24 * d + 1) 1, at8 b (24 * d + 8) 8, if rsv b (24 * d + 2) 6 then at8 b (24 * d + 16) 8 else 0)

/-- A trace unit armed (R470): the entries in force are taken. Its sink's header changes with the next record it writes (R469). -/
def State.armTrace (s : State) (d : Nat) : State :=
  let u := s.traceUnit d
  let u' := { u with
    mode := policy s 0xB000 1, state := 0, triggered := false, armed := true, sink := s.sinkNamed d, period := policy s 0xB000 6,
    arms := (u.arms + 1) % 2 ^ 32, write := 0, trigger := 0, lost := 0, dropped := 0, stage := [] }
  s.setTrace d u'

/-- Order 8: the record kept from a stop, START_COMPLETE, and the trace units armed. -/
def State.startComplete (s : State) (us : Nat) : State :=
  let s := match s.power.stopRecord with
    | some v => ({ s with power := { s.power with stopRecord := none } } : State).deliver 0 v
    | none => s
  let s := s.reportDevice 0x0A05 0x0A 0 us s.bindableTiles
  (List.range 4).foldl State.armTrace s

/-- Order 3: the reference clock is there, and every local timer is calibrated against it (R24). -/
def State.calibrate (s : State) : State :=
  ({ s with power := { s.power with refclk := true, calibrated := true, waitRefclk := false } } : State).clearCauses (· = 9)

/-- Orders 4 to 8, `us` µs after order 1; `failed` are the positions whose self-test fails. -/
def State.endStartup (s : State) (us : Nat) (failed : List Nat) : State :=
  let s := ({ s with power := { s.power with vbusState := 2 } } : State).freeTimes 6 7
  let s := { s with power := { s.power with startTimes := s.power.startTimes.set 13 (us % 2 ^ 32) } }
  ((s.startupTests failed).initBinding).startComplete us

/-- REFCLK_ARRIVAL (R440): the clock ends the wait at order 3, and orders 4 to 8 follow: with `later` they are still to come, at the next
REFCLK_ARRIVAL without it; between the two the link may train and configuration requests are answered with Request Retry Status (R441). -/
def execRefclkArrival (us : Nat) (failed : List Nat) (s : State) (later : Bool := false) : Host.Outcome State Fault Refusal :=
  if s.power.vbusState = 1 && (s.power.waitRefclk || s.power.calibrated) then
    .next (if later then s.calibrate else s.calibrate.endStartup us failed)
  else .next s

/-- VBUS_CAUSE_CLEARED (R438): after causes 0x03 and 0x09 the domain starts again by itself, under a Curator that runs and is not in
recovery (R440, R452). -/
def execVbusCauseCleared (s : State) : Host.Outcome State Fault Refusal :=
  if s.power.vbusState = 3 && s.power.vaux && s.dict.running && !s.trust.recovery && (s.power.stopCause = 3 || s.power.stopCause = 9) then
    let c := s.power.stopCause
    .next (s.clearCauses (· = c)).beginVbus
  else .next s

/-- The check of `vbus_restart` (R447, R438). -/
def State.restartCheck (s : State) (_ : Nat) : Nat :=
  if s.power.vbusState = 4 then (if s.cool then 0 else 0x0A)
  else if s.power.vbusState = 3 && s.power.stopCause = 7 then 0 else 0x0A

/-- VBUS_RESTART. -/
def execVbusRestart (m : Msg) (s : State) : Host.Outcome State Fault Refusal :=
  if writes m 0x2000 0x0B then
    .next (s.atCurator (.vbusRestart m) m fun s => s.command m State.restartCheck (fun s _ => s) fun s _ => s.startVbus)
  else .next s

/-- MRESET (R442): all of start-up again, both parts; the land is read only while VIO is present. -/
def execMreset (c : BootChecks) (s : State) : Host.Outcome State Fault Refusal :=
  if !s.power.vaux || !s.power.vio then .next s
  else
    let s := s.losePlanes
    .next (({ s with power := { s.power with vbusState := 0 } } : State).startManagement c)

/-! ### The loop (R444, R445) -/

/-- The effective limit in mW. -/
def State.powerLimit (s : State) (v10 : Nat) : Nat := min (policy s 0x2000 1 * 1000) (290 * v10)

/-- Whether power, current or, under policy 0, temperature is over its limit. -/
def State.overNow (s : State) (r : Readings) : Bool :=
  decide (s.powerLimit r.v10 < r.p100) || decide (290000 < r.i10)
    || (policy s 0x2000 2 = 0 && r.temps.any fun t => decide (103000 < t))

/-- The core rail after one evaluation. -/
def State.nextCoreMv (s : State) (r : Readings) : Nat :=
  let mv := s.power.coreMv
  let set := policy s 0x2000 3
  let above := s.overNow r
  if above && decide (550 < mv) then mv - 5
  else if !above && decide (mv < set) && decide (r.p100 * 100 < 98 * s.powerLimit r.v10) && decide (r.i10 < 284000)
      && (policy s 0x2000 2 = 1 || r.temps.all fun t => decide (t < 100000)) then mv + 5
  else if !above && decide (set < mv) then mv - 5
  else mv

/-- OVERTEMP (R445, R446): the die, its temperature, the kind. -/
def overtempRecord (s : State) (die milli kind : Nat) : Event :=
  { code := 0x0A03, easel := 0xFF, unitClass := 0x0A, unitId := 0, seq := (s.easel 0).lastSeq,
    detailA := die + milliF32 milli * 2 ^ 32, detailB := kind }

/-- A kind 1 report of each die that reaches 105 °C. -/
def State.overtemps (s : State) (temps : List Nat) : State :=
  let hot := (temps.zipIdx.filter fun x => decide (105000 ≤ x.1))
  let new := hot.filter fun x => !s.power.hotDies.contains x.2
  let s := { s with power := { s.power with hotDies := hot.map (·.2) } }
  new.foldl (fun s x => s.raise (overtempRecord s x.2 x.1 1)) s

/-- An FP32 reading of VAUX within its range (Table 17-1). -/
def vauxInRange (f : Nat) : Bool := decide (milliF32 3135 ≤ f) && decide (f ≤ milliF32 3465)

/-- POWER_LOOP_TICK (R444): readings taken, the rail moved by at most one step. With the domain off only readings are taken. The
two supplies that no reading carries keep a free value (log entry 13), and so it is free whether VAUX is back in its range. -/
def execPowerLoopTick (r : Readings) (s : State) : Host.Outcome State Fault Refusal :=
  if !s.dict.running || !s.power.vaux then .next s
  else
    let k := s.choices
    let vaux := Sys2Proof.Config.freeNat k % 2 ^ 32
    let read := [milliF32 r.v10, milliF32 r.i10, vaux, Sys2Proof.Config.freeNat (k + 1) % 2 ^ 32]
    let mv := s.nextCoreMv r
    let above := s.overNow r
    let s := { s with choices := k + 2, power := { s.power with dieTemps := (r.temps.take 12).map milliF32, supplyReadings := read } }
    let s := s.clearCauses fun c => c = 4 && vauxInRange vaux
    if !s.vbusUp then .next s
    else
      let s := { s with power := { s.power with coreMv := mv, overLimit := above, packagePower := milliF32 r.p100, stepRate := r.rate % 2 ^ 32 } }
      let s := s.clearCauses fun c =>
        (c = 1 && decide (10800 ≤ r.v10)) || (c = 2 && decide (r.v10 ≤ 13200)) || (c = 8 && !above)
      .next (s.overtemps (r.temps.take 12))

/-- THERMAL_TRIP (R446): a comparator at 115 °C stops the domain whatever the Curator does. -/
def execThermalTrip (die : Nat) (celsius : Nat) (s : State) : Host.Outcome State Fault Refusal :=
  if !s.vbusOn || decide (celsius < 115) || decide (12 ≤ die) then .next s
  else
    let v := overtempRecord s die (celsius * 1000) 2
    let p := { s.power with thermTrip := true, thermalTrips := s.power.thermalTrips + 1,
                            dieTemps := (padded 12 s.power.dieTemps).set die (milliF32 (celsius * 1000)) }
    .next (({ s with power := p } : State).stopVbus 4 thermalCause v)

/-! ### Clocks (R486) -/

/-- MGT_CLK_LOST. -/
def execMgtClkLost (s : State) : Host.Outcome State Fault Refusal := .next { s with power := { s.power with mgtClk := false } }

/-- MGT_CLK_RETURN. -/
def execMgtClkReturn (s : State) : Host.Outcome State Fault Refusal := .next { s with power := { s.power with mgtClk := true } }

/-! ### Configuration requests (R58, R395 to R397, R441) -/

/-- CONFIG_REQUEST: Request Retry Status (1) until order 7 of start-up; then status 0 and the value: Vendor and Device ID, the
class code, the BAR sizes (BAR0 low, BAR2 from bit 64), or 0 for a write. -/
def execConfigRequest (f : Nat) (r : CfgReq) (s : State) : Host.Outcome State Fault Refusal :=
  if !s.host.linkUp || !s.functionOn f then .next s
  else if !s.vbusUp then .next (s.emit (.cfg f 1 0))
  else
    match r with
    | .readDeviceId =>
      .next (s.emit (.cfg f 0 (Sys2Proof.Config.vendorId % 65536 + (if f = 0 then 0x1280 else 0x1281) * 65536)))
    | .readClass => .next (s.emit (.cfg f 0 0x120000))
    | .readBarSizes => .next (s.emit (.cfg f 0 (2 ^ 26 + 2 ^ 38 * 2 ^ 64)))
    | .writeVfEnable enable n =>
      let want := if enable then min n 63 else 0
      if f != 0 then .next (s.emit (.cfg f 0 0))
      else if want < s.host.numVfs then .next ((s.disableVfs want 2).emit (.cfg f 0 0))
      else .next ({ s with host := { s.host with numVfs := want } }.emit (.cfg f 0 0))
    | .writeAbsent => .next (s.emit (.cfg f 0 0))

end Sys2Proof.Machine
end

