-- ==== Sys2Proof/Machine/Fabric.lean ====
section
/-! DEFINITION. The receiving side of the fabric and its ports (R284 to R289, R326 to R345): flits, packets, bring-up, lane
sparing, writes, reads, responses, remote and posted signals, fences. -/

namespace Sys2Proof.Machine

/-! ### Ports -/

def State.onPort (s : State) (p : Nat) (f : Port → Port) : State := s.setPort p (f (s.port p))

/-- One of the eight counts of `port_stats` (Table 13-8) raised by `n`. -/
def State.countPort (s : State) (p i n : Nat) : State :=
  s.onPort p fun x => { x with stats := (List.range 8).map fun j => x.stats.getD j 0 + (if j = i then n else 0) }

/-- An idle or NAK flit (R329): the number to be sent next, the ack, and a return of credit. -/
def Port.control (x : Port) (kind : Nat) : Port × List Byte :=
  let (cc, cn, x) := x.creditBack
  (x, flitBytes 0 kind 0xF x.txSeq x.ack cc cn [])

/-- A flit that carries no data sent on a port. -/
def State.sendControl (s : State) (p kind : Nat) : State :=
  let r := (s.port p).control kind
  (s.setPort p r.1).sendFlit p r.2

/-- Flits of credit owed to the peer again, and returned with an idle flit (DESIGN CHOICE of when, log entry 59). -/
def State.returnCredit (s : State) (a : Arrival) : State :=
  let x := s.port a.port
  if a.flits = 0 || !(x.up || x.state = 1) then s
  else (s.setPort a.port { x with owed := tset x.owed a.packet.channel (tget 0 x.owed a.packet.channel + a.flits) }).sendControl a.port 1

/-- A flit that carries no data for each channel that is owed credit. -/
def State.advertise (s : State) (p : Nat) : Nat → State
  | 0 => s
  | n + 1 => if (s.port p).owed.any (fun o => o.2 != 0) then (s.sendControl p 1).advertise p n else s

/-- Whether every fence key of a channel is in use (R289). -/
def State.keysFull (s : State) (channel : Nat) : Bool := decide (4096 ≤ (s.fabric.fences.filter (·.channel = channel)).length)

/-- The credit that was withheld for want of a key returned, once a key of its channel is free (R289). -/
def State.settleCredit (s : State) : State :=
  let free := s.fabric.withheld.filter fun a => !s.keysFull a.packet.channel
  free.foldl State.returnCredit { s with fabric := { s.fabric with withheld := s.fabric.withheld.filter fun a => s.keysFull a.packet.channel } }

/-- The credit of a tagged packet or posted signal returned, or withheld while every key of its channel is in use (R289). -/
def State.returnTagged (s : State) (a : Arrival) : State :=
  ({ s with fabric := { s.fabric with withheld := s.fabric.withheld ++ [a] } }).settleCredit

/-- Every flit of the replay buffer sent again (R330). -/
def State.resend (s : State) (p : Nat) : State :=
  let l := (s.port p).replay
  l.foldl (fun s f => s.sendFlit p f.2.1) (s.countPort p 2 l.length)

/-- The codewords FEC decoded counted (Table 13-8). -/
def State.countFec (s : State) (p : Nat) (fec : List MemErr) : State :=
  (s.countPort p 0 (fec.filter (· == .corrected)).length).countPort p 1 (fec.filter (· == .uncorrectable)).length

/-- Whether a flit is intact: its codewords and its CRC (R330). -/
def flitIntact (whole : Bool) (flit : List Byte) : Bool :=
  whole && flit.length = 256 && at8 flit 248 4 = crc32c (flit.take 248)

/-- Whether a flit's fields are legal (R5, Table 13-2). -/
def flitLegal (flit : List Byte) : Bool :=
  decide (at8 flit 0 1 % 32 < 18) && at8 flit 1 1 / 16 = 0 && decide (at8 flit 6 1 < 18) && rsv flit 252 4

/-- The kind of a flit. -/
def flitKind (flit : List Byte) : Nat := at8 flit 0 1 / 32

/-- The ack and the credit of an intact flit taken (R329, R330, R332). An ack that names no flit of the replay buffer says nothing
new. -/
def Port.takeHeader (x : Port) (flit : List Byte) : Port :=
  let c := at8 flit 6 1
  let x := { x with credits := tset x.credits c (tget 0 x.credits c + at8 flit 7 1) }
  match findAt (fun (f : Nat × List Byte × Option Packet) => f.1 = at8 flit 4 2) x.replay 0 with
  | some (i, _) => { x with replay := x.replay.drop (i + 1), naks := 0 }
  | none => x

/-- Whether an ack moves the replay buffer on. -/
def Port.progress (x : Port) (flit : List Byte) : Bool := x.replay.any fun f => f.1 = at8 flit 4 2

/-! ### Packets from flits (R329, R341) -/

/-- The fields of a header that must hold for its type (Tables 13-4 and 13-5, R339): used by the channel, lengths, fields that
a packet does not use zero. -/
def Packet.ok (k : Packet) : Bool :=
  let n := k.payload.length
  let data := decide (k.channel < 16)
  let addr := decide (k.a < 2 ^ 48) && k.a % 64 = 0
  n % 64 = 0 && decide (n ≤ 4096) && (k.fenced || k.tag = 0) && (data || k.epoch = 0) &&
  match k.type with
  | 1 => data && addr && decide (k.b < 65536) && decide (64 ≤ n) && decide (n ≤ 512)
  | 2 => data && addr && n = 0 && k.b / 65536 % 64 = 0 && decide (64 ≤ k.b / 65536) && decide (k.b / 65536 ≤ 512)
  | 3 => data && decide (k.a < 256) && decide (k.b < 65536) && decide (n ≤ 512)
  | 4 => data && n = 0 && decide (k.a < 65536) && decide (k.b < 2 ^ 48)
  | 5 => data && n = 0 && decide (k.a < 65536) && decide (k.b < 2 ^ 48) && k.b % 65536 != 0
  | 7 => decide (k.b < 2 ^ 48) &&
      (if data then decide (k.a < 2 ^ 60)
       else k.channel = 16 && n = 64 && fld k.a 0 60 = 0)
  | 8 => k.channel = 17 && n = 64 && (k.a = 1 || k.a = 2) && k.b = 0
  | _ => false

/-- A packet's header and payload read; `none` where a reserved bit of the header is set. -/
def packetOf (bs : List Byte) : Option Packet :=
  if at8 bs 0 1 / 16 != 0 || at8 bs 1 1 / 128 != 0 || at8 bs 4 4 / 2 ^ 20 != 0 || at8 bs 8 4 / 2 ^ 20 != 0 then none
  else
    some { type := at8 bs 0 1, channel := at8 bs 1 1 % 32, fenced := (at8 bs 1 1).testBit 5, poisoned := (at8 bs 1 1).testBit 6,
           destination := at8 bs 4 4, source := at8 bs 8 4, epoch := at8 bs 12 2, tag := at8 bs 14 2, a := at8 bs 16 8,
           b := at8 bs 24 8, payload := (bs.drop 32).take (at8 bs 2 2) }

/-- Packets that a channel's bytes hold whole, each from a 16 B boundary, and the bytes left over; a unit of type 0 where a packet
would start is filling (DEDUCED, log entry 60). -/
def splitPackets : Nat → List Byte → List (List Byte) → List (List Byte) × List Byte
  | 0, bs, acc => (acc, bs)
  | fuel + 1, bs, acc =>
    if bs.isEmpty then (acc, [])
    else if at8 bs 0 1 = 0 then splitPackets fuel (bs.drop 16) acc
    else if bs.length < 32 || decide (bs.length < 32 + at8 bs 2 2) then (acc, bs)
    else splitPackets fuel (bs.drop (32 + at8 bs 2 2)) (acc ++ [bs.take (32 + at8 bs 2 2)])

/-- A packet received whole: kept to be handled, or discarded and counted (R341). -/
def State.arrive (s : State) (p channel flits : Nat) (bs : List Byte) : State :=
  match packetOf bs with
  | some k =>
    if k.channel = channel && k.ok then
      { s with fabric := { s.fabric with received := s.fabric.received ++ [{ port := p, flits, packet := k }] } }
    else
      (s.countPort p 5 1).onPort p fun x => { x with owed := tset x.owed channel (tget 0 x.owed channel + flits) }
  | none => (s.countPort p 5 1).onPort p fun x => { x with owed := tset x.owed channel (tget 0 x.owed channel + flits) }

/-- The body of a data flit taken: the first packet that ends in it carries the credit of the flits it came in. -/
def State.takeBody (s : State) (p : Nat) (flit : List Byte) : State :=
  let x := s.port p
  let c := at8 flit 0 1 % 32
  let body := (flit.drop 8).take 240
  let old := tget (0, []) x.partials c
  let start := at8 flit 1 1 % 16
  let bs := if old.2.isEmpty then (if start = 0xF then [] else body.drop (16 * start)) else old.2 ++ body
  let r := splitPackets 300 bs []
  let flits := old.1 + 1
  match r.1 with
  | [] =>
    if r.2.isEmpty then
      s.onPort p fun x => { x with partials := tdel x.partials c, owed := tset x.owed c (tget 0 x.owed c + flits) }
    else s.onPort p fun x => { x with partials := tset x.partials c (flits, r.2) }
  | k :: ks =>
    let s := s.onPort p fun x =>
      { x with partials := if r.2.isEmpty then tdel x.partials c else tset x.partials c (0, r.2) }
    ks.foldl (fun s k => s.arrive p c 0 k) (s.arrive p c flits k)

/-- DATA_FLIT (R330): an intact flit in sequence is taken and answered with an ack, a duplicate discarded; any other is discarded,
with a NAK for a bad flit and for the first that is out of sequence. -/
def execDataFlit (p : Nat) (flit : List Byte) (whole : Bool) (fec : List MemErr) (s : State) : Host.Outcome State Fault Refusal :=
  let x := s.port p
  if !(x.up || x.state = 1) then .next s
  else
    let s := s.settleCredit.countFec p fec
    let x := s.port p
    let seq := at8 flit 2 2
    if flitIntact whole flit && flitKind flit != 0 then .next s
    else if !flitIntact whole flit || !flitLegal flit then .next ((s.onPort p fun x => { x with nakSent := true }).sendControl p 2)
    else if seq = x.rxSeq then
      let s := s.setPort p { (x.takeHeader flit) with rxSeq := (x.rxSeq + 1) % 65536, nakSent := false }
      .next (((s.takeBody p flit).pumpPort p).sendControl p 1)
    else if (x.rxSeq + 65536 - seq) % 65536 ≤ 1024 then .next s
    else if x.nakSent then .next s
    else .next ((s.onPort p fun x => { x with nakSent := true }).sendControl p 2)

/-- NAK_FLIT (R330): what follows the flit acknowledged is sent again. -/
def execNakFlit (p : Nat) (flit : List Byte) (whole : Bool) (fec : List MemErr) (s : State) : Host.Outcome State Fault Refusal :=
  let x := s.port p
  if !(x.up || x.state = 1) then .next s
  else
    let s := s.settleCredit.countFec p fec
    let x := s.port p
    if !flitIntact whole flit || flitKind flit != 2 || !flitLegal flit then .next s
    else
      let n := if x.progress flit then 0 else x.naks + 1
      .next (((s.setPort p { (x.takeHeader flit) with naks := n }).resend p).pumpPort p)

/-- IDLE_FLIT (R329): an ack and a return of credit. -/
def execIdleFlit (p : Nat) (flit : List Byte) (whole : Bool) (fec : List MemErr) (s : State) : Host.Outcome State Fault Refusal :=
  let x := s.port p
  if !(x.up || x.state = 1) then .next s
  else
    let s := s.settleCredit.countFec p fec
    if flitIntact whole flit && flitKind flit = 1 && flitLegal flit then .next ((s.onPort p fun x => x.takeHeader flit).pumpPort p) else .next s

/-! ### A port goes down (R337) -/

/-- Write and read requests of a port that went down sent once more on another port of their channel's mask that is up. -/
def State.sendElsewhere (s : State) (p : Nat) : List Packet → State
  | [] => s
  | k :: rest =>
    if k.type = 1 || k.type = 2 then
      match s.pickPort ((maskPorts (s.mask k.channel)).filter (· != p)) with
      | some q =>
        let s := { s with fabric := { s.fabric with remotes := s.fabric.remotes.map fun (r : Remote) =>
          if r.port = p && r.packet.b % 65536 = k.b % 65536 then { r with port := q } else r } }
        State.sendElsewhere (s.sendOn q k) p rest
      | none => State.sendElsewhere s p rest
    else State.sendElsewhere s p rest

/-- Packets that stay at a port that is down: the segments of reductions that had not begun to leave (R351, DEDUCED beside R337, log
entry 77). -/
def Packet.stays (k : Packet) : Bool := k.type = 6 && decide (k.channel < 16)

/-- A port down with its cause: LINK_DOWN, and its packets handled. -/
def State.portDown (s : State) (p cause : Nat) : State :=
  let x := s.port p
  let s := s.setPort p { Port.reset with stats := x.stats, ganged := x.ganged, failed := x.failed, waiting := x.waiting.filter Packet.stays }
  let s := if x.ganged then s.onPort (p + 1) fun y => { y with state := 0 } else s
  let lost := fun (a : Arrival) => if a.port = p then { a with flits := 0 } else a
  let s := { s with fabric := { s.fabric with
    received := s.fabric.received.map lost, landed := s.fabric.landed.map lost, withheld := s.fabric.withheld.map lost } }
  let s := s.reportDevice 0x0701 0x08 p p cause
  s.sendElsewhere p (x.replay.filterMap (·.2.2) ++ x.waiting)

/-! ### Lanes (R326, R327, R335, R336) -/

/-- Unit id of a lane of a port (Table 0-5); lanes 4 to 7 of a ganged pair are those of its second port. -/
def laneUnit (p : Nat) (ganged : Bool) (l : Nat) : Nat :=
  (if ganged && decide (4 ≤ l) && decide (l < 8) then p + 1 else p) + physLane ganged l * 256

/-- The spare's lane number. -/
def spareLane (ganged : Bool) : Nat := if ganged then 8 else 4

/-- The state code of a port with `n` active lanes (Table 13-8). -/
def upState (ganged : Bool) (n : Nat) : Nat := if ganged then (if n = 8 then 4 else 2) else if n = 4 then 2 else 3

/-- An active lane fails, `ratio` being its error ratio as FP32 and `bad` every lane known to fail: the spare takes its place where
it is free, else the port narrows; it goes down where too few lanes are left or it was narrowed already (R335 to R337, R389). -/
def State.laneFails (s : State) (p lane ratio : Nat) (bad : List Nat) : State :=
  let x := s.port p
  let spare := spareLane x.ganged
  let full := if x.ganged then 8 else 4
  let x := { x with failed := insertSet x.failed lane }
  if !x.lanes.contains lane then s.setPort p x
  else if (s.fabric.taken.all fun t => t.1 != p / 2) && !bad.contains spare then
    let s := s.setPort p { x with lanes := x.lanes.map fun l => if l = lane then spare else l }
    let s := { s with fabric := { s.fabric with taken := tset s.fabric.taken (p / 2) p } }
    s.reportDevice 0x0702 0x08 (laneUnit p x.ganged lane) ratio (p / 2)
  else
    let good := x.lanes.filter fun l => l != lane && !bad.contains l
    if x.lanes.length < full || decide (good.length < full / 2) then (s.setPort p { x with lanes := [] }).portDown p 1
    else (s.setPort p { x with lanes := good.take (full / 2) }).reportDevice 0x0704 0x08 (laneUnit p x.ganged lane) (full / 2) 0

/-- The symbol error ratio of `errors` in 2^30 symbols as FP32. -/
def errorRatio (errors : Nat) : Nat := bits32 (.fin false errors (-30))

/-- Whether a lane with `errors` in 2^30 symbols fails (R335). -/
def State.laneBad (s : State) (errors : Nat) : Bool := Num.lt (of32 (policy s 0x6000 4)) (.fin false errors (-30))

/-- Lane `l`'s training and measurement (Table 13-3 orders 2 and 4): errors in 2^30 symbols, or `none` where it cannot train. -/
def laneFound (l : List (Option Nat)) (i : Nat) : Option Nat := match l[i]? with | some x => x | none => none

/-- The lanes of a list that cannot train or measure too many errors. -/
def State.badLanes (s : State) (found : List (Option Nat)) (l : List Nat) : List Nat :=
  l.filter fun i => match laneFound found i with | none => true | some k => s.laneBad k

/-- Each bad active lane fails in turn, until the port is down. The error ratio of a lane that cannot train is stated nowhere. -/
def State.failLanes (s : State) (p : Nat) (found : List (Option Nat)) (bad active : List Nat) : State :=
  (bad.filter (active.contains ·)).foldl (fun (s : State) l =>
    if (s.port p).state = 0 then s
    else
      let (r, s) : Nat × State := match laneFound found l with
        | some k => (errorRatio k, s)
        | none => let (i, s) := s.fresh; (Sys2Proof.Config.freeNat i % 2 ^ 32, s)
      s.laneFails p l r bad) s

/-- A retrain under orders 2 to 4 of Table 13-3 (R331, R335): its active lanes and its spare train and are measured as `found` says,
the spare last, and a bad one is spared or the port narrowed. It is counted where it succeeds, and the replay buffer is sent from the last
ack on; where it fails, the port goes down. -/
def State.retrain (s : State) (p : Nat) (trained : Bool) (found : List (Option Nat)) : State :=
  if !trained then s.portDown p 2
  else
    let x := s.port p
    let bad := x.failed ++ (s.badLanes found (insertSet x.lanes (spareLane x.ganged))).filter (!x.failed.contains ·)
    let s := s.failLanes p found bad x.lanes
    let y := s.port p
    if y.state = 0 then s
    else
      ((s.setPort p { y with state := upState y.ganged y.lanes.length, naks := 0, nakSent := false }).countPort p 3 1).resend p

/-- RETRY_LIMIT_REACHED (R331). -/
def execRetryLimitReached (p : Nat) (trained : Bool) (s : State) (found : List (Option Nat) := List.replicate 9 (some 0)) :
    Host.Outcome State Fault Refusal :=
  let x := s.port p
  if x.up && decide (policy s 0x6000 5 ≤ x.naks) then .next (s.retrain p trained found) else .next s

/-- ACK_TIMEOUT (R331). -/
def execAckTimeout (p : Nat) (trained : Bool) (s : State) (found : List (Option Nat) := List.replicate 9 (some 0)) :
    Host.Outcome State Fault Refusal :=
  let x := s.port p
  if x.up && !x.replay.isEmpty then .next (s.retrain p trained found) else .next s

/-- SER_WINDOW_END (R335, R336): the measurement of an active lane ends; one that fails is spared or the port narrows, and the port retrains
with what `trained` and `found` say of its lanes then. -/
def execSerWindowEnd (p lane errors : Nat) (trained : Bool) (s : State) (found : List (Option Nat) := List.replicate 9 (some 0)) :
    Host.Outcome State Fault Refusal :=
  let x := s.port p
  if !x.up || !x.lanes.contains lane || !s.laneBad errors then .next s
  else
    let s := s.laneFails p lane (errorRatio errors) (insertSet x.failed lane)
    if (s.port p).lanes.isEmpty then .next s else .next (s.retrain p trained found)

/-! ### Bring-up (R333, R334, R344) -/

/-- A management payload (R344): subtype, port, position and flags. -/
def mgmtPayload (subtype p position : Nat) (ganged : Bool) (lanes : Nat) : List Byte :=
  bytesAt (leBytes 2 subtype ++ leBytes 2 p ++ leBytes 4 position
    ++ leBytes 4 (ganged.toNat * 2 + (if lanes = 8 then 2 else if lanes = 4 then 1 else 0) * 4)) 0 64

/-- A management packet of a port. -/
def State.mgmt (s : State) (p subtype : Nat) : Packet :=
  let x := s.port p
  s.packet 8 17 0 subtype 0 (mgmtPayload subtype p s.position x.ganged x.lanes.length)

/-- Whether the pair of a port is ganged from its next bring-up (`gang_mask`). -/
def State.gangs (s : State) (p : Nat) : Bool := (policy s 0x6000 3).testBit (p / 2)

/-- The flits that a receiving port has room for on a channel, its initial credits (R332). -/
def rxBuffer (channel : Nat) : Nat := if channel < 16 then 48 else if channel = 16 then 32 else 16

/-- PORT_BRING_UP (Table 13-3): `lanes` gives for each lane, the spare last, the errors in 2^30 symbols or that it does not train,
and `credits` what the peer advertises for the channels. The port's own credits leave with its first flits (log entry 41). The port
then trains until its peer's link parameters arrive. -/
def execPortBringUp (p : Nat) (lanes : List (Option Nat)) (credits : List Nat) (s : State) : Host.Outcome State Fault Refusal :=
  let g := s.gangs p
  if !s.vbusUp || decide (64 ≤ p) || !(policy s 0x6000 1).testBit p || (s.port p).up || (s.port p).state = 5 || !(s.fabric.refclk.getD (p / 16) false)
      || (g && p % 2 = 1) || (g && (s.port (p + 1)).up) then .next s
  else
    let n := if g then 8 else 4
    let bad := s.badLanes lanes (List.range (n + 1))
    let adv : Tab Nat := (List.range 18).map fun c => (c, credits.getD c 0)
    let s := { s with fabric := { s.fabric with taken := s.fabric.taken.filter fun t => !(t.1 = p / 2 && t.2 = p) } }
    let x := s.port p
    let s := s.setPort p { Port.reset with
      state := 1, lanes := List.range n, ganged := g, stats := x.stats, waiting := x.waiting, credits := adv, advertised := adv,
      owed := (List.range 18).map fun c => (c, rxBuffer c) }
    let s := if g then s.onPort (p + 1) fun y => { y with state := 5 }
      else if p % 2 = 0 && (s.port (p + 1)).state = 5 then s.onPort (p + 1) fun y => { y with state := 0 } else s
    let s := s.failLanes p lanes bad (List.range n)
    .next (if (s.port p).state = 0 then s else (pump p [s.mgmt p 1] [] s).advertise p 18)

/-! ### Handling a packet (R339, R340, R343) -/

/-- An arrival taken out of the list, its credit returned. -/
def State.handled (s : State) (k : Nat) (a : Arrival) : State :=
  ({ s with fabric := { s.fabric with received := dropAt s.fabric.received k } }).returnCredit a

/-- Whether a posted signal has to wait (R289): every key of its channel is in use, or its own has a signal pending. -/
def State.postedBlocked (s : State) (q : Packet) : Bool :=
  match s.fabric.fences.find? fun f => f.position = q.source && f.channel = q.channel && f.tag = q.tag with
  | some f => f.posted.isSome
  | none => s.keysFull q.channel

/-- Packet `k` of those received, of type `type`: packets of one channel on one port are handled in order, but for a posted signal
that waits for its key. -/
def State.arrival (s : State) (k type : Nat) : Option Arrival :=
  match s.fabric.received[k]? with
  | some a =>
    if a.packet.type = type && !((s.fabric.received.take k).any fun b =>
        b.port = a.port && b.packet.channel = a.packet.channel && !(b.packet.type = 5 && s.postedBlocked b.packet)) then some a
    else none
  | none => none

/-- Where the packet of a data channel goes: discarded without a holder (R339) or under another epoch (R340), refused by a FAULTED
easel (R300, R343), else to its easel. -/
inductive Reach where
  | none | epoch | faulted (e : Nat) | easel (e : Nat)
  deriving DecidableEq, Repr

def State.reach (s : State) (q : Packet) : Reach :=
  match s.ownerOf 7 q.channel with
  | none => .none
  | some e =>
    if q.epoch != s.epoch q.channel then .epoch
    else if (s.easel e).mode == .faulted then .faulted e
    else .easel e

/-- A packet discarded and counted: 4 for its epoch, 5 for any other reason. -/
def State.discard (s : State) (k : Nat) (a : Arrival) (stat : Nat) : State := (s.handled k a).countPort a.port stat 1

/-- A response (Table 13-6) sent by an up port of the channel's mask; with none up it waits at the lowest of the mask (log entry
61). -/
def State.respond (s : State) (q : Packet) (status : Nat) (payload : List Byte) (poisoned : Bool) : State :=
  match s.ownPort q.channel with
  | some p => s.sendOn p { s.packet 3 q.channel q.source status (q.b % 65536) payload with poisoned := poisoned }
  | none => s

/-- A tagged packet that has landed waits to be counted by its fence, and its credit with it (R286, R289). -/
def State.landed (s : State) (k : Nat) (a : Arrival) : State :=
  if a.packet.fenced then
    { s with fabric := { s.fabric with received := dropAt s.fabric.received k, landed := s.fabric.landed ++ [a] } }
  else s.handled k a

/-- A write landed whole, with the poison mark over its lines where it is poisoned (R343). -/
def State.landWrite (s : State) (e : Nat) (q : Packet) : State :=
  let s := s.writeVa e q.a q.payload
  if q.poisoned then (piecesOf pageBytes q.a q.payload.length).foldl (fun (s : State) c =>
    match s.translate e c.1 with | some d => s.setPoison d c.2 | none => s) s else s

/-- Whether a packet's key is one whose posted signal was discarded (R287). -/
def State.orphaned (s : State) (q : Packet) : Bool := q.fenced && s.fabric.orphans.contains (q.source, q.channel, q.tag)

/-- FABRIC_WRITE (R343): the write lands whole and is acknowledged; one that the easel's pages do not hold is refused. In a FAULTED
easel only a packet of an orphaned key is written (R287, log entry 146). -/
def execFabricWrite (k : Nat) (s : State) : Host.Outcome State Fault Refusal :=
  match s.arrival k 1 with
  | none => .next s
  | some a =>
    let q := a.packet
    match s.reach q with
    | .none => .next (s.discard k a 5)
    | .epoch => .next (s.discard k a 4)
    | .faulted e =>
      if s.orphaned q && s.mapped e q.a q.payload.length then .next (((s.landWrite e q).landed k a).respond q 0 [] false)
      else .next ((s.discard k a 5).respond q 4 [] false)
    | .easel e =>
      if !s.mapped e q.a q.payload.length then .next ((s.handled k a).respond q 1 [] false)
      else .next (((s.landWrite e q).landed k a).respond q 0 [] false)

/-- FABRIC_READ_REQUEST (R343): answered with the data, or with the data and status 2 where a line of it is poisoned. -/
def execFabricReadRequest (k : Nat) (s : State) : Host.Outcome State Fault Refusal :=
  match s.arrival k 2 with
  | none => .next s
  | some a =>
    let q := a.packet
    let n := q.b / 65536
    match s.reach q with
    | .none => .next (s.discard k a 5)
    | .epoch => .next (s.discard k a 4)
    | .faulted _ => .next ((s.discard k a 5).respond q 4 [] false)
    | .easel e =>
      if !s.mapped e q.a n then .next ((s.handled k a).respond q 1 [] false)
      else
        let bad := s.poisonedVa e q.a n
        .next ((s.handled k a).respond q (if bad then 2 else 0) ((s.readVa e q.a n).getD []) bad)

/-- A remote signal that the active sheet of its easel does not declare (R285): `unit` is the fabric port's, `source` the sender. -/
def State.undeclared (s : State) (e unit source sem channel : Nat) : State :=
  s.reportSeq 0x0407 e 0x08 unit (s.easel e).workSeq source (sem + channel * 65536)

/-- The same of a signal packet. -/
def State.undeclaredIn (s : State) (e : Nat) (a : Arrival) : State :=
  s.undeclared e (a.port + a.packet.channel * 65536) a.packet.source a.packet.a a.packet.channel

/-- FABRIC_SIGNAL (R284, R285): applied at its semaphore, then answered. -/
def execFabricSignal (k : Nat) (s : State) : Host.Outcome State Fault Refusal :=
  match s.arrival k 4 with
  | none => .next s
  | some a =>
    let q := a.packet
    match s.reach q with
    | .none => .next (s.discard k a 5)
    | .epoch => .next (s.discard k a 4)
    | .faulted _ => .next ((s.discard k a 5).respond q 4 [] false)
    | .easel e =>
      let s := s.handled k a
      match (s.easel e).semDecl q.a with
      | none => .next ((s.undeclaredIn e a).respond q 3 [] false)
      | some d =>
        let s := s.applySignal e d (q.b / 65536) 0x08 (a.port + q.channel * 65536)
        .next (s.respond q (if (s.easel e).mode == .faulted then 4 else 0) [] false)

/-! ### Posted signals and fences (R286 to R289) -/

def State.fence (s : State) (position channel tag : Nat) : Option Fence :=
  s.fabric.fences.find? fun f => f.position = position && f.channel = channel && f.tag = tag

def State.dropFence (s : State) (f : Fence) : State :=
  { s with fabric := { s.fabric with fences := s.fabric.fences.filter fun g =>
      !(g.position = f.position && g.channel = f.channel && g.tag = f.tag) } }

def State.setFence (s : State) (f : Fence) : State :=
  let s := s.dropFence f
  { s with fabric := { s.fabric with fences := s.fabric.fences ++ [f] } }

/-- The pending signal of a key applied and the key freed, once enough of its packets have landed. -/
def State.fenceReady (s : State) (f : Fence) : State :=
  match f.posted with
  | some (sem, count, n) =>
    if f.landed < count then s.setFence f
    else
      let s := s.dropFence f
      match s.ownerOf 7 f.channel with
      | some e =>
        match (s.easel e).semDecl sem with
        | some d => s.applySignal e d n 0x08 (f.port + f.channel * 65536)
        | none => s.undeclared e (f.port + f.channel * 65536) f.position sem f.channel
      | none => s
  | none => s.setFence f

/-- The key a packet counts toward, new where there is none. -/
def State.fenceFor (s : State) (a : Arrival) : Fence :=
  match s.fence a.packet.source a.packet.channel a.packet.tag with
  | some f => f
  | none => { port := a.port, position := a.packet.source, channel := a.packet.channel, tag := a.packet.tag, landed := 0, posted := none }

/-- POSTED_SIGNAL (R285, R286): applied at once where its packets have landed, else pending under its key. -/
def execPostedSignal (k : Nat) (s : State) : Host.Outcome State Fault Refusal :=
  match s.arrival k 5 with
  | none => .next s
  | some a =>
    let q := a.packet
    match s.reach q with
    | .none => .next (s.discard k a 5)
    | .epoch => .next (s.discard k a 4)
    | .faulted _ => .next (s.discard k a 5)
    | .easel e =>
      if s.postedBlocked q then .next s
      else
        let s := { s with fabric := { s.fabric with received := dropAt s.fabric.received k } }
        let s := if ((s.easel e).semDecl q.a).isNone then s.undeclaredIn e a
          else s.fenceReady { s.fenceFor a with posted := some (q.a, q.b % 65536, q.b / 65536) }
        .next (s.returnTagged a)

/-- FENCE_PACKET_LANDED (R286): tagged packet `k` of those that landed is counted toward its key; without a free key it waits, its
credit withheld (R289). One of an orphaned key releases nothing and is counted in the port statistics (R287, log entry 146). -/
def execFencePacketLanded (k : Nat) (s : State) : Host.Outcome State Fault Refusal :=
  match s.fabric.landed[k]? with
  | none => .next s
  | some a =>
    let q := a.packet
    if (s.fence q.source q.channel q.tag).isNone && s.keysFull q.channel && !s.orphaned q then .next s
    else
      let s := { s with fabric := { s.fabric with landed := dropAt s.fabric.landed k } }
      let s := if (s.ownerOf 7 q.channel).isNone || q.epoch != s.epoch q.channel then s
        else if s.orphaned q then s.countPort a.port 6 1
        else
          let f := s.fenceFor a
          s.fenceReady { f with landed := f.landed + 1, port := a.port }
      .next (s.returnTagged a)

/-- REMOTE_SIGNAL_ORPHAN (R287): 2 ms after a posted signal its packets have not all landed. -/
def execRemoteSignalOrphan (position channel tag : Nat) (s : State) : Host.Outcome State Fault Refusal :=
  match s.fence position channel tag with
  | none => .next s
  | some f =>
    match f.posted, s.ownerOf 7 channel with
    | some (_, count, _), some e =>
      let s := s.dropFence f
      let s := { s with fabric := { s.fabric with orphans := (position, channel, tag) :: s.fabric.orphans } }
      .next (s.settleCredit.faultWith 0x0405 e 0x08 (f.port + channel * 65536) (s.easel e).workSeq
        (position + tag * 2 ^ 20 + channel * 2 ^ 36) (count + f.landed % 65536 * 65536))
    | _, _ => .next s

/-- FENCE_KEY_EXPIRY (R288): a key without a posted signal is freed 2 ms after its last packet. -/
def execFenceKeyExpiry (position channel tag : Nat) (s : State) : Host.Outcome State Fault Refusal :=
  match s.fence position channel tag with
  | some f => if f.posted.isNone then .next ((s.dropFence f).settleCredit.countPort f.port 6 1) else .next s
  | none => .next s

/-! ### Requests to a far device answered or not (R342, R371) -/

def State.remote (s : State) (tag : Nat) : Option Remote := s.fabric.remotes.find? fun r => r.tag = tag

def State.dropRemote (s : State) (tag : Nat) : State :=
  { s with fabric := { s.fabric with remotes := s.fabric.remotes.filter (·.tag != tag) } }

/-- The unit a request's record names (DEDUCED, log entry 62): the stream engine of its issue, else the port it left by. -/
def State.remoteUnit (s : State) (r : Remote) : Nat × Nat :=
  match r.issue.bind s.issue with
  | some y => match (s.easel y.easel).stream y.stream with | some d => (0x05, streamUnit d) | none => (0x05, y.stream * 65536)
  | none => (0x08, r.port + r.packet.channel * 65536)

/-- REMOTE_REFUSED or REMOTE_ACCESS_TIMEOUT, and the sending easel FAULTED; a drain that was refused ends. -/
def State.remoteFails (s : State) (r : Remote) (code status : Nat) : State :=
  let u := s.remoteUnit r
  let seq := match r.issue.bind s.issue with | some y => y.seq | none => (s.easel r.easel).lastSeq
  let s := match r.drain with
    | some l => s.onEasel r.easel fun x => { x with drains := x.drains.filter (·.id != l / 8) }
    | none => s
  let s := { s with fabric := { s.fabric with remotes := s.fabric.remotes.filter fun (q : Remote) =>
    !(q.easel = r.easel && r.drain.isSome && q.drain = r.drain) } }
  s.faultWith code r.easel u.1 u.2 seq r.packet.a (status + r.packet.destination * 256)

/-- REMOTE_ACCESS_TIMEOUT (R342): status 0xFF. -/
def execRemoteAccessTimeout (tag : Nat) (s : State) : Host.Outcome State Fault Refusal :=
  match s.remote tag with
  | some r => .next ((s.dropRemote tag).remoteFails r 0x0705 0xFF)
  | none => .next s

/-! ### Management packets (R334, R344) -/

/-- Whether a management payload has its reserved fields zero. -/
def mgmtOk (b : List Byte) : Bool :=
  rsv b 1 1 && decide (at8 b 4 4 < 2 ^ 20) && decide (at8 b 8 1 < 16) && rsv b 9 55 && decide (at8 b 8 1 / 4 < 3)
    && at8 b 0 1 != 0

/-- LINK_PARAMETERS (R334, R344): a peer that is no switch, or has this device's position, or whose ganging or lane count differ,
is refused; else the port is up. -/
def execLinkParameters (k : Nat) (s : State) : Host.Outcome State Fault Refusal :=
  match s.arrival k 8 with
  | none => .next s
  | some a =>
    let b := a.packet.payload
    if a.packet.a != 1 then .next s
    else if !mgmtOk b || at8 b 0 1 != 1 then .next (s.discard k a 5)
    else
      let s := s.handled k a
      let x := s.port a.port
      let flags := at8 b 8 1
      let lanes := if x.lanes.length = 8 then 2 else if x.lanes.length = 4 then 1 else 0
      let same := s.position != 0xFFFFF && at8 b 4 4 = s.position
      if !(x.up || x.state = 1) then .next s
      else if !flags.testBit 0 || same || flags.testBit 1 != x.ganged || flags / 4 != lanes then .next (s.portDown a.port 3)
      else .next ((s.setPort a.port { x with state := upState x.ganged x.lanes.length, peer := some (at8 b 4 4) }).pumpPort a.port)

/-- POSITION_ANNOUNCEMENT (R344): the peer's new position. -/
def execPositionAnnouncement (k : Nat) (s : State) : Host.Outcome State Fault Refusal :=
  match s.arrival k 8 with
  | none => .next s
  | some a =>
    let b := a.packet.payload
    if a.packet.a != 2 then .next s
    else if !mgmtOk b || at8 b 0 1 != 2 then .next (s.discard k a 5)
    else .next ((s.handled k a).onPort a.port fun x => { x with peer := some (at8 b 4 4) })

/-- A position taken (R338): announced on every up port before any packet carries it. -/
def State.adoptPosition (s : State) (position : Nat) : State :=
  let s := s.commitValue 0x6100 1 false (leBytes 4 position)
  ((List.range 64).filter fun p => (s.port p).up).foldl (fun s p =>
    let w := (s.port p).waiting
    pump p (s.mgmt p 2 :: w) [] (s.setPort p { s.port p with waiting := [] })) s

/-- FABRIC_POSITION_WRITE (R338). -/
def execFabricPositionWrite (m : Msg) (s : State) : Host.Outcome State Fault Refusal :=
  if writes m 0x6100 1 then
    .next <| s.atCurator (.fabricPositionWrite m) m fun s =>
      match s.serve m (fun s role => s.writeEntry m role) with
      | (s, some 0) => s.adoptPosition (leNat (mData m))
      | (s, _) => s
  else .next s

/-! ### Fabric reference clocks (R486) -/

/-- FABRIC_REFCLK_LOST: each up port of the base die goes down. -/
def execFabricRefclkLost (die : Nat) (s : State) : Host.Outcome State Fault Refusal :=
  let s := { s with fabric := { s.fabric with refclk := s.fabric.refclk.set die false } }
  .next ((span (16 * die) (16 * die + 16)).foldl (fun (s : State) p => if (s.port p).up then s.portDown p 4 else s) s)

/-- FABRIC_REFCLK_RETURN: bring-up may start again (R333). -/
def execFabricRefclkReturn (die : Nat) (s : State) : Host.Outcome State Fault Refusal :=
  .next { s with fabric := { s.fabric with refclk := s.fabric.refclk.set die true } }

end Sys2Proof.Machine
end

