-- ==== Sys2Proof/Machine/Reduction.lean ====
section
/-! DEFINITION. Reductions (R346 to R353, R382): firing, contributions, shard deliveries, timeouts, and the group port mask. -/

namespace Sys2Proof.Machine

/-! ### Reading and writing windows (R346) -/

/-- `n` bytes at a virtual address of a space, page by page; `none` where a part of them is not held. -/
def State.readSpace (s : State) (e space a n : Nat) : Option (List Byte) :=
  (piecesOf 1048576 a n).foldl (fun acc p =>
    match acc, s.placeOf e 0 space p.1 with
    | some bs, some d => some (bs ++ s.readAt d p.2)
    | _, _ => none) (some [])

/-- Bytes written at an address of a space; a part not held is left out. -/
def State.writeSpace (s : State) (e space a : Nat) (bs : List Byte) : State :=
  ((piecesOf 1048576 a bs.length).foldl (fun (st : State × List Byte) p =>
    let s := match s.placeOf e 0 space p.1 with
      | some d => st.1.writeAt d (st.2.take p.2)
      | none => st.1
    (s, st.2.drop p.2)) (s, bs)).1

/-- Whether a poisoned word lies in a range of a space. -/
def State.poisonedSpace (s : State) (e space a n : Nat) : Bool :=
  (piecesOf 1048576 a n).any fun p => match s.placeOf e 0 space p.1 with | some d => s.poisoned d p.2 | none => false

/-- The 64 B lines of a range of a space marked as poison. -/
def State.poisonSpace (s : State) (e space a n : Nat) : State :=
  (piecesOf 1048576 (a / 64 * 64) (roundUp (a % 64 + n) 64)).foldl (fun (s : State) p =>
    match s.placeOf e 0 space p.1 with | some d => s.setPoison d p.2 | none => s) s

/-- What a memory's code found at addresses of a space, before the data is used (R268, R269). -/
def State.spaceErrors (s : State) (e space requester seq : Nat) (errs : List (Nat × MemErr)) : State :=
  errs.foldl (fun (s : State) x =>
    match s.placeOf e 0 space x.1 with
    | some d => s.readError e d space x.1 requester 0 seq x.2
    | none => s) s

/-! ### Contributions (R347, R350) -/

/-- One element of a contribution in wire format 0x3: v × 2^x in E4M3, and what it counts as. -/
def wireElem (x : Int) (bits : Nat) : Nat × Tally :=
  match of32 bits with
  | .nan => (0x7F, .nan)
  | .inf _ => (0x7F, .infinite)
  | v =>
    let r := (⟨4, 3, 7, 1⟩ : Fmt).encode .saturate (v.scale x)
    (r.1, if r.2 then .saturated else .plain)

/-- The payload of a segment in wire format 0x3, with its counts of non-finite and saturated elements; `bad` gives for each 64 B
line of the source whether it is poisoned. -/
def wireSegment (x : Int) (bs : List Byte) (bad : Nat → Bool) : List Byte × Nat × Nat :=
  let l := (List.range 1024).map fun j => if bad (j / 16) then (0x7F, Tally.nan) else wireElem x (at8 bs (4 * j) 4)
  (l.map fun c => BitVec.ofNat 8 c.1, (l.filter fun c => c.2 == .nan || c.2 == .infinite).length,
    (l.filter fun c => c.2 == .saturated).length)

/-- The exponent a reduction scales by (R350): read once, clamped; 0 in wire format 0x0. -/
def State.reductionScale (s : State) (e : Nat) (r : RedEntry) : Int :=
  if r.wire = 3 then max (-127) (min 127 (toSigned 32 (leNat ((s.readVa e r.scaleAddr 4).getD [])))) else 0

/-- The port a segment travels on (R351): m(s mod P). -/
def segmentPort (mask seg : Nat) : Option Nat := let m := maskPorts mask; m[seg % max m.length 1]?

/-- A contribution's packet (Table 13-5). -/
def State.contribution (s : State) (channel dest id seg format group step : Nat) (payload : List Byte) : Packet :=
  s.packet 6 channel dest (id + seg * 2 ^ 24 + format * 2 ^ 56 + group * 2 ^ 60) (step % 2 ^ 48) payload

/-- One segment read, formed, counted and handed to its port; where the mask names no port it is sent nowhere. -/
def State.sendSegment (s : State) (e : Nat) (r : RedEntry) (x : Int) (step seg : Nat) : State :=
  let a := r.srcBase + 4096 * seg
  let bs := (s.readSpace e r.srcSpace a 4096).getD []
  let bad := fun (l : Nat) => !s.poison.isEmpty && s.poisonedSpace e r.srcSpace (a + 64 * l) 64
  let dest := policy s (0x6110 + r.channel) 4
  let (payload, nonfinite, saturated) := if r.wire = 3 then wireSegment x bs bad else (bytesAt bs 0 4096, 0, 0)
  let s := if r.wire = 3 then s.onEasel e fun y => { y with counts := addStep y.counts step nonfinite saturated }
    else s.onEasel e fun y =>
      let h := healthOf 0 bs []
      { y with counts := addStep y.counts step (h.getD 2 0 + h.getD 3 0) 0 }
  match segmentPort (s.mask r.channel) seg with
  | some p =>
    s.sendOn p { s.contribution r.channel dest r.id seg r.wire 0 step payload with
      poisoned := r.wire = 0 && (List.range 64).any bad }
  | none => s

/-- The current firing of a reduction (R353). -/
def Easel.firing (x : Easel) (channel id : Nat) : Option Firing := x.firings.find? fun f => f.channel = channel && f.id = id

def Easel.setFiring (x : Easel) (f : Firing) : Easel :=
  { x with firings := (x.firings.filter fun g => !(g.channel = f.channel && g.id = f.id)) ++ [f] }

/-- The arbiters that a reduction's reads and sends pass (R350): those of its source window, from its slice's base die, and of the ports
that are up. -/
def State.reductionArbs (s : State) (e : Nat) (r : RedEntry) : List Arb :=
  let places := (piecesOf 1048576 r.srcBase (4096 * r.segments)).filterMap fun p => s.placeOf e 0 r.srcSpace p.1
  let ports := ((maskPorts (s.mask r.channel)).take r.segments).filter fun p => (s.port p).up
  arbsOfPlaces (r.slice / 32) places ++ ports.map Arb.port

/-- A reduction fires: x read once, its segments read, formed and sent in ascending order (R350). -/
def State.fireReduction (s : State) (e r : Nat) (d : RedEntry) (c : Cmd) (errs : List (Nat × MemErr)) : State :=
  let s := s.onEasel e fun x => { x with awaiting := x.awaiting.filter (· != r) }
  let s := s.spaceErrors e d.srcSpace 0 c.seq (errs.map fun p => (d.srcBase + p.1, p.2))
  let k := s.reductionScale e d
  let s := s.onEasel e fun x =>
    { (x.setFiring { channel := d.channel, id := d.id, step := c.step, seq := c.seq, scale := k, landed := [],
                     health := healthZero, sent := true, complete := s.shardCount d = 0 }) with
      fired := (d.channel, d.id, c.step) :: x.fired }
  ((List.range d.segments).foldl (fun s seg => s.sendSegment e d k c.step seg) s).markSent e

/-- REDUCTION_FIRE (R350): reduction `r` of the active sheet, whose trigger has reached its value; at most once for each training
step number since the canvas load, a later trigger for the same number is ignored and counted. Its reads and sends pass their arbiters
with slack 4,096 as one request (log entry 125). -/
def execReductionFire (e r : Nat) (errs : List (Nat × MemErr)) (s : State) : Host.Outcome State Fault Refusal :=
  let x := s.easel e
  match x.running 1, x.sheetDef.bind fun d => d.reds[r]? with
  | some c, some d =>
    if !x.awaiting.contains r || !s.works e then .next s
    else
      if c.step != 0 && x.fired.contains (d.channel, d.id, c.step) then
        let s := s.onEasel e fun x => { x with awaiting := x.awaiting.filter (· != r) }
        .next { s with fabric := { s.fabric with ignored := tset s.fabric.ignored e (tget 0 s.fabric.ignored e + 1) } }
      else .next (s.atArbiters (.reduction e r) 4096 (s.reductionArbs e d) fun s => s.fireReduction e r d c errs)
  | _, _ => .next s

/-! ### Shard deliveries (R348, R353, R382) -/

/-- Where in the shard window an owned segment stands: the own range, then the spread one. -/
def State.segmentSlot (s : State) (r : RedEntry) (seg : Nat) : Option Nat :=
  let o := s.owned r
  let q := s.spread r
  if o.1 ≤ seg ∧ seg < o.1 + o.2 then some (seg - o.1)
  else if q.1 ≤ seg ∧ seg < q.1 + q.2 then some (o.2 + (seg - q.1))
  else none

/-- A delivered sum as written: × 2^-x rounded to nearest even, NaN canonical (R353). -/
def shardElem (wire : Nat) (x : Int) (bits : Nat) : Nat :=
  match of32 bits with
  | .nan => bits32 .nan
  | v => if wire = 3 then bits32 (v.scale (-x)) else bits

/-- The reduction entry of an id on a channel. -/
def Easel.redEntry (x : Easel) (channel id : Nat) : Option RedEntry :=
  x.sheetDef.bind fun d => d.reds.find? fun r => r.channel = channel && r.id = id

/-- A health record of a shard (Table 6-8): it belongs to no stream. -/
def State.shardHealth (s : State) (e : Nat) (r : RedEntry) (f : Firing) : State :=
  if r.healthBase = 0 then s else s.writeVa e r.healthBase (healthRecord 0 f.seq f.health)

/-- An accepted segment written at its place, counted, and the firing complete with its last. -/
def State.landShard (s : State) (e : Nat) (r : RedEntry) (f : Firing) (slot seg : Nat) (q : Packet) : State :=
  let a := r.shardBase + 4096 * slot
  let bs := (List.range 1024).flatMap fun j => leBytes 4 (shardElem r.wire f.scale (at8 q.payload (4 * j) 4))
  let s := s.writeSpace e r.shardSpace a bs
  let s := if q.poisoned then s.poisonSpace e r.shardSpace a 4096 else s
  let f := { f with landed := insertSet f.landed seg, health := healthJoin f.health (healthOf 0 bs []) }
  let f := { f with complete := decide (s.shardCount r ≤ f.landed.length) }
  let s := s.onEasel e fun x => x.setFiring f
  if f.complete then s.shardHealth e r f else s

/-- SHARD_DELIVERY (R353): one of the current firing is checked against the shard window and written; any other is discarded and
counted, a segment that has landed as a duplicate. -/
def execShardDelivery (k : Nat) (s : State) : Host.Outcome State Fault Refusal :=
  match s.arrival k 7 with
  | none => .next s
  | some a =>
    let q := a.packet
    if q.channel = 16 then .next s
    else
      match s.reach q with
      | .none => .next (s.discard k a 5)
      | .epoch => .next (s.discard k a 4)
      | .faulted _ => .next (s.discard k a 5)
      | .easel e =>
        let x := s.easel e
        let id := fld q.a 0 24
        let seg := fld q.a 24 32
        match x.redEntry q.channel id, x.firing q.channel id with
        | some r, some f =>
          if f.step != q.b then .next (s.discard k a 5)
          else
            match s.segmentSlot r seg with
            | some slot =>
              if q.payload.length != 4096 then
                .next ((s.handled k a).faultWith 0x0310 e 0x08 (a.port + q.channel * 65536) f.seq q.payload.length
                  (s.shardCount r * 4096 % 2 ^ 32))
              else if f.landed.contains seg then .next (s.discard k a 7)
              else .next ((s.landShard e r f slot seg q).landed k a)
            | none =>
              .next ((s.handled k a).faultWith 0x0310 e 0x08 (a.port + q.channel * 65536) f.seq q.payload.length
                (s.shardCount r * 4096 % 2 ^ 32))
        | _, _ => .next (s.discard k a 5)

/-- REDUCTION_TIMEOUT (R353): the record and FAULTED. -/
def State.reductionTimedOut (s : State) (e cls unit seq step id channel : Nat) : State :=
  s.faultWith 0x0703 e cls unit seq step (id + channel * 2 ^ 24)

/-- REDUCTION_TIMEOUT: a firing's owned segments have not all landed in time. -/
def execReductionTimeout (e r : Nat) (s : State) : Host.Outcome State Fault Refusal :=
  let x := s.easel e
  match x.sheetDef.bind fun d => d.reds[r]? with
  | some d =>
    match x.firing d.channel d.id with
    | some f => if f.complete then .next s else .next (s.reductionTimedOut e 0x05 (d.slice / 4) f.seq f.step d.id d.channel)
    | none => .next s
  | none => .next s

/-! ### The group port mask (R351) -/

/-- GROUP_MASK_SWITCH: the staged mask of a channel takes effect at the start of the training step it names: that step is open or
closed last in the easel that holds the channel, and none of its reductions has fired in it. -/
def execGroupMaskSwitch (v : Nat) (s : State) : Host.Outcome State Fault Refusal :=
  match s.ownerOf 7 v with
  | none => .next s
  | some e =>
    let x := s.easel e
    let step := policy s (0x6110 + v) 7
    if (if x.openStep != 0 then x.openStep else x.closedStep) = step
        && !(x.fired.any fun f => f.1 = v && f.2.2 = step && step != 0) then
      .next { s with fabric := { s.fabric with masks := tset s.fabric.masks v (policy s (0x6110 + v) 6) } }
    else .next s

end Sys2Proof.Machine
end

