-- ==== Sys2Proof/Machine/Glaze.lean ====
section
/-! DEFINITION. The glaze units and what keeps a job alive (R354, R359 to R375, R392): updates, varnish buffers, checkpoint drains
and exports, the pentimento log, and the step-verdict word. -/

namespace Sys2Proof.Machine

/-! ### The update block and the glaze entries (Tables 14-1 and 14-2) -/

def ubEntries (b : List Byte) : Nat := at8 b 0 4
def ubTable (b : List Byte) : Nat := at8 b 8 8
def ubScale (b : List Byte) : Nat := at8 b 16 4

def gOpt (g : List Byte) : Nat := at8 g 0 1
def gBf16 (g : List Byte) : Bool := fld (at8 g 1 1) 0 4 = 1
def gBias (g : List Byte) : Bool := (at8 g 1 1).testBit 4
def gWorking (g : List Byte) : Bool := (at8 g 1 1).testBit 5
def gDone (g : List Byte) : Nat := at8 g 2 2
def gDoneValue (g : List Byte) : Nat := at8 g 4 4
def gCount (g : List Byte) : Nat := at8 g 8 4
def gStream (g : List Byte) : Nat := at8 g 12 4
def gShard (g : List Byte) : Nat := at8 g 64 8
def gCopy (g : List Byte) : Nat := at8 g 56 8
def gVarnish (g : List Byte) : Nat := at8 g 72 8
/-- Field `i` of the scalars from offset 80: lr, β1, β2, ε, λ, gscale. -/
def gScalar (g : List Byte) (i : Nat) : Num := of32 (at8 g (80 + 4 * i) 4)

/-- Bytes of one moment element. -/
def gMoment (g : List Byte) : Nat := if gBf16 g then 2 else 4

/-- The planes of an entry in one varnish buffer: address in buffer 0 and length of param, extension, m, v and state record. -/
def gPlanes (g : List Byte) : List (Nat × Nat) :=
  [(at8 g 16 8, 4 * gCount g), (at8 g 24 8, 2 * gCount g), (at8 g 32 8, gMoment g * gCount g)]
    ++ (if gOpt g = 2 then [(at8 g 40 8, gMoment g * gCount g)] else []) ++ [(at8 g 48 8, 32)]

/-- Every region of an entry: both buffers, the working copy and the shard. -/
def gRegions (g : List Byte) : List (Nat × Nat) :=
  gPlanes g ++ (gPlanes g).map (fun p => (p.1 + gVarnish g, p.2))
    ++ (if gWorking g then [(gCopy g, 2 * gCount g)] else []) ++ [(gShard g, 4 * gCount g)]

/-- The block of an update is legal (R361): `t` above the last applied step. -/
def blockLegal (b : List Byte) (t last : Nat) : Bool :=
  decide (1 ≤ ubEntries b) && decide (ubEntries b ≤ 65536) && rsv b 4 4 && ubTable b % 64 = 0 && rsv b 20 4 && rsv b 29 3
    && rsv b 38 2 && rsv b 48 16 && t != 0 && decide (last < t)

/-- An entry is legal (Table 14-2): reserved fields and codes, alignment, and buffers that do not overlap. -/
def entryLegal (g : List Byte) : Bool :=
  decide (1 ≤ gOpt g) && decide (gOpt g ≤ 3) && decide (fld (at8 g 1 1) 0 4 ≤ 1) && fld (at8 g 1 1) 6 2 = 0
    && decide (1 ≤ gDoneValue g) && decide (1 ≤ gCount g) && (List.range 7).all (fun i => at8 g (16 + 8 * i) 8 % 64 = 0)
    && (gOpt g = 2 || at8 g 40 8 = 0) && (gWorking g || gCopy g = 0) && gVarnish g % pageBytes = 0 && rsv g 104 24
    && (gPlanes g).all fun p => (gPlanes g).all fun q => !overlap p.1 p.2 (q.1 + gVarnish g) q.2

/-- The glaze table of a block: its entries, or none where its pages are not held. -/
def State.glazeTable (s : State) (e : Nat) (b : List Byte) : Option (List (List Byte)) :=
  (s.readVa e (ubTable b) (128 * ubEntries b)).map fun t => (List.range (ubEntries b)).map fun i => bytesAt t (128 * i) 128

/-- What the checks of an update find (R361): code, detail A and detail B of the first failure. -/
def State.updateFault (s : State) (e : Nat) (b : List Byte) (bad : Bool) (t : Nat) : Option Reject :=
  let x := s.easel e
  if bad || !blockLegal b t x.lastApplied then some (0x090D, 0, 0xFF)
  else
    match s.glazeTable e b with
    | none => some (0x0501, ubTable b, 2 ^ 24)
    | some es =>
      let legal := fun (g : List Byte) => entryLegal g && (x.semDecl (gDone g)).isSome
      match findAt (fun (g : List Byte) => !legal g) es 0 with
      | some (i, _) => some (0x090D, 0, i % 256)
      | none =>
        if s.poisonedVa e (ubTable b) (128 * ubEntries b) then some (0x090D, 0, 0)
        else
          match (es.flatMap gRegions).findSome? fun r => if s.mapped e r.1 r.2 then none else some (0x0501, r.1, 2 ^ 24) with
          | some r => some r
          | none =>
            -- the state record is a structure that the units read (R5); a poisoned one poisons its elements (R364)
            let record := fun (g : List Byte) => (s.readVa e (at8 g 48 8 + x.select * gVarnish g) 32).getD []
            let bad := fun (g : List Byte) => !(rsv (record g) 22 2 && rsv (record g) 24 8)
              && !s.poisonedVa e (at8 g 48 8 + x.select * gVarnish g) 32
            (findAt bad es 0).map fun r => (0x090D, 0, r.1 % 256)

/-! ### Sizes (R371, R379) -/

/-- L: the shards of an update's entries, each padded to 64 B. -/
def shardBytes (es : List (List Byte)) : Nat := (es.map fun g => roundUp (4 * gCount g) 64).foldl (· + ·) 0

/-- The records of `ckpt_extra`: address and length. -/
def State.extras (s : State) (e : Nat) : List (Nat × Nat) :=
  let b := written s.dict (0x9040 + e) 9
  (List.range (min 64 (b.length / 16))).map fun i => (at8 b (16 * i) 8, at8 b (16 * i + 8) 8)

/-- Payload length of an image (R370) with extra extents `xs`; format 1 and 2 hold one plane of 4 or 2 bytes for each element in place of
the planes. -/
def payloadBytes (es : List (List Byte)) (xs : List (Nat × Nat)) (format : Nat) : Nat :=
  let planes := fun (g : List Byte) =>
    match format with
    | 0 => ((gPlanes g).dropLast.map fun p => roundUp p.2 64).foldl (· + ·) 0
    | 1 => roundUp (4 * gCount g) 64
    | _ => roundUp (2 * gCount g) 64
  (es.map fun g => 192 + planes g).foldl (· + ·) 0 + (xs.map fun x => 64 + roundUp x.2 64).foldl (· + ·) 0

/-- Z: the image length rounded up to 2 MiB. -/
def State.imageRoom (s : State) (e : Nat) (es : List (List Byte)) : Nat := roundUp (128 + payloadBytes es (s.extras e) 0) pageBytes

/-- `takeover_estimate_us` (R379). -/
def State.takeoverEstimate (s : State) (e : Nat) (es : List (List Byte)) : Nat :=
  6000 + (s.imageRoom e es + (policy s (0x9040 + e) 3 + 1) * (64 + shardBytes es)) / 2000000

/-! ### UPDATE (R361) -/

/-- The value waits of an update's entries (R362 order 2). They are armed when the update is accepted, so that a count reached
before the verdict, and reset at its command's end, is seen (DEDUCED, log entry 63). -/
def State.armUpdate (s : State) (e : Nat) (es : List (List Byte)) : State :=
  es.zipIdx.foldl (fun (s : State) g =>
    match (s.easel e).semDecl (gDone g.1) with
    | some d => s.applyWaitv e d ⟨.update e g.2, gDoneValue g.1⟩
    | none => s) s

/-- A glaze fault of a command: the record of the glaze units and FAULTED. -/
def State.glazeFault (s : State) (e : Nat) (c : Cmd) (r : Reject) : State := s.faultWith r.1 e 0x09 0 c.seq r.2.1 r.2.2

/-- UPDATE: checked before any side effect; one update runs at a time (log entry 63). -/
def execUpdate (e : Nat) (s : State) : Host.Outcome State Fault Refusal :=
  let x := s.easel e
  match x.dispatched 6 with
  | none => .next s
  | some c =>
    if !s.works e || x.update.isSome then .next s
    else
      let b := s.blockOf e c
      match s.updateFault e b (s.poisonedVa e (c.param + 16 * c.listCount) 64) c.step with
      | some r => .next (s.glazeFault e c r)
      | none =>
        let es := (s.glazeTable e b).getD []
        let u : Update := { seq := c.seq, step := c.step, block := b, entries := es, applied := false, skipped := false,
                            nonfinite := 0, waiters := List.range es.length, stalled := false, writes := [] }
        .next ((s.setEasel e { (x.setPhase c.seq .started) with update := some u, estimate := s.takeoverEstimate e es }).armUpdate e es)

/-! ### One element (R363, R364) -/

/-- The value of an FP32X master from its two words: an extension under an infinite or NaN high word is ignored (R149). -/
def masterBits (hi lo : Nat) : Nat := hi * 2 ^ 16 + (if fld hi 23 8 = 255 then 0 else lo)

/-- What the update of one element gives: the master value, both moments as values. -/
structure Stepped where
  p : Nat
  m : Num
  v : Num
  deriving DecidableEq, Repr

/-- sign (R363): -1, +0 or 1, NaN of NaN. -/
def signOf (x : Num) : Num := if x.isNan then .nan else if x.isZero then Num.zero else .fin x.isNeg 1 0

/-- The gradient of an element: its shard value times 2^-k times gscale. -/
def gradient (g : List Byte) (k : Int) (shard : Nat) : Num := fma32 (r32 ((of32 shard).scale (-k))) (gScalar g 5) Num.zero

/-- One element updated (R363), `b1` and `b2` being the powers after this update's step. -/
def updateElement (g : List Byte) (lrScale b1 b2 : Num) (grad : Num) (p : Nat) (m v : Num) : Stepped :=
  let beta1 := gScalar g 1
  let beta2 := gScalar g 2
  let master := (⟨8, 39, 127, 0⟩ : Fmt).decode p
  let mix := fun (beta a b : Num) => fma32 beta a (mul32 (sub32 Num.one beta) b)
  let (m', v', u) :=
    match gOpt g with
    | 1 => let m := fma32 beta1 m grad; (m, v, m)
    | 2 =>
      let m := mix beta1 m grad
      let v := mix beta2 v (mul32 grad grad)
      let mh := if gBias g then div32 m (sub32 Num.one b1) else m
      let vh := if gBias g then div32 v (sub32 Num.one b2) else v
      (m, v, div32 mh (add32 (sqrt32 vh) (gScalar g 3)))
    | _ => (mix beta2 m grad, v, signOf (mix beta1 m grad))
  let d := mul32 (mul32 (gScalar g 0) lrScale) (fma32 (gScalar g 4) (r32 master) u)
  { p := ((⟨8, 39, 127, 0⟩ : Fmt).encode .infinity (Num.add master d.neg)).1, m := m', v := v' }

/-- A moment read and written: BF16 widens exactly and rounds to nearest even. -/
def momentOf (g : List Byte) (bits : Nat) : Num := if gBf16 g then (⟨8, 7, 127, 0⟩ : Fmt).decode bits else of32 bits
def momentBits (g : List Byte) (x : Num) : Nat := if gBf16 g then ((⟨8, 7, 127, 0⟩ : Fmt).encode .infinity x).1 else bits32 x

/-! ### One entry -/

/-- What an update takes beside the entry: step, k, the block's lr scale, the easel seed, the buffer read. -/
structure Pass where
  t : Nat
  k : Int
  lrScale : Num
  seed : Nat
  select : Nat
  deriving DecidableEq, Repr

/-- Address of plane `i` of an entry (0 param, 1 extension, 2 m, 3 v, 4 state) in a varnish buffer. -/
def planeAt (g : List Byte) (i buffer : Nat) : Nat := at8 g (16 + 8 * i) 8 + buffer * gVarnish g

/-- `glaze_stats` raised: skipped, overflowed, poisoned. -/
def Easel.countGlaze (x : Easel) (a b c : Nat) : Easel :=
  { x with glazeStats := [addSat (2 ^ 64 - 1) (x.glazeStats.getD 0 0) a, addSat (2 ^ 64 - 1) (x.glazeStats.getD 1 0) b,
                          addSat (2 ^ 64 - 1) (x.glazeStats.getD 2 0) c] }

/-- What has been written so far of a pass: the state, the elements skipped, and of the entry under way the working copies formed, latest
first, with whether each saturated; none for an element whose copy is left as it was. -/
structure PassAcc where
  s : State
  skips : Nat
  copies : List (Option (Nat × Bool))

/-- One element of an entry, from the buffer read to the other: element `j` of its planes, whose draw has index `i`. -/
def PassAcc.element (acc : PassAcc) (e : Nat) (g : List Byte) (w : Pass) (b1 b2 : Num) (recBad : Bool) (shard : Nat × Bool) (i j : Nat) :
    PassAcc :=
  let s := acc.s
  let rd := fun (plane n : Nat) => leNat ((s.readVa e (planeAt g plane w.select + n * j) n).getD [])
  let bad := fun (plane n : Nat) => !s.poison.isEmpty && s.poisonedVa e ((planeAt g plane w.select + n * j) / 64 * 64) 64
  let n := gMoment g
  let two := gOpt g = 2
  let wr := fun (s : State) (plane n v : Nat) => s.writeVa e (planeAt g plane (1 - w.select) + n * j) (leBytes n v)
  let old := rd 1 2 + rd 0 4 * 2 ^ 16
  let p := masterBits (rd 0 4) (rd 1 2)
  let put := fun (p m v : Nat) =>
    let s := wr (wr (wr s 0 4 (p / 2 ^ 16)) 1 2 (p % 2 ^ 16)) 2 n m
    if two then wr s 3 n v else s
  if recBad || shard.2 || bad 0 4 || bad 1 2 || bad 2 n || (two && bad 3 n) then
    let s := put old (rd 2 n) (rd 3 n)
    let mark := fun (s : State) (a : Nat) => s.poisonSpace e 1 (a / 64 * 64) 64
    let at_ := fun (plane n : Nat) => planeAt g plane (1 - w.select) + n * j
    let s := mark (mark (mark s (at_ 0 4)) (at_ 1 2)) (at_ 2 n)
    let s := if two then mark s (at_ 3 n) else s
    let s := if gWorking g then mark s (gCopy g + 2 * j) else s
    { s := s.onEasel e fun x => x.countGlaze 0 0 1, skips := acc.skips, copies := none :: acc.copies }
  else
    let grad := gradient g w.k shard.1
    if grad.isNan || grad.isInf then
      { s := (put old (rd 2 n) (rd 3 n)).onEasel e fun x => x.countGlaze 1 0 0, skips := acc.skips + 1, copies := none :: acc.copies }
    else
      let r := updateElement g w.lrScale b1 b2 grad p (momentOf g (rd 2 n)) (momentOf g (rd 3 n))
      let s := put r.p (momentBits g r.m) (momentBits g r.v)
      { s := if ((⟨8, 39, 127, 0⟩ : Fmt).decode r.p).isInf then s.onEasel e fun x => x.countGlaze 0 1 0 else s, skips := acc.skips,
        copies := some (stochasticBf16 r.p (draw w.seed (gStream g) w.t i)) :: acc.copies }

/-- Working copies written from address `a` on, line by line: a line of which every element is written is written whole, and one that
was rounded to the largest value keeps that tag (R160). -/
def State.putCopies (s : State) (e a : Nat) (l : List (Option (Nat × Bool))) : State :=
  (List.range (ceilDiv l.length 32)).foldl (fun (s : State) i =>
    let line := (l.drop (32 * i)).take 32
    let a := a + 64 * i
    let s := if line.all (·.isSome) then s.writeVa e a (line.flatMap fun c => leBytes 2 (c.getD (0, false)).1)
      else line.zipIdx.foldl (fun (s : State) c => match c.1 with | some v => s.writeVa e (a + 2 * c.2) (leBytes 2 v.1) | none => s) s
    match s.translate e a with
    | some d => s.tag (line.zipIdx.filterMap fun c => match c.1 with
        | some (v, true) => tagOf 1 (8 * (d + 2 * c.2)) v .saturated
        | _ => none)
    | none => s) s

/-- The poison of the lines that a pass writes whole cleared in the written buffer's planes. -/
def State.freshPlanes (s : State) (e : Nat) (g : List Byte) (buffer : Nat) : State :=
  (gPlanes g).foldl (fun (s : State) p => (piecesOf pageBytes (p.1 + buffer * gVarnish g) (p.2 / 64 * 64)).foldl (fun (s : State) c =>
    match s.translate e c.1 with
    | some d => { s with poison := s.poison.filter fun w => !(decide (d ≤ 8 * w) && decide (8 * w < d + c.2)) }
    | none => s) s) s

/-- The working copies formed of an entry, from its element `first` on, written where the entry has them. -/
def PassAcc.land (acc : PassAcc) (e : Nat) (g : List Byte) : PassAcc :=
  { acc with s := if gWorking g then acc.s.putCopies e (gCopy g) acc.copies.reverse else acc.s, copies := [] }

/-- The state record after one more applied update: n, both powers, the step. -/
def nextRecord (g r : List Byte) (t : Nat) : List Byte :=
  leBytes 8 (at8 r 0 8 + 1) ++ leBytes 4 (bits32 (mul32 (of32 (at8 r 8 4)) (gScalar g 1)))
    ++ leBytes 4 (bits32 (mul32 (of32 (at8 r 12 4)) (gScalar g 2))) ++ leBytes 8 (t % 2 ^ 48) ++ List.replicate 8 0

/-- A pass over one entry: `shard` gives element i's gradient bits and whether its line is poisoned. -/
def PassAcc.entry (acc : PassAcc) (e : Nat) (g : List Byte) (w : Pass) (shard : Nat → Nat × Bool) : PassAcc :=
  let s := acc.s
  let ra := planeAt g 4 w.select
  let bad := s.poisonedVa e ra 32
  let r := nextRecord g (bytesAt ((s.readVa e ra 32).getD []) 0 32) w.t
  let z := ((List.range (gCount g)).foldl (fun (acc : PassAcc) i =>
    acc.element e g w (of32 (at8 r 8 4)) (of32 (at8 r 12 4)) bad (shard i) i i) { acc with s := s.freshPlanes e g (1 - w.select) }).land e g
  let s := z.s.writeVa e (planeAt g 4 (1 - w.select)) r
  { z with s := if bad then s.poisonSpace e 1 (planeAt g 4 (1 - w.select)) 64 else s }

/-- The shard of an entry as its window holds it. -/
def State.shardAt (s : State) (e : Nat) (g : List Byte) (i : Nat) : Nat × Bool :=
  (leNat ((s.readVa e (gShard g + 4 * i) 4).getD []), !s.poison.isEmpty && s.poisonedVa e ((gShard g + 4 * i) / 64 * 64) 64)

/-- Every entry of an update (R362 order 4). -/
def State.passAll (s : State) (e : Nat) (es : List (List Byte)) (w : Pass) : PassAcc :=
  es.foldl (fun (acc : PassAcc) g => acc.entry e g w fun i => acc.s.shardAt e g i) { s, skips := 0, copies := [] }

/-- The arbiters of a list of ranges of easel memory, each once; a glaze unit and a drain lie beside the memory they use. -/
def State.arbsBeside (s : State) (e : Nat) (l : List (Nat × Nat)) : List Arb :=
  (l.flatMap fun r => (piecesOf pageBytes r.1 r.2).flatMap fun p => ((s.translate e p.1).map arbOf).getD []).foldl
    (fun acc x => if acc.contains x then acc else acc ++ [x]) []

/-- The value waits that an update armed taken away (R362). -/
def State.dropUpdateWaiters (s : State) (e : Nat) : State :=
  let mine := fun (w : Waiter) => match w.who with | .update f _ => f = e | _ => false
  { s with sems := tmap (fun _ m => { m with values := m.values.filter (!mine ·) }) s.sems }

/-- The units run over every entry (R362 order 4). -/
def State.runUpdate (s : State) (e : Nat) (u : Update) (errs : List (Nat × MemErr)) : State :=
  let s := s.spaceErrors e 1 1 u.seq errs
  let x := s.easel e
  let w : Pass := { t := u.step, k := (x.verdict u.step).k, lrScale := of32 (ubScale u.block),
                    seed := policy s (0x3000 + e) 4, select := x.select }
  let writes := u.entries.flatMap fun g => (gPlanes g).map fun p => (p.1 + (1 - x.select) * gVarnish g, p.2)
  let r := s.passAll e u.entries w
  r.s.onEasel e fun y => { y with update := some { u with applied := true, nonfinite := r.skips, writes } }

/-! ### UPDATE_APPLY (R362) -/

/-- Whether a drain or an export still holds a varnish buffer of an easel (R365). -/
def Easel.bufferHeld (x : Easel) (buffer : Nat) : Bool := x.drains.any fun d => d.held && d.buffer = buffer

/-- UPDATE_APPLY: with the verdict decided, a skipped step writes nothing, and waits for nothing more; else once every done value is
reached and the buffer is free, the units run through their arbiters with slack 1,024 (R364, log entry 125). A wait for the buffer is
counted and reported once. -/
def execUpdateApply (e : Nat) (errs : List (Nat × MemErr)) (s : State) : Host.Outcome State Fault Refusal :=
  let x := s.easel e
  match x.update with
  | none => .next s
  | some u =>
    if u.applied || !s.works e || !x.decided u.step then .next s
    else if x.wasSkipped u.step then
      .next ((s.dropUpdateWaiters e).setEasel e { x with update := some { u with applied := true, skipped := true, waiters := [] } })
    else if !u.waiters.isEmpty then .next s
    else if x.bufferHeld (1 - x.select) then
      if u.stalled then .next s
      else
        .next ((s.setEasel e { x with
          update := some { u with stalled := true }, varnishStalls := addSat (2 ^ 64 - 1) x.varnishStalls 1 }).reportSeq
          0x0903 e 0x09 0 u.seq u.step 0)
    else
      .next (s.atArbiters (.glaze e) 1024 (s.arbsBeside e (u.entries.flatMap gRegions)) fun s => s.runUpdate e u errs)

/-! ### Checkpoint images (R370, R371) -/

/-- An element of the high plane or of the BF16 rounding of an export (R392): bytes of the padded plane. -/
def State.exportPlane (s : State) (e : Nat) (g : List Byte) (buffer format : Nat) : Option (List Byte) :=
  match s.readVa e (planeAt g 0 buffer) (4 * gCount g), s.readVa e (planeAt g 1 buffer) (2 * gCount g) with
  | some hi, some lo =>
    let bs := if format = 1 then hi
      else (List.range (gCount g)).flatMap fun i =>
        leBytes 2 ((⟨8, 7, 127, 0⟩ : Fmt).encode .infinity ((⟨8, 39, 127, 0⟩ : Fmt).decode
          (masterBits (at8 hi (4 * i) 4) (at8 lo (2 * i) 2)))).1
    some (bytesAt bs 0 (roundUp bs.length 64))
  | _, _ => none

/-- The payload's regions of one entry in a buffer, in order: state record and planes, as address and length. -/
def imageRegions (g : List Byte) (buffer : Nat) : List (Nat × Nat) :=
  (planeAt g 4 buffer, 32) :: (gPlanes g).dropLast.map fun p => (p.1 + buffer * gVarnish g, p.2)

/-- Bytes of a region padded to 64 B. -/
def State.padded (s : State) (e : Nat) (r : Nat × Nat) : Option (List Byte) :=
  (s.readVa e r.1 r.2).map fun b => bytesAt b 0 (roundUp r.2 64)

/-- The payload of an image; `none` where a page of it is not held any more. -/
def State.payload (s : State) (e : Nat) (f : ImageFacts) (buffer format : Nat) : Option (List Byte) :=
  let join := fun (l : List (Option (List Byte))) => l.foldl (fun acc b =>
    match acc, b with | some x, some y => some (x ++ y) | _, _ => none) (some [])
  let entry := fun (g : List Byte) =>
    if format = 0 then join (some (bytesAt g 0 128) :: (imageRegions g buffer).map (s.padded e))
    else join [some (bytesAt g 0 128), s.padded e (planeAt g 4 buffer, 32), s.exportPlane e g buffer format]
  join (f.entries.map entry ++ f.extents.map fun x =>
    (s.padded e x).map fun b => bytesAt (leBytes 8 x.1 ++ leBytes 8 x.2) 0 64 ++ b)

/-- Which 64 B lines of a region padded to 64 B are poisoned. -/
def State.badLines (s : State) (e : Nat) (r : Nat × Nat) : List Bool :=
  (List.range (ceilDiv r.2 64)).map fun l => !s.poison.isEmpty && s.poisonedVa e (r.1 + 64 * l) 64

/-- Which lines of an export's plane stand for a poisoned line of the high plane or the extension. -/
def State.badPlane (s : State) (e : Nat) (g : List Byte) (buffer format : Nat) : List Bool :=
  let hi := s.badLines e (planeAt g 0 buffer, 4 * gCount g)
  let lo := s.badLines e (planeAt g 1 buffer, 2 * gCount g)
  if format = 1 then hi
  else (List.range (ceilDiv (2 * gCount g) 64)).map fun l => hi.getD (2 * l) false || hi.getD (2 * l + 1) false || lo.getD l false

/-- Which 64 B lines of a payload are poisoned. -/
def State.payloadBad (s : State) (e : Nat) (f : ImageFacts) (buffer format : Nat) : List Bool :=
  (f.entries.flatMap fun g => [false, false] ++
    (if format = 0 then (imageRegions g buffer).flatMap (s.badLines e)
     else s.badLines e (planeAt g 4 buffer, 32) ++ s.badPlane e g buffer format))
    ++ f.extents.flatMap fun x => false :: s.badLines e x

/-- Bytes written at an address of a space, with the lines of `bad` marked as poison. -/
def State.writeMarked (s : State) (e space a : Nat) (bs : List Byte) (bad : List Bool) : State :=
  bad.zipIdx.foldl (fun (s : State) b => if b.1 then s.poisonSpace e space (a + 64 * b.2) 64 else s) (s.writeSpace e space a bs)

/-- What an image of the state after step `t` says of it, the update block of `t` being `block` (R370). -/
def State.factsOf (s : State) (e t : Nat) (block : List Byte) : ImageFacts :=
  let x := s.easel e
  let v := x.verdict t
  { select := x.select, canvas := (x.canvas.map (·.id)).getD 0, seed := policy s (0x3000 + e) 4, next := v.next, clean := v.clean, block,
    entries := x.lastEntries, extents := s.extras e }

/-- The header of an image (Table 14-5). -/
def imageHeader (f : ImageFacts) (layer step format : Nat) (payload : List Byte) : List Byte :=
  let b := f.block
  let h := leBytes 4 0x4E525651 ++ leBytes 2 0x0100 ++ leBytes 1 layer ++ leBytes 1 f.select ++ leBytes 8 (step % 2 ^ 48)
    ++ leBytes 8 f.canvas ++ leBytes 8 f.seed ++ leBytes 4 (ofSigned 32 f.next) ++ leBytes 4 f.clean ++ leBytes 8 (at8 b 24 5)
    ++ leBytes 4 (at8 b 32 4) ++ leBytes 2 (at8 b 36 2) ++ leBytes 1 (if layer = 4 then format else 0) ++ [0] ++ leBytes 8 (at8 b 40 8)
    ++ leBytes 4 f.entries.length ++ leBytes 4 f.extents.length ++ leBytes 8 payload.length ++ shake256 payload
    ++ List.replicate 12 0
  h ++ leBytes 4 (crc32c h)

/-! ### Drains (R369, R371) -/

/-- The group channel of an easel (DEDUCED, log entry 64): the lowest data channel it holds whose group has members beside it. -/
def State.groupChannel (s : State) (e : Nat) : Option Nat := (s.units e 7).find? fun v => decide (1 < (s.group v).1)

/-- The channel its checkpoints travel on: the group channel, or the lowest it holds. -/
def State.drainChannel (s : State) (e : Nat) : Option Nat :=
  match s.groupChannel e with | some v => some v | none => (s.units e 7).head?

/-- Which layers are enabled (R369, R390). -/
def State.layerOn (s : State) (e layer : Nat) : Bool :=
  let p := fun (i : Nat) => policy s (0x9040 + e) i
  match layer with
  | 1 => p 1 != 0xFFFFF && p 3 != 0
  | 2 => p 4 != 0 && p 6 != 0 && s.flashWritable
  | _ => p 5 != 0 && decide (12 ≤ (written s.dict (0x9040 + e) 8).length)

/-- The cadence of a layer. -/
def State.every (s : State) (e layer : Nat) : Nat := policy s (0x9040 + e) (2 + layer)

/-- Log entries since the newest complete partner checkpoint. -/
def Easel.logged (x : Easel) : Nat := (x.logs.filter fun l => decide (x.ckptLast.getD 0 0 < l.step)).length

/-- Whether a layer is due at applied step `t` (R369). -/
def State.due (s : State) (e layer t : Nat) : Bool :=
  s.layerOn e layer && (decide ((s.easel e).nextDue.getD (layer - 1) 0 ≤ t)
    || (layer = 1 && decide (s.every e 1 ≤ (s.easel e).logged)))

/-- Bytes sent to a far window in writes of at most 512 B, poisoned where a line of `bad` is; `drain` and `log` name what they
serve; `none` without a port. -/
def State.sendWrites (s : State) (e channel dest a : Nat) (bs : List Byte) (bad : List Bool) (drain log : Option Nat) : Option State :=
  match s.ownPort channel with
  | none => none
  | some _ =>
    some ((List.range (ceilDiv bs.length 512)).foldl (fun (s : State) i =>
      match s.ownPort channel with
      | some p => s.requestOn p e 1 channel dest (a + 512 * i) 0 ((bs.drop (512 * i)).take 512)
        (((bad.drop (8 * i)).take 8).any id) none none drain log none
      | none => s) s)

def Drain.key (d : Drain) : Nat := d.id * 8 + d.layer

def Easel.setDrain (x : Easel) (d : Drain) : Easel :=
  { x with drains := x.drains.map fun q => if q.id = d.id then d else q }

/-- A drain that has ended. -/
def State.endDrain (s : State) (e : Nat) (d : Drain) : State :=
  (s.onEasel e fun x => { x with drains := x.drains.filter (·.id != d.id) }).unask (· == .drain e d.id)

/-- Slot length Z of a drain's images. -/
def Drain.room (d : Drain) : Nat := roundUp (128 + payloadBytes d.facts.entries d.facts.extents 0) pageBytes

/-- The payload of a drain as its source holds it now, with its poisoned lines. -/
def State.drainPayload (s : State) (e : Nat) (d : Drain) : Option (List Byte × List Bool) :=
  let n := payloadBytes d.facts.entries d.facts.extents d.format
  let stage := policy s (0x9040 + e) 6 + 128
  let slot := d.slot * d.room + 128
  match d.via with
  | 0 => (s.payload e d.facts d.buffer d.format).map fun b => (b, s.payloadBad e d.facts d.buffer d.format)
  | 1 => (s.readVa e stage n).map fun b => (b, s.badLines e (stage, n))
  | _ => (s.readSpace e 4 slot n).map fun b =>
      (b, (List.range (ceilDiv n 64)).map fun l => !s.poison.isEmpty && s.poisonedSpace e 4 (slot + 64 * l) 64)

/-- A drain to a far window begins: its payload is sent, the header follows when that is acknowledged (R370). -/
def State.beginFar (s : State) (e : Nat) (d : Drain) : State :=
  match s.drainPayload e d with
  | none => s.endDrain e d
  | some (b, bad) =>
    let h := imageHeader d.facts d.layer d.step d.format b
    match s.sendWrites e d.channel d.position (d.address + 128) b bad (some d.key) none with
    | some s => s.onEasel e fun x => x.setDrain { d with phase := 1, header := h }
    | none => s

/-- The arbiters that the next copy of a drain passes (R366): of its source, and of the stage, flash, easel memory or port it goes to. -/
def State.drainArbs (s : State) (e : Nat) (d : Drain) : List Arb :=
  let n := 128 + payloadBytes d.facts.entries d.facts.extents d.format
  let stage := (policy s (0x9040 + e) 6, n)
  let flash := (((piecesOf 1048576 (d.slot * d.room) n).filterMap fun p => s.placeOf e 0 4 p.1).flatMap arbOf).take 1
  let far := match s.ownPort d.channel with | some p => if (s.port p).up then [Arb.port p] else [] | none => []
  let source := match d.via with
    | 0 => s.arbsBeside e (d.facts.entries.flatMap fun g => imageRegions g d.buffer)
    | 1 => if d.phase = 0 then s.arbsBeside e (d.facts.entries.flatMap fun g => imageRegions g d.buffer) else s.arbsBeside e [stage]
    | _ => flash
  let goal := if d.via = 1 && d.phase = 0 then s.arbsBeside e [stage]
    else if d.space = 4 then flash else if d.space = 1 then s.arbsBeside e [(d.address, n)] else far
  source ++ goal.filter (!source.contains ·)

/-- A drain's copy, as its arbiters grant it (R366, log entry 125). -/
def State.drainCopy (s : State) (e : Nat) (d : Drain) (go : State → State) : State :=
  s.atArbiters (.drain e d.id) ((s.easel e).drainSlack d) (s.drainArbs e d) go

/-- Whether a request of a drain is still to be answered. -/
def State.drainOpen (s : State) (e : Nat) (d : Drain) : Bool := s.fabric.remotes.any fun r => r.easel = e && r.drain = some d.key

/-- A new drain registered; one that can begin at once asks for its copy. -/
def State.addDrain (s : State) (e : Nat) (d : Drain) (now : Bool) : State :=
  let d := { d with id := (s.easel e).nextDrain }
  let s := s.onEasel e fun x => { x with drains := x.drains ++ [d], nextDrain := x.nextDrain + 1 }
  if now && !(s.drainArbs e d).isEmpty then s.ask (.drain e d.id) ((s.easel e).drainSlack d) (s.drainArbs e d) else s

/-- The drain a layer is due for after the update of `t` (Table 14-4). -/
def State.drainFor (s : State) (e layer t : Nat) : Option Drain :=
  let x := s.easel e
  let ch := (s.drainChannel e).getD 0
  let base : Drain := { id := 0, layer, step := t, buffer := x.select, held := true, via := 0, phase := 0, space := 5, address := 0,
                        position := 0, channel := ch, format := 0, slot := 0, header := [],
                        facts := s.factsOf e t x.lastBlock }
  match layer with
  | 1 => some { base with position := policy s (0x9040 + e) 1,
                          address := policy s (0x9040 + e) 2 + x.partnerSlot * s.imageRoom e x.lastEntries }
  | 2 => some { base with space := 4, via := 1, slot := x.flashSlot }
  | _ =>
    let b := written s.dict (0x9040 + e) 8
    let via := if !s.flashWritable then (if policy s (0x9040 + e) 6 = 0 then 0 else 1)
      else if x.drains.any fun d => d.layer = 2 && d.step = t then 2 else 0
    some { base with position := at8 b 0 4, address := at8 b 4 8, via, held := via != 2,
                     slot := match x.drains.find? (fun d => d.layer = 2 && d.step = t) with | some d => d.slot | none => 0 }

/-- A layer that is due begins its drain, and its next due step is set (R369). A stage drain that finds the stage in use waits and is
counted. -/
def State.startLayer (s : State) (e t layer : Nat) : State :=
  if !s.due e layer t then s
  else
    let n := s.every e layer
    let busy := (s.easel e).drains.any fun d => d.layer = 2
    let s := s.onEasel e fun x => { x with
      nextDue := if x.nextDue.getD (layer - 1) 0 ≤ t then x.nextDue.set (layer - 1) ((t / max n 1 + 1) * n) else x.nextDue,
      varnishStalls := if layer = 2 && busy then addSat (2 ^ 64 - 1) x.varnishStalls 1 else x.varnishStalls }
    match s.drainFor e layer t with
    | none => s
    | some d =>
      let s := s.onEasel e fun x =>
        if layer = 1 then { x with partnerSlot := 1 - x.partnerSlot }
        else if layer = 2 then { x with flashSlot := (x.flashSlot + 1) % max 1 (policy s (0x9040 + e) 7) } else x
      s.addDrain e d (d.via = 0)

/-- The exports of step `t` begin, with the update block of `t`. -/
def State.beginExports (s : State) (e t : Nat) (block : List Byte) : State :=
  ((s.easel e).drains.filter fun d => d.layer = 4 && d.phase = 0 && d.step = t && !d.held).foldl (fun (s : State) d =>
    let d := { d with held := true, buffer := (s.easel e).select, facts := s.factsOf e t block }
    let s := s.onEasel e fun x => x.setDrain d
    if (s.drainArbs e d).isEmpty then s else s.ask (.drain e d.id) ((s.easel e).drainSlack d) (s.drainArbs e d)) s

/-! ### UPDATE_COMPLETE (R362, R365, R369, R392) -/

/-- UPDATE_COMPLETE: the select flips unless the step was skipped, the drains that are due begin, and the command completes. -/
def execUpdateComplete (e : Nat) (s : State) : Host.Outcome State Fault Refusal :=
  let x := s.easel e
  match x.update, x.running 6 with
  | some u, some c =>
    if !u.applied || !s.works e then .next s
    else if u.skipped then
      .next (((s.setEasel e { x with update := none }).beginExports e u.step u.block).finishCmd e c)
    else
      let s := s.setEasel e { x with
        update := none, select := 1 - x.select, lastApplied := u.step, lastBlock := u.block, lastEntries := u.entries }
      let s := if u.nonfinite = 0 then s else s.reportSeq 0x090C e 0x09 0 u.seq u.step (min u.nonfinite (2 ^ 32 - 1))
      let s := [1, 2, 3].foldl (fun s l => s.startLayer e u.step l) s
      .next ((s.beginExports e u.step u.block).finishCmd e c)
  | _, _ => .next s

/-! ### EXPORT (R392) -/

/-- Whether an export block is legal (Table 15-7, R392). -/
def State.exportLegal (s : State) (e : Nat) (b : List Byte) (t : Nat) : Bool :=
  let space := fld (at8 b 8 1) 0 4
  let position := fld (at8 b 12 4) 0 20
  let channel := fld (at8 b 12 4) 24 4
  at8 b 0 8 % 64 = 0 && (space = 1 || space = 5) && decide (fld (at8 b 8 1) 4 4 ≤ 2) && rsv b 9 3 && fld (at8 b 12 4) 20 4 = 0
    && fld (at8 b 12 4) 28 4 = 0 && rsv b 16 16 && (space = 5 || (position = 0 && channel = 0))
    && (space = 1 || s.holds e 7 channel) && t != 0 && decide ((s.easel e).lastApplied ≤ t)

/-- EXPORT: accepted once its checks have passed and its buffer is registered; the command completes at its acceptance. -/
def execExportImage (e : Nat) (s : State) : Host.Outcome State Fault Refusal :=
  let x := s.easel e
  match x.dispatched 7 with
  | none => .next s
  | some c =>
    if !s.works e then .next s
    else
      let b := s.blockOf e c
      let bad := s.poisonedVa e (c.param + 16 * c.listCount) 32
      let space := fld (at8 b 8 1) 0 4
      let format := fld (at8 b 8 1) 4 4
      let now := c.step = x.lastApplied
      if bad || !s.exportLegal e b c.step then .next (s.glazeFault e c (0x090D, 0, 0xFF))
      else if now && space = 1 && !s.mapped e (at8 b 0 8) (128 + payloadBytes x.lastEntries (s.extras e) format) then
        .next (s.glazeFault e c (0x0501, at8 b 0 8, 2 ^ 24))
      else
        let d : Drain := { id := 0, layer := 4, step := c.step, buffer := x.select, held := now, via := 0, phase := 0, space,
                           address := at8 b 0 8, position := fld (at8 b 12 4) 0 20, channel := fld (at8 b 12 4) 24 4, format,
                           slot := 0, header := [], facts := s.factsOf e c.step x.lastBlock }
        .next ((s.addDrain e d now).finishCmd e c)

/-! ### CHECKPOINT_WRITTEN (R370) -/

/-- The record of an image acknowledged, and what it ends: the drain, and for a partner checkpoint the log entries it covers. -/
def State.imageDone (s : State) (e : Nat) (d : Drain) : State :=
  let s := (s.endDrain e d).onEasel e fun x => { x with
    ckptLast := if d.layer = 4 then x.ckptLast else x.ckptLast.set (d.layer - 1) d.step,
    logs := if d.layer = 1 then x.logs.filter (fun l => decide (d.step < l.step)) else x.logs }
  s.reportSeq 0x0904 e 0x09 0 (s.easel e).lastSeq d.step d.layer

/-- The image of a drain copied to the stage (Table 14-4), which frees its buffer. -/
def State.copyToStage (s : State) (e : Nat) (d : Drain) : State :=
  match s.payload e d.facts d.buffer 0 with
  | none => s.endDrain e d
  | some b =>
    let h := imageHeader d.facts d.layer d.step 0 b
    let bad := [false, false] ++ s.payloadBad e d.facts d.buffer 0
    (s.writeMarked e 1 (policy s (0x9040 + e) 6) (h ++ b) bad).onEasel e fun x => x.setDrain { d with held := false, phase := 1, header := h }

/-- The stage copied to the flash slot. Where flash has turned read-only, layer 2 stops, and the store drain of the same step goes from
the stage (R390, Table 14-4). -/
def State.copyToFlash (s : State) (e : Nat) (d : Drain) : State :=
  let stage := (policy s (0x9040 + e) 6, 128 + payloadBytes d.facts.entries d.facts.extents 0)
  match s.readVa e stage.1 stage.2 with
  | none => s.endDrain e d
  | some b =>
    if !s.flashWritable then
      (s.endDrain e d).onEasel e fun x => { x with drains := x.drains.map fun (q : Drain) =>
        if q.layer = 3 && q.via = 2 && q.step = d.step && q.phase = 0 then { q with via := 1, phase := 1 } else q }
    else (s.writeMarked e 4 (d.slot * d.room) b (s.badLines e stage)).imageDone e d

/-- Whether a store drain from flash may begin: the flash image of its step is written. -/
def Easel.slotWritten (x : Easel) (d : Drain) : Bool := d.via = 2 && !(x.drains.any fun q => q.layer = 2 && q.step = d.step)

/-- An export's image written to easel memory. -/
def State.exportHere (s : State) (e : Nat) (d : Drain) : State :=
  match s.drainPayload e d with
  | none => s.endDrain e d
  | some (b, bad) =>
    let h := imageHeader d.facts 4 d.step d.format b
    if !s.mapped e d.address (128 + b.length) then (s.endDrain e d).faultWith 0x0501 e 0x09 0 (s.easel e).lastSeq d.address (2 ^ 24)
    else (s.writeMarked e 1 d.address (h ++ b) ([false, false] ++ bad)).imageDone e d

/-- CHECKPOINT_WRITTEN: the oldest drain of a layer goes on, or ends with its record: a flash drain, or one through the stage, is
copied there first, and to flash once no store drain reads its slot (R369); an export to easel memory lands; one to a far window ends
when its header is acknowledged. Each copy passes its arbiters. -/
def execCheckpointWritten (e layer : Nat) (s : State) : Host.Outcome State Fault Refusal :=
  let x := s.easel e
  match x.drains.find? fun d => d.layer = layer && (d.phase != 0 || d.held || x.slotWritten d) with
  | none => .next s
  | some d =>
    if d.via = 1 && d.phase = 0 then .next (s.drainCopy e d fun s => s.copyToStage e d)
    else if d.space = 4 then
      if x.drains.any fun q => q.layer = 3 && q.via = 2 && q.slot = d.slot && q.step != d.step then .next s
      else .next (s.drainCopy e d fun s => s.copyToFlash e d)
    else if d.via = 1 && d.phase = 1 && !s.drainOpen e d then .next (s.drainCopy e d fun s => s.beginFar e d)
    else if d.space = 1 then .next (s.drainCopy e d fun s => s.exportHere e d)
    else if d.phase = 0 then .next (s.drainCopy e d fun s => s.beginFar e d)
    else if d.phase = 2 && !s.drainOpen e d then .next (s.imageDone e d)
    else .next s

/-- A drain whose payload has been acknowledged sends its header (R370). -/
def State.drainAcked (s : State) (e key : Nat) : State :=
  match (s.easel e).drains.find? fun d => d.key = key with
  | some d =>
    if d.phase = 1 && !s.drainOpen e d then
      match s.sendWrites e d.channel d.position d.address d.header [] (some d.key) none with
      | some s => s.onEasel e fun x => x.setDrain { d with phase := 2 }
      | none => s
    else s
  | none => s

/-! ### The pentimento log (R373 to R375) -/

/-- The device's own verdict word of a step (R354): non-finite count below, saturations above. -/
def Easel.word (x : Easel) (t : Nat) : Nat :=
  match x.counts.find? (·.step = t) with
  | some c => c.nonfinite + c.saturated * 2 ^ 32
  | none => 0

/-- The header of a log entry (Table 14-6); the CRC reads the verdict as 0. -/
def logHeader (t verdict : Nat) (k : Int) (block : List Byte) (word : Nat) (payload : List Byte) : List Byte :=
  let h := fun (v : Nat) => leBytes 6 t ++ leBytes 2 v ++ leBytes 4 (ofSigned 32 k) ++ leBytes 4 (ubScale block) ++ leBytes 8 word
    ++ leBytes 8 payload.length
  h verdict ++ leBytes 4 (crc32c (h 0 ++ payload)) ++ leBytes 4 0 ++ leBytes 8 (at8 block 24 5) ++ leBytes 4 (at8 block 32 4)
    ++ leBytes 4 0 ++ leBytes 8 (at8 block 40 8)

/-- Whether every owned shard of step `t` has landed (R373): each firing of it is whole, each done value reached. -/
def Easel.shardsIn (x : Easel) (u : Update) : Bool :=
  u.waiters.isEmpty && x.firings.all fun f => f.step != u.step || f.complete

/-- The entry of an update's step written to the partner's log, in the next position (R373). -/
def State.writeLog (s : State) (e ch : Nat) (u : Update) : State :=
  let x := s.easel e
  let skipped := x.decided u.step && x.wasSkipped u.step
  let n := 2 * s.every e 1
  let part := fun (g : List Byte) => bytesAt ((s.readVa e (gShard g) (4 * gCount g)).getD []) 0 (roundUp (4 * gCount g) 64)
  let payload := if skipped then [] else u.entries.flatMap part
  let bad := if skipped then [] else u.entries.flatMap fun g => s.badLines e (gShard g, 4 * gCount g)
  let a := policy s (0x9040 + e) 2 + 2 * s.imageRoom e u.entries + x.logPos % n * (64 + shardBytes u.entries)
  let k := if x.decided u.step then (x.verdict u.step).k else x.lossExp
  let h := logHeader u.step (if skipped then 2 else 0) k u.block (x.word u.step) payload
  let l : LogState := { step := u.step, header := h, address := a, phase := if payload.isEmpty then 1 else 0 }
  let dest := policy s (0x9040 + e) 1
  match (if payload.isEmpty then s.sendWrites e ch dest a h [] none (some u.step)
         else s.sendWrites e ch dest (a + 64) payload bad none (some u.step)) with
  | some s => s.onEasel e fun x => { x with logs := x.logs ++ [l], logPos := (x.logPos + 1) % n }
  | none => s

/-- LOG_ENTRY_WRITE (R373): once every owned shard of the waiting update's step has landed, or the step is known to be skipped. Its reads
carry a glaze unit's slack (DESIGN CHOICE, log entry 147). -/
def execLogEntryWrite (e : Nat) (s : State) : Host.Outcome State Fault Refusal :=
  let x := s.easel e
  match x.update, s.drainChannel e with
  | some u, some ch =>
    let skipped := x.decided u.step && x.wasSkipped u.step
    if !s.works e || !s.layerOn e 1 || x.logs.any (·.step = u.step) || decide (x.lastDone < u.step) || !(skipped || x.shardsIn u) then
      .next s
    else
      let arbs := if skipped then [] else s.arbsBeside e (u.entries.map fun g => (gShard g, 4 * gCount g))
      .next (s.atArbiters (.log e u.step) 1024 arbs fun s => s.writeLog e ch u)
  | _, _ => .next s

/-- A log entry whose payload, or whose header, has been acknowledged. -/
def State.logAcked (s : State) (e t : Nat) : State :=
  let x := s.easel e
  match x.logs.find? (·.step = t), s.drainChannel e with
  | some l, some ch =>
    if s.fabric.remotes.any fun r => r.easel = e && r.log = some t then s
    else
      let put := fun (s : State) (p : Nat) => s.onEasel e fun x =>
        { x with logs := x.logs.map fun (q : LogState) => if q.step = t then { q with phase := p } else q }
      match l.phase with
      | 0 =>
        match s.sendWrites e ch (policy s (0x9040 + e) 1) l.address l.header [] none (some t) with
        | some s => put s 1
        | none => s
      | _ => put s 2
  | _, _ => s

/-! ### The verdict word (R354, R374) -/

/-- The verdict word of step `t` sent on channel 16 by the first port of the group's mask. -/
def State.sendWord (s : State) (v t word : Nat) : Option State :=
  (segmentPort (s.mask v) 0).map fun p =>
    s.sendOn p (s.contribution 16 (policy s (0x6110 + v) 4) 0 0 0 v t (bytesAt (leBytes 8 word) 0 64))

/-- VERDICT_WORD_SEND: once the last command of the step has completed and, with layer 1 enabled, the step's log entry is
acknowledged. An easel in no group sends nothing. -/
def execVerdictWordSend (e : Nat) (s : State) : Host.Outcome State Fault Refusal :=
  let x := s.easel e
  match s.groupChannel e with
  | none => .next s
  | some v =>
    let t := x.lastDone
    if !s.works e || t = 0 || x.decided t || x.wordSent = t || (s.layerOn e 1 && !(x.logs.any fun l => l.step = t && l.phase = 2)) then
      .next s
    else
      match s.sendWord v t (x.word t) with
      | some s => .next ((s.onEasel e fun x => { x with wordSent := t }).markSent e)
      | none => .next s

/-- VERDICT_TIMEOUT (R354): no total has come for the word that was sent. -/
def execVerdictTimeout (e : Nat) (s : State) : Host.Outcome State Fault Refusal :=
  let x := s.easel e
  match s.groupChannel e with
  | some v =>
    if x.wordSent != 0 && !x.decided x.wordSent then
      .next (s.reductionTimedOut e 0x03 (s.sequencer e) x.lastSeq x.wordSent 0 v)
    else .next s
  | none => .next s

end Sys2Proof.Machine
end

