-- ==== Sys2Proof/Machine/Coding.lean ====
section
/-! DEFINITION. What the external codings of Table 12-6 share: bit streams, prefix codes, checks by remainder, and the work a decode counts
(R316). The standards that the table names are taken as published (PRESUMED, log entry 11). -/

namespace Sys2Proof.Machine

/-- What a decode gave: its result where it ended as it must, and the work counted as far as it went (Table 12-8). -/
structure Coded (α : Type) where
  out : Option α
  work : Nat
  deriving Repr

/-! ### Bits -/

/-- The bits of bytes, the lowest of each byte first, or the highest. -/
def bitsLow (l : List Byte) : List Bool := l.flatMap fun b => (List.range 8).map fun i => b.toNat.testBit i
def bitsHigh (l : List Byte) : List Bool := l.flatMap fun b => (List.range 8).map fun i => b.toNat.testBit (7 - i)

/-- The number that bits spell, the first bit lowest, or highest. -/
def numLow : List Bool → Nat
  | [] => 0
  | b :: t => b.toNat + 2 * numLow t
def numHigh (l : List Bool) : Nat := l.foldl (fun n b => 2 * n + b.toNat) 0

/-- The first `n` bits of a stream and what follows; none where it has fewer. -/
def takeBits : Nat → List Bool → Option (List Bool × List Bool)
  | 0, l => some ([], l)
  | _ + 1, [] => none
  | n + 1, b :: l => (takeBits n l).map fun p => (b :: p.1, p.2)

/-- A field of `n` bits taken from a stream. -/
def getLow (n : Nat) (l : List Bool) : Option (Nat × List Bool) := (takeBits n l).map fun p => (numLow p.1, p.2)
def getHigh (n : Nat) (l : List Bool) : Option (Nat × List Bool) := (takeBits n l).map fun p => (numHigh p.1, p.2)

/-- A byte from a number. -/
def byteOf (n : Nat) : Byte := BitVec.ofNat 8 (n % 256)

/-- The number that bytes spell, the first one highest. -/
def beNat (l : List Byte) : Nat := l.foldl (fun n b => 256 * n + b.toNat) 0

/-- Bytes [off, off + n) as such a number. -/
def be8 (l : List Byte) (off n : Nat) : Nat := beNat ((l.drop off).take n)

/-- The first `n` bytes of a run and what follows; none where it has fewer. -/
def takeBytes : Nat → List Byte → Option (List Byte × List Byte)
  | 0, l => some ([], l)
  | _ + 1, [] => none
  | n + 1, b :: l => (takeBytes n l).map fun p => (b :: p.1, p.2)

/-- `n` bytes copied from `d` back to the end of a run that is kept latest byte first. -/
def copyBack : Nat → Nat → List Byte → List Byte
  | 0, _, out => out
  | n + 1, d, out => copyBack n d (out.getD (d - 1) 0 :: out)

/-- A list given by runs: how often, and what. -/
def runsOf {α : Type} (l : List (Nat × α)) : List α := l.flatMap fun p => List.replicate p.1 p.2

/-- Where each range begins when ranges of 2^w values, w from `l`, follow one another from `from0` on; with the widths. -/
def basesFrom : Nat → List Nat → List (Nat × Nat)
  | _, [] => []
  | from0, w :: l => (from0, w) :: basesFrom (from0 + 2 ^ w) l

/-! ### Canonical prefix codes -/

/-- A prefix code: the symbols of each length from 1 on, in the order of their codes. -/
abbrev Prefix := List (List Nat)

/-- The code whose symbol `i` has length `lens[i]`, 0 for none, and `longest` at most. -/
def prefixOf (longest : Nat) (lens : List Nat) : Prefix :=
  (List.range longest).map fun l => (lens.zipIdx.filter (·.1 = l + 1)).map (·.2)

/-- The codes left unused at the longest length; none where there are too many codes. -/
def Prefix.spare (c : Prefix) : Option Nat :=
  c.foldl (fun left s => left.bind fun n => if s.length ≤ 2 * n then some (2 * n - s.length) else none) (some 1)

/-- A symbol read from a stream: `code` is the code so far, and `first` the first of its length. -/
def Prefix.next : Prefix → Nat → Nat → List Bool → Option (Nat × List Bool)
  | [], _, _, _ => none
  | _, _, _, [] => none
  | s :: c, code, first, b :: l =>
    let code := code + b.toNat
    if code < first + s.length then (s[code - first]?).map fun k => (k, l)
    else Prefix.next c (2 * code) (2 * (first + s.length)) l

def Prefix.read (c : Prefix) (l : List Bool) : Option (Nat × List Bool) := c.next 0 0 l

/-! ### Checks by remainder -/

/-- One bit of a reflected remainder of 32 bits, and the remainder of bytes with the complements of CRC-32. -/
def crcShift (poly c : Nat) : Nat := if c % 2 = 1 then (c / 2) ^^^ poly else c / 2
def crc32 (l : List Byte) : Nat :=
  (l.foldl (fun c b => (List.range 8).foldl (fun c _ => crcShift 0xEDB88320 c) (c ^^^ b.toNat)) 0xFFFFFFFF) ^^^ 0xFFFFFFFF

/-- The remainder of `w` bits, highest first from 0, by `poly`. -/
def crcHigh (w poly : Nat) (l : List Byte) : Nat :=
  (bitsHigh l).foldl (fun c b =>
    let top := (c.testBit (w - 1)) != b
    let c := 2 * c % 2 ^ w
    if top then c ^^^ poly else c) 0

/-- Adler-32. -/
def adler32 (l : List Byte) : Nat :=
  let r := l.foldl (fun (p : Nat × Nat) b => let a := (p.1 + b.toNat) % 65521; (a, (p.2 + a) % 65521)) (1, 0)
  r.2 * 65536 + r.1

end Sys2Proof.Machine
end

