-- ==== Sys2Proof/Machine/Flac.lean ====
section
/-! DEFINITION. FLAC (RFC 9639) as far as Table 12-6 takes it: PRESUMED as published (log entry 11). -/

namespace Sys2Proof.Machine

/-- What STREAMINFO gives: channels, bits of a sample, samples of a channel. -/
structure FlacInfo where
  channels : Nat
  bits : Nat
  total : Nat

/-- Metadata blocks passed over up to the last one: the bytes of the frames. A second STREAMINFO and type 127 are not legal. -/
def flacSkip : Nat → List Byte → Option (List Byte)
  | 0, _ => none
  | fuel + 1, l =>
    (takeBytes 4 l).bind fun (h, l) => (takeBytes (be8 h 1 3) l).bind fun (_, l) =>
      let kind := be8 h 0 1
      if kind % 128 = 0 || kind % 128 = 127 then none else if 128 ≤ kind then some l else flacSkip fuel l

/-- The marker and STREAMINFO, which comes first (Table 12-6), and the frames behind the metadata. -/
def flacHead (p : List Byte) : Option (FlacInfo × List Byte) :=
  (takeBytes 42 p).bind fun (h, l) =>
    let f := fun (lo n : Nat) => fld (be8 h 18 8) (64 - lo - n) n
    let x : FlacInfo := ⟨f 20 3 + 1, f 23 5 + 1, f 28 36⟩
    if be8 h 0 4 != 0x664C6143 || be8 h 4 1 % 128 != 0 || be8 h 5 3 != 34 || x.bits < 4 || x.total = 0 then none
    else if 128 ≤ be8 h 4 1 then some (x, l)
    else (flacSkip l.length l).map fun l => (x, l)

/-! ### Subframes -/

/-- Zeros up to the next one. -/
def unary : Nat → List Bool → Option (Nat × List Bool)
  | _, [] => none
  | n, true :: l => some (n, l)
  | n, false :: l => unary (n + 1) l

/-- A signed field. -/
def getSigned (n : Nat) (l : List Bool) : Option (Int × List Bool) := (getHigh n l).map fun p => (if n = 0 then 0 else toSigned n p.1, p.2)

/-- `n` values read one after another. -/
def getMany (read : List Bool → Option (Int × List Bool)) : Nat → List Bool → Option (List Int × List Bool)
  | 0, l => some ([], l)
  | n + 1, l => (read l).bind fun p => (getMany read n p.2).map fun q => (p.1 :: q.1, q.2)

/-- A Rice code with parameter `k`, folded onto the integers. -/
def rice (k : Nat) (l : List Bool) : Option (Int × List Bool) :=
  (unary 0 l).bind fun p => (getHigh k p.2).map fun q =>
    let v := p.1 * 2 ^ k + q.1
    (if v % 2 = 0 then ((v / 2 : Nat) : Int) else -((v / 2 : Nat) : Int) - 1, q.2)

/-- The partitions of a residual, the first `order` values shorter. -/
def partitions (width each order : Nat) : Nat → Bool → List Bool → Option (List Int × List Bool)
  | 0, _, l => some ([], l)
  | n + 1, first, l =>
    let count := if first then each - order else each
    (getHigh width l).bind fun (k, l) =>
      (if k = 2 ^ width - 1 then (getHigh 5 l).bind fun p => getMany (getSigned p.1) count p.2 else getMany (rice k) count l).bind fun (v, l) =>
        (partitions width each order n false l).map fun q => (v ++ q.1, q.2)

/-- The residual of a block of `n` samples behind `order` warm-up samples. -/
def residual (n order : Nat) (l : List Bool) : Option (List Int × List Bool) :=
  (getHigh 2 l).bind fun (m, l) => (getHigh 4 l).bind fun (po, l) =>
    if 1 < m || n % 2 ^ po != 0 || n / 2 ^ po ≤ order then none
    else partitions (4 + m) (n / 2 ^ po) order (2 ^ po) true l

/-- Samples from a linear prediction: `done` holds those before, latest first. -/
def predict (coefs : List Int) (shift : Nat) (done res : List Int) : List Int :=
  (res.foldl (fun (done : List Int) r =>
    let sum := (coefs.zip done).foldl (fun (a : Int) p => a + p.1 * p.2) 0
    (r + sum / 2 ^ shift) :: done) done).reverse

/-- The coefficients of the fixed predictors. -/
def fixedCoefs : Nat → List Int
  | 1 => [1]
  | 2 => [2, -1]
  | 3 => [3, -3, 1]
  | 4 => [4, -6, 4, -1]
  | _ => []

/-- The body of a subframe of `n` samples of `bits` bits: its samples and the predictor's order. -/
def subframeBody (n bits kind : Nat) (l : List Bool) : Option (List Int × Nat × List Bool) :=
  let predicted := fun (order : Nat) (body : List Bool → Option (List Int × Nat × List Bool)) =>
    (getMany (getSigned bits) order l).bind fun (warm, l) => (body l).bind fun (coefs, shift, l) =>
      (residual n order l).map fun (res, l) => (predict coefs shift warm.reverse res, order, l)
  if kind = 0 then (getSigned bits l).map fun p => (List.replicate n p.1, 0, p.2)
  else if kind = 1 then (getMany (getSigned bits) n l).map fun p => (p.1, 0, p.2)
  else if 8 ≤ kind ∧ kind ≤ 12 then predicted (kind - 8) fun l => some (fixedCoefs (kind - 8), 0, l)
  else if 32 ≤ kind then
    predicted (kind - 31) fun l => (getHigh 4 l).bind fun (prec, l) => (getSigned 5 l).bind fun (shift, l) =>
      if prec = 15 || shift < 0 then none
      else (getMany (getSigned (prec + 1)) (kind - 31) l).map fun (coefs, l) => (coefs, shift.toNat, l)
  else none

/-- A subframe: its samples, and its work, 1 + ceil(order / 8) for each. -/
def subframe (n bits : Nat) (l : List Bool) : Option ((List Int × Nat) × List Bool) :=
  (getHigh 8 l).bind fun (h, l) =>
    if 128 ≤ h then none
    else
      (if h % 2 = 1 then (unary 0 l).map fun p => (p.1 + 1, p.2) else some (0, l)).bind fun (wasted, l) =>
        if bits ≤ wasted then none
        else (subframeBody n (bits - wasted) (h / 2) l).map fun (v, order, l) =>
          ((v.map (· * 2 ^ wasted), n * (1 + ceilDiv order 8)), l)

def subframes (n : Nat) : List Nat → List Bool → Option ((List (List Int) × Nat) × List Bool)
  | [], l => some (([], 0), l)
  | b :: bs, l =>
    (subframe n b l).bind fun (v, l) => (subframes n bs l).map fun (r, l) => ((v.1 :: r.1, v.2 + r.2), l)

/-! ### Frames -/

/-- The coded number of a frame: as many bytes as its first says. -/
def codedNumber (l : List Bool) : Option (List Bool) :=
  (takeBits 8 l).bind fun (h, l) =>
    let n := (h.takeWhile id).length
    if n = 0 then some l
    else if n = 1 || n = 8 then none
    else (takeBits (8 * (n - 1)) l).bind fun (b, l) =>
      if (List.range (n - 1)).all fun i => (b.drop (8 * i)).take 2 = [true, false] then some l else none

/-- The samples of a block by its code, with what follows the coded number for codes 6 and 7. -/
def flacBlockSize (code : Nat) (l : List Bool) : Option (Nat × List Bool) :=
  match code with
  | 0 => none
  | 1 => some (192, l)
  | 6 => (getHigh 8 l).map fun p => (p.1 + 1, p.2)
  | 7 => (getHigh 16 l).map fun p => (p.1 + 1, p.2)
  | k => some (if k < 6 then 144 * 2 ^ k else 2 ^ k, l)

/-- Bits of a sample by the frame's code; 0 where the code is reserved. -/
def sampleBits (x : FlacInfo) (code : Nat) : Nat := [x.bits, 8, 12, 0, 16, 20, 24, 32].getD code 0

/-- The bits of the channels' subframes: one more for a side channel. -/
def channelBits (x : FlacInfo) (assignment : Nat) : List Nat :=
  match assignment with
  | 8 => [x.bits, x.bits + 1]
  | 9 => [x.bits + 1, x.bits]
  | 10 => [x.bits, x.bits + 1]
  | _ => List.replicate x.channels x.bits

/-- Stereo decorrelation undone. -/
def decorrelate (assignment : Nat) (v : List (List Int)) : List (List Int) :=
  match assignment, v with
  | 8, [l, d] => [l, l.zipWith (· - ·) d]
  | 9, [d, r] => [d.zipWith (· + ·) r, r]
  | 10, [m, d] =>
    let w := (m.zip d).map fun (m, d) => (2 * m + d % 2, d)
    [w.map fun p => (p.1 + p.2) / 2, w.map fun p => (p.1 - p.2) / 2]
  | _, _ => v

/-- A frame: its channels' samples, the work of its subframes, and the bytes behind it. Its CRCs, sample bits and channels agree, and every
sample has its bits. -/
def flacFrame (x : FlacInfo) (p : List Byte) : Option (List (List Int) × Nat × List Byte) :=
  let whole := bitsHigh p
  let at_ := fun (l : List Bool) => p.length - l.length / 8
  (getHigh 16 whole).bind fun (sync, l) => (getHigh 4 l).bind fun (bs, l) => (getHigh 4 l).bind fun (rate, l) =>
    (getHigh 4 l).bind fun (ch, l) => (getHigh 4 l).bind fun (ss, l) =>
      (codedNumber l).bind fun l => (flacBlockSize bs l).bind fun (n, l) =>
        (takeBits (match rate with | 12 => 8 | 13 => 16 | 14 => 16 | _ => 0) l).bind fun (_, l) => (getHigh 8 l).bind fun (crc, l) =>
          let head := at_ l - 1
          if sync / 2 != 0x7FFC || rate = 15 || 10 < ch || (if ch < 8 then ch + 1 else 2) != x.channels || ss % 2 = 1
              || sampleBits x (ss / 2) != x.bits || 65535 < n || crcHigh 8 0x07 (p.take head) != crc then none
          else
            (subframes n (channelBits x ch) l).bind fun (v, l) => (takeBits (l.length % 8) l).bind fun (pad, l) =>
              (getHigh 16 l).bind fun (crc, l) =>
                let out := decorrelate ch v.1
                let fits := out.all fun c => c.all fun s => decide (-(2 ^ (x.bits - 1) : Int) ≤ s) && decide (s < 2 ^ (x.bits - 1))
                if pad.any id || crcHigh 16 0x8005 (p.take (at_ l - 2)) != crc || !fits then none
                else some (out, v.2, p.drop (at_ l))

/-- Frames up to the last sample: interleaved samples as patterns of their bits, the work, and whether all ended as it must. -/
def flacFrames (x : FlacInfo) : Nat → Nat → List Byte → List (List Nat) → Nat → Coded (List Nat)
  | 0, _, _, _, work => ⟨none, work⟩
  | fuel + 1, left, p, done, work =>
    if left = 0 then ⟨if p.isEmpty then some (done.reverse.flatMap id) else none, work⟩
    else
      match flacFrame x p with
      | none => ⟨none, work⟩
      | some (v, w, rest) =>
        let n := (v.headD []).length
        let arr := v.map (·.toArray)
        let out := (List.range n).flatMap fun i => arr.map fun c => ofSigned x.bits (c.getD i 0)
        if left < n then ⟨none, work⟩
        else flacFrames x fuel (left - n) rest (out :: done) (work + w + (p.length - rest.length))

/-- A FLAC stream decoded; its work is the payload bytes read and the decoded samples by their predictor's order (Table 12-8). -/
def flacDecode (p : List Byte) : Coded (List Nat) :=
  match flacHead p with
  | none => ⟨none, 0⟩
  | some (x, l) => flacFrames x (l.length + 1) x.total l [] (p.length - l.length)

end Sys2Proof.Machine
end

