-- ==== Sys2Proof/Machine/Jpeg.lean ====
section
/-! DEFINITION. JPEG (ISO/IEC 10918-1) as far as Table 12-6 takes it: baseline and progressive DCT with Huffman coding, PRESUMED as published
(log entry 11). The inverse DCT is free within its accuracy (log entry 156). -/

namespace Sys2Proof.Machine

/-- A component of a frame: its number, sampling factors and quantization table. -/
structure JpegComp where
  id : Nat
  h : Nat
  v : Nat
  q : Nat

structure JpegFrame where
  progressive : Bool
  height : Nat
  width : Nat
  comps : List JpegComp

/-- The largest sampling factors of a frame. -/
def JpegFrame.hMax (f : JpegFrame) : Nat := f.comps.foldl (fun m c => max m c.h) 1
def JpegFrame.vMax (f : JpegFrame) : Nat := f.comps.foldl (fun m c => max m c.v) 1

/-- MCUs across and down. -/
def JpegFrame.mcusX (f : JpegFrame) : Nat := ceilDiv f.width (8 * f.hMax)
def JpegFrame.mcusY (f : JpegFrame) : Nat := ceilDiv f.height (8 * f.vMax)

/-- A block: 64 coefficients in zigzag order. -/
abbrev DctBlock := Array Int

/-- A component's coefficients, block rows padded to whole MCUs; for each coefficient the low bit of its latest scan; the quantization table
in force when its first scan began. -/
structure JpegPlane where
  blocks : Array DctBlock
  low : List (Option Nat)
  table : Option (List Nat)

/-- What the segments so far have given. -/
structure Jpeg where
  frame : Option JpegFrame
  quant : Tab (List Nat)
  dc : Tab Prefix
  ac : Tab Prefix
  restart : Nat
  planes : List JpegPlane
  work : Nat

/-! ### Tables -/

/-- Quantization tables of a DQT segment: 8-bit ones, for 8-bit samples. -/
def quantTables : Nat → List Byte → Tab (List Nat) → Option (Tab (List Nat))
  | 0, _, _ => none
  | fuel + 1, p, t =>
    if p.isEmpty then some t
    else (takeBytes 65 p).bind fun (d, p) =>
      let q := (d.drop 1).map (·.toNat)
      if 3 < be8 d 0 1 || q.contains 0 then none else quantTables fuel p (tset t (be8 d 0 1) q)

/-- Huffman tables of a DHT segment: legal ones leave the code of all ones unused. -/
def huffmanTables (most : Nat) : Nat → List Byte → Tab Prefix × Tab Prefix → Option (Tab Prefix × Tab Prefix)
  | 0, _, _ => none
  | fuel + 1, p, t =>
    if p.isEmpty then some t
    else (takeBytes 17 p).bind fun (d, p) =>
      let n := (d.drop 1).map (·.toNat)
      (takeBytes (n.foldl (· + ·) 0) p).bind fun (v, p) =>
        let c : Prefix := (n.foldl (fun (r : Prefix × List Nat) k => (r.2.take k :: r.1, r.2.drop k)) ([], v.map (·.toNat))).1.reverse
        let place := be8 d 0 1 % 16
        if 1 < be8 d 0 1 / 16 || most < place || (match c.spare with | some 0 => true | none => true | _ => false) then none
        else huffmanTables most fuel p (if be8 d 0 1 / 16 = 0 then (tset t.1 place c, t.2) else (t.1, tset t.2 place c))

/-- The frame of an SOF0 or SOF2 segment within Table 12-6; the height is not left to a later segment. -/
def jpegFrame (marker : Nat) (d : List Byte) : Option JpegFrame :=
  let n := be8 d 5 1
  let comps := (List.range n).map fun i => (⟨be8 d (6 + 3 * i) 1, be8 d (7 + 3 * i) 1 / 16, be8 d (7 + 3 * i) 1 % 16, be8 d (8 + 3 * i) 1⟩ : JpegComp)
  if (n = 1 || n = 3) && d.length = 6 + 3 * n && be8 d 0 1 = 8 && be8 d 1 2 != 0 && be8 d 3 2 != 0
      && comps.all (fun c => (c.h = 1 || c.h = 2) && (c.v = 1 || c.v = 2) && c.q ≤ 3 && (comps.filter (·.id = c.id)).length = 1)
  then some ⟨marker = 0xC2, be8 d 1 2, be8 d 3 2, comps⟩ else none

/-- Planes of a frame before any scan. -/
def JpegFrame.planes (f : JpegFrame) : List JpegPlane :=
  f.comps.map fun c =>
    { blocks := Array.replicate (f.mcusX * c.h * (f.mcusY * c.v)) (Array.replicate 64 0), low := List.replicate 64 none, table := none }

/-! ### Entropy-coded data -/

/-- Entropy-coded data split at its restart markers: the data of each interval, zeros stuffed behind 0xFF taken out, the markers' numbers,
and what follows from the next other marker on. -/
def splitScan : List Byte → List Byte → List (List Byte) → List Nat → List (List Byte) × List Nat × List Byte
  | a :: b :: t, cur, done, ns =>
    if a.toNat != 0xFF then splitScan (b :: t) (a :: cur) done ns
    else if b.toNat = 0 then splitScan t (a :: cur) done ns
    else if b.toNat = 0xFF then splitScan (b :: t) cur done ns
    else if 0xD0 ≤ b.toNat ∧ b.toNat ≤ 0xD7 then splitScan t [] (cur.reverse :: done) ((b.toNat - 0xD0) :: ns)
    else ((cur.reverse :: done).reverse, ns.reverse, a :: b :: t)
  | [a], cur, done, ns => (((if a.toNat = 0xFF then cur else a :: cur).reverse :: done).reverse, ns.reverse, [])
  | [], cur, done, ns => ((cur.reverse :: done).reverse, ns.reverse, [])

/-- What an interval's data is read with: bits, the latest DC value of each component of the scan, and blocks left of a run of ends. -/
structure Entropy where
  bits : List Bool
  dc : List Int
  ends : Nat

/-- A signed value of `n` bits (EXTEND of the standard). -/
def receive (n : Nat) (l : List Bool) : Option (Int × List Bool) :=
  (getHigh n l).map fun p => (if n != 0 && p.1 < 2 ^ (n - 1) then (p.1 : Int) - 2 ^ n + 1 else p.1, p.2)

/-- A scan: the components' places in the frame with their tables, the band, and the bit positions before and now. -/
structure JpegScan where
  comps : List (Nat × Nat × Nat)
  first : Nat
  last : Nat
  high : Nat
  low : Nat

/-- The DC coefficient of a block in its first scan. -/
def dcFirst (t : Prefix) (sc : JpegScan) (i : Nat) (x : Entropy) (b : DctBlock) : Option (DctBlock × Entropy) :=
  (t.read x.bits).bind fun (n, l) =>
    if 11 < n then none
    else (receive n l).map fun (d, l) =>
      let v := x.dc.getD i 0 + d
      (b.setIfInBounds 0 (v * 2 ^ sc.low), { x with bits := l, dc := x.dc.set i v })

/-- Coefficients from `k` on in their first scan. A run of ends is of progressive scans alone. -/
def acFirst (t : Prefix) (runs : Bool) (sc : JpegScan) : Nat → Nat → Entropy → DctBlock → Option (DctBlock × Entropy)
  | 0, _, _, _ => none
  | fuel + 1, k, x, b =>
    if sc.last < k then some (b, x)
    else
      (t.read x.bits).bind fun (rs, l) =>
        let r := rs / 16
        let n := rs % 16
        if n = 0 then
          if r = 15 then (if sc.last < k + 15 then none else acFirst t runs sc fuel (k + 16) { x with bits := l } b)
          else if !runs then (if r = 0 then some (b, { x with bits := l }) else none)
          else (getHigh r l).map fun (e, l) => (b, { x with bits := l, ends := 2 ^ r + e - 1 })
        else if 10 < n || sc.last < k + r then none
        else (receive n l).bind fun (v, l) =>
          acFirst t runs sc fuel (k + r + 1) { x with bits := l } (b.setIfInBounds (k + r) (v * 2 ^ sc.low))

/-- Coefficients passed over in a later scan: each that is not zero takes a bit of correction, until `zeros` zeros have been passed and the
next zero is met, or the band ends. Gives the place reached. -/
def acCorrect (sc : JpegScan) : Nat → Nat → Nat → List Bool → DctBlock → Option (Nat × List Bool × DctBlock)
  | 0, k, _, l, b => some (k, l, b)
  | fuel + 1, k, zeros, l, b =>
    if sc.last < k then some (k, l, b)
    else
      let v := b.getD k 0
      if v = 0 then (if zeros = 0 then some (k, l, b) else acCorrect sc fuel (k + 1) (zeros - 1) l b)
      else (getHigh 1 l).bind fun (c, l) =>
        acCorrect sc fuel (k + 1) zeros l (b.setIfInBounds k (if c = 0 then v else if v < 0 then v - 2 ^ sc.low else v + 2 ^ sc.low))

/-- Coefficients from `k` on in a later scan. -/
def acLater (t : Prefix) (sc : JpegScan) : Nat → Nat → Entropy → DctBlock → Option (DctBlock × Entropy)
  | 0, _, _, _ => none
  | fuel + 1, k, x, b =>
    let rest := fun (x : Entropy) => (acCorrect sc 64 k 64 x.bits b).map fun (_, l, b) => (b, { x with bits := l, ends := x.ends - 1 })
    if x.ends != 0 then rest x
    else if sc.last < k then some (b, x)
    else
      (t.read x.bits).bind fun (rs, l) =>
        let r := rs / 16
        let n := rs % 16
        if n = 0 && r != 15 then (getHigh r l).bind fun (e, l) => rest { x with bits := l, ends := 2 ^ r + e }
        else if 1 < n then none
        else (receive n l).bind fun (v, l) => (acCorrect sc 64 k r l b).bind fun (k, l, b) =>
          if sc.last < k then none
          else acLater t sc fuel (k + 1) { x with bits := l } (if n = 0 then b else b.setIfInBounds k (v * 2 ^ sc.low))

/-- One block of component `i` of a scan. -/
def Jpeg.block (j : Jpeg) (f : JpegFrame) (sc : JpegScan) (i : Nat) (tables : Nat × Nat) (x : Entropy) (b : DctBlock) :
    Option (DctBlock × Entropy) :=
  let dc := tget [] j.dc tables.1
  let ac := tget [] j.ac tables.2
  if !f.progressive then (dcFirst dc sc i x b).bind fun (b, x) => acFirst ac false sc 64 1 x b
  else if sc.first = 0 then
    if sc.high = 0 then dcFirst dc sc i x b
    else (getHigh 1 x.bits).map fun (c, l) => (b.setIfInBounds 0 (b.getD 0 0 + c * 2 ^ sc.low), { x with bits := l })
  else if sc.high != 0 then acLater ac sc 66 sc.first x b
  else if x.ends != 0 then some (b, { x with ends := x.ends - 1 })
  else acFirst ac true sc 64 sc.first x b

/-! ### Scans -/

/-- The blocks of an MCU of a scan: the component's place in the scan and the block's in its plane. A scan of one component takes the blocks
that its samples lie in; one of more takes each component's blocks of the MCU. -/
def JpegFrame.mcuBlocks (f : JpegFrame) (sc : JpegScan) (m : Nat) : List (Nat × Nat) :=
  match sc.comps with
  | [(c, _)] =>
    let x := f.comps.getD c ⟨0, 1, 1, 0⟩
    let across := ceilDiv (ceilDiv (f.width * x.h) f.hMax) 8
    [(0, m / across * (f.mcusX * x.h) + m % across)]
  | cs => cs.zipIdx.flatMap fun (c, i) =>
    let x := f.comps.getD c.1 ⟨0, 1, 1, 0⟩
    (List.range x.v).flatMap fun v => (List.range x.h).map fun h =>
      (i, (m / f.mcusX * x.v + v) * (f.mcusX * x.h) + m % f.mcusX * x.h + h)

/-- How many MCUs a scan has. -/
def JpegFrame.mcus (f : JpegFrame) (sc : JpegScan) : Nat :=
  match sc.comps with
  | [(c, _)] =>
    let x := f.comps.getD c ⟨0, 1, 1, 0⟩
    ceilDiv (ceilDiv (f.width * x.h) f.hMax) 8 * ceilDiv (ceilDiv (f.height * x.v) f.vMax) 8
  | _ => f.mcusX * f.mcusY

/-- A block read and put into its plane; the band's positions are visited (Table 12-8). -/
def Jpeg.visit (j : Jpeg) (f : JpegFrame) (sc : JpegScan) (x : Entropy) (i place : Nat) : Bool × Jpeg × Entropy :=
  match sc.comps[i]? with
  | none => (false, j, x)
  | some (c, tables) =>
    match j.planes[c]? with
    | none => (false, j, x)
    | some p =>
      let j := { j with work := j.work + (sc.last - sc.first + 1) }
      match j.block f sc i tables x (p.blocks.getD place #[]) with
      | none => (false, j, x)
      | some (b, x) => (true, { j with planes := j.planes.set c { p with blocks := p.blocks.setIfInBounds place b } }, x)

/-- The MCUs [m, m + n) read from one interval's data, to its last bits. -/
def Jpeg.interval (j : Jpeg) (f : JpegFrame) (sc : JpegScan) (m n : Nat) (d : List Byte) : Bool × Jpeg :=
  let start : Bool × Jpeg × Entropy := (true, j, ⟨bitsHigh d, List.replicate sc.comps.length 0, 0⟩)
  let r := ((span m (m + n)).flatMap (f.mcuBlocks sc)).foldl
    (fun (r : Bool × Jpeg × Entropy) b => if r.1 then r.2.1.visit f sc r.2.2 b.1 b.2 else r) start
  (r.1 && r.2.2.ends = 0 && (r.2.2.bits.drop 7).isEmpty, r.2.1)

/-- The intervals of a scan one after another. -/
def Jpeg.intervals (f : JpegFrame) (sc : JpegScan) : Nat → Jpeg → List (List Byte) → Bool × Jpeg
  | _, j, [] => (true, j)
  | m, j, d :: ds =>
    let n := if j.restart = 0 then f.mcus sc else min j.restart (f.mcus sc - m)
    let r := j.interval f sc m n d
    if r.1 then Jpeg.intervals f sc (m + n) r.2 ds else r

/-- The scan that an SOS segment describes. -/
def JpegFrame.scan (f : JpegFrame) (d : List Byte) : Option JpegScan :=
  let n := be8 d 0 1
  let cs := (List.range n).map fun i =>
    (f.comps.findIdx (·.id = be8 d (1 + 2 * i) 1), be8 d (2 + 2 * i) 1 / 16, be8 d (2 + 2 * i) 1 % 16)
  let places := cs.map (·.1)
  let sc : JpegScan := ⟨cs, be8 d (1 + 2 * n) 1, be8 d (2 + 2 * n) 1, be8 d (3 + 2 * n) 1 / 16, be8 d (3 + 2 * n) 1 % 16⟩
  let legal := if f.progressive then
      (if sc.first = 0 then sc.last = 0 else n = 1 && sc.first ≤ sc.last && sc.last ≤ 63) && sc.low ≤ 13 && (sc.high = 0 || sc.high = sc.low + 1)
    else sc.first = 0 && sc.last = 63 && sc.high = 0 && sc.low = 0
  if d.length = 4 + 2 * n && 1 ≤ n && places.all (· < f.comps.length) && (places.zip (places.drop 1)).all (fun p => p.1 < p.2) && legal
  then some sc else none

/-- Whether a scan may come now: an MCU of several components has at most ten blocks, its tables are there, each coefficient of its band is at the bit position that it goes on from, and the DC
coefficient of a component comes before the others. -/
def Jpeg.ready (j : Jpeg) (f : JpegFrame) (sc : JpegScan) : Bool :=
  let blocks := (sc.comps.map fun c => match f.comps[c.1]? with | some x => x.h * x.v | none => 0).foldl (· + ·) 0
  (sc.comps.length = 1 || blocks ≤ 10) && sc.comps.all fun (c, dc, ac) =>
    match j.planes[c]? with
    | none => false
    | some p =>
      let before := if sc.high = 0 then none else some sc.high
      ((p.low.drop sc.first).take (sc.last - sc.first + 1)).all (· = before)
        && (sc.first = 0 || (p.low.headD none).isSome) && dc ≤ (if f.progressive then 3 else 1) && ac ≤ (if f.progressive then 3 else 1)
        && (sc.first != 0 || sc.high != 0 || (j.dc.any (·.1 = dc))) && (sc.last = 0 || (j.ac.any (·.1 = ac)))
        && (p.table.isSome || j.quant.any (·.1 = (f.comps.getD c ⟨0, 1, 1, 0⟩).q))

/-- A scan read: its restart markers count up by one, and there are as many as the restart interval asks. -/
def Jpeg.takeScan (j : Jpeg) (f : JpegFrame) (sc : JpegScan) (ds : List (List Byte)) (ns : List Nat) : Bool × Jpeg :=
  let count := if j.restart = 0 then 1 else ceilDiv (f.mcus sc) j.restart
  if !j.ready f sc || ds.length != count || ns != (List.range ns.length).map (· % 8) then (false, j)
  else
    let r := Jpeg.intervals f sc 0 j ds
    let mark := fun (l : List (Option Nat)) => l.zipIdx.map fun (v, k) => if sc.first ≤ k ∧ k ≤ sc.last then some sc.low else v
    let planes := r.2.planes.zipIdx.map fun (p, c) =>
      if sc.comps.any (·.1 = c) then
        { p with low := mark p.low, table := some (p.table.getD (tget [] j.quant (f.comps.getD c ⟨0, 1, 1, 0⟩).q)) }
      else p
    (r.1, { r.2 with planes })

/-! ### Segments -/

/-- The next marker: 0xFF, once or more, and its code. -/
def nextMarker : List Byte → Option (Nat × List Byte)
  | a :: b :: t => if a.toNat != 0xFF then none else if b.toNat = 0xFF then nextMarker (b :: t) else some (b.toNat, t)
  | _ => none

/-- A segment's body behind its length, and what follows. -/
def segmentOf (p : List Byte) : Option (List Byte × List Byte) :=
  (takeBytes 2 p).bind fun (h, p) => if beNat h < 2 then none else takeBytes (beNat h - 2) p

/-- A segment that is no scan: tables, the restart interval, the frame, and what is passed over (APPn, COM). Any other is outside Table 12-6. -/
def Jpeg.segment (j : Jpeg) (marker : Nat) (d : List Byte) : Option Jpeg :=
  match marker with
  | 0xDB => (quantTables (d.length + 1) d j.quant).map fun t => { j with quant := t }
  | 0xC4 =>
    let most := match j.frame with | some f => if f.progressive then 3 else 1 | none => 3
    (huffmanTables most (d.length + 1) d (j.dc, j.ac)).map fun t => { j with dc := t.1, ac := t.2 }
  | 0xDD => if d.length = 2 then some { j with restart := beNat d } else none
  | 0xC0 | 0xC2 => if j.frame.isSome then none else (jpegFrame marker d).map fun f => { j with frame := some f, planes := f.planes }
  | k => if (0xE0 ≤ k ∧ k ≤ 0xEF) ∨ k = 0xFE then some j else none

/-- Segments up to the frame header (the headers of R315 check 2). -/
def jpegHead : Nat → Jpeg → List Byte → Option JpegFrame
  | 0, _, _ => none
  | fuel + 1, j, p =>
    match j.frame with
    | some f => some f
    | none => (nextMarker p).bind fun (m, p) => (segmentOf p).bind fun (d, p) => (j.segment m d).bind fun j => jpegHead fuel j p

/-- Segments up to the end of the image, which nothing follows; what is left of the payload comes with the result. -/
def jpegRun : Nat → Jpeg → List Byte → Bool × Jpeg × List Byte
  | 0, j, p => (false, j, p)
  | fuel + 1, j, p =>
    match nextMarker p with
    | none => (false, j, p)
    | some (m, rest) =>
      if m = 0xD9 then (rest.isEmpty, j, rest)
      else
        match segmentOf rest with
        | none => (false, j, p)
        | some (d, rest) =>
          if m = 0xDA then
            match j.frame, j.frame.bind (·.scan d) with
            | some f, some sc =>
              let (ds, ns, rest) := splitScan rest [] [] []
              let r := j.takeScan f sc ds ns
              if r.1 then jpegRun fuel r.2 rest else (false, r.2, rest)
            | _, _ => (false, j, rest)
          else
            match j.segment m d with
            | some j => jpegRun fuel j rest
            | none => (false, j, rest)

def Jpeg.start : Jpeg := ⟨none, [], [], [], 0, [], 0⟩

/-- The payload behind the start of the image. -/
def jpegBody (p : List Byte) : Option (List Byte) :=
  match takeBytes 2 p with
  | some ([a, b], l) => if a.toNat = 0xFF && b.toNat = 0xD8 then some l else none
  | _ => none

/-- The frame that a payload's headers give (Table 12-6). -/
def jpegFrameOf (p : List Byte) : Option JpegFrame := (jpegBody p).bind (jpegHead (p.length + 1) Jpeg.start)

/-! ### Samples -/

/-- Row and column of each coefficient in zigzag order: diagonals, up and down in turn. -/
def zigzag : List (Nat × Nat) :=
  (List.range 15).flatMap fun d =>
    let cells := ((List.range 8).filter fun r => r ≤ d && d - r < 8).map fun r => (r, d - r)
    if d % 2 = 0 then cells.reverse else cells

/-- cos(n π / 16) in units of 10^-15. -/
def cosine (n : Nat) : Int :=
  let quarter : List Int := [1000000000000000, 980785280403230, 923879532511287, 831469612302545, 707106781186548, 555570233019602,
    382683432365090, 195090322016128, 0]
  let k := n % 32
  let k := if 16 < k then 32 - k else k
  if k ≤ 8 then quarter.getD k 0 else -(quarter.getD (16 - k) 0)

/-- The factor of a coefficient of frequency `u` at place `x`. -/
def basis (u x : Nat) : Int := if u = 0 then cosine 4 else cosine ((2 * x + 1) * u)

/-- Each basis factor, row by frequency. -/
def basisTable : Array Int := ((List.range 8).flatMap fun u => (List.range 8).map fun x => basis u x).toArray

/-- The samples of a block, row by row: the inverse DCT rounded, free by one either way (R313, log entry 156), shifted by 128 and clamped. -/
def blockSamples (coefs : List Int) : Array Nat :=
  let terms := (coefs.zip zigzag).filter (·.1 != 0)
  let f := fun (u x : Nat) => basisTable.getD (8 * u + x) 0
  ((List.range 8).flatMap fun y => (List.range 8).map fun x =>
    let sum := terms.foldl (fun (a : Int) t => a + t.1 * f t.2.1 y * f t.2.2 x) 0
    let exact : Int := (sum + 2 * 10 ^ 30) / (4 * 10 ^ 30)
    let near : Int := exact + ((Sys2Proof.Config.idct coefs (8 * y + x) % 3 : Nat) : Int) - 1
    (max 0 (min 255 (near + 128))).toNat).toArray

/-- A component's blocks as samples. -/
def JpegPlane.samples (p : JpegPlane) : Array (Array Nat) :=
  let q := p.table.getD []
  p.blocks.map fun b => blockSamples ((b.toList.zip q).map fun c => c.1 * (c.2 : Nat))

/-- Whether every component has come: all of it in a baseline image, its DC coefficients in a progressive one. -/
def Jpeg.whole (j : Jpeg) (f : JpegFrame) : Bool :=
  j.planes.all fun p => if f.progressive then (p.low.headD none).isSome else p.low.all (·.isSome)

/-- A JPEG decoded: components of each pixel, chroma replicated to full size (R313). Its work is the payload bytes read, the coefficient
positions visited by scans, and the output samples (Table 12-8). -/
def jpegDecode (p : List Byte) : Coded (List Nat) :=
  match jpegBody p, jpegFrameOf p with
  | some l, some f =>
    let (ok, j, rest) := jpegRun (p.length + 1) Jpeg.start l
    let read := p.length - rest.length + j.work
    if ok && j.whole f then
      let planes := j.planes.map (·.samples)
      let at_ := fun (c : JpegComp) (s : Array (Array Nat)) (y x : Nat) =>
        let y := y * c.v / f.vMax
        let x := x * c.h / f.hMax
        (s.getD (y / 8 * (f.mcusX * c.h) + x / 8) #[]).getD (y % 8 * 8 + x % 8) 0
      ⟨some ((List.range f.height).flatMap fun y => (List.range f.width).flatMap fun x =>
        (f.comps.zip planes).map fun (c, s) => at_ c s y x), read + f.height * f.width * f.comps.length⟩
    else ⟨none, read⟩
  | _, _ => ⟨none, 0⟩

end Sys2Proof.Machine
end

