-- ==== Sys2Proof/Machine/Png.lean ====
section
/-! DEFINITION. PNG (ISO/IEC 15948) as far as Table 12-6 takes it, with the zlib and deflate formats it rests on (RFC 1950, RFC 1951):
PRESUMED as published (log entry 11). -/

namespace Sys2Proof.Machine

/-! ### Deflate -/

/-- A stream under inflation: what is left of it, the bytes made, latest first, and their number. -/
structure Inflate where
  bits : List Bool
  out : List Byte
  made : Nat

def Inflate.put (x : Inflate) (b : Byte) : Inflate := { x with out := b :: x.out, made := x.made + 1 }

/-- Lengths (symbols 257 on) and distances: where each range begins, and its extra bits. -/
def matchLengths : List (Nat × Nat) :=
  (basesFrom 3 (runsOf [(8, 0), (4, 1), (4, 2), (4, 3), (4, 4), (4, 5)])).take 28 ++ [(258, 0)]
def matchDistances : List (Nat × Nat) := basesFrom 1 ([0, 0] ++ (List.range 14).flatMap fun i => [i, i])

/-- A number of a range and its extra bits. -/
def ranged (ranges : List (Nat × Nat)) (k : Nat) (l : List Bool) : Option (Nat × List Bool) :=
  (ranges[k]?).bind fun r => (getLow r.2 l).map fun p => (r.1 + p.1, p.2)

/-- Symbols up to the end of a block, within a window of `w` bytes; `false` where the stream is bad. -/
def inflateSymbols (w : Nat) (lit dist : Prefix) : Nat → Inflate → Bool × Inflate
  | 0, x => (false, x)
  | fuel + 1, x =>
    match lit.read x.bits with
    | none => (false, x)
    | some (k, l) =>
      let x := { x with bits := l }
      if k < 256 then inflateSymbols w lit dist fuel (x.put (byteOf k))
      else if k = 256 then (true, x)
      else
        match ranged matchLengths (k - 257) l with
        | none => (false, x)
        | some (n, l) =>
          match (dist.read l).bind fun p => ranged matchDistances p.1 p.2 with
          | none => (false, x)
          | some (d, l) =>
            if d ≤ x.made ∧ d ≤ w then inflateSymbols w lit dist fuel ⟨l, copyBack n d x.out, x.made + n⟩ else (false, x)

/-- Whether a code of a dynamic block is legal: every code used, or a single one of one bit. -/
def Prefix.legal (c : Prefix) : Bool :=
  match c.spare with
  | some 0 => true
  | some _ => (c.flatMap id).length ≤ 1 && (c.drop 1).all (·.isEmpty)
  | none => false

/-- The code lengths of a dynamic block, `n` still to come, those read latest first. -/
def codeLengths (c : Prefix) : Nat → Nat → List Nat → List Bool → Option (List Nat × List Bool)
  | 0, _, _, _ => none
  | fuel + 1, n, done, l =>
    if n = 0 then some (done.reverse, l)
    else
      (c.read l).bind fun (k, l) =>
        if k < 16 then codeLengths c fuel (n - 1) (k :: done) l
        else
          let (width, least, v) := match k with | 16 => (2, 3, done.head?) | 17 => (3, 3, some 0) | _ => (7, 11, some 0)
          (getLow width l).bind fun (r, l) =>
            v.bind fun v => if least + r ≤ n then codeLengths c fuel (n - (least + r)) (List.replicate (least + r) v ++ done) l else none

/-- In which order a dynamic block gives the lengths of the code of code lengths. -/
def lengthOrder : List Nat := [16, 17, 18, 0, 8] ++ (List.range 7).flatMap fun i => [7 - i, 9 + i]

/-- The two codes of a dynamic block. -/
def dynamicCodes (l : List Bool) : Option (Prefix × Prefix × List Bool) :=
  (getLow 5 l).bind fun (hlit, l) => (getLow 5 l).bind fun (hdist, l) => (getLow 4 l).bind fun (hclen, l) =>
    (takeBits (3 * (hclen + 4)) l).bind fun (head, l) =>
      let w := (List.range (hclen + 4)).map fun i => numLow ((head.drop (3 * i)).take 3)
      let lens := (List.range 19).map fun k => ((lengthOrder.zip w).find? (·.1 = k)).elim 0 (·.2)
      let c := prefixOf 7 lens
      if 29 < hlit || !c.legal then none
      else
        (codeLengths c 320 (hlit + 257 + hdist + 1) [] l).bind fun (all, l) =>
          let lit := prefixOf 15 (all.take (hlit + 257))
          let dist := prefixOf 15 (all.drop (hlit + 257))
          if lit.legal && dist.legal then some (lit, dist, l) else none

/-- The codes of a fixed block. -/
def fixedLiterals : Prefix := prefixOf 15 (runsOf [(144, 8), (112, 9), (24, 7), (8, 8)])
def fixedDistances : Prefix := prefixOf 15 (List.replicate 30 5)

/-- A stored block: from the next whole byte, a length, its complement and the bytes. -/
def inflateStored (x : Inflate) : Bool × Inflate :=
  match (getLow 16 (x.bits.drop (x.bits.length % 8))).bind fun p => (getLow 16 p.2).map fun q => (p.1, q) with
  | none => (false, x)
  | some (n, m, l) =>
    if n + m != 65535 then (false, x)
    else
      match takeBits (8 * n) l with
      | none => (false, x)
      | some (body, l) =>
        (true, { (List.range n).foldl (fun (x : Inflate) i => x.put (byteOf (numLow ((body.drop (8 * i)).take 8)))) x with bits := l })

/-- Blocks up to the final one. -/
def inflate (w : Nat) : Nat → Inflate → Bool × Inflate
  | 0, x => (false, x)
  | fuel + 1, x =>
    match getLow 3 x.bits with
    | none => (false, x)
    | some (h, l) =>
      let x := { x with bits := l }
      let r := match h / 2 with
        | 0 => inflateStored x
        | 1 => inflateSymbols w fixedLiterals fixedDistances (l.length + 1) x
        | 2 =>
          match dynamicCodes l with
          | some (lit, dist, l) => inflateSymbols w lit dist (l.length + 1) { x with bits := l }
          | none => (false, x)
        | _ => (false, x)
      if r.1 && h % 2 = 0 then inflate w fuel r.2 else r

/-- A zlib stream: its bytes where it is whole, its Adler-32 agrees and nothing follows; the work is the bytes inflated. -/
def zlib (p : List Byte) : Coded (List Byte) :=
  let cmf := be8 p 0 1
  let flg := be8 p 1 1
  if p.length < 6 || cmf % 16 != 8 || 7 < cmf / 16 || (256 * cmf + flg) % 31 != 0 || flg.testBit 5 then ⟨none, 0⟩
  else
    let l := bitsLow (p.drop 2)
    let r := inflate (2 ^ (cmf / 16 + 8)) l.length ⟨l, [], 0⟩
    let left := r.2.bits.length / 8
    let out := r.2.out.reverse
    ⟨if r.1 && left = 4 && beNat (p.drop (p.length - 4)) = adler32 out then some out else none, r.2.made⟩

/-! ### Chunks -/

/-- A chunk: its type, as a number, and its data. -/
abbrev PngChunk := Nat × List Byte

def pngHeaderType : Nat := 0x49484452
def pngPaletteType : Nat := 0x504C5445
def pngDataType : Nat := 0x49444154
def pngEndType : Nat := 0x49454E44
def pngAlphaType : Nat := 0x74524E53

/-- The chunks of a payload behind its signature as far as their lengths and CRCs are right, and the bytes behind them. -/
def pngChunks : Nat → List Byte → List PngChunk × List Byte
  | 0, p => ([], p)
  | fuel + 1, p =>
    match (takeBytes 8 p).bind fun (h, l) => (takeBytes (beNat (h.take 4)) l).bind fun (d, l) => (takeBytes 4 l).map fun (c, l) => (h.drop 4, d, c, l) with
    | none => ([], p)
    | some (t, d, c, l) =>
      if crc32 (t ++ d) != beNat c || 2 ^ 31 ≤ d.length then ([], p)
      else if beNat t = pngEndType then ([(beNat t, d)], l)
      else let r := pngChunks fuel l; ((beNat t, d) :: r.1, r.2)

/-- The payload of a PNG split into chunks; none without its signature. -/
def pngSplit (p : List Byte) : Option (List PngChunk × List Byte) :=
  if p.take 8 = [0x89, 0x50, 0x4E, 0x47, 0x0D, 0x0A, 0x1A, 0x0A] then some (pngChunks p.length (p.drop 8)) else none

/-- What the header chunks give: height, width, depth, colour type, Adam7, and the palette with its alpha. -/
structure PngHead where
  h : Nat
  w : Nat
  depth : Nat
  colour : Nat
  adam7 : Bool
  palette : List (List Nat)
  alpha : Bool

/-- Samples of a pixel in the file, and in the result, where a palette gives 3 or 4 of 8 bits. -/
def PngHead.stored (x : PngHead) : Nat := match x.colour with | 2 => 3 | 4 => 2 | 6 => 4 | _ => 1
def PngHead.channels (x : PngHead) : Nat := if x.colour = 3 then (if x.alpha then 4 else 3) else x.stored
def PngHead.bits (x : PngHead) : Nat := if x.colour = 3 then 8 else x.depth

/-- Whether a depth goes with a colour type. -/
def pngDepthOk (colour depth : Nat) : Bool :=
  match colour with
  | 0 => [1, 2, 4, 8, 16].contains depth
  | 3 => [1, 2, 4, 8].contains depth
  | 2 | 4 | 6 => depth = 8 || depth = 16
  | _ => false

/-- The chunks of a kind. -/
def chunksOf (t : Nat) (l : List PngChunk) : List (List Byte) := (l.filter (·.1 = t)).map (·.2)

/-- The header of a payload: the chunks before the image data, in legal order and within Table 12-6. Ancillary chunks (bit 5 of the first
type byte) are passed over but the alpha of a palette. -/
def pngHead (p : List Byte) : Option PngHead :=
  (pngSplit p).bind fun r =>
    let before := r.1.takeWhile (·.1 != pngDataType)
    let known := before.all fun c => c.1.testBit 29 || c.1 = pngHeaderType || c.1 = pngPaletteType
    let plte := chunksOf pngPaletteType before
    let trns := chunksOf pngAlphaType (before.dropWhile (·.1 != pngPaletteType))
    match before with
    | (t, d) :: rest =>
      let h := be8 d 4 4
      let w := be8 d 0 4
      let depth := be8 d 8 1
      let colour := be8 d 9 1
      let entries := (plte.headD []).length / 3
      let a := trns.headD []
      let entry := fun i => (List.range 3).map (fun k => be8 (plte.headD []) (3 * i + k) 1)
        ++ (if trns.isEmpty then [] else [if i < a.length then be8 a i 1 else 255])
      if before.length < r.1.length && t = pngHeaderType && d.length = 13 && known && (chunksOf pngHeaderType rest).isEmpty
          && 0 < h && h < 2 ^ 31 && 0 < w && w < 2 ^ 31 && pngDepthOk colour depth && be8 d 10 2 = 0 && be8 d 12 1 ≤ 1
          && plte.length ≤ 1 && plte.all (fun c => c.length % 3 = 0 && 3 ≤ c.length && c.length ≤ 768)
          && (colour != 3 || (plte.length = 1 && entries ≤ 2 ^ depth && (chunksOf pngAlphaType before).length = trns.length
              && trns.length ≤ 1 && a.length ≤ entries))
          && ((colour != 0 && colour != 4) || plte.isEmpty)
      then some ⟨h, w, depth, colour, be8 d 12 1 = 1, if colour = 3 then (List.range entries).map entry else [], colour = 3 && !trns.isEmpty⟩
      else none
    | [] => none

/-- The image data of a payload whose chunks end as they must: data in one run, nothing critical and unknown behind it, the end chunk
empty and last. -/
def pngData (r : List PngChunk × List Byte) : Option (List Byte) :=
  let rest := r.1.dropWhile (·.1 != pngDataType)
  let after := rest.dropWhile (·.1 = pngDataType)
  let ends := match after.getLast? with | some (t, d) => t = pngEndType && d.isEmpty | none => false
  if r.2.isEmpty && ends && after.dropLast.all (fun c => c.1.testBit 29) then
    some ((rest.takeWhile (·.1 = pngDataType)).flatMap (·.2)) else none

/-! ### Rows -/

/-- The Paeth predictor of left, above and above left. -/
def paeth (a b c : Int) : Int :=
  let d := fun x => (a + b - c - x).natAbs
  if d a ≤ d b ∧ d a ≤ d c then a else if d b ≤ d c then b else c

/-- A row with its filter undone, `bpp` bytes a pixel. -/
def unfilter (kind bpp : Nat) (above row : List Byte) : List Byte :=
  let ups := above.zip (List.replicate bpp 0 ++ above)
  ((row.zip ups).foldl (fun (done : List Byte) (x, b, c) =>
    let a := done.getD (bpp - 1) 0
    let guess := match kind with
      | 0 => 0
      | 1 => a.toNat
      | 2 => b.toNat
      | 3 => (a.toNat + b.toNat) / 2
      | _ => (paeth a.toNat b.toNat c.toNat).toNat
    byteOf (x.toNat + guess) :: done) []).reverse

/-- `n` rows of `size` bytes, each behind its filter type. -/
def pngRows (bpp size : Nat) : Nat → List Byte → List Byte → Option (List (List Byte) × List Byte)
  | 0, _, l => some ([], l)
  | n + 1, above, l =>
    (takeBytes (size + 1) l).bind fun (r, l) =>
      match r with
      | k :: row =>
        if 4 < k.toNat then none
        else let row := unfilter k.toNat bpp above row; (pngRows bpp size n row l).map fun q => (row :: q.1, q.2)
      | [] => none

/-- Sample `i` of a row at a depth. -/
def pngSample (depth : Nat) (row : List Byte) (i : Nat) : Nat :=
  if depth = 16 then be8 row (2 * i) 2
  else be8 row (depth * i / 8) 1 / 2 ^ (8 - depth - depth * i % 8) % 2 ^ depth

/-- The passes of an image: first row and column, and the steps between rows and columns. -/
def PngHead.passes (x : PngHead) : List (Nat × Nat × Nat × Nat) :=
  if x.adam7 then [(0, 0, 8, 8), (0, 4, 8, 8), (4, 0, 8, 4), (0, 2, 4, 4), (2, 0, 4, 2), (0, 1, 2, 2), (1, 0, 2, 1)] else [(0, 0, 1, 1)]

/-- The passes read one after another, each as rows of samples. -/
def PngHead.readPasses (x : PngHead) : List (Nat × Nat × Nat × Nat) → List Byte → Option (List (Array (Array Nat)) × List Byte)
  | [], l => some ([], l)
  | (y, c, dy, dx) :: ps, l =>
    let h := ceilDiv (x.h - y) dy
    let w := if h = 0 then 0 else ceilDiv (x.w - c) dx
    let n := w * x.stored
    let size := ceilDiv (n * x.depth) 8
    (pngRows (max 1 (x.stored * x.depth / 8)) size (if w = 0 then 0 else h) (List.replicate size 0) l).bind fun (rows, l) =>
      (x.readPasses ps l).map fun q =>
        (((rows.map fun r => ((List.range n).map (pngSample x.depth r)).toArray).toArray) :: q.1, q.2)

/-- The pixel at a row and column: its stored samples, from the pass that holds it. -/
def PngHead.pixel (x : PngHead) (data : List (Array (Array Nat))) (y c : Nat) : List Nat :=
  ((x.passes.zip data).findSome? fun ((y0, c0, dy, dx), rows) =>
    if y0 ≤ y ∧ c0 ≤ c ∧ (y - y0) % dy = 0 ∧ (c - c0) % dx = 0 then
      some ((List.range x.stored).map fun k => (rows.getD ((y - y0) / dy) #[]).getD ((c - c0) / dx * x.stored + k) 0)
    else none).getD []

/-- A PNG decoded; its work is the payload bytes read, the bytes inflated and the output samples (Table 12-8). -/
def pngDecode (p : List Byte) : Coded (List Nat) :=
  match pngHead p, pngSplit p with
  | some x, some r =>
    let read := p.length - r.2.length
    match pngData r with
    | none => ⟨none, read⟩
    | some d =>
      let z := zlib d
      match z.out.bind (x.readPasses x.passes) with
      | some (data, []) =>
        let px := (List.range x.h).flatMap fun y => (List.range x.w).flatMap fun c => x.pixel data y c
        let out := if x.colour = 3 then (if px.all (· < x.palette.length) then some (px.flatMap fun i => x.palette.getD i []) else none)
          else some px
        ⟨out, p.length + z.work + x.h * x.w * x.channels⟩
      | _ => ⟨none, read + z.work⟩
  | _, _ => ⟨none, 0⟩

end Sys2Proof.Machine
end

