-- ==== Sys2Proof/Machine/Restore.lean ====
section
/-! DEFINITION. The step verdict (R166 to R170, R354, R375), restores, takeover and spreading (R376 to R383), and the answers of far
devices, which complete transfers, drains, log entries and fetches (R342). -/

namespace Sys2Proof.Machine

/-! ### A verdict decided (R166 to R169) -/

/-- What follows a step (R169): whether it is skipped, k(t), k(t + 1) and the clean-step count. -/
def Easel.nextVerdict (k : Int) (clean interval : Nat) (skipped : Bool) : Verdict :=
  if skipped then { skipped, k, next := max (k - 1) (-16), clean := 0 }
  else if interval ≤ clean + 1 then { skipped, k, next := min (k + 1) 32, clean := 0 }
  else { skipped, k, next := k, clean := clean + 1 }

/-- The verdict of `t` written into the partner's log entry for `t`, which lies in this easel's own memory at the place that the
partner's window has there (R375; DEDUCED: both windows have the same base, log entry 65). -/
def State.markPartnerLog (s : State) (e t : Nat) (skipped : Bool) : State :=
  let x := s.easel e
  let es := match x.update with | some u => u.entries | none => x.lastEntries
  let base := policy s (0x9040 + e) 2 + 2 * s.imageRoom e es
  let size := 64 + shardBytes es
  if !s.layerOn e 1 then s
  else
    match (List.range (2 * s.every e 1)).find? fun i =>
        match s.readVa e (base + i * size) 8 with | some h => at8 h 0 6 = t | none => false with
    | some i => s.writeVa e (base + i * size + 6) (leBytes 2 (if skipped then 2 else 1))
    | none => s

/-- The records of a verdict (R166, R168, R169), `k` being the step's exponent. -/
def State.verdictRecords (s : State) (e t nonfinite saturated : Nat) (k : Int) : State :=
  let unit := s.sequencer e
  let s := if nonfinite != 0 then s.report 0x0801 e 0x03 unit t nonfinite else s
  let s := if nonfinite != 0 && k = -16 then s.report 0x0811 e 0x03 unit t nonfinite else s
  let alarm := policy s (0x8040 + e) 5
  if alarm != 0 && decide (alarm < saturated) then s.report 0x0802 e 0x03 unit t saturated else s

/-- A step is kept or skipped by its totals (R166), with the records of R166, R168 and R169. -/
def State.decideStep (s : State) (e t nonfinite saturated : Nat) : State :=
  let x := s.easel e
  let skipped := nonfinite != 0
  let v := Easel.nextVerdict x.lossExp x.clean (policy s (0x8040 + e) 3) skipped
  let s := s.setEasel e { x with
    verdicts := tset x.verdicts t v, lossNext := some v.next, clean := v.clean, verdictStep := t, verdictSkipped := skipped,
    skippedSteps := x.skippedSteps + skipped.toNat, counts := x.counts.filter (·.step != t) }
  (s.markPartnerLog e t skipped).verdictRecords e t nonfinite saturated x.lossExp

/-! ### Images read back (R370, R376) -/

def imStep (b : List Byte) : Nat := at8 b 8 6
def imEntryCount (b : List Byte) : Nat := at8 b 64 4
def imPayload (b : List Byte) : Nat := at8 b 72 8
def imSelect (b : List Byte) : Nat := fld (at8 b 7 1) 0 1

/-- Whether 128 bytes are the header of an image: magic, version, reserved fields and CRC (Table 14-5). -/
def checkpointOk (b : List Byte) : Bool :=
  decide (128 ≤ b.length) && at8 b 0 4 = 0x4E525651 && at8 b 4 2 = 0x0100 && decide (at8 b 7 1 < 2) && rsv b 14 2 && rsv b 45 3
    && rsv b 55 1 && rsv b 112 12 && at8 b 124 4 = crc32c (b.take 124)

/-- Whether an image is one that this easel may restore (R376 order 1): its header, the loaded canvas (not asked of a spreading, whose
image is another member's), the seed and the digest. -/
def State.imageFits (s : State) (e kind : Nat) (b : List Byte) : Bool :=
  checkpointOk b && (kind = 2 || (match (s.easel e).canvas with | some c => c.id = at8 b 16 8 | none => false))
    && at8 b 24 8 = policy s (0x3000 + e) 4 && b.length = 128 + imPayload b && at8 b 54 1 = 0
    && (b.drop 80).take 32 = shake256 (b.drop 128)

/-- The entries of a payload with their state records and planes, and the bytes behind them; `none` where it is too short. -/
def splitEntries : Nat → List Byte → List (List Byte × List (List Byte)) → Option (List (List Byte × List (List Byte)) × List Byte)
  | 0, b, acc => some (acc, b)
  | n + 1, b, acc =>
    let g := bytesAt b 0 128
    let sizes := 32 :: (gPlanes g).dropLast.map (·.2)
    let total := (sizes.map fun z => roundUp z 64).foldl (· + ·) 0
    if b.length < 128 + total || gOpt g = 0 || decide (3 < gOpt g) then none
    else
      let cut := sizes.foldl (fun (acc : List (List Byte) × List Byte) z => (acc.1 ++ [acc.2.take z], acc.2.drop (roundUp z 64))) ([], b.drop 128)
      splitEntries n cut.2 (acc ++ [(g, cut.1)])

/-- The extra extents behind the entries: address and bytes. -/
def splitExtents : Nat → List Byte → Option (List (Nat × List Byte))
  | 0, _ => some []
  | n + 1, b =>
    let z := at8 b 8 8
    if b.length < 64 + z then none
    else (splitExtents n (b.drop (64 + roundUp z 64))).map fun t => (at8 b 0 8, (b.drop 64).take z) :: t

/-- An image taken apart. -/
def splitImage (b : List Byte) : Option (List (List Byte × List (List Byte)) × List (Nat × List Byte)) :=
  match splitEntries (min (imEntryCount b) b.length) (b.drop 128) [] with
  | some (es, rest) => (splitExtents (min (at8 b 68 4) 64) rest).map fun x => (es, x)
  | none => none

/-- A state record and planes of an entry written to a varnish buffer. -/
def State.putEntry (s : State) (e : Nat) (g : List Byte) (planes : List (List Byte)) (buffer : Nat) : State :=
  ((imageRegions g buffer).zip planes).foldl (fun s p => s.writeVa e p.1.1 p.2) s

/-! ### The replay (R376 order 3) -/

/-- L of a list of entries and where each shard begins in a log payload. -/
def shardOffset (es : List (List Byte)) (i : Nat) : Nat := shardBytes (es.take i)

def leVerdict (l : List Byte) : Nat := fld (at8 l 6 1) 0 2
def leStep (l : List Byte) : Nat := at8 l 0 6

/-- Whether the bytes at a log position are a whole entry for `t`: step, reserved fields (R5), payload length 0 or `n`, CRC. -/
def logOk (t n : Nat) (l : List Byte) : Bool :=
  leStep l = t && fld (at8 l 6 2) 2 14 = 0 && rsv l 36 4 && rsv l 45 3 && rsv l 52 4 && (at8 l 24 8 = 0 || at8 l 24 8 = n)
    && at8 l 32 4 = crc32c (l.take 6 ++ [0, 0] ++ (l.drop 8).take 24 ++ (l.drop 64).take (at8 l 24 8))

/-- The entries that follow step `t` in rotation with consecutive steps; `fuel` is their number in the log. -/
def chainLog (all : List (List Byte)) (n : Nat) : Nat → Nat → Nat → List (List Byte)
  | 0, _, _ => []
  | fuel + 1, pos, t =>
    match all[pos % max all.length 1]? with
    | some l => if logOk t n l then l :: chainLog all n fuel (pos + 1) (t + 1) else []
    | none => []

/-- The log entries after step `t`. -/
def logAfter (all : List (List Byte)) (n t : Nat) : List (List Byte) :=
  match findAt (fun l => logOk (t + 1) n l) all 0 with
  | some (i, _) => chainLog all n all.length i (t + 1)
  | none => []

/-- Element (failed entry, target entry, first, count) of a spreading: the failed entry's numbers at the target entry's addresses. -/
def spreadEntry (failed target : List Byte) (count : Nat) : List Byte :=
  (failed.take 8) ++ leBytes 4 count ++ (failed.drop 12).take 4 ++ (target.drop 16).take 48 ++ (failed.drop 64).take 8
    ++ (target.drop 72).take 8 ++ (failed.drop 80).take 48

/-- The buffer a replay wrote copied over the one it read, for the elements of a spreading. -/
def State.mirror (s : State) (e : Nat) (g : List Byte) (buffer : Nat) : State :=
  ((imageRegions g buffer).zip (imageRegions g (1 - buffer))).foldl (fun s p =>
    s.writeVa e p.2.1 ((s.readVa e p.1.1 p.1.2).getD [])) s

/-- One kept step replayed under R363 with the entry's k and lr scale: every entry of the image, or the elements of a spreading. -/
def State.replayStep (s : State) (e : Nat) (r : Restore) (l : List Byte) : State :=
  let x := s.easel e
  let pay := l.drop 64
  let es := ((splitImage r.image).map fun i => i.1.map (·.1)).getD []
  let w : Pass := { t := leStep l, k := toSigned 32 (at8 l 8 4), lrScale := of32 (at8 l 12 4),
                    seed := policy s (0x3000 + e) 4, select := x.select }
  if r.kind = 2 then
    let target := (s.glazeTable e x.lastBlock).getD []
    r.elements.foldl (fun (s : State) q =>
      match es[q.1]?, target[q.2.1]? with
      | some f, some g =>
        let g := spreadEntry f g q.2.2.2
        let rec1 := bytesAt ((s.readVa e (planeAt g 4 w.select) 32).getD []) 0 32
        let nr := nextRecord g rec1 w.t
        let z := ((List.range q.2.2.2).foldl (fun (acc : PassAcc) j =>
          acc.element e g w (of32 (at8 nr 8 4)) (of32 (at8 nr 12 4)) false
            (at8 pay (shardOffset es q.1 + 4 * (q.2.2.1 + j)) 4, false) (q.2.2.1 + j) j)
          { s := s.freshPlanes e g (1 - w.select), skips := 0, copies := [] }).land e g
        (z.s.writeVa e (planeAt g 4 (1 - w.select)) nr).mirror e g (1 - w.select)
      | _, _ => s) s
  else
    let z := es.zipIdx.foldl (fun (acc : PassAcc) g =>
      acc.entry e g.1 w fun i => (at8 pay (shardOffset es g.2 + 4 * i) 4, false)) { s, skips := 0, copies := [] }
    z.s.onEasel e fun x => { x with select := 1 - x.select, lastApplied := leStep l }

/-- The fields of the update block that a log entry or an image holds, in the block's layout, for the headers that follow. -/
def blockFrom (old : List Byte) (ordinal skip stream advisory : Nat) : List Byte :=
  bytesAt old 0 24 ++ leBytes 5 ordinal ++ leBytes 3 0 ++ leBytes 4 skip ++ leBytes 2 stream ++ leBytes 2 0 ++ leBytes 8 advisory
    ++ List.replicate 16 0

/-- A replayed step's data position taken over (R376 order 4). -/
def Easel.takeLog (x : Easel) (l : List Byte) (v : Verdict) : Easel :=
  { x with lastBlock := blockFrom x.lastBlock (at8 l 40 5) (at8 l 48 4) (at8 x.lastBlock 36 2) (at8 l 56 8),
           lossExp := v.next, clean := v.clean }

/-! ### The end of a restore (R376 orders 4 and 5, R377, R378, R383) -/

/-- A Curator record of a sequence. -/
def State.sequenceRecord (s : State) (code e a b : Nat) : State := s.report code e 0x0A 0 a b

/-- RESTORE_REJECTED at step `n` of the list. -/
def State.restoreRejected (s : State) (e n : Nat) : State :=
  (s.onEasel e fun x => { x with restore := none }).sequenceRecord 0x090A e 0 n

/-- k, the clean-step count and the data position are in force; STREAM_SKEW, then the record that ends the sequence. -/
def State.finishRestore (s : State) (e : Nat) (r : Restore) : State :=
  let s := s.onEasel e fun x => { x with
    restore := none, openStep := 0, closedStep := 0, lossNext := none, lossFresh := false,
    verdicts := if x.lastApplied = 0 then [] else [(x.lastApplied, { skipped := false, k := r.k, next := x.lossExp, clean := x.clean })],
    nextDue := if r.kind = 2 then x.nextDue.set 0 0 else x.nextDue }
  let x := s.easel e
  let ordinal := at8 x.lastBlock 24 5
  let advisory := at8 x.lastBlock 40 8
  let stream := at8 x.lastBlock 36 2
  if r.kind = 2 then s.sequenceRecord 0x0908 e 0 0
  else
    let s := { s with primer := { s.primer with nextOrdinal := tset s.primer.nextOrdinal e ordinal,
                                                nextSkip := tset s.primer.nextSkip e (0, at8 x.lastBlock 32 4) } }
    let skew := advisory != 2 * ordinal
    let s := if skew then s.sequenceRecord 0x0905 e (ofSigned 64 ((advisory : Int) - (2 * ordinal : Nat))) stream else s
    let s := if r.kind = 1 then s.sequenceRecord 0x0907 e 0 0 else s.sequenceRecord 0x0909 e x.lastApplied 0
    if skew && policy s (0x9040 + e) 0xA = 1 then s.fault e else s

/-- A verdict that a restore decides (R376 order 3): counted and reported as any other (R166). -/
def State.restoredStep (s : State) (e t nonfinite saturated : Nat) (k : Int) : State :=
  (s.onEasel e fun x => { x with
    verdictStep := t, verdictSkipped := nonfinite != 0, skippedSteps := x.skippedSteps + (nonfinite != 0).toNat }).verdictRecords e t nonfinite
    saturated k

/-- The log entries of a restore replayed in order, as far as their verdicts are known; an undecided one sends its word as this
device's own and waits for the total. A spreading stops at the step the survivor has applied (R383, log entry 66). -/
def replayLog (e : Nat) : List (List Byte) → Restore → State → State
  | [], r, s => s.finishRestore e r
  | l :: rest, r, s =>
    let interval := policy s (0x8040 + e) 3
    let mine := r.kind = 2 && decide (leStep l ≤ (s.easel e).lastApplied)
    let verdict := if mine && leVerdict l = 0 then 1 else leVerdict l
    if r.kind = 2 && !mine then s.finishRestore e r
    else if verdict = 1 then
      let v := Easel.nextVerdict r.k r.clean interval false
      let s := (s.replayStep e r l).onEasel e fun x =>
        if r.kind = 2 then { x with lossExp := v.next, clean := v.clean } else x.takeLog l v
      replayLog e rest { r with k := v.next, clean := v.clean } s
    else if verdict = 2 then
      let v := Easel.nextVerdict r.k r.clean interval true
      replayLog e rest { r with k := v.next, clean := v.clean } s
    else
      match s.groupChannel e with
      | some g =>
        let s := s.onEasel e fun x => { x with restore := some { r with phase := 3, log := l :: rest } }
        match s.sendWord g (leStep l) (at8 l 16 8) with
        | some s => s.onEasel e fun x => { x with wordSent := leStep l }
        | none => s
      | none =>
        let skipped := at8 l 16 4 != 0
        let v := Easel.nextVerdict r.k r.clean interval skipped
        let s := s.restoredStep e (leStep l) (at8 l 16 4) (at8 l 20 4) r.k
        let s := if skipped then s else (s.replayStep e r l).onEasel e fun x => x.takeLog l v
        replayLog e rest { r with k := v.next, clean := v.clean } s

/-- The regions an image writes, all held (R376 order 2). -/
def State.imageMapped (s : State) (e : Nat) (es : List (List Byte × List (List Byte))) (xs : List (Nat × List Byte)) : Bool :=
  es.all (fun g => (gPlanes g.1).all fun p => s.mapped e p.1 p.2 && s.mapped e (p.1 + gVarnish g.1) p.2)
    && xs.all fun x => s.mapped e x.1 x.2.length

/-- The elements of a spreading copied from the failed member's image to both buffers of the targets. -/
def State.putElements (s : State) (e : Nat) (es : List (List Byte × List (List Byte))) (q : Nat × Nat × Nat × Nat) : State :=
  match es[q.1]?, ((s.glazeTable e (s.easel e).lastBlock).getD [])[q.2.1]? with
  | some f, some t =>
    let g := spreadEntry f.1 t q.2.2.2
    let width := fun (i : Nat) => [32, 4, 2, gMoment g, gMoment g].getD i 0
    let part := f.2.zipIdx.map fun p =>
      if p.2 = 0 then p.1 else (p.1.drop (width p.2 * q.2.2.1)).take (width p.2 * q.2.2.2)
    (s.putEntry e g part 0).putEntry e g part 1
  | _, _ => s

/-- An image written into both varnish buffers, and the log replayed over it (R376 orders 2 to 5). -/
def State.applyImage (s : State) (e : Nat) (r : Restore) : State :=
  match splitImage r.image with
  | none => s.restoreRejected e 1
  | some (es, xs) =>
    let k := toSigned 32 (at8 r.image 32 4)
    let clean := at8 r.image 36 4
    let r := { r with k, clean }
    if r.kind = 2 then
      let s := r.elements.foldl (fun s q => s.putElements e es q) s
      replayLog e r.log r (s.onEasel e fun x => { x with lossExp := k, clean := clean })
    else if !s.imageMapped e es xs then s.restoreRejected e 2
    else
      let s := es.foldl (fun s g => (s.putEntry e g.1 g.2 0).putEntry e g.1 g.2 1) s
      let s := xs.foldl (fun s x => s.writeVa e x.1 x.2) s
      let b := r.image
      let s := s.onEasel e fun x => { x with
        select := imSelect b, lastApplied := imStep b, lastEntries := es.map (·.1), lossExp := k, clean := clean,
        lastBlock := blockFrom x.lastBlock (at8 b 40 5) (at8 b 48 4) (at8 b 52 2) (at8 b 56 8) }
      replayLog e r.log r s

/-! ### What a restore fetches -/

/-- Bytes [off, off + n) of the window fetched in reads of at most 512 B; without a port the restore is rejected. -/
def State.fetchFar (s : State) (e : Nat) (r : Restore) (off n : Nat) : State :=
  match s.ownPort r.channel with
  | none => s.restoreRejected e 1
  | some _ =>
    let s := s.onEasel e fun x => { x with restore := some { r with want := n, parts := [], bad := [] } }
    (List.range (ceilDiv n 512)).foldl (fun (s : State) i =>
      match s.ownPort r.channel with
      | some p =>
        s.requestOn p e 2 r.channel r.position (r.base + off + 512 * i) (roundUp (min 512 (n - 512 * i)) 64) [] false none none none none
          (some (512 * i))
      | none => s) s

/-- The image a restore takes of those at hand: the one of the named step, or the newest. -/
def State.chooseImage (s : State) (e : Nat) (r : Restore) (l : List (List Byte)) : Option (List Byte) :=
  (l.filter fun b => s.imageFits e r.kind b && (r.step = 0 || imStep b = r.step)).foldl (fun (best : Option (List Byte)) b =>
    match best with | some c => if imStep c < imStep b then some b else some c | none => some b) none

/-- The length of an image slot whose header is `b` (R371). -/
def slotRoom (b : List Byte) : Nat := roundUp (128 + imPayload b) pageBytes

/-- Where the second slot's header is looked for when the first cannot tell the slots' length: at that of the easel's latest update, else
at each multiple of 2 MiB in turn, as far as its own pages could fill an image (DEDUCED, log entry 148). -/
def State.nextRoom (s : State) (e z : Nat) : Option Nat :=
  let es := (s.easel e).lastEntries
  if es.isEmpty then
    let z := z + pageBytes
    if z ≤ (s.unitCount e 2 + s.unitCount e 3) * pageBytes then some z else none
  else if z = 0 then some (s.imageRoom e es) else none

/-- The header at the next place of that search fetched, or the restore rejected. -/
def State.searchSlot (s : State) (e : Nat) (r : Restore) : State :=
  match s.nextRoom e r.room with
  | some z => s.fetchFar e { r with phase := 4, room := z } z 128
  | none => s.restoreRejected e 1

/-- Whether a poisoned piece of a fetch lies in [a, a + n). -/
def Restore.badIn (r : Restore) (a n : Nat) : Bool := r.bad.any fun o => decide (o < a + n) && decide (a < o + 512)

/-- A restore goes on with what it fetched. -/
def State.restoreNext (s : State) (e : Nat) (r : Restore) (bs : List Byte) : State :=
  match r.phase with
  | 0 =>
    if r.bad.isEmpty && checkpointOk bs then
      let z := slotRoom bs
      if r.layer = 1 then s.fetchFar e { r with phase := 1, room := z } 0 (2 * z) else s.fetchFar e { r with phase := 1, room := z } 0 (128 + imPayload bs)
    else if r.layer = 1 then s.searchSlot e { r with room := 0 }
    else s.restoreRejected e 1
  | 4 =>
    if r.bad.isEmpty && checkpointOk bs && slotRoom bs = r.room then s.fetchFar e { r with phase := 1 } 0 (2 * r.room) else s.searchSlot e r
  | 1 =>
    -- a poisoned piece spoils the slot that it lies in
    let slot := fun (a : Nat) =>
      let b := (bs.drop a).take (128 + imPayload (bs.drop a))
      if r.badIn a b.length then [] else [b]
    match s.chooseImage e r (slot 0 ++ if r.layer = 1 then slot r.room else []) with
    | none => s.restoreRejected e 1
    | some b =>
      let r := { r with image := b, phase := 2 }
      let es := ((splitImage b).map fun i => i.1.map (·.1)).getD []
      let n := 2 * s.every e 1 * (64 + shardBytes es)
      if r.layer = 1 && n != 0 then s.fetchFar e r (2 * r.room) n else s.applyImage e r
  | _ =>
    let es := ((splitImage r.image).map fun i => i.1.map (·.1)).getD []
    let size := 64 + shardBytes es
    -- an entry with a poisoned piece breaks the sequence
    let all := (List.range (bs.length / size)).map fun i => if r.badIn (size * i) size then [] else (bs.drop (size * i)).take size
    s.applyImage e { r with log := logAfter all (shardBytes es) (imStep r.image) }

/-- A piece of a fetch has come; the last one lets the restore go on. -/
def State.fetched (s : State) (e off : Nat) (bs : List Byte) (bad : Bool) : State :=
  match (s.easel e).restore with
  | none => s
  | some r =>
    let r := { r with parts := tset r.parts off bs, bad := if bad then off :: r.bad else r.bad }
    if s.fabric.remotes.any fun q => q.easel = e && q.fetch.isSome then s.onEasel e fun x => { x with restore := some r }
    else s.restoreNext e { r with parts := [] } ((r.parts.flatMap (·.2)).take r.want)

/-! ### RESTORE_EXECUTE (R376) -/

/-- Whether a sequence of R376, R378 or R383 may begin: a BOUND easel with a loaded canvas and no command. -/
def State.restorable (s : State) (e : Nat) : Nat :=
  let x := s.easel e
  if x.restore.isSome then 0x09
  else if !s.vbusUp || x.mode != .bound || x.canvas.isNone || !x.cmds.isEmpty then 0x0A
  else 0

/-- A CMD entry of Table 14-8, `sub`, and what it starts. -/
def State.resilienceCommand (s : State) (c : Instr) (m : Msg) (sub : Nat) (go : State → Nat → State) : State :=
  let e := mIndex m - 0x9040
  if mOp m = 2 && decide (0x9040 ≤ mIndex m) && decide (e < 64) && mSub m = sub then
    s.atCurator c m fun s => s.command m (fun s _ => s.restorable e) (fun s _ => s) (fun s _ => go s e)
  else s

/-- The restore a record asks for, before anything is read. -/
def newRestore (kind layer slot position channel base step : Nat) : Restore :=
  { kind, layer, slot, position, channel, base, step, phase := 0, room := 0, want := 0, parts := [], bad := [], image := [], log := [],
    k := 0, clean := 0, elements := [] }

/-- The length of the flash slots (R371), read from the named slot itself: the least at whose multiple a header stands that gives it. -/
def State.flashRoom (s : State) (e slot : Nat) : Nat :=
  let h := fun (z : Nat) => (s.readSpace e 4 (slot * z) 128).getD []
  let n := s.flashBytes e / pageBytes / max slot 1
  (((List.range n).map fun i => (i + 1) * pageBytes).find? fun z => checkpointOk (h z) && slotRoom (h z) = z).getD 0

/-- A restore from the flash slot its record names. -/
def State.restoreFlash (s : State) (e : Nat) (r : Restore) : State :=
  let rd := fun (a n : Nat) => (s.readSpace e 4 a n).getD []
  let z := s.flashRoom e r.slot
  let b := rd (r.slot * z) 128
  let img := rd (r.slot * z) (128 + imPayload b)
  if z = 0 || !checkpointOk b || s.poisonedSpace e 4 (r.slot * z) (128 + imPayload b) then s.restoreRejected e 1
  else
    match s.chooseImage e r [img] with
    | some b => s.applyImage e { r with image := b }
    | none => s.restoreRejected e 1

/-- The record of a restore checked and the image's reading begun. -/
def State.beginRestore (s : State) (e : Nat) : State :=
  let b := written s.dict (0x9040 + e) 0x10
  let layer := at8 b 0 1
  if b.length != 24 || !rsv b 2 2 || decide (2 ^ 48 ≤ at8 b 8 8) || layer = 0 || decide (3 < layer) then s.restoreRejected e 1
  else
    let r := newRestore 0 layer (at8 b 1 1) (at8 b 4 4) ((s.drainChannel e).getD 16) (at8 b 16 8) (at8 b 8 8)
    if layer = 2 then s.restoreFlash e r else s.fetchFar e r 0 128

/-- RESTORE_EXECUTE. -/
def execRestoreExecute (m : Msg) (s : State) : Host.Outcome State Fault Refusal :=
  .next (s.resilienceCommand (.restoreExecute m) m 0x11 fun s e => s.beginRestore e)

/-! ### TAKEOVER_EXECUTE (R378) -/

/-- Check 10 of the reduction entries of a loaded canvas (R349). -/
def State.reductionsOk (s : State) (e : Nat) : Bool :=
  match (s.easel e).canvas with
  | some cv => cv.sheets.all fun d => d.reds.all fun r => s.redPlanOk cv d r || s.compat e
  | none => false

/-- The takeover record checked, the rank taken and check 10 run again, the position adopted, and the restore begun. -/
def State.beginTakeover (s : State) (e : Nat) : State :=
  let b := written s.dict (0x9040 + e) 0x12
  let v := at8 b 6 1
  let rank := at8 b 4 2
  let s' := s.commitValue (0x6110 + v) 2 false (leBytes 2 rank)
  let canvas := match (s.easel e).canvas with | some c => c.id = at8 b 8 8 | none => false
  if b.length != 32 || !rsv b 7 1 || !rsv b 20 4 || decide (2 ^ 20 - 1 ≤ at8 b 0 4) || !canvas || decide (16 ≤ v) || !s.holds e 7 v
      || decide ((s.group v).1 ≤ rank) || !s'.reductionsOk e then s.restoreRejected e 1
  else
    let old := s.position
    let s := (s'.adoptPosition (at8 b 0 4)).sequenceRecord 0x0906 e old (at8 b 0 4)
    s.fetchFar e (newRestore 1 1 0 (at8 b 16 4) v (at8 b 24 8) 0) 0 128

/-- TAKEOVER_EXECUTE. -/
def execTakeoverExecute (m : Msg) (s : State) : Host.Outcome State Fault Refusal :=
  .next (s.resilienceCommand (.takeoverExecute m) m 0x13 fun s e => s.beginTakeover e)

/-! ### SPREAD_EXECUTE (R383) -/

/-- The spread table of a record; `none` where it is not held. -/
def State.spreadTable (s : State) (e : Nat) (b : List Byte) : Option (List (Nat × Nat × Nat × Nat)) :=
  (s.readVa e (at8 b 48 8) (32 * at8 b 40 4)).map fun t => (List.range (at8 b 40 4)).map fun i =>
    (at8 t (32 * i) 4, at8 t (32 * i + 4) 4, at8 t (32 * i + 8) 8, at8 t (32 * i + 16) 8)

/-- What the loader finds wrong with an image in easel memory: a record of it, or the canvas. -/
def State.loadAt (s : State) (e a n : Nat) (verified : Bool) : (Nat × Nat × Locus) ⊕ Canvas :=
  let b := (s.readVa e a n).getD []
  match (if s.poisonedVa e a n then some (headLocus 0) else checkHead b n (s.compat e)) with
  | some l => .inl (0x0201, 1, l)
  | none =>
    match checkSignature b with
    | some l => .inl (0x0201, 2, l)
    | none =>
      if !s.signatureOk b verified then .inl (0x0A01, 2, headLocus (imSigOff b))
      else match s.checkImage e b with
        | some r => .inl r
        | none => .inr (imCanvas b)

/-- Orders 2 and 3 of Table 14-9: the group's channel leaves the easel and comes back under the new epoch and spread rank. -/
def State.rebindChannel (s : State) (e v epoch f : Nat) : State :=
  let place := match s.bind.table.find? (fun x => x.cls = 7 && decide (x.first ≤ v) && decide (v < x.first + x.count)) with
    | some x => x.place | none => 0
  let s := (s.unloadCanvas e).releaseRuns e [(7, v, 1)] false
  let s := (s.commitValue (0x6110 + v) 3 false (leBytes 2 epoch)).commitValue (0x6110 + v) 9 false (leBytes 2 f)
  { s with bind := { s.bind with table := insertExtent s.bind.table ⟨7, v, 1, place, e⟩ } }

/-- The sequence of Table 14-9: record checked, channel bound anew, degraded canvas loaded, and the spread elements' restore begun. -/
def State.beginSpread (s : State) (e : Nat) (verified : Bool) : State :=
  let b := written s.dict (0x9040 + e) 0x14
  let f := at8 b 0 2
  let v := at8 b 4 1
  let g := s.group v
  if b.length != 56 || !rsv b 5 3 || !rsv b 28 4 || !rsv b 44 4 || decide (16 ≤ v) || !s.holds e 7 v || decide (g.1 ≤ f) || f = g.2
      || !s.mapped e (at8 b 8 8) (at8 b 16 8) || (s.spreadTable e b).isNone then s.restoreRejected e 1
  else
    let s := s.rebindChannel e v (at8 b 2 2) f
    match s.loadAt e (at8 b 8 8) (at8 b 16 8) verified with
    | .inl (code, n, l) =>
      let s := if code = 0x0A01 then s.authFail e (s.easel e).lastSeq l.1 4
        else s.report code e 0x02 e l.1 (n + l.2.1 * 256 + l.2.2 * 65536)
      s.restoreRejected e 4
    | .inr cv =>
      let (i, s) := s.fresh
      let s := (s.setEasel e ((s.easel e).commit cv (s.units e 1))).installSheet e
      let s := s.report 0x0211 e 0x02 e cv.id (Sys2Proof.Config.freeNat i % 2 ^ 32)
      let r := { newRestore 2 1 0 (at8 b 24 4) v (at8 b 32 8) 0 with elements := (s.spreadTable e b).getD [] }
      s.fetchFar e r 0 128

/-- SPREAD_EXECUTE: `verified` is the verdict on the degraded image's signature. -/
def execSpreadExecute (m : Msg) (verified : Bool) (s : State) : Host.Outcome State Fault Refusal :=
  .next (s.resilienceCommand (.spreadExecute m verified) m 0x15 fun s e => s.beginSpread e verified)

/-! ### STEP_VERDICT (R166, R354) -/

/-- The total that a restore waits for: the step is replayed where it is kept (R376 order 3). -/
def State.restoreVerdict (s : State) (e : Nat) (r : Restore) (t nonfinite saturated : Nat) : State :=
  match r.log with
  | l :: rest =>
    if leStep l != t then s
    else
      let v := Easel.nextVerdict r.k r.clean (policy s (0x8040 + e) 3) (nonfinite != 0)
      let s := s.restoredStep e t nonfinite saturated r.k
      let s := if nonfinite != 0 then s else (s.replayStep e r l).onEasel e fun x => x.takeLog l v
      replayLog e rest { r with k := v.next, clean := v.clean, phase := 2 } s
  | [] => s

/-- A total of the group's switch on channel 16 that has come for an easel: its place among the arrivals. -/
def State.totalFor (s : State) (v : Nat) : Option (Nat × Arrival) :=
  findAt (fun (a : Arrival) => a.packet.type = 7 && a.packet.channel = 16 && a.packet.a / 2 ^ 60 = v) s.fabric.received 0

/-- STEP_VERDICT: the group's total for the step whose word was sent, or in no group the device's own word for the step whose last
command has completed. A total for any other step is discarded and counted. -/
def execStepVerdict (e : Nat) (s : State) : Host.Outcome State Fault Refusal :=
  let x := s.easel e
  match s.groupChannel e with
  | none =>
    let t := x.lastDone
    if !s.works e || t = 0 || x.decided t || t != x.closedStep then .next s
    else .next (s.decideStep e t (x.word t % 2 ^ 32) (x.word t / 2 ^ 32))
  | some v =>
    match s.totalFor v with
    | none => .next s
    | some (k, a) =>
      let t := a.packet.b
      let nonfinite := at8 a.packet.payload 0 4
      match x.restore with
      | some r =>
        if r.phase = 3 && s.works e && (match r.log with | l :: _ => leStep l = t | [] => false) then
          .next ((s.handled k a).restoreVerdict e r t nonfinite (at8 a.packet.payload 4 4))
        else .next (s.discard k a 5)
      | none =>
        if s.works e && t != 0 && x.wordSent = t && !x.decided t then
          .next ((s.handled k a).decideStep e t nonfinite (at8 a.packet.payload 4 4))
        else .next (s.discard k a 5)

/-! ### FABRIC_RESPONSE (R342, R371) -/

/-- A transfer to or from a far device is done: its bytes have landed (R264). -/
def State.xferAcked (s : State) (x : Nat) (bs : List Byte) : State :=
  match s.xfer x with
  | some f =>
    let tags := match f.move with | .remoteWrite (some a) _ _ _ _ _ => s.tagsAt a bs.length | _ => []
    let s := match s.xferCtx f with
      | some c => s.account c bs.length (some (healthOf c.b.type bs tags))
      | none => s
    s.dropXfer x
  | none => s

/-- What an answered read brings lands at its destination, with the poison mark where it is poisoned. -/
def State.landRead (s : State) (x dst : Nat) (bs : List Byte) (bad : Bool) : State := (s.landBytes dst bs bad).xferAcked x bs

/-- FABRIC_RESPONSE (R342). -/
def execFabricResponse (k : Nat) (s : State) : Host.Outcome State Fault Refusal :=
  match s.arrival k 3 with
  | none => .next s
  | some a =>
    let q := a.packet
    match s.reach q with
    | .none => .next (s.discard k a 5)
    | .epoch => .next (s.discard k a 4)
    | _ =>
      match s.remote q.b with
      | none => .next (s.discard k a 5)
      | some r =>
        let s' := s.handled k a
        if q.a != 0 && q.a != 2 then .next ((s'.dropRemote q.b).remoteFails r 0x0706 q.a)
        else
          match r.xfer.bind s.xfer with
          | some x =>
            match x.move with
            | .remoteRead _ dst n _ _ =>
              if q.payload.length != n then .next (s.discard k a 5)
              else .next ((s'.dropRemote q.b).landRead x.id dst q.payload (q.a = 2 || q.poisoned))
            | .remoteCopy src dst n position channel none =>
              if q.payload.length != n then .next (s.discard k a 5)
              else
                let got := some (q.payload, q.a = 2 || q.poisoned)
                .next ((s'.dropRemote q.b).onXfer x.id fun (z : Xfer) =>
                  { z with move := .remoteCopy src dst n position channel got, sent := none })
            | _ => .next ((s'.dropRemote q.b).xferAcked x.id r.packet.payload)
          | none =>
            let s' := s'.dropRemote q.b
            match r.drain, r.log, r.fetch with
            | some key, _, _ => .next (s'.drainAcked r.easel key)
            | _, some t, _ => .next (s'.logAcked r.easel t)
            | _, _, some off =>
              if q.payload.length != r.packet.b / 65536 then .next (s.discard k a 5)
              else .next (s'.fetched r.easel off q.payload (q.a = 2 || q.poisoned))
            | _, _, _ => .next s'

end Sys2Proof.Machine
end

