-- ==== Sys2Proof/Machine/Zstd.lean ====
section
/-! DEFINITION. One zstd frame (RFC 8878) as far as Table 12-6 takes it, with the XXH64 checksum it may carry: PRESUMED as published (log
entry 11). -/

namespace Sys2Proof.Machine

/-! ### XXH64 -/

def xxPrimes : List Nat := [0x9E3779B185EBCA87, 0xC2B2AE3D27D4EB4F, 0x165667B19E3779F9, 0x85EBCA77C2B2AE63, 0x27D4EB2F165667C5]
def xxPrime (i : Nat) : Nat := xxPrimes.getD i 0
def mod64 (n : Nat) : Nat := n % 2 ^ 64
def left64 (n k : Nat) : Nat := mod64 (n * 2 ^ k) + n / 2 ^ (64 - k)

/-- One lane taken into an accumulator, and an accumulator merged into the sum. -/
def xxRound (acc lane : Nat) : Nat := mod64 (left64 (mod64 (acc + lane * xxPrime 1)) 31 * xxPrime 0)
def xxMerge (acc v : Nat) : Nat := mod64 ((acc ^^^ xxRound 0 v) * xxPrime 0 + xxPrime 3)

/-- Stripes of 32 bytes into four accumulators; what is left. -/
def xxStripes : Nat → List Nat → List Byte → List Nat × List Byte
  | 0, acc, l => (acc, l)
  | fuel + 1, acc, l =>
    match takeBytes 32 l with
    | none => (acc, l)
    | some (s, l) => xxStripes fuel (acc.zipIdx.map fun (a, i) => xxRound a (at8 s (8 * i) 8)) l

/-- The bytes behind the last stripe: by eights, a four, and ones. -/
def xxTail : Nat → Nat → List Byte → Nat
  | 0, h, _ => h
  | fuel + 1, h, l =>
    match takeBytes 8 l, takeBytes 4 l, l with
    | some (s, l), _, _ => xxTail fuel (mod64 (left64 (h ^^^ xxRound 0 (leNat s)) 27 * xxPrime 0 + xxPrime 3)) l
    | none, some (s, l), _ => xxTail fuel (mod64 (left64 (h ^^^ mod64 (leNat s * xxPrime 0)) 23 * xxPrime 1 + xxPrime 2)) l
    | none, none, b :: l => xxTail fuel (mod64 (left64 (h ^^^ mod64 (b.toNat * xxPrime 4)) 11 * xxPrime 0)) l
    | none, none, [] => h

/-- XXH64 with seed 0. -/
def xxh64 (l : List Byte) : Nat :=
  let start := [mod64 (xxPrime 0 + xxPrime 1), xxPrime 1, 0, 2 ^ 64 - xxPrime 0]
  let r := xxStripes l.length start l
  let h := if l.length < 32 then xxPrime 4
    else r.1.foldl xxMerge (mod64 ((r.1.zip [1, 7, 12, 18]).foldl (fun n p => n + left64 p.1 p.2) 0))
  let h := xxTail (r.2.length + 1) (mod64 (h + l.length)) r.2
  let h := mod64 ((h ^^^ (h / 2 ^ 33)) * xxPrime 1)
  let h := mod64 ((h ^^^ (h / 2 ^ 29)) * xxPrime 2)
  h ^^^ (h / 2 ^ 32)

/-! ### Finite state entropy -/

/-- A cell of a decoding table: the symbol, and where the next state lies: a base, and as many bits more. -/
structure Cell where
  sym : Nat
  bits : Nat
  base : Nat
  deriving Inhabited

abbrev Cells := Array Cell

/-- The table of probabilities (−1 for less than one) over 2^`log` states. -/
def cellsOf (log : Nat) (probs : List Int) : Cells :=
  let size := 2 ^ log
  let low := (probs.zipIdx.filter (·.1 = -1)).map (·.2)
  let high := size - low.length
  let places := ((List.range size).map fun k => k * (size / 2 + size / 8 + 3) % size).filter (· < high)
  let syms := probs.zipIdx.flatMap fun p => List.replicate p.1.toNat p.2
  let placed := (places.zip syms).foldl (fun (a : Array Nat) p => a.setIfInBounds p.1 p.2) (Array.replicate size 0)
  let placed := low.zipIdx.foldl (fun (a : Array Nat) p => a.setIfInBounds (size - 1 - p.2) p.1) placed
  let start : Array Nat := (probs.map Int.natAbs).toArray
  (placed.foldl (fun (r : Array Nat × Cells) k =>
    let n := r.1.getD k 1
    let b := log - log2 n
    (r.1.setIfInBounds k (n + 1), r.2.push ⟨k, b, n * 2 ^ b - size⟩)) (start, #[])).2

/-- Probabilities from a stream, `left` still to give, at most `most` symbols; runs of zeros after a zero. -/
def probabilities (most : Nat) : Nat → Nat → Bool → List Int → List Bool → Option (List Int × List Bool)
  | 0, _, _, _, _ => none
  | fuel + 1, left, zero, done, l =>
    if most < done.length then none
    else if zero then
      (getLow 2 l).bind fun (n, l) => probabilities most fuel left (n = 3) (List.replicate n 0 ++ done) l
    else if left = 0 then some (done.reverse, l)
    else
      let n := log2 (left + 1)
      let few := 2 ^ (n + 1) - 2 - left
      (getLow n l).bind fun (v, l) =>
        (if v < few then some (v, l) else (getLow 1 l).map fun p =>
          let v := v + p.1 * 2 ^ n
          (if 2 ^ n ≤ v then v - few else v, p.2)).bind fun (v, l) =>
          let p : Int := v - 1
          if left < p.natAbs then none else probabilities most fuel (left - p.natAbs) (p = 0) (p :: done) l

/-- A table description at the head of bytes: the table, and the bytes behind it. -/
def readCells (most longest : Nat) (p : List Byte) : Option (Nat × Cells × List Byte) :=
  let l := bitsLow (p.take 512)
  (getLow 4 l).bind fun (a, l) =>
    if longest < a + 5 then none
    else (probabilities most 1024 (2 ^ (a + 5)) false [] l).map fun (probs, l) =>
      (a + 5, cellsOf (a + 5) probs, p.drop ((p.take 512).length - l.length / 8))

/-- The bits of a stream that is read from its end: behind the marker of its last byte. -/
def backward (p : List Byte) : Option (List Bool) :=
  match p.getLast? with
  | some b => if b = 0 then none else some (((bitsLow p).reverse.dropWhile (!·)).drop 1)
  | none => none

/-! ### Literals -/

/-- A decoding table of literals: for each value of its `log` bits, the symbol and how many of the bits it takes. -/
structure Literals where
  log : Nat
  cells : Array (Nat × Nat)

/-- The table of weights, the last of which is what completes them; at most 11 bits. -/
def literalsOf (w : List Nat) : Option Literals :=
  let sum := (w.map fun k => if k = 0 then 0 else 2 ^ (k - 1)).foldl (· + ·) 0
  let log := log2 sum + 1
  let left := 2 ^ log - sum
  let w := w ++ [log2 left + 1]
  if sum = 0 || 11 < log || 2 ^ log2 left != left || 256 < w.length then none
  else
    some ⟨log, ((span 1 (log + 1)).flatMap fun k => (w.zipIdx.filter (·.1 = k)).flatMap fun p =>
      List.replicate (2 ^ (k - 1)) (p.2, log + 1 - k)).toArray⟩

/-- Weights from two states that take turns until the bits do not reach for the next. -/
def weights (t : Cells) : Nat → Nat → Nat → List Nat → List Bool → Option (List Nat)
  | 0, _, _, _, _ => none
  | fuel + 1, a, b, done, l =>
    (t[a]?).bind fun x =>
      match getHigh x.bits l with
      | none => (t[b]?).map fun y => (y.sym :: x.sym :: done).reverse
      | some (n, l) => weights t fuel b (x.base + n) (x.sym :: done) l

/-- The description of a table of literals at the head of bytes, and the bytes behind it. -/
def readLiterals (p : List Byte) : Option (Literals × List Byte) :=
  (takeBytes 1 p).bind fun (h, p) =>
    let h := beNat h
    if 128 ≤ h then
      let n := h - 127
      (takeBytes (ceilDiv n 2) p).bind fun (d, p) =>
        (literalsOf ((List.range n).map fun i => fld (be8 d (i / 2) 1) (if i % 2 = 0 then 4 else 0) 4)).map fun t => (t, p)
    else
      (takeBytes h p).bind fun (d, p) => (readCells 256 6 d).bind fun (log, t, d) => (backward d).bind fun l =>
        (getHigh log l).bind fun (a, l) => (getHigh log l).bind fun (b, l) =>
          (weights t 300 a b [] l).bind fun w => (literalsOf w).map fun t => (t, p)

/-- `n` literals of a stream that they use up. -/
def literalStream (t : Literals) : Nat → List Byte → List Bool → Option (List Byte)
  | 0, done, l => if l.isEmpty then some done.reverse else none
  | n + 1, done, l =>
    let peek := l.take t.log
    (t.cells[numHigh peek * 2 ^ (t.log - peek.length)]?).bind fun (k, b) =>
      (takeBits b l).bind fun (_, l) => literalStream t n (byteOf k :: done) l

/-- Literals of one stream, or of four behind their sizes. -/
def codedLiterals (t : Literals) (n : Nat) (four : Bool) (p : List Byte) : Option (List Byte) :=
  let one := fun (n : Nat) (p : List Byte) => (backward p).bind (literalStream t n [])
  if !four then one n p
  else
    (takeBytes 6 p).bind fun (h, p) => (takeBytes (at8 h 0 2) p).bind fun (a, p) => (takeBytes (at8 h 2 2) p).bind fun (b, p) =>
      (takeBytes (at8 h 4 2) p).bind fun (c, p) =>
        let k := (n + 3) / 4
        if n < 3 * k then none
        else (one k a).bind fun a => (one k b).bind fun b => (one k c).bind fun c => (one (n - 3 * k) p).map fun d => a ++ b ++ c ++ d

/-- The literals section at the head of a block: the literals, the table in force, and what follows. -/
def literalsSection (most : Nat) (old : Option Literals) (p : List Byte) : Option (List Byte × Option Literals × List Byte) :=
  let kind := fld (be8 p 0 1) 0 2
  let form := fld (be8 p 0 1) 2 2
  if kind < 2 then
    let (head, n) := match form with
      | 1 => (2, fld (at8 p 0 2) 4 12)
      | 3 => (3, fld (at8 p 0 3) 4 20)
      | _ => (1, fld (at8 p 0 1) 3 5)
    (takeBytes head p).bind fun (_, p) =>
      if most < n then none
      else if kind = 0 then (takeBytes n p).map fun (d, p) => (d, old, p)
      else (takeBytes 1 p).map fun (d, p) => (List.replicate n (d.headD 0), old, p)
  else
    let (head, w) := match form with | 2 => (4, 14) | 3 => (5, 18) | _ => (3, 10)
    let n := fld (at8 p 0 head) 4 w
    (takeBytes head p).bind fun (h, p) => (takeBytes (fld (at8 h 0 head) (4 + w) w) p).bind fun (d, p) =>
      if most < n then none
      else
        (if kind = 2 then readLiterals d else old.map fun t => (t, d)).bind fun (t, d) =>
          (codedLiterals t n (form != 0) d).map fun v => (v, some t, p)

/-! ### Sequences -/

/-- The tables of literal lengths, offsets and match lengths in force. -/
structure SeqTables where
  ll : Option (Nat × Cells)
  off : Option (Nat × Cells)
  ml : Option (Nat × Cells)

/-- Predefined probabilities, with the log of their tables. -/
def presetLl : Nat × List Int := (6, runsOf [(1, 4), (1, 3), (11, 2), (3, 1), (9, 2), (1, 3), (1, 2), (5, 1), (4, -1)])
def presetOff : Nat × List Int := (5, runsOf [(6, 1), (3, 2), (15, 1), (5, -1)])
def presetMl : Nat × List Int := (6, runsOf [(1, 1), (1, 4), (1, 3), (6, 2), (37, 1), (7, -1)])

/-- Where the values of a length code begin, and its extra bits. -/
def llRanges : List (Nat × Nat) := basesFrom 0 (runsOf [(16, 0), (4, 1), (2, 2), (2, 3), (1, 4)] ++ span 6 17)
def mlRanges : List (Nat × Nat) := basesFrom 3 (runsOf [(32, 0), (4, 1), (2, 2), (2, 3), (2, 4), (1, 5)] ++ span 7 17)

/-- The table that a mode gives: predefined, one symbol, described, or that in force. -/
def seqTable (mode : Nat) (preset : Nat × List Int) (most longest : Nat) (old : Option (Nat × Cells)) (p : List Byte) :
    Option ((Nat × Cells) × List Byte) :=
  match mode with
  | 0 => some ((preset.1, cellsOf preset.1 preset.2), p)
  | 1 => (takeBytes 1 p).bind fun (b, p) => if beNat b < most then some ((0, #[⟨beNat b, 0, 0⟩]), p) else none
  | 2 => (readCells most longest p).map fun (log, t, p) => ((log, t), p)
  | _ => old.map fun t => (t, p)

/-- The content made so far, latest byte first, its length, and the three offsets used before. -/
structure Content where
  out : List Byte
  made : Nat
  reps : Nat × Nat × Nat

/-- The offset that an offset value stands for behind `ll` literals, and the offsets used before from then on. -/
def offsetOf (v ll : Nat) (r : Nat × Nat × Nat) : Nat × Nat × Nat × Nat :=
  if 3 < v then (v - 3, v - 3, r.1, r.2.1)
  else
    match v + (if ll = 0 then 1 else 0) with
    | 1 => (r.1, r)
    | 2 => (r.2.1, r.2.1, r.1, r.2.2)
    | 3 => (r.2.2, r.2.2, r.1, r.2.1)
    | _ => (r.1 - 1, r.1 - 1, r.1, r.2.1)

/-- One sequence carried out: `ll` literals, then `ml` bytes from the offset back, inside the window. -/
def Content.sequence (c : Content) (window : Nat) (lits : List Byte) (ll ml v : Nat) : Option (Content × List Byte) :=
  (takeBytes ll lits).bind fun (l, lits) =>
    let d := offsetOf v ll c.reps
    let made := c.made + ll
    if d.1 = 0 || made < d.1 || window < d.1 then none
    else some (⟨copyBack ml d.1 (l.reverse ++ c.out), made + ml, d.2⟩, lits)

/-- `n` sequences from their states and bits; how many were carried out comes with the result. -/
def sequences (window : Nat) (tl tq tm : Cells) : Nat → Nat × Nat × Nat → Content → List Byte → List Bool → Nat → Option (Content × List Byte) × Nat
  | 0, _, c, lits, l, done => (if l.isEmpty then some (c, lits) else none, done)
  | n + 1, (sl, so, sm), c, lits, l, done =>
    match (do
        let xl ← tl[sl]?
        let xo ← tq[so]?
        let xm ← tm[sm]?
        let (o, l) ← getHigh xo.sym l
        let rm ← mlRanges[xm.sym]?
        let (m, l) ← getHigh rm.2 l
        let rl ← llRanges[xl.sym]?
        let (k, l) ← getHigh rl.2 l
        let (c, lits) ← c.sequence window lits (rl.1 + k) (rm.1 + m) (2 ^ xo.sym + o)
        if n = 0 then some ((0, 0, 0), c, lits, l)
        else
          let (a, l) ← getHigh xl.bits l
          let (b, l) ← getHigh xm.bits l
          let (d, l) ← getHigh xo.bits l
          some ((xl.base + a, xo.base + d, xm.base + b), c, lits, l)) with
    | none => (none, done)
    | some (st, c, lits, l) => sequences window tl tq tm n st c lits l (done + 1)

/-- How many sequences a block has, and what follows the number. -/
def sequenceCount (p : List Byte) : Option (Nat × List Byte) :=
  let a := be8 p 0 1
  let n := if a < 128 then 1 else if a < 255 then 2 else 3
  (takeBytes n p).map fun (_, q) =>
    (if a < 128 then a else if a < 255 then (a - 128) * 256 + be8 p 1 1 else at8 p 1 2 + 0x7F00, q)

/-! ### Blocks and the frame -/

/-- What blocks hand on: the tables in force, the content, the sequences counted. -/
structure Zstd where
  lits : Option Literals
  tables : SeqTables
  content : Content
  count : Nat

/-- A compressed block; `false` where it is bad. -/
def Zstd.compressed (z : Zstd) (window most : Nat) (p : List Byte) : Bool × Zstd :=
  match literalsSection most z.lits p with
  | none => (false, z)
  | some (lits, table, p) =>
    let z := { z with lits := table }
    let plain := fun (c : Content) (l : List Byte) => ({ c with out := l.reverse ++ c.out, made := c.made + l.length } : Content)
    match sequenceCount p with
    | none => (false, z)
    | some (0, p) => (p.isEmpty, if p.isEmpty then { z with content := plain z.content lits } else z)
    | some (n, p) =>
      match (do
          let (m, p) ← takeBytes 1 p
          let m := beNat m
          if m % 4 != 0 then none
          else
            let (tl, p) ← seqTable (fld m 6 2) presetLl 36 9 z.tables.ll p
            let (tq, p) ← seqTable (fld m 4 2) presetOff 32 8 z.tables.off p
            let (tm, p) ← seqTable (fld m 2 2) presetMl 53 9 z.tables.ml p
            let l ← backward p
            let (sl, l) ← getHigh tl.1 l
            let (so, l) ← getHigh tq.1 l
            let (sm, l) ← getHigh tm.1 l
            some (tl, tq, tm, (sl, so, sm), l)) with
      | none => (false, z)
      | some (tl, tq, tm, st, l) =>
        let r := sequences window tl.2 tq.2 tm.2 n st z.content lits l 0
        let z := { z with tables := ⟨some tl, some tq, some tm⟩, count := z.count + r.2 }
        match r.1 with
        | none => (false, z)
        | some (c, left) =>
          let c' := plain c left
          if most < c'.made - z.content.made then (false, z) else (true, { z with content := c' })

/-- Blocks up to the last one: what follows it, where all were legal. -/
def Zstd.blocks (window : Nat) : Nat → Zstd → List Byte → Option (List Byte) × Zstd
  | 0, z, _ => (none, z)
  | fuel + 1, z, p =>
    let most := min window 131072
    let h := at8 p 0 3
    let n := h / 8
    let size := if fld h 1 2 = 1 then 1 else n
    match (takeBytes 3 p).bind fun q => takeBytes size q.2 with
    | none => (none, z)
    | some (d, rest) =>
      let c := z.content
      let put := fun (l : List Byte) => { z with content := { c with out := l.reverse ++ c.out, made := c.made + l.length } }
      let r : Bool × Zstd :=
        if most < n then (false, z)
        else match fld h 1 2 with
          | 0 => (true, put d)
          | 1 => (true, put (List.replicate n (d.headD 0)))
          | 2 => z.compressed window most d
          | _ => (false, z)
      if !r.1 then (none, r.2) else if h % 2 = 1 then (some rest, r.2) else Zstd.blocks window fuel r.2 rest

/-- What a frame header gives (Table 12-6: content size present, dictionary id 0, a window of at most 64 MiB): the window, the content
size, whether a checksum follows, and the blocks. -/
def zstdHead (p : List Byte) : Option (Nat × Nat × Bool × List Byte) :=
  (takeBytes 5 p).bind fun (h, l) =>
    let d := be8 h 4 1
    let single := d.testBit 5
    let sizeBytes := match fld d 6 2 with | 0 => (if single then 1 else 0) | k => 2 ^ k
    let dictBytes := [0, 1, 2, 4].getD (fld d 0 2) 0
    (takeBytes (if single then 0 else 1) l).bind fun (w, l) => (takeBytes dictBytes l).bind fun (k, l) => (takeBytes sizeBytes l).bind fun (z, l) =>
      let size := leNat z + (if sizeBytes = 2 then 256 else 0)
      let e := 2 ^ (10 + beNat w / 8)
      let window := if single then size else e + e / 8 * (beNat w % 8)
      if at8 h 0 4 != 0xFD2FB528 || d.testBit 3 || sizeBytes = 0 || leNat k != 0 || 67108864 < window then none
      else some (window, size, d.testBit 2, l)

/-- One frame decoded: all of the payload, to exactly its content size. Its work is the decoded bytes and the sequences (Table 12-8). -/
def zstdDecode (p : List Byte) : Coded (List Byte) :=
  match zstdHead p with
  | none => ⟨none, 0⟩
  | some (window, size, check, l) =>
    let r := Zstd.blocks window l.length ⟨none, ⟨none, none, none⟩, ⟨[], 0, 1, 4, 8⟩, 0⟩ l
    let c := r.2.content
    let out := c.out.reverse
    let ok := match r.1 with
      | some rest => c.made = size && (if check then rest.length = 4 && leNat rest = xxh64 out % 2 ^ 32 else rest.isEmpty)
      | none => false
    ⟨if ok then some out else none, c.made + r.2.count⟩

end Sys2Proof.Machine
end

