-- ==== Sys2Proof/Machine/Primer.lean ====
section
/-! DEFINITION. The primer (R302 to R325): intakes and their checks, record streams and codings, text and its tokens, lanes, per-sample
checks and budgets, replacement by spares, tensors, and delivery in order. -/

namespace Sys2Proof.Machine

/-! ### The intake block (Table 12-1) -/

def ibKind (b : List Byte) : Nat := at8 b 0 1
/-- The space of the record streams: easel memory or checkpoint flash. -/
def ibSpace (b : List Byte) : Nat := if fld (at8 b 1 1) 0 1 = 1 then 4 else 1
def ibMemory (b : List Byte) : Bool := fld (at8 b 1 1) 1 1 = 1
def ibRandom (b : List Byte) : Bool := fld (at8 b 1 1) 2 1 = 1
def ibColour (b : List Byte) : Bool := fld (at8 b 1 1) 3 1 = 1
def ibFormat (b : List Byte) : Nat := fld (at8 b 2 1) 0 4
def ibFactor (b : List Byte) : Nat := 2 ^ fld (at8 b 2 1) 4 2
def ibLevels (b : List Byte) : Nat := fld (at8 b 3 1) 0 4
def ibBinomial (b : List Byte) : Bool := fld (at8 b 3 1) 4 1 = 1
def ibDraws (b : List Byte) : Nat := at8 b 4 2
def ibSem (b : List Byte) : Nat := at8 b 6 2
def ibLanes (b : List Byte) : Nat := at8 b 8 8
def ibBase (b : List Byte) : Nat := at8 b 16 8
def ibFirst (b : List Byte) : Nat := at8 b 24 8
def ibCount (b : List Byte) : Nat := at8 b 32 4
def ibSpares (b : List Byte) : Nat := at8 b 36 2
def ibRatio (b : List Byte) : Nat := at8 b 38 2
def ibSpareBase (b : List Byte) : Nat := at8 b 40 8
def ibOrdinal (b : List Byte) : Nat := at8 b 48 8
def ibK0 (b : List Byte) : Nat := at8 b 56 4
def ibBudget (b : List Byte) : Nat := at8 b 60 1
def ibMaxA (b : List Byte) : Nat := at8 b 64 4
def ibMaxB (b : List Byte) : Nat := at8 b 68 4
def ibCropH (b : List Byte) : Nat := at8 b 72 4
def ibCropW (b : List Byte) : Nat := at8 b 76 4
def ibCropY (b : List Byte) : Nat := at8 b 80 4
def ibCropX (b : List Byte) : Nat := at8 b 84 4
def ibSlot (b : List Byte) : Nat := at8 b 88 4
def ibOut (b : List Byte) : Nat := at8 b 96 8
def ibPitch (b : List Byte) : Nat := at8 b 104 8
def ibLog (b : List Byte) : Nat := at8 b 112 8
def ibLogEntries (b : List Byte) : Nat := at8 b 120 4
def ibTok (b : List Byte) : Nat := at8 b 128 8

/-- The lanes a block names. -/
def lanesOf (b : List Byte) : List Nat := (List.range 64).filter fun i => (ibLanes b).testBit i

/-- An image kind, a signal kind, text (Table 12-5). -/
def isImage (kind : Nat) : Bool := decide (1 ≤ kind) && decide (kind ≤ 3)
def isText (kind : Nat) : Bool := kind = 6

/-! ### The record stream (R305 to R308) -/

/-- `n` bytes of a record stream; a byte of a page or extent not held reads as zero (DEDUCED, log entry 67). -/
def State.streamBytes (s : State) (e space a n : Nat) : List Byte :=
  match s.readSpace e space a n with
  | some bs => bs
  | none => List.replicate n 0

/-- A stream header's first bad field (Table 12-3), as its value. -/
def headerFault (h : List Byte) : Option Nat :=
  let count := at8 h 8 8
  let index := at8 h 16 8
  let length := at8 h 24 8
  if at8 h 0 4 != 0x53445244 then some (at8 h 0 4)
  else if at8 h 4 2 != 0x0100 then some (at8 h 4 2)
  else if at8 h 6 2 != 0 then some (at8 h 6 2)
  else if count = 0 then some 0
  else if index % 64 != 0 || decide (index < 64) then some index
  else if length < index + 16 * count then some length
  else if at8 h 36 4 != crc32c (h.take 36) then some (at8 h 36 4)
  else if !rsv h 40 24 then some (at8 h 40 8)
  else none

/-- The header of a stream. -/
def State.streamHead (s : State) (e space base : Nat) : List Byte := s.streamBytes e space base 64

/-- Whether a range of a space is held by the easel whole (R304 check 6). -/
def State.rangeHeld (s : State) (e space a n : Nat) : Bool :=
  if space = 4 then within a n (s.flashBytes e) else s.mapped e a n

/-- Entry `i` of a stream's index (R306). -/
def State.indexEntry (s : State) (e space base i : Nat) : List Byte :=
  s.streamBytes e space (base + at8 (s.streamHead e space base) 16 8 + 16 * i) 16

/-- An index entry's first bad field, as its value (R306). -/
def entryFault (length : Nat) (q : List Byte) : Option Nat :=
  let off := at8 q 0 8
  let size := at8 q 8 4
  if off % 64 != 0 then some off
  else if size < 32 ∨ !within off size length then some size
  else if at8 q 12 4 != 0 then some (at8 q 12 4)
  else none

/-- Whether the bytes of a record of `kind` are intact (R307, R308). -/
def recordIntact (kind : Nat) (r : List Byte) : Bool :=
  at8 r 0 4 + 32 = r.length && at8 r 4 1 = kind && rsv r 5 3 && rsv r 20 12
    && at8 r 16 4 = crc32c (r.take 16 ++ r.drop 32)

/-- A record of a stream by its index entry (R307, R315 check 1): its sample id, and its payload where it is intact and no
uncorrectable byte lies in it. -/
def State.recordOf (s : State) (e space base kind i : Nat) : Nat × Option (List Byte) :=
  let q := s.indexEntry e space base i
  match entryFault (at8 (s.streamHead e space base) 24 8) q with
  | some _ => (0, none)
  | none =>
    let a := base + at8 q 0 8
    let r := s.streamBytes e space a (at8 q 8 4)
    (at8 r 8 8, if recordIntact kind r && !s.poisonedSpace e space a r.length then some (r.drop 32) else none)

/-! ### Codings (R309, Table 12-6) -/

/-- What the headers of a payload claim (R309). -/
structure Claim where
  a : Nat
  b : Nat
  channels : Nat
  bits : Nat
  float : Bool
  deriving DecidableEq, Repr

/-- The claim of a JPEG, PNG or FLAC payload from its headers, within the subset of Table 12-6. -/
def codecClaim (kind : Nat) (p : List Byte) : Option Claim :=
  match kind with
  | 1 => (jpegFrameOf p).map fun f => ⟨f.height, f.width, f.comps.length, 8, false⟩
  | 2 => (pngHead p).map fun x => ⟨x.h, x.w, x.channels, x.bits, false⟩
  | _ => (flacHead p).map fun x => ⟨x.1.total, x.1.channels, x.1.channels, x.1.bits, false⟩

/-- A JPEG, PNG or FLAC payload decoded, with the work it took. -/
def codecDecode (kind : Nat) (p : List Byte) : Coded (List Nat) :=
  match kind with
  | 1 => jpegDecode p
  | 2 => pngDecode p
  | _ => flacDecode p

/-- Tiles of a raster down and across. -/
def rasterGrid (p : List Byte) : Nat × Nat :=
  (ceilDiv (at8 p 8 4) (at8 p 16 2), ceilDiv (at8 p 12 4) (at8 p 18 2))

/-- The claim of a tiled raster (R309). -/
def rasterClaim (p : List Byte) : Option Claim :=
  let ch := at8 p 6 1
  let bits := at8 p 7 1
  let h := at8 p 8 4
  let w := at8 p 12 4
  let th := at8 p 16 2
  let tw := at8 p 18 2
  let g := rasterGrid p
  let dim := fun (n : Nat) => decide (1 ≤ n) && decide (n ≤ 1048576)
  let side := fun (n : Nat) => decide (64 ≤ n) && decide (n ≤ 4096) && n % 64 = 0
  if decide (64 ≤ p.length) && at8 p 0 4 = 0x54535251 && at8 p 4 2 = 0x0100 && decide (1 ≤ ch) && decide (ch ≤ 64)
      && (bits = 1 || bits = 8 || bits = 16) && dim h && dim w && side th && side tw && at8 p 20 4 = g.1 * g.2
      && at8 p 24 8 % 16 = 0 && rsv p 32 32
  then some ⟨h, w, ch, bits, false⟩ else none

/-- Bits of a PCM element by its encoding. -/
def pcmBits : Nat → Nat
  | 0 => 8 | 1 => 16 | 2 => 24 | _ => 32

/-- The claim of a PCM signal (R309). -/
def pcmClaim (p : List Byte) : Option Claim :=
  let k := at8 p 0 1
  let ch := at8 p 1 1
  if decide (16 ≤ p.length) && decide (k ≤ 4) && decide (1 ≤ ch) && decide (ch ≤ 64) && rsv p 2 2
  then some ⟨at8 p 8 8, ch, ch, pcmBits k, k = 4⟩ else none

/-- The claim of a payload; `none` where its headers do not parse within Table 12-6 (R315 check 2). -/
def claimOf (kind : Nat) (p : List Byte) : Option Claim :=
  match kind with
  | 3 => rasterClaim p
  | 5 => pcmClaim p
  | 6 => some ⟨0, 0, 0, 32, false⟩
  | k => codecClaim k p

/-- The claimed size in bytes (Table 12-6), in 64-bit arithmetic that does not wrap. -/
def claimedSize (kind : Nat) (c : Claim) : Nat :=
  match kind with
  | 1 => c.a * c.b * c.channels
  | 2 => c.a * c.b * c.channels * ceilDiv c.bits 8
  | 3 => ceilDiv (c.a * c.b * c.channels * c.bits) 8
  | _ => c.a * c.b * ceilDiv c.bits 8

/-- A rectangle of an image: row, column, height, width. -/
abbrev Rect := Nat × Nat × Nat × Nat

/-- Whether tile `j` of a raster meets a rectangle. -/
def tileMeets (p : List Byte) (r : Rect) (j : Nat) : Bool :=
  let w := (rasterGrid p).2
  let y := j / w * at8 p 16 2
  let x := j % w * at8 p 18 2
  decide (y < r.1 + r.2.2.1) && decide (r.1 < y + at8 p 16 2) && decide (x < r.2.1 + r.2.2.2) && decide (r.2.1 < x + at8 p 18 2)

/-- The tiles a decode needs: those that meet the crop rectangle, all of them without one. -/
def tilesNeeded (p : List Byte) (r : Option Rect) : List Nat :=
  let g := rasterGrid p
  (List.range (g.1 * g.2)).filter fun j => match r with | some r => tileMeets p r j | none => true

/-- Height and width of a tile, clipped at the edges. -/
def tileSize (p : List Byte) (j : Nat) : Nat × Nat :=
  let w := (rasterGrid p).2
  (min (at8 p 16 2) (at8 p 8 4 - j / w * at8 p 16 2), min (at8 p 18 2) (at8 p 12 4 - j % w * at8 p 18 2))

/-- The frame of a tile, its table entry within the payload and legal (R310). -/
def tileFrame (p : List Byte) (j : Nat) : Option (List Byte) :=
  let o := at8 p 24 8 + 16 * j
  if !within o 16 p.length then none
  else
    let off := at8 p o 8
    let n := at8 p (o + 8) 4
    if at8 p (o + 12) 4 = 0 && within off n p.length then some ((p.drop off).take n) else none

/-- The bytes of a tile, exactly its extent. -/
def tileBytes (p : List Byte) (j : Nat) : Option (List Byte) :=
  (tileFrame p j).bind fun f => (zstdDecode f).out.bind fun d =>
    let z := tileSize p j
    if d.length = ceilDiv (z.1 * z.2 * at8 p 6 1 * at8 p 7 1) 8 then some d else none

/-- A raster decoded (R309): elements of tiles that are not needed read as zero and are never written. -/
def rasterDecode (p : List Byte) (c : Claim) (r : Option Rect) : Option (List Nat) :=
  let js := tilesNeeded p r
  if js.any fun j => (tileBytes p j).isNone then none
  else
    let t : Tab (List Byte) := js.map fun j => (j, (tileBytes p j).getD [])
    let w := (rasterGrid p).2
    some ((List.range c.a).flatMap fun y => (List.range c.b).flatMap fun x =>
      let j := y / at8 p 16 2 * w + x / at8 p 18 2
      let d := tget [] t j
      let k := (y % at8 p 16 2 * (tileSize p j).2 + x % at8 p 18 2) * c.channels
      (List.range c.channels).map fun i => elemAt c.bits d (k + i))

/-- Decode of an image or signal to exactly its claimed extent (R310, R315 check 6). -/
def decodeValues (kind : Nat) (p : List Byte) (c : Claim) (r : Option Rect) : Option (List Nat) :=
  match kind with
  | 3 => rasterDecode p c r
  | 5 =>
    if p.length = 16 + claimedSize 5 c then some ((List.range (c.a * c.b)).map fun i => at8 p (16 + i * (c.bits / 8)) (c.bits / 8)) else none
  | k => (codecDecode k p).out

/-! ### Text (R309, R311, R312) -/

/-- One byte of UTF-8: what is still expected (a count and the bounds of the next byte), `none` once malformed (RFC 3629). -/
def utf8Step (st : Option (Nat × Nat × Nat)) (b : Byte) : Option (Nat × Nat × Nat) :=
  match st with
  | none => none
  | some (0, _, _) =>
    let v := b.toNat
    if v < 0x80 then some (0, 0, 0)
    else if v < 0xC2 then none
    else if v < 0xE0 then some (1, 0x80, 0xBF)
    else if v = 0xE0 then some (2, 0xA0, 0xBF)
    else if v = 0xED then some (2, 0x80, 0x9F)
    else if v < 0xF0 then some (2, 0x80, 0xBF)
    else if v = 0xF0 then some (3, 0x90, 0xBF)
    else if v < 0xF4 then some (3, 0x80, 0xBF)
    else if v = 0xF4 then some (3, 0x80, 0x8F)
    else none
  | some (n + 1, lo, hi) => if lo ≤ b.toNat ∧ b.toNat ≤ hi then some (n, 0x80, 0xBF) else none

/-- Well-formed UTF-8: no overlong form, no surrogate, nothing above U+10FFFF. -/
def utf8Ok (p : List Byte) : Bool :=
  match p.foldl utf8Step (some (0, 0, 0)) with
  | some (0, _, _) => true
  | _ => false

/-- A tokenizer table as a walk reads it: base, check and token of a node. -/
def State.tokNode (s : State) (e tok t : Nat) : Nat × Nat × Nat :=
  let b := s.streamBytes e 1 (tok + 32 + 16 * t) 16
  (at8 b 0 4, at8 b 4 4, at8 b 8 4)

/-- A walk through the tokenizer table: transitions followed, the deepest token with its length, and whether a node that it read is
poison (R323). -/
structure TokWalk where
  followed : Nat
  token : Option (Nat × Nat)
  bad : Bool

/-- Whether node `t` of a tokenizer table is poison. -/
def State.tokBad (s : State) (e tok t : Nat) : Bool := !s.poison.isEmpty && s.poisonedVa e (tok + 32 + 16 * t) 16

/-- Transitions from node `n` along bytes (R311). -/
def State.tokWalk (s : State) (e tok count : Nat) : List Byte → Nat → Nat → TokWalk → TokWalk
  | [], _, _, r => r
  | b :: bs, n, depth, r =>
    let t := (s.tokNode e tok n).1 + b.toNat
    let y := s.tokNode e tok t
    let bad := r.bad || s.tokBad e tok n || (t != 0 && decide (t < count) && s.tokBad e tok t)
    if t = 0 ∨ count ≤ t ∨ y.2.1 ≠ n then { r with bad }
    else
      s.tokWalk e tok count bs t (depth + 1)
        { followed := depth + 1, token := if y.2.2 = 0xFFFFFFFF then r.token else some (y.2.2, depth + 1), bad }

/-- The tokens of a text, the transitions followed, and whether a node that was read is poison (R311, R323); `fuel` bounds the
positions. -/
def State.tokenize (s : State) (e tok : Nat) : Nat → List Byte → List Nat × Nat × Bool
  | 0, _ => ([], 0, false)
  | _, [] => ([], 0, false)
  | fuel + 1, b :: bs =>
    let head := s.streamBytes e 1 tok 32
    let w := s.tokWalk e tok (at8 head 8 4) (b :: bs) 0 0 ⟨0, none, false⟩
    let (token, n) := w.token.getD (at8 head 12 4 + b.toNat, 1)
    let r := s.tokenize e tok fuel ((b :: bs).drop n)
    (token :: r.1, r.2.1 + w.followed, r.2.2 || w.bad)

/-- The tokens of a text of an intake. -/
def State.tokensOf (s : State) (e : Nat) (b : List Byte) (p : List Byte) : List Nat × Nat × Bool := s.tokenize e (ibTok b) p.length p

/-! ### Per-sample checks and budgets (R315, R316) -/

/-- The rectangle that a crop takes (R313) of an image of `h` by `w`, for ordinal `o`: drawn or fixed; `none` without a crop. -/
def cropOf (b : List Byte) (seed step o h w : Nat) : Option Rect :=
  if ibCropH b = 0 then none
  else if ibRandom b then
    some (draw seed (ibDraws b) step (2 * o) * (h - ibCropH b + 1) / 2 ^ 32,
      draw seed (ibDraws b) step (2 * o + 1) * (w - ibCropW b + 1) / 2 ^ 32, ibCropH b, ibCropW b)
  else some (ibCropY b, ibCropX b, ibCropH b, ibCropW b)

/-- Check 3 of Table 12-7, with a fixed crop that passes beyond the image (R313). -/
def dimensionsOk (b : List Byte) (c : Claim) : Bool :=
  decide (c.a ≤ ibMaxA b) && decide (c.b ≤ ibMaxB b) && decide (ibCropH b ≤ c.a) && decide (ibCropW b ≤ c.b)
    && (!isImage (ibKind b) || ibRandom b || ibCropH b = 0
        || (decide (ibCropY b + ibCropH b ≤ c.a) && decide (ibCropX b + ibCropW b ≤ c.b)))

/-- The checks before decoding (Table 12-7, orders 2 to 4): a skip code, or the claim. -/
def preCheck (b : List Byte) (p : List Byte) : Nat × Option Claim :=
  match claimOf (ibKind b) p with
  | none => (0x0601, none)
  | some c =>
    if isText (ibKind b) then (0, some c)
    else if !dimensionsOk b c then (0x0603, none)
    else if ibRatio b * p.length < claimedSize (ibKind b) c then (0x0603, none)
    else (0, some c)

/-- The work budget of a sample (R316). -/
def budgetOf (b : List Byte) (p : List Byte) (c : Claim) : Nat :=
  if isText (ibKind b) then ibBudget b * 2 * p.length else ibBudget b * (p.length + claimedSize (ibKind b) c)

/-- The work a sample takes (Table 12-8), or took up to where its decode failed. Of a raster, payload bytes read are its header, and of each
tile needed the table entry and the frame (DEDUCED, log entry 68). -/
def State.workOf (s : State) (e : Nat) (b : List Byte) (p : List Byte) (c : Claim) (r : Option Rect) : Nat :=
  match ibKind b with
  | 3 => (tilesNeeded p r).foldl (fun n j =>
      match tileFrame p j with
      | some f => n + 16 + f.length + (zstdDecode f).work
      | none => n + 16) 64
  | 5 => p.length + c.a * c.b
  | 6 => p.length + (if utf8Ok p then (s.tokensOf e b p).2.1 else 0)
  | k => (codecDecode k p).work

/-- A sample decoded (R315 check 6). -/
def State.decodeSample (s : State) (e : Nat) (b : List Byte) (p : List Byte) (c : Claim) (r : Option Rect) : Option Sample :=
  if isText (ibKind b) then
    if utf8Ok p then some ⟨0, 0, 0, 32, false, (s.tokensOf e b p).1⟩ else none
  else (decodeValues (ibKind b) p c r).map fun l => ⟨c.a, c.b, c.channels, c.bits, c.float, l⟩

/-- The outcome of a record whole (R315): a skip code or the sample. A spare is decoded with every tile (DEDUCED, log entry 68). -/
def State.judge (s : State) (e : Nat) (b : List Byte) (payload : Option (List Byte)) : Nat × Option Sample :=
  match payload with
  | none => (0x0601, none)
  | some p =>
    match preCheck b p with
    | (0, some c) =>
      if budgetOf b p c < s.workOf e b p c none then (0x0602, none)
      else
        match s.decodeSample e b p c none with
        | some d => (0, some d)
        | none => (0x0601, none)
    | (k, _) => (k, none)

/-! ### Tensors (R312, R313) -/

/-- An image in the course of R313: rows, columns, channels, elements. -/
structure Img where
  h : Nat
  w : Nat
  c : Nat
  px : Array Num

def Img.at (m : Img) (y x k : Nat) : Num := m.px.getD ((y * m.w + x) * m.c + k) Num.zero

/-- An image from a function of row, column and channel. -/
def Img.build (h w c : Nat) (f : Nat → Nat → Nat → Num) : Img :=
  ⟨h, w, c, ((List.range h).flatMap fun y => (List.range w).flatMap fun x => (List.range c).map fun k => f y x k).toArray⟩

/-- A decimal constant of R313, rounded to FP32. -/
def coefficient (millionths : Nat) : Num := r32 (Num.div 60 (Num.ofInt millionths) (Num.ofInt 1000000))

/-- YCbCr to RGB (R313 step 1). -/
def Img.rgb (m : Img) : Img :=
  Img.build m.h m.w m.c fun y x k =>
    let l := m.at y x 0
    let cb := sub32 (m.at y x 1) (Num.ofInt 128)
    let cr := sub32 (m.at y x 2) (Num.ofInt 128)
    let v := match k with
      | 0 => add32 l (mul32 (coefficient 1402000) cr)
      | 1 => sub32 (sub32 l (mul32 (coefficient 344136) cb)) (mul32 (coefficient 714136) cr)
      | _ => add32 l (mul32 (coefficient 1772000) cb)
    Num.min2 (Num.ofInt 255) (Num.max2 Num.zero v)

/-- A rectangle of an image (R313 step 2). -/
def Img.crop (m : Img) (r : Rect) : Img := Img.build r.2.2.1 r.2.2.2 m.c fun y x k => m.at (r.1 + y) (r.2.1 + x) k

/-- The box filter (R313 step 3): sums taken row by row, left to right (DEDUCED, log entry 69). -/
def Img.box (m : Img) : Img :=
  Img.build (ceilDiv m.h 2) (ceilDiv m.w 2) m.c fun y x k =>
    let p := fun (i j : Nat) => m.at (min (2 * y + i) (m.h - 1)) (min (2 * x + j) (m.w - 1)) k
    mul32 (add32 (add32 (add32 (p 0 0) (p 0 1)) (p 1 0)) (p 1 1)) (.fin false 1 (-2))

/-- One pass of the binomial filter over five values (R313 step 3). -/
def binomial5 (v : Nat → Num) : Num :=
  let t := fun (i n : Nat) => mul32 (Num.ofInt n) (v i)
  mul32 (add32 (add32 (add32 (add32 (t 0 1) (t 1 4)) (t 2 6)) (t 3 4)) (t 4 1)) (.fin false 1 (-4))

/-- The binomial filter: along rows, then along columns (DEDUCED, log entry 69). -/
def Img.binomial (m : Img) : Img :=
  let a := Img.build m.h (ceilDiv m.w 2) m.c fun y x k => binomial5 fun i => m.at y (min (2 * x + i - 2) (m.w - 1)) k
  Img.build (ceilDiv m.h 2) a.w m.c fun y x k => binomial5 fun i => a.at (min (2 * y + i - 2) (m.h - 1)) x k

/-- The levels of a pyramid, the first given. -/
def pyramid (binomial : Bool) : Nat → Img → List Img
  | 0, _ => []
  | n + 1, m => m :: pyramid binomial n (if binomial then m.binomial else m.box)

/-- Space-to-channel (R187). -/
def Img.regroup (m : Img) (f : Nat) : Img :=
  if f = 1 then m
  else
    Img.build (ceilDiv m.h f) (ceilDiv m.w f) (m.c * f * f) fun y x k =>
      let q := k / m.c
      let yy := y * f + q / f
      let xx := x * f + q % f
      if yy < m.h ∧ xx < m.w then m.at yy xx (k % m.c) else Num.zero

/-- One element written (R313 step 5), `bits` being the sample's depth. -/
def imageElem (format bits : Nat) (v : Num) : Nat :=
  if format = 0xD then (let z := v.roundInt; (encodeElem 0xD false true (Num.ofInt (if bits = 16 then z / 256 else z))).1)
  else if format = 0xE then (encodeElem 0xE false true v).1
  else (encodeElem format false true (Num.div 60 v (Num.ofInt ((2 ^ bits - 1 : Nat) : Int)))).1

/-- An image's bytes (R176, R313): each row on a 64 B boundary. -/
def Img.bytes (m : Img) (format bits : Nat) : List Byte :=
  let w := widthOf format
  (List.range m.h).flatMap fun y =>
    bytesAt (packBits w ((List.range (m.w * m.c)).map fun i => imageElem format bits (m.px.getD (y * m.w * m.c + i) Num.zero)))
      0 (pitchOf (m.w * m.c) w)

/-- The tensor of an image sample (R313): its bytes, level 0's height and width, channels, and the crop offset. -/
def imageTensor (b : List Byte) (seed step o : Nat) (v : Sample) : List Byte × Nat × Nat × Nat × Nat × Nat :=
  let m : Img := ⟨v.a, v.b, v.channels, (v.values.map fun n => Num.ofInt (n : Nat)).toArray⟩
  let m := if ibColour b && ibKind b = 1 && v.channels = 3 then m.rgb else m
  let r := (cropOf b seed step o v.a v.b).getD (0, 0, v.a, v.b)
  let m := if ibCropH b = 0 then m else m.crop r
  let ls := (pyramid (ibBinomial b) (ibLevels b) m).map fun l => l.regroup (ibFactor b)
  (ls.flatMap fun l => l.bytes (ibFormat b) v.bits, m.h, m.w, m.c * ibFactor b * ibFactor b, r.1, r.2.1)

/-- One element of a signal written (R313). -/
def signalElem (format bits : Nat) (float : Bool) (v : Nat) : Nat :=
  let x := if float then of32 v else (Num.ofInt (toSigned bits v)).scale (-((bits : Int) - 1))
  (encodeElem format false true x).1

/-- The tensor of a signal sample: frames by channels, packed without gaps. -/
def signalTensor (b : List Byte) (v : Sample) : List Byte :=
  packBits (widthOf (ibFormat b)) (v.values.map (signalElem (ibFormat b) v.bits v.float))

/-- The planes of a row of text (R312, R222): token ids, segment ids, positions. -/
def rowTensor (capacity : Nat) (row : List Placed) : List Byte :=
  let ids := row.flatMap fun p => p.sample.values
  let segs := row.zipIdx.flatMap fun p => p.1.sample.values.map fun _ => p.2 + 1
  let pos := row.flatMap fun p => List.range p.sample.values.length
  let plane := fun (n : Nat) (l : List Nat) => l.flatMap (leBytes n)
  bytesAt (plane 4 ids) 0 (roundUp (4 * capacity) 64) ++ bytesAt (plane 2 segs) 0 (roundUp (2 * capacity) 64)
    ++ bytesAt (plane 4 pos) 0 (4 * capacity)

/-- The sizes of the levels of a pyramid. -/
def levelSizes : Nat → Nat → Nat → List (Nat × Nat)
  | 0, _, _ => []
  | n + 1, h, w => (h, w) :: levelSizes n (ceilDiv h 2) (ceilDiv w 2)

/-- The channels an image kind can have at most (Table 12-6). -/
def maxChannels : Nat → Nat
  | 1 => 3 | 2 => 4 | _ => 64

/-- The largest tensor an intake can form under its maxima (R304 check 5). -/
def largestTensor (b : List Byte) : Nat :=
  if isText (ibKind b) then roundUp (4 * ibMaxA b) 64 + roundUp (2 * ibMaxA b) 64 + 4 * ibMaxA b
  else
    let w := widthOf (ibFormat b)
    if isImage (ibKind b) then
      let h0 := if ibCropH b = 0 then ibMaxA b else ibCropH b
      let w0 := if ibCropH b = 0 then ibMaxB b else ibCropW b
      let f := ibFactor b
      (levelSizes (ibLevels b) h0 w0).foldl (fun n l =>
        n + ceilDiv l.1 f * pitchOf (ceilDiv l.2 f * (maxChannels (ibKind b) * f * f)) w) 0
    else ceilDiv (ibMaxA b * ibMaxB b * w) 8

/-! ### Intake checks (R304, Table 12-2) -/

/-- The first of a list of fields that fails, as its value. -/
def firstFail (l : List (Bool × Nat)) : Option Nat := (l.find? fun p => !p.1).map (·.2)

/-- Check 1: every field within Table 12-1, by rising offset. -/
def State.intakeFields (s : State) (e : Nat) (b : List Byte) : Option Nat :=
  let k := ibKind b
  let m := ibMemory b
  let unit := if ibSpace b = 4 then 65536 else 64
  let formatOk := if isText k then ibFormat b = 0xB else ibFormat b ∈ [0x0, 0x1, 0x3, 0xD, 0xE]
  firstFail
    [(decide (1 ≤ k) && decide (k ≤ 6), k), (fld (at8 b 1 1) 4 4 = 0, at8 b 1 1), (formatOk, ibFormat b),
     (fld (at8 b 2 1) 6 2 = 0, at8 b 2 1), (decide (1 ≤ ibLevels b) && decide (ibLevels b ≤ 8), ibLevels b),
     (fld (at8 b 3 1) 5 3 = 0, at8 b 3 1), (if m then ((s.easel e).semDecl (ibSem b)).isSome else ibSem b = 0, ibSem b),
     (ibLanes b != 0 && (lanesOf b).all (s.holds e 6), ibLanes b), (ibBase b % unit = 0, ibBase b),
     (decide (1 ≤ ibCount b) && decide (ibCount b ≤ 16777216), ibCount b),
     (decide (1 ≤ ibSpares b) && decide (ibSpares b ≤ 1024), ibSpares b), (ibSpareBase b % unit = 0, ibSpareBase b),
     (decide (ibOrdinal b < 2 ^ 40), ibOrdinal b), (decide (ibBudget b ≤ 64), ibBudget b), (rsv b 61 3, at8 b 61 3),
     (!isText k || (decide (1 ≤ ibMaxA b) && decide (ibMaxA b ≤ 16777216)), ibMaxA b), (!isText k || ibMaxB b = 0, ibMaxB b),
     ((ibCropH b = 0) = (ibCropW b = 0), ibCropW b), (!ibRandom b || ibCropY b = 0, ibCropY b), (!ibRandom b || ibCropX b = 0, ibCropX b),
     (if m then ibSlot b = 0 else ibSlot b % 64 = 0 && decide (ibSlot b ≤ 16777216), ibSlot b), (rsv b 92 4, at8 b 92 4),
     (if m then ibPitch b % 64 = 0 else ibPitch b = 0, ibPitch b),
     (decide (1 ≤ ibLogEntries b) && decide (ibLogEntries b ≤ 1048576), ibLogEntries b), (rsv b 124 4, at8 b 124 4),
     (isText k || ibTok b = 0, ibTok b), (rsv b 136 8, at8 b 136 8)]

/-- Checks 2 and 3 of one stream: its header, then that `n` records from `first` on exist and its index is intact. An
uncorrectable byte fails the check it lies in (DEDUCED, log entry 67). -/
def State.streamHeadFault (s : State) (e space base : Nat) : Option Nat :=
  if s.poisonedSpace e space base 64 then some 0 else headerFault (s.streamHead e space base)

def State.streamIndexFault (s : State) (e space base first n : Nat) : Option Nat :=
  let h := s.streamHead e space base
  let size := 16 * at8 h 8 8
  if at8 h 8 8 < first + n ∨ 2 ^ 64 ≤ first + n then some (first + n)
  else if !s.rangeHeld e space (base + at8 h 16 8) size || s.poisonedSpace e space (base + at8 h 16 8) size
      || crc32c (s.streamBytes e space (base + at8 h 16 8) size) != at8 h 32 4 then some (at8 h 32 4)
  else none

/-- Check 4 of one stream: the value and entry number of the first bad entry. -/
def State.streamEntryFault (s : State) (e space base first n : Nat) : Option (Nat × Nat) :=
  let length := at8 (s.streamHead e space base) 24 8
  (List.range n).findSome? fun i => (entryFault length (s.indexEntry e space base (first + i))).map fun v => (v, first + i)

/-- Check 6: the base of the first region that is not held whole. -/
def State.intakeRanges (s : State) (e : Nat) (b : List Byte) : Option Nat :=
  let sp := ibSpace b
  let out := if ibMemory b then ibCount b * ibPitch b else 256 * (lanesOf b).length * ibSlot b
  let nodes := at8 (s.streamBytes e 1 (ibTok b) 32) 8 4
  let tok := if isText (ibKind b) then 32 + (if nodes ≤ 16777216 then 16 * nodes else 0) else 0
  firstFail
    [(s.mapped e (ibOut b) out, ibOut b), (s.mapped e (ibLog b) (32 * ibLogEntries b), ibLog b),
     (s.mapped e (ibTok b) tok, ibTok b),
     (s.rangeHeld e sp (ibBase b) (at8 (s.streamHead e sp (ibBase b)) 24 8), ibBase b),
     (s.rangeHeld e sp (ibSpareBase b) (at8 (s.streamHead e sp (ibSpareBase b)) 24 8), ibSpareBase b)]

/-- Check 7: the tokenizer table (R311). -/
def State.tokenizerFault (s : State) (e : Nat) (b : List Byte) : Option Nat :=
  if !isText (ibKind b) then none
  else
    let h := s.streamBytes e 1 (ibTok b) 32
    let v := at8 h 4 4
    let nodes := at8 h 8 4
    let f := at8 h 12 4
    let size := 32 + 16 * nodes
    match firstFail
      [(at8 h 0 4 = 0x4B4F5451, at8 h 0 4), (decide (1 ≤ v) && decide (v ≤ 262144), v),
       (decide (1 ≤ nodes) && decide (nodes ≤ 16777216), nodes), (decide (f + 255 < v), f), (rsv h 16 16, at8 h 16 8)] with
    | some x => some x
    | none =>
      if s.poisonedVa e (ibTok b) size then some (ibTok b)
      else
        (List.range nodes).findSome? fun t =>
          let q := s.streamBytes e 1 (ibTok b + 32 + 16 * t) 16
          let k := at8 q 8 4
          if k != 0xFFFFFFFF && decide (v ≤ k) then some k else if at8 q 12 4 != 0 then some (at8 q 12 4) else none

/-- Check 8: each spare's outcome; the skip code and number of the first that has none. -/
def State.spareFault (s : State) (e : Nat) (b : List Byte) : Option (Nat × Nat) :=
  (List.range (ibSpares b)).findSome? fun j =>
    match s.judge e b (s.recordOf e (ibSpace b) (ibSpareBase b) (ibKind b) j).2 with
    | (0, some _) => none
    | (k, _) => some (k, j)

/-- Detail B of an intake rejection (R304): the check, and the entry number where a record is concerned. -/
def checkDetail (n entry : Nat) : Nat := n + entry % 2 ^ 24 * 256

/-- The checks of Table 12-2 in order: the code and details of the first failure. `dirty` says that the block itself could not be
read. -/
def State.intakeFault (s : State) (e : Nat) (b : List Byte) (dirty : Bool) : Option (Nat × Nat × Nat) :=
  let sp := ibSpace b
  let plain := fun (code n : Nat) (r : Option Nat) => r.map fun v => (code, v, checkDetail n 0)
  let entries := fun (base first n : Nat) =>
    (s.streamEntryFault e sp base first n).map fun r => ((0x0310, r.1, checkDetail 4 r.2) : Nat × Nat × Nat)
  let room := if ibMemory b then ibPitch b else ibSlot b
  let size := largestTensor b + 64
  let steps : List (Unit → Option (Nat × Nat × Nat)) :=
    [fun _ => if dirty then some (0x0605, 0, 1) else none,
     fun _ => plain 0x0605 1 (s.intakeFields e b),
     fun _ => plain 0x0605 2 (s.streamHeadFault e sp (ibBase b)),
     fun _ => plain 0x0605 2 (s.streamHeadFault e sp (ibSpareBase b)),
     fun _ => plain 0x0605 3 (s.streamIndexFault e sp (ibBase b) (ibFirst b) (ibCount b)),
     fun _ => plain 0x0605 3 (s.streamIndexFault e sp (ibSpareBase b) 0 (ibSpares b)),
     fun _ => entries (ibBase b) (ibFirst b) (ibCount b),
     fun _ => entries (ibSpareBase b) 0 (ibSpares b),
     fun _ => if room < size then some (0x0310, size, 5) else none,
     fun _ => plain 0x0501 6 (s.intakeRanges e b),
     fun _ => plain 0x0605 7 (s.tokenizerFault e b),
     fun _ => (s.spareFault e b).map fun r => (0x0606, r.1, checkDetail 8 r.2)]
  steps.findSome? fun f => f ()

/-! ### INTAKE and INTAKE_START (R303) -/

/-- The block with the easel's defaults for a zero ratio bound and a zero budget factor put in. -/
def State.withDefaults (s : State) (e : Nat) (b : List Byte) : List Byte :=
  let ratio := if ibRatio b != 0 then ibRatio b else policy s (0x7040 + e) (if ibKind b ≤ 3 then 1 else 2)
  let budget := if ibBudget b != 0 then ibBudget b else policy s (0x7040 + e) 3
  b.take 38 ++ leBytes 2 ratio ++ (b.drop 40).take 20 ++ leBytes 1 budget ++ b.drop 61

/-- The first lane an intake's block names: the unit its rejection is raised by (DESIGN CHOICE, log entry 70). -/
def firstLane (b : List Byte) : Nat := (lanesOf b).headD 0

/-- What the tiers' codes find as an intake is checked, at offsets of a region: 0 its record stream, of which header and index are read,
1 its spare stream, 2 the tokenizer table of a text (R268, R269). -/
def State.intakeErrors (s : State) (e seq : Nat) (b : List Byte) (errs : List (Nat × Nat × MemErr)) : State :=
  let sp := ibSpace b
  let h := s.streamHead e sp (ibBase b)
  let read := fun (q : Nat × Nat × MemErr) => match q.1 with
    | 0 => decide (q.2.1 < 64) || (decide (at8 h 16 8 ≤ q.2.1) && decide (q.2.1 < at8 h 16 8 + 16 * at8 h 8 8))
    | 1 => decide (q.2.1 < at8 (s.streamHead e sp (ibSpareBase b)) 24 8)
    | 2 => isText (ibKind b) && decide (q.2.1 < 32 + 16 * at8 (s.streamBytes e 1 (ibTok b) 32) 8 4)
    | _ => false
  let at_ := fun (k : Nat) (base : Nat) => (errs.filter fun q => q.1 = k && read q).map fun q => (base + q.2.1, q.2.2)
  ((s.spaceErrors e sp 6 seq (at_ 0 (ibBase b) ++ at_ 1 (ibSpareBase b))).spaceErrors e 1 6 seq (at_ 2 (ibTok b)))

/-- An intake checked whole before any side effect, with every spare decoded (R304). -/
def State.takeIntake (s : State) (e : Nat) (c : Cmd) (errs : List (Nat × Nat × MemErr)) : State :=
  let raw := s.blockOf e c
  let b := s.withDefaults e raw
  let dirty := s.poisonedVa e (c.param + 16 * c.listCount) 144
  -- check 1 sees the block as it was given; the rest sees the defaults
  match (if dirty then none else s.intakeFields e raw) with
  | some v => s.faultWith 0x0605 e 0x06 (firstLane b) c.seq v 1
  | none =>
    let s := if dirty then s else s.intakeErrors e c.seq b errs
    match s.intakeFault e b dirty with
    | some r => s.faultWith r.1 e 0x06 (firstLane b) c.seq r.2.1 r.2.2
    | none =>
      let spares := (List.range (ibSpares b)).filterMap fun j =>
        (s.judge e b (s.recordOf e (ibSpace b) (ibSpareBase b) (ibKind b) j).2).2
      let k : Intake := { easel := e, seq := c.seq, step := c.step, block := b, started := false, taken := 0, delivered := 0, consumed := 0,
                          skips := 0, buffer := [], spares, row := [], slotRead := [], released := 0, starved := false }
      let s := s.onEasel e fun x => x.setPhase c.seq .started
      { s with primer := { s.primer with
        intakes := s.primer.intakes ++ [k], nextSkip := tset s.primer.nextSkip e (c.seq, ibK0 b) } }

/-- The arbiters between base die `die` and [a, a + n) of a space. -/
def State.arbsSpace (s : State) (die e space a n : Nat) : List Arb :=
  arbsOfPlaces die ((piecesOf 1048576 a n).filterMap fun p => s.placeOf e 0 space p.1)

/-- INTAKE (R303): its reads pass the arbiters of its streams' headers as one request (R322, log entry 125). -/
def execIntake (e : Nat) (s : State) (errs : List (Nat × Nat × MemErr) := []) : Host.Outcome State Fault Refusal :=
  match (s.easel e).dispatched 5 with
  | none => .next s
  | some c =>
    if !s.works e then .next s
    else
      let b := s.blockOf e c
      let arbs := s.arbsSpace (firstLane b / 16) e (ibSpace b) (ibBase b) 64
      .next (s.atArbiters (.intake e) 16384 arbs fun s => s.takeIntake e c errs)

/-- An intake replaced by its successor state. -/
def State.setIntake (s : State) (x : Intake) : State :=
  { s with primer := { s.primer with intakes := s.primer.intakes.map fun i => if i.easel = x.easel && i.seq = x.seq then x else i } }

/-- The first intake of an easel that waits and whose lanes no earlier intake holds. -/
def startable (e : Nat) : List Intake → Nat → Option Intake
  | [], _ => none
  | x :: xs, taken =>
    if x.easel = e && !x.started && ibLanes x.block &&& taken = 0 then some x else startable e xs (taken ||| ibLanes x.block)

/-- Counts of a lane's bank under the command of its intake (Table 18-4). -/
def State.bumpLane (s : State) (l seq i n : Nat) : State :=
  { s with primer := { s.primer with banks := tset s.primer.banks l ((tget Bank.reset s.primer.banks l).bump seq i n) } }

/-- INTAKE_START: the lanes are free; the swap point of their counters (Table 18-1). -/
def execIntakeStart (e : Nat) (s : State) : Host.Outcome State Fault Refusal :=
  match startable e s.primer.intakes 0 with
  | none => .next s
  | some x => .next ((lanesOf x.block).foldl (fun s l => s.bumpLane l x.seq 0 0) (s.setIntake { x with started := true }))

/-! ### Lanes (R315, R316, R318) -/

/-- The started intake that holds a lane. -/
def State.intakeOfLane (s : State) (l : Nat) : Option Intake := s.primer.intakes.find? fun x => x.started && (ibLanes x.block).testBit l

/-- Whether the reorder buffer takes one more record: 256 for each lane beyond the oldest undelivered one (R318). -/
def Intake.bufferRoom (x : Intake) : Bool := decide (x.taken ≤ x.consumed + 256 * x.laneCount)

/-- The generator seed of an easel (R368). -/
def State.seed (s : State) (e : Nat) : Nat := policy s (0x3000 + e) 4

/-- The crop of record `i` of an intake, from its claim. -/
def State.cropFor (s : State) (x : Intake) (i : Nat) (c : Claim) : Option Rect :=
  if isImage (ibKind x.block) then cropOf x.block (s.seed x.easel) x.step (ibOrdinal x.block + i) c.a c.b else none

/-- Lane `l` reads the next record of its intake (R315, R318). -/
def State.takeRecord (s : State) (l : Nat) (x : Intake) (errs : List (Nat × MemErr)) : State :=
  let b := x.block
  let sp := ibSpace b
  let i := x.taken
  let q := s.indexEntry x.easel sp (ibBase b) (ibFirst b + i)
  let here := errs.filter fun p => decide (p.1 < at8 q 8 4)
  let s := s.spaceErrors x.easel sp 6 x.seq (here.map fun p => (ibBase b + at8 q 0 8 + p.1, p.2))
  let r := s.recordOf x.easel sp (ibBase b) (ibKind b) (ibFirst b + i)
  let verdict := match r.2 with
    | none => (0x0601, none)
    | some p => preCheck b p
  let o : Output := { index := i, lane := l, sampleId := r.1, skip := verdict.1, payload := r.2.getD [], sample := none,
                      ready := verdict.1 != 0 }
  let s := s.setIntake { x with taken := i + 1, buffer := x.buffer ++ [o] }
  if verdict.1 != 0 then s
  else
    let lane : Lane := { easel := x.easel, seq := x.seq, index := i }
    { s with primer := { s.primer with lanes := tset s.primer.lanes l lane } }

/-- The arbiters of the record that an intake takes next, from the base die of lane `l`. -/
def State.recordArbs (s : State) (l : Nat) (x : Intake) : List Arb :=
  let b := x.block
  let q := s.indexEntry x.easel (ibSpace b) (ibBase b) (ibFirst b + x.taken)
  s.arbsSpace (l / 16) x.easel (ibSpace b) (ibBase b + at8 q 0 8) (at8 q 8 4)

/-- LANE_RECORD_TAKE: the record is read through its arbiters (R322); `errs` is what the tier's code finds at offsets of the record as it is
read (R269). -/
def execLaneRecordTake (l : Nat) (errs : List (Nat × MemErr)) (s : State) : Host.Outcome State Fault Refusal :=
  match s.intakeOfLane l with
  | none => .next s
  | some x =>
    if s.primer.lanes.any (·.1 = l) || decide (ibCount x.block ≤ x.taken) || !x.bufferRoom then .next s
    else .next (s.atArbiters (.lane l) 16384 (s.recordArbs l x) fun s => s.takeRecord l x errs)

/-- What a busy lane decodes: its intake, its output, the claim. -/
def State.decoding (s : State) (l : Nat) : Option (Intake × Output × Claim) :=
  (s.primer.lanes.find? (·.1 = l)).bind fun q =>
    (s.primer.intakes.find? fun x => x.easel = q.2.easel && x.seq = q.2.seq).bind fun x =>
      (x.buffer.find? (·.index = q.2.index)).bind fun o =>
        (claimOf (ibKind x.block) o.payload).map fun c => (x, o, c)

/-- A lane finished with its record: it is free, its work is counted, and the output waits in the reorder buffer. -/
def State.laneDone (s : State) (l : Nat) (x : Intake) (o : Output) (work : Nat) : State :=
  let s := s.setIntake { x with buffer := x.buffer.map fun p => if p.index = o.index then { o with ready := true } else p }
  ({ s with primer := { s.primer with lanes := tdel s.primer.lanes l } }).bumpLane l x.seq 5 work

/-- SAMPLE_SKIPPED_BUDGET (R316): the count has passed the budget. -/
def execSampleSkippedBudget (l : Nat) (s : State) : Host.Outcome State Fault Refusal :=
  match s.decoding l with
  | none => .next s
  | some (x, o, c) =>
    let limit := budgetOf x.block o.payload c
    if limit < s.workOf x.easel x.block o.payload c (s.cropFor x o.index c) then
      .next (s.laneDone l x { o with skip := 0x0602 } (limit + 1))
    else .next s

/-- Errors of a list that lie within the tokenizer table, at their addresses. -/
def State.tokenErrors (s : State) (e : Nat) (b : List Byte) (errs : List (Nat × MemErr)) : List (Nat × MemErr) :=
  (errs.filter fun p => decide (p.1 < 32 + 16 * at8 (s.streamBytes e 1 (ibTok b) 32) 8 4)).map fun p => (ibTok b + p.1, p.2)

/-- SAMPLE_DECODE_DONE (R315 check 6), within the budget. `errs` is what the memory's code finds at offsets of the tokenizer table as a
text is decoded; an uncorrectable error in a node that is read faults the easel (R323). -/
def execSampleDecodeDone (l : Nat) (s : State) (errs : List (Nat × MemErr) := []) : Host.Outcome State Fault Refusal :=
  match s.decoding l with
  | none => .next s
  | some (x, o, c) =>
    let e := x.easel
    let b := x.block
    let r := s.cropFor x o.index c
    let work := s.workOf e b o.payload c r
    if budgetOf b o.payload c < work then .next s
    else
      let s := if isText (ibKind b) then s.spaceErrors e 1 6 x.seq (s.tokenErrors e b errs) else s
      if isText (ibKind b) && utf8Ok o.payload && (s.tokensOf e b o.payload).2.2 then
        .next (s.faultWith 0x0605 e 0x06 l x.seq (ibTok b) 7)
      else
      match s.decodeSample e b o.payload c r with
      | some d => .next (s.laneDone l x { o with sample := some d } work)
      | none => .next (s.laneDone l x { o with skip := 0x0601 } work)

/-! ### Delivery (R317 to R321) -/

/-- The counts of `primer_stats` with one raised (Table 12-11). -/
def State.bumpStat (s : State) (e i : Nat) : State :=
  { s with primer := { s.primer with stats := tset s.primer.stats e (bumpAt (tget [] s.primer.stats e) i 1) } }

/-- Place of a skip code among the counts: corrupt, budget, dimensions. -/
def skipStat (code : Nat) : Nat := if code = 0x0601 then 1 else if code = 0x0602 then 2 else 3

/-- An entry of the substitution log (R317). -/
def logEntry (ordinal sampleId k spare code seq : Nat) : List Byte :=
  leBytes 8 ordinal ++ leBytes 8 sampleId ++ leBytes 4 k ++ leBytes 2 spare ++ leBytes 2 code ++ leBytes 8 seq

/-- An empty sample. -/
def Sample.empty : Sample := ⟨0, 0, 0, 32, false, []⟩

/-- The head of the reorder buffer taken as it is delivered: a skipped one gets its index, its spare, its log entry and its record
(R317). -/
def State.settleHead (s : State) (x : Intake) (o : Output) : State × Intake × Placed :=
  let b := x.block
  let ord := ibOrdinal b + o.index
  if o.skip = 0 then (s, x, ⟨o.lane, o.sampleId, ord, 0, 0xFFFF, 0xFFFFFFFF, o.sample.getD Sample.empty⟩)
  else
    let k := (ibK0 b + x.skips) % 2 ^ 32
    let spare := k % ibSpares b
    let s := s.writeVa x.easel (ibLog b + k % ibLogEntries b * 32) (logEntry ord o.sampleId k spare o.skip x.seq)
    let s := ((s.bumpStat x.easel (skipStat o.skip)).bumpStat x.easel 6).bumpLane o.lane x.seq (skipStat o.skip) 1
    -- `next_skip` is that of the latest intake (R324)
    let s := if (tget (0, 0) s.primer.nextSkip x.easel).1 != x.seq then s
      else { s with primer := { s.primer with nextSkip := tset s.primer.nextSkip x.easel (x.seq, (k + 1) % 2 ^ 32) } }
    (s.reportSeq o.skip x.easel 0x06 o.lane x.seq o.sampleId k, { x with skips := x.skips + 1 },
      ⟨o.lane, o.sampleId, ord, o.skip, spare, k, x.spares.getD spare Sample.empty⟩)

/-- The sample descriptor (Table 12-9). -/
def sampleDescriptor (kind : Nat) (p : Placed) (extentA extentB channels levels format cropY cropX bytes : Nat) : List Byte :=
  leBytes 8 p.sampleId ++ leBytes 5 p.ordinal ++ leBytes 3 0 ++ leBytes 1 kind ++ leBytes 1 p.skip ++ leBytes 2 p.spare ++ leBytes 4 p.k
    ++ leBytes 4 extentA ++ leBytes 4 extentB ++ leBytes 4 channels ++ leBytes 1 levels ++ leBytes 1 format ++ leBytes 2 0
    ++ leBytes 4 cropY ++ leBytes 4 cropX ++ leBytes 8 bytes ++ leBytes 8 0

/-- An output's bytes: descriptor and tensor (R319). -/
def State.outputBytes (s : State) (x : Intake) (p : Placed) : List Byte :=
  let b := x.block
  if isImage (ibKind b) then
    let t := imageTensor b (s.seed x.easel) x.step p.ordinal p.sample
    sampleDescriptor (ibKind b) p t.2.1 t.2.2.1 t.2.2.2.1 (ibLevels b) (ibFormat b) t.2.2.2.2.1 t.2.2.2.2.2 t.1.length ++ t.1
  else
    let t := signalTensor b p.sample
    sampleDescriptor (ibKind b) p p.sample.a p.sample.b p.sample.channels 1 (ibFormat b) 0 0 t.length ++ t

/-- The bytes of a row of text. -/
def rowBytes (x : Intake) : List Byte :=
  let b := x.block
  let t := rowTensor (ibMaxA b) x.row
  let used := (x.row.map fun p => p.sample.values.length).foldl (· + ·) 0
  sampleDescriptor 6 (x.row.headD ⟨0, 0, 0, 0, 0xFFFF, 0xFFFFFFFF, Sample.empty⟩) used x.row.length 0 1 (ibFormat b) 0 0 t.length ++ t

/-- Whether the place of the next output is free: in slot mode its slot must have been released (R320). -/
def Intake.placeFree (x : Intake) : Bool := ibMemory x.block || decide (x.delivered < x.ring) || x.gone (x.delivered - x.ring)

/-- The next output placed (R320, R321): written whole, counted, and in memory mode its semaphore signalled; `next` is the ordinal
after it. -/
def State.place (s : State) (x : Intake) (lane next : Nat) (bs : List Byte) : State :=
  let b := x.block
  let a := if ibMemory b then ibOut b + x.delivered * ibPitch b else ibOut b + x.delivered % max x.ring 1 * ibSlot b
  let s := ((s.writeVa x.easel a bs).bumpStat x.easel 0).bumpLane lane x.seq 0 1
  let s := { s with primer := { s.primer with nextOrdinal := tset s.primer.nextOrdinal x.easel next } }
  let signal : SyncReq := { kind := .signal, easel := x.easel, sem := ibSem b, n := 1, who := .tile 0, after := 0, unitClass := 0x06, unitId := lane }
  let s := if ibMemory b then { s with net := s.net ++ [signal] } else s
  s.setIntake { x with delivered := x.delivered + 1 }

/-- The row of text placed and emptied. -/
def State.placeRow (s : State) (x : Intake) : State × Intake :=
  let last := (x.row.getLast?.map (·.ordinal)).getD 0
  let s := s.place x ((x.row.head?.map (·.lane)).getD 0) (last + 1) (rowBytes x)
  (s, { x with delivered := x.delivered + 1, row := [] })

/-- Tokens in the row being filled. -/
def Intake.rowUsed (x : Intake) : Nat := (x.row.map fun p => p.sample.values.length).foldl (· + ·) 0

/-- Whether a row of text closes by itself: it holds 65,535 segments, or the intake ends (R312). -/
def Intake.rowCloses (x : Intake) : Bool :=
  x.row.length = 65535 || (x.consumed = ibCount x.block && !x.row.isEmpty)

/-- A row that closes by itself placed, where there is room for it. -/
def State.closeRow (s : State) (x : Intake) : State :=
  if x.rowCloses && x.placeFree then let r := s.placeRow x; r.1.setIntake r.2 else s.setIntake x

/-- What delivery does for an intake of text: the head joins the row, a row that is full or that it does not fit is placed, and the
last row closes with the intake (R312). `none` where nothing can be done. -/
def State.deliverText (s : State) (x : Intake) : Option State :=
  let cap := ibMaxA x.block
  if x.rowCloses then (if x.placeFree then some (s.closeRow x) else none)
  else
  match x.buffer.find? (·.index = x.consumed) with
  | some o =>
    if !o.ready then none
    else
      let (s, x, p) := s.settleHead x o
      let x := { x with consumed := x.consumed + 1, buffer := x.buffer.filter (·.index != o.index) }
      let n := p.sample.values.length
      let s := if cap < n then s.bumpStat x.easel 5 else s
      let p := { p with sample := { p.sample with values := p.sample.values.take cap } }
      let m := p.sample.values.length
      if m = 0 then some (s.closeRow x)
      else if x.rowUsed + m ≤ cap then some (s.closeRow { x with row := x.row ++ [p] })
      else if x.placeFree then
        let r := s.placeRow x
        some (r.1.closeRow { r.2 with row := [p] })
      else none
  | none => none

/-- What delivery does for an intake of images or signals. -/
def State.deliverSample (s : State) (x : Intake) : Option State :=
  match x.buffer.find? (·.index = x.consumed) with
  | none => none
  | some o =>
    if !o.ready || !x.placeFree then none
    else
      let (s, x, p) := s.settleHead x o
      let x := { x with consumed := x.consumed + 1, buffer := x.buffer.filter (·.index != o.index) }
      some (s.place x p.lane (p.ordinal + 1) (s.outputBytes x p))

/-- What delivery does for an intake; `none` where nothing can be done. -/
def State.deliverNext (s : State) (x : Intake) : Option State := if isText (ibKind x.block) then s.deliverText x else s.deliverSample x

/-- Whether delivery from `s` to `s'` wrote anything: an output of the intake, or an entry of its log. -/
def Intake.wrote (x : Intake) (s' : State) : Bool :=
  match s'.primer.intakes.find? fun i => i.easel = x.easel && i.seq = x.seq with
  | some y => y.delivered != x.delivered || y.skips != x.skips
  | none => false

/-- The arbiters of the place of an intake's next output, from the base die of its first lane. -/
def State.outputArbs (s : State) (x : Intake) : List Arb :=
  let b := x.block
  let a := if ibMemory b then ibOut b + x.delivered * ibPitch b else ibOut b + x.delivered % max x.ring 1 * ibSlot b
  s.arbsVa (firstLane b / 16) x.easel a (largestTensor b + 64)

/-- PRIMER_OUTPUT_DELIVERY: of the first running intake of the easel that can deliver, through the arbiters of what it writes (R322, log
entry 125). -/
def execPrimerOutputDelivery (e : Nat) (s : State) : Host.Outcome State Fault Refusal :=
  match s.primer.intakes.find? fun x => x.easel = e && x.started && (s.deliverNext x).isSome with
  | some x =>
    let arbs := match s.deliverNext x with | some s' => if x.wrote s' then s.outputArbs x else [] | none => []
    .next (s.atArbiters (.output e x.seq) 16384 arbs fun s => (s.deliverNext x).getD s)
  | none => .next s

/-- INTAKE_COMPLETE (R303): every output is placed; the lanes are free, and their banks are published. -/
def execIntakeComplete (e : Nat) (s : State) : Host.Outcome State Fault Refusal :=
  match s.primer.intakes.find? fun x => x.easel = e && x.started && x.consumed = ibCount x.block && x.row.isEmpty with
  | none => .next s
  | some x =>
    match (s.easel e).cmds.find? (·.seq = x.seq) with
    | none => .next s
    | some c =>
      let mine := fun (l : Nat) => (ibLanes x.block).testBit l
      let s := { s with primer := { s.primer with
        intakes := s.primer.intakes.filter fun i => !(i.easel = e && i.seq = x.seq),
        banks := tmap (fun l b => if mine l then b.publish else b) s.primer.banks } }
      .next ((s.publishAt 0x06 e (tget [] s.primer.stats e)).finishCmd e c)

end Sys2Proof.Machine
end

