-- ==== Sys2Proof/Machine/Sketch.lean ====
section
/-! DEFINITION. The wait-for sketch (R472 to R474) and the commands to the trace units (R470, R471). -/

namespace Sys2Proof.Machine

/-! ### What the units publish (R472) -/

/-- The tiles of an easel's active sheet: panel, logical index, dense number. -/
def State.sketchTiles (s : State) (e : Nat) : List (Panel × Nat × Nat) :=
  match (s.easel e).sheetDef with
  | some d => d.panels.flatMap fun p => p.tiles.filterMap fun li => (s.denseOf e li).map fun t => (p, li, t)
  | none => []

/-- A tile's node. -/
def State.tileNode (s : State) (li t : Nat) : SketchNode :=
  let x := s.tile t
  ⟨1, physId (s.server t) + li * 65536, 0, if !x.running then 2 else if x.hold = .none then 0 else 1, x.pc⟩

/-- A stream issue's node. -/
def State.issueNode (s : State) (y : Issue) : SketchNode :=
  ⟨2, y.stream + s.logical y.easel y.tile * 65536, y.id + 1, 0, 0⟩

/-- A semaphore's node. -/
def semNode (d : SemDecl) (m : Sem) : SketchNode := ⟨3, d.id, 0, 0, m.count.toNat⟩

def remoteNode (position : Nat) : SketchNode := ⟨4, position % 2 ^ 20, 0, 0, 0⟩
def firingNode (f : Firing) : SketchNode := ⟨5, f.id + f.channel * 2 ^ 24, f.step, 0, 0⟩
def outputNode (i : Nat) : SketchNode := ⟨6, i % 2 ^ 32, 0, 0, 0⟩

/-- The primer output a stream issue waits for (R320). -/
def State.awaitedOutput (s : State) (y : Issue) : Option Nat :=
  match y.runs, (s.easel y.easel).stream y.stream with
  | r :: _, some d => (d.blocks[r.block]?).bind fun b => if y.gated && b.src = 7 then some (r.src / 2 ^ 24) else none
  | _, _ => none

/-- An edge as the join forms it: the two nodes, its kind, and the operand. -/
structure SketchEdge where
  src : SketchNode
  dst : SketchNode
  kind : Nat
  need : Nat
  deriving DecidableEq, Repr

/-- The node of who waits at a semaphore. -/
def State.waiterNode (s : State) (e : Nat) (w : Who) : Option SketchNode :=
  match w with
  | .tile t => some (s.tileNode (s.logical e t) t)
  | .issue i => (s.issue i).map s.issueNode
  | .gate i => (s.issue i).map s.issueNode
  | .reduction _ _ => none
  | .update _ _ => none

/-- Semaphores a tile's program signals, directly or through an issue's completion (R472): a signal to a far device is none of
this easel's. -/
def State.producedBy (s : State) (e : Nat) (d : Sheet) (p : Panel) (li : Nat) : List Nat :=
  let words := match d.programs.find? (·.1 = p.program) with | some q => q.2 | none => []
  words.flatMap fun w =>
    match decodeStage w.toNat with
    | some (.signal sem _ _) => [sem]
    | some (.issue stream _ _ _ _ _ sig sem) =>
      match (s.easel e).stream stream with
      | some t =>
        let far := match t.blocks.getLast? with | some b => b.dst = 5 | none => false
        let progress := t.blocks.flatMap fun b =>
          let q := b.payload
          if b.kind = 3 && wKind q = 3 && wProgress q then
            (match p.place li with | some rc => [wProgressBase q + rc.1 * p.cols + rc.2] | none => [])
          else []
        progress ++ (if sig = 1 && !far then [sem] else [])
      | none => []
    | _ => []

/-- Edges out of waiters and semaphores of an easel. -/
def State.semEdges (s : State) (e : Nat) : List SketchEdge :=
  match (s.easel e).sheetDef with
  | none => []
  | some d =>
    let tiles := s.sketchTiles e
    let made := tiles.map fun q => (q, s.producedBy e d q.1 q.2.1)
    d.sems.flatMap fun m =>
      match (s.easel e).semKey m with
      | none => []
      | some k =>
        let z := s.sem k
        let n := semNode m z
        let waits := fun (kind : Nat) (l : List Waiter) =>
          l.filterMap fun (w : Waiter) => (s.waiterNode e w.who).map fun a => ({ src := a, dst := n, kind, need := w.n } : SketchEdge)
        let producers := made.filter fun q => q.2.contains m.id && (s.tile q.1.2.2).running
        waits 1 z.queue ++ waits 2 z.values
          ++ (producers.map fun q => ({ src := n, dst := s.tileNode q.1.2.1 q.1.2.2, kind := 3, need := 0 } : SketchEdge))

/-- The firings of an easel that await shards or a verdict. -/
def Easel.waitingFirings (x : Easel) : List Firing := x.firings.filter fun f => !f.complete || (f.step != 0 && !x.decided f.step)

/-- Edges that lead outside the easel: remote responses, fences, shards, primer outputs. -/
def State.outEdges (s : State) (e : Nat) : List SketchEdge :=
  let mk := fun (a b : SketchNode) (kind : Nat) => ({ src := a, dst := b, kind, need := 0 } : SketchEdge)
  let x := s.easel e
  let remotes := (s.fabric.remotes.filter (·.easel = e)).filterMap fun r =>
    (r.issue.bind s.issue).map fun y => mk (s.issueNode y) (remoteNode r.packet.destination) 4
  let fences := (s.fabric.fences.filter fun f => s.holds e 7 f.channel).filterMap fun f =>
    match f.posted with
    | some (id, _, _) => (x.semDecl id).bind fun m => (x.semKey m).map fun k => mk (semNode m (s.sem k)) (remoteNode f.position) 4
    | none => none
  let shards := x.waitingFirings.map fun f => mk (firingNode f) (remoteNode (policy s (0x6110 + f.channel) 4)) 4
  let outputs := (s.streams.issues.filter (·.easel = e)).filterMap fun y => (s.awaitedOutput y).map fun i => mk (s.issueNode y) (outputNode i) 5
  remotes ++ fences ++ shards ++ outputs

def State.sketchEdges (s : State) (e : Nat) : List SketchEdge := s.semEdges e ++ s.outEdges e

/-- A list without what it repeats. -/
def distinct : List SketchNode → List SketchNode
  | [] => []
  | n :: t => n :: (distinct t).filter (· != n)

/-- The nodes of an easel: its tiles and semaphores, its waiting issues, and what lies outside it that is waited on; by kind. -/
def State.sketchNodes (s : State) (e : Nat) : List SketchNode :=
  let edges := s.sketchEdges e
  let ends := distinct (edges.flatMap fun d => [d.src, d.dst])
  let tiles := (s.sketchTiles e).map fun q => s.tileNode q.2.1 q.2.2
  let sems := match (s.easel e).sheetDef with
    | some d => d.sems.filterMap fun m => ((s.easel e).semKey m).map fun k => semNode m (s.sem k)
    | none => []
  let outer := fun (k : Nat) => ends.filter (·.kind = k)
  let far := (s.fabric.remotes.filter (·.easel = e)).map fun r => remoteNode r.packet.destination
  distinct tiles ++ outer 2 ++ distinct sems ++ distinct (outer 4 ++ far)
    ++ distinct ((s.easel e).waitingFirings.map firingNode ++ outer 5) ++ outer 6

/-! ### The join (R473, R474) -/

/-- Nodes reached from `front` along edges, `seen` among them; `fuel` bounds the length of a path. -/
def reachFrom (edges : List SketchEdge) : Nat → List SketchNode → List SketchNode
  | 0, seen => seen
  | fuel + 1, seen =>
    let more := distinct ((edges.filter fun d => seen.contains d.src && !seen.contains d.dst).map (·.dst))
    if more.isEmpty then seen else reachFrom edges fuel (seen ++ more)

/-- The edges of flagged cycles: both ends held the same state, and every semaphore the same count, in both publications, the
edge stays inside the easel, and its end leads back to its start (R474). -/
def cycleEdges (edges : List SketchEdge) (still : SketchNode → Bool) : List SketchEdge :=
  let inner := edges.filter fun d => decide (d.dst.kind ≤ 3) && still d.src && still d.dst
  inner.filter fun d => (reachFrom inner inner.length [d.dst]).contains d.src

/-- How many separate groups of nodes the flagged edges join (DESIGN CHOICE of what the cycle count counts, log entry 71). -/
def cycleGroups (cyc : List SketchEdge) : List SketchNode → Nat
  | [] => 0
  | n :: t => (if t.any fun m => (reachFrom cyc cyc.length [n]).contains m then 0 else 1) + cycleGroups cyc t

/-- A node's 16 bytes. -/
def nodeBytes (i : Nat) (n : SketchNode) (state : Nat) : List Byte :=
  leBytes 4 i ++ leBytes 1 n.kind ++ leBytes 1 state ++ leBytes 2 0 ++ leBytes 4 n.ident
    ++ leBytes 4 (if n.kind = 1 ∨ n.kind = 3 then n.value else 0)

/-- The sketch of an easel joined from both publications: its bytes, and the node and edge counts. -/
def State.joinSketch (s : State) (e : Nat) : List Byte × Nat × Nat :=
  let x := s.easel e
  let all := s.sketchNodes e
  let nodes := all.take 65536
  let edges := s.sketchEdges e
  let still := fun (n : SketchNode) => s.obs.firstState.contains n
  let cyc := cycleEdges edges still
  let kept := (edges.filter fun d => nodes.contains d.src && nodes.contains d.dst).take 262144
  let cut := decide (65536 < all.length) || decide (kept.length < edges.length)
  let stateOf := fun (n : SketchNode) => if n.kind = 1 then n.state else if n.kind = 3 && !still n then 1 else 0
  let head := leBytes 4 0x544B5351 ++ leBytes 2 0x0100 ++ leBytes 1 e ++ leBytes 1 (cut.toNat + (x.mode == .faulted).toNat * 2)
    ++ leBytes 4 nodes.length ++ leBytes 4 kept.length ++ leBytes 4 (cycleGroups cyc (distinct (cyc.flatMap fun d => [d.src, d.dst])))
    ++ leBytes 4 0 ++ leBytes 8 (x.lastSeq % 2 ^ 48)
  let edge := fun (d : SketchEdge) =>
    leBytes 4 (nodes.idxOf d.src) ++ leBytes 4 (nodes.idxOf d.dst) ++ leBytes 1 d.kind ++ leBytes 1 (cyc.contains d).toNat
      ++ leBytes 2 0 ++ leBytes 4 d.need
  (head ++ (nodes.zipIdx.flatMap fun p => nodeBytes p.2 p.1 (stateOf p.1)) ++ kept.flatMap edge, nodes.length, kept.length)

/-- The check of `sketch_build`: an easel number (RANGE else), no build under way (BUSY, Table 16-5), and the VBUS domain running
(R432). -/
def State.sketchCheck (s : State) (v : Nat) : Nat :=
  if 64 ≤ v then 0x07 else if s.obs.sketchEasel.isSome then 0x09 else if !s.vbusUp then 0x0A else 0

/-- The homes read the counts that they publish: one that differs from its complement is SEM_COMPLEMENT (R281). -/
def State.checkCounts (s : State) (e : Nat) : State :=
  match (s.easel e).sheetDef with
  | some d => d.sems.foldl (fun (s : State) m =>
      match (s.easel e).semKey m with
      | some k => if (s.sem k).sound then s else s.semComplement e m (s.sem k)
      | none => s) s
  | none => s

/-- SKETCH_BUILD: the units publish a first time. -/
def execSketchBuild (m : Msg) (s : State) : Host.Outcome State Fault Refusal :=
  if writes m 0xB000 3 then
    .next <| s.atCurator (.sketchBuild m) m fun s => (s.command m State.sketchCheck (fun s _ => s) fun s v =>
      ({ s with obs := { s.obs with sketchEasel := some v, firstState := s.sketchNodes v } }).checkCounts v)
  else .next s

/-- SKETCH_SECOND_PUBLICATION: the Curator joins both publications, replaces `sketch` whole and raises SKETCH_READY. -/
def execSketchSecondPublication (s : State) : Host.Outcome State Fault Refusal :=
  match s.obs.sketchEasel with
  | none => .next s
  | some e =>
    if !s.dict.running || !s.vbusUp then .next s
    else
      let r := s.joinSketch e
      let s := { s with obs := { s.obs with sketchEasel := none, firstState := [], sketch := r.1 } }
      .next ((s.report 0x0B02 e 0x0A 0 r.2.1 r.2.2).checkCounts e)

/-! ### Trace commands (R470, R471) -/

/-- The check of `trace_trigger` and `trace_arm`: bits 0 to 3 name the base dies (RANGE else). -/
def State.traceCheck (s : State) (v : Nat) : Nat := if 16 ≤ v then 0x07 else if !s.vbusUp then 0x0A else 0

/-- TRACE_TRIGGER: the policy word reaches each unit it names; the record names the easel that holds the sink. -/
def execTraceTrigger (m : Msg) (s : State) : Host.Outcome State Fault Refusal :=
  if writes m 0xB000 0x0A then
    .next <| s.atCurator (.traceTrigger m) m fun s => (s.command m State.traceCheck (fun s _ => s) fun s v =>
      ((List.range 4).filter v.testBit).foldl (fun (s : State) d =>
        let e := (s.traceUnit d).sink.2.1
        raiseAll (s.traceTake d e 0 (s.easel e).lastSeq)) s)
  else .next s

/-- TRACE_ARM. -/
def execTraceArm (m : Msg) (s : State) : Host.Outcome State Fault Refusal :=
  if writes m 0xB000 0x0B then
    .next <| s.atCurator (.traceArm m) m fun s => (s.command m State.traceCheck (fun s _ => s) fun s v => ((List.range 4).filter v.testBit).foldl State.armTrace s)
  else .next s

end Sys2Proof.Machine
end

