-- ==== Sys2Proof/Machine/Dispatch.lean ====
section
/-! DEFINITION. The effect of each command: one arm for each constructor, each one call of the command's meaning. -/

namespace Sys2Proof.Machine

def exec (i : Instr) (s : State) : Host.Outcome State Fault Refusal :=
  match i with
  | .endProg t => Sys2Proof.Machine.execEndProg t s
  | .loop t => Sys2Proof.Machine.execLoop t s
  | .br t => Sys2Proof.Machine.execBr t s
  | .seti t => Sys2Proof.Machine.execSeti t s
  | .sethi t => Sys2Proof.Machine.execSethi t s
  | .alu t => Sys2Proof.Machine.execAlu t s
  | .getslot t => Sys2Proof.Machine.execGetslot t s
  | .getctx t => Sys2Proof.Machine.execGetctx t s
  | .mma t => Sys2Proof.Machine.execMma t s
  | .vchain t errs => Sys2Proof.Machine.execVchain t errs s
  | .issue t => Sys2Proof.Machine.execIssue t s
  | .await t => Sys2Proof.Machine.execAwait t s
  | .mark t => Sys2Proof.Machine.execMark t s
  | .signal t => Sys2Proof.Machine.execSignal t s
  | .wait t => Sys2Proof.Machine.execWait t s
  | .waitv t => Sys2Proof.Machine.execWaitv t s
  | .fadd t => Sys2Proof.Machine.execFadd t s
  | .claim t => Sys2Proof.Machine.execClaim t s
  | .mmaComplete t errs => Sys2Proof.Machine.execMmaComplete t errs s
  | .vchainComplete t errs => Sys2Proof.Machine.execVchainComplete t errs s
  | .addrEnd n => Sys2Proof.Machine.execAddrEnd n s
  | .addrSeti n => Sys2Proof.Machine.execAddrSeti n s
  | .getv n => Sys2Proof.Machine.execGetv n s
  | .madd n => Sys2Proof.Machine.execMadd n s
  | .addi n => Sys2Proof.Machine.execAddi n s
  | .addrLoop n => Sys2Proof.Machine.execAddrLoop n s
  | .emit n => Sys2Proof.Machine.execEmit n s
  | .zero n => Sys2Proof.Machine.execZero n s
  | .streamRun n steps => Sys2Proof.Machine.execStreamRun n steps s
  | .arbiterGrant a => Sys2Proof.Machine.execArbiterGrant a s
  | .starvationGuardExpiry x => Sys2Proof.Machine.execStarvationGuardExpiry x s
  | .transferLand x err => Sys2Proof.Machine.execTransferLand x err s
  | .streamIssueComplete n => Sys2Proof.Machine.execStreamIssueComplete n s
  | .syncRequestArrival k => Sys2Proof.Machine.execSyncRequestArrival k s
  | .tileDone t => Sys2Proof.Machine.execTileDone t s
  | .commandEnd e => Sys2Proof.Machine.execCommandEnd e s
  | .descriptorTake e entry intact => Sys2Proof.Machine.execDescriptorTake e entry intact s
  | .commandDispatch e => Sys2Proof.Machine.execCommandDispatch e s
  | .runWork e => Sys2Proof.Machine.execRunWork e s
  | .loadCanvas e verified => Sys2Proof.Machine.execLoadCanvas e verified s
  | .canvasLoaded e us => Sys2Proof.Machine.execCanvasLoaded e us s
  | .sheetSwitch e => Sys2Proof.Machine.execSheetSwitch e s
  | .sheetSwitched e => Sys2Proof.Machine.execSheetSwitched e s
  | .reweight e => Sys2Proof.Machine.execReweight e s
  | .panelReweighted e us => Sys2Proof.Machine.execPanelReweighted e us s
  | .intake e errs => Sys2Proof.Machine.execIntake e s errs
  | .intakeStart e => Sys2Proof.Machine.execIntakeStart e s
  | .laneRecordTake l errs => Sys2Proof.Machine.execLaneRecordTake l errs s
  | .sampleSkippedBudget l => Sys2Proof.Machine.execSampleSkippedBudget l s
  | .sampleDecodeDone l errs => Sys2Proof.Machine.execSampleDecodeDone l s errs
  | .primerOutputDelivery e => Sys2Proof.Machine.execPrimerOutputDelivery e s
  | .intakeComplete e => Sys2Proof.Machine.execIntakeComplete e s
  | .update e => Sys2Proof.Machine.execUpdate e s
  | .updateApply e errs => Sys2Proof.Machine.execUpdateApply e errs s
  | .updateComplete e => Sys2Proof.Machine.execUpdateComplete e s
  | .exportImage e => Sys2Proof.Machine.execExportImage e s
  | .checkpointWritten e layer => Sys2Proof.Machine.execCheckpointWritten e layer s
  | .noOperation e => Sys2Proof.Machine.execNoOperation e s
  | .logEntryWrite e => Sys2Proof.Machine.execLogEntryWrite e s
  | .verdictWordSend e => Sys2Proof.Machine.execVerdictWordSend e s
  | .stepVerdict e => Sys2Proof.Machine.execStepVerdict e s
  | .verdictTimeout e => Sys2Proof.Machine.execVerdictTimeout e s
  | .reductionFire e r errs => Sys2Proof.Machine.execReductionFire e r errs s
  | .shardDelivery k => Sys2Proof.Machine.execShardDelivery k s
  | .reductionTimeout e r => Sys2Proof.Machine.execReductionTimeout e r s
  | .groupMaskSwitch v => Sys2Proof.Machine.execGroupMaskSwitch v s
  | .dataFlit p flit whole fec => Sys2Proof.Machine.execDataFlit p flit whole fec s
  | .nakFlit p flit whole fec => Sys2Proof.Machine.execNakFlit p flit whole fec s
  | .idleFlit p flit whole fec => Sys2Proof.Machine.execIdleFlit p flit whole fec s
  | .retryLimitReached p trained found => Sys2Proof.Machine.execRetryLimitReached p trained s found
  | .ackTimeout p trained found => Sys2Proof.Machine.execAckTimeout p trained s found
  | .serWindowEnd p lane errors trained found => Sys2Proof.Machine.execSerWindowEnd p lane errors trained s found
  | .portBringUp p lanes credits => Sys2Proof.Machine.execPortBringUp p lanes credits s
  | .linkParameters k => Sys2Proof.Machine.execLinkParameters k s
  | .positionAnnouncement k => Sys2Proof.Machine.execPositionAnnouncement k s
  | .fabricWrite k => Sys2Proof.Machine.execFabricWrite k s
  | .fabricReadRequest k => Sys2Proof.Machine.execFabricReadRequest k s
  | .fabricResponse k => Sys2Proof.Machine.execFabricResponse k s
  | .fabricSignal k => Sys2Proof.Machine.execFabricSignal k s
  | .postedSignal k => Sys2Proof.Machine.execPostedSignal k s
  | .fencePacketLanded k => Sys2Proof.Machine.execFencePacketLanded k s
  | .remoteSignalOrphan position channel tag => Sys2Proof.Machine.execRemoteSignalOrphan position channel tag s
  | .fenceKeyExpiry position channel tag => Sys2Proof.Machine.execFenceKeyExpiry position channel tag s
  | .remoteAccessTimeout tag => Sys2Proof.Machine.execRemoteAccessTimeout tag s
  | .fabricRefclkLost die => Sys2Proof.Machine.execFabricRefclkLost die s
  | .fabricRefclkReturn die => Sys2Proof.Machine.execFabricRefclkReturn die s
  | .read m => Sys2Proof.Machine.execRead m s
  | .write m => Sys2Proof.Machine.execWrite m s
  | .list m => Sys2Proof.Machine.execList m s
  | .blobStagingTimeout requester index sub => Sys2Proof.Machine.execBlobStagingTimeout requester index sub s
  | .transactionMemoryExpiry requester transaction => Sys2Proof.Machine.execTransactionMemoryExpiry requester transaction s
  | .faultLineRecord aged => Sys2Proof.Machine.execFaultLineRecord aged s
  | .bind m => Sys2Proof.Machine.execBind m s
  | .unbind m => Sys2Proof.Machine.execUnbind m s
  | .forcedUnbind m => Sys2Proof.Machine.execForcedUnbind m s
  | .move m => Sys2Proof.Machine.execMove m s
  | .forcedMove m => Sys2Proof.Machine.execForcedMove m s
  | .drainComplete => Sys2Proof.Machine.execDrainComplete s
  | .drainTimeout => Sys2Proof.Machine.execDrainTimeout s
  | .clearingComplete us => Sys2Proof.Machine.execClearingComplete us s
  | .easelReset m => Sys2Proof.Machine.execEaselReset m s
  | .restoreExecute m => Sys2Proof.Machine.execRestoreExecute m s
  | .takeoverExecute m => Sys2Proof.Machine.execTakeoverExecute m s
  | .spreadExecute m verified => Sys2Proof.Machine.execSpreadExecute m verified s
  | .keyEnrol m verified => Sys2Proof.Machine.execKeyEnrol m verified s
  | .keyRevoke m => Sys2Proof.Machine.execKeyRevoke m s
  | .tileSelftest m => Sys2Proof.Machine.execTileSelftest m s
  | .selftestComplete passed => Sys2Proof.Machine.execSelftestComplete passed s
  | .sketchBuild m => Sys2Proof.Machine.execSketchBuild m s
  | .sketchSecondPublication => Sys2Proof.Machine.execSketchSecondPublication s
  | .traceTrigger m => Sys2Proof.Machine.execTraceTrigger m s
  | .traceArm m => Sys2Proof.Machine.execTraceArm m s
  | .fwCommit m verified => Sys2Proof.Machine.execFwCommit m verified s
  | .fwConfirm m => Sys2Proof.Machine.execFwConfirm m s
  | .configCommit m verified => Sys2Proof.Machine.execConfigCommit m verified s
  | .vbusRestart m => Sys2Proof.Machine.execVbusRestart m s
  | .fabricPositionWrite m => Sys2Proof.Machine.execFabricPositionWrite m s
  | .getVersion q => Sys2Proof.Machine.execGetVersion q s
  | .getCapabilities q => Sys2Proof.Machine.execGetCapabilities q s
  | .negotiateAlgorithms q => Sys2Proof.Machine.execNegotiateAlgorithms q s
  | .getDigests q => Sys2Proof.Machine.execGetDigests q s
  | .getCertificate q => Sys2Proof.Machine.execGetCertificate q s
  | .challenge q => Sys2Proof.Machine.execChallenge q s
  | .getMeasurements q => Sys2Proof.Machine.execGetMeasurements q s
  | .keyExchange q slot proven => Sys2Proof.Machine.execKeyExchange q slot proven s
  | .finish q proven => Sys2Proof.Machine.execFinish q proven s
  | .keyUpdate q => Sys2Proof.Machine.execKeyUpdate q s
  | .heartbeat q => Sys2Proof.Machine.execHeartbeat q s
  | .endSession q => Sys2Proof.Machine.execEndSession q s
  | .neighborDiscovery target => Sys2Proof.Machine.execNeighborDiscovery target s
  | .i3cDynamicAddress address => Sys2Proof.Machine.execI3cDynamicAddress address s
  | .doorbell f q value => Sys2Proof.Machine.execDoorbell f q value s
  | .eventDoorbell f value => Sys2Proof.Machine.execEventDoorbell f value s
  | .queueEnable f q value => Sys2Proof.Machine.execQueueEnable f q value s
  | .queueDisable f q value => Sys2Proof.Machine.execQueueDisable f q value s
  | .registerWrite f offset size value => Sys2Proof.Machine.execRegisterWrite f offset size value s
  | .bar2Read f offset length errs => Sys2Proof.Machine.execBar2Read f offset length errs s
  | .bar2Write f offset bytes => Sys2Proof.Machine.execBar2Write f offset bytes s
  | .msixHoldoffExpiry f q => Sys2Proof.Machine.execMsixHoldoffExpiry f q s
  | .configRequest f r => Sys2Proof.Machine.execConfigRequest f r s
  | .flrVf e => Sys2Proof.Machine.execFlrVf e s
  | .flrPf => Sys2Proof.Machine.execFlrPf s
  | .vfDisable numVfs => Sys2Proof.Machine.execVfDisable numVfs s
  | .hotReset => Sys2Proof.Machine.execHotReset s
  | .perstAssert => Sys2Proof.Machine.execPerstAssert s
  | .perstDeassert => Sys2Proof.Machine.execPerstDeassert s
  | .pcieLinkDown => Sys2Proof.Machine.execPcieLinkDown s
  | .d3hotEntry f => Sys2Proof.Machine.execD3hotEntry f s
  | .d0Return f => Sys2Proof.Machine.execD0Return f s
  | .vauxPowerOn c => Sys2Proof.Machine.execVauxPowerOn c s
  | .vbusStartup => Sys2Proof.Machine.execVbusStartup s
  | .refclkArrival us failed later => Sys2Proof.Machine.execRefclkArrival us failed s later
  | .vbusLow mv => Sys2Proof.Machine.execVbusLow mv s
  | .vbusHigh mv => Sys2Proof.Machine.execVbusHigh mv s
  | .vbusCollapse mv => Sys2Proof.Machine.execVbusCollapse mv s
  | .vauxOutOfRange mv => Sys2Proof.Machine.execVauxOutOfRange mv s
  | .vioOutOfRange mv => Sys2Proof.Machine.execVioOutOfRange mv s
  | .powerStageFailed stage => Sys2Proof.Machine.execPowerStageFailed stage s
  | .powerStageFailedOutOfRating stage => Sys2Proof.Machine.execPowerStageFailedOutOfRating stage s
  | .limitNotMet mv => Sys2Proof.Machine.execLimitNotMet mv s
  | .pcieRefclkLost mv => Sys2Proof.Machine.execPcieRefclkLost mv s
  | .vbusCauseCleared => Sys2Proof.Machine.execVbusCauseCleared s
  | .powerLoopTick r => Sys2Proof.Machine.execPowerLoopTick r s
  | .thermalTrip die celsius => Sys2Proof.Machine.execThermalTrip die celsius s
  | .mreset c => Sys2Proof.Machine.execMreset c s
  | .mgtClkLost => Sys2Proof.Machine.execMgtClkLost s
  | .curatorRestart c down => Sys2Proof.Machine.execCuratorRestart c s down
  | .tileFailure t choice => Sys2Proof.Machine.execTileFailure t choice s
  | .spareTileFailure t => Sys2Proof.Machine.execSpareTileFailure t s
  | .tileRetire t choice => Sys2Proof.Machine.execTileRetire t choice s
  | .flashReadOnly die => Sys2Proof.Machine.execFlashReadOnly die s
  | .patrolRead address err newPeriod => Sys2Proof.Machine.execPatrolRead address err newPeriod s
  | .pcSample t => Sys2Proof.Machine.execPcSample t s
  | .counterPublication cls unit => Sys2Proof.Machine.execCounterPublication cls unit s
  | .deviceCounterPublication cls unit => Sys2Proof.Machine.execDeviceCounterPublication cls unit s
  | .pcieLinkUp generation width => Sys2Proof.Machine.execPcieLinkUp generation width s
  | .vioPresent perstAsserted => Sys2Proof.Machine.execVioPresent perstAsserted s
  | .mgtClkReturn => Sys2Proof.Machine.execMgtClkReturn s

end Sys2Proof.Machine
end

