-- ==== Sys2Proof/Safety.lean ====
section
/-! DEFINITION. What counts as a safe run, and the words the statements are written in: a command that completes, and what
it leaves alone. -/

namespace Sys2Proof

/-- The byte memories are in canonical form. -/
def MemoriesCanonical (s : Machine.State) : Prop :=
  Machine.Memory.wf s.mem = true ∧ Machine.Memory.wf s.flash = true

/-- Every semaphore is stored with its complement (R281). -/
def SemaphoresSound (s : Machine.State) : Prop := ∀ p ∈ s.sems, p.2.sound = true

/-- A step that answers a next state. -/
def Goes (s : Machine.State) : Prop := ∃ s', Machine.step s = .next s'

/-- `k` steps from `s` answer a next state. -/
def SafeFor (k : Nat) (s : Machine.State) : Prop :=
  match k with
  | 0 => True
  | n + 1 => ∃ s', Machine.step s = .next s' ∧ SafeFor n s'

/-- Command `c` at `s` answers a next state, and `P` holds of it. -/
def Completes (c : Instr) (s : Machine.State) (P : Machine.State → Prop) : Prop :=
  ∃ s', Machine.exec c s = .next s' ∧ P s'

/-- Nothing differs but what tile `t` holds. -/
def OnlyTile (t : Nat) (s s' : Machine.State) : Prop := s' = s.setTile t (s'.tile t)

/-- Nothing differs but what easel `e` holds. -/
def OnlyEasel (e : Nat) (s s' : Machine.State) : Prop := s' = s.setEasel e (s'.easel e)

/-- Every place of Table 10-2 and of the flash reads as before, poison among it. -/
def MemoryKept (s s' : Machine.State) : Prop := (∀ a n, s'.readAt a n = s.readAt a n) ∧ s'.poison = s.poison

/-- The index registers of the loops a tile is in (R96). -/
def indexes (x : Machine.Tile) : List Nat := x.loops.map (·.index)

/-- The word at the PC of a tile ends no loop body it is in. -/
def MidBody (x : Machine.Tile) : Prop := ∀ f ∈ x.loops, x.pc ≠ f.last

end Sys2Proof
end

