-- ==== Sys2Proof/Certificates/Slice0/Obligations.lean ====
section
/-! DEFINITION. The statements about the model: what each command does in the next state it answers, what it leaves alone, and
what every command keeps. `Completes c s P` says that command `c` at `s` answers a next state of which `P` holds. -/

open Sys2Proof Sys2Proof.Machine

/-- Command `c` is an access of unit `w` through the arbiters `arbs` (R265): with all of them passed, or none to pass, it takes effect, and
`P t s'` holds of the state `t` that its request has left and the next state `s'`; not yet asked for, it leaves a request of that slack; and
until it is granted it changes nothing. -/
def ThroughArbiters (c : Instr) (s : State) (w : Asker) (slack : Nat) (arbs : List Arb) (P : State → State → Prop) : Prop :=
  (∀ q, s.asked w = some q → q.arbs = [] → Completes c s (P (s.unask (· == w)))) ∧
  (s.asked w = none → arbs = [] → Completes c s (P s)) ∧
  (s.asked w = none → arbs ≠ [] → exec c s = .next (s.ask w slack arbs)) ∧
  (∀ q, s.asked w = some q → q.arbs ≠ [] → exec c s = .next s)

/-! ### The block -/

/-- A step takes the command at the front of the queue and runs it with the queue's rest. With no command waiting there it runs the oldest
request that waits for the Curator (R431), and with none of those it changes nothing (the model's choices, log entry 8). -/
def Obligations.StepRunsFront : Prop :=
  (∀ (c : Instr) (rest : List Instr) (s : State), step { s with pending := c :: rest } = exec c { s with pending := rest }) ∧
  (∀ (s t : State) (c : Instr) (rest : List Instr), s.pending = [] → s.dict.running = true → s.dict.waiting = c :: rest →
    t = { s with dict := { s.dict with waiting := rest, turn := true } } → step s = exec c t) ∧
  (∀ s : State, s.pending = [] → (s.dict.waiting = [] ∨ s.dict.running = false) → step s = .next s)

/-- What the device is before any supply is present: nothing in memory, every easel FREE, every tile idle with registers at zero,
every semaphore at count zero, PERST_N asserted, no port up. Values the manual does not give are log entry 5's. -/
def Obligations.ResetLeaves : Prop :=
  (∀ a n, State.reset.readAt a n = List.replicate n 0) ∧ State.reset.poison = [] ∧ State.reset.pending = [] ∧
  (∀ e, (State.reset.easel e).mode = .free ∧ (State.reset.easel e).canvas = none ∧ (State.reset.easel e).cmds = []) ∧
  (∀ t r, (State.reset.tile t).running = false ∧ (State.reset.tile t).reg r = 0) ∧
  (∀ k, (State.reset.sem k).count = 0 ∧ (State.reset.sem k).sound = true) ∧
  State.reset.bind.table = [] ∧ State.reset.power.vbusState = 0 ∧ State.reset.host.perst = true ∧
  (∀ p, (State.reset.port p).up = false)

/-- At reset the memories are canonical and every semaphore is stored with its complement. -/
def Obligations.InvariantsAtReset : Prop := MemoriesCanonical State.reset ∧ SemaphoresSound State.reset

/-- Every step keeps the memories in canonical form, from every state that has them so. -/
def Obligations.MemoriesCanonicalKept : Prop :=
  ∀ s s' : State, MemoriesCanonical s → step s = .next s' → MemoriesCanonical s'

/-- Every step keeps every semaphore stored with its complement (R281). -/
def Obligations.SemaphoresSoundKept : Prop := ∀ s s' : State, SemaphoresSound s → step s = .next s' → SemaphoresSound s'

/-- No command stops the device, and none touches the queue of commands that wait: each answers a next state with the same queue,
whatever the state. -/
def Obligations.EveryCommandGoesOn : Prop := ∀ (c : Instr) (s : State), Completes c s fun s' => s'.pending = s.pending

/-! ### Words of stage programs and address programs -/

/-- Every instruction whose fields are in range is the one its word decodes to (Tables 4-2 to 4-16). -/
def StageWordsRoundTrip : Prop :=
  ∀ o : TileOp, o.wf = true → encodeStage o < 2 ^ 64 ∧ decodeStage (encodeStage o) = some o

/-- A word that decodes is the word of the instruction it decodes to, so no two words mean one instruction and a word with a
non-zero reserved field or a reserved code decodes to none (R94). -/
def StageWordsExact : Prop :=
  ∀ (w : Nat) (o : TileOp), w < 2 ^ 64 → decodeStage w = some o → o.wf = true ∧ encodeStage o = w

/-- The words of stage programs and their instructions are in one-to-one correspondence (R94, Tables 4-2 to 4-16). -/
def Obligations.StageWords : Prop := StageWordsRoundTrip ∧ StageWordsExact

/-- Every address-program instruction whose fields are in range is the one its word decodes to (Table 10-7). -/
def Obligations.AddressWordsRoundTrip : Prop :=
  ∀ o : AddrOp, o.wf = true → encodeAddr o < 2 ^ 64 ∧ decodeAddr (encodeAddr o) = some o

/-- Words written out from Tables 4-2 to 4-16 and 10-7, the address-program words of the manual's own example among them. -/
def Obligations.WordsDecode : Prop :=
  decodeStage 0x0000000000000000 = some .fin ∧
  decodeStage 0x0051001000000028 = some (.loop 1 1 2 5) ∧
  decodeStage 0x0088C00000008003 = some (.br 2 1 2 4 3) ∧
  decodeStage 0x00C4000000000400 = some (.seti 1 1024) ∧
  decodeStage 0x0148860000000E00 = some (.alu 2 2 1 1 7) ∧
  decodeStage 0x1000440801088100 = some (.mma 1 1 2 0 4 2 2 0 0 1) ∧
  decodeStage 0x3000508003400240 = some (.issue 5 0 8 0 3 0 1 9) ∧
  decodeStage 0x4000024000000020 = none ∧
  decodeStage 0x4000026000000020 = some (.signal 9 1 1) ∧
  decodeStage 0x0200000000000000 = none ∧ decodeStage 0x6000000000000000 = none ∧
  decodeAddr 0x3030000000000400 = some (.madd 0 0 6 1024) ∧
  decodeAddr 0x1400000000000400 = some (.seti 2 1024) ∧
  decodeAddr 0x2600000040000005 = some (.getv 3 (2 * 2 ^ 29 + 5)) ∧
  decodeAddr 0x5620000000000000 = some (.loop 3 2) ∧
  decodeAddr 0x6052000000000000 = some (.emit 0 1 2 0 1) ∧
  decodeAddr 0x0000000000000000 = some .fin ∧ decodeAddr 0x0000000000000001 = none

/-! ### Memory -/

/-- Bytes stored within one page are read back from there, and every other byte reads as before (R249 splits ranges at pages). -/
def MemoryStores : Prop :=
  ∀ (s : State) (a : Nat) (bs : List Byte), MemoriesCanonical s → a % pageBytes + bs.length ≤ pageBytes →
    (s.writeAt a bs).readAt a bs.length = bs ∧
    ∀ b, (b < a ∨ a + bs.length ≤ b) → (s.writeAt a bs).readAt b 1 = s.readAt b 1

/-- A page of DRAM that was never written reads as zeros, and a store to it sets its page-written bit (R56). -/
def Obligations.UnwrittenPageReadsZero : Prop :=
  (∀ (s : State) (a n : Nat), isDram a = true → a / pageBytes ∉ s.tiers.written → s.readAt a n = List.replicate n 0) ∧
  (∀ (s : State) (a : Nat) (bs : List Byte), isDram a = true → bs ≠ [] →
    a / pageBytes ∈ (s.writeAt a bs).tiers.written ∧ ∀ q, q ≠ a / pageBytes →
      (q ∈ (s.writeAt a bs).tiers.written ↔ q ∈ s.tiers.written))

/-- A mark of poison is found in every range that meets it, and in flash in every range that meets its 64 KiB block; a store of its word
takes it away, but a store of part of a word or block does not (R267, R269). -/
def PoisonMarkedAndCleared : Prop :=
  (∀ (s : State) (a n b m : Nat), 0 < n → a < b + m → b < a + n → 0 < m → (s.setPoison a n).poisoned b m = true) ∧
  (∀ (s : State) (a n b m : Nat), 0 < n → 0 < m → flashBase ≤ a → a / 65536 = b / 65536 → (s.setPoison a n).poisoned b m = true) ∧
  (∀ (s : State) (a : Nat) (bs : List Byte), a % 8 = 0 → bs.length % 8 = 0 → a + bs.length ≤ flashBase →
    (s.writeAt a bs).poisoned a bs.length = false) ∧
  (∀ (s : State) (a b m : Nat) (bs : List Byte), 0 < m → b / 8 = a / 8 → a + bs.length < a / 8 * 8 + 8 → b + m ≤ a / 8 * 8 + 8 →
    (s.writeAt a bs).poisoned b m = s.poisoned b m) ∧
  (∀ (s : State) (a b m : Nat) (bs : List Byte), a % 8 = 0 → bs.length % 8 = 0 → (b + m ≤ a / 8 * 8 ∨ a + bs.length ≤ b / 8 * 8) →
    (s.writeAt a bs).poisoned b m = s.poisoned b m)

/-- Bytes stored in memory are read back and change no other byte; poison is marked and cleared by words (R249, R269). -/
def Obligations.MemoryAndPoison : Prop := MemoryStores ∧ PoisonMarkedAndCleared

/-- An easel virtual address is at the device page the binding table places there, and nowhere where it places none (R249). -/
def Obligations.TranslationFollowsBinding : Prop :=
  (∀ (s : State) (e va : Nat) (x : Extent), x ∈ s.bind.table → x.easel = e → (x.cls = 2 ∨ x.cls = 3) → va < 2 ^ 48 →
    x.place ≤ va / pageBytes → va / pageBytes < x.place + x.count →
    (∀ y ∈ s.bind.table, y.easel = e → (y.cls = 2 ∨ y.cls = 3) → y.place ≤ va / pageBytes → va / pageBytes < y.place + y.count → y = x) →
    s.translate e va = some ((if x.cls = 2 then 0 else lpddrBase) + (x.first + (va / pageBytes - x.place)) * pageBytes + va % pageBytes)) ∧
  (∀ (s : State) (e va : Nat),
    (∀ y ∈ s.bind.table, y.easel = e → (y.cls = 2 ∨ y.cls = 3) → ¬(y.place ≤ va / pageBytes ∧ va / pageBytes < y.place + y.count)) →
    s.translate e va = none)

/-! ### Control instructions -/

/-- What register `r` of `x` reads as once `v` is written to register `d`: s0 takes no write (R92). -/
def wrote (x : Tile) (d : Nat) (v : Word64) (r : Nat) : Word64 := if r = d ∧ r ≠ 0 then v else x.reg r

/-- Tile `y` is tile `x` past the instruction at its PC, which wrote `v` to register `d`: within a body the PC moves on by one word;
at the last word of a body the next iteration starts with its index, or after the last one execution continues behind it (R96). -/
def Advances (x y : Tile) (d : Nat) (v : Word64) : Prop :=
  y.program = x.program ∧ y.running = x.running ∧ y.ended = x.ended ∧ y.hold = .none ∧
  (MidBody x → y.pc = x.pc + 1 ∧ y.loops = x.loops ∧ ∀ r, y.reg r = wrote x d v r) ∧
  (∀ f fs, x.loops = f :: fs → x.pc = f.last →
    (f.iter + 1 < f.count → y.pc = f.first ∧ y.loops = { f with iter := f.iter + 1 } :: fs ∧
      (f.index ≠ 0 → y.reg f.index = BitVec.ofNat 64 (f.iter + 1)) ∧ ∀ r, r ≠ f.index → y.reg r = wrote x d v r) ∧
    (f.count ≤ f.iter + 1 → (∀ g ∈ fs, g.last ≠ f.last) →
      y.pc = x.pc + 1 ∧ y.loops = fs ∧ ∀ r, y.reg r = wrote x d v r)) ∧
  (∀ r, r ∉ indexes x → y.reg r = wrote x d v r)

/-- The queues of a tile are as before. -/
def QueuesKept (x y : Tile) : Prop := y.arrayQ = x.arrayQ ∧ y.vecQ = x.vecQ ∧ y.order = x.order

/-- The next state of a scalar instruction that writes `v` to register `d`. -/
def ScalarDone (t d : Nat) (v : Word64) (s s' : State) : Prop :=
  OnlyTile t s s' ∧ Advances (s.tile t) (s'.tile t) d v ∧ QueuesKept (s.tile t) (s'.tile t)

/-- `seti`, `sethi`, `getslot` and `getctx` write their result and move on; nothing but their tile changes; s0 reads as zero (R92, R95). -/
def Obligations.ScalarInstructions : Prop :=
  ∀ (s : State) (t : Nat) (k : TileCtx), (s.tile t).reg 0 = 0 ∧
    (∀ d imm, s.fetch t = some (k, .seti d imm) → Completes (.seti t) s (ScalarDone t d (BitVec.ofNat 64 imm) s)) ∧
    (∀ d imm, s.fetch t = some (k, .sethi d imm) →
      Completes (.sethi t) s (ScalarDone t d (BitVec.ofNat 64 (((s.tile t).reg d).toNat % 2 ^ 48 + imm * 2 ^ 48)) s)) ∧
    (∀ d slot, s.fetch t = some (k, .getslot d slot) →
      Completes (.getslot t) s (ScalarDone t d (BitVec.ofNat 64 (k.slots.getD slot 0)) s)) ∧
    (∀ d item, s.fetch t = some (k, .getctx d item) → Completes (.getctx t) s (ScalarDone t d (BitVec.ofNat 64 (k.item item)) s))

/-- `alu` writes its function of a and b, faults on nothing, and moves on; nothing but its tile changes. Its functions on all operands, division by
zero among them (R98, Table 4-7). -/
def Obligations.AluFunctions : Prop :=
  (∀ (s : State) (t : Nat) (k : TileCtx) (d a func imm b : Nat), s.fetch t = some (k, .alu d a func imm b) →
    Completes (.alu t) s (ScalarDone t d
      (aluValue func ((s.tile t).reg a) (if imm = 1 then BitVec.ofNat 64 b else (s.tile t).reg (b / 2 ^ 28))) s)) ∧
  ∀ a b : Word64,
    (aluValue 0 a b).toNat = (a.toNat + b.toNat) % 2 ^ 64 ∧
    (aluValue 1 a b).toNat = (a.toNat + 2 ^ 64 - b.toNat) % 2 ^ 64 ∧
    (aluValue 2 a b).toNat = a.toNat * b.toNat % 2 ^ 64 ∧
    (aluValue 3 a b).toNat = (if b = 0 then 0 else a.toNat / b.toNat) ∧
    (aluValue 4 a b).toNat = (if b = 0 then 0 else (a.toNat + b.toNat - 1) / b.toNat) ∧
    (aluValue 5 a b).toNat = (if b = 0 then 0 else a.toNat % b.toNat) ∧
    (aluValue 6 a b).toNat = min a.toNat b.toNat ∧ (aluValue 7 a b).toNat = max a.toNat b.toNat ∧
    (∀ i, (aluValue 8 a b).getLsbD i = (a.getLsbD i && b.getLsbD i)) ∧
    (∀ i, (aluValue 9 a b).getLsbD i = (a.getLsbD i || b.getLsbD i)) ∧
    (∀ i, (aluValue 10 a b).getLsbD i = (a.getLsbD i ^^ b.getLsbD i)) ∧
    (aluValue 11 a b).toNat = a.toNat * 2 ^ (b.toNat % 64) % 2 ^ 64 ∧
    (aluValue 12 a b).toNat = a.toNat / 2 ^ (b.toNat % 64) ∧
    (aluValue 13 a b).toInt = a.toInt / 2 ^ (b.toNat % 64) ∧
    (aluValue 14 a b).toNat = (if a.toNat < b.toNat then 1 else 0) ∧
    (aluValue 15 a b).toNat = (if a.toInt < b.toInt then 1 else 0)

/-- `end`, `loop` and `br` (R96, R97, R99): nothing but the tile changes; a loop reads its count once, and with count 0 goes past its
body with the index register unchanged; a branch is taken when its condition holds. -/
def LoopsAndBranches : Prop :=
  ∀ (s : State) (t : Nat) (k : TileCtx),
    (s.fetch t = some (k, .fin) → Completes (.endProg t) s fun s' => OnlyTile t s s' ∧ (s'.tile t).ended = true ∧
      (s'.tile t).running = (s.tile t).running ∧ (s'.tile t).regs = (s.tile t).regs ∧ QueuesKept (s.tile t) (s'.tile t)) ∧
    (∀ src index body operand, s.fetch t = some (k, .loop src index body operand) →
      ∀ n, n = (if src = 0 then ((s.tile t).reg (operand % 16)).toNat else if src = 1 then operand else k.slots.getD (operand % 256) 0) →
      Completes (.loop t) s fun s' => OnlyTile t s s' ∧ QueuesKept (s.tile t) (s'.tile t) ∧
        (0 < n → (s'.tile t).pc = (s.tile t).pc + 1 ∧ (∀ r, (s'.tile t).reg r = wrote (s.tile t) index 0 r) ∧
          (s'.tile t).loops = ⟨(s.tile t).pc + 1, (s.tile t).pc + body, n, 0, index⟩ :: (s.tile t).loops) ∧
        (n = 0 → (∀ f ∈ (s.tile t).loops, f.last ≠ (s.tile t).pc + body) →
          (s'.tile t).pc = (s.tile t).pc + body + 1 ∧ (s'.tile t).loops = (s.tile t).loops ∧
          ∀ r, (s'.tile t).reg r = (s.tile t).reg r)) ∧
    (∀ a cond kind b target, s.fetch t = some (k, .br a cond kind b target) →
      ∀ v, v = (if kind = 0 then (s.tile t).reg (b % 16) else if kind = 1 then (BitVec.ofNat 32 b).signExtend 64
                else BitVec.ofNat 64 (k.slots.getD (b % 256) 0)) →
      ∀ u, u = (s.tile t).reg a →
      ∀ taken : Prop, (taken ↔ cond = 0 ∨ (cond = 1 ∧ u = v) ∨ (cond = 2 ∧ u ≠ v) ∨ (cond = 3 ∧ u.toNat < v.toNat) ∨
        (cond = 4 ∧ v.toNat ≤ u.toNat) ∨ (cond = 5 ∧ u.toInt < v.toInt) ∨ (cond = 6 ∧ v.toInt ≤ u.toInt)) →
      Completes (.br t) s fun s' => OnlyTile t s s' ∧ QueuesKept (s.tile t) (s'.tile t) ∧
        (taken → (∀ f ∈ (s.tile t).loops, target ≠ f.last + 1) → (s'.tile t).pc = target ∧ (s'.tile t).loops = (s.tile t).loops ∧
          ∀ r, (s'.tile t).reg r = (s.tile t).reg r) ∧
        (¬taken → Advances (s.tile t) (s'.tile t) 0 0))

/-- A tile that has ended is done once all it issued has completed (R99); only that tile changes. -/
def TileIsDone : Prop :=
  ∀ (s : State) (t : Nat), (s.tile t).running = true → (s.tile t).ended = true →
    (((s.tile t).arrayQ = [] ∧ (s.tile t).vecQ = [] ∧ ∀ y ∈ s.streams.issues, y.tile ≠ t) →
      Completes (.tileDone t) s fun s' => OnlyTile t s s' ∧ (s'.tile t).running = false) ∧
    (((s.tile t).arrayQ ≠ [] ∨ (s.tile t).vecQ ≠ [] ∨ ∃ y ∈ s.streams.issues, y.tile = t) → exec (.tileDone t) s = .next s)

/-- `end`, `loop` and `br`, and the tile that is done (R96, R97, R99). -/
def Obligations.ControlInstructions : Prop := LoopsAndBranches ∧ TileIsDone

/-! ### Signals, semaphores and work counters -/

/-- The value of an operand that is an immediate or a register in its top four bits (Tables 4-15 and 4-16). -/
def operandOf (x : Tile) (imm operand : Nat) : Nat := if imm = 1 then operand else (x.reg (operand / 2 ^ 28)).toNat

/-- The request that tile `t` sends: its easel, the semaphore, the operand, and the program order of what must have completed before
a signal of its (R115). -/
def tileRequest (s : State) (k : TileCtx) (t : Nat) (kind : SyncKind) (sem n : Nat) : SyncReq :=
  { kind, easel := k.e, sem, n, who := .tile t, after := (s.tile t).order, unitClass := 4, unitId := s.tileUnit k.e t }

/-- `signal`, `wait` and `waitv` at issue (R110): a request leaves the tile; with operand 0 none does and the instruction completes; a
signal moves on at once, a wait holds its tile at its PC. Nothing but the tile and the requests on their way changes. -/
def SyncAtIssue : Prop :=
  ∀ (s : State) (t : Nat) (k : TileCtx) (sem imm operand n : Nat), n = operandOf (s.tile t) imm operand →
    (s.fetch t = some (k, .signal sem imm operand) → Completes (.signal t) s fun s' =>
      s' = { s with net := if n = 0 then s.net else s.net ++ [tileRequest s k t .signal sem n] }.setTile t (s'.tile t) ∧
      Advances (s.tile t) (s'.tile t) 0 0 ∧ QueuesKept (s.tile t) (s'.tile t)) ∧
    (s.fetch t = some (k, .wait sem imm operand) →
      (n = 0 → Completes (.wait t) s (ScalarDone t 0 0 s)) ∧
      (∀ d, k.x.semDecl sem = some d → 0 < n → n ≤ d.max → Completes (.wait t) s fun s' =>
        s' = { s with net := s.net ++ [tileRequest s k t .wait sem n] }.setTile t { s.tile t with hold := .sem })) ∧
    (s.fetch t = some (k, .waitv sem imm operand) →
      (n = 0 → Completes (.waitv t) s (ScalarDone t 0 0 s)) ∧
      (∀ d, k.x.semDecl sem = some d → 0 < n → n ≤ d.max → Completes (.waitv t) s fun s' =>
        s' = { s with net := s.net ++ [tileRequest s k t .waitv sem n] }.setTile t { s.tile t with hold := .value }))

/-- `fadd` returns the old value and adds (R295); `claim` returns 1 and sets the ticket's bit where it was clear. Nothing but the tile and the
counter changes, and of the counter only what the instruction names. A ticket claimed before gives 0, changes no counter and is counted
(R298, R299). -/
def CountersAndClaims : Prop :=
  ∀ (s : State) (t : Nat) (k : TileCtx) (d w : Nat),
    (∀ imm operand n, s.fetch t = some (k, .fadd d w imm operand) → n = operandOf (s.tile t) imm operand →
      (s.counter w).value + n ≤ 0xFFFFFFFF → Completes (.fadd t) s fun s' =>
        s' = { s with counters := s'.counters }.setTile t (s'.tile t) ∧
        Advances (s.tile t) (s'.tile t) d (BitVec.ofNat 64 (s.counter w).value) ∧ QueuesKept (s.tile t) (s'.tile t) ∧
        (s'.counter w).value = (s.counter w).value + n ∧ (s'.counter w).claimed = (s.counter w).claimed ∧
        ∀ v, v ≠ w → s'.counter v = s.counter v) ∧
    (∀ r c ticket, s.fetch t = some (k, .claim d w r) → ticket = ((s.tile t).reg r).toNat → k.x.ctrDecl w = some c →
      ticket < c.bitmap → ticket ∉ (s.counter w).claimed → Completes (.claim t) s fun s' =>
        s' = { s with counters := s'.counters }.setTile t (s'.tile t) ∧
        Advances (s.tile t) (s'.tile t) d 1 ∧ QueuesKept (s.tile t) (s'.tile t) ∧
        (s'.counter w).value = (s.counter w).value ∧
        (∀ j, j ∈ (s'.counter w).claimed ↔ j = ticket ∨ j ∈ (s.counter w).claimed) ∧
        ∀ v, v ≠ w → s'.counter v = s.counter v) ∧
    (∀ r c ticket, s.fetch t = some (k, .claim d w r) → ticket = ((s.tile t).reg r).toNat → k.x.ctrDecl w = some c →
      ticket < c.bitmap → ticket ∈ (s.counter w).claimed → Completes (.claim t) s fun s' =>
        s'.counters = s.counters ∧ Advances (s.tile t) (s'.tile t) d 0 ∧ QueuesKept (s.tile t) (s'.tile t) ∧
        (s'.easel k.e).ticketDups = min (2 ^ 64 - 1) ((s.easel k.e).ticketDups + 1))

/-- The synchronization instructions of a tile: signals and waits leave as requests, work counters and claims act at once, a second claim of
a ticket receiving 0 (R110, R298). -/
def Obligations.SyncInstructions : Prop := SyncAtIssue ∧ CountersAndClaims

/-- Request `k` on its way reaches its home, semaphore `m` under key `key` (R277): a signal adds its n and releases in the order of
`GrantOrder`; a wait is granted where no one waits before it and the count holds its n, else it joins the queue; a value wait is
released where the count has reached v, else it joins the value waiters. No other semaphore and no byte of memory changes. -/
def Obligations.RequestAtHome : Prop :=
  ∀ (s : State) (k key : Nat) (r : SyncReq) (d : SemDecl) (m : Sem), s.net[k]? = some r → s.arrivable k r = true →
    (s.easel r.easel).semDecl r.sem = some d → (s.easel r.easel).semKey d = some key → m = s.sem key → m.sound = true →
    (r.kind = .signal → 0 < r.n → r.n ≤ 0xFFFFFFFF → m.count.toNat + r.n ≤ m.max → Completes (.syncRequestArrival k) s fun s' =>
      s'.sems = tset s.sems key (m.signal r.n).1 ∧ s'.net = s.net.take k ++ s.net.drop (k + 1) ∧ MemoryKept s s' ∧
      (m.queue = [] → m.values = [] → s' = { s with net := s'.net, sems := s'.sems } ∧
        (s'.sem key).count.toNat = (m.count.toNat + r.n) % 2 ^ 32 ∧ (s'.sem key).sound = true)) ∧
    (r.kind = .wait → m.queue = [] → r.n ≤ m.count.toNat → Completes (.syncRequestArrival k) s fun s' =>
      s'.sems = tset s.sems key { m with count := m.count - BitVec.ofNat 32 r.n, comp := ~~~ (m.count - BitVec.ofNat 32 r.n) } ∧
      MemoryKept s s' ∧ ∀ t, r.who = .tile t → Advances (s.tile t) (s'.tile t) 0 0) ∧
    (r.kind = .wait → (m.queue ≠ [] ∨ m.count.toNat < r.n) → Completes (.syncRequestArrival k) s fun s' =>
      s' = { s with net := s'.net, sems := tset s.sems key { m with queue := m.queue ++ [⟨r.who, r.n⟩] } }) ∧
    (r.kind = .waitv → r.n ≤ m.count.toNat → Completes (.syncRequestArrival k) s fun s' =>
      s'.sems = s.sems ∧ MemoryKept s s' ∧ ∀ t, r.who = .tile t → Advances (s.tile t) (s'.tile t) 0 0) ∧
    (r.kind = .waitv → m.count.toNat < r.n → Completes (.syncRequestArrival k) s fun s' =>
      s' = { s with net := s'.net, sems := tset s.sems key { m with values := m.values ++ [⟨r.who, r.n⟩] } })

/-- A signal of n to a semaphore that can take it: the value waiters released are those whose v the count has reached; the consuming
waiters granted are the first of the queue, in order, and take what they asked; the one now at the head asks for more than is left, and
holds back all behind it. A signal of 1 grants one wait for 1 and no more. A wait that is granted releases no value waiter (R278, R279). -/
def Obligations.GrantOrder : Prop :=
  (∀ (m : Sem) (n : Nat), m.count.toNat + n < 2 ^ 32 →
    ∃ granted : List Waiter, (m.signal n).2 = m.values.filter (fun w => decide (w.n ≤ m.count.toNat + n)) ++ granted ∧
      m.queue = granted ++ (m.signal n).1.queue ∧
      (m.signal n).1.count.toNat + (granted.map (·.n)).sum = m.count.toNat + n ∧
      (∀ w ws, (m.signal n).1.queue = w :: ws → (m.signal n).1.count.toNat < w.n) ∧
      (m.signal n).1.values = m.values.filter (fun w => decide (m.count.toNat + n < w.n)) ∧ (m.signal n).1.sound = true) ∧
  (∀ (m : Sem) (w : Waiter) (ws : List Waiter), m.queue = w :: ws → m.count = 0 → w.n = 1 → (∀ x ∈ ws, 0 < x.n) →
    (m.signal 1).1.queue = ws ∧ (m.signal 1).1.count = 0) ∧
  (∀ (s : State) (k key : Nat) (r : SyncReq) (d : SemDecl), s.net[k]? = some r → s.arrivable k r = true → r.kind = .wait →
    (s.easel r.easel).semDecl r.sem = some d → (s.easel r.easel).semKey d = some key → (s.sem key).sound = true →
    (s.sem key).queue = [] → r.n ≤ (s.sem key).count.toNat →
    Completes (.syncRequestArrival k) s fun s' => (s'.sem key).values = (s.sem key).values ∧
      (s'.sem key).count.toNat + r.n = (s.sem key).count.toNat)

/-- Where synchronization stops its easel (R110, R277, R281, R290, R299): an operand of `wait` or `waitv` beyond the planned maximum, a
ticket at or beyond the bitmap size, a signal beyond the planned maximum, and a request that finds a count which is not the complement
of what is stored with it; the count stands. -/
def Obligations.SyncFaults : Prop :=
  (∀ (s : State) (t : Nat) (k : TileCtx) (sem imm operand : Nat) (d : SemDecl),
    k.x.semDecl sem = some d → d.max < operandOf (s.tile t) imm operand →
    (s.fetch t = some (k, .wait sem imm operand) → Completes (.wait t) s fun s' =>
      (s'.easel k.e).mode = .faulted ∧ ∀ r ∈ s'.net, r.easel ≠ k.e) ∧
    (s.fetch t = some (k, .waitv sem imm operand) → Completes (.waitv t) s fun s' =>
      (s'.easel k.e).mode = .faulted ∧ ∀ r ∈ s'.net, r.easel ≠ k.e)) ∧
  (∀ (s : State) (t : Nat) (k : TileCtx) (d w r : Nat) (c : CtrDecl), s.fetch t = some (k, .claim d w r) → k.x.ctrDecl w = some c →
    c.bitmap ≤ ((s.tile t).reg r).toNat → Completes (.claim t) s fun s' => s'.counters = s.counters ∧ (s'.easel k.e).mode = .faulted) ∧
  (∀ (s : State) (k key : Nat) (r : SyncReq) (d : SemDecl), s.net[k]? = some r → s.arrivable k r = true →
    (s.easel r.easel).mode = .bound → (s.easel r.easel).semDecl r.sem = some d → (s.easel r.easel).semKey d = some key →
    ((s.sem key).sound = true → r.kind = .signal → 0 < r.n → (s.sem key).max < (s.sem key).count.toNat + r.n →
      Completes (.syncRequestArrival k) s fun s' => (s'.sem key).count = (s.sem key).count ∧ (s'.easel r.easel).mode = .faulted) ∧
    ((s.sem key).sound = false → (r.kind = .signal → 0 < r.n) → Completes (.syncRequestArrival k) s fun s' =>
      (s'.sem key).count = (s.sem key).count ∧ (s'.easel r.easel).mode = .faulted))

/-- Byte `b` lies outside the outputs that the tiles' engines of easel `e` are forming (R141, R221). -/
def NotForming (s : State) (e b : Nat) : Prop :=
  ∀ t ∈ s.units e 1, ∀ p ∈ s.forming e t, b < storeBase t + p.1 ∨ storeBase t + p.1 + p.2 ≤ b

/-- A fault stops its easel at once (R117): no command of it remains, no tile of it runs or waits, and nothing of it is under way in
the streams, the primer or the semaphores' homes but transfers that their arbiters had granted, whose issues move nothing more (R271);
bindings and counts stand, and so does every byte but outputs that its engines were forming (R141) and, where it ran an update, the
buffer that was written (R367). -/
def Obligations.FaultStopsEasel : Prop :=
  ∀ (s : State) (e : Nat), s.works e = true →
    ((s.fault e).easel e).mode = .faulted ∧ ((s.fault e).easel e).cmds = [] ∧ ((s.fault e).easel e).update = none ∧
    ((s.fault e).easel e).loading = none ∧
    (∀ t, s.ownerOf 1 t = some e → ((s.fault e).tile t).running = false ∧ ((s.fault e).tile t).arrayQ = [] ∧
      ((s.fault e).tile t).vecQ = [] ∧ ((s.fault e).tile t).hold = .none) ∧
    (∀ y ∈ (s.fault e).streams.issues, y.easel = e → y.runs = [] ∧ y.parts = [] ∧
      ∃ x ∈ s.streams.xfers, x.issue = y.id ∧ x.arbs = [] ∧ x.sent = none) ∧
    (∀ x ∈ (s.fault e).streams.xfers, x ∈ s.streams.xfers) ∧ (∀ r ∈ (s.fault e).net, r.easel ≠ e) ∧
    (∀ i ∈ (s.fault e).primer.intakes, i.easel ≠ e) ∧ (∀ p ∈ (s.fault e).primer.lanes, p.2.easel ≠ e) ∧
    (∀ k, ((s.fault e).sem k).count = (s.sem k).count) ∧ (s.fault e).bind = s.bind ∧
    (MemoriesCanonical s → (s.easel e).update = none → ∀ b, NotForming s e b →
      (s.fault e).readAt b 1 = s.readAt b 1 ∧ (s.fault e).poisoned b 1 = s.poisoned b 1) ∧
    ∀ f, f ≠ e → (s.fault e).easel f = s.easel f

/-! ### Arithmetic -/

/-- Every code of a floating-point format that is no NaN is the code its value is written as, whatever the format's overflow rule
(R144 to R147). -/
def Obligations.FormatsRoundTrip : Prop :=
  ∀ (code : Nat) (f : Fmt) (o : Overflow) (bits : Nat), fmtOf code = some f → bits < 2 ^ (f.ebits + f.mbits + 1) →
    f.decode bits ≠ .nan → (f.encode o (f.decode bits)).1 = bits

/-- A value m · 2^e is written at quantum 2^q to the nearest multiple, a tie to the even one (R157); where the grid holds it, it is
written exactly. -/
def Obligations.RoundsToNearestEven : Prop :=
  ∀ (f : Fmt) (m : Nat) (e : Int), 0 < m →
    f.emin ≤ (f.round m e).2 ∧
    ((f.round m e).2 ≤ e → (f.round m e).1 = m * 2 ^ (e - (f.round m e).2).toNat) ∧
    (e < (f.round m e).2 → ∀ d, d = 2 ^ ((f.round m e).2 - e).toNat →
      2 * m ≤ (2 * (f.round m e).1 + 1) * d ∧ (2 * (f.round m e).1) * d ≤ 2 * m + d ∧
      (2 * m = (2 * (f.round m e).1 + 1) * d ∨ (2 * (f.round m e).1) * d = 2 * m + d → (f.round m e).1 % 2 = 0))

/-! ### The matrix array and the vector engine -/

/-- `mma` at issue (R100, R105, R112, R129): with fewer than four waiting in the array queue behind those that have entered the array,
operands that pass the checks enter it at its end with the next program order, and the tile moves on; an `mma` with M or N equal to 0 is
complete. With four it waits; one `mma` at a time is in the array, and in overlap mode up to four. Operands that pass have the extents of Table 4-9, offsets in whole 64 B, an output exponent of at most 512 in size, each range in
its buffer, and a C that shares no byte with A or B. -/
def Obligations.MmaAtIssue : Prop :=
  (∀ (s : State) (t : Nat) (k : TileCtx) (aBuf aOff bBuf bOff cBuf cOff shape scale seed part : Nat) (g : MmaArgs),
    s.fetch t = some (k, .mma aBuf aOff bBuf bOff cBuf cOff shape scale seed part) →
    k.mmaArgs (s.tile t) aBuf aOff bBuf bOff cBuf cOff = some g →
    (s.arrayFull t = true → exec (.mma t) s = .next s) ∧ (8 ≤ (s.tile t).arrayQ.length → s.arrayFull t = true) ∧
    ((∀ op ∈ (s.tile t).arrayQ, op.overlap = false) → 5 ≤ (s.tile t).arrayQ.length → s.arrayFull t = true) ∧
    ((s.tile t).arrayQ.length < 4 → s.arrayFull t = false) ∧
    (s.arrayFull t = false → ∀ r, r = checkMma g k.panel.overlap ((s.tile t).reg shape).toNat ((s.tile t).reg scale).toInt seed part
        (s.tile t).order (s.tile t).pc (s.tile t).word →
      (∀ op, r = .good op → op.m ≠ 0 → op.n ≠ 0 → Completes (.mma t) s fun s' => OnlyTile t s s' ∧
        Advances (s.tile t) (s'.tile t) 0 0 ∧ (s'.tile t).arrayQ = (s.tile t).arrayQ ++ [op] ∧
        (s'.tile t).order = (s.tile t).order + 1 ∧ (s'.tile t).vecQ = (s.tile t).vecQ) ∧
      (∀ op, r = .good op → (op.m = 0 ∨ op.n = 0) → Completes (.mma t) s (ScalarDone t 0 0 s)) ∧
      (∀ reason, r = .operand reason → Completes (.mma t) s fun s' => (s'.easel k.e).mode = .faulted) ∧
      (∀ o b, r = .overflow o b → Completes (.mma t) s fun s' => (s'.easel k.e).mode = .faulted))) ∧
  (∀ (g : MmaArgs) (overlap : Bool) (shape : Nat) (scale : Int) (seed part order pc : Nat) (word : Word64) (op : MmaOp),
    checkMma g overlap shape scale seed part order pc word = .good op →
    ∀ nc, nc = op.m * op.outPitch → op.overlap = overlap ∧
    op.m ≤ 4096 ∧ op.n ≤ 4096 ∧ op.k ≤ 16777216 ∧ op.a % 64 = g.a.offset % 64 ∧ op.b % 64 = g.b.offset % 64 ∧
    op.c % 64 = g.c.offset % 64 ∧ -512 ≤ op.scale ∧ op.scale ≤ 512 ∧ op.scale = scale ∧ (seed = 1 → part = 1) ∧
    (g.a.size % 2 = 0 → g.aOff + operandBytes op.fa op.m op.k ≤ max g.a.size g.aOff) ∧
    (g.b.size % 2 = 0 → g.bOff + operandBytes op.fb op.n op.k ≤ max g.b.size g.bOff) ∧
    (g.c.size % 2 = 0 → g.cOff + nc ≤ max g.c.size g.cOff) ∧
    overlaps op.c nc op.a (operandBytes op.fa op.m op.k) = false ∧
    overlaps op.c nc op.b (operandBytes op.fb op.n op.k) = false)

/-- Output (i, j) of an `mma` reads an element that carries the poison mark: its row of A, its row of B, or its seed (R142). -/
def ReadsPoison (s : State) (t : Nat) (op : MmaOp) (i j c : Nat) : Prop :=
  (s.line (storeBase t + op.a) op.fa op.m op.k i).bad = true ∨ (s.line (storeBase t + op.b) op.fb op.n op.k j).bad = true ∨
  (op.seed = true ∧ s.poisoned c op.outBytes = true)

/-- MMA_COMPLETE: the oldest `mma` leaves the array queue. Where no anchor is raised, each output of C holds the sum of its row of A and
its row of B as they stood, C's own bytes the seed, in the layout of R102 and R103, but one that reads an element with an uncorrectable
error is poisoned (R142); and no other byte of memory changes. -/
def Obligations.MmaProduct : Prop :=
  ∀ (s : State) (t : Nat) (k : TileCtx) (op : MmaOp) (rest : List MmaOp), (s.tile t).arrayQ = op :: rest →
    s.tileCtx t = some k → s.mmaFree t op = true →
    (∀ errs, Completes (.mmaComplete t errs) s fun s' => (s'.tile t).arrayQ = rest ∧ (s'.tile t).regs = (s.tile t).regs) ∧
    (∀ pitch, pitch = (op.n * op.outBytes + 63) / 64 * 64 → MemoriesCanonical s → t < 1344 → op.c % 64 = 0 → op.c + op.m * pitch ≤ storeSize →
      overlaps op.c (op.m * pitch) op.a (operandBytes op.fa op.m op.k) = false →
      overlaps op.c (op.m * pitch) op.b (operandBytes op.fb op.n op.k) = false → (s.product t op).2 = 0 →
      Completes (.mmaComplete t []) s fun s' =>
        (∀ i j c, i < op.m → j < op.n → c = storeBase t + op.c + i * pitch + j * op.outBytes →
          (¬ReadsPoison s t op i j c → s'.readAt c op.outBytes =
            (output op (s.line (storeBase t + op.a) op.fa op.m op.k i) (s.line (storeBase t + op.b) op.fb op.n op.k j)
              (if op.seed then s.readAt c op.outBytes else [])).bytes) ∧
          (ReadsPoison s t op i j c → s'.poisoned c op.outBytes = true)) ∧
        (∀ b, (∀ i, i < op.m → b < storeBase t + op.c + i * pitch ∨ storeBase t + op.c + i * pitch + op.n * op.outBytes ≤ b) →
          s'.readAt b 1 = s.readAt b 1))

/-- `vchain` at issue (R106, R112, R205): a descriptor that is read without poison and passes the checks enters the vector queue at its
end with the next program order; the tile moves on, and is held where a value returns to a register. -/
def VchainAtIssue : Prop :=
  ∀ (s : State) (t : Nat) (k : TileCtx) (buf off param n : Nat) (b : BufPlan) (h : Chain) (vals : List Int) (p : List Byte),
    s.fetch t = some (k, .vchain buf off param) → k.sheet.buf k.panel buf = some b → s.vectorFull k.e t = false →
    ∀ o, o = ((s.tile t).reg off).toNat → s.hazard t ([b.unit o], []) = false → o % 64 = 0 → b.fits o 32 = true →
    n = at8 (s.readAt (storeBase t + (b.offset + o)) 32) 4 2 → b.fits o n = true →
    s.poisoned (storeBase t + (b.offset + o)) (max n 32) = false →
    p = bytesAt (s.readAt (storeBase t + (b.offset + o)) n) 0 (max n 32) → checkChain k p ((s.tile t).reg param).toNat = .good h vals →
    ∀ u, u = h.units (k.sheet.plan k.panel) (b.unit o) → s.hazardArray t u = false → s.hazardStream t u = false →
    Completes (.vchain t []) s fun s' => OnlyTile t s s' ∧ Advances (s.tile t) { s'.tile t with hold := .none } 0 0 ∧
      (s'.tile t).hold = (if h.ret.isSome ∧ param ≠ 0 then .chain else .none) ∧ (s'.tile t).order = (s.tile t).order + 1 ∧
      (s'.tile t).arrayQ = (s.tile t).arrayQ ∧
      (s'.tile t).vecQ = (s.tile t).vecQ ++ [{ order := (s.tile t).order, pc := (s.tile t).pc, desc := p, vals, param := (s.tile t).reg param,
                                                reg := param, ret := h.ret.isSome, units := u,
                                                verdict := !h.idle && h.stages.any (·.op = 0x32), outs := (vecCtx k t h).writes }]

/-- VCHAIN_COMPLETE (R202, R217): the oldest chain leaves the vector queue once nothing it depends on is under way; memory is what the
chain makes of it, every stage over the memory as it stood, and the value it returns is in its parameter register. -/
def VchainDone : Prop :=
  ∀ (s : State) (t : Nat) (k : TileCtx) (op : VecOp) (rest : List VecOp), (s.tile t).vecQ = op :: rest → s.tileCtx t = some k →
    ∀ c, c = vecCtx k t (chainOf op.desc op.vals) →
    (s.chainWaits k.e t op = true → exec (.vchainComplete t []) s = .next s) ∧
    (s.chainWaits k.e t op = false → Completes (.vchainComplete t []) s fun s' =>
      (s'.tile t).vecQ = rest ∧ (s'.tile t).arrayQ = (s.tile t).arrayQ ∧ (s'.tile t).pc = (s.tile t).pc ∧
      MemoryKept (s.runChain c).1 s' ∧
      (∀ r, (s'.tile t).reg r = wrote (s.tile t) (if op.ret then op.reg else 0) (s.runChain c).2.1 r) ∧
      (op.ret = true → op.reg ≠ 0 → (s'.tile t).hold = .none)) ∧
    (∀ errs, s.chainWaits k.e t op = false →
      Completes (.vchainComplete t errs) s fun s' => (s'.tile t).vecQ = rest)

/-- A chain enters the vector queue at issue and leaves it when it has run (R106, R202). -/
def Obligations.Vchains : Prop := VchainAtIssue ∧ VchainDone

/-- `issue` and `await` (R107, R108): an issue that passes its checks, with fewer than 16 of its tile outstanding, joins the issues with
the inputs its registers give, and the tile moves on; `await` moves on once no earlier issue it names is outstanding, else it holds the
tile. An issue out of the order of chunks stops its easel. -/
def Obligations.IssueAndAwait : Prop :=
  ∀ (s : State) (t : Nat) (k : TileCtx),
    (∀ stream p q buf off useLocal sig sem d, s.fetch t = some (k, .issue stream p q buf off useLocal sig sem) →
      k.x.stream stream = some d → issueMismatch k d buf useLocal = false → (s.issuesOf t).length < 16 →
      ∀ y : Issue, y = {
        id := s.streams.nextIssue, easel := k.e, tile := t, order := (s.tile t).order, seq := k.seq, stream, p := (s.tile t).reg p,
        q := (s.tile t).reg q, useLocal := useLocal = 1, buf, off := ((s.tile t).reg off).toNat, signal := if sig = 1 then some sem else none,
        units := k.issueUnits d buf ((s.tile t).reg off).toNat useLocal, block := 0, apc := 0, regs := [], loops := [], inBlock := false,
        runs := [], emitted := 0, parts := [], begun := false, gates := 0, gated := false, consumed := false, finished := false } →
      s.hazard t y.units = false →
      ∀ ordered : Prop, (ordered ↔ ∀ w, d.window = some w → stripeOrder (s.flow t stream k.seq).chunk k.panel.rows k.r (wChunks w k.slots)
        ((s.tile t).reg p).toNat ((s.tile t).reg q).toNat = true) →
      (ordered → Completes (.issue t) s fun s' => s' = { s with streams := s'.streams }.setTile t (s'.tile t) ∧
        s'.streams.issues = s.streams.issues ++ [y] ∧ s'.streams.nextIssue = s.streams.nextIssue + 1 ∧
        s'.streams.xfers = s.streams.xfers ∧ Advances (s.tile t) (s'.tile t) 0 0 ∧ (s'.tile t).order = (s.tile t).order + 1 ∧
        (s'.tile t).arrayQ = (s.tile t).arrayQ ∧ (s'.tile t).vecQ = (s.tile t).vecQ) ∧
      (¬ordered → Completes (.issue t) s fun s' => (s'.easel k.e).mode = .faulted)) ∧
    (∀ stream all, s.fetch t = some (k, .await stream all) →
      ((∀ y ∈ s.streams.issues, y.tile = t → all ≠ 1 ∧ y.stream ≠ stream) → Completes (.await t) s (ScalarDone t 0 0 s)) ∧
      ((∃ y ∈ s.streams.issues, y.tile = t ∧ (all = 1 ∨ y.stream = stream)) → Completes (.await t) s fun s' =>
        s' = s.setTile t { s.tile t with hold := .await (if all = 1 then none else some stream) }))

/-! ### Streams -/

/-- Issue `y'` is issue `y` past the word of its address program, whose registers and runs may have changed: within a body the program
moves on by one word; at a body's last word the body runs again, or after its last run the program goes on behind it (R256). -/
def AddrMoves (y y' : Issue) : Prop :=
  y' = { y with regs := y'.regs, apc := y'.apc, loops := y'.loops, runs := y'.runs, emitted := y'.emitted } ∧
  ((∀ f ∈ y.loops, f.last ≠ y.apc) → y'.apc = y.apc + 1 ∧ y'.loops = y.loops) ∧
  (∀ f fs, y.loops = f :: fs → f.last = y.apc →
    (f.iter + 1 < f.count → y'.apc = f.first ∧ y'.loops = { f with iter := f.iter + 1 } :: fs) ∧
    (f.count ≤ f.iter + 1 → (∀ g ∈ fs, g.last ≠ f.last) → y'.apc = y.apc + 1 ∧ y'.loops = fs))

/-- The next state of an address-program instruction: only its issue changes, as `P` says and one word on. -/
def AddrDone (c : IssueCtx) (P : Issue → Prop) (s s' : State) : Prop := ∃ y', s' = s.setIssue y' ∧ AddrMoves c.y y' ∧ P y'

/-- Register `d` of an address program holds `v`, the others and the runs are as before. -/
def SetsReg (y : Issue) (d : Nat) (v : Word64) (y' : Issue) : Prop :=
  (∀ r, tget 0 y'.regs r = if r = d then v else tget 0 y.regs r) ∧ y'.runs = y.runs ∧ y'.emitted = y.emitted

/-- `seti`, `getv`, `madd` and `addi` of an address program set their register (R255); `end` goes on with the next block. A block
starts with its bases in g0 and g1, the inputs of the issue in g6 and g7, and zeros. -/
def AddressRegisters : Prop :=
  ∀ (s : State) (i : Nat) (c : IssueCtx),
    (∀ d imm, s.afetch i = some (c, .seti d imm) → Completes (.addrSeti i) s (AddrDone c (SetsReg c.y d (BitVec.ofNat 64 imm)) s)) ∧
    (∀ d src, s.afetch i = some (c, .getv d src) →
      Completes (.getv i) s (AddrDone c (SetsReg c.y d (BitVec.ofInt 64 (c.k.source 0 0 false src))) s)) ∧
    (∀ d a b imm, s.afetch i = some (c, .madd d a b imm) → Completes (.madd i) s (AddrDone c
      (SetsReg c.y d (tget 0 c.y.regs a + tget 0 c.y.regs b * (BitVec.ofNat 32 imm).signExtend 64)) s)) ∧
    (∀ d a imm, s.afetch i = some (c, .addi d a imm) → Completes (.addi i) s (AddrDone c
      (SetsReg c.y d (tget 0 c.y.regs a + (BitVec.ofNat 48 imm).signExtend 64)) s)) ∧
    (s.afetch i = some (c, .fin) → Completes (.addrEnd i) s fun s' => ∃ y', s' = s.setIssue y' ∧ y'.block = c.y.block + 1 ∧
      y'.inBlock = false ∧ y'.loops = [] ∧ y'.runs = c.y.runs ∧ (y'.finished = true ↔ c.d.blocks.length ≤ c.y.block + 1)) ∧
    (∀ y o, s.issue i = some y → y.inBlock = false → s.afetch i = some (c, o) →
      tget 0 c.y.regs 0 = BitVec.ofNat 64 c.b.srcBase ∧ tget 0 c.y.regs 1 = BitVec.ofNat 64 c.b.dstBase ∧
      tget 0 c.y.regs 6 = y.p ∧ tget 0 c.y.regs 7 = y.q ∧ ∀ r, 2 ≤ r → r ≤ 5 → tget 0 c.y.regs r = 0)

/-- `loop` of an address program reads its count once: above 2^24 the issue stops its easel, with 0 the body is passed over, else its
first word follows. `emit` and `zero` add a run of the length in their length register, and advance what they are told to; a length of
0 adds none (R255, R256). -/
def AddressRuns : Prop :=
  ∀ (s : State) (i : Nat) (c : IssueCtx),
    (∀ r body, s.afetch i = some (c, .loop r body) → ∀ n, n = (tget 0 c.y.regs r).toNat →
      (n = 0 → (∀ f ∈ c.y.loops, f.last ≠ c.y.apc + body) → Completes (.addrLoop i) s fun s' => ∃ y', s' = s.setIssue y' ∧
        y' = { c.y with apc := c.y.apc + body + 1 }) ∧
      (0 < n → n ≤ 2 ^ 24 → Completes (.addrLoop i) s fun s' => ∃ y', s' = s.setIssue y' ∧
        y' = { c.y with apc := c.y.apc + 1, loops := ⟨c.y.apc + 1, c.y.apc + body, n, 0, 0⟩ :: c.y.loops }) ∧
      (2 ^ 24 < n → s.works c.y.easel = true → Completes (.addrLoop i) s fun s' => (s'.easel c.y.easel).mode = .faulted)) ∧
    (∀ a b l advS advD, s.afetch i = some (c, .emit a b l advS advD) → c.y.emitted < 2 ^ 32 →
      ∀ n, n = tget 0 c.y.regs l → Completes (.emit i) s (AddrDone c (fun y' =>
        (∀ r, tget 0 y'.regs r = tget 0 c.y.regs r + (if r = a ∧ advS = 1 then n else 0) + (if r = b ∧ advD = 1 then n else 0)) ∧
        (n ≠ 0 → y'.runs = c.y.runs ++ [⟨c.y.block, n.toNat, (tget 0 c.y.regs a).toNat, (tget 0 c.y.regs b).toNat, false, false, false⟩] ∧
          y'.emitted = c.y.emitted + 1) ∧
        (n = 0 → y'.runs = c.y.runs ∧ y'.emitted = c.y.emitted)) s)) ∧
    (∀ b l advD, s.afetch i = some (c, .zero b l advD) → c.y.emitted < 2 ^ 32 →
      ∀ n, n = tget 0 c.y.regs l → Completes (.zero i) s (AddrDone c (fun y' =>
        (∀ r, tget 0 y'.regs r = if r = b ∧ advD = 1 then tget 0 c.y.regs r + n else tget 0 c.y.regs r) ∧
        (n ≠ 0 → y'.runs = c.y.runs ++ [⟨c.y.block, n.toNat, 0, (tget 0 c.y.regs b).toNat, true, false, false⟩]) ∧
        (n = 0 → y'.runs = c.y.runs)) s)) ∧
    (∀ a b l advS advD, s.afetch i = some (c, .emit a b l advS advD) → 2 ^ 32 ≤ c.y.emitted → tget 0 c.y.regs l ≠ 0 →
      s.works c.y.easel = true → Completes (.emit i) s fun s' => (s'.easel c.y.easel).mode = .faulted)

/-- The instructions of address programs (R255, R256). -/
def Obligations.AddressPrograms : Prop := AddressRegisters ∧ AddressRuns

/-- The bytes that a transfer moves, where its kind says them; of a window chunk it moves elements. -/
def moveBytes : Move → Nat
  | .copy _ _ n => n
  | .zeros _ n => n
  | .primer _ _ _ _ n => n
  | .remoteWrite _ _ n _ _ _ => n
  | .remoteRead _ _ n _ _ => n
  | .remoteCopy _ _ n _ _ _ => n
  | .chunk _ _ n => n
  | .attention _ _ _ n => n

/-- Run `r` is at the head of issue `i`, with `rest` behind it and context `c`: an emitted one, whose block may lie behind the issue's
present one or behind all of them, or the run of an extent block that the issue has come to, with none behind it (R254, R256). -/
def HeadRun (s : State) (i : Nat) (y : Issue) (r : Run) (rest : List Run) (c : IssueCtx) : Prop :=
  s.issue i = some y ∧
    ((y.runs = r :: rest ∧ ((∃ c₀, s.issueCtx i = some c₀ ∧ c = c₀.ofRun r) ∨
        (s.issueCtx i = none ∧ ∃ k d b, s.tileCtx y.tile = some k ∧ k.x.works = true ∧ (s.easel y.easel).stream y.stream = some d ∧
          d.blocks[r.block]? = some b ∧ c = ⟨{ y with block := r.block }, k, d, b⟩))) ∨
     (y.runs = [] ∧ rest = [] ∧ s.issueCtx i = some c ∧ c.b.kind = 1 ∧ r = extentRun c ∧ r.length ≠ 0))

/-- Transfers `new` of issue `y` are put in flight behind the others with the slack its stream has (R264), and the issue becomes `y'`;
nothing lands yet. -/
def PutInFlight (s s' : State) (c : IssueCtx) (y y' : Issue) (steps : Nat) (new : List Xfer) : Prop :=
  s' = { s with streams := s'.streams } ∧ s'.streams.xfers = s.streams.xfers ++ new ∧
    (∀ x ∈ new, x.issue = y.id ∧ x.sent = none ∧ x.slack = s.slack c steps) ∧
    s'.streams.issues = s.streams.issues.map (fun z => if z.id = y.id then y' else z)

/-- A run that passed its checks is split into transfers of at most 512 B, in order, as far as the limits let it; what the transfers
move and what is left of the run are the run, and no byte has moved yet. None is longer than 512 B or crosses a 512 B boundary at a memory
end, but that the 128 transfers of a flash block are cut at the flash end alone. An extent of length 0 gives no run and its block is done
(R254, R260, R262). -/
def RunIsSplit : Prop :=
  (∀ (s : State) (i steps : Nat) (y : Issue) (r : Run) (rest : List Run) (c : IssueCtx), HeadRun s i y r rest c →
    (s.checkRun c r = .fine ∨ r.checked = true) → Completes (.streamRun i steps) s fun s' =>
      ∃ new left y', PutInFlight s s' c y y' steps new ∧ (∀ x ∈ new, moveBytes x.move ≤ 512) ∧
        (new.map fun x => moveBytes x.move).sum + left = r.length ∧ y'.begun = (y.begun || (s.issueCtx i).isSome) ∧
        (left = 0 → y'.runs = rest) ∧ (left ≠ 0 → ∃ q, y'.runs = q :: rest ∧ q.length = left ∧ q.checked = true)) ∧
  (∀ (s : State) (i steps : Nat) (y : Issue) (c : IssueCtx), s.issue i = some y → s.issueCtx i = some c → y.runs = [] → c.b.kind = 1 →
    (extentRun c).length = 0 → Completes (.streamRun i steps) s fun s' => s' = s.setIssue (c.y.nextBlock c.d)) ∧
  (∀ (c : IssueCtx) (r : Run), pieceLen c r ≤ 512 ∧ pieceLen c r ≤ r.length ∧ (0 < r.length → 0 < pieceLen c r) ∧
    (memEnd c.b.dst = true → (c.b.src = 4 → c.b.dst = 4 ∨ r.zero = true) → r.dst % 512 + pieceLen c r ≤ 512) ∧
    (memEnd c.b.src = true → r.zero = false → c.b.dst ≠ 4 → r.src % 512 + pieceLen c r ≤ 512))

/-- Where STREAM_RUN fetches a run from easel memory into its tile's buffer: the run lies within its window, and its pages are held; it
lies in the buffer, or in the half of it that holds the local offset; both ends are whole 64 B lines; the slice has fewer than 192 transfers
and the tile's port fewer than 64, and no flash block is under way. Then it completes with one transfer or more in flight, the first the copy
of the run's first bytes from where the page holds them to their place in the tile's store (R252, R254, R258, R260, R262, R263). -/
def RunFetched : Prop :=
  ∀ (s : State) (i steps : Nat) (y : Issue) (r : Run) (rest : List Run) (c : IssueCtx) (b : BufPlan) (a : Nat), HeadRun s i y r rest c →
    c.b.src = 1 → c.b.dst = 0 → r.zero = false → c.localBuf = some b → b.dbl = false → c.y.off + r.dst < 2 ^ 64 →
    c.b.page = false → r.src % 64 = 0 → r.dst % 64 = 0 → r.length % 64 = 0 → 0 < r.length →
    c.b.srcBase ≤ r.src → r.src + r.length ≤ c.b.srcBase + roomOf (c.k.canvas.formula c.b.srcExt c.k.slots) →
    c.y.off + r.dst + r.length ≤ b.size → s.mapped c.y.easel r.src r.length = true → s.translate c.y.easel r.src = some a →
    (s.streams.issues.any fun z => z.runs != [] && z.id != c.y.id) = false → s.inSlice c.d.slice < 192 → s.atPort c.y.tile < 64 →
    tierOf (c.local0 + r.dst) = 4 → storeTile (c.local0 + r.dst) = c.y.tile → tierOf a ≠ 4 → Completes (.streamRun i steps) s fun s' =>
      ∃ x new y', PutInFlight s s' c y y' steps (x :: new) ∧ x.move = .copy a (c.local0 + r.dst) (min r.length (512 - r.src % 512)) ∧
        x.stores = [c.y.tile]

/-- A run that fails a check stops its easel before any byte of it moves (R258): nothing of the easel's streams is left but transfers their
arbiters had granted. One that passes covers whole 64 B lines at an end in easel virtual memory, lies inside its window, and its pages are
held. -/
def RunChecks : Prop :=
  (∀ (s : State) (i steps : Nat) (y : Issue) (c : IssueCtx) (r : Run) (rest : List Run) (code a b : Nat), HeadRun s i y r rest c →
    r.checked = false → s.checkRun c r = .bad code a b → s.works y.easel = true → Completes (.streamRun i steps) s fun s' =>
      (s'.easel y.easel).mode = .faulted ∧
      (∀ z ∈ s'.streams.issues, z.easel = y.easel → z.runs = [] ∧ ∃ x ∈ s.streams.xfers, x.issue = z.id ∧ x.arbs = []) ∧
      ∀ x ∈ s'.streams.xfers, x ∈ s.streams.xfers) ∧
  (∀ (s : State) (c : IssueCtx) (r : Run), s.checkRun c r = .fine → c.b.dst = 1 → c.b.page = false →
    r.dst % 64 = 0 ∧ r.length % 64 = 0 ∧ c.b.dstBase ≤ r.dst ∧
    r.dst + r.length ≤ c.b.dstBase + roomOf (c.k.canvas.formula c.b.dstExt c.k.slots) ∧
    s.mapped c.y.easel r.dst r.length = true ∧
    (c.b.src = 1 → r.zero = false → r.src % 64 = 0 ∧ c.b.srcBase ≤ r.src ∧
      r.src + r.length ≤ c.b.srcBase + roomOf (c.k.canvas.formula c.b.srcExt c.k.slots) ∧ s.mapped c.y.easel r.src r.length = true))

/-- A run that reads an output its primer has not delivered yet, or whose lane no running intake holds, waits with its issue, and no
transfer of it is formed (R320). -/
def RunWaits : Prop :=
  ∀ (s : State) (i steps : Nat) (y : Issue) (c : IssueCtx) (r : Run) (rest : List Run), HeadRun s i y r rest c → r.checked = false →
    s.checkRun c r = .waits → Completes (.streamRun i steps) s fun s' => s'.streams.xfers = s.streams.xfers ∧ s'.tiles = s.tiles ∧
      ∃ q y', s'.streams.issues = s.streams.issues.map (fun z => if z.id = y.id then y' else z) ∧ y'.gated = true ∧
        y'.runs = q :: rest ∧ q.length = r.length ∧ q.src = r.src ∧ q.checked = false

/-- What is left of `parts` after the limits: all of it in order, each part a transfer or still to move; the block is behind the issue once
nothing is left. -/
def PartsTaken (s s' : State) (c : IssueCtx) (steps : Nat) (parts : List Move) : Prop :=
  ∃ new left y', PutInFlight s s' c c.y y' steps new ∧ parts = new.map (·.move) ++ left ∧
    (left = [] → y' = c.y.nextBlock c.d) ∧ (left ≠ [] → y' = { c.y with parts := left })

/-- A window block sends a non-consuming wait to every semaphore that gates its stripe, and goes on once each has answered; a stripe of no
extent moves nothing; any other's chunk is cut into transfers of at most 512 B once its checks pass, row by row (R180, R183, R185, R260). -/
def WindowBlockRuns : Prop :=
  (∀ (s : State) (i steps : Nat) (y : Issue) (c : IssueCtx), s.issue i = some y → y.runs = [] → s.issueCtx i = some c → c.b.kind = 3 →
    (c.y.inBlock = false → ∀ w : List (Nat × Nat), w = (if wGate c.b.payload then gateWaits c.b.payload c.k.slots c.y.p.toNat else []) →
      Completes (.streamRun i steps) s fun s' => s' = { s with net := s'.net, streams := s'.streams } ∧
        (∃ gs, s'.net = s.net ++ gs ∧ gs.length = w.length ∧ ∀ (j : Nat) (g : SyncReq) (v : Nat × Nat), gs[j]? = some g → w[j]? = some v → g.kind = .waitv ∧
          g.easel = c.y.easel ∧ g.sem = v.1 ∧ g.who = .gate c.y.id ∧
          g.n = v.2 + match c.k.x.semDecl v.1 with | some d => d.initial | none => 0) ∧
        s'.streams = (s.setIssue { c.y with inBlock := true, gates := w.length, gated := w.length != 0 }).streams) ∧
    (c.y.inBlock = true → c.y.gates ≠ 0 → exec (.streamRun i steps) s = .next s) ∧
    (c.y.inBlock = true → c.y.gates = 0 → c.y.parts ≠ [] → Completes (.streamRun i steps) s fun s' => PartsTaken s s' c steps c.y.parts) ∧
    (c.y.inBlock = true → c.y.gates = 0 → c.y.parts = [] →
      (zeroStripe c.b.payload c.k.slots c.y.p.toNat = true → Completes (.streamRun i steps) s fun s' =>
        s' = s.setIssue (c.y.nextBlock c.d)) ∧
      (zeroStripe c.b.payload c.k.slots c.y.p.toNat = false → ∀ parts, parts = cutRows (s.chunkSizes c) →
        (s.checkChunk c parts = .fine → Completes (.streamRun i steps) s fun s' => PartsTaken s s' c steps parts) ∧
        (∀ code a b, s.checkChunk c parts = .bad code a b → s.works c.y.easel = true → Completes (.streamRun i steps) s fun s' =>
          (s'.easel c.y.easel).mode = .faulted)))) ∧
  (∀ (sizes : List (Nat × Nat)) (k o n : Nat), Move.chunk k o n ∈ cutRows sizes →
    ∃ z, sizes[k]? = some z ∧ o + n ≤ z.2 ∧ 0 < n ∧ n * z.1 ≤ 4096)

/-- An attention block moves nothing for a key block the command does not stream; from block 2 on it first takes what its tiles released;
then, its checks passed, the deliveries of every tile of its panel are its transfers, each of at most 512 B (R238, R239, R258, R260). -/
def AttentionBlockRuns : Prop :=
  ∀ (s : State) (i steps : Nat) (y : Issue) (c : IssueCtx), s.issue i = some y → y.runs = [] → s.issueCtx i = some c → c.b.kind = 4 →
    (ceilDiv (aKeys c.b.payload c.k.slots) (aBk c.b.payload) ≤ c.y.p.toNat → Completes (.streamRun i steps) s fun s' =>
      s' = s.setIssue (c.y.nextBlock c.d)) ∧
    (c.y.p.toNat < ceilDiv (aKeys c.b.payload c.k.slots) (aBk c.b.payload) →
      (c.y.inBlock = false → Completes (.streamRun i steps) s fun s' => s' = { s with net := s'.net, streams := s'.streams } ∧
        (c.y.p.toNat < 2 → s'.net = s.net) ∧
        (2 ≤ c.y.p.toNat → ∃ g, s'.net = s.net ++ [g] ∧ g.kind = .wait ∧ g.easel = c.y.easel ∧ g.sem = aRelease c.b.payload ∧
          g.who = .issue c.y.id ∧ ∀ q, c.k.sheet.panels.find? (·.number = aPanel c.b.payload) = some q → g.n = q.rows * q.cols) ∧
        s'.streams = (s.setIssue { c.y with inBlock := true, consumed := decide (c.y.p.toNat < 2) }).streams) ∧
      (c.y.inBlock = true → c.y.consumed = false → exec (.streamRun i steps) s = .next s) ∧
      (c.y.inBlock = true → c.y.consumed = true → c.y.parts ≠ [] → Completes (.streamRun i steps) s fun s' =>
        PartsTaken s s' c steps c.y.parts) ∧
      (c.y.inBlock = true → c.y.consumed = true → c.y.parts = [] →
        (s.checkAttn c (s.attnMoves c) = .fine → Completes (.streamRun i steps) s fun s' => PartsTaken s s' c steps (s.attnMoves c)) ∧
        (∀ code a b, s.checkAttn c (s.attnMoves c) = .bad code a b → s.works c.y.easel = true → Completes (.streamRun i steps) s fun s' =>
          (s'.easel c.y.easel).mode = .faulted)) ∧
      ∀ m ∈ s.attnMoves c, moveBytes m ≤ 512)

/-- STREAM_RUN in every case of its issue: a run or the chunk of a block is checked before any byte of it moves, waits for what it depends
on, stops its easel, or is split into transfers (R254, R258, R260); the issues of a stream from one tile start in order (R261). -/
def Obligations.RunsMove : Prop :=
  RunIsSplit ∧ RunFetched ∧ RunChecks ∧ RunWaits ∧ WindowBlockRuns ∧ AttentionBlockRuns ∧
  (∀ (s : State) (i steps : Nat) (y z : Issue), s.issue i = some y → z ∈ s.streams.issues → z.tile = y.tile → z.stream = y.stream →
    z.id < y.id → z.begun = false → y.runs = [] → exec (.streamRun i steps) s = .next s)

/-- Whether `p` is granted before `q`: less slack, or as much and put earlier (R265). -/
def Precedes (p q : Pending) : Prop := p.slack < q.slack ∨ (p.slack = q.slack ∧ p.id < q.id)

/-- What a grant does: the transfer, or the unit's request, is past that arbiter, and no byte moves. -/
def Granted (s s' : State) : Pending → Prop
  | .xfer x => s' = { s with streams := s'.streams } ∧ s'.streams.issues = s.streams.issues ∧ s'.streams.asks = s.streams.asks ∧
      s'.streams.xfers = s.streams.xfers.map fun z => if z.id = x.id then { z with arbs := z.arbs.tail } else z
  | .ask q => (∀ d, q.who ≠ .trace d) → s' = { s with streams := { s.streams with
      asks := s.streams.asks.map fun z => if z.id = q.id then { z with arbs := z.arbs.tail } else z } }

/-- An arbiter grants, among the transfers and the units' requests whose next arbiter it is, the one of least slack, the oldest of equals
(R265); the starvation guard grants the one it names, whatever its slack. A slice's transfers are granted in emit order (R261). A request
of the primer has slack 2,048 while a run waits on its intake's output (R322), and one of a drain or export 32,768, 1,024 once the next
update has completed, and 65,535 where it copies from the stage or from flash (R366). -/
def Obligations.ArbiterOrder : Prop :=
  (∀ (l : List Pending) (p : Pending), leastSlack l = some p ↔
    ∃ before behind, l = before ++ p :: behind ∧ (∀ q ∈ before, Precedes p q) ∧ ∀ q ∈ behind, ¬ Precedes q p) ∧
  (∀ (s : State) (a : Arb) (p : Pending), leastSlack (s.pendingAt a) = some p → Completes (.arbiterGrant a) s fun s' => Granted s s' p) ∧
  (∀ (s : State) (a : Arb), s.pendingAt a = [] → exec (.arbiterGrant a) s = .next s) ∧
  (∀ (s : State) (i : Nat) (x : Xfer) (a : Arb), s.xfer i = some x → x.arbs.head? = some a → s.emitHead x = true →
    s.flashFree a (some x.issue) = true → Completes (.starvationGuardExpiry i) s fun s' => Granted s s' (.xfer x)) ∧
  (∀ (s : State) (a : Arb) (x z : Xfer) (before behind : List Xfer), .xfer x ∈ s.pendingAt a → s.streams.xfers = before ++ x :: behind →
    (s.streams.xfers.map (·.id)).Nodup → z ∈ before → (s.sliceOf z).map (·.1) = (s.sliceOf x).map (·.1) → z.arbs = []) ∧
  (∀ (s : State) (q : Ask) (x : Intake), s.servedIntake q.who = some x → s.awaits x = true → (s.slackNow q).slack = 2048) ∧
  (∀ (s : State) (q : Ask) (e id : Nat) (d : Drain), q.who = .drain e id → (s.easel e).drains.find? (·.id = id) = some d →
    (s.slackNow q).slack = if d.via = 2 ∨ (d.via = 1 ∧ d.phase ≠ 0) then 65535 else if d.step < (s.easel e).lastApplied then 1024 else 32768)

/-- A transfer that every arbiter has granted lands (R260, R269): its destination reads as its source did, or as zeros, poison comes with
it by whole lines, no other byte changes, it is no longer in flight, and its bytes count as landed (R264). One that still waits for a grant
changes nothing. Bytes of a flash block wait until the block is whole. A write to a far device is sent, and counts once it is
acknowledged. -/
def TransferLands : Prop :=
  ∀ (s : State) (x : Nat) (f : Xfer) (c : IssueCtx), s.xfer x = some f → s.xferCtx f = some c → f.sent = none →
    ∀ landed : State → Nat → Prop, (∀ s' n, landed s' n ↔ s'.streams.xfers = s.streams.xfers.filter (·.id != x) ∧ s'.tiles = s.tiles ∧
      s'.sems = s.sems ∧ (s'.flow c.y.tile c.y.stream c.y.seq).landed = (s.flow c.y.tile c.y.stream c.y.seq).landed + n) →
    (f.arbs ≠ [] → ∀ errs, exec (.transferLand x errs) s = .next s) ∧
    (∀ a d n, f.arbs = [] → f.move = .copy a d n → MemoriesCanonical s → d % pageBytes + n ≤ pageBytes → d < flashBase →
      Completes (.transferLand x []) s fun s' => landed s' n ∧ s'.readAt d n = s.readAt a n ∧
        (∀ b, (b < d ∨ d + n ≤ b) → s'.readAt b 1 = s.readAt b 1) ∧
        (d % 64 = 0 → n % 64 = 0 → ∀ l, l < n / 64 → s'.poisoned (d + 64 * l) 64 = s.poisoned (a + 64 * l) 64)) ∧
    (∀ d n errs, f.arbs = [] → f.move = .zeros d n → MemoriesCanonical s → d % pageBytes + n ≤ pageBytes → d < flashBase →
      Completes (.transferLand x errs) s fun s' => landed s' n ∧ s'.readAt d n = List.replicate n 0 ∧
        (∀ b, (b < d ∨ d + n ≤ b) → s'.readAt b 1 = s.readAt b 1)) ∧
    (∀ a d n t, f.arbs = [] → f.move = .copy a d n → flashBase ≤ d → s.streams.flashTurn.find? (·.1 = stackOf d) = some t →
      t.2.2 + n < 65536 → Completes (.transferLand x []) s fun s' => landed s' n ∧ (∀ b m, s'.readAt b m = s.readAt b m)) ∧
    (∀ a addr n pos ch s2, f.arbs = [] → f.move = .remoteWrite (some a) addr n pos ch none → a < flashBase →
      s.request c.y.easel 1 ch pos addr 0 (s.readAt a n) (s.poisoned a n) (some c.y.id) (some x) = some s2 →
      Completes (.transferLand x []) s fun s' => s' = { s2 with streams := s'.streams } ∧ s'.streams.flows = s2.streams.flows ∧
        s'.streams.xfers = s2.streams.xfers.map fun z => if z.id = x then { z with sent := some (s.fabric.nextTag % 65536) } else z)

/-- An issue whose blocks, runs and transfers are all behind it, as the earlier issues of its stream from its tile are, completes: it is
outstanding no more, and its completion signal leaves, as a remote signal where its last block ends at a far device (R107, R283, R284).
One with something left stays. -/
def IssueCompletes : Prop :=
  ∀ (s : State) (i : Nat) (y : Issue) (k : TileCtx) (d : StreamDesc), s.issue i = some y → s.tileCtx y.tile = some k →
    (s.easel y.easel).stream y.stream = some d →
    ∀ sent, sent = (fun id => ({ kind := .signal, easel := y.easel, sem := id, n := 1, who := .tile y.tile, after := 0, unitClass := 5,
                                 unitId := streamUnit d } : SyncReq)) →
    ((y.finished = false ∨ y.runs ≠ [] ∨ (∃ x ∈ s.streams.xfers, x.issue = y.id) ∨
        ∃ z ∈ s.streams.issues, z.tile = y.tile ∧ z.stream = y.stream ∧ z.id < y.id) → exec (.streamIssueComplete i) s = .next s) ∧
    (y.finished = true → y.runs = [] → (∀ x ∈ s.streams.xfers, x.issue ≠ y.id) →
      (∀ z ∈ s.streams.issues, z.tile = y.tile → z.stream = y.stream → y.id ≤ z.id) →
      ((y.signal = none ∨ ∀ b, d.blocks.getLast? = some b → b.dst ≠ 5) → Completes (.streamIssueComplete i) s fun s' =>
        s' = { s with net := s'.net, streams := s'.streams } ∧
        s'.streams = { s.streams with issues := s.streams.issues.filter (·.id != i) } ∧
        s'.net = s.net ++ (progressSignal k d y ++ y.signal.toList).map sent) ∧
      (∀ b id s2, d.blocks.getLast? = some b → b.dst = 5 → y.signal = some id →
        s.request y.easel 4 b.channel b.position id 1 [] false none none = some s2 → Completes (.streamIssueComplete i) s fun s' =>
          s' = { s2 with
            net := s2.net ++ (progressSignal k d y).map sent
            streams := { s2.streams with issues := s2.streams.issues.filter (·.id != i) } }) ∧
      (∀ b id, d.blocks.getLast? = some b → b.dst = 5 → y.signal = some id →
        s.request y.easel 4 b.channel b.position id 1 [] false none none = none → exec (.streamIssueComplete i) s = .next s))

/-- Transfers land, and an issue completes when all it had to move has landed (R107, R260). -/
def Obligations.TransfersAndIssues : Prop := TransferLands ∧ IssueCompletes
/-! ### Commands and canvases -/

/-- Command `c` of easel `e` has ended (R406): it is in the easel's list no more, the others stand, and COMPLETED of its queue is one
higher. -/
def Ended (e : Nat) (c : Cmd) (s s' : State) : Prop :=
  (s'.easel e).cmds = (s.easel e).cmds.filter (·.seq != c.seq) ∧
  ((s'.easel e).queueAt c.queue).completed = ((s.easel e).queueAt c.queue).completed + 1

/-- Command `c` of easel `e` has started. -/
def Started (e : Nat) (c : Cmd) (s' : State) : Prop := ∃ d ∈ (s'.easel e).cmds, d.seq = c.seq ∧ d.phase = .started

/-- The command the device takes at DESCRIPTOR_TAKE (R402): from the queue whose turn it is, the lowest from the one behind the last
taken on that holds a descriptor, else the lowest of all; under the easel's next sequence number; HEAD one further, and nothing else
changes. An easel that is not BOUND takes none (R44). -/
def Obligations.DescriptorTaken : Prop :=
  (∀ (s : State) (e q : Nat), s.turn e = some q → q < 32 ∧ s.takeable e q = true ∧
    (((s.easel e).nextQueue ≤ q ∧ ∀ j, (s.easel e).nextQueue ≤ j → j < q → s.takeable e j = false) ∨
     ((∀ j, (s.easel e).nextQueue ≤ j → j < 32 → s.takeable e j = false) ∧ ∀ j, j < q → s.takeable e j = false))) ∧
  (∀ (s : State) (e : Nat) (entry : List Byte) (intact : Bool), s.bound e = false → exec (.descriptorTake e entry intact) s = .next s) ∧
  (∀ (s : State) (e q : Nat) (entry : List Byte) (intact : Bool) (u : Queue), s.bound e = true → s.turn e = some q →
    u = (s.easel e).queueAt q → (u.inEasel = true → intact = true) → ∀ r : List Byte × Bool,
    r = (if u.inEasel then s.ringEntry e u else (entry, intact)) → Completes (.descriptorTake e entry intact) s fun s' =>
      OnlyEasel e s s' ∧ (s'.easel e).lastSeq = min ((s.easel e).lastSeq + 1) (2 ^ 48 - 1) ∧
      (s'.easel e).queueAt q = { u with head := (u.head + 1) % 2 ^ 32, state := waitState ((u.head + 1) % 2 ^ 32) u.tail } ∧
      (∀ j, j ≠ q → (s'.easel e).queueAt j = (s.easel e).queueAt j) ∧ (s'.easel e).mode = .bound ∧
      (s'.easel e).canvas = (s.easel e).canvas ∧ (s'.easel e).slots = (s.easel e).slots ∧
      (s'.easel e).cmds = (s.easel e).cmds ++ [{ queue := q, seq := (s.easel e).lastSeq + 1, bytes := bytesAt r.1 0 128, intact := r.2,
                                                 phase := .taken, slots := [], sentFabric := false }])

/-- COMMAND_DISPATCH (R404, R405): the first command taken, once it may start; the checks of Table 15-8 pass and it is dispatched with the
slot vector its entries leave, the record of training steps following its step and last flag; or the first that fails rejects it and its
easel enters FAULTED: the commands dispatched before it run on with what they have under way, the others are gone (R86). A stopped control
sequencer dispatches nothing (Table 1-9). -/
def Obligations.CommandDispatched : Prop :=
  ∀ (s : State) (e : Nat) (c : Cmd), s.bound e = true → (s.easel e).waiting = some c →
    (((s.easel e).startable c = false ∨ s.sequencerStopped e = true) → exec (.commandDispatch e) s = .next s) ∧
    (∀ v, v = applySlots (s.easel e).slots (s.slotEntries e c) → (s.easel e).startable c = true → s.sequencerStopped e = false →
      s.checkHeader e c = none → s.listOk e c = true → (c.op ≠ 2 → s.checkShapes e v (s.slotEntries e c) = none) → Completes (.commandDispatch e) s fun s' =>
        OnlyEasel e s s' ∧ (s'.easel e).slots = v ∧ (s'.easel e).mode = .bound ∧ (s'.easel e).canvas = (s.easel e).canvas ∧
        (∃ d ∈ (s'.easel e).cmds, d.seq = c.seq ∧ d.phase = .dispatched ∧ d.slots = v ∧ d.bytes = c.bytes) ∧
        (c.stepped = true → c.last = true → (s'.easel e).openStep = 0 ∧ (s'.easel e).closedStep = c.step) ∧
        (c.stepped = true → c.last = false → (s'.easel e).openStep = c.step ∧ (s'.easel e).closedStep = (s.easel e).closedStep) ∧
        (c.stepped = false → (s'.easel e).openStep = (s.easel e).openStep ∧ (s'.easel e).closedStep = (s.easel e).closedStep)) ∧
    ((s.easel e).startable c = true → s.sequencerStopped e = false → (s.checkHeader e c ≠ none ∨ s.listOk e c = false ∨
        (c.op ≠ 2 ∧ s.checkShapes e (applySlots (s.easel e).slots (s.slotEntries e c)) (s.slotEntries e c) ≠ none)) →
      Completes (.commandDispatch e) s fun s' => (s'.easel e).mode = .faulted ∧
        (s'.easel e).cmds = (s.easel e).cmds.filter (·.phase != .taken) ∧ ((s.easel e).quiet = false → s'.works e = true ∧
          s'.tiles = s.tiles ∧ s'.streams.issues = s.streams.issues ∧ s'.streams.xfers = s.streams.xfers ∧ s'.sems = s.sems))

/-- RUN_WORK (R91): every tile of the active sheet runs from word 0 with registers at zero, no loop and empty queues; no other tile and
no byte of memory changes. -/
def WorkStarts : Prop :=
  ∀ (s : State) (e : Nat) (c : Cmd), SemaphoresSound s → (s.easel e).dispatched 1 = some c →
    s.works e = true → Completes (.runWork e) s fun s' => Started e c s' ∧ MemoryKept s s' ∧
      (∀ t, t ∈ s.sheetTiles e → (s'.tile t).running = true ∧ (s'.tile t).ended = false ∧ (s'.tile t).pc = 0 ∧
        (∀ r, (s'.tile t).reg r = 0) ∧ (s'.tile t).loops = [] ∧ (s'.tile t).arrayQ = [] ∧ (s'.tile t).vecQ = [] ∧
        (s'.tile t).program = (s.tile t).program) ∧
      (∀ t, t ∉ s.sheetTiles e → s'.tile t = s.tile t) ∧ (∀ f, f ≠ e → s'.easel f = s.easel f)

/-- COMMAND_END (R291): while a tile runs, a posted signal is pending or a reduction whose trigger was reached has not fired (R350), the
command goes on; with every final value met, each semaphore is
at its initial value, each work counter at its first ticket with no claim, and the command has ended; with one missed, the easel is in
FAULTED. `no operation` just ends (R403). A fault deferred to a step boundary, or that of a stopped control sequencer
(Table 1-9), takes the place of the completion there (R359). -/
def CommandEnds : Prop :=
  (∀ (s : State) (e : Nat) (c : Cmd), (s.easel e).running 1 = some c →
    (((∃ t ∈ s.sheetTiles e, (s.tile t).running = true) ∨ s.postedPending e = true ∨ (s.easel e).awaiting ≠ [] ∨
        (s.easel e).rerun ≠ []) → exec (.commandEnd e) s = .next s) ∧
    ((∀ t ∈ s.sheetTiles e, (s.tile t).running = false) → s.postedPending e = false → (s.easel e).awaiting = [] →
      (s.easel e).rerun = [] →
      (s.finalMismatch e c = none → (s.easel e).faultAtBoundary = false → s.sequencerStopped e = false → Completes (.commandEnd e) s fun s' =>
        Ended e c s s' ∧ (s'.easel e).mode = (s.easel e).mode ∧
        (∀ d, (s.easel e).sheetDef = some d →
          (∀ m ∈ d.sems, ∀ k, (s.easel e).semKey m = some k → (∀ q ∈ d.sems, (s.easel e).semKey q = some k → q.initial = m.initial) →
            (s'.sem k).count = BitVec.ofNat 32 m.initial ∧ (s'.sem k).sound = true) ∧
          (∀ w ∈ d.ctrs, (∀ q ∈ d.ctrs, q.number = w.number → q.first = w.first) →
            (s'.counter w.number).value = w.first ∧ (s'.counter w.number).claimed = []))) ∧
      (s.finalMismatch e c ≠ none → s.works e = true → Completes (.commandEnd e) s fun s' =>
        (s'.easel e).mode = .faulted ∧ ∀ k, (s'.sem k).count = (s.sem k).count))) ∧
  (∀ (s : State) (e : Nat) (c : Cmd), (s.easel e).dispatched 8 = some c →
    ((s.easel e).faultAtBoundary = false → s.sequencerStopped e = false → Completes (.noOperation e) s fun s' => Ended e c s s' ∧ (s'.easel e).mode = (s.easel e).mode ∧
      s'.tiles = s.tiles ∧ s'.sems = s.sems) ∧
    (((s.easel e).faultAtBoundary = true ∨ s.sequencerStopped e = true) → s.works e = true → c.last = false → (s.easel e).openStep = 0 →
      (s.easel e).closedStep = 0 → c.step = 0 → Completes (.noOperation e) s fun s' => (s'.easel e).mode = .faulted))

/-- A run-work command starts every tile of its sheet, and ends once they are done and the final values are met (R91, R291). -/
def Obligations.WorkRuns : Prop := WorkStarts ∧ CommandEnds

/-- The programs of the active sheet of easel `e` are in the tiles of its panels, and its semaphores stand at their initial values. -/
def SheetInForce (e : Nat) (s' : State) : Prop :=
  ∀ d, (s'.easel e).sheetDef = some d →
    (∀ p ∈ d.panels, ∀ i ∈ p.tiles, ∀ t, s'.denseOf e i = some t →
      (∀ q ∈ d.panels, ∀ j ∈ q.tiles, s'.denseOf e j = some t → q.program = p.program) →
      (s'.tile t).program = match d.programs.find? (·.1 = p.program) with | some w => w.2 | none => []) ∧
    (∀ m ∈ d.sems, ∀ k, (s'.easel e).semKey m = some k → (∀ q ∈ d.sems, (s'.easel e).semKey q = some k → q.initial = m.initial) →
      (s'.sem k).count = BitVec.ofNat 32 m.initial)

/-- LOAD_CANVAS and CANVAS_LOADED (R66, R67, R82): an image that every check passes is loading, the canvas in force standing until the
commit; one that a check refuses leaves the canvas and ends the command; the commit puts the loaded canvas in force over the tiles bound
now, at sheet 0 with its slots' initial values, and ends the command. -/
def Obligations.CanvasLoads : Prop :=
  (∀ (s : State) (e : Nat) (verified : Bool) (c : Cmd) (b : List Byte) (bad : Bool), (s.easel e).dispatched 2 = some c → s.works e = true →
    s.image e c = (b, bad) →
    (bad = false → checkHead b c.paramLen (s.compat e) = none → checkSignature b = none → s.signatureOk b verified = true →
      s.checkImage e b = none → Completes (.loadCanvas e verified) s fun s' => OnlyEasel e s s' ∧ Started e c s' ∧
        (s'.easel e).loading = some (imCanvas b) ∧ (s'.easel e).canvas = (s.easel e).canvas) ∧
    ((bad = true ∨ checkHead b c.paramLen (s.compat e) ≠ none ∨ checkSignature b ≠ none ∨ s.signatureOk b verified = false ∨
      s.checkImage e b ≠ none) → (s.easel e).faultAtBoundary = false → s.sequencerStopped e = false → Completes (.loadCanvas e verified) s fun s' =>
        Ended e c s s' ∧ (s'.easel e).canvas = (s.easel e).canvas ∧ (s'.easel e).loading = (s.easel e).loading ∧ s'.tiles = s.tiles)) ∧
  (∀ (s : State) (e us : Nat) (c : Cmd) (cv : Canvas), (s.easel e).loading = some cv → (s.easel e).running 2 = some c → s.works e = true →
    (s.easel e).faultAtBoundary = false → s.sequencerStopped e = false → Completes (.canvasLoaded e us) s fun s' => Ended e c s s' ∧
      (s'.easel e).canvas = some { cv with tileMap := s.units e 1 } ∧ (s'.easel e).loading = none ∧ (s'.easel e).sheet = 0 ∧
      (s'.easel e).slots = cv.slots.map (·.2) ∧ SheetInForce e s' ∧ ∀ t, (s'.tile t).regs = (s.tile t).regs)

/-- SHEET_SWITCH to SHEET_SWITCHED (R60, R61) and REWEIGHT to PANEL_REWEIGHTED (R230, R231): a switch starts, then the sheet its argument
names is in force and the command has ended; a block of moves that is refused changes nothing of the arrangement and ends, a legal one
starts; then the new arrangement is in force, and semaphores and counters keep their values. -/
def Obligations.SheetsAndPanels : Prop :=
  (∀ (s : State) (e : Nat) (c : Cmd), (s.easel e).dispatched 3 = some c → s.works e = true → Completes (.sheetSwitch e) s fun s' =>
    OnlyEasel e s s' ∧ Started e c s' ∧ (s'.easel e).sheet = (s.easel e).sheet) ∧
  (∀ (s : State) (e : Nat) (c : Cmd), (s.easel e).running 3 = some c → s.works e = true → (s.easel e).faultAtBoundary = false →
    s.sequencerStopped e = false → Completes (.sheetSwitched e) s fun s' => Ended e c s s' ∧ (s'.easel e).sheet = c.argument ∧ (s'.easel e).moved = none ∧
      (s'.easel e).canvas = (s.easel e).canvas ∧ SheetInForce e s') ∧
  (∀ (s : State) (e : Nat) (c : Cmd) (sh : Sheet), (s.easel e).dispatched 4 = some c → (s.easel e).sheetDef = some sh → s.works e = true →
    (∀ sh', checkReweight (s.blockOf e c) sh = .inr sh' → Completes (.reweight e) s fun s' => OnlyEasel e s s' ∧ Started e c s' ∧
      (s'.easel e).rearranged = some sh' ∧ (s'.easel e).sheetDef = some sh) ∧
    (∀ r, checkReweight (s.blockOf e c) sh = .inl r → (s.easel e).faultAtBoundary = false → s.sequencerStopped e = false → Completes (.reweight e) s fun s' =>
      Ended e c s s' ∧ (s'.easel e).sheetDef = some sh ∧ s'.tiles = s.tiles ∧ s'.sems = s.sems)) ∧
  (∀ (s : State) (e us : Nat) (c : Cmd) (sh : Sheet), (s.easel e).running 4 = some c → (s.easel e).rearranged = some sh → s.works e = true →
    (s.easel e).canvas.isSome = true → (s.easel e).faultAtBoundary = false → s.sequencerStopped e = false → Completes (.panelReweighted e us) s fun s' =>
      Ended e c s s' ∧ (s'.easel e).sheetDef = some sh ∧ (s'.easel e).rearranged = none ∧ s'.sems = s.sems ∧ s'.counters = s.counters ∧
      (∀ p ∈ sh.panels, ∀ i ∈ p.tiles, ∀ t, s.denseOf e i = some t →
        (∀ q ∈ sh.panels, ∀ j ∈ q.tiles, s.denseOf e j = some t → q.program = p.program) →
        (s'.tile t).program = match sh.programs.find? (·.1 = p.program) with | some w => w.2 | none => []))

/-! ### The primer -/

/-- The intakes with intake `x` replaced by `y`. -/
def intakesWith (s : State) (x y : Intake) : List Intake :=
  s.primer.intakes.map fun i => if i.easel = x.easel ∧ i.seq = x.seq then y else i

/-- INTAKE, INTAKE_START and INTAKE_COMPLETE (R303, R304): once the arbiters have granted its reads (R322), a block that every check of
Table 12-2 passes is an intake behind the others, with its spares decoded and nothing delivered; one that a check refuses puts its easel in
FAULTED and leaves no intake of it. The first intake of the easel that waits starts once no earlier intake names a lane of it. One whose
records are all delivered completes. -/
def Obligations.IntakeRuns : Prop :=
  (∀ (s : State) (e : Nat) (c : Cmd), (s.easel e).dispatched 5 = some c → s.works e = true →
    ThroughArbiters (.intake e []) s (.intake e) 16384
      (s.arbsSpace (firstLane (s.blockOf e c) / 16) e (ibSpace (s.blockOf e c)) (ibBase (s.blockOf e c)) 64) fun t s' =>
      ∀ (raw b : List Byte) (dirty : Bool), raw = t.blockOf e c → b = t.withDefaults e raw →
        dirty = t.poisonedVa e (c.param + 16 * c.listCount) 144 →
      (dirty = false → t.intakeFields e raw = none → t.intakeFault e b false = none →
        s' = { t with primer := s'.primer }.setEasel e (s'.easel e) ∧ Started e c s' ∧ (s'.easel e).mode = (t.easel e).mode ∧
        s'.primer.lanes = t.primer.lanes ∧ ∃ k : Intake, s'.primer.intakes = t.primer.intakes ++ [k] ∧ k.easel = e ∧ k.seq = c.seq ∧
          k.step = c.step ∧ k.block = b ∧ k.started = false ∧ k.taken = 0 ∧ k.delivered = 0 ∧ k.spares.length = ibSpares b) ∧
      ((dirty = true ∨ t.intakeFields e raw ≠ none ∨ t.intakeFault e b dirty ≠ none) →
        (s'.easel e).mode = .faulted ∧ (s'.easel e).cmds = [] ∧ ∀ i ∈ s'.primer.intakes, i.easel ≠ e)) ∧
  (∀ (s : State) (e : Nat) (x : Intake), startable e s.primer.intakes 0 = some x →
    (x.easel = e ∧ x.started = false ∧ ∃ before behind, s.primer.intakes = before ++ x :: behind ∧
      ∀ y ∈ before, ∀ l, (ibLanes x.block).testBit l = true → (ibLanes y.block).testBit l = false) ∧
    Completes (.intakeStart e) s fun s' => s' = { s with primer := s'.primer } ∧ s'.primer.lanes = s.primer.lanes ∧
      s'.primer.intakes = intakesWith s x { x with started := true }) ∧
  (∀ (s : State) (e : Nat) (x : Intake) (c : Cmd),
    s.primer.intakes.find? (fun i => i.easel = e && i.started && i.consumed = ibCount i.block && i.row.isEmpty) = some x →
    (s.easel e).cmds.find? (·.seq = x.seq) = some c → (s.easel e).faultAtBoundary = false → s.sequencerStopped e = false → Completes (.intakeComplete e) s fun s' =>
      Ended e c s s' ∧ s'.primer.intakes = s.primer.intakes.filter (fun i => !(decide (i.easel = e) && decide (i.seq = x.seq))) ∧
      s'.primer.lanes = s.primer.lanes ∧ s'.tiles = s.tiles)

/-- LANE_RECORD_TAKE, SAMPLE_SKIPPED_BUDGET and SAMPLE_DECODE_DONE (R315, R316, R318, R322): a free lane takes the intake's next record,
through the arbiters, into the reorder buffer, and is busy with it unless a check made skips it; a sample whose work passes its budget is
skipped (0x0602), one within it is decoded, or skipped (0x0601) where its payload is corrupt; then the lane is free. No byte of memory
changes. A node of the tokenizer table that cannot be read stops the easel (R323). -/
def LanesDecode : Prop :=
  (∀ (s : State) (l : Nat) (x : Intake), s.intakeOfLane l = some x → (∀ q ∈ s.primer.lanes, q.1 ≠ l) → x.taken < ibCount x.block →
    x.bufferRoom = true → ThroughArbiters (.laneRecordTake l []) s (.lane l) 16384 (s.recordArbs l x) fun t s' =>
      ∀ r, r = t.recordOf x.easel (ibSpace x.block) (ibBase x.block) (ibKind x.block) (ibFirst x.block + x.taken) →
      s' = { t with primer := s'.primer } ∧ ∃ o : Output,
      o.index = x.taken ∧ o.lane = l ∧ o.sampleId = r.1 ∧ o.sample = none ∧ (o.ready = true ↔ o.skip ≠ 0) ∧
      (r.2 = none → o.skip = 0x0601) ∧ (∀ p, r.2 = some p → o.skip = (preCheck x.block p).1 ∧ o.payload = p) ∧
      s'.primer.intakes = intakesWith t x { x with taken := x.taken + 1, buffer := x.buffer ++ [o] } ∧
      (o.skip = 0 → s'.primer.lanes = tset t.primer.lanes l ⟨x.easel, x.seq, x.taken⟩) ∧ (o.skip ≠ 0 → s'.primer.lanes = t.primer.lanes)) ∧
  (∀ (s : State) (l : Nat) (x : Intake) (o : Output) (c : Claim), s.decoding l = some (x, o, c) →
    ∀ work limit, work = s.workOf x.easel x.block o.payload c (s.cropFor x o.index c) → limit = budgetOf x.block o.payload c →
    ∀ done : Output → State → Prop, (∀ o' s', done o' s' ↔ s' = { s with primer := s'.primer } ∧ (∀ q ∈ s'.primer.lanes, q.1 ≠ l) ∧
      s'.primer.intakes = intakesWith s x { x with buffer := x.buffer.map fun p => if p.index = o.index then { o' with ready := true } else p }) →
    (limit < work → Completes (.sampleSkippedBudget l) s (done { o with skip := 0x0602 }) ∧ exec (.sampleDecodeDone l []) s = .next s) ∧
    (work ≤ limit → exec (.sampleSkippedBudget l) s = .next s ∧
      ((isText (ibKind x.block) = true → utf8Ok o.payload = true → (s.tokensOf x.easel x.block o.payload).2.2 = false) →
        (∀ d, s.decodeSample x.easel x.block o.payload c (s.cropFor x o.index c) = some d →
          Completes (.sampleDecodeDone l []) s (done { o with sample := some d })) ∧
        (s.decodeSample x.easel x.block o.payload c (s.cropFor x o.index c) = none →
          Completes (.sampleDecodeDone l []) s (done { o with skip := 0x0601 }))) ∧
      (isText (ibKind x.block) = true → utf8Ok o.payload = true → (s.tokensOf x.easel x.block o.payload).2.2 = true →
        s.works x.easel = true → Completes (.sampleDecodeDone l []) s fun s' => (s'.easel x.easel).mode = .faulted)))

/-- PRIMER_OUTPUT_DELIVERY (R312, R317 to R322): records are delivered in their order, through the arbiters of what is written. The head of
the reorder buffer, decoded and with its place free, is written whole at the place of the next output, `primer_next` moves past it, and in
memory mode its semaphore is signalled once. A skipped one takes the next skip index, its spare and a log entry; `next_skip` is that of the
latest intake (R324). A text joins its row, nothing written, where the row has room; a row of 65,535 segments, or the last one, is written
by itself. -/
def OutputsDelivered : Prop :=
  ∀ (s : State) (e : Nat) (x : Intake),
    s.primer.intakes.find? (fun i => i.easel = e && i.started && (s.deliverNext i).isSome) = some x →
    ∀ a, a = (if ibMemory x.block = true then ibOut x.block + x.delivered * ibPitch x.block
              else ibOut x.block + x.delivered % max x.ring 1 * ibSlot x.block) →
    (∀ o : Output, x.buffer.find? (·.index = x.consumed) = some o → o.ready = true →
      ∀ rest, rest = x.buffer.filter (·.index != o.index) →
      (isText (ibKind x.block) = false → x.placeFree = true → o.skip = 0 →
        ∀ p : Placed, p = ⟨o.lane, o.sampleId, ibOrdinal x.block + o.index, 0, 0xFFFF, 0xFFFFFFFF, o.sample.getD Sample.empty⟩ →
        ThroughArbiters (.primerOutputDelivery e) s (.output e x.seq) 16384 (s.outputArbs x) fun t s' =>
          s'.mem = (t.writeVa e a (t.outputBytes x p)).mem ∧ s'.easels = t.easels ∧ s'.tiles = t.tiles ∧ s'.sems = t.sems ∧
          s'.primer.intakes = intakesWith t x { x with consumed := x.consumed + 1, delivered := x.delivered + 1, buffer := rest } ∧
          tget 0 s'.primer.nextOrdinal e = ibOrdinal x.block + o.index + 1 ∧
          s'.net = t.net ++ (if ibMemory x.block = true then
            [{ kind := .signal, easel := e, sem := ibSem x.block, n := 1, who := .tile 0, after := 0, unitClass := 0x06, unitId := o.lane }]
            else [])) ∧
      (isText (ibKind x.block) = false → x.placeFree = true → o.skip ≠ 0 →
        ThroughArbiters (.primerOutputDelivery e) s (.output e x.seq) 16384 (s.outputArbs x) fun t s' =>
          (∃ y ∈ s'.primer.intakes, y.easel = e ∧ y.seq = x.seq ∧ y.skips = x.skips + 1 ∧ y.delivered = x.delivered + 1 ∧ y.buffer = rest) ∧
          tget (0, 0) s'.primer.nextSkip e = (if (tget (0, 0) t.primer.nextSkip e).1 = x.seq
            then (x.seq, ((ibK0 x.block + x.skips) % 2 ^ 32 + 1) % 2 ^ 32) else tget (0, 0) t.primer.nextSkip e) ∧
          s'.tiles = t.tiles ∧ s'.sems = t.sems) ∧
      (∀ d : Sample, isText (ibKind x.block) = true → x.rowCloses = false → o.skip = 0 → o.sample = some d → d.values ≠ [] →
        d.values.length ≤ ibMaxA x.block → x.rowUsed + d.values.length ≤ ibMaxA x.block → x.row.length + 1 ≠ 65535 →
        x.consumed + 1 ≠ ibCount x.block → ThroughArbiters (.primerOutputDelivery e) s (.output e x.seq) 16384 [] fun t s' =>
          s' = { t with primer := s'.primer } ∧ s'.primer.intakes = intakesWith t x { x with
            consumed := x.consumed + 1
            buffer := rest
            row := x.row ++ [⟨o.lane, o.sampleId, ibOrdinal x.block + o.index, 0, 0xFFFF, 0xFFFFFFFF, d⟩] })) ∧
    (isText (ibKind x.block) = true → (x.row.length = 65535 ∨ (x.consumed = ibCount x.block ∧ x.row ≠ [])) → x.placeFree = true →
      ThroughArbiters (.primerOutputDelivery e) s (.output e x.seq) 16384 (s.outputArbs x) fun t s' =>
        s'.mem = (t.writeVa e a (rowBytes x)).mem ∧ s'.easels = t.easels ∧ s'.tiles = t.tiles ∧ s'.sems = t.sems ∧
        s'.primer.intakes = intakesWith t x { x with delivered := x.delivered + 1, row := [] })

/-- The lanes of the primer decode, and what they decode is delivered in record order (R312, R315 to R321). -/
def Obligations.LanesDeliver : Prop := LanesDecode ∧ OutputsDelivered
/-! ### Glaze units, verdicts and reductions -/

/-- UPDATE, UPDATE_APPLY and UPDATE_COMPLETE (R361, R362, R364): a block that the checks pass is the easel's update, nothing written; once its step
is decided a skipped step writes nothing and waits for no done value any more, else, with every done value reached and the other varnish buffer free, every entry is passed over
once the arbiters have granted it; the select flips unless the step was skipped, and the command ends. A block that a check refuses puts the easel in FAULTED. -/
def Obligations.UpdateRuns : Prop :=
  (∀ (s : State) (e : Nat) (c : Cmd) (b : List Byte), (s.easel e).dispatched 6 = some c → s.works e = true → (s.easel e).update = none →
    b = s.blockOf e c → ∀ r, r = s.updateFault e b (s.poisonedVa e (c.param + 16 * c.listCount) 64) c.step →
    (r = none → SemaphoresSound s → Completes (.update e) s fun s' => Started e c s' ∧ MemoryKept s s' ∧ s'.tiles = s.tiles ∧
      (s'.easel e).select = (s.easel e).select ∧ ∃ u, (s'.easel e).update = some u ∧ u.seq = c.seq ∧ u.step = c.step ∧ u.block = b ∧
        s.glazeTable e b = some u.entries ∧ u.applied = false ∧ u.skipped = false) ∧
    (r ≠ none → Completes (.update e) s fun s' => (s'.easel e).mode = .faulted ∧ (s'.easel e).update = none)) ∧
  (∀ (s : State) (e : Nat) (u : Update), (s.easel e).update = some u → s.works e = true → u.applied = false →
    (s.easel e).decided u.step = true →
    ((s.easel e).wasSkipped u.step = true → ∀ errs, Completes (.updateApply e errs) s fun s' =>
      s' = { s with sems := s'.sems }.setEasel e { s.easel e with update := some { u with applied := true, skipped := true, waiters := [] } } ∧
      (∀ k, (s'.sem k).count = (s.sem k).count ∧ ∀ v ∈ (s'.sem k).values, ∀ i, v.who ≠ .update e i)) ∧
    ((s.easel e).wasSkipped u.step = false → u.waiters = [] → (s.easel e).bufferHeld (1 - (s.easel e).select) = false →
      ThroughArbiters (.updateApply e []) s (.glaze e) 1024 (s.arbsBeside e (u.entries.flatMap gRegions)) fun t s' =>
        ∀ w : Pass, w = ⟨u.step, ((t.easel e).verdict u.step).k, of32 (ubScale u.block), policy t (0x3000 + e) 4, (t.easel e).select⟩ →
        s'.mem = (t.passAll e u.entries w).s.mem ∧ (s'.easel e).select = (t.easel e).select ∧ s'.tiles = t.tiles ∧ s'.sems = t.sems ∧
        ∃ l, (s'.easel e).update = some { u with applied := true, nonfinite := (t.passAll e u.entries w).skips, writes := l } ∧
          ∀ p, p ∈ l ↔ ∃ g ∈ u.entries, ∃ q ∈ gPlanes g, p = (q.1 + (1 - (t.easel e).select) * gVarnish g, q.2)) ∧
    ((s.easel e).wasSkipped u.step = false → u.waiters = [] → (s.easel e).bufferHeld (1 - (s.easel e).select) = true → u.stalled = false →
      ∀ errs, Completes (.updateApply e errs) s fun s' => (s'.easel e).update = some { u with stalled := true } ∧
        (s'.easel e).varnishStalls = min (2 ^ 64 - 1) ((s.easel e).varnishStalls + 1))) ∧
  (∀ (s : State) (e : Nat) (u : Update) (c : Cmd), (s.easel e).update = some u → (s.easel e).running 6 = some c → s.works e = true →
    u.applied = true → (s.easel e).faultAtBoundary = false → s.sequencerStopped e = false → Completes (.updateComplete e) s fun s' => Ended e c s s' ∧
      (s'.easel e).update = none ∧ s'.tiles = s.tiles ∧
      (u.skipped = true → (s'.easel e).select = (s.easel e).select ∧ (s'.easel e).lastApplied = (s.easel e).lastApplied) ∧
      (u.skipped = false → (s'.easel e).select = 1 - (s.easel e).select ∧ (s'.easel e).lastApplied = u.step ∧
        (s'.easel e).lastBlock = u.block ∧ (s'.easel e).lastEntries = u.entries))

/-- EXPORT, CHECKPOINT_WRITTEN and LOG_ENTRY_WRITE (R370, R373, R392): an export is registered with its buffer and its command ends at its
acceptance; an export to easel memory is written there with its header; a drain through the stage is copied to the stage first, which frees its
buffer (Table 14-4), each copy as its arbiters grant it; an image whose header is acknowledged ends its drain and, for the partner's
checkpoint, the log entries it covers; the log entry of the waiting update's step takes the next position of the partner's log. -/
def Obligations.CheckpointsAndLog : Prop :=
  (∀ (s : State) (e : Nat) (c : Cmd) (b : List Byte) (space format : Nat), (s.easel e).dispatched 7 = some c → s.works e = true →
    b = s.blockOf e c → space = fld (at8 b 8 1) 0 4 → format = fld (at8 b 8 1) 4 4 →
    s.poisonedVa e (c.param + 16 * c.listCount) 32 = false → s.exportLegal e b c.step = true →
    (c.step = (s.easel e).lastApplied → space = 1 →
      s.mapped e (at8 b 0 8) (128 + payloadBytes (s.easel e).lastEntries (s.extras e) format) = true) →
    (s.easel e).faultAtBoundary = false → s.sequencerStopped e = false → Completes (.exportImage e) s fun s' => Ended e c s s' ∧
      (s'.easel e).nextDrain = (s.easel e).nextDrain + 1 ∧ (s'.easel e).select = (s.easel e).select ∧
      ∃ d, (s'.easel e).drains = (s.easel e).drains ++ [d] ∧
        d.id = (s.easel e).nextDrain ∧ d.layer = 4 ∧ d.step = c.step ∧ d.buffer = (s.easel e).select ∧
        (d.held = true ↔ c.step = (s.easel e).lastApplied) ∧ d.space = space ∧ d.address = at8 b 0 8 ∧ d.format = format) ∧
  (∀ (s : State) (e layer : Nat) (d : Drain),
    (s.easel e).drains.find? (fun d => d.layer = layer && (d.phase != 0 || d.held || (s.easel e).slotWritten d)) = some d →
    (d.via = 0 → d.space = 5 → d.phase = 2 → s.drainOpen e d = true → exec (.checkpointWritten e layer) s = .next s) ∧
    (d.via = 0 → d.space = 1 → ThroughArbiters (.checkpointWritten e layer) s (.drain e d.id) ((s.easel e).drainSlack d) (s.drainArbs e d)
      fun t s' => ∀ b bad, t.drainPayload e d = some (b, bad) → t.mapped e d.address (128 + b.length) = true →
        ∃ u : State, u.mem = (t.writeMarked e 1 d.address (imageHeader d.facts 4 d.step d.format b ++ b) ([false, false] ++ bad)).mem ∧
          (u.easel e).drains = (t.easel e).drains.filter (·.id != d.id) ∧ u.tiles = t.tiles ∧
          s' = u.reportSeq 0x0904 e 0x09 0 (u.easel e).lastSeq d.step d.layer) ∧
    (d.via = 1 → d.phase = 0 → ThroughArbiters (.checkpointWritten e layer) s (.drain e d.id) ((s.easel e).drainSlack d) (s.drainArbs e d)
      fun t s' => ∀ b, t.payload e d.facts d.buffer 0 = some b →
        (∀ q ∈ (s'.easel e).drains, q.id = d.id → q.held = false ∧ q.phase = 1) ∧
        ∃ bad, s'.mem = (t.writeMarked e 1 (policy t (0x9040 + e) 6) (imageHeader d.facts d.layer d.step 0 b ++ b) bad).mem) ∧
    (d.via = 0 → d.space = 5 → d.phase = 2 → s.drainOpen e d = false → Completes (.checkpointWritten e layer) s fun s' =>
      (s'.easel e).drains = (s.easel e).drains.filter (·.id != d.id) ∧
      (s'.easel e).ckptLast = (if layer = 4 then (s.easel e).ckptLast else (s.easel e).ckptLast.set (layer - 1) d.step) ∧
      (s'.easel e).logs = (if layer = 1 then (s.easel e).logs.filter (fun l => decide (d.step < l.step)) else (s.easel e).logs) ∧
      (s'.easel e).cmds = (s.easel e).cmds ∧ s'.tiles = s.tiles ∧ s'.sems = s.sems)) ∧
  (∀ (s : State) (e ch : Nat) (u : Update), (s.easel e).update = some u → s.drainChannel e = some ch → s.works e = true →
    s.layerOn e 1 = true → (∀ l ∈ (s.easel e).logs, l.step ≠ u.step) → u.step ≤ (s.easel e).lastDone →
    ∀ skipped : Bool, skipped = ((s.easel e).decided u.step && (s.easel e).wasSkipped u.step) →
    (skipped = true ∨ (s.easel e).shardsIn u = true) → ThroughArbiters (.logEntryWrite e) s (.log e u.step) 1024
      (if skipped = true then [] else s.arbsBeside e (u.entries.map fun g => (gShard g, 4 * gCount g))) fun t s' => t.ownPort ch ≠ none →
      MemoryKept t s' ∧ s'.tiles = t.tiles ∧
      (s'.easel e).logPos = ((t.easel e).logPos + 1) % (2 * t.every e 1) ∧ (s'.easel e).update = some u ∧
      ∃ l, (s'.easel e).logs = (t.easel e).logs ++ [l] ∧ l.step = u.step ∧ l.address = policy t (0x9040 + e) 2 +
        2 * t.imageRoom e u.entries + (t.easel e).logPos % (2 * t.every e 1) * (64 + shardBytes u.entries))

/-- Step `t` of easel `e` is decided: skipped where an element was not finite; the loss-scale exponent follows R169. -/
def Decided (e t nonfinite : Nat) (s s' : State) : Prop :=
  (s'.easel e).decided t = true ∧ ((s'.easel e).wasSkipped t = true ↔ nonfinite ≠ 0) ∧ ((s'.easel e).verdict t).k = (s.easel e).lossExp ∧
  (s'.easel e).lossNext = some ((s'.easel e).verdict t).next ∧ (s'.easel e).verdictStep = t ∧
  (nonfinite ≠ 0 → ((s'.easel e).verdict t).next = max ((s.easel e).lossExp - 1) (-16) ∧ (s'.easel e).clean = 0 ∧
    (s'.easel e).skippedSteps = (s.easel e).skippedSteps + 1) ∧
  (nonfinite = 0 → (s'.easel e).skippedSteps = (s.easel e).skippedSteps ∧
    (policy s (0x8040 + e) 3 ≤ (s.easel e).clean + 1 → ((s'.easel e).verdict t).next = min ((s.easel e).lossExp + 1) 32 ∧
      (s'.easel e).clean = 0) ∧
    ((s.easel e).clean + 1 < policy s (0x8040 + e) 3 → ((s'.easel e).verdict t).next = (s.easel e).lossExp ∧
      (s'.easel e).clean = (s.easel e).clean + 1))

/-- VERDICT_WORD_SEND, STEP_VERDICT and VERDICT_TIMEOUT (R166, R169, R354): an easel of a group sends its word once the step's last command
has completed and its log entry is acknowledged, and decides the step on the group's total for it; one in no group decides it on its own word.
A word whose total does not come puts the easel in FAULTED. -/
def Obligations.StepsDecided : Prop :=
  ∀ (s : State) (e : Nat), s.works e = true →
    (∀ v p t k, s.groupChannel e = some v → t = (s.easel e).lastDone → t ≠ 0 → (s.easel e).decided t = false → (s.easel e).wordSent ≠ t →
      (s.layerOn e 1 = true → ∃ l ∈ (s.easel e).logs, l.step = t ∧ l.phase = 2) → segmentPort (s.mask v) 0 = some p →
      s.sendWord v t ((s.easel e).word t) = some k → Completes (.verdictWordSend e) s fun s' =>
        (s'.easel e).wordSent = t ∧ s'.fabric = k.fabric ∧ s'.out = k.out ∧ MemoryKept s s' ∧ (s'.easel e).verdicts = (s.easel e).verdicts) ∧
    (∀ t, s.groupChannel e = none → t = (s.easel e).lastDone → t = (s.easel e).closedStep → t ≠ 0 → (s.easel e).decided t = false →
      Completes (.stepVerdict e) s (Decided e t ((s.easel e).word t % 2 ^ 32) s)) ∧
    (∀ v k a, s.groupChannel e = some v → s.totalFor v = some (k, a) → (s.easel e).restore = none → a.packet.b ≠ 0 →
      (s.easel e).decided a.packet.b = false →
      ((s.easel e).wordSent = a.packet.b → Completes (.stepVerdict e) s (Decided e a.packet.b (at8 a.packet.payload 0 4) s)) ∧
      ((s.easel e).wordSent ≠ a.packet.b → Completes (.stepVerdict e) s fun s' => s'.easels = s.easels ∧ MemoryKept s s')) ∧
    (∀ v, s.groupChannel e = some v → (s.easel e).wordSent ≠ 0 → (s.easel e).decided (s.easel e).wordSent = false →
      Completes (.verdictTimeout e) s fun s' => (s'.easel e).mode = .faulted ∧ (s'.easel e).verdicts = (s.easel e).verdicts)

/-- REDUCTION_FIRE, SHARD_DELIVERY, REDUCTION_TIMEOUT and GROUP_MASK_SWITCH (R350, R351, R353): a reduction whose trigger has come fires once
in a training step, as its arbiters grant it (R265), and is counted and ignored after that; a segment of the firing is written at its place in the shard window and counted,
one that has landed or names another step changes no byte, one outside the window puts the easel in FAULTED, as does a firing not complete in time;
a staged port mask is in force from the step it names. -/
def Obligations.ReductionsRun : Prop :=
  (∀ (s : State) (e r : Nat) (c : Cmd) (d : RedEntry), (s.easel e).running 1 = some c →
    ((s.easel e).sheetDef.bind fun d => d.reds[r]?) = some d → r ∈ (s.easel e).awaiting → s.works e = true →
    ((c.step = 0 ∨ (d.channel, d.id, c.step) ∉ (s.easel e).fired) →
      ThroughArbiters (.reductionFire e r []) s (.reduction e r) 4096 (s.reductionArbs e d) fun t s' =>
      MemoryKept t s' ∧ r ∉ (s'.easel e).awaiting ∧ (d.channel, d.id, c.step) ∈ (s'.easel e).fired ∧
      (s'.easel e).firing d.channel d.id =
        some ⟨d.channel, d.id, c.step, c.seq, t.reductionScale e d, [], healthZero, true, decide (t.shardCount d = 0)⟩) ∧
    (c.step ≠ 0 → (d.channel, d.id, c.step) ∈ (s.easel e).fired → ∀ errs, Completes (.reductionFire e r errs) s fun s' =>
      tget 0 s'.fabric.ignored e = tget 0 s.fabric.ignored e + 1 ∧ s'.fabric.ports = s.fabric.ports ∧ r ∉ (s'.easel e).awaiting ∧
      (s'.easel e).firings = (s.easel e).firings ∧ MemoryKept s s')) ∧
  (∀ (s : State) (k e seg : Nat) (a : Arrival) (r : RedEntry) (f : Firing), s.arrival k 7 = some a → a.packet.channel ≠ 16 →
    s.reach a.packet = .easel e → seg = fld a.packet.a 24 32 → (s.easel e).redEntry a.packet.channel (fld a.packet.a 0 24) = some r →
    (s.easel e).firing a.packet.channel (fld a.packet.a 0 24) = some f →
    (f.step ≠ a.packet.b → Completes (.shardDelivery k) s fun s' => s'.easels = s.easels ∧ MemoryKept s s') ∧
    (∀ slot, f.step = a.packet.b → s.segmentSlot r seg = some slot → a.packet.payload.length = 4096 →
      (seg ∈ f.landed → Completes (.shardDelivery k) s fun s' => s'.easels = s.easels ∧ MemoryKept s s') ∧
      (seg ∉ f.landed → Completes (.shardDelivery k) s fun s' => s'.tiles = s.tiles ∧ s'.sems = s.sems ∧ ∃ g,
        (s'.easel e).firing a.packet.channel (fld a.packet.a 0 24) = some g ∧ g.step = f.step ∧
        (∀ j, j ∈ g.landed ↔ j = seg ∨ j ∈ f.landed) ∧ (g.complete = true ↔ s.shardCount r ≤ g.landed.length) ∧
        (g.complete = false → s'.mem = (s.writeSpace e r.shardSpace (r.shardBase + 4096 * slot) ((List.range 1024).flatMap fun j =>
          leBytes 4 (shardElem r.wire f.scale (at8 a.packet.payload (4 * j) 4)))).mem))) ∧
    (f.step = a.packet.b → s.segmentSlot r seg = none → s.works e = true → Completes (.shardDelivery k) s fun s' =>
      (s'.easel e).mode = .faulted)) ∧
  (∀ (s : State) (e r : Nat) (d : RedEntry) (f : Firing), ((s.easel e).sheetDef.bind fun d => d.reds[r]?) = some d →
    (s.easel e).firing d.channel d.id = some f →
    (f.complete = true → exec (.reductionTimeout e r) s = .next s) ∧
    (f.complete = false → s.works e = true → Completes (.reductionTimeout e r) s fun s' => (s'.easel e).mode = .faulted)) ∧
  (∀ (s : State) (e v step : Nat), s.ownerOf 7 v = some e → step = policy s (0x6110 + v) 7 →
    (if (s.easel e).openStep ≠ 0 then (s.easel e).openStep else (s.easel e).closedStep) = step →
    (∀ f ∈ (s.easel e).fired, f.1 = v → f.2.2 = step → step = 0) → Completes (.groupMaskSwitch v) s fun s' =>
      s' = { s with fabric := { s.fabric with masks := s'.fabric.masks } } ∧ s'.mask v = policy s (0x6110 + v) 6 ∧
      ∀ w, w ≠ v → s'.mask w = s.mask w)

/-! ### The fabric -/

/-- Port `p` exchanges flits. -/
def linked (s : State) (p : Nat) : Bool := (s.port p).up || (s.port p).state = 1

/-- The flits of the replay buffer of `x` as they leave port `p`. -/
def replayed (p : Nat) (x : Port) : List Out := x.replay.map fun f => .flit p f.2.1

/-- Lanes `l` of a port and its spare all train, and none measures too many errors (R335). -/
def LanesGood (s : State) (found : List (Option Nat)) (l : List Nat) (spare : Nat) : Prop :=
  ∀ i, i ∈ l ∨ i = spare → ∃ k, laneFound found i = some k ∧ s.laneBad k = false

/-- DATA_FLIT, NAK_FLIT, IDLE_FLIT, RETRY_LIMIT_REACHED and ACK_TIMEOUT (R329 to R332): an intact data flit in sequence is taken once; a bad one
is not, and a NAK leaves; the ack of any intact flit takes what it names out of the replay buffer and its credit is added; a NAK and a retrain
send the rest again, with the spare in the place of a lane that measures badly as it trains again (R331, R335); a port that does not train again
is down. No byte of memory changes where a port stays up. -/
def Obligations.FlitsTaken : Prop :=
  (∀ (s : State) (p : Nat) (flit : List Byte) (whole : Bool) (fec : List MemErr), linked s p = true →
    (flitIntact whole flit = true → flitKind flit = 0 → flitLegal flit = true → at8 flit 2 2 = (s.port p).rxSeq →
      Completes (.dataFlit p flit whole fec) s fun s' => (s'.port p).rxSeq = ((s.port p).rxSeq + 1) % 65536 ∧
        (s'.port p).nakSent = false ∧ s'.easels = s.easels ∧ MemoryKept s s' ∧ s.fabric.received <+: s'.fabric.received) ∧
    ((flitIntact whole flit = false ∨ (flitKind flit = 0 ∧ flitLegal flit = false)) →
      Completes (.dataFlit p flit whole fec) s fun s' => (s'.port p).rxSeq = (s.port p).rxSeq ∧ (s'.port p).nakSent = true ∧
        s'.fabric.received = s.fabric.received ∧ MemoryKept s s' ∧ ∃ l bs, s'.out = s.out ++ l ++ [.flit p bs] ∧ flitKind bs = 2) ∧
    (flitIntact whole flit = true → flitKind flit = 2 → flitLegal flit = true → Completes (.nakFlit p flit whole fec) s fun s' =>
      (s'.port p).naks = (if (s.port p).progress flit then 0 else (s.port p).naks + 1) ∧ MemoryKept s s' ∧
      ∃ l, (s.out ++ l ++ replayed p ((s.port p).takeHeader flit)) <+: s'.out) ∧
    (flitIntact whole flit = true → flitKind flit = 1 → flitLegal flit = true → (s.port p).waiting = [] →
      Completes (.idleFlit p flit whole fec) s fun s' => s' = { s with fabric := s'.fabric, out := s'.out } ∧
        (s'.port p).replay = ((s.port p).takeHeader flit).replay ∧
        tget 0 (s'.port p).credits (at8 flit 6 1) = tget 0 (s.port p).credits (at8 flit 6 1) + at8 flit 7 1)) ∧
  (∀ (s : State) (p : Nat) (found : List (Option Nat)) (c : Instr) (trained : Bool), (s.port p).up = true →
    (c = .retryLimitReached p trained found ∧ policy s 0x6000 5 ≤ (s.port p).naks ∨
      c = .ackTimeout p trained found ∧ (s.port p).replay ≠ []) → (∀ i ∈ (s.port p).failed, i ∉ (s.port p).lanes) →
    (trained = true → LanesGood s found (s.port p).lanes (spareLane (s.port p).ganged) → Completes c s fun s' =>
      (s'.port p).up = true ∧ (s'.port p).lanes = (s.port p).lanes ∧ (s'.port p).naks = 0 ∧ (s'.port p).replay = (s.port p).replay ∧
      MemoryKept s s' ∧ s'.out = s.out ++ replayed p (s.port p)) ∧
    (∀ lane, trained = true → lane ∈ (s.port p).lanes → s.badLanes found (insertSet (s.port p).lanes (spareLane (s.port p).ganged)) = [lane] →
      lane ≠ spareLane (s.port p).ganged → spareLane (s.port p).ganged ∉ (s.port p).failed → (∀ t ∈ s.fabric.taken, t.1 ≠ p / 2) →
      Completes c s fun s' => (s'.port p).up = true ∧ (s'.port p).replay = (s.port p).replay ∧
        (s'.port p).lanes = (s.port p).lanes.map (fun l => if l = lane then spareLane (s.port p).ganged else l)) ∧
    (trained = false → Completes c s fun s' => (s'.port p).up = false ∧ (s'.port p).replay = []))

/-- PORT_BRING_UP, LINK_PARAMETERS, POSITION_ANNOUNCEMENT, SER_WINDOW_END and the fabric reference clocks (R333 to R337, R344, R486): a port whose
lanes all train is in training with the credits its peer gives, its own sent to the peer (R332); it is up once its peer's parameters agree with its own, and down where they do
not; a failing lane gives its place to the spare while that is free; a lost clock takes every port of its base die down. -/
def Obligations.PortsComeAndGo : Prop :=
  (∀ (s : State) (p : Nat) (lanes : List (Option Nat)) (credits : List Nat) (g : Bool) (n : Nat), g = s.gangs p →
    n = (if g = true then 8 else 4) → s.vbusUp = true → p < 64 → (policy s 0x6000 1).testBit p = true → (s.port p).up = false →
    (s.port p).state ≠ 5 → s.fabric.refclk.getD (p / 16) false = true → (g = true → p % 2 = 0 ∧ (s.port (p + 1)).up = false) →
    (∀ i, i ≤ n → ∃ k, laneFound lanes i = some k ∧ s.laneBad k = false) → Completes (.portBringUp p lanes credits) s fun s' =>
      (s'.port p).state = 1 ∧ (s'.port p).lanes = List.range n ∧ (s'.port p).ganged = g ∧ s'.easels = s.easels ∧
      (∀ c, c < 18 → tget 0 (s'.port p).advertised c = credits.getD c 0 ∧ tget 0 (s'.port p).owed c = 0) ∧ MemoryKept s s') ∧
  (∀ (s : State) (p : Nat) (lanes : List (Option Nat)) (credits : List Nat), (s.port p).state = 5 →
    exec (.portBringUp p lanes credits) s = .next s) ∧
  (∀ (s : State) (k : Nat) (a : Arrival) (b : List Byte), s.arrival k 8 = some a → b = a.packet.payload → mgmtOk b = true →
    (a.packet.a = 1 → at8 b 0 1 = 1 → linked s a.port = true →
      ∀ agrees : Prop, (agrees ↔ (at8 b 8 1).testBit 0 = true ∧ (s.position ≠ 0xFFFFF → at8 b 4 4 ≠ s.position) ∧
        (at8 b 8 1).testBit 1 = (s.port a.port).ganged ∧
        at8 b 8 1 / 4 = (if (s.port a.port).lanes.length = 8 then 2 else if (s.port a.port).lanes.length = 4 then 1 else 0)) →
      (agrees → Completes (.linkParameters k) s fun s' => (s'.port a.port).state = upState (s.port a.port).ganged (s.port a.port).lanes.length ∧
        (s'.port a.port).up = true ∧ (s'.port a.port).peer = some (at8 b 4 4) ∧ s'.easels = s.easels ∧ MemoryKept s s') ∧
      (¬agrees → Completes (.linkParameters k) s fun s' => (s'.port a.port).up = false)) ∧
    (a.packet.a = 2 → at8 b 0 1 = 2 → Completes (.positionAnnouncement k) s fun s' => (s'.port a.port).peer = some (at8 b 4 4) ∧
      (s'.port a.port).state = (s.port a.port).state ∧ s'.easels = s.easels ∧ MemoryKept s s')) ∧
  (∀ (s : State) (p lane errors : Nat) (found : List (Option Nat)), (s.port p).up = true → lane ∈ (s.port p).lanes →
    (s.laneBad errors = false → ∀ trained, exec (.serWindowEnd p lane errors trained found) s = .next s) ∧
    (s.laneBad errors = true → (∀ t ∈ s.fabric.taken, t.1 ≠ p / 2) → spareLane (s.port p).ganged ∉ (s.port p).failed →
      lane ≠ spareLane (s.port p).ganged → (∀ i ∈ (s.port p).failed, i ∉ (s.port p).lanes) →
      LanesGood s found ((s.port p).lanes.filter (· != lane)) (spareLane (s.port p).ganged) →
      Completes (.serWindowEnd p lane errors true found) s fun s' =>
        (s'.port p).lanes = (s.port p).lanes.map (fun l => if l = lane then spareLane (s.port p).ganged else l) ∧
        lane ∈ (s'.port p).failed ∧ (p / 2, p) ∈ s'.fabric.taken ∧ (s'.port p).replay = (s.port p).replay) ∧
    (s.laneBad errors = true → Completes (.serWindowEnd p lane errors false found) s fun s' => (s'.port p).up = false)) ∧
  (∀ (s : State) (die : Nat), die < s.fabric.refclk.length → Completes (.fabricRefclkLost die) s fun s' =>
    s'.fabric.refclk = s.fabric.refclk.set die false ∧ ∀ p, 16 * die ≤ p → p < 16 * die + 16 → (s'.port p).up = false) ∧
  (∀ (s : State) (die : Nat), Completes (.fabricRefclkReturn die) s fun s' =>
    s' = { s with fabric := { s.fabric with refclk := s.fabric.refclk.set die true } })

/-- Packets of a far device (R284, R339 to R343): a write lands whole at its easel's address, in a FAULTED easel
only under a key whose posted signal was discarded (R287), and a read changes no byte; one that the easel does
not hold, or that comes under another epoch, changes none; a signal adds at its semaphore as a local one does; an answer ends the request it
names, with a read's data at its place and a write's bytes counted as landed (R264), and one that was refused, or does not come in time, puts the sending easel in FAULTED. -/
def Obligations.FarRequests : Prop :=
  (∀ (s : State) (k e : Nat) (a : Arrival), s.arrival k 1 = some a →
    ((s.reach a.packet = .easel e ∨ (s.reach a.packet = .faulted e ∧ s.orphaned a.packet = true)) →
      s.mapped e a.packet.a a.packet.payload.length = true → Completes (.fabricWrite k) s fun s' =>
      s'.mem = (s.writeVa e a.packet.a a.packet.payload).mem ∧ s'.flash = (s.writeVa e a.packet.a a.packet.payload).flash ∧
      s'.easels = s.easels ∧ s'.tiles = s.tiles ∧ s'.sems = s.sems) ∧
    ((s.reach a.packet = .none ∨ s.reach a.packet = .epoch ∨
      (s.reach a.packet = .faulted e ∧ s.orphaned a.packet = false) ∨ (s.reach a.packet = .easel e ∧ s.mapped e a.packet.a a.packet.payload.length = false)) → Completes (.fabricWrite k) s fun s' =>
        MemoryKept s s' ∧ s'.easels = s.easels ∧ s'.tiles = s.tiles ∧ s'.sems = s.sems)) ∧
  (∀ (s : State) (k e : Nat) (a : Arrival), s.arrival k 2 = some a → Completes (.fabricReadRequest k) s fun s' =>
    MemoryKept s s' ∧ s'.easels = s.easels ∧ s'.tiles = s.tiles ∧ s'.sems = s.sems ∧
    (s.reach a.packet = .easel e → s.mapped e a.packet.a (a.packet.b / 65536) = true → ∀ bad, bad = s.poisonedVa e a.packet.a (a.packet.b / 65536) →
      s' = (s.handled k a).respond a.packet (if bad = true then 2 else 0) ((s.readVa e a.packet.a (a.packet.b / 65536)).getD []) bad)) ∧
  (∀ (s : State) (k e key : Nat) (a : Arrival) (d : SemDecl), s.arrival k 4 = some a → s.reach a.packet = .easel e →
    (s.easel e).semDecl a.packet.a = some d → (s.easel e).semKey d = some key → (s.sem key).sound = true → 0 < a.packet.b / 65536 →
    a.packet.b / 65536 ≤ 0xFFFFFFFF → (s.sem key).count.toNat + a.packet.b / 65536 ≤ (s.sem key).max →
    Completes (.fabricSignal k) s fun s' => s'.sems = tset s.sems key ((s.sem key).signal (a.packet.b / 65536)).1 ∧ MemoryKept s s') ∧
  (∀ (s : State) (k : Nat) (a : Arrival) (r : Remote), s.arrival k 3 = some a → s.reach a.packet ≠ .none → s.reach a.packet ≠ .epoch →
    s.remote a.packet.b = some r →
    (a.packet.a ≠ 0 → a.packet.a ≠ 2 → s.works r.easel = true → Completes (.fabricResponse k) s fun s' =>
      (s'.easel r.easel).mode = .faulted ∧ s'.remote a.packet.b = none) ∧
    ((a.packet.a = 0 ∨ a.packet.a = 2) → ∀ x, r.xfer.bind s.xfer = some x →
      (∀ src addr n position channel slot, x.move = .remoteWrite src addr n position channel slot → Completes (.fabricResponse k) s fun s' =>
        MemoryKept s s' ∧ (∀ f, (s'.easel f).mode = (s.easel f).mode) ∧ s'.remote a.packet.b = none ∧
        s'.streams.xfers = s.streams.xfers.filter (·.id != x.id) ∧
        ∀ c, s.xferCtx x = some c → (s'.flow c.y.tile c.y.stream c.y.seq).landed =
          (s.flow c.y.tile c.y.stream c.y.seq).landed + r.packet.payload.length) ∧
      (∀ addr dst position channel, x.move = .remoteRead addr dst a.packet.payload.length position channel → dst < flashBase →
        Completes (.fabricResponse k) s fun s' => s'.mem = (s.writeAt dst a.packet.payload).mem ∧ s'.remote a.packet.b = none ∧
          s'.streams.xfers = s.streams.xfers.filter (·.id != x.id) ∧ s'.tiles = s.tiles ∧ s'.sems = s.sems))) ∧
  (∀ (s : State) (tag : Nat) (r : Remote), s.remote tag = some r → s.works r.easel = true → Completes (.remoteAccessTimeout tag) s fun s' =>
    (s'.easel r.easel).mode = .faulted ∧ s'.remote tag = none)

/-- Posted signals and their fences (R285 to R288): a posted signal whose packets have not all landed is pending under its key and changes no
count; it is applied, and its key free, once they have, whichever comes last. An orphan puts its easel in FAULTED, and later packets of its key release nothing; a key without a posted
signal expires and is counted. -/
def Obligations.FencesHold : Prop :=
  (∀ (s : State) (k e landed count n key : Nat) (a : Arrival) (d : SemDecl), s.arrival k 5 = some a → s.reach a.packet = .easel e →
    s.postedBlocked a.packet = false → (s.easel e).semDecl a.packet.a = some d → count = a.packet.b % 65536 → n = a.packet.b / 65536 →
    landed = (match s.fence a.packet.source a.packet.channel a.packet.tag with | some f => f.landed | none => 0) →
    (landed < count → Completes (.postedSignal k) s fun s' => s'.sems = s.sems ∧ s'.easels = s.easels ∧ MemoryKept s s' ∧
      ∃ f, s'.fence a.packet.source a.packet.channel a.packet.tag = some f ∧ f.posted = some (a.packet.a, count, n) ∧ f.landed = landed) ∧
    (count ≤ landed → (s.easel e).semKey d = some key → (s.sem key).sound = true → 0 < n → n ≤ 0xFFFFFFFF →
      (s.sem key).count.toNat + n ≤ (s.sem key).max → Completes (.postedSignal k) s fun s' =>
        s'.sems = tset s.sems key ((s.sem key).signal n).1 ∧ MemoryKept s s' ∧
        s'.fence a.packet.source a.packet.channel a.packet.tag = none)) ∧
  (∀ (s : State) (k e : Nat) (a : Arrival) (f : Fence), s.fabric.landed[k]? = some a →
    s.fence a.packet.source a.packet.channel a.packet.tag = some f → s.ownerOf 7 a.packet.channel = some e →
    a.packet.epoch = s.epoch a.packet.channel →
    (s.orphaned a.packet = true → Completes (.fencePacketLanded k) s fun s' => s'.sems = s.sems ∧ s'.easels = s.easels ∧ MemoryKept s s' ∧
      s'.fabric.landed = dropAt s.fabric.landed k ∧ s'.fabric.fences = s.fabric.fences) ∧
    (s.orphaned a.packet = false → (f.posted = none ∨ ∃ sem count n, f.posted = some (sem, count, n) ∧ f.landed + 1 < count) → Completes (.fencePacketLanded k) s fun s' =>
      s'.sems = s.sems ∧ s'.easels = s.easels ∧ MemoryKept s s' ∧ s'.fabric.landed = dropAt s.fabric.landed k ∧
      s'.fence a.packet.source a.packet.channel a.packet.tag = some { f with landed := f.landed + 1, port := a.port }) ∧
    (∀ sem count n key d, s.orphaned a.packet = false → f.posted = some (sem, count, n) → count ≤ f.landed + 1 → (s.easel e).semDecl sem = some d →
      (s.easel e).semKey d = some key → (s.sem key).sound = true → 0 < n → n ≤ 0xFFFFFFFF →
      (s.sem key).count.toNat + n ≤ (s.sem key).max → Completes (.fencePacketLanded k) s fun s' =>
        s'.sems = tset s.sems key ((s.sem key).signal n).1 ∧ MemoryKept s s' ∧
        s'.fence a.packet.source a.packet.channel a.packet.tag = none)) ∧
  (∀ (s : State) (position channel tag e : Nat) (f : Fence), s.fence position channel tag = some f → s.ownerOf 7 channel = some e →
    (f.posted ≠ none → s.works e = true → Completes (.remoteSignalOrphan position channel tag) s fun s' =>
      (s'.easel e).mode = .faulted ∧ s'.fence position channel tag = none ∧ (position, channel, tag) ∈ s'.fabric.orphans ∧ ∀ j, (s'.sem j).count = (s.sem j).count) ∧
    (f.posted = none → Completes (.fenceKeyExpiry position channel tag) s fun s' => s'.fence position channel tag = none ∧
      (s'.port f.port).stats.getD 6 0 = (s.port f.port).stats.getD 6 0 + 1 ∧ s' = { s with fabric := s'.fabric, out := s'.out }))

/-! ### The object dictionary -/

/-- Request `m` finds the Curator free: none waits before it, and it is run as it arrives (R431). -/
def Direct (s : State) (m : Msg) : Prop := s.dict.turn = false ∧ m.later = false ∧ s.dict.waiting = []

/-- Request `m` reaches the Curator, free, whole and in form, in role `role`, and is no repetition (R423 to R426, R431). -/
def Served (s : State) (m : Msg) (role : Role) : Prop :=
  Direct s m ∧ s.transportUp m.transport = true ∧ msgIntact m = true ∧ s.roleOf m = some role ∧ s.remembered m = none ∧ formatOk m = true

/-- The state in which request `m` was counted, and answered with `r`. -/
def replied (s : State) (m : Msg) (r : Reply) : State := (s.countMgmt 0).answer m r

/-- The state in which a request was counted and answered with a status alone. -/
def answered (s : State) (m : Msg) (status : Nat) : State := replied s m (plainReply status)

/-- A write of a plain entry that every check of Table 16-5 passes. -/
def WriteOk (s : State) (m : Msg) : Prop :=
  ∃ role x, Served s m role ∧ mOp m = 2 ∧ entry (mIndex m) (mSub m) = some x ∧ s.permitted role 2 (mIndex m) (mSub m) = true ∧
    mOffset m = 0 ∧ mLast m = false ∧ x.ty ≠ 0x0A ∧ x.ty ≠ 0x0B ∧ s.withheld (mIndex m) (mSub m) = false ∧ s.writeCheck m x (some []) = 0

/-- A write of a CMD entry that the dictionary's own checks pass, so that only the action's conditions remain (R418, R420). -/
def Accepted (s : State) (m : Msg) : Prop :=
  ∃ role, Served s m role ∧ (s.countMgmt 0).commandStatus m role (fun _ _ => 0) = 0

/-- The commands that are requests to the Curator for any entry, with their messages. -/
def IsRequest (c : Instr) (m : Msg) : Prop :=
  c = .read m ∧ mOp m ≠ 2 ∧ mOp m ≠ 3 ∨ c = .list m ∧ mOp m = 3 ∨ c = .write m ∧ mOp m = 2 ∧ ownRow (mIndex m) (mSub m) = false

/-- The queue of the Curator (R431): a whole request that comes while others wait, or has come while the Curator works, waits behind them;
while 64 wait it is answered BUSY at once, and nothing of it is done. One whose turn has come runs, whatever waits behind it. -/
def RequestsQueue : Prop :=
  ∀ (s : State) (c : Instr) (m : Msg), IsRequest c m → s.transportUp m.transport = true → msgIntact m = true → s.roleOf m ≠ none →
    (s.dict.turn = false → (m.later = true ∨ s.dict.waiting ≠ []) →
      (s.dict.waiting.length < 64 → exec c s = .next { s with dict := { s.dict with waiting := s.dict.waiting ++ [c] } }) ∧
      (64 ≤ s.dict.waiting.length → Completes c s fun s' => s' = { s with dict := { s.dict with stats := s'.dict.stats }, out := s'.out } ∧
        s'.out = s.out ++ [.response m.transport m.requester (replyBytes m (plainReply 0x09))])) ∧
    (∀ role x t, s.dict.turn = true → t = { s with dict := { s.dict with turn := false } } → c = .read m → mOp m = 1 →
      s.roleOf m = some role → s.remembered m = none → formatOk m = true → entry (mIndex m) (mSub m) = some x →
      s.permitted role 1 (mIndex m) (mSub m) = true → x.access ≠ 3 → x.access ≠ 6 → s.withheld (mIndex m) (mSub m) = false → x.ty ≠ 0x0A →
      mOffset m = 0 → mLast m = false →
      Completes c s fun s' => s' = replied t m ⟨0, 0, 0, 0, (t.countMgmt 0).value (mIndex m) (mSub m)⟩)

/-- A request is answered and its answer is remembered; nothing else changes but the dictionary's records (R426). READ answers an
entry's value, LIST descriptors; WRITE commits a value whose checks pass (R419, R423, R425). A role without the right receives 0x02; the same
request again receives the same bytes and runs nothing. -/
def RequestsAnswered : Prop :=
  (∀ (s : State) (m : Msg) (r : Reply), (replied s m r).out = s.out ++ [.response m.transport m.requester (replyBytes m r)] ∧
    replied s m r = { s with dict := (replied s m r).dict, out := (replied s m r).out } ∧ (replied s m r).dict.values = s.dict.values ∧
    (replied s m r).remembered m = some (replyBytes m r)) ∧
  (∀ (s : State) (m : Msg) (role : Role) (x : Entry), Served s m role → mOp m = 1 → entry (mIndex m) (mSub m) = some x →
    (s.permitted role 1 (mIndex m) (mSub m) = true → x.access ≠ 3 → x.access ≠ 6 → s.withheld (mIndex m) (mSub m) = false → x.ty ≠ 0x0A →
      mOffset m = 0 → mLast m = false →
      Completes (.read m) s fun s' => s' = replied s m ⟨0, 0, 0, 0, (s.countMgmt 0).value (mIndex m) (mSub m)⟩) ∧
    (s.permitted role 1 (mIndex m) (mSub m) = false → Completes (.read m) s fun s' => s' = answered s m 0x02)) ∧
  (∀ (s : State) (m : Msg), WriteOk s m → ownRow (mIndex m) (mSub m) = false → Completes (.write m) s fun s' =>
    s' = { s with dict := s'.dict, out := s'.out } ∧ written s'.dict (mIndex m) (mSub m) = mData m ∧
    s'.out = (answered s m 0).out ∧ ∀ index sub, sub < 256 → index * 256 + sub ≠ mIndex m * 256 + mSub m → written s'.dict index sub = written s.dict index sub) ∧
  (∀ (s : State) (m : Msg) (role : Role), Served s m role → mOp m = 3 → Completes (.list m) s fun s' =>
    s' = replied s m ((s.countMgmt 0).listEntries m role)) ∧
  (∀ (s : State) (m : Msg) (role : Role) (bs : List Byte), Direct s m → s.transportUp m.transport = true → msgIntact m = true → s.roleOf m = some role →
    s.remembered m = some bs → mOp m = 1 → Completes (.read m) s fun s' =>
      s' = (s.countMgmt 0).emit (.response m.transport m.requester bs))

/-- The Curator takes requests one after another and answers each (R419, R423 to R426, R431). -/
def Obligations.DictionaryAnswers : Prop := RequestsAnswered ∧ RequestsQueue

/-- Time limits, notices and addresses of the Curator (R32, R421, R426 to R428, R433): a staging or a remembered transaction is gone when its
time is over, and only it; the oldest record that waits leaves as a notice to each target where its category is chosen, fewer than 1,001 in 1 s,
and each counts; the device answers Neighbor Discovery for its own addresses; a dynamic address is taken while no static one is set. -/
def Obligations.CuratorTimes : Prop :=
  (∀ (s : State) (requester index sub : Nat), Completes (.blobStagingTimeout requester index sub) s fun s' =>
    s' = { s with dict := { s.dict with staging := s'.dict.staging } } ∧
    ∀ g, g ∈ s'.dict.staging ↔ g ∈ s.dict.staging ∧ ¬(g.requester = requester ∧ g.index = index ∧ g.sub = sub)) ∧
  (∀ (s : State) (requester number : Nat), Completes (.transactionMemoryExpiry requester number) s fun s' =>
    s' = { s with dict := { s.dict with transactions := s'.dict.transactions } } ∧
    ∀ t, t ∈ s'.dict.transactions ↔ t ∈ s.dict.transactions ∧ ¬(t.requester = requester ∧ t.number = number)) ∧
  (∀ (s : State) (v : Event) (rest : List Event) (aged : List Nat), s.dict.running = true → s.dict.intake = v :: rest →
    ∀ sent : Nat → Nat, (∀ k, sent k = tget 0 (s.dict.age aged).noticeWindow k) →
    (Completes (.faultLineRecord aged) s fun s' => s' = { s with dict := s'.dict, out := s'.out } ∧ s'.dict.intake = rest ∧
      s'.dict.values = s.dict.values ∧ s.out <+: s'.out ∧
      ((policy s 0x1100 7).testBit (v.code / 256) = true → ∀ k t n, k < 4 → s.noticeTarget k = some t → n = tget 0 s.dict.noticeCount k →
        tget 0 s'.dict.noticeCount k = (n + 1) % 65536 ∧ tget 0 s'.dict.noticeWindow k = (if sent k < 1000 then sent k + 1 else sent k) ∧
        (sent k < 1000 → s.transportUp (if t = 2 then .pcie else .t1s) = true → .notice k n (noticeBytes n v) ∈ s'.out))) ∧
    ((policy s 0x1100 7).testBit (v.code / 256) = false → Completes (.faultLineRecord aged) s fun s' =>
      s' = { s with dict := { s.dict.age aged with intake := rest } })) ∧
  (∀ (s : State) (target : List Byte), s.transportUp .t1s = true →
    (target = s.linkLocal → Completes (.neighborDiscovery target) s fun s' => s' = s.emit (.neighbor target)) ∧
    (target ≠ s.linkLocal → globalOk (written s.dict 0x1100 2) = true → target = (written s.dict 0x1100 2).take 16 →
      Completes (.neighborDiscovery target) s fun s' => s' = s.emit (.neighbor target)) ∧
    (target ≠ s.linkLocal → (globalOk (written s.dict 0x1100 2) = true → (written s.dict 0x1100 2).take 16 ≠ target) → exec (.neighborDiscovery target) s = .next s)) ∧
  (∀ (s : State) (address : Nat), s.dict.running = true → s.power.vaux = true → s.power.vio = true → policy s 0x1100 5 = 0 →
    Completes (.i3cDynamicAddress address) s fun s' => s' = { s with dict := { s.dict with i3cAddress := address } })

/-! ### Binding -/

/-- The row of `bind_execute` that the staged request `b` makes of message `m`. -/
def bindRow (b : List Byte) (m : Msg) : Instr :=
  if rqOp b = 2 then (if rqForced b = true then .forcedUnbind m else .unbind m)
  else if rqOp b = 3 then (if rqForced b = true then .forcedMove m else .move m) else .bind m

/-- BIND, UNBIND, MOVE and their forced rows (R45, R48 to R54, R59): while a request runs the answer is BUSY; a request that a check refuses
ends at once with its reason and changes no binding; one that passes is the running request, and no binding changes before the commit: a bind
clears what comes, an unbind or a move drains its easel, a forced one stops it at once. A sheet switch or reweight under way, and a load at
the easel that receives units, holds the request back; only a forced unbind starts beside them (R62, R83, R234). -/
def Obligations.RequestsBegin : Prop :=
  ∀ (s a : State) (m : Msg) (b : List Byte) (rel : Nat), Accepted s m → writes m 0x3100 2 = true → b = written s.dict 0x3100 1 →
    rel = (if rqOp b = 3 then rqSource b else rqEasel b) → a = answered s m 0 →
    (s.bind.request ≠ none → Completes (bindRow b m) s fun s' => s' = answered s m 0x09) ∧
    (s.bind.request = none → s.vbusUp = true →
      (∀ reason idx, a.checkRequest b = some (reason, idx) → s.bind.revoke = [] → Completes (bindRow b m) s fun s' =>
        s'.bind = { s.bind with status := 3 + reason * 256 + idx * 65536 } ∧ (∀ e, (s'.easel e).mode = (s.easel e).mode) ∧
        s'.tiles = s.tiles ∧ s'.sems = s.sems) ∧
      (a.checkRequest b = none →
        (rqOp b ≠ 2 → (s.easel (rqEasel b)).holdsRequest true = false) →
        (rqOp b ≠ 1 → rqForced b = false → (s.easel rel).holdsRequest false = false) →
        Completes (bindRow b m) s fun s' => s'.bind.table = s.bind.table ∧ s'.bind.status = 1 ∧
          ((rqForced b = false ∨ (s.easel rel).update = none) → MemoryKept s s') ∧
          ∃ r, s'.bind.request = some r ∧ r.op = rqOp b ∧ r.easel = rqEasel b ∧ r.source = rqSource b ∧ r.forced = rqForced b ∧
            r.extents = rqExtents b ∧ r.tag = rqTag b ∧
            (rqOp b = 1 → r.clearing = true ∧ r.draining = false ∧
              (s'.easel rel).mode = (if (s.easel rel).mode = .free then .binding else (s.easel rel).mode)) ∧
            (rqOp b ≠ 1 → rqForced b = true → r.clearing = true ∧ (s'.easel rel).mode = .clearing ∧ (s'.easel rel).cmds = []) ∧
            (rqOp b ≠ 1 → rqForced b = false → (s.easel rel).mode = .bound → r.draining = true ∧ (s'.easel rel).mode = .draining ∧
              (s'.easel rel).cmds = (s.easel rel).cmds) ∧
            (rqOp b ≠ 1 → rqForced b = false → (s.easel rel).mode ≠ .bound → (s.easel rel).quiet = true →
              r.clearing = true ∧ (s'.easel rel).mode = .clearing) ∧
            (rqOp b ≠ 1 → rqForced b = false → (s.easel rel).mode ≠ .bound → (s.easel rel).quiet = false →
              r.draining = true ∧ s'.easel rel = s.easel rel)) ∧
      (a.checkRequest b = none → ((rqOp b ≠ 2 ∧ (s.easel (rqEasel b)).holdsRequest true = true) ∨
          (rqOp b ≠ 1 ∧ rqForced b = false ∧ (s.easel rel).holdsRequest false = true)) →
        Completes (bindRow b m) s fun s' => s'.bind.table = s.bind.table ∧ s'.easels = s.easels ∧
          ∃ r, s'.bind.request = some r ∧ r.draining = false ∧ r.clearing = false))

/-- DRAIN_COMPLETE, DRAIN_TIMEOUT, CLEARING_COMPLETE and `easel_reset` (R45, R52, R65): an easel with nothing in flight goes from DRAINING to
CLEARING; one that does not drain in time is BOUND again with all its units; the commit takes the named units, and no others, from the easel
that releases them, and gives a bind's units to its easel; `easel_reset` takes an easel from FAULTED to BOUND with no canvas. -/
def Obligations.RequestsEnd : Prop :=
  (∀ (s : State) (r : Request), s.bind.request = some r → r.draining = true → s.dict.running = true →
    ((s.easel r.releases).mode = .draining ∨ (s.easel r.releases).mode = .faulted) →
    ((∃ c ∈ (s.easel r.releases).cmds, c.phase ≠ .taken) → exec .drainComplete s = .next s) ∧
    ((∀ c ∈ (s.easel r.releases).cmds, c.phase = .taken) → Completes .drainComplete s fun s' =>
      (s'.easel r.releases).mode = .clearing ∧ s'.bind = { s.bind with request := some { r with draining := false, clearing := true } } ∧
      s' = { s with bind := s'.bind, streams := s'.streams, tiers := s'.tiers }.setEasel r.releases (s'.easel r.releases)) ∧
    ((s.easel r.releases).mode = .draining → s.bind.revoke = [] → Completes .drainTimeout s fun s' => (s'.easel r.releases).mode = .bound ∧
      s'.bind = { s.bind with request := none, status := 3 + 7 * 256 + 0xFFFF * 65536 } ∧ s'.tiles = s.tiles ∧ s'.sems = s.sems)) ∧
  (∀ (s : State) (us : Nat) (r : Request), s.bind.request = some r → r.clearing = true → s.dict.running = true → s.bind.revoke = [] →
    (r.op = 2 → Completes (.clearingComplete us) s fun s' => s'.bind.request = none ∧ s'.bind.status = 2 ∧
      (∀ x ∈ r.extents, ∀ u, x.2.1 ≤ u → u < x.2.1 + x.2.2.1 → s'.ownerOf x.1 u = none) ∧
      (∀ cls u, (∀ x ∈ r.extents, x.1 = cls → u < x.2.1 ∨ x.2.1 + x.2.2.1 ≤ u) → s'.ownerOf cls u = s.ownerOf cls u)) ∧
    (r.op = 1 → (∀ q ∈ s.bind.retired, q.1 ≠ 2 ∧ q.1 ≠ 3) →
      (∀ x ∈ r.extents, x.1 = 1 → ∀ n, x.2.1 ≤ n → n < x.2.1 + x.2.2.1 → s.bindable n = true) → Completes (.clearingComplete us) s fun s' => s'.bind.request = none ∧
      s'.bind.status = 2 ∧ ((s.easel r.easel).mode = .binding → (s'.easel r.easel).mode = .bound) ∧
      s'.bind.table = r.extents.foldl (fun t x => insertExtent t ⟨x.1, x.2.1, x.2.2.1, x.2.2.2, r.easel⟩) s.bind.table)) ∧
  (∀ (s : State) (m : Msg) (e : Nat), Accepted s m → mOp m = 2 → mIndex m = 0x3000 + e → e < 64 → mSub m = 9 → s.vbusUp = true →
    (mValue m = e → (s.easel e).mode = .faulted → Completes (.easelReset m) s fun s' => (s'.easel e).mode = .bound ∧
      (s'.easel e).canvas = none ∧ (s'.easel e).cmds = [] ∧ ∀ f, f ≠ e → (s'.easel f).mode = (s.easel f).mode) ∧
    ((mValue m ≠ e ∨ (s.easel e).mode ≠ .faulted) → Completes (.easelReset m) s fun s' => s' = answered s m 0x07))

/-! ### Resets and the link -/

/-- FLR, VF disable, hot reset, PERST_N, D3hot and the link (R58, R412): an easel whose function is reset has no canvas and no command, a new
key, and every page of its HBM unwritten; its units stay bound. One that is FREE or BINDING has a new key alone (R57). Disabled functions' easels are FREE; with a request running they are so when it
ends. A link that goes down or comes up leaves the work alone. -/
def Obligations.FunctionsReset : Prop :=
  (∀ (s : State) (e : Nat) (c : Instr), s.vbusUp = true → e ≠ 0 → s.functionOn e = true →
    (c = .flrVf e ∨ (c = .d0Return e ∧ e ∈ s.host.d3hot)) → (s.easel e).mode ≠ .free → (s.easel e).mode ≠ .binding → Completes c s fun s' =>
      (s'.easel e).canvas = none ∧ (s'.easel e).cmds = [] ∧ (s'.easel e).keyEpoch = ((s.easel e).keyEpoch + 1) % 2 ^ 32 ∧
      (s'.easel e).mode = (if (s.easel e).mode = .faulted then .bound else (s.easel e).mode) ∧ s'.bind = s.bind ∧ e ∉ s'.host.d3hot ∧
      (∀ x ∈ s.bind.table, x.easel = e → x.cls = 2 → ∀ u, x.first ≤ u → u < x.first + x.count → u ∉ s'.tiers.written)) ∧
  (∀ (s : State) (e : Nat), s.vbusUp = true → e ≠ 0 → s.functionOn e = true → ((s.easel e).mode = .free ∨ (s.easel e).mode = .binding) →
    Completes (.flrVf e) s fun s' => (s'.easel e).keyEpoch = ((s.easel e).keyEpoch + 1) % 2 ^ 32 ∧ (s'.easel e).mode = (s.easel e).mode ∧
      s'.bind = s.bind ∧ s'.tiles = s.tiles ∧ s'.sems = s.sems) ∧
  (∀ (s : State) (c : Instr), s.vbusUp = true → (c = .flrPf ∨ (c = .hotReset ∧ s.host.linkUp = true) ∨
      (c = .perstAssert ∧ s.host.perst = false)) → Completes c s fun s' => s'.host.numVfs = 0 ∧ s'.host.d3hot = [] ∧
    (c ≠ .flrPf → s'.host.linkUp = false) ∧ (c = .perstAssert → s'.host.perst = true) ∧
    ((s.easel 0).mode ≠ .free → (s.easel 0).mode ≠ .binding → (s'.easel 0).canvas = none ∧ (s'.easel 0).cmds = []) ∧
    (s.bind.request = none → ∀ e, 1 ≤ e → e ≤ s.host.numVfs → e < 64 → (s'.easel e).mode = .free)) ∧
  (∀ (s : State) (n : Nat), n < s.host.numVfs → Completes (.vfDisable n) s fun s' => s'.host.numVfs = n ∧
    (s.bind.request = none → ∀ e, n < e → e ≤ s.host.numVfs → e < 64 → (s'.easel e).mode = .free) ∧
    (s.bind.request ≠ none → s'.easels = s.easels ∧
      ∀ e, n < e → e ≤ s.host.numVfs → e < 64 → (e, 2) ∈ s'.bind.revoke)) ∧
  (∀ (s : State), s.power.vio = true → s.power.vaux = true → Completes .perstDeassert s fun s' =>
    s' = { s with host := { s.host with perst := false } }) ∧
  (∀ (s : State) (f : Nat), s.functionOn f = true → Completes (.d3hotEntry f) s fun s' =>
    s' = { s with host := { s.host with d3hot := s'.host.d3hot } } ∧ ∀ g, g ∈ s'.host.d3hot ↔ g = f ∨ g ∈ s.host.d3hot) ∧
  (∀ (s : State), Completes .pcieLinkDown s fun s' => s' = { s with host := { s.host with linkUp := false, generation := 0, width := 0 } }) ∧
  (∀ (s : State) (generation width : Nat), s.host.perst = false → s.power.calibrated = true → s.host.linkUp = false →
    Completes (.pcieLinkUp generation width) s fun s' => s'.tiles = s.tiles ∧ s'.sems = s.sems ∧ s'.bind = s.bind ∧
      s'.host = { s.host with linkUp := true, generation := min generation (policy s 0xC000 2), width := width })

/-! ### Actions of the dictionary -/

/-- Writes that start actions (R338, R376, R378, R383, R450 to R455). For a BOUND easel with no command, `restore_execute`, `takeover_execute` and
`spread_execute` start a restore of the layer, step and source that the staged request names; a takeover puts the new position and member in
force, a spreading its group and the canvas of its image. `fw_commit` stores the staged image in the other slot and prefers it, `fw_confirm`
raises the minimum security version, `config_commit` writes one copy, `key_enrol` and `key_revoke` change one key slot, and a write of
`fabric_position` is in force. -/
def Obligations.ActionsOfTrust : Prop :=
  (∀ (s a : State) (m : Msg) (e : Nat) (b : List Byte), Accepted s m → a = answered s m 0 → mOp m = 2 → mIndex m = 0x9040 + e → e < 64 →
    (s.easel e).restore = none → s.vbusUp = true → (s.easel e).mode = .bound → (s.easel e).cmds = [] →
    (∀ n, mSub m = 0x11 → (s.easel e).canvas.isSome = true → b = written s.dict (0x9040 + e) 0x10 → b.length = 24 → rsv b 2 2 = true →
      at8 b 8 8 < 2 ^ 48 → n = at8 b 0 1 → (n = 1 ∨ n = 3) → s.ownPort ((s.drainChannel e).getD 16) ≠ none →
      Completes (.restoreExecute m) s fun s' => MemoryKept s s' ∧ s'.tiles = s.tiles ∧ ∃ r, (s'.easel e).restore = some r ∧ r.kind = 0 ∧
        r.layer = n ∧ r.step = at8 b 8 8 ∧ r.position = at8 b 4 4 ∧ r.base = at8 b 16 8 ∧ r.phase = 0 ∧ r.want = 128) ∧
    (∀ v cv, mSub m = 0x13 → (s.easel e).canvas = some cv → b = written s.dict (0x9040 + e) 0x12 → b.length = 32 → rsv b 7 1 = true →
      rsv b 20 4 = true → at8 b 0 4 < 2 ^ 20 - 1 → cv.id = at8 b 8 8 → v = at8 b 6 1 → v < 16 → s.holds e 7 v = true →
      at8 b 4 2 < (s.group v).1 → (a.commitValue (0x6110 + v) 2 false (leBytes 2 (at8 b 4 2))).reductionsOk e = true → s.ownPort v ≠ none →
      Completes (.takeoverExecute m) s fun s' => s'.position = at8 b 0 4 ∧ policy s' (0x6110 + v) 2 = at8 b 4 2 ∧ s'.tiles = s.tiles ∧
        ∃ r, (s'.easel e).restore = some r ∧ r.kind = 1 ∧ r.layer = 1 ∧ r.position = at8 b 16 4 ∧ r.base = at8 b 24 8) ∧
    (∀ v cv verified, mSub m = 0x15 → (s.easel e).canvas.isSome = true → b = written s.dict (0x9040 + e) 0x14 → b.length = 56 →
      rsv b 5 3 = true → rsv b 28 4 = true → rsv b 44 4 = true → v = at8 b 4 1 → v < 16 → s.holds e 7 v = true →
      at8 b 0 2 < (s.group v).1 → at8 b 0 2 ≠ (s.group v).2 → s.mapped e (at8 b 8 8) (at8 b 16 8) = true → s.spreadTable e b ≠ none →
      (a.rebindChannel e v (at8 b 2 2) (at8 b 0 2)).loadAt e (at8 b 8 8) (at8 b 16 8) verified = .inr cv → s.ownPort v ≠ none →
      Completes (.spreadExecute m verified) s fun s' => policy s' (0x6110 + v) 3 = at8 b 2 2 ∧ policy s' (0x6110 + v) 9 = at8 b 0 2 ∧
        (∃ c', (s'.easel e).canvas = some c' ∧ c'.id = cv.id) ∧ (s'.easel e).mode = .bound ∧
        ∃ r, (s'.easel e).restore = some r ∧ r.kind = 2 ∧ r.position = at8 b 24 4 ∧ r.base = at8 b 32 8)) ∧
  (∀ (s a : State) (m : Msg) (verified : Bool), Accepted s m → a = answered s m 0 →
    (writes m 0x1800 9 = true → mValue m = 0 → s.firmwareOk (written s.dict 0x1800 8) verified = true →
      Completes (.fwCommit m verified) s fun s' => s' = { a with trust := s'.trust } ∧ s'.trust.preferred = 1 - s.trust.runningSlot ∧
        s'.trust.image (1 - s.trust.runningSlot) = some ⟨at8 (written s.dict 0x1800 8) 8 4, ((written s.dict 0x1800 8).drop 32).take 32⟩ ∧
        s'.trust.runningSlot = s.trust.runningSlot ∧ s'.trust.keySlots = s.trust.keySlots ∧ s'.trust.minSec = s.trust.minSec) ∧
    (∀ i, writes m 0x1800 0x0A = true → s.trust.image s.trust.runningSlot = some i → Completes (.fwConfirm m) s fun s' =>
      s' = { a with trust := { s.trust with minSec := max s.trust.minSec i.secVersion } }) ∧
    (∀ i, writes m 0x1800 0x0D = true → s.checkConfig (written s.dict 0x1800 0x0C) verified = some i →
      Completes (.configCommit m verified) s fun s' => s' = { a with trust := s'.trust } ∧
        (s.trust.commitCopy = 0 → s'.trust = { s.trust with cfgA := some i }) ∧ (s.trust.commitCopy ≠ 0 → s'.trust = { s.trust with cfgB := some i })) ∧
    (∀ v, writes m 0x1800 4 = true → v = mValue m → v.testBit 8 = false →
      (s.enrolCheck verified v = 0 → Completes (.keyEnrol m verified) s fun s' => (s'.keySlot v).1 = 1 ∧
        (s'.keySlot v).2.2 = keyOf (written s.dict 0x1800 3) 0 ∧ s'.trust.nonceCount = s.trust.nonceCount + 1 ∧
        ∀ w, w ≠ v → s'.keySlot w = s.keySlot w) ∧
      (s.enrolCheck verified v = 0x07 → Completes (.keyEnrol m verified) s fun s' => s'.trust.keySlots = s.trust.keySlots ∧
        s'.trust.nonceCount = s.trust.nonceCount + 1 ∧ s'.trust.authFailures = s.trust.authFailures + 1)) ∧
    (∀ v, writes m 0x1800 4 = true → v = mValue m → v.testBit 8 = true → s.revokeCheck v = 0 → Completes (.keyRevoke m) s fun s' =>
      s'.keySlot (v % 16) = (2, (s.keySlot (v % 16)).2) ∧ ∀ w, w ≠ v % 16 → s'.keySlot w = s.keySlot w)) ∧
  (∀ (s : State) (m : Msg), WriteOk s m → mIndex m = 0x6100 → mSub m = 1 → Completes (.fabricPositionWrite m) s fun s' =>
    written s'.dict 0x6100 1 = mData m ∧ s'.easels = s.easels ∧ s'.tiles = s.tiles ∧ MemoryKept s s' ∧ (answered s m 0).out <+: s'.out)

/-- Writes that start actions (R386, R438, R470 to R474): `vbus_restart` starts the VBUS domain, or answers the status of its check;
`tile_selftest` and `sketch_build` begin, and `sketch_build` answers BUSY while a build runs; `trace_trigger` and `trace_arm` act on the trace units their value names and on no other. A self-test
ends passed or failed, and the second publication joins the sketch and ends its build. -/
def Obligations.ActionsOfCare : Prop :=
  (∀ (s a : State) (m : Msg) (v : Nat), Accepted s m → a = answered s m 0 → v = mValue m →
    (writes m 0x2000 0x0B = true → s.restartCheck v = 0 → s.power.stopCause ≠ 7 → Completes (.vbusRestart m) s fun s' =>
      s' = { a with power := { s.power with
        vbusState := 1, waitRefclk := true, stopCause := 0, coreMv := 750, thermTrip := false, overLimit := false, vbus := true } }) ∧
    (writes m 0x2000 0x0B = true → s.restartCheck v ≠ 0 → Completes (.vbusRestart m) s fun s' => s' = answered s m (s.restartCheck v)) ∧
    (writes m 0x4000 3 = true → s.selftestCheck v = 0 → Completes (.tileSelftest m) s fun s' =>
      s' = { a with bind := { s.bind with selftest := v + 65536 } }) ∧
    (writes m 0xB000 3 = true → v < 64 → s.obs.sketchEasel.isSome = true → Completes (.sketchBuild m) s fun s' => s' = answered s m 0x09) ∧
    (writes m 0xB000 3 = true → v < 64 → s.obs.sketchEasel = none → s.vbusUp = true → SemaphoresSound s → Completes (.sketchBuild m) s fun s' =>
      s' = { a with obs := { s.obs with sketchEasel := some v, firstState := s'.obs.firstState } }) ∧
    (writes m 0xB000 0x0A = true → v < 16 → s.vbusUp = true → (∀ d, d < 4 → (s.traceUnit d).stage.length < 4096) → Completes (.traceTrigger m) s fun s' =>
      ∀ d, d < 4 → ∀ u, u = s.traceUnit d → (v.testBit d = false → s'.traceUnit d = u) ∧
        (v.testBit d = true → u.armed = true → u.mode = 2 → u.state = 0 → u.triggered = false → s.sinkValid u.sink = true →
          (s'.traceUnit d).triggered = true ∧ (s'.traceUnit d).trigger = u.write + u.stage.length ∧ (s'.traceUnit d).triggers = u.triggers + 1)) ∧
    (writes m 0xB000 0x0B = true → v < 16 → s.vbusUp = true → Completes (.traceArm m) s fun s' =>
      ∀ d, d < 4 → ∀ u, u = s.traceUnit d → (v.testBit d = false → s'.traceUnit d = u) ∧
        (v.testBit d = true → (s'.traceUnit d).armed = true ∧ (s'.traceUnit d).state = 0 ∧ (s'.traceUnit d).triggered = false ∧
          (s'.traceUnit d).arms = (u.arms + 1) % 2 ^ 32 ∧ (s'.traceUnit d).write = 0 ∧ (s'.traceUnit d).stage = [] ∧ (s'.traceUnit d).lost = 0 ∧ (s'.traceUnit d).mode = policy s 0xB000 1))) ∧
  (∀ (s : State), s.bind.selftest / 65536 = 1 →
    (Completes (.selftestComplete true) s fun s' => s' = { s with bind := { s.bind with selftest := s.bind.selftest % 2048 + 2 * 65536 } }) ∧
    (Completes (.selftestComplete false) s fun s' => s'.bind.selftest = s.bind.selftest % 2048 + 3 * 65536)) ∧
  (∀ (s : State) (e : Nat), s.obs.sketchEasel = some e → s.dict.running = true → s.vbusUp = true → SemaphoresSound s → Completes .sketchSecondPublication s fun s' =>
    s'.obs.sketchEasel = none ∧ s'.obs.firstState = [] ∧ s'.obs.sketch = (s.joinSketch e).1 ∧ s'.tiles = s.tiles ∧ s'.sems = s.sems)

/-- SPDM (R427, R454, R456): while its transport reaches the Curator each request is answered once, and what rests on the device key is refused
without it or without a valid identity record; a session is opened by KEY_EXCHANGE and FINISH, of which a 17th is refused, and END_SESSION closes it with its stagings. -/
def Obligations.SpdmAnswers : Prop :=
  ∀ (s : State) (q : Spdm), s.transportUp q.transport = true → s.trust.recovery = false →
    ∀ answer : Nat → List Byte → Out, (∀ n c, answer n c = .spdm q.transport q.requester 0 (Config.spdmAnswer n (q.bytes ++ c))) →
    ∀ refused : Nat → Out, (∀ n, refused n = .spdm q.transport q.requester n []) →
    (∀ c n, (c = .getVersion q ∧ n = 1 ∨ c = .getCapabilities q ∧ n = 2 ∨ c = .negotiateAlgorithms q ∧ n = 3) →
      Completes c s fun s' => s' = { s with out := s.out ++ [answer n []] }) ∧
    (∀ c n content, (c = .getDigests q ∧ n = 4 ∧ content = shake256 Config.deviceCert ∨ c = .getCertificate q ∧ n = 5 ∧ content = Config.deviceCert ∨
        c = .challenge q ∧ n = 6 ∧ content = s.measurements ∨ c = .getMeasurements q ∧ n = 7 ∧ content = s.measurements) →
      Completes c s fun s' => s' = { s with out := s.out ++ [if s.attests = true then answer n content else refused 1] }) ∧
    (∀ slot, s.trust.pufOk = true →
      (s.dict.sessions.length < 16 → slot < 16 → (s.keySlot slot).1 = 1 → Completes (.keyExchange q slot true) s fun s' =>
        s' = { s with dict := s'.dict, out := s.out ++ [answer 8 []] } ∧ s'.dict.nextSession = s.dict.nextSession + 1 ∧
        s'.dict.sessions = s.dict.sessions ++ [⟨s.dict.nextSession, q.transport, if slot < 8 then .owner else .observer, slot, q.requester, false⟩]) ∧
      (16 ≤ s.dict.sessions.length → ∀ proven, Completes (.keyExchange q slot proven) s fun s' => s' = { s with out := s.out ++ [refused 2] }) ∧
      (s.dict.sessions.length < 16 → Completes (.keyExchange q slot false) s fun s' => s'.dict.sessions = s.dict.sessions ∧
        s'.trust.authFailures = s.trust.authFailures + 1)) ∧
    (∀ x, s.spdmSession q = some x →
      (x.finished = false → Completes (.finish q true) s fun s' => s' = { s with dict := s'.dict, out := s.out ++ [answer 9 []] } ∧
        s'.dict.sessions = s.dict.sessions.map fun y => if y.id = x.id then { y with finished := true } else y) ∧
      (x.finished = false → Completes (.finish q false) s fun s' => s'.dict.sessions = s.dict.sessions.filter (·.id != x.id)) ∧
      (∀ c n, (c = .keyUpdate q ∧ n = 10 ∨ c = .heartbeat q ∧ n = 11) → Completes c s fun s' =>
        s' = { s with out := s.out ++ [if x.finished = true then answer n [] else refused 1] }) ∧
      (Completes (.endSession q) s fun s' => s' = { s with dict := s'.dict, out := s.out ++ [answer 12 []] } ∧
        s'.dict.sessions = s.dict.sessions.filter (·.id != x.id) ∧ s'.dict.values = s.dict.values ∧
        ∀ g ∈ s'.dict.staging, g.requester ≠ x.id * 4 + 3))

/-! ### The host interface -/

/-- Doorbells, queue control, registers and the memory window (R398 to R401, R407 to R411): a doorbell within the ring moves the tail, another
stops the queue; a queue that is enabled starts empty, one that is disabled drops what it had; a window access reaches the easel's own memory
or is an Unsupported Request that changes none. A window access is a request at arbiters of slack 8,192 (R265), and a doorbell that comes while
the function's earlier window write has not landed waits for it (R401). -/
def Obligations.HostAccesses : Prop :=
  (∀ (s : State) (f q v : Nat) (u : Queue), s.reachable f = true → u = (s.easel f).queueAt q →
    (q < 32 → s.asked (.bar2 f true) ≠ none → Completes (.doorbell f q v) s fun s' =>
      s' = { s with host := { s.host with doorbells := s.host.doorbells ++ [(f, q, v)] } }) ∧
    (q < 32 → s.asked (.bar2 f true) = none → s.ownsQueue f q = true → u.enable = true → u.state ≠ 3 → s.bound f = true →
      (since v u.head ≤ u.size → since v u.tail ≤ u.size → Completes (.doorbell f q v) s fun s' => OnlyEasel f s s' ∧
        s'.easel f = (s.easel f).setQueue q { u with tail := v % 2 ^ 32, state := waitState u.head (v % 2 ^ 32) }) ∧
      ((u.size < since v u.head ∨ u.size < since v u.tail) → Completes (.doorbell f q v) s fun s' =>
        ((s'.easel f).queueAt q).state = 3 ∧ ((s'.easel f).queueAt q).cause = 2 ∧ ((s'.easel f).queueAt q).tail = u.tail ∧
        s'.host.doorbellsRejected = s.host.doorbellsRejected + 1)) ∧
    (q < 32 → s.asked (.bar2 f true) = none → s.ownsQueue f q = true → u.enable = false →
      Completes (.doorbell f q v) s fun s' => s' = s.rejectDoorbell) ∧
    (q = 32 → s.asked (.bar2 f true) = none → (s.easel f).mode ≠ .free → u.enable = true → u.state ≠ 3 → since u.tail v ≤ u.size → since v u.head ≤ u.size →
      Completes (.eventDoorbell f v) s fun s' => (s'.easel f).events.head = v % 2 ^ 32 ∧ (s'.easel f).mode = (s.easel f).mode ∧
        s'.tiles = s.tiles ∧ s'.sems = s.sems) ∧
    (q < 32 → s.ownsQueue f q = true → v.testBit 0 = true → ∀ w, w = u.control v →
      (w.enable = false → s.enableLegal f q w = true → Completes (.queueEnable f q v) s fun s' => OnlyEasel f s s' ∧
        s'.easel f = (s.easel f).setQueue q { w with
          enable := true, head := 0, tail := 0, completed := 0, state := 1, cause := 0, inHoldoff := false, covered := false }) ∧
      (w.enable = false → s.enableLegal f q w = false → Completes (.queueEnable f q v) s fun s' =>
        s' = s.setEasel f ((s.easel f).setQueue q w))) ∧
    (q ≤ 32 → s.ownsQueue f q = true → v.testBit 0 = false → Completes (.queueDisable f q v) s fun s' => OnlyEasel f s s' ∧
      s'.easel f = (s.easel f).setQueue q { u.control v with enable := false, state := 0, cause := 0 }) ∧
    (q < 32 → s.ownsQueue f q = true → u.enable = false → Completes (.registerWrite f (0x1000 + 0x100 * q + 8) 4 v) s fun s' =>
      s' = s.setEasel f ((s.easel f).setQueue q { u with size := v % 2 ^ 32 })) ∧
    (q < 32 → s.ownsQueue f q = true → u.enable = true → Completes (.registerWrite f (0x1000 + 0x100 * q + 8) 4 v) s fun s' => s' = s) ∧
    (v < 2 ^ 48 → v % 2097152 = 0 → Completes (.registerWrite f 0x18 8 v) s fun s' =>
      OnlyEasel f s s' ∧ (s'.easel f).windowBase = v)) ∧
  (∀ (s : State) (f offset n : Nat), s.answers f = true → ∀ va, va = (s.easel f).windowBase + offset →
    (f ∉ s.host.d3hot → s.bar2Ok f offset n = true → (∀ p ∈ piecesOf 64 va n, s.poisonedVa f (p.1 / 64 * 64) 64 = false) →
      ThroughArbiters (.bar2Read f offset n []) s (.bar2 f false) 8192 (s.arbsVa 0 f va n) fun t s' => ∃ bs,
        s' = (t.useTranslation 32 f va n).emit (.barRead f 0 bs) ∧
        bs = (piecesOf 64 va n).flatMap fun p => (s.readVa f p.1 p.2).getD []) ∧
    (∀ bytes : List Byte, f ∉ s.host.d3hot → s.bar2Ok f offset bytes.length = true →
      ThroughArbiters (.bar2Write f offset bytes) s (.bar2 f true) 8192 (s.arbsVa 0 f va bytes.length) fun t s' =>
        ((∀ d ∈ t.host.doorbells, d.1 ≠ f) →
          s'.mem = (s.writeVa f va bytes).mem ∧ s'.easels = s.easels ∧ s'.host = s.host ∧ s'.out = s.out) ∧
        (∀ q d, t.host.doorbells = [(f, q, d)] → ∃ w : State, w.mem = (s.writeVa f va bytes).mem ∧ w.easels = s.easels ∧ w.bind = s.bind ∧
          w.host = { s.host with doorbells := [] } ∧ s' = w.applyDoorbell f q d)) ∧
    ((f ∈ s.host.d3hot ∨ s.bar2Ok f offset n = false) → ∀ errs, Completes (.bar2Read f offset n errs) s fun s' =>
      s' = { s with host := { s.host with urCount := s.host.urCount + 1 }, out := s.out ++ [.barRead f 1 []] }) ∧
    (∀ bytes : List Byte, (f ∈ s.host.d3hot ∨ s.bar2Ok f offset bytes.length = false) → Completes (.bar2Write f offset bytes) s fun s' =>
      s' = { s with host := { s.host with urCount := s.host.urCount + 1 } })) ∧
  (∀ (s : State) (f q : Nat) (u : Queue), u = (s.easel f).queueAt q → u.inHoldoff = true →
    (u.covered = false → Completes (.msixHoldoffExpiry f q) s fun s' => s' = s.setEasel f ((s.easel f).setQueue q { u with inHoldoff := false })) ∧
    (u.covered = true → u.enable = true → u.irq = true → ((s.easel f).vectorAt u.vector).masked = false → s.host.linkUp = true →
      Completes (.msixHoldoffExpiry f q) s fun s' => s'.out = s.out ++ [.msix f u.vector] ∧
        ((s'.easel f).queueAt q).inHoldoff = (u.holdoff != 0) ∧ ((s'.easel f).queueAt q).covered = false)) ∧
  (∀ (s : State) (f : Nat) (r : CfgReq), s.host.linkUp = true → s.functionOn f = true →
    (s.vbusUp = false → Completes (.configRequest f r) s fun s' => s' = s.emit (.cfg f 1 0)) ∧
    (s.vbusUp = true → r = .readClass → Completes (.configRequest f r) s fun s' => s' = s.emit (.cfg f 0 0x120000)) ∧
    (∀ n, s.vbusUp = true → f = 0 → r = .writeVfEnable true n → s.host.numVfs ≤ min n 63 → Completes (.configRequest f r) s fun s' =>
      s' = { s with host := { s.host with numVfs := min n 63 }, out := s.out ++ [.cfg 0 0 0] }))

/-! ### Power -/

/-- A supply that leaves its range (R437): the cause persists and is counted, PWR_ALERT_N is asserted, and the VBUS domain runs on; while the
cause persists the same finding changes nothing. VIO lost reads as PERST_N asserted. -/
def Obligations.SuppliesReported : Prop :=
  (∀ (s : State) (c : Instr) (cause mv : Nat), s.dict.running = true →
    ((c = .vbusLow mv ∧ cause = 1 ∧ s.power.vbus = true ∧ mv < 10800) ∨ (c = .vbusHigh mv ∧ cause = 2 ∧ s.power.vbus = true ∧ 13200 < mv) ∨
      (c = .limitNotMet mv ∧ cause = 8 ∧ s.vbusUp = true ∧ s.power.overLimit = true ∧ s.power.coreMv = 550) ∨
      (c = .vauxOutOfRange mv ∧ cause = 4 ∧ s.power.vaux = true ∧ 3000 ≤ mv ∧ (mv < 3135 ∨ 3465 < mv))) →
    (cause ∈ s.power.raised → Completes c s fun s' => s' = s) ∧
    (cause ∉ s.power.raised → Completes c s fun s' => s'.power.supplyFaults = s.power.supplyFaults + 1 ∧ s'.power.alert = true ∧
      (∀ d, d ∈ s'.power.raised ↔ d = cause ∨ d ∈ s.power.raised) ∧ s'.power.vbusState = s.power.vbusState ∧ s'.tiles = s.tiles ∧
      s'.sems = s.sems ∧ s'.bind = s.bind ∧ ∀ e, (s'.easel e).mode = (s.easel e).mode)) ∧
  (∀ (s : State) (stage : Nat), s.vbusOn = true → stage ∉ s.power.stages → Completes (.powerStageFailed stage) s fun s' =>
    stage ∈ s'.power.stages ∧ 6 ∈ s'.power.raised ∧ s'.power.supplyFaults = s.power.supplyFaults + 1 ∧
    s'.power.vbusState = s.power.vbusState ∧ s'.bind = s.bind ∧ ∀ e, (s'.easel e).mode = (s.easel e).mode) ∧
  (∀ (s : State) (mv : Nat), s.power.vio = true → (mv < 1710 ∨ 1890 < mv) → Completes (.vioOutOfRange mv) s fun s' =>
    s'.power.vio = false ∧ s'.host.perst = true) ∧
  (∀ (s : State) (asserted : Bool), Completes (.vioPresent asserted) s fun s' => s'.power.vio = true ∧ s'.host.perst = asserted ∧
    5 ∉ s'.power.raised) ∧
  (∀ s : State, (Completes .mgtClkLost s fun s' => s' = { s with power := { s.power with mgtClk := false } }) ∧
    (Completes .mgtClkReturn s fun s' => s' = { s with power := { s.power with mgtClk := true } }))

/-- The planes without their state: every easel FREE, nothing bound, no tile, memory or semaphore with contents; flash, keys and firmware
stand (R438). -/
def PlanesLost (s s' : State) : Prop :=
  (∀ e, (s'.easel e).mode = .free ∧ (s'.easel e).canvas = none ∧ (s'.easel e).keyEpoch = (s.easel e).keyEpoch) ∧ s'.bind.table = [] ∧
  s'.bind.request = none ∧ s'.mem = [] ∧ s'.tiles = [] ∧ s'.sems = [] ∧ s'.flash = s.flash ∧ s'.trust = s.trust ∧
  s'.bind.retired = s.bind.retired

/-- What stops the VBUS domain (R438, R446): a collapse, a stage out of rating, the reference clock lost, a thermal trip, each with its cause and
its record kept; VAUX below 3.0 V takes the management plane with it. -/
def Obligations.DomainStops : Prop :=
  (∀ (s : State) (c : Instr) (state cause n : Nat), s.bind.request = none →
    ((c = .vbusCollapse n ∧ state = 3 ∧ cause = 3 ∧ s.vbusOn = true ∧ n < 10000) ∨
      (c = .powerStageFailedOutOfRating n ∧ state = 3 ∧ cause = 7 ∧ s.vbusOn = true) ∨
      (c = .pcieRefclkLost n ∧ state = 3 ∧ cause = 9 ∧ s.vbusUp = true) ∨
      (∃ die, c = .thermalTrip die n ∧ state = 4 ∧ cause = thermalCause ∧ s.vbusOn = true ∧ 115 ≤ n ∧ die < 12)) →
    Completes c s fun s' => PlanesLost s s' ∧ s'.power.vbusState = state ∧ s'.power.stopCause = cause ∧ s'.power.stopRecord.isSome = true ∧
      s'.dict.values = s.dict.values ∧ (cause = 3 → s'.power.vbus = false) ∧ (cause = 9 → s'.power.refclk = false) ∧
      (cause = 7 → n ∈ s'.power.stages) ∧ (cause = thermalCause → s'.power.thermTrip = true ∧
        s'.power.thermalTrips = s.power.thermalTrips + 1)) ∧
  (∀ (s : State) (mv : Nat), s.bind.request = none → s.power.vaux = true → mv < 3000 → Completes (.vauxOutOfRange mv) s fun s' =>
    PlanesLost s s' ∧ s'.power.vaux = false ∧ s'.dict.running = false ∧ s'.power.vbusState = 0 ∧ s'.dict.sessions = [])

/-- Start-up and restarts (R438 to R443, R447): VAUX, MRESET_N and a Curator restart run the firmware of the preferred slot where it verifies;
the VBUS part begins with the core rail at 750 mV and waits for the reference clock, with which the device runs and easel 0 is BOUND with its
queue 0 and a new key; while the Curator is down for a restart its copies of records are missed (R32); after a stop the domain starts again by itself only for causes
0x03 and 0x09, and never in recovery. -/
def Obligations.DomainStarts : Prop :=
  (∀ (s : State) (c : BootChecks), s.slotBoots c s.trust.preferred = true →
    (s.power.vaux = false → Completes (.vauxPowerOn c) s fun s' => s'.power.vaux = true ∧ s'.dict.running = true ∧
      s'.trust.recovery = false ∧ s'.trust.runningSlot = s.trust.preferred ∧ s'.dict.sessions = [] ∧ s'.bind.request = none) ∧
    (s.bind.request = none → s.power.vaux = true → s.power.vio = true → Completes (.mreset c) s fun s' => s'.power.vbusState = 0 ∧
      s'.dict.running = true ∧ s'.trust.recovery = false ∧ s'.trust.runningSlot = s.trust.preferred ∧ s'.dict.sessions = [] ∧
      s'.bind.table = [] ∧ s'.mem = [] ∧ s'.flash = s.flash ∧ ∀ e, (s'.easel e).mode = .free) ∧
    (s.dict.running = true → s.power.vaux = true → s.bind.request = none → Completes (.curatorRestart c false) s fun s' =>
      s'.trust.recovery = false ∧ s'.trust.runningSlot = s.trust.preferred ∧ s'.dict.staging = [] ∧ s'.dict.transactions = [] ∧
      s'.dict.running = true ∧ s'.dict.waiting = [] ∧
      s'.dict.sessions = [] ∧ s'.dict.values = s.dict.values ∧ s'.bind = s.bind ∧ s'.tiles = s.tiles ∧ s'.sems = s.sems) ∧
    (s.dict.running = true → s.power.vaux = true → Completes (.curatorRestart c true) s fun s' => s' = { s with dict := s'.dict } ∧
      s'.dict.running = false ∧ s'.dict.restarting = true ∧ s'.dict.waiting = [] ∧ s'.dict.sessions = [] ∧ s'.dict.values = s.dict.values ∧
      ∀ v, (s'.copyIn v).dict.missed = addSat (2 ^ 64 - 1) s.dict.missed 1 ∧ (s'.copyIn v).dict.intake = s.dict.intake)) ∧
  (∀ (s : State), s.power.vaux = true → s.dict.running = true → s.trust.recovery = false → s.power.vbusState = 0 →
    (s.power.stopCause = thermalCause → s.cool = true) → s.power.stopCause ≠ 7 → Completes .vbusStartup s fun s' =>
      s' = { s with power := s'.power } ∧ s'.power.vbusState = 1 ∧ s'.power.coreMv = 750 ∧ s'.power.waitRefclk = true ∧
      s'.power.stopCause = 0 ∧ s'.power.thermTrip = false) ∧
  (∀ (s : State), s.power.vbusState = 3 → s.power.vaux = true → s.dict.running = true → s.trust.recovery = false → (s.power.stopCause = 3 ∨ s.power.stopCause = 9) →
    Completes .vbusCauseCleared s fun s' => s' = { s with power := s'.power } ∧ s'.power.vbusState = 1 ∧ s'.power.coreMv = 750 ∧
      s'.power.waitRefclk = true ∧ s.power.stopCause ∉ s'.power.raised) ∧
  (∀ s : State, (s.power.vbusState = 4 ∨ s.power.stopCause = 7 ∨ s.trust.recovery = true) → exec .vbusCauseCleared s = .next s) ∧
  (∀ (s : State) (us : Nat) (failed : List Nat), s.power.vbusState = 1 → (s.power.waitRefclk = true ∨ s.power.calibrated = true) →
    (s.power.testEn = false → Completes (.refclkArrival us failed false) s fun s' => s'.power.vbusState = 2 ∧ s'.power.calibrated = true ∧
      s'.bind.table = [⟨8, 0, 1, 0, 0⟩] ∧ (s'.easel 0).mode = .bound ∧ (s'.easel 0).keyEpoch ≠ (s.easel 0).keyEpoch ∧
      s'.power.stopRecord = none) ∧
    Completes (.refclkArrival us failed true) s fun s' => s' = { s with power := s'.power } ∧ s'.power.vbusState = 1 ∧
      s'.power.calibrated = true ∧ s'.power.waitRefclk = false ∧ 9 ∉ s'.power.raised)

/-- The power loop (R444): every evaluation moves the core rail by one 5 mV step or holds it: down while over the limit and above 550 mV, up to its
set value while there is margin, down to it otherwise. -/
def Obligations.RailFollowsLoad : Prop :=
  ∀ (s : State) (r : Readings), s.dict.running = true → s.power.vaux = true → s.vbusUp = true →
    ∀ (mv set limit : Nat), mv = s.power.coreMv → set = policy s 0x2000 3 → limit = min (policy s 0x2000 1 * 1000) (290 * r.v10) →
    ∀ above : Prop, (above ↔ limit < r.p100 ∨ 290000 < r.i10 ∨ (policy s 0x2000 2 = 0 ∧ ∃ t ∈ r.temps, 103000 < t)) →
    ∀ margin : Prop, (margin ↔ r.p100 * 100 < 98 * limit ∧ r.i10 < 284000 ∧ (policy s 0x2000 2 = 1 ∨ ∀ t ∈ r.temps, t < 100000)) →
    Completes (.powerLoopTick r) s fun s' => s'.tiles = s.tiles ∧ s'.sems = s.sems ∧ s'.bind = s.bind ∧
      (s'.power.overLimit = true ↔ above) ∧
      (above → 550 < mv → s'.power.coreMv = mv - 5) ∧ (above → mv ≤ 550 → s'.power.coreMv = mv) ∧
      (¬above → mv < set → margin → s'.power.coreMv = mv + 5) ∧ (¬above → mv < set → ¬margin → s'.power.coreMv = mv) ∧
      (¬above → set < mv → s'.power.coreMv = mv - 5) ∧ (¬above → mv = set → s'.power.coreMv = mv)

/-! ### Tiles that fail, wear and observability -/

/-- Failure and wear (R40, R268, R386 to R390): a spare serves the number of a tile that fails and the number keeps its binding; without a spare
the easel enters FAULTED, at once for a failure and at the next boundary for wear; a page with an uncorrectable error is to be retired, and the
patrol reads once no other request pends at its arbiter (R265). -/
def Obligations.UnitsWear : Prop :=
  (∀ (s : State) (t choice : Nat), s.bindable t = true → s.vbusUp = true →
    (∀ p, s.spareFor t choice = some p →
      (Completes (.tileFailure t choice) s fun s' => s'.server t = p ∧ s'.role p = 4 ∧ s'.bind.table = s.bind.table) ∧
      ((∀ e, s.ownerOf 1 t = some e → (s.easel e).quiet = true) → Completes (.tileRetire t choice) s fun s' => s'.server t = p ∧
        s'.role p = 4 ∧ s'.bind.table = s.bind.table ∧ s'.tile t = s.tile t ∧ s'.sems = s.sems)) ∧
    (s.spareFor t choice = none → ∀ e, s.ownerOf 1 t = some e →
      (s.bind.request = none → s.works e = true → Completes (.tileFailure t choice) s fun s' => (s'.easel e).mode = .faulted ∧
        s'.ownerOf 1 t = none ∧ s'.role t = 2) ∧
      ((s.easel e).quiet = true → Completes (.tileRetire t choice) s fun s' => (s'.easel e).faultAtBoundary = true ∧ s'.role t = 2)) ∧
    (∀ e, s.ownerOf 1 t = some e → (s.easel e).quiet = false → exec (.tileRetire t choice) s = .next s)) ∧
  (∀ (s : State) (t : Nat), s.role t = 1 → t < 1344 → s.vbusUp = true → Completes (.spareTileFailure t) s fun s' => s'.role t = 2 ∧
    s'.bind.retired = s.bind.retired ++ [(1, t, 0)] ∧ s'.bind.table = s.bind.table ∧ s'.tiles = s.tiles) ∧
  (∀ (s : State) (die : Nat), s.tiers.readOnly = false → s.vbusUp = true → Completes (.flashReadOnly die) s fun s' =>
    s'.tiers.readOnly = true ∧ s'.tiers.flashWear = s.tiers.flashWear.set die 100 ∧ s'.bind = s.bind) ∧
  (∀ (s : State) (a : Nat) (w : Nat × Nat × Nat), s.vbusUp = true → policy s 0x5000 4 ≠ 0 → isDram a = true →
    a / pageBytes ∈ s.tiers.written → s.whereIs a = some w →
    ((∃ b ∈ arbOf a, s.pendingAt b ≠ []) → ∀ err, exec (.patrolRead a err false) s = .next s) ∧
    ((∀ b ∈ arbOf a, s.pendingAt b = []) → Completes (.patrolRead a .clean false) s fun s' => s' = { s with tiers := s'.tiers }) ∧
    ((∀ b ∈ arbOf a, s.pendingAt b = []) → s.poisoned (a / 8 * 8) 8 = false → Completes (.patrolRead a .uncorrectable false) s fun s' => a / pageBytes ∈ s'.tiers.bad ∧
      tget 0 s'.tiers.ueCount (stackOf a + 16 * tierOf a) = tget 0 s.tiers.ueCount (stackOf a + 16 * tierOf a) + 1))

/-- `mark`, samples and published counters (R109, R461, R467): a mark moves its tile on, and is recorded where its easel is traced; a sample
costs its tile no step; a publication copies the active counters of its unit. -/
def Obligations.WorkObserved : Prop :=
  (∀ (s : State) (t value reg : Nat) (k : TileCtx), s.fetch t = some (k, .mark value reg) →
    (s.traced k.e = false → Completes (.mark t) s (ScalarDone t 0 0 s)) ∧
    (s.traced k.e = true → Completes (.mark t) s fun s' => Advances (s.tile t) (s'.tile t) 0 0 ∧ QueuesKept (s.tile t) (s'.tile t) ∧
      (s'.tile t).traced = (s.tile t).traced + 1 ∧ s'.sems = s.sems ∧ ∀ u, u ≠ t → s'.tile u = s.tile u)) ∧
  (∀ (s : State) (t : Nat) (k : TileCtx), s.tileCtx t = some k → (s.tile t).running = true →
    (s.traced k.e = false → exec (.pcSample t) s = .next s) ∧
    (s.traced k.e = true → Completes (.pcSample t) s fun s' => (s'.tile t).traced = (s.tile t).traced + 1 ∧ (s'.tile t).pc = (s.tile t).pc ∧
      (s'.tile t).regs = (s.tile t).regs ∧ (s'.tile t).loops = (s.tile t).loops ∧ QueuesKept (s.tile t) (s'.tile t) ∧ s'.sems = s.sems)) ∧
  (∀ (s : State) (u : Nat),
    (Completes (.counterPublication 4 u) s fun s' => OnlyTile u s s' ∧ s'.tile u = { s.tile u with
      published := (s.tile u).counters, publishedSeq := (s.tile u).countersSeq, publishedFinal := false }) ∧
    (u < 128 → Completes (.counterPublication 5 u) s fun s' => s' = { s with streams := { s.streams with slices := s'.streams.slices } } ∧
      tget Bank.reset s'.streams.slices u = (tget Bank.reset s.streams.slices u).publish) ∧
    (Completes (.counterPublication 6 u) s fun s' =>
      tget Bank.reset s'.primer.banks u = (tget Bank.reset s.primer.banks u).publish ∧ s'.primer.intakes = s.primer.intakes) ∧
    (∀ e, e < 64 → Completes (.deviceCounterPublication 9 u) s fun s' =>
      s' = { s with obs := { s.obs with published := s'.obs.published } } ∧
      tget [] s'.obs.published (pubKey 9 e) = (s.easel e).glazeStats ++ [(s.easel e).varnishStalls]) ∧
    (∀ cls, (cls = 5 ∨ cls = 7 ∨ cls = 8 ∨ cls = 0xD) → Completes (.deviceCounterPublication cls u) s fun s' =>
      s' = { s with obs := { s.obs with published := s'.obs.published } } ∧
      tget [] s'.obs.published (pubKey cls u) = s.deviceCounters cls u))
end

