-- ==== Sys2Proof/Laws/Access.lean ====
section
/-! SUPPORT. What a unit's access at the arbiters (R265), a request at the Curator (R431) and a BAR0 access (R412) can do. -/

namespace Sys2Proof.Machine

variable {s : State}

/-! ### At the arbiters -/

/-- An access takes effect, waits, or has just asked. -/
theorem State.atArbiters_cases (w : Asker) (slack : Nat) (arbs : List Arb) (go : State → State) :
    (s.atArbiters w slack arbs go = go (s.unask (· == w)) ∧ ∃ q, s.asked w = some q ∧ q.arbs = []) ∨
    (s.atArbiters w slack arbs go = s ∧ ∃ q, s.asked w = some q ∧ q.arbs ≠ []) ∨
    (s.atArbiters w slack arbs go = go s ∧ s.asked w = none ∧ arbs = []) ∨
    (s.atArbiters w slack arbs go = s.ask w slack arbs ∧ s.asked w = none ∧ arbs ≠ []) := by
  unfold State.atArbiters
  split
  · next q h =>
    split
    · next hq => exact .inl ⟨rfl, q, h, List.isEmpty_iff.mp hq⟩
    · next hq => exact .inr (.inl ⟨rfl, q, h, fun k => hq (List.isEmpty_iff.mpr k)⟩)
  · split
    · next hq => exact .inr (.inr (.inl ⟨rfl, ‹_›, List.isEmpty_iff.mp hq⟩))
    · next hq => exact .inr (.inr (.inr ⟨rfl, ‹_›, fun k => hq (List.isEmpty_iff.mpr k)⟩))

/-- A granted access takes effect, its request gone. -/
theorem State.atArbiters_granted {w : Asker} {q : Ask} (h : s.asked w = some q) (hq : q.arbs = []) (slack : Nat) (arbs : List Arb)
    (go : State → State) : s.atArbiters w slack arbs go = go (s.unask (· == w)) := by
  simp [State.atArbiters, h, hq]

/-- An access that crosses no arbiter takes effect at once. -/
theorem State.atArbiters_free {w : Asker} (h : s.asked w = none) (slack : Nat) (go : State → State) :
    s.atArbiters w slack [] go = go s := by simp [State.atArbiters, h]

/-- Any other access not yet asked for leaves its request. -/
theorem State.atArbiters_asks {w : Asker} (h : s.asked w = none) (slack : Nat) {arbs : List Arb} (ha : arbs ≠ []) (go : State → State) :
    s.atArbiters w slack arbs go = s.ask w slack arbs := by simp [State.atArbiters, h, ha]

/-! ### At the Curator -/

/-- A request that finds no other one waiting runs. -/
theorem State.atCurator_direct (c : Instr) {m : Msg} (ht : s.dict.turn = false) (hl : m.later = false) (hw : s.dict.waiting = [])
    (go : State → State) : s.atCurator c m go = go s := by simp [State.atCurator, ht, hl, hw]

/-- A request whose turn has come runs. -/
theorem State.atCurator_turn (c : Instr) (m : Msg) (ht : s.dict.turn = true) (go : State → State) :
    s.atCurator c m go = go { s with dict := { s.dict with turn := false } } := by simp [State.atCurator, ht]

/-! ### At BAR0 -/

/-- A function that the host reaches takes the access. -/
theorem State.atBar0_reached {f : Nat} (h : s.reachable f = true) (go : State → State) : s.atBar0 f go = go s := by
  simp [State.atBar0, h]

end Sys2Proof.Machine
end

