-- ==== Sys2Proof/Laws/Memory.lean ====
section
/-! SUPPORT. The byte memories: every memory operation keeps the canonical form, a byte written is read back, and every
other byte keeps its value. -/

namespace Sys2Proof.Machine

/-- The canonical form in the words of lists: addresses strictly rising, no zero byte listed. -/
theorem wf_iff (m : Mem) : Memory.wf m = true ↔ m.Pairwise (fun p q => p.1 < q.1) ∧ ∀ p ∈ m, p.2 ≠ 0 := by
  induction m with
  | nil => simp [Memory.wf]
  | cons p m ih =>
    obtain ⟨i, b⟩ := p
    cases m with
    | nil => simp [Memory.wf]
    | cons q m =>
      obtain ⟨j, c⟩ := q
      simp only [Memory.wf, Bool.and_eq_true, decide_eq_true_eq, bne_iff_ne, ne_eq, ih]
      simp only [List.pairwise_cons, List.mem_cons, forall_eq_or_imp]
      constructor
      · rintro ⟨⟨hb, hij⟩, ⟨h1, h2⟩, hc, h3⟩
        exact ⟨⟨⟨hij, fun r hr => lt_trans hij (h1 r hr)⟩, h1, h2⟩, hb, hc, h3⟩
      · rintro ⟨⟨⟨hij, _⟩, h1, h2⟩, hb, hc, h3⟩
        exact ⟨⟨hb, hij⟩, ⟨h1, h2⟩, hc, h3⟩

@[simp] theorem wf_nil : Memory.wf [] = true := rfl

/-- A part of a canonical memory is canonical. -/
theorem wf_sublist {m n : Mem} (h : List.Sublist n m) (w : Memory.wf m = true) : Memory.wf n = true := by
  rw [wf_iff] at w ⊢
  exact ⟨w.1.sublist h, fun p hp => w.2 p (h.subset hp)⟩

/-- What is left of a canonical memory is canonical. -/
theorem mclear_wf (m : Mem) (a n : Nat) (w : Memory.wf m = true) : Memory.wf (mclear m a n) = true :=
  wf_sublist List.filter_sublist w

theorem filter_wf (p : Nat × Byte → Bool) (m : Mem) (w : Memory.wf m = true) : Memory.wf (m.filter p) = true :=
  wf_sublist List.filter_sublist w

/-- The byte at an address of a canonical memory. -/
theorem mget_eq_iff (m : Mem) (a : Nat) (b : Byte) (w : Memory.wf m = true) (hb : b ≠ 0) : mget m a = b ↔ (a, b) ∈ m := by
  rw [wf_iff] at w
  induction m with
  | nil => simpa [mget] using fun h : (0 : Byte) = b => hb h.symm
  | cons p m ih =>
    obtain ⟨i, c⟩ := p
    have w' := w
    simp only [List.pairwise_cons, List.mem_cons, forall_eq_or_imp] at w
    simp only [mget, List.mem_cons, Prod.mk.injEq]
    split
    · next h =>
      subst h
      constructor
      · rintro rfl; simp
      · rintro (⟨_, rfl⟩ | h2)
        · rfl
        · exact absurd (w.1.1 _ h2) (by simp)
    · next h =>
      rw [ih ⟨w.1.2, w.2.2⟩]
      constructor
      · exact Or.inr
      · rintro (⟨rfl, _⟩ | h2)
        · exact absurd rfl h
        · exact h2

theorem mget_notin (m : Mem) (a : Nat) (h : ∀ p ∈ m, p.1 ≠ a) : mget m a = 0 := by
  induction m with
  | nil => rfl
  | cons p m ih =>
    obtain ⟨i, c⟩ := p
    simp only [List.mem_cons, forall_eq_or_imp] at h
    simp [mget, h.1, ih h.2]

/-- A byte of a memory in two parts comes from the first where it lists it. -/
theorem mget_append (m n : Mem) (a : Nat) (h : ∀ p ∈ m, p.1 ≠ a) : mget (m ++ n) a = mget n a := by
  induction m with
  | nil => rfl
  | cons p m ih =>
    obtain ⟨i, c⟩ := p
    simp only [List.mem_cons, forall_eq_or_imp] at h
    simp [mget, h.1, ih h.2]

theorem mget_append_left (m n : Mem) (a : Nat) (h : ∀ p ∈ n, p.1 ≠ a) : mget (m ++ n) a = mget m a := by
  induction m with
  | nil => simpa [mget] using mget_notin n a h
  | cons p m ih =>
    obtain ⟨i, c⟩ := p
    simp only [List.cons_append, mget, ih]

theorem mget_filter (m : Mem) (p : Nat → Bool) (a : Nat) :
    mget (m.filter fun e => p e.1) a = if p a then mget m a else 0 := by
  induction m with
  | nil => simp [mget]
  | cons q m ih =>
    obtain ⟨i, c⟩ := q
    simp only [List.filter_cons]
    by_cases hi : i = a
    · subst hi
      by_cases hp : p i = true
      · simp [hp, mget]
      · simp [hp, ih]
    · by_cases hp : p i = true
      · simp [hp, mget, hi, ih]
      · simp [hp, mget, hi, ih]

/-- A cleared range reads as zero, every other byte as before. -/
theorem mget_mclear (m : Mem) (a n x : Nat) : mget (mclear m a n) x = if a ≤ x ∧ x < a + n then 0 else mget m x := by
  unfold mclear
  rw [mget_filter m (fun i => decide (i < a) || decide (a + n ≤ i))]
  by_cases h1 : x < a <;> by_cases h2 : a + n ≤ x <;> simp [h1, h2]

/-- The cells that a run of bytes gives. -/
def cells (bs : List Byte) (a : Nat) : Mem := (bs.zipIdx a).filterMap fun (b, i) => if b = 0 then none else some (i, b)

theorem cells_cons (b : Byte) (bs : List Byte) (a : Nat) :
    cells (b :: bs) a = (if b = 0 then [] else [(a, b)]) ++ cells bs (a + 1) := by
  simp only [cells, List.zipIdx_cons, List.filterMap_cons]
  split_ifs <;> rfl

theorem cells_range (bs : List Byte) (a : Nat) : ∀ p ∈ cells bs a, a ≤ p.1 ∧ p.1 < a + bs.length := by
  induction bs generalizing a with
  | nil => simp [cells]
  | cons b bs ih =>
    intro p hp
    rw [cells_cons] at hp
    simp only [List.mem_append] at hp
    simp only [List.length_cons]
    rcases hp with hp | hp
    · split at hp
      · simp at hp
      · simp only [List.mem_singleton] at hp; subst hp; simp
    · have := ih (a + 1) p hp; omega

theorem cells_wf (bs : List Byte) (a : Nat) : Memory.wf (cells bs a) = true := by
  rw [wf_iff]
  induction bs generalizing a with
  | nil => simp [cells]
  | cons b bs ih =>
    rw [cells_cons]
    obtain ⟨h1, h2⟩ := ih (a + 1)
    split
    · exact ⟨h1, h2⟩
    · next h =>
      simp only [List.singleton_append, List.pairwise_cons, List.mem_cons, forall_eq_or_imp]
      exact ⟨⟨fun p hp => by have := cells_range bs (a + 1) p hp; omega, h1⟩, h, h2⟩

theorem mget_cells (bs : List Byte) (a x : Nat) : mget (cells bs a) x = if a ≤ x then bs.getD (x - a) 0 else 0 := by
  induction bs generalizing a with
  | nil => simp [cells, mget]
  | cons b bs ih =>
    rw [cells_cons]
    by_cases hx : x = a
    · subst hx
      split
      · next hb =>
        simp [ih, hb]
      · simp [mget]
    · have hne : ∀ p ∈ (if b = 0 then [] else [(a, b)] : Mem), p.1 ≠ x := by
        split
        · simp
        · simp [Ne.symm hx]
      rw [mget_append _ _ _ hne, ih]
      by_cases h : a ≤ x
      · obtain ⟨k, rfl⟩ : ∃ k, x = a + 1 + k := ⟨x - a - 1, by omega⟩
        simp only [show a + 1 ≤ a + 1 + k by omega, ↓reduceIte, h]
        rw [show a + 1 + k - a = k + 1 by omega, show a + 1 + k - (a + 1) = k by omega]
        simp
      · simp [h, show ¬ a + 1 ≤ x by omega]

theorem mputs_eq (m : Mem) (a : Nat) (bs : List Byte) (w : Memory.wf m = true) :
    mputs m a bs = m.filter (fun e => decide (e.1 < a)) ++ cells bs a ++ m.filter (fun e => !decide (e.1 < a + bs.length)) := by
  have h : ∀ (n : Nat) (m : Mem), m.Pairwise (fun p q => p.1 < q.1) →
      m.takeWhile (fun e => e.1 < n) = m.filter (fun e => decide (e.1 < n)) ∧
      m.dropWhile (fun e => e.1 < n) = m.filter (fun e => !decide (e.1 < n)) := by
    intro n m hm
    induction m with
    | nil => simp
    | cons p m ih =>
      obtain ⟨i, c⟩ := p
      rw [List.pairwise_cons] at hm
      obtain ⟨h1, h2⟩ := ih hm.2
      by_cases hi : i < n
      · simp [hi, h1, h2]
      · have h3 : ∀ q ∈ m, ¬ q.1 < n := fun q hq => by have := hm.1 q hq; simp only at this; omega
        constructor
        · simp only [List.takeWhile_cons, hi, decide_false, Bool.false_eq_true, ↓reduceIte, not_false_eq_true, List.filter_cons_of_neg]
          symm; rw [List.filter_eq_nil_iff]; intro q hq; simp [h3 q hq]
        · simp only [List.dropWhile_cons, hi, decide_false, Bool.false_eq_true, ↓reduceIte, Bool.not_false, List.filter_cons_of_pos]
          symm; rw [List.cons.injEq]; refine ⟨rfl, ?_⟩
          rw [List.filter_eq_self]; intro q hq; simp [h3 q hq]
  rw [wf_iff] at w
  unfold mputs cells
  rw [(h a m w.1).1, (h (a + bs.length) m w.1).2]

/-- A run of bytes put in keeps the canonical form. -/
theorem mputs_wf (m : Mem) (a : Nat) (bs : List Byte) (w : Memory.wf m = true) : Memory.wf (mputs m a bs) = true := by
  rw [mputs_eq m a bs w]
  have hc := cells_wf bs a
  have hr := cells_range bs a
  rw [wf_iff] at w hc ⊢
  constructor
  · rw [List.pairwise_append, List.pairwise_append]
    refine ⟨⟨w.1.sublist List.filter_sublist, hc.1, ?_⟩, w.1.sublist List.filter_sublist, ?_⟩
    · intro p hp q hq
      simp only [List.mem_filter, decide_eq_true_eq] at hp
      have := hr q hq; omega
    · intro p hp q hq
      simp only [List.mem_append, List.mem_filter, decide_eq_true_eq, Bool.not_eq_true', decide_eq_false_iff_not] at hp hq
      rcases hp with hp | hp
      · omega
      · have := hr p hp; omega
  · intro p hp
    simp only [List.mem_append, List.mem_filter] at hp
    rcases hp with (hp | hp) | hp
    · exact w.2 p hp.1
    · exact hc.2 p hp
    · exact w.2 p hp.1

/-- The bytes put in are read back, every other byte as before. -/
theorem mget_mputs (m : Mem) (a : Nat) (bs : List Byte) (x : Nat) (w : Memory.wf m = true) :
    mget (mputs m a bs) x = if a ≤ x ∧ x < a + bs.length then bs.getD (x - a) 0 else mget m x := by
  rw [mputs_eq m a bs w]
  have hr := cells_range bs a
  have f1 : mget (m.filter (fun e => decide (e.1 < a))) x = if x < a then mget m x else 0 := by
    rw [mget_filter m (fun i => decide (i < a))]; simp
  have f2 : mget (m.filter (fun e => !decide (e.1 < a + bs.length))) x = if x < a + bs.length then 0 else mget m x := by
    rw [mget_filter m (fun i => !decide (i < a + bs.length))]; by_cases h : x < a + bs.length <;> simp [h]
  by_cases h1 : x < a
  · rw [if_neg (by omega), mget_append_left, mget_append_left, f1, if_pos h1]
    · intro p hp; have := hr p hp; omega
    · intro p hp; simp only [List.mem_filter, Bool.not_eq_true', decide_eq_false_iff_not] at hp; omega
  · rw [List.append_assoc, mget_append]
    · by_cases h2 : x < a + bs.length
      · rw [if_pos ⟨by omega, h2⟩, mget_append_left, mget_cells, if_pos (by omega)]
        intro p hp; simp only [List.mem_filter, Bool.not_eq_true', decide_eq_false_iff_not] at hp; omega
      · rw [if_neg (by omega), mget_append, f2, if_neg h2]
        intro p hp; have := hr p hp; omega
    · intro p hp; simp only [List.mem_filter, decide_eq_true_eq] at hp; omega

/-- One byte set keeps the canonical form. -/
theorem mset_wf (m : Mem) (a : Nat) (b : Byte) (w : Memory.wf m = true) : Memory.wf (mset m a b) = true := by
  have h : ∀ m : Mem, m.Pairwise (fun p q => p.1 < q.1) → ∀ p ∈ mset m a b, p ∈ m ∨ (p = (a, b) ∧ b ≠ 0) := by
    intro m
    induction m with
    | nil => intro _ p hp; simp only [mset] at hp; split at hp <;> simp_all
    | cons q m ih =>
      obtain ⟨i, c⟩ := q
      intro hm p hp
      rw [List.pairwise_cons] at hm
      simp only [mset] at hp
      split at hp
      · split at hp
        · exact .inl hp
        · simp only [List.mem_cons] at hp ⊢; tauto
      · split at hp
        · split at hp
          · exact .inl (List.mem_cons_of_mem _ hp)
          · simp only [List.mem_cons] at hp ⊢; tauto
        · rcases List.mem_cons.1 hp with rfl | hp
          · simp
          · rcases ih hm.2 p hp with h | h
            · exact .inl (List.mem_cons_of_mem _ h)
            · exact .inr h
  rw [wf_iff] at w ⊢
  refine ⟨?_, fun p hp => ?_⟩
  · obtain ⟨w1, w2⟩ := w
    clear w2
    induction m with
    | nil => simp only [mset]; split <;> simp
    | cons q m ih =>
      obtain ⟨i, c⟩ := q
      have w' := w1
      rw [List.pairwise_cons] at w1
      simp only [mset]
      split
      · split
        · exact w'
        · rw [List.pairwise_cons]
          refine ⟨fun q hq => ?_, w'⟩
          rcases List.mem_cons.1 hq with rfl | hq
          · assumption
          · have := w1.1 q hq; simp only at this ⊢; omega
      · split
        · split
          · exact w1.2
          · next h2 _ => rw [List.pairwise_cons]; subst h2; exact ⟨w1.1, w1.2⟩
        · rw [List.pairwise_cons]
          refine ⟨fun q hq => ?_, ih w1.2⟩
          rcases h m w1.2 q hq with h | ⟨rfl, _⟩
          · exact w1.1 q h
          · simp only; omega
  · rcases h m w.1 p hp with h | ⟨rfl, hb⟩
    · exact w.2 p h
    · exact hb

theorem mreads_length (m : Mem) (a n : Nat) : (mreads m a n).length = n := by
  induction n generalizing m a with
  | zero => cases m <;> rfl
  | succ n ih =>
    cases m with
    | nil => simp [mreads, ih]
    | cons p m => obtain ⟨i, b⟩ := p; simp only [mreads]; split <;> simp [ih]

/-- `n` bytes are read. -/
@[simp] theorem mgets_length (m : Mem) (a n : Nat) : (mgets m a n).length = n := mreads_length _ _ _

/-- The bytes read in one pass are the bytes of the memory, one by one. -/
theorem mgets_eq (m : Mem) (a n : Nat) (w : Memory.wf m = true) : mgets m a n = (List.range n).map fun i => mget m (a + i) := by
  have key : ∀ (n a : Nat) (m : Mem), m.Pairwise (fun p q => p.1 < q.1) → (∀ p ∈ m, a ≤ p.1) →
      mreads m a n = (List.range n).map fun i => mget m (a + i) := by
    intro n
    induction n with
    | zero => intro a m _ _; cases m <;> rfl
    | succ n ih =>
      intro a m hm ha
      rw [List.range_succ_eq_map]
      cases m with
      | nil => simp [mreads, mget, ih (a + 1) [] (by simp) (by simp), Function.comp_def]
      | cons p m =>
        obtain ⟨i, b⟩ := p
        rw [List.pairwise_cons] at hm
        have hi : a ≤ i := ha (i, b) (by simp)
        have hm1 : ∀ q ∈ m, a + 1 ≤ q.1 := fun q hq => by have := hm.1 q hq; simp only at this; omega
        simp only [mreads, List.map_cons, List.map_map, Nat.add_zero]
        split
        · next h =>
          subst h
          rw [ih (i + 1) m hm.2 hm1]
          simp only [mget, ↓reduceIte, List.cons.injEq, true_and, List.map_inj_left, Function.comp, List.mem_range]
          intro j _
          rw [if_neg (by omega), show i + 1 + j = i + (j + 1) by omega]
        · next h =>
          rw [ih (a + 1) ((i, b) :: m) (List.pairwise_cons.2 hm) (by
            intro q hq
            rcases List.mem_cons.1 hq with rfl | hq
            · simp only; omega
            · exact hm1 q hq)]
          rw [List.cons.injEq]
          constructor
          · symm; apply mget_notin
            intro q hq
            rcases List.mem_cons.1 hq with rfl | hq
            · exact h
            · have := hm1 q hq; omega
          · rw [List.map_inj_left]
            intro j _
            simp only [Function.comp]
            rw [show a + 1 + j = a + (j + 1) by omega]
  have w' := (wf_iff m).1 w
  unfold mgets
  have hd : List.Sublist (m.dropWhile fun e => e.1 < a) m := List.dropWhile_sublist _
  rw [key n a _ (w'.1.sublist hd) ?_]
  · rw [List.map_inj_left]
    intro i _
    conv_rhs => rw [← List.takeWhile_append_dropWhile (p := fun e => decide (e.1 < a)) (l := m)]
    rw [mget_append]
    intro p hp
    have := List.mem_takeWhile_imp hp
    simp only [decide_eq_true_eq] at this; omega
  · have : ∀ m : Mem, m.Pairwise (fun p q => p.1 < q.1) → ∀ p ∈ m.dropWhile (fun e => e.1 < a), a ≤ p.1 := by
      intro m hm
      induction m with
      | nil => simp
      | cons p m ih =>
        obtain ⟨i, b⟩ := p
        rw [List.pairwise_cons] at hm
        intro q hq
        simp only [List.dropWhile_cons, decide_eq_true_eq] at hq
        split at hq
        · exact ih hm.2 q hq
        · rcases List.mem_cons.1 hq with rfl | hq
          · simp only; omega
          · have := hm.1 q hq; simp only at this; omega
    exact this m w'.1

end Sys2Proof.Machine
end

