-- ==== Sys2Proof/Laws/Tables.lean ====
section
/-! SUPPORT. What tables hold: reading after `tset`, `tdel` and `tmap`, and membership in the rising lists of `insertSet`. -/

namespace Sys2Proof.Machine

@[simp] theorem tget_nil {α : Type} (d : α) (k : Nat) : tget d [] k = d := rfl

/-- What was set is read. -/
@[simp] theorem tget_tset_self {α : Type} (d : α) (t : Tab α) (k : Nat) (x : α) : tget d (tset t k x) k = x := by
  induction t with
  | nil => simp [tset, tget]
  | cons p t ih =>
    obtain ⟨i, y⟩ := p
    simp only [tset]
    split
    · simp [tget]
    · split
      · simp [tget]
      · simp [tget, *]

/-- Every other key keeps its value. -/
@[simp] theorem tget_tset_ne {α : Type} (d : α) (t : Tab α) (k j : Nat) (x : α) (h : j ≠ k) :
    tget d (tset t k x) j = tget d t j := by
  induction t with
  | nil => simp [tset, tget, Ne.symm h]
  | cons p t ih =>
    obtain ⟨i, y⟩ := p
    simp only [tset]
    split
    · simp [tget, Ne.symm h]
    · split
      · next h1 h2 => subst h2; simp [tget, Ne.symm h]
      · simp [tget, ih]

theorem tget_tset {α : Type} (d : α) (t : Tab α) (k j : Nat) (x : α) :
    tget d (tset t k x) j = if j = k then x else tget d t j := by
  split
  · next h => subst h; simp
  · next h => simp [h]

/-- Setting twice is setting once. -/
@[simp] theorem tset_tset {α : Type} (t : Tab α) (k : Nat) (x y : α) : tset (tset t k x) k y = tset t k y := by
  induction t with
  | nil => simp [tset]
  | cons p t ih =>
    obtain ⟨i, z⟩ := p
    simp only [tset]
    split
    · simp [tset]
    · split
      · next h1 h2 => subst h2; simp [tset]
      · next h1 h2 => simp [tset, h1, h2, ih]

/-- A key taken out reads as unlisted, the others as before. -/
theorem tget_tdel {α : Type} (d : α) (t : Tab α) (k j : Nat) : tget d (tdel t k) j = if j = k then d else tget d t j := by
  induction t with
  | nil => simp [tdel]
  | cons p t ih =>
    obtain ⟨i, y⟩ := p
    simp only [tdel, List.filter_cons] at ih ⊢
    by_cases h : i = k
    · subst h
      simp only [bne_self_eq_false, Bool.false_eq_true, ↓reduceIte, tget, ih]
      by_cases h2 : j = i
      · simp [h2]
      · simp [h2, Ne.symm h2]
    · simp only [bne_iff_ne, ne_eq, h, not_false_eq_true, ↓reduceIte, tget, ih]
      by_cases h2 : i = j
      · subst h2; simp [h]
      · simp [h2]

/-- A change of every value is read through it, where it keeps what an unlisted key holds. -/
theorem tget_tmap {α : Type} (d : α) (f : Nat → α → α) (t : Tab α) (k : Nat) (h : f k d = d) :
    tget d (tmap f t) k = f k (tget d t k) := by
  induction t with
  | nil => simp [tmap, h]
  | cons p t ih =>
    obtain ⟨i, y⟩ := p
    simp only [tmap, List.map_cons, tget] at ih ⊢
    split
    · next h2 => subst h2; rfl
    · exact ih

/-- A value read out of a table after a change that every value and the default meet a property under. -/
theorem tget_all {α : Type} (P : α → Prop) (d : α) (t : Tab α) (hd : P d) (ht : ∀ p ∈ t, P p.2) (k : Nat) : P (tget d t k) := by
  induction t with
  | nil => simpa using hd
  | cons p t ih =>
    obtain ⟨i, y⟩ := p
    simp only [tget]
    split
    · exact ht (i, y) (by simp)
    · exact ih fun q hq => ht q (by simp [hq])

/-- Membership in a set with one number put in. -/
@[simp] theorem mem_insertSet (l : List Nat) (k j : Nat) : j ∈ insertSet l k ↔ j = k ∨ j ∈ l := by
  induction l with
  | nil => simp [insertSet]
  | cons i t ih =>
    simp only [insertSet]
    split
    · simp
    · split
      · next h => subst h; simp
      · simp only [List.mem_cons, ih]; tauto

/-- Membership in `span`. -/
@[simp] theorem mem_span (lo hi j : Nat) : j ∈ span lo hi ↔ lo ≤ j ∧ j < hi := by
  simp only [span, List.mem_map, List.mem_range]
  constructor
  · rintro ⟨a, h, rfl⟩; omega
  · rintro ⟨h1, h2⟩; exact ⟨j - lo, by omega, by omega⟩

end Sys2Proof.Machine
end

