-- ==== Sys2Proof/Laws/Writes.lean ====
section
/-! SUPPORT. What a write to memory, under any name of a place, leaves alone: everything but the memories, the poison marks,
the tags and the page-written bits, and the canonical form. -/

namespace Sys2Proof.Machine

/-- The memories may have changed, in canonical form still; nothing else has. -/
def MemoryOnly (s s' : State) : Prop :=
  s' = { s with
    mem := s'.mem
    flash := s'.flash
    poison := s'.poison
    tags := s'.tags
    tiers := { s.tiers with written := s'.tiers.written } } ∧
  (Memory.wf s.mem = true → Memory.wf s'.mem = true) ∧ (Memory.wf s.flash = true → Memory.wf s'.flash = true)

theorem MemoryOnly.refl (s : State) : MemoryOnly s s := ⟨rfl, id, id⟩

theorem MemoryOnly.trans {a b c : State} (h : MemoryOnly a b) (k : MemoryOnly b c) : MemoryOnly a c := by
  obtain ⟨h1, h2, h3⟩ := h
  obtain ⟨k1, k2, k3⟩ := k
  refine ⟨?_, k2 ∘ h2, k3 ∘ h3⟩
  rw [k1]
  conv_lhs => rw [h1]

/-- What each turn of a fold keeps, the fold keeps. -/
theorem foldl_keeps {α β : Type} (R : State → State → Prop) (refl : ∀ s, R s s) (trans : ∀ a b c, R a b → R b c → R a c)
    (f : State × β → α → State × β) (step : ∀ st x, R st.1 (f st x).1) (l : List α) (st : State × β) :
    R st.1 (l.foldl f st).1 := by
  induction l generalizing st with
  | nil => exact refl _
  | cons x l ih => exact trans _ _ _ (step st x) (ih (f st x))

theorem foldl_keeps_state {α : Type} (R : State → State → Prop) (refl : ∀ s, R s s) (trans : ∀ a b c, R a b → R b c → R a c)
    (f : State → α → State) (step : ∀ s x, R s (f s x)) (l : List α) (s : State) : R s (l.foldl f s) := by
  induction l generalizing s with
  | nil => exact refl _
  | cons x l ih => exact trans _ _ _ (step s x) (ih (f s x))

/-- A write within one page. -/
theorem State.writeAt_memoryOnly (s : State) (a : Nat) (bs : List Byte) : MemoryOnly s (s.writeAt a bs) := by
  unfold State.writeAt
  split
  · exact .refl s
  · dsimp only
    split
    · exact ⟨rfl, id, mputs_wf _ _ _⟩
    · split
      · exact ⟨rfl, fun h => mputs_wf _ _ _ (mclear_wf _ _ _ h), id⟩
      · exact ⟨rfl, mputs_wf _ _ _, id⟩

/-- A write at an easel virtual address. -/
theorem State.writeVa_memoryOnly (s : State) (e va : Nat) (bs : List Byte) : MemoryOnly s (s.writeVa e va bs) := by
  refine foldl_keeps MemoryOnly .refl (fun _ _ _ => .trans) _ (fun st p => ?_) _ (s, bs)
  dsimp only
  split
  · exact State.writeAt_memoryOnly _ _ _
  · exact .refl _

/-- A write into a trace sink. -/
theorem State.sinkWrite_memoryOnly (s : State) (k : Nat × Nat × Nat × Nat) (o : Nat) (bs : List Byte) :
    MemoryOnly s (s.sinkWrite k o bs) := by
  refine foldl_keeps MemoryOnly .refl (fun _ _ _ => .trans) _ (fun st p => ?_) _ (s, bs)
  dsimp only
  split
  · exact State.writeAt_memoryOnly _ _ _
  · exact .refl _

/-- Words marked as poison: the memories stand. -/
theorem State.setPoison_memoryOnly (s : State) (a n : Nat) : MemoryOnly s (s.setPoison a n) := ⟨rfl, id, id⟩

/-- A write at an address of a space. -/
theorem State.writeSpace_memoryOnly (s : State) (e space a : Nat) (bs : List Byte) : MemoryOnly s (s.writeSpace e space a bs) := by
  refine foldl_keeps MemoryOnly .refl (fun _ _ _ => .trans) _ (fun st p => ?_) _ (s, bs)
  dsimp only
  split
  · exact State.writeAt_memoryOnly _ _ _
  · exact .refl _

/-- Lines of a space marked as poison. -/
theorem State.poisonSpace_memoryOnly (s : State) (e space a n : Nat) : MemoryOnly s (s.poisonSpace e space a n) := by
  refine foldl_keeps_state MemoryOnly .refl (fun _ _ _ => .trans) _ (fun st p => ?_) _ s
  split
  · exact State.setPoison_memoryOnly _ _ _
  · exact .refl _

/-- A range wiped (R56). -/
theorem State.wipe_memoryOnly (s : State) (a n : Nat) : MemoryOnly s (s.wipe a n) := ⟨rfl, mclear_wf _ _ _, id⟩

/-- Pages cleared. -/
theorem State.clearPages_memoryOnly (s : State) (base first count : Nat) : MemoryOnly s (s.clearPages base first count) :=
  ⟨rfl, mclear_wf _ _ _, id⟩

end Sys2Proof.Machine
end

