-- ==== Sys2Proof/Laws/Records.lean ====
section
/-! SUPPORT. What raising a record, putting an easel in FAULTED and answering a dictionary request leave alone. -/

namespace Sys2Proof.Machine

/-- An easel may have had records and interrupts; nothing else of it has changed. -/
def EaselRecords (x y : Easel) : Prop :=
  y = { x with events := y.events, queues := y.queues, held := y.held, lost := y.lost, dropped := y.dropped, msix := y.msix }

theorem EaselRecords.refl (x : Easel) : EaselRecords x x := rfl

theorem EaselRecords.trans {a b c : Easel} (h : EaselRecords a b) (k : EaselRecords b c) : EaselRecords a c := by
  unfold EaselRecords at *
  rw [k]
  conv_lhs => rw [h]

/-- What records may change (R8 to R13, R32): rings and sinks in memory, the records and interrupts of easels, the trace units and their
requests at the arbiters, the copies at the Curator, and what the device sends. -/
def RecordsOnly (s s' : State) : Prop :=
  (s' = { s with
    mem := s'.mem
    flash := s'.flash
    poison := s'.poison
    tags := s'.tags
    tiers := { s.tiers with written := s'.tiers.written }
    easels := s'.easels
    obs := { s.obs with trace := s'.obs.trace }
    streams := { s.streams with asks := s'.streams.asks, nextXfer := s'.streams.nextXfer }
    dict := { s.dict with intake := s'.dict.intake, missed := s'.dict.missed }
    out := s'.out }) ∧
  (∀ e, EaselRecords (s.easel e) (s'.easel e)) ∧
  (Memory.wf s.mem = true → Memory.wf s'.mem = true) ∧ (Memory.wf s.flash = true → Memory.wf s'.flash = true)

theorem RecordsOnly.refl (s : State) : RecordsOnly s s := ⟨rfl, fun _ => .refl _, id, id⟩

theorem RecordsOnly.trans {a b c : State} (h : RecordsOnly a b) (k : RecordsOnly b c) : RecordsOnly a c := by
  obtain ⟨h1, h2, h3, h4⟩ := h
  obtain ⟨k1, k2, k3, k4⟩ := k
  refine ⟨?_, fun e => (h2 e).trans (k2 e), k3 ∘ h3, k4 ∘ h4⟩
  rw [k1]
  conv_lhs => rw [h1]

theorem MemoryOnly.records {s s' : State} (h : MemoryOnly s s') : RecordsOnly s s' := by
  obtain ⟨h1, h2, h3⟩ := h
  refine ⟨?_, fun e => ?_, h2, h3⟩
  · conv_lhs => rw [h1]
    rw [h1]
  · rw [h1]; exact .refl _

/-- Records and interrupts of one easel. -/
theorem State.setEasel_records (s : State) (e : Nat) (x : Easel) (h : EaselRecords (s.easel e) x) : RecordsOnly s (s.setEasel e x) := by
  refine ⟨rfl, fun f => ?_, id, id⟩
  unfold State.easel State.setEasel at *
  dsimp only
  rw [tget_tset]
  split
  · next hf => subst hf; exact h
  · exact .refl _

theorem State.onEasel_records (s : State) (e : Nat) (f : Easel → Easel) (h : ∀ x, EaselRecords x (f x)) : RecordsOnly s (s.onEasel e f) :=
  s.setEasel_records e _ (h _)

theorem State.emit_records (s : State) (o : Out) : RecordsOnly s (s.emit o) := ⟨rfl, fun _ => .refl _, id, id⟩

theorem State.setTrace_records (s : State) (d : Nat) (u : TraceUnit) : RecordsOnly s (s.setTrace d u) := ⟨rfl, fun _ => .refl _, id, id⟩

theorem Easel.setQueue_records (x : Easel) (q : Nat) (u : Queue) : EaselRecords x (x.setQueue q u) := by
  unfold Easel.setQueue
  split <;> rfl

theorem Easel.hold_records (x : Easel) (v : Event) : EaselRecords x (x.hold v) := by
  unfold Easel.hold
  dsimp only
  split
  · rfl
  · split
    · rfl
    · split <;> rfl

theorem State.copyIn_records (s : State) (v : Event) : RecordsOnly s (s.copyIn v) := by
  refine ⟨?_, fun _ => .refl _, id, id⟩
  unfold State.copyIn Dict.accept
  split <;> rfl

theorem State.fireVector_records (s : State) (e q : Nat) : RecordsOnly s (s.fireVector e q) := by
  unfold State.fireVector
  dsimp only
  split
  · exact .refl s
  · split
    · exact s.setEasel_records e _ (Easel.setQueue_records _ _ _)
    · split
      · exact (s.setEasel_records e _ (Easel.setQueue_records _ _ _)).trans (State.emit_records _ _)
      · exact s.setEasel_records e _ rfl

theorem State.putRecord_records (s : State) (e : Nat) (v : Event) : RecordsOnly s (s.putRecord e v) := by
  unfold State.putRecord
  dsimp only
  refine RecordsOnly.trans ?_ (State.fireVector_records _ _ _)
  refine RecordsOnly.trans ?_ (State.onEasel_records _ _ _ fun _ => rfl)
  split
  · exact (s.writeVa_memoryOnly _ _ _).records
  · exact s.emit_records _

theorem flushHeld_records (e : Nat) (l : List Event) (s : State) : RecordsOnly s (flushHeld s e l) := by
  induction l generalizing s with
  | nil => exact s.onEasel_records e _ fun _ => rfl
  | cons v l ih =>
    unfold flushHeld
    split
    · exact (s.putRecord_records e v).trans (ih _)
    · exact s.onEasel_records e _ fun _ => rfl

theorem State.flush_records (s : State) (e : Nat) : RecordsOnly s (s.flush e) := by
  unfold State.flush
  dsimp only
  split
  · refine RecordsOnly.trans ?_ (flushHeld_records _ _ _)
    split
    · exact .refl s
    · exact (s.setEasel_records e { s.easel e with dropped := 0 } rfl).trans (State.putRecord_records _ _ _)
  · exact .refl s

/-- A record delivered to an event queue. -/
theorem State.deliver_records (s : State) (e : Nat) (v : Event) : RecordsOnly s (s.deliver e v) := by
  unfold State.deliver
  dsimp only
  split
  · exact s.putRecord_records e v
  · exact (s.setEasel_records e _ (Easel.hold_records _ _)).trans (State.flush_records _ _)

theorem State.post_records (s : State) (v : Event) : RecordsOnly s (s.post v) :=
  (s.deliver_records _ v).trans (State.copyIn_records _ _)

theorem State.ask_records (s : State) (w : Asker) (slack : Nat) (arbs : List Arb) : RecordsOnly s (s.ask w slack arbs) :=
  ⟨rfl, fun _ => .refl _, id, id⟩

theorem State.traceAsk_records (s : State) (d : Nat) : RecordsOnly s (s.traceAsk d) := by
  unfold State.traceAsk
  dsimp only
  split
  · exact .refl s
  · exact s.ask_records _ _ _

theorem State.traceStore_records (s : State) (d e : Nat) (bs : List Byte) : RecordsOnly s (s.traceStore d e bs).1 := by
  unfold State.traceStore
  dsimp only
  split
  · exact .refl s
  split
  · exact s.setTrace_records _ _
  · split
    · exact s.setTrace_records _ _
    · exact (s.setTrace_records _ _).trans (State.traceAsk_records _ _)

theorem State.traceTake_records (s : State) (d e code seq : Nat) : RecordsOnly s (s.traceTake d e code seq).1 := by
  unfold State.traceTake
  dsimp only
  split
  · exact (s.setTrace_records _ _).trans (State.traceStore_records _ _ _ _)
  · exact .refl s

/-- A record shown to the trace units, with the records that they raise. -/
theorem raiseChain_records (n : Nat) (v : Event) (s : State) : RecordsOnly s (raiseChain n v s) := by
  induction n generalizing v s with
  | zero => exact s.post_records v
  | succ n ih =>
    unfold raiseChain
    dsimp only
    split
    · refine (s.post_records v).trans (foldl_keeps_state RecordsOnly .refl (fun _ _ _ => .trans) _ (fun t d => ?_) _ _)
      exact (t.traceTake_records _ _ _ _).trans
        (foldl_keeps_state RecordsOnly .refl (fun _ _ _ => .trans) _ (fun u w => ih w u) _ _)
    · exact s.post_records v

/-- A record raised, under every name of the operation. -/
theorem State.raise_records (s : State) (v : Event) : RecordsOnly s (s.raise v) := raiseChain_records _ v s

theorem State.report_records (s : State) (code e cls unit a b : Nat) : RecordsOnly s (s.report code e cls unit a b) :=
  s.raise_records _

theorem State.reportSeq_records (s : State) (code e cls unit seq a b : Nat) : RecordsOnly s (s.reportSeq code e cls unit seq a b) :=
  s.raise_records _

theorem State.reportDevice_records (s : State) (code cls unit a b : Nat) : RecordsOnly s (s.reportDevice code cls unit a b) :=
  s.raise_records _

/-! ### FAULTED (R86) -/

/-- Bytes left undefined (R117, R141, R367): the memories and what is marked of them, and the count of free choices. -/
def UndefinedOnly (s s' : State) : Prop :=
  s' = { s with
    mem := s'.mem
    flash := s'.flash
    poison := s'.poison
    tags := s'.tags
    tiers := { s.tiers with written := s'.tiers.written }
    choices := s'.choices } ∧
  (Memory.wf s.mem = true → Memory.wf s'.mem = true) ∧ (Memory.wf s.flash = true → Memory.wf s'.flash = true)

theorem UndefinedOnly.refl (s : State) : UndefinedOnly s s := ⟨rfl, id, id⟩

theorem UndefinedOnly.trans {a b c : State} (h : UndefinedOnly a b) (k : UndefinedOnly b c) : UndefinedOnly a c := by
  obtain ⟨h1, h2, h3⟩ := h
  obtain ⟨k1, k2, k3⟩ := k
  refine ⟨?_, k2 ∘ h2, k3 ∘ h3⟩
  rw [k1]
  conv_lhs => rw [h1]

theorem UndefinedOnly.easels {s s' : State} (h : UndefinedOnly s s') : s'.easels = s.easels := by rw [h.1]

theorem MemoryOnly.undefined {s s' : State} (h : MemoryOnly s s') : UndefinedOnly s s' := by
  obtain ⟨h1, h2, h3⟩ := h
  refine ⟨?_, h2, h3⟩
  conv_lhs => rw [h1]
  conv_rhs => rw [h1]

theorem State.undefine_only (s : State) (a n : Nat) : UndefinedOnly s (s.undefine a n) := by
  unfold State.undefine
  split
  · exact .refl s
  · dsimp only
    split
    · exact ⟨rfl, mputs_wf _ _ _, id⟩
    · exact UndefinedOnly.trans (b := { s with choices := s.choices + n + 1 }) ⟨rfl, id, id⟩ (State.writeAt_memoryOnly _ _ _).undefined

theorem State.undefineVa_only (s : State) (e a n : Nat) : UndefinedOnly s (s.undefineVa e a n) := by
  refine foldl_keeps_state UndefinedOnly .refl (fun _ _ _ => .trans) _ (fun s p => ?_) _ s
  split
  · exact s.undefine_only _ _
  · exact .refl s

theorem State.undefineForming_only (s : State) (e : Nat) : UndefinedOnly s (s.undefineForming e) :=
  foldl_keeps_state UndefinedOnly .refl (fun _ _ _ => .trans) _ (fun s _ =>
    foldl_keeps_state UndefinedOnly .refl (fun _ _ _ => .trans) _ (fun s _ => s.undefine_only _ _) _ s) _ s

theorem State.undefineUpdate_only (s : State) (e : Nat) : UndefinedOnly s (s.undefineUpdate e) := by
  unfold State.undefineUpdate
  split
  · exact foldl_keeps_state UndefinedOnly .refl (fun _ _ _ => .trans) _ (fun s _ => s.undefineVa_only _ _ _) _ s
  · exact .refl s

/-- What may change where an easel stops, itself apart: memory left undefined, tiles, waits, streams, packets, intakes. The
dictionary, the host link, counters, the trust state, power and the binding table stand. -/
def StopOnly (s s' : State) : Prop :=
  s' = { s with
    mem := s'.mem
    flash := s'.flash
    poison := s'.poison
    tags := s'.tags
    tiers := { s.tiers with written := s'.tiers.written, flashStage := s'.tiers.flashStage, flashBad := s'.tiers.flashBad }
    choices := s'.choices
    easels := s'.easels
    tiles := s'.tiles
    sems := s'.sems
    net := s'.net
    streams := s'.streams
    fabric := s'.fabric
    primer := s'.primer } ∧
  (Memory.wf s.mem = true → Memory.wf s'.mem = true) ∧ (Memory.wf s.flash = true → Memory.wf s'.flash = true)

theorem StopOnly.trans {a b c : State} (h : StopOnly a b) (k : StopOnly b c) : StopOnly a c := by
  obtain ⟨h1, h2, h3⟩ := h
  obtain ⟨k1, k2, k3⟩ := k
  refine ⟨?_, k2 ∘ h2, k3 ∘ h3⟩
  rw [k1]
  conv_lhs => rw [h1]

theorem UndefinedOnly.stop {s s' : State} (h : UndefinedOnly s s') : StopOnly s s' := by
  obtain ⟨h1, h2, h3⟩ := h
  refine ⟨?_, h2, h3⟩
  conv_lhs => rw [h1]
  conv_rhs => rw [h1]

theorem State.stopEasel_frame (s : State) (e : Nat) : StopOnly s (s.stopEasel e) := by
  have h := (s.undefineUpdate_only e).stop
  unfold State.stopEasel
  generalize s.undefineUpdate e = u at h ⊢
  exact h.trans ⟨rfl, id, id⟩

theorem UndefinedOnly.easel {s s' : State} (h : UndefinedOnly s s') (f : Nat) : s'.easel f = s.easel f := by
  unfold State.easel
  rw [h.easels]

theorem State.stopEasel_other (s : State) (e f : Nat) (h : f ≠ e) : (s.stopEasel e).easel f = s.easel f := by
  have k := (s.undefineUpdate_only e).easel f
  unfold State.stopEasel
  generalize s.undefineUpdate e = u at k ⊢
  exact (tget_tset_ne _ _ _ _ _ h).trans k

/-- A fault moves a working easel to FAULTED and no other one. -/
theorem State.fault_mode (s : State) (e : Nat) (h : s.works e = true) : ((s.fault e).easel e).mode = .faulted := by
  unfold State.fault
  rw [if_pos h]
  exact congrArg Easel.mode (tget_tset_self _ _ _ _)

theorem State.fault_other (s : State) (e f : Nat) (h : f ≠ e) : (s.fault e).easel f = s.easel f := by
  unfold State.fault
  split
  · have k := (s.undefineForming_only e).easel f
    have m := State.stopEasel_other (s.undefineForming e) e f h
    dsimp only
    generalize State.stopEasel _ e = v at m ⊢
    exact (tget_tset_ne _ _ _ _ _ h).trans (m.trans k)
  · rfl

/-- What a fault leaves alone. -/
theorem State.fault_frame (s : State) (e : Nat) : StopOnly s (s.fault e) := by
  unfold State.fault
  split
  · have k := (s.undefineForming_only e).stop.trans (State.stopEasel_frame _ e)
    dsimp only
    generalize State.stopEasel _ e = v at k ⊢
    exact k.trans ⟨rfl, id, id⟩
  · exact ⟨rfl, id, id⟩

/-! ### Dictionary requests (R419, R420) -/

/-- An answer changes the dictionary's records and what the device sends; the entries' values stand. -/
theorem State.answer_frame (s : State) (m : Msg) (r : Reply) :
    s.answer m r = { s with dict := (s.answer m r).dict, out := (s.answer m r).out } ∧ (s.answer m r).dict.values = s.dict.values := by
  unfold State.answer
  dsimp only
  split <;> exact ⟨rfl, rfl⟩

/-- A CMD write whose action is accepted is answered, and then the action takes place. -/
theorem State.command_accepted {s s' : State} {m : Msg} {check : State → Nat → Nat} {fail go : State → Nat → State}
    (h : (s.serve m fun s role => (plainReply (s.commandStatus m role check), s)) = (s', some 0)) :
    s.command m check fail go = go s' (mValue m) := by
  unfold State.command
  rw [h]
  rfl

/-- A CMD write that is discarded, or answered from memory, starts nothing. -/
theorem State.command_idle {s s' : State} {m : Msg} {check : State → Nat → Nat} {fail go : State → Nat → State}
    (h : (s.serve m fun s role => (plainReply (s.commandStatus m role check), s)) = (s', none)) :
    s.command m check fail go = s' := by
  unfold State.command
  rw [h]

/-- A CMD write that is refused starts nothing. -/
theorem State.command_refused {s s' : State} {m : Msg} {check : State → Nat → Nat} {fail go : State → Nat → State} {st : Nat} (hst : st ≠ 0)
    (h : (s.serve m fun s role => (plainReply (s.commandStatus m role check), s)) = (s', some st)) :
    s.command m check fail go = fail s' st := by
  unfold State.command
  rw [h]
  split
  · next h' => cases h'; exact absurd rfl hst
  · next h' => cases h'; rfl
  · next h' => cases h'

end Sys2Proof.Machine
end

