-- ==== Sys2Proof/Laws/State.lean ====
section
/-! SUPPORT. What the named updates of the state change, field by field, and what the lookups read after them. -/

namespace Sys2Proof.Machine

/-! ### Fields that an update leaves alone -/

@[simp] theorem State.setEasel_pending (s : State) (e : Nat) (x : Easel) : (s.setEasel e x).pending = s.pending := rfl
@[simp] theorem State.setEasel_power (s : State) (e : Nat) (x : Easel) : (s.setEasel e x).power = s.power := rfl
@[simp] theorem State.setEasel_trust (s : State) (e : Nat) (x : Easel) : (s.setEasel e x).trust = s.trust := rfl
@[simp] theorem State.setEasel_dict (s : State) (e : Nat) (x : Easel) : (s.setEasel e x).dict = s.dict := rfl
@[simp] theorem State.setEasel_bind (s : State) (e : Nat) (x : Easel) : (s.setEasel e x).bind = s.bind := rfl
@[simp] theorem State.setEasel_tiles (s : State) (e : Nat) (x : Easel) : (s.setEasel e x).tiles = s.tiles := rfl
@[simp] theorem State.setEasel_mem (s : State) (e : Nat) (x : Easel) : (s.setEasel e x).mem = s.mem := rfl
@[simp] theorem State.setEasel_flash (s : State) (e : Nat) (x : Easel) : (s.setEasel e x).flash = s.flash := rfl
@[simp] theorem State.setEasel_poison (s : State) (e : Nat) (x : Easel) : (s.setEasel e x).poison = s.poison := rfl
@[simp] theorem State.setEasel_tiers (s : State) (e : Nat) (x : Easel) : (s.setEasel e x).tiers = s.tiers := rfl
@[simp] theorem State.setEasel_sems (s : State) (e : Nat) (x : Easel) : (s.setEasel e x).sems = s.sems := rfl
@[simp] theorem State.setEasel_counters (s : State) (e : Nat) (x : Easel) : (s.setEasel e x).counters = s.counters := rfl
@[simp] theorem State.setEasel_net (s : State) (e : Nat) (x : Easel) : (s.setEasel e x).net = s.net := rfl
@[simp] theorem State.setEasel_streams (s : State) (e : Nat) (x : Easel) : (s.setEasel e x).streams = s.streams := rfl
@[simp] theorem State.setEasel_host (s : State) (e : Nat) (x : Easel) : (s.setEasel e x).host = s.host := rfl
@[simp] theorem State.setEasel_fabric (s : State) (e : Nat) (x : Easel) : (s.setEasel e x).fabric = s.fabric := rfl
@[simp] theorem State.setEasel_primer (s : State) (e : Nat) (x : Easel) : (s.setEasel e x).primer = s.primer := rfl
@[simp] theorem State.setEasel_obs (s : State) (e : Nat) (x : Easel) : (s.setEasel e x).obs = s.obs := rfl
@[simp] theorem State.setEasel_out (s : State) (e : Nat) (x : Easel) : (s.setEasel e x).out = s.out := rfl
@[simp] theorem State.setEasel_choices (s : State) (e : Nat) (x : Easel) : (s.setEasel e x).choices = s.choices := rfl

@[simp] theorem State.onEasel_pending (s : State) (e : Nat) (f : Easel → Easel) : (s.onEasel e f).pending = s.pending := rfl
@[simp] theorem State.onEasel_power (s : State) (e : Nat) (f : Easel → Easel) : (s.onEasel e f).power = s.power := rfl
@[simp] theorem State.onEasel_trust (s : State) (e : Nat) (f : Easel → Easel) : (s.onEasel e f).trust = s.trust := rfl
@[simp] theorem State.onEasel_dict (s : State) (e : Nat) (f : Easel → Easel) : (s.onEasel e f).dict = s.dict := rfl
@[simp] theorem State.onEasel_bind (s : State) (e : Nat) (f : Easel → Easel) : (s.onEasel e f).bind = s.bind := rfl
@[simp] theorem State.onEasel_tiles (s : State) (e : Nat) (f : Easel → Easel) : (s.onEasel e f).tiles = s.tiles := rfl
@[simp] theorem State.onEasel_mem (s : State) (e : Nat) (f : Easel → Easel) : (s.onEasel e f).mem = s.mem := rfl
@[simp] theorem State.onEasel_flash (s : State) (e : Nat) (f : Easel → Easel) : (s.onEasel e f).flash = s.flash := rfl
@[simp] theorem State.onEasel_poison (s : State) (e : Nat) (f : Easel → Easel) : (s.onEasel e f).poison = s.poison := rfl
@[simp] theorem State.onEasel_tiers (s : State) (e : Nat) (f : Easel → Easel) : (s.onEasel e f).tiers = s.tiers := rfl
@[simp] theorem State.onEasel_sems (s : State) (e : Nat) (f : Easel → Easel) : (s.onEasel e f).sems = s.sems := rfl
@[simp] theorem State.onEasel_counters (s : State) (e : Nat) (f : Easel → Easel) : (s.onEasel e f).counters = s.counters := rfl
@[simp] theorem State.onEasel_net (s : State) (e : Nat) (f : Easel → Easel) : (s.onEasel e f).net = s.net := rfl
@[simp] theorem State.onEasel_streams (s : State) (e : Nat) (f : Easel → Easel) : (s.onEasel e f).streams = s.streams := rfl
@[simp] theorem State.onEasel_host (s : State) (e : Nat) (f : Easel → Easel) : (s.onEasel e f).host = s.host := rfl
@[simp] theorem State.onEasel_fabric (s : State) (e : Nat) (f : Easel → Easel) : (s.onEasel e f).fabric = s.fabric := rfl
@[simp] theorem State.onEasel_primer (s : State) (e : Nat) (f : Easel → Easel) : (s.onEasel e f).primer = s.primer := rfl
@[simp] theorem State.onEasel_obs (s : State) (e : Nat) (f : Easel → Easel) : (s.onEasel e f).obs = s.obs := rfl
@[simp] theorem State.onEasel_out (s : State) (e : Nat) (f : Easel → Easel) : (s.onEasel e f).out = s.out := rfl
@[simp] theorem State.onEasel_choices (s : State) (e : Nat) (f : Easel → Easel) : (s.onEasel e f).choices = s.choices := rfl

@[simp] theorem State.setTile_pending (s : State) (t : Nat) (x : Tile) : (s.setTile t x).pending = s.pending := rfl
@[simp] theorem State.setTile_power (s : State) (t : Nat) (x : Tile) : (s.setTile t x).power = s.power := rfl
@[simp] theorem State.setTile_trust (s : State) (t : Nat) (x : Tile) : (s.setTile t x).trust = s.trust := rfl
@[simp] theorem State.setTile_dict (s : State) (t : Nat) (x : Tile) : (s.setTile t x).dict = s.dict := rfl
@[simp] theorem State.setTile_bind (s : State) (t : Nat) (x : Tile) : (s.setTile t x).bind = s.bind := rfl
@[simp] theorem State.setTile_easels (s : State) (t : Nat) (x : Tile) : (s.setTile t x).easels = s.easels := rfl
@[simp] theorem State.setTile_mem (s : State) (t : Nat) (x : Tile) : (s.setTile t x).mem = s.mem := rfl
@[simp] theorem State.setTile_flash (s : State) (t : Nat) (x : Tile) : (s.setTile t x).flash = s.flash := rfl
@[simp] theorem State.setTile_poison (s : State) (t : Nat) (x : Tile) : (s.setTile t x).poison = s.poison := rfl
@[simp] theorem State.setTile_tiers (s : State) (t : Nat) (x : Tile) : (s.setTile t x).tiers = s.tiers := rfl
@[simp] theorem State.setTile_sems (s : State) (t : Nat) (x : Tile) : (s.setTile t x).sems = s.sems := rfl
@[simp] theorem State.setTile_counters (s : State) (t : Nat) (x : Tile) : (s.setTile t x).counters = s.counters := rfl
@[simp] theorem State.setTile_net (s : State) (t : Nat) (x : Tile) : (s.setTile t x).net = s.net := rfl
@[simp] theorem State.setTile_streams (s : State) (t : Nat) (x : Tile) : (s.setTile t x).streams = s.streams := rfl
@[simp] theorem State.setTile_host (s : State) (t : Nat) (x : Tile) : (s.setTile t x).host = s.host := rfl
@[simp] theorem State.setTile_fabric (s : State) (t : Nat) (x : Tile) : (s.setTile t x).fabric = s.fabric := rfl
@[simp] theorem State.setTile_primer (s : State) (t : Nat) (x : Tile) : (s.setTile t x).primer = s.primer := rfl
@[simp] theorem State.setTile_obs (s : State) (t : Nat) (x : Tile) : (s.setTile t x).obs = s.obs := rfl
@[simp] theorem State.setTile_out (s : State) (t : Nat) (x : Tile) : (s.setTile t x).out = s.out := rfl
@[simp] theorem State.setTile_choices (s : State) (t : Nat) (x : Tile) : (s.setTile t x).choices = s.choices := rfl

@[simp] theorem State.onTile_pending (s : State) (t : Nat) (f : Tile → Tile) : (s.onTile t f).pending = s.pending := rfl
@[simp] theorem State.onTile_power (s : State) (t : Nat) (f : Tile → Tile) : (s.onTile t f).power = s.power := rfl
@[simp] theorem State.onTile_trust (s : State) (t : Nat) (f : Tile → Tile) : (s.onTile t f).trust = s.trust := rfl
@[simp] theorem State.onTile_dict (s : State) (t : Nat) (f : Tile → Tile) : (s.onTile t f).dict = s.dict := rfl
@[simp] theorem State.onTile_bind (s : State) (t : Nat) (f : Tile → Tile) : (s.onTile t f).bind = s.bind := rfl
@[simp] theorem State.onTile_easels (s : State) (t : Nat) (f : Tile → Tile) : (s.onTile t f).easels = s.easels := rfl
@[simp] theorem State.onTile_mem (s : State) (t : Nat) (f : Tile → Tile) : (s.onTile t f).mem = s.mem := rfl
@[simp] theorem State.onTile_flash (s : State) (t : Nat) (f : Tile → Tile) : (s.onTile t f).flash = s.flash := rfl
@[simp] theorem State.onTile_poison (s : State) (t : Nat) (f : Tile → Tile) : (s.onTile t f).poison = s.poison := rfl
@[simp] theorem State.onTile_tiers (s : State) (t : Nat) (f : Tile → Tile) : (s.onTile t f).tiers = s.tiers := rfl
@[simp] theorem State.onTile_sems (s : State) (t : Nat) (f : Tile → Tile) : (s.onTile t f).sems = s.sems := rfl
@[simp] theorem State.onTile_counters (s : State) (t : Nat) (f : Tile → Tile) : (s.onTile t f).counters = s.counters := rfl
@[simp] theorem State.onTile_net (s : State) (t : Nat) (f : Tile → Tile) : (s.onTile t f).net = s.net := rfl
@[simp] theorem State.onTile_streams (s : State) (t : Nat) (f : Tile → Tile) : (s.onTile t f).streams = s.streams := rfl
@[simp] theorem State.onTile_host (s : State) (t : Nat) (f : Tile → Tile) : (s.onTile t f).host = s.host := rfl
@[simp] theorem State.onTile_fabric (s : State) (t : Nat) (f : Tile → Tile) : (s.onTile t f).fabric = s.fabric := rfl
@[simp] theorem State.onTile_primer (s : State) (t : Nat) (f : Tile → Tile) : (s.onTile t f).primer = s.primer := rfl
@[simp] theorem State.onTile_obs (s : State) (t : Nat) (f : Tile → Tile) : (s.onTile t f).obs = s.obs := rfl
@[simp] theorem State.onTile_out (s : State) (t : Nat) (f : Tile → Tile) : (s.onTile t f).out = s.out := rfl
@[simp] theorem State.onTile_choices (s : State) (t : Nat) (f : Tile → Tile) : (s.onTile t f).choices = s.choices := rfl

@[simp] theorem State.emit_pending (s : State) (o : Out) : (s.emit o).pending = s.pending := rfl
@[simp] theorem State.emit_power (s : State) (o : Out) : (s.emit o).power = s.power := rfl
@[simp] theorem State.emit_trust (s : State) (o : Out) : (s.emit o).trust = s.trust := rfl
@[simp] theorem State.emit_dict (s : State) (o : Out) : (s.emit o).dict = s.dict := rfl
@[simp] theorem State.emit_bind (s : State) (o : Out) : (s.emit o).bind = s.bind := rfl
@[simp] theorem State.emit_easels (s : State) (o : Out) : (s.emit o).easels = s.easels := rfl
@[simp] theorem State.emit_tiles (s : State) (o : Out) : (s.emit o).tiles = s.tiles := rfl
@[simp] theorem State.emit_mem (s : State) (o : Out) : (s.emit o).mem = s.mem := rfl
@[simp] theorem State.emit_flash (s : State) (o : Out) : (s.emit o).flash = s.flash := rfl
@[simp] theorem State.emit_poison (s : State) (o : Out) : (s.emit o).poison = s.poison := rfl
@[simp] theorem State.emit_tiers (s : State) (o : Out) : (s.emit o).tiers = s.tiers := rfl
@[simp] theorem State.emit_sems (s : State) (o : Out) : (s.emit o).sems = s.sems := rfl
@[simp] theorem State.emit_counters (s : State) (o : Out) : (s.emit o).counters = s.counters := rfl
@[simp] theorem State.emit_net (s : State) (o : Out) : (s.emit o).net = s.net := rfl
@[simp] theorem State.emit_streams (s : State) (o : Out) : (s.emit o).streams = s.streams := rfl
@[simp] theorem State.emit_host (s : State) (o : Out) : (s.emit o).host = s.host := rfl
@[simp] theorem State.emit_fabric (s : State) (o : Out) : (s.emit o).fabric = s.fabric := rfl
@[simp] theorem State.emit_primer (s : State) (o : Out) : (s.emit o).primer = s.primer := rfl
@[simp] theorem State.emit_obs (s : State) (o : Out) : (s.emit o).obs = s.obs := rfl
@[simp] theorem State.emit_choices (s : State) (o : Out) : (s.emit o).choices = s.choices := rfl

@[simp] theorem State.setSem_pending (s : State) (k : Nat) (m : Sem) : (s.setSem k m).pending = s.pending := rfl
@[simp] theorem State.setSem_power (s : State) (k : Nat) (m : Sem) : (s.setSem k m).power = s.power := rfl
@[simp] theorem State.setSem_trust (s : State) (k : Nat) (m : Sem) : (s.setSem k m).trust = s.trust := rfl
@[simp] theorem State.setSem_dict (s : State) (k : Nat) (m : Sem) : (s.setSem k m).dict = s.dict := rfl
@[simp] theorem State.setSem_bind (s : State) (k : Nat) (m : Sem) : (s.setSem k m).bind = s.bind := rfl
@[simp] theorem State.setSem_easels (s : State) (k : Nat) (m : Sem) : (s.setSem k m).easels = s.easels := rfl
@[simp] theorem State.setSem_tiles (s : State) (k : Nat) (m : Sem) : (s.setSem k m).tiles = s.tiles := rfl
@[simp] theorem State.setSem_mem (s : State) (k : Nat) (m : Sem) : (s.setSem k m).mem = s.mem := rfl
@[simp] theorem State.setSem_flash (s : State) (k : Nat) (m : Sem) : (s.setSem k m).flash = s.flash := rfl
@[simp] theorem State.setSem_poison (s : State) (k : Nat) (m : Sem) : (s.setSem k m).poison = s.poison := rfl
@[simp] theorem State.setSem_tiers (s : State) (k : Nat) (m : Sem) : (s.setSem k m).tiers = s.tiers := rfl
@[simp] theorem State.setSem_counters (s : State) (k : Nat) (m : Sem) : (s.setSem k m).counters = s.counters := rfl
@[simp] theorem State.setSem_net (s : State) (k : Nat) (m : Sem) : (s.setSem k m).net = s.net := rfl
@[simp] theorem State.setSem_streams (s : State) (k : Nat) (m : Sem) : (s.setSem k m).streams = s.streams := rfl
@[simp] theorem State.setSem_host (s : State) (k : Nat) (m : Sem) : (s.setSem k m).host = s.host := rfl
@[simp] theorem State.setSem_fabric (s : State) (k : Nat) (m : Sem) : (s.setSem k m).fabric = s.fabric := rfl
@[simp] theorem State.setSem_primer (s : State) (k : Nat) (m : Sem) : (s.setSem k m).primer = s.primer := rfl
@[simp] theorem State.setSem_obs (s : State) (k : Nat) (m : Sem) : (s.setSem k m).obs = s.obs := rfl
@[simp] theorem State.setSem_out (s : State) (k : Nat) (m : Sem) : (s.setSem k m).out = s.out := rfl
@[simp] theorem State.setSem_choices (s : State) (k : Nat) (m : Sem) : (s.setSem k m).choices = s.choices := rfl

@[simp] theorem State.setTrace_pending (s : State) (d : Nat) (u : TraceUnit) : (s.setTrace d u).pending = s.pending := rfl
@[simp] theorem State.setTrace_power (s : State) (d : Nat) (u : TraceUnit) : (s.setTrace d u).power = s.power := rfl
@[simp] theorem State.setTrace_trust (s : State) (d : Nat) (u : TraceUnit) : (s.setTrace d u).trust = s.trust := rfl
@[simp] theorem State.setTrace_dict (s : State) (d : Nat) (u : TraceUnit) : (s.setTrace d u).dict = s.dict := rfl
@[simp] theorem State.setTrace_bind (s : State) (d : Nat) (u : TraceUnit) : (s.setTrace d u).bind = s.bind := rfl
@[simp] theorem State.setTrace_easels (s : State) (d : Nat) (u : TraceUnit) : (s.setTrace d u).easels = s.easels := rfl
@[simp] theorem State.setTrace_tiles (s : State) (d : Nat) (u : TraceUnit) : (s.setTrace d u).tiles = s.tiles := rfl
@[simp] theorem State.setTrace_mem (s : State) (d : Nat) (u : TraceUnit) : (s.setTrace d u).mem = s.mem := rfl
@[simp] theorem State.setTrace_flash (s : State) (d : Nat) (u : TraceUnit) : (s.setTrace d u).flash = s.flash := rfl
@[simp] theorem State.setTrace_poison (s : State) (d : Nat) (u : TraceUnit) : (s.setTrace d u).poison = s.poison := rfl
@[simp] theorem State.setTrace_tiers (s : State) (d : Nat) (u : TraceUnit) : (s.setTrace d u).tiers = s.tiers := rfl
@[simp] theorem State.setTrace_sems (s : State) (d : Nat) (u : TraceUnit) : (s.setTrace d u).sems = s.sems := rfl
@[simp] theorem State.setTrace_counters (s : State) (d : Nat) (u : TraceUnit) : (s.setTrace d u).counters = s.counters := rfl
@[simp] theorem State.setTrace_net (s : State) (d : Nat) (u : TraceUnit) : (s.setTrace d u).net = s.net := rfl
@[simp] theorem State.setTrace_streams (s : State) (d : Nat) (u : TraceUnit) : (s.setTrace d u).streams = s.streams := rfl
@[simp] theorem State.setTrace_host (s : State) (d : Nat) (u : TraceUnit) : (s.setTrace d u).host = s.host := rfl
@[simp] theorem State.setTrace_fabric (s : State) (d : Nat) (u : TraceUnit) : (s.setTrace d u).fabric = s.fabric := rfl
@[simp] theorem State.setTrace_primer (s : State) (d : Nat) (u : TraceUnit) : (s.setTrace d u).primer = s.primer := rfl
@[simp] theorem State.setTrace_out (s : State) (d : Nat) (u : TraceUnit) : (s.setTrace d u).out = s.out := rfl
@[simp] theorem State.setTrace_choices (s : State) (d : Nat) (u : TraceUnit) : (s.setTrace d u).choices = s.choices := rfl

@[simp] theorem State.setPort_pending (s : State) (p : Nat) (x : Port) : (s.setPort p x).pending = s.pending := rfl
@[simp] theorem State.setPort_power (s : State) (p : Nat) (x : Port) : (s.setPort p x).power = s.power := rfl
@[simp] theorem State.setPort_trust (s : State) (p : Nat) (x : Port) : (s.setPort p x).trust = s.trust := rfl
@[simp] theorem State.setPort_dict (s : State) (p : Nat) (x : Port) : (s.setPort p x).dict = s.dict := rfl
@[simp] theorem State.setPort_bind (s : State) (p : Nat) (x : Port) : (s.setPort p x).bind = s.bind := rfl
@[simp] theorem State.setPort_easels (s : State) (p : Nat) (x : Port) : (s.setPort p x).easels = s.easels := rfl
@[simp] theorem State.setPort_tiles (s : State) (p : Nat) (x : Port) : (s.setPort p x).tiles = s.tiles := rfl
@[simp] theorem State.setPort_mem (s : State) (p : Nat) (x : Port) : (s.setPort p x).mem = s.mem := rfl
@[simp] theorem State.setPort_flash (s : State) (p : Nat) (x : Port) : (s.setPort p x).flash = s.flash := rfl
@[simp] theorem State.setPort_poison (s : State) (p : Nat) (x : Port) : (s.setPort p x).poison = s.poison := rfl
@[simp] theorem State.setPort_tiers (s : State) (p : Nat) (x : Port) : (s.setPort p x).tiers = s.tiers := rfl
@[simp] theorem State.setPort_sems (s : State) (p : Nat) (x : Port) : (s.setPort p x).sems = s.sems := rfl
@[simp] theorem State.setPort_counters (s : State) (p : Nat) (x : Port) : (s.setPort p x).counters = s.counters := rfl
@[simp] theorem State.setPort_net (s : State) (p : Nat) (x : Port) : (s.setPort p x).net = s.net := rfl
@[simp] theorem State.setPort_streams (s : State) (p : Nat) (x : Port) : (s.setPort p x).streams = s.streams := rfl
@[simp] theorem State.setPort_host (s : State) (p : Nat) (x : Port) : (s.setPort p x).host = s.host := rfl
@[simp] theorem State.setPort_primer (s : State) (p : Nat) (x : Port) : (s.setPort p x).primer = s.primer := rfl
@[simp] theorem State.setPort_obs (s : State) (p : Nat) (x : Port) : (s.setPort p x).obs = s.obs := rfl
@[simp] theorem State.setPort_out (s : State) (p : Nat) (x : Port) : (s.setPort p x).out = s.out := rfl
@[simp] theorem State.setPort_choices (s : State) (p : Nat) (x : Port) : (s.setPort p x).choices = s.choices := rfl

@[simp] theorem State.onPort_pending (s : State) (p : Nat) (f : Port → Port) : (s.onPort p f).pending = s.pending := rfl
@[simp] theorem State.onPort_power (s : State) (p : Nat) (f : Port → Port) : (s.onPort p f).power = s.power := rfl
@[simp] theorem State.onPort_trust (s : State) (p : Nat) (f : Port → Port) : (s.onPort p f).trust = s.trust := rfl
@[simp] theorem State.onPort_dict (s : State) (p : Nat) (f : Port → Port) : (s.onPort p f).dict = s.dict := rfl
@[simp] theorem State.onPort_bind (s : State) (p : Nat) (f : Port → Port) : (s.onPort p f).bind = s.bind := rfl
@[simp] theorem State.onPort_easels (s : State) (p : Nat) (f : Port → Port) : (s.onPort p f).easels = s.easels := rfl
@[simp] theorem State.onPort_tiles (s : State) (p : Nat) (f : Port → Port) : (s.onPort p f).tiles = s.tiles := rfl
@[simp] theorem State.onPort_mem (s : State) (p : Nat) (f : Port → Port) : (s.onPort p f).mem = s.mem := rfl
@[simp] theorem State.onPort_flash (s : State) (p : Nat) (f : Port → Port) : (s.onPort p f).flash = s.flash := rfl
@[simp] theorem State.onPort_poison (s : State) (p : Nat) (f : Port → Port) : (s.onPort p f).poison = s.poison := rfl
@[simp] theorem State.onPort_tiers (s : State) (p : Nat) (f : Port → Port) : (s.onPort p f).tiers = s.tiers := rfl
@[simp] theorem State.onPort_sems (s : State) (p : Nat) (f : Port → Port) : (s.onPort p f).sems = s.sems := rfl
@[simp] theorem State.onPort_counters (s : State) (p : Nat) (f : Port → Port) : (s.onPort p f).counters = s.counters := rfl
@[simp] theorem State.onPort_net (s : State) (p : Nat) (f : Port → Port) : (s.onPort p f).net = s.net := rfl
@[simp] theorem State.onPort_streams (s : State) (p : Nat) (f : Port → Port) : (s.onPort p f).streams = s.streams := rfl
@[simp] theorem State.onPort_host (s : State) (p : Nat) (f : Port → Port) : (s.onPort p f).host = s.host := rfl
@[simp] theorem State.onPort_primer (s : State) (p : Nat) (f : Port → Port) : (s.onPort p f).primer = s.primer := rfl
@[simp] theorem State.onPort_obs (s : State) (p : Nat) (f : Port → Port) : (s.onPort p f).obs = s.obs := rfl
@[simp] theorem State.onPort_out (s : State) (p : Nat) (f : Port → Port) : (s.onPort p f).out = s.out := rfl
@[simp] theorem State.onPort_choices (s : State) (p : Nat) (f : Port → Port) : (s.onPort p f).choices = s.choices := rfl

@[simp] theorem State.setIssue_pending (s : State) (y : Issue) : (s.setIssue y).pending = s.pending := rfl
@[simp] theorem State.setIssue_power (s : State) (y : Issue) : (s.setIssue y).power = s.power := rfl
@[simp] theorem State.setIssue_trust (s : State) (y : Issue) : (s.setIssue y).trust = s.trust := rfl
@[simp] theorem State.setIssue_dict (s : State) (y : Issue) : (s.setIssue y).dict = s.dict := rfl
@[simp] theorem State.setIssue_bind (s : State) (y : Issue) : (s.setIssue y).bind = s.bind := rfl
@[simp] theorem State.setIssue_easels (s : State) (y : Issue) : (s.setIssue y).easels = s.easels := rfl
@[simp] theorem State.setIssue_tiles (s : State) (y : Issue) : (s.setIssue y).tiles = s.tiles := rfl
@[simp] theorem State.setIssue_mem (s : State) (y : Issue) : (s.setIssue y).mem = s.mem := rfl
@[simp] theorem State.setIssue_flash (s : State) (y : Issue) : (s.setIssue y).flash = s.flash := rfl
@[simp] theorem State.setIssue_poison (s : State) (y : Issue) : (s.setIssue y).poison = s.poison := rfl
@[simp] theorem State.setIssue_tiers (s : State) (y : Issue) : (s.setIssue y).tiers = s.tiers := rfl
@[simp] theorem State.setIssue_sems (s : State) (y : Issue) : (s.setIssue y).sems = s.sems := rfl
@[simp] theorem State.setIssue_counters (s : State) (y : Issue) : (s.setIssue y).counters = s.counters := rfl
@[simp] theorem State.setIssue_net (s : State) (y : Issue) : (s.setIssue y).net = s.net := rfl
@[simp] theorem State.setIssue_host (s : State) (y : Issue) : (s.setIssue y).host = s.host := rfl
@[simp] theorem State.setIssue_fabric (s : State) (y : Issue) : (s.setIssue y).fabric = s.fabric := rfl
@[simp] theorem State.setIssue_primer (s : State) (y : Issue) : (s.setIssue y).primer = s.primer := rfl
@[simp] theorem State.setIssue_obs (s : State) (y : Issue) : (s.setIssue y).obs = s.obs := rfl
@[simp] theorem State.setIssue_out (s : State) (y : Issue) : (s.setIssue y).out = s.out := rfl
@[simp] theorem State.setIssue_choices (s : State) (y : Issue) : (s.setIssue y).choices = s.choices := rfl

@[simp] theorem State.setIntake_pending (s : State) (x : Intake) : (s.setIntake x).pending = s.pending := rfl
@[simp] theorem State.setIntake_power (s : State) (x : Intake) : (s.setIntake x).power = s.power := rfl
@[simp] theorem State.setIntake_trust (s : State) (x : Intake) : (s.setIntake x).trust = s.trust := rfl
@[simp] theorem State.setIntake_dict (s : State) (x : Intake) : (s.setIntake x).dict = s.dict := rfl
@[simp] theorem State.setIntake_bind (s : State) (x : Intake) : (s.setIntake x).bind = s.bind := rfl
@[simp] theorem State.setIntake_easels (s : State) (x : Intake) : (s.setIntake x).easels = s.easels := rfl
@[simp] theorem State.setIntake_tiles (s : State) (x : Intake) : (s.setIntake x).tiles = s.tiles := rfl
@[simp] theorem State.setIntake_mem (s : State) (x : Intake) : (s.setIntake x).mem = s.mem := rfl
@[simp] theorem State.setIntake_flash (s : State) (x : Intake) : (s.setIntake x).flash = s.flash := rfl
@[simp] theorem State.setIntake_poison (s : State) (x : Intake) : (s.setIntake x).poison = s.poison := rfl
@[simp] theorem State.setIntake_tiers (s : State) (x : Intake) : (s.setIntake x).tiers = s.tiers := rfl
@[simp] theorem State.setIntake_sems (s : State) (x : Intake) : (s.setIntake x).sems = s.sems := rfl
@[simp] theorem State.setIntake_counters (s : State) (x : Intake) : (s.setIntake x).counters = s.counters := rfl
@[simp] theorem State.setIntake_net (s : State) (x : Intake) : (s.setIntake x).net = s.net := rfl
@[simp] theorem State.setIntake_streams (s : State) (x : Intake) : (s.setIntake x).streams = s.streams := rfl
@[simp] theorem State.setIntake_host (s : State) (x : Intake) : (s.setIntake x).host = s.host := rfl
@[simp] theorem State.setIntake_fabric (s : State) (x : Intake) : (s.setIntake x).fabric = s.fabric := rfl
@[simp] theorem State.setIntake_obs (s : State) (x : Intake) : (s.setIntake x).obs = s.obs := rfl
@[simp] theorem State.setIntake_out (s : State) (x : Intake) : (s.setIntake x).out = s.out := rfl
@[simp] theorem State.setIntake_choices (s : State) (x : Intake) : (s.setIntake x).choices = s.choices := rfl

@[simp] theorem State.setPoison_pending (s : State) (a n : Nat) : (s.setPoison a n).pending = s.pending := rfl
@[simp] theorem State.setPoison_power (s : State) (a n : Nat) : (s.setPoison a n).power = s.power := rfl
@[simp] theorem State.setPoison_trust (s : State) (a n : Nat) : (s.setPoison a n).trust = s.trust := rfl
@[simp] theorem State.setPoison_dict (s : State) (a n : Nat) : (s.setPoison a n).dict = s.dict := rfl
@[simp] theorem State.setPoison_bind (s : State) (a n : Nat) : (s.setPoison a n).bind = s.bind := rfl
@[simp] theorem State.setPoison_easels (s : State) (a n : Nat) : (s.setPoison a n).easels = s.easels := rfl
@[simp] theorem State.setPoison_tiles (s : State) (a n : Nat) : (s.setPoison a n).tiles = s.tiles := rfl
@[simp] theorem State.setPoison_mem (s : State) (a n : Nat) : (s.setPoison a n).mem = s.mem := rfl
@[simp] theorem State.setPoison_flash (s : State) (a n : Nat) : (s.setPoison a n).flash = s.flash := rfl
@[simp] theorem State.setPoison_tiers (s : State) (a n : Nat) : (s.setPoison a n).tiers = s.tiers := rfl
@[simp] theorem State.setPoison_sems (s : State) (a n : Nat) : (s.setPoison a n).sems = s.sems := rfl
@[simp] theorem State.setPoison_counters (s : State) (a n : Nat) : (s.setPoison a n).counters = s.counters := rfl
@[simp] theorem State.setPoison_net (s : State) (a n : Nat) : (s.setPoison a n).net = s.net := rfl
@[simp] theorem State.setPoison_streams (s : State) (a n : Nat) : (s.setPoison a n).streams = s.streams := rfl
@[simp] theorem State.setPoison_host (s : State) (a n : Nat) : (s.setPoison a n).host = s.host := rfl
@[simp] theorem State.setPoison_fabric (s : State) (a n : Nat) : (s.setPoison a n).fabric = s.fabric := rfl
@[simp] theorem State.setPoison_primer (s : State) (a n : Nat) : (s.setPoison a n).primer = s.primer := rfl
@[simp] theorem State.setPoison_obs (s : State) (a n : Nat) : (s.setPoison a n).obs = s.obs := rfl
@[simp] theorem State.setPoison_out (s : State) (a n : Nat) : (s.setPoison a n).out = s.out := rfl
@[simp] theorem State.setPoison_choices (s : State) (a n : Nat) : (s.setPoison a n).choices = s.choices := rfl

/-! ### Lookups after an update -/

@[simp] theorem State.setEasel_easel_self (s : State) (e : Nat) (x : Easel) : (s.setEasel e x).easel e = x := by
  simp [State.easel, State.setEasel]
@[simp] theorem State.setEasel_easel_ne (s : State) (e f : Nat) (x : Easel) (h : f ≠ e) : (s.setEasel e x).easel f = s.easel f := by
  simp [State.easel, State.setEasel, h]
@[simp] theorem State.onEasel_easel_self (s : State) (e : Nat) (g : Easel → Easel) : (s.onEasel e g).easel e = g (s.easel e) := by
  simp [State.onEasel]
@[simp] theorem State.onEasel_easel_ne (s : State) (e f : Nat) (g : Easel → Easel) (h : f ≠ e) :
    (s.onEasel e g).easel f = s.easel f := by simp [State.onEasel, h]
@[simp] theorem State.setTile_easel (s : State) (t e : Nat) (x : Tile) : (s.setTile t x).easel e = s.easel e := rfl
@[simp] theorem State.onTile_easel (s : State) (t e : Nat) (g : Tile → Tile) : (s.onTile t g).easel e = s.easel e := rfl
@[simp] theorem State.emit_easel (s : State) (o : Out) (e : Nat) : (s.emit o).easel e = s.easel e := rfl
@[simp] theorem State.setSem_easel (s : State) (k e : Nat) (m : Sem) : (s.setSem k m).easel e = s.easel e := rfl

@[simp] theorem State.setTile_tile_self (s : State) (t : Nat) (x : Tile) : (s.setTile t x).tile t = x := by
  simp [State.tile, State.setTile]
@[simp] theorem State.setTile_tile_ne (s : State) (t u : Nat) (x : Tile) (h : u ≠ t) : (s.setTile t x).tile u = s.tile u := by
  simp [State.tile, State.setTile, h]
@[simp] theorem State.onTile_tile_self (s : State) (t : Nat) (g : Tile → Tile) : (s.onTile t g).tile t = g (s.tile t) := by
  simp [State.onTile]
@[simp] theorem State.onTile_tile_ne (s : State) (t u : Nat) (g : Tile → Tile) (h : u ≠ t) : (s.onTile t g).tile u = s.tile u := by
  simp [State.onTile, h]
@[simp] theorem State.setEasel_tile (s : State) (e t : Nat) (x : Easel) : (s.setEasel e x).tile t = s.tile t := rfl
@[simp] theorem State.onEasel_tile (s : State) (e t : Nat) (g : Easel → Easel) : (s.onEasel e g).tile t = s.tile t := rfl
@[simp] theorem State.emit_tile (s : State) (o : Out) (t : Nat) : (s.emit o).tile t = s.tile t := rfl
@[simp] theorem State.setSem_tile (s : State) (k t : Nat) (m : Sem) : (s.setSem k m).tile t = s.tile t := rfl

@[simp] theorem State.setSem_sem_self (s : State) (k : Nat) (m : Sem) : (s.setSem k m).sem k = m := by
  simp [State.sem, State.setSem]
@[simp] theorem State.setSem_sem_ne (s : State) (k j : Nat) (m : Sem) (h : j ≠ k) : (s.setSem k m).sem j = s.sem j := by
  simp [State.sem, State.setSem, h]
@[simp] theorem State.onTile_sem (s : State) (t k : Nat) (g : Tile → Tile) : (s.onTile t g).sem k = s.sem k := rfl
@[simp] theorem State.onEasel_sem (s : State) (e k : Nat) (g : Easel → Easel) : (s.onEasel e g).sem k = s.sem k := rfl

@[simp] theorem State.setPort_port_self (s : State) (p : Nat) (x : Port) : (s.setPort p x).port p = x := by
  simp [State.port, State.setPort]
@[simp] theorem State.setPort_port_ne (s : State) (p q : Nat) (x : Port) (h : q ≠ p) : (s.setPort p x).port q = s.port q := by
  simp [State.port, State.setPort, h]
@[simp] theorem State.onPort_port_self (s : State) (p : Nat) (g : Port → Port) : (s.onPort p g).port p = g (s.port p) := by
  simp [State.onPort]

/-! ### Registers of a tile (R92) -/

@[simp] theorem Tile.reg_zero (x : Tile) : x.reg 0 = 0 := rfl
@[simp] theorem Tile.setReg_zero (x : Tile) (v : Word64) : x.setReg 0 v = x := rfl
@[simp] theorem Tile.reg_setReg_self (x : Tile) (r : Nat) (v : Word64) (h : r ≠ 0) : (x.setReg r v).reg r = v := by
  simp [Tile.reg, Tile.setReg, h]
@[simp] theorem Tile.reg_setReg_ne (x : Tile) (r q : Nat) (v : Word64) (h : q ≠ r) : (x.setReg r v).reg q = x.reg q := by
  by_cases h0 : r = 0 <;> by_cases h1 : q = 0 <;> simp [Tile.reg, Tile.setReg, h0, h1, h]

/-- A semaphore stored with its complement is sound (R281). -/
@[simp] theorem Sem.store_sound (m : Sem) (v : Word32) : (m.store v).sound = true := by simp [Sem.store, Sem.sound]

end Sys2Proof.Machine
end

