-- ==== Sys2Proof/WellFormed.lean ====
section
/-! DEFINITION. Which commands are well formed: operands that name a unit lie in the range of that unit's numbers (Tables
0-2 and 2-1), and bytes that a format fixes have that format's length. A meaning is defined on every command; one that
names no unit of the device finds nothing there and changes nothing. -/

namespace Sys2Proof

/-- Dense tile numbers (Table 2-1), easel ids, ports and primer lanes (Table 0-2), queues with the event queue (R409). -/
def wfTile (t : Nat) : Bool := decide (t < 1344)
def wfEasel (e : Nat) : Bool := decide (e < 64)
def wfPort (p : Nat) : Bool := decide (p < 64)
def wfLane (l : Nat) : Bool := decide (l < 64)
def wfQueue (q : Nat) : Bool := decide (q ≤ 32)
def wfChannel (v : Nat) : Bool := decide (v < 16)
def wfDie (d : Nat) : Bool := decide (d < 4)
/-- A flit is 256 bytes (R329). -/
def wfFlit (f : List Byte) : Bool := f.length == 256
/-- A fence key: a position of 20 bits, a data channel and a tag of 16 bits (R286). -/
def wfFence (position channel tag : Nat) : Bool := decide (position < 1048576) && wfChannel channel && decide (tag < 65536)

/-- The units an arbiter stands for (R265). -/
def wfArb : Arb → Bool
  | .hbm k => decide (k < 16)
  | .lpddr k => decide (k < 16)
  | .sram d => wfDie d
  | .flash d => wfDie d
  | .bridge a b => decide (a < b) && wfDie b
  | .port p => wfPort p

/-- Device-scope and easel-scope units that publish counters, by unit class (Table 0-5): tiles, stream slices, ports and
the rest. -/
def wfUnit (cls unit : Nat) : Bool := decide (cls < 16) && decide (unit < 65664)

/-- Well-formed commands. -/
def Instr.wf : Instr → Bool
  | .endProg t => wfTile t
  | .loop t => wfTile t
  | .br t => wfTile t
  | .seti t => wfTile t
  | .sethi t => wfTile t
  | .alu t => wfTile t
  | .getslot t => wfTile t
  | .getctx t => wfTile t
  | .mma t => wfTile t
  | .vchain t _ => wfTile t
  | .issue t => wfTile t
  | .await t => wfTile t
  | .mark t => wfTile t
  | .signal t => wfTile t
  | .wait t => wfTile t
  | .waitv t => wfTile t
  | .fadd t => wfTile t
  | .claim t => wfTile t
  | .mmaComplete t _ => wfTile t
  | .vchainComplete t _ => wfTile t
  | .addrEnd _ => true
  | .addrSeti _ => true
  | .getv _ => true
  | .madd _ => true
  | .addi _ => true
  | .addrLoop _ => true
  | .emit _ => true
  | .zero _ => true
  | .streamRun _ _ => true
  | .arbiterGrant a => wfArb a
  | .starvationGuardExpiry _ => true
  | .transferLand _ _ => true
  | .streamIssueComplete _ => true
  | .syncRequestArrival _ => true
  | .tileDone t => wfTile t
  | .commandEnd e => wfEasel e
  | .descriptorTake e entry _ => wfEasel e && (entry.length == 128)
  | .commandDispatch e => wfEasel e
  | .runWork e => wfEasel e
  | .loadCanvas e _ => wfEasel e
  | .canvasLoaded e _ => wfEasel e
  | .sheetSwitch e => wfEasel e
  | .sheetSwitched e => wfEasel e
  | .reweight e => wfEasel e
  | .panelReweighted e _ => wfEasel e
  | .intake e _ => wfEasel e
  | .intakeStart e => wfEasel e
  | .laneRecordTake l _ => wfLane l
  | .sampleSkippedBudget l => wfLane l
  | .sampleDecodeDone l _ => wfLane l
  | .primerOutputDelivery e => wfEasel e
  | .intakeComplete e => wfEasel e
  | .update e => wfEasel e
  | .updateApply e _ => wfEasel e
  | .updateComplete e => wfEasel e
  | .exportImage e => wfEasel e
  | .checkpointWritten e layer => wfEasel e && decide (1 ≤ layer) && decide (layer ≤ 4)
  | .noOperation e => wfEasel e
  | .logEntryWrite e => wfEasel e
  | .verdictWordSend e => wfEasel e
  | .stepVerdict e => wfEasel e
  | .verdictTimeout e => wfEasel e
  | .reductionFire e _ _ => wfEasel e
  | .shardDelivery _ => true
  | .reductionTimeout e _ => wfEasel e
  | .groupMaskSwitch v => wfChannel v
  | .dataFlit p flit _ _ => wfPort p && wfFlit flit
  | .nakFlit p flit _ _ => wfPort p && wfFlit flit
  | .idleFlit p flit _ _ => wfPort p && wfFlit flit
  | .retryLimitReached p _ _ => wfPort p
  | .ackTimeout p _ _ => wfPort p
  | .serWindowEnd p lane _ _ _ => wfPort p && decide (lane < 9)
  | .portBringUp p _ _ => wfPort p
  | .linkParameters _ => true
  | .positionAnnouncement _ => true
  | .fabricWrite _ => true
  | .fabricReadRequest _ => true
  | .fabricResponse _ => true
  | .fabricSignal _ => true
  | .postedSignal _ => true
  | .fencePacketLanded _ => true
  | .remoteSignalOrphan position channel tag => wfFence position channel tag
  | .fenceKeyExpiry position channel tag => wfFence position channel tag
  | .remoteAccessTimeout _ => true
  | .fabricRefclkLost die => wfDie die
  | .fabricRefclkReturn die => wfDie die
  | .read _ => true
  | .write _ => true
  | .list _ => true
  | .blobStagingTimeout _ _ _ => true
  | .transactionMemoryExpiry _ _ => true
  | .faultLineRecord _ => true
  | .bind _ => true
  | .unbind _ => true
  | .forcedUnbind _ => true
  | .move _ => true
  | .forcedMove _ => true
  | .drainComplete => true
  | .drainTimeout => true
  | .clearingComplete _ => true
  | .easelReset _ => true
  | .restoreExecute _ => true
  | .takeoverExecute _ => true
  | .spreadExecute _ _ => true
  | .keyEnrol _ _ => true
  | .keyRevoke _ => true
  | .tileSelftest _ => true
  | .selftestComplete _ => true
  | .sketchBuild _ => true
  | .sketchSecondPublication => true
  | .traceTrigger _ => true
  | .traceArm _ => true
  | .fwCommit _ _ => true
  | .fwConfirm _ => true
  | .configCommit _ _ => true
  | .vbusRestart _ => true
  | .fabricPositionWrite _ => true
  | .getVersion _ => true
  | .getCapabilities _ => true
  | .negotiateAlgorithms _ => true
  | .getDigests _ => true
  | .getCertificate _ => true
  | .challenge _ => true
  | .getMeasurements _ => true
  | .keyExchange _ _ _ => true
  | .finish _ _ => true
  | .keyUpdate _ => true
  | .heartbeat _ => true
  | .endSession _ => true
  | .neighborDiscovery target => (target.length == 16)
  | .i3cDynamicAddress address => decide (address < 128)
  | .doorbell f q _ => wfEasel f && wfQueue q
  | .eventDoorbell f _ => wfEasel f
  | .queueEnable f q _ => wfEasel f && wfQueue q
  | .queueDisable f q _ => wfEasel f && wfQueue q
  | .registerWrite f _ size _ => wfEasel f && decide (size ≤ 8)
  | .bar2Read f _ _ _ => wfEasel f
  | .bar2Write f _ _ => wfEasel f
  | .msixHoldoffExpiry f q => wfEasel f && wfQueue q
  | .configRequest f _ => wfEasel f
  | .flrVf e => wfEasel e
  | .flrPf => true
  | .vfDisable numVfs => decide (numVfs < 64)
  | .hotReset => true
  | .perstAssert => true
  | .perstDeassert => true
  | .pcieLinkDown => true
  | .d3hotEntry f => wfEasel f
  | .d0Return f => wfEasel f
  | .vauxPowerOn _ => true
  | .vbusStartup => true
  | .refclkArrival _ _ _ => true
  | .vbusLow _ => true
  | .vbusHigh _ => true
  | .vbusCollapse _ => true
  | .vauxOutOfRange _ => true
  | .vioOutOfRange _ => true
  | .powerStageFailed stage => decide (stage < 96)
  | .powerStageFailedOutOfRating stage => decide (stage < 96)
  | .limitNotMet _ => true
  | .pcieRefclkLost _ => true
  | .vbusCauseCleared => true
  | .powerLoopTick _ => true
  | .thermalTrip die _ => decide (die < 12)
  | .mreset _ => true
  | .mgtClkLost => true
  | .curatorRestart _ _ => true
  | .tileFailure t _ => wfTile t
  | .spareTileFailure t => wfTile t
  | .tileRetire t _ => wfTile t
  | .flashReadOnly die => wfDie die
  | .patrolRead _ _ _ => true
  | .pcSample t => wfTile t
  | .counterPublication cls unit => wfUnit cls unit
  | .deviceCounterPublication cls unit => wfUnit cls unit
  | .pcieLinkUp _ _ => true
  | .vioPresent _ => true
  | .mgtClkReturn => true

end Sys2Proof
end

