-- ==== Sys2Proof/Tests/Slice0.lean ====
section
/-! SUPPORT. Tests: the well-formedness checks with a term that each refuses, words written out from the encoding tables, worked
examples of the manual, and for every statement with hypotheses a state and operands that meet them, clause by clause. -/

namespace Sys2Proof.Tests
set_option Elab.async false
open Sys2Proof Sys2Proof.Machine

/-! ### Well-formed commands -/

theorem test_wf_tile : Instr.wf (.seti 1343) = true ∧ Instr.wf (.seti 1344) = false := by decide
theorem test_wf_easel : Instr.wf (.runWork 63) = true ∧ Instr.wf (.runWork 64) = false := by decide
theorem test_wf_port : Instr.wf (.ackTimeout 63 true []) = true ∧ Instr.wf (.ackTimeout 64 true []) = false := by decide
theorem test_wf_lane : Instr.wf (.sampleDecodeDone 63 []) = true ∧ Instr.wf (.sampleDecodeDone 64 []) = false := by decide
theorem test_wf_queue : Instr.wf (.doorbell 0 32 1) = true ∧ Instr.wf (.doorbell 0 33 1) = false := by decide
theorem test_wf_channel : Instr.wf (.groupMaskSwitch 15) = true ∧ Instr.wf (.groupMaskSwitch 16) = false := by decide
theorem test_wf_die : Instr.wf (.flashReadOnly 3) = true ∧ Instr.wf (.flashReadOnly 4) = false := by decide
theorem test_wf_flit :
    Instr.wf (.idleFlit 0 (List.replicate 256 0) true []) = true ∧ Instr.wf (.idleFlit 0 (List.replicate 255 0) true []) = false := by
  decide +kernel
theorem test_wf_fence :
    Instr.wf (.fenceKeyExpiry 1048575 15 65535) = true ∧ Instr.wf (.fenceKeyExpiry 1048576 15 65535) = false ∧
    Instr.wf (.fenceKeyExpiry 0 16 0) = false ∧ Instr.wf (.fenceKeyExpiry 0 0 65536) = false := by decide
theorem test_wf_arbiter :
    Instr.wf (.arbiterGrant (.hbm 15)) = true ∧ Instr.wf (.arbiterGrant (.hbm 16)) = false ∧ Instr.wf (.arbiterGrant (.lpddr 16)) = false ∧
    Instr.wf (.arbiterGrant (.sram 4)) = false ∧ Instr.wf (.arbiterGrant (.flash 4)) = false ∧
    Instr.wf (.arbiterGrant (.bridge 1 1)) = false ∧ Instr.wf (.arbiterGrant (.bridge 0 4)) = false ∧
    Instr.wf (.arbiterGrant (.bridge 0 3)) = true ∧ Instr.wf (.arbiterGrant (.port 64)) = false := by decide
theorem test_wf_unit :
    Instr.wf (.counterPublication 15 65663) = true ∧ Instr.wf (.counterPublication 16 0) = false ∧
    Instr.wf (.counterPublication 4 65664) = false := by decide
theorem test_wf_descriptor :
    Instr.wf (.descriptorTake 0 (List.replicate 128 0) true) = true ∧ Instr.wf (.descriptorTake 0 (List.replicate 127 0) true) = false := by
  decide +kernel
theorem test_wf_layer :
    Instr.wf (.checkpointWritten 0 4) = true ∧ Instr.wf (.checkpointWritten 0 0) = false ∧ Instr.wf (.checkpointWritten 0 5) = false := by decide
theorem test_wf_spare_lane : Instr.wf (.serWindowEnd 0 8 0 true []) = true ∧ Instr.wf (.serWindowEnd 0 9 0 true []) = false := by decide
theorem test_wf_addresses :
    Instr.wf (.neighborDiscovery (List.replicate 16 0)) = true ∧ Instr.wf (.neighborDiscovery []) = false ∧
    Instr.wf (.i3cDynamicAddress 127) = true ∧ Instr.wf (.i3cDynamicAddress 128) = false := by decide
theorem test_wf_register : Instr.wf (.registerWrite 0 0 8 0) = true ∧ Instr.wf (.registerWrite 0 0 9 0) = false := by decide
theorem test_wf_functions : Instr.wf (.vfDisable 63) = true ∧ Instr.wf (.vfDisable 64) = false := by decide
theorem test_wf_stage : Instr.wf (.powerStageFailed 95) = true ∧ Instr.wf (.powerStageFailed 96) = false := by decide
theorem test_wf_sensor : Instr.wf (.thermalTrip 11 120) = true ∧ Instr.wf (.thermalTrip 12 120) = false := by decide

/-! ### A device at work -/

/-- The supplies of a device that runs. -/
def powered : Power :=
  { Power.reset with vaux := true, vbus := true, vio := true, vbusState := 2, refclk := true, calibrated := true }

/-- The link of a device that runs, with two VFs enabled. -/
def attached : HostLink := { HostLink.reset with linkUp := true, generation := 6, width := 16, perst := false, numVfs := 2 }

/-- A canvas of one sheet over one tile: slot 0 (plan 8), formulas 0 and 1 constant 0 and 4096, a buffer of 4,096 B at offset 0,
semaphore 9 of tile 0 with planned maximum 3, work counter 0 with a bitmap of 4 tickets. -/
def sheet : Sheet :=
  { panels := [⟨0, false, 0, 1, 1, 1, 3, 0, 0, 1, 1, 0, 1⟩]
    bufs := [⟨0, false, 0, 65536, 0⟩]
    programs := [(3, [0])]
    streams := []
    sems := [⟨9, 0, 0, 3, 0, 0, 0, 0⟩]
    ctrs := [⟨0, 0, 4, 0⟩]
    reds := [] }

def canvas : Canvas :=
  { id := 7, version := 0x0200, digest := [], slots := [(8, 4)], formulas := [⟨0, 0, []⟩, ⟨4096, 0, []⟩], sheets := [sheet],
    tilesRequired := 1, tileMap := [0] }

/-- An easel at work on `c`, with the slot vector `[5]`. -/
def working (c : Canvas) : Easel := { Easel.reset with mode := .bound, canvas := some c, slots := [5] }

/-- A device that runs, with tile 0, two pages of HBM3E and queue 0 bound to easel 0, which works on `c`. -/
def device (c : Canvas) : State :=
  { State.reset with
    power := powered
    dict := { Dict.reset with running := true }
    host := attached
    bind := { Binding.reset with table := [⟨1, 0, 1, 0, 0⟩, ⟨2, 0, 2, 0, 0⟩, ⟨8, 0, 1, 0, 0⟩] }
    easels := [(0, working c)] }

/-- Tile 0 of that device running the words of `ws`, with its registers `regs`. -/
def running (ws : List Word64) (regs : Tab Word64) : State :=
  (device canvas).setTile 0 { Tile.reset with program := ws, running := true, regs }

/-- The instruction that tile `t` issues next: with some context `k`, `s.fetch t = some (k, o)`. -/
def op (s : State) (t : Nat) : Option TileOp := (s.fetch t).map fun p => p.2

/-- What `f` finds in that context. -/
def inCtx {α : Type} (s : State) (t : Nat) (f : TileCtx → α) : Option α := (s.fetch t).map fun p => f p.1

theorem op_spec {s : State} {t : Nat} {o : TileOp} (h : op s t = some o) : ∃ k, s.fetch t = some (k, o) := by
  unfold op at h
  cases hf : s.fetch t with
  | none => simp [hf] at h
  | some p => rw [hf] at h; exact ⟨p.1, by cases h; rfl⟩

/-! ### The block, words, memory and formats -/

theorem witness_StepRunsFront : State.reset.pending = [] ∧ ({ State.reset with pending := [.perstAssert] } : State).pending = [.perstAssert] ∧
    (device canvas).pending = [] ∧ (device canvas).dict.running = true ∧ (device canvas).dict.waiting = [] ∧
    ({ (device canvas).dict with waiting := [.perstAssert] } : Dict).waiting = [.perstAssert] := by
  decide +kernel

theorem witness_Invariants :
    MemoriesCanonical (device canvas) ∧ MemoriesCanonical ((device canvas).writeAt 0 [1]) ∧
    ((device canvas).writeAt 0 [1]).mem = [(0, 1)] ∧ (∀ p ∈ ((device canvas).setSem 9 Sem.reset).sems, p.2.sound = true) := by
  refine ⟨⟨?_, ?_⟩, ⟨?_, ?_⟩, ?_, ?_⟩ <;> decide +kernel

theorem witness_StageWords :
    (TileOp.issue 1023 15 15 255 15 1 1 1023).wf = true ∧ (TileOp.seti 16 0).wf = false ∧ (TileOp.seti 15 (2 ^ 48)).wf = false ∧
    (TileOp.alu 0 0 0 0 1).wf = false ∧ decodeStage 0x0148860000000E00 = some (.alu 2 2 1 1 7) ∧ decodeStage (2 ^ 63) = none := by decide +kernel

theorem witness_AddressWords :
    (AddrOp.loop 7 30).wf = true ∧ (AddrOp.loop 7 31).wf = false ∧ (AddrOp.addi 7 7 (2 ^ 48 - 1)).wf = true ∧
    (AddrOp.getv 7 (3 * 2 ^ 29)).wf = false := by decide +kernel

theorem witness_MemoryStores :
    MemoriesCanonical ((device canvas).writeAt 2097150 [7, 8]) ∧ 2097150 % pageBytes + [7, (8 : Byte)].length ≤ pageBytes := by
  refine ⟨⟨?_, ?_⟩, ?_⟩ <;> decide +kernel

theorem witness_UnwrittenPageReadsZero :
    isDram (2 * lpddrBase - 1) = true ∧ isDram (2 * lpddrBase) = false ∧ (2 * lpddrBase - 1) / pageBytes ∉ (device canvas).tiers.written ∧
    0 / pageBytes ∈ ((device canvas).writeAt 0 [1]).tiers.written := by decide +kernel

theorem witness_Poison :
    (8 : Nat) < 15 + 1 ∧ ((device canvas).setPoison 8 1).poisoned 15 1 = true ∧ 8 % 8 = 0 ∧
    [0, 0, 0, 0, 0, 0, 0, (0 : Byte)].length % 8 = 0 ∧ 0 + 8 ≤ 8 / 8 * 8 ∧ flashBase ≤ flashBase + 65535 ∧
    ((device canvas).setPoison (flashBase + 65535) 1).poisoned flashBase 1 = true ∧ 0 + [(1 : Byte)].length < 0 / 8 * 8 + 8 ∧
    (((device canvas).setPoison 0 8).writeAt 0 [1]).poisoned 7 1 = true := by decide +kernel

theorem witness_TranslationFollowsBinding :
    (⟨2, 0, 2, 0, 0⟩ : Extent) ∈ (device canvas).bind.table ∧ 4194303 < 2 ^ 48 ∧ 4194303 / pageBytes < 0 + 2 ∧
    (∀ y ∈ (device canvas).bind.table, y.easel = 0 → (y.cls = 2 ∨ y.cls = 3) → y.place ≤ 4194303 / pageBytes →
      4194303 / pageBytes < y.place + y.count → y = ⟨2, 0, 2, 0, 0⟩) ∧
    (∀ y ∈ (device canvas).bind.table, y.easel = 0 → (y.cls = 2 ∨ y.cls = 3) → ¬(y.place ≤ 4194304 / pageBytes ∧
      4194304 / pageBytes < y.place + y.count)) := by decide +kernel

theorem witness_FormatsRoundTrip :
    (fmtOf 3).map (fun f => (f.ebits, f.mbits, decide (f.decode 0x7F = .nan), decide (f.decode 0x7E = .nan))) = some (4, 3, true, false) := by
  decide +kernel

/-- Table 6-1: E4M3 0x7E is 448, E5M2 0x7B is 57,344, BF16 0x3F80 and FP16 0x3C00 are 1. -/
theorem test_format_codes :
    (fmtOf 3).map (fun f => (f.encode .infinity (.fin false 448 0)).1) = some 0x7E ∧ (fmtOf 4).map (fun f => (f.encode .infinity (.fin false 57344 0)).1) = some 0x7B ∧
    (fmtOf 1).map (fun f => (f.encode .infinity (.fin false 1 0)).1) = some 0x3F80 ∧ (fmtOf 2).map (fun f => (f.encode .infinity (.fin false 1 0)).1) = some 0x3C00 := by
  decide +kernel

/-- A tie goes to the even significand: 2^8 + 1 in BF16 (8 significand bits) is 2^8, 2^8 + 3 is 2^8 + 4. -/
theorem witness_RoundsToNearestEven :
    (fmtOf 1).map (fun f => (f.round 257 0, f.round 259 0, f.round 1 0)) = some ((128, 1), (130, 1), (128, -7)) := by decide +kernel

/-! ### Tile instructions -/

theorem witness_ScalarInstructions :
    op (running [0x00C4000000000400] []) 0 = some (.seti 1 1024) ∧ op (running [0x010400000000FFFF] []) 0 = some (.sethi 1 0xFFFF) ∧
    op (running [0x0184000000000000] []) 0 = some (.getslot 1 0) ∧ op (running [0x01C4500000000000] []) 0 = some (.getctx 1 5) := by
  decide +kernel

theorem witness_AluFunctions :
    op (running [0x0148C60000000A00] [(3, 7)]) 0 = some (.alu 2 3 1 1 5) ∧
    op (running [0x0148CC0000000000] [(3, 7)]) 0 = some (.alu 2 3 3 0 0) := by decide +kernel

/-- The tile of `running` within loop 2 to 2 of 3, at its word 2, at iteration `i`. -/
def looping (i : Nat) : Tile :=
  { Tile.reset with program := [0, 0, 0x00C4000000000400, 0], pc := 2, running := true, loops := [⟨2, 2, 3, i, 4⟩] }

theorem witness_Advances :
    (∀ f ∈ ((running [0x00C4000000000400] []).tile 0).loops, ((running [] []).tile 0).pc ≠ f.last) ∧
    op ((running [] []).setTile 0 (looping 1)) 0 = some (.seti 1 1024) ∧ (looping 1).pc = 2 ∧ 1 + 1 < 3 ∧
    op ((running [] []).setTile 0 (looping 2)) 0 = some (.seti 1 1024) ∧ 3 ≤ 2 + 1 := by decide +kernel

theorem witness_LoopsAndBranches :
    op (running [0x0000000000000000] []) 0 = some .fin ∧
    op (running [0x0051001000000028, 0, 0, 0] []) 0 = some (.loop 1 1 2 5) ∧ 0 < 5 ∧
    op (running [0x0041001000000008, 0, 0, 0] []) 0 = some (.loop 0 1 2 1) ∧
    ((running [] []).tile 0).reg 1 = 0 ∧ ((running [] []).tile 0).loops = [] ∧
    op (running [0x0088C00000008003] [(2, 5)]) 0 = some (.br 2 1 2 4 3) ∧
    op (running [0x0088A00000008003] [(2, 4)]) 0 = some (.br 2 1 1 4 3) ∧
    ((running [] [(2, 4)]).tile 0).reg 2 = (BitVec.ofNat 32 4).signExtend 64 ∧
    ((running [] [(2, 5)]).tile 0).reg 2 ≠ (BitVec.ofNat 32 4).signExtend 64 := by decide +kernel

/-- Tile 0 after its `end`, with `q` in its array queue and `ys` among the issues. -/
def ended (q : List MmaOp) (ys : List Issue) : State :=
  let s := (device canvas).setTile 0 { Tile.reset with program := [0], pc := 1, running := true, ended := true, arrayQ := q }
  { s with streams := { s.streams with issues := ys } }

def anOp : MmaOp :=
  { order := 0, pc := 0, word := 0, a := 0, b := 4096, c := 8192, units := ([], []), m := 1, n := 1, k := 1, fa := 0, fb := 0, fc := 0,
    seed := false, partialOut := true, scale := 0, overlap := false }

def anIssue : Issue :=
  { id := 0, easel := 0, tile := 0, order := 0, seq := 0, stream := 3, p := 0, q := 0, useLocal := false, buf := 0, off := 0, signal := none,
    units := ([], []), block := 0, apc := 0, regs := [], loops := [], inBlock := false, runs := [], emitted := 0, parts := [], begun := false, gates := 0, gated := false, consumed := false,
    finished := false }

theorem witness_TileIsDone :
    ((ended [] []).tile 0).running = true ∧ ((ended [] []).tile 0).ended = true ∧ ((ended [] []).tile 0).arrayQ = [] ∧
    ((ended [] []).tile 0).vecQ = [] ∧ (ended [] []).streams.issues = [] ∧ ((ended [anOp] []).tile 0).arrayQ ≠ [] ∧
    (∃ y ∈ (ended [] [anIssue]).streams.issues, y.tile = 0) := by decide +kernel

/-! ### Signals, semaphores and work counters -/

theorem witness_SyncAtIssue :
    op (running [0x4000026000000020] []) 0 = some (.signal 9 1 1) ∧
    op (running [0x4000024000000000] []) 0 = some (.signal 9 0 0) ∧ operandOf ((running [] []).tile 0) 0 0 = 0 ∧
    op (running [0x4040026000000060] []) 0 = some (.wait 9 1 3) ∧ op (running [0x4040026000000000] []) 0 = some (.wait 9 1 0) ∧
    op (running [0x4080026000000060] []) 0 = some (.waitv 9 1 3) ∧ op (running [0x4080026000000000] []) 0 = some (.waitv 9 1 0) ∧
    inCtx (running [0x4040026000000060] []) 0 (fun k => (k.x.semDecl 9).map (·.max)) = some (some 3) := by decide +kernel

theorem witness_CountersAndClaims :
    op (running [0x40C4000200000002] []) 0 = some (.fadd 1 0 1 1) ∧ ((running [] []).counter 0).value + 1 ≤ 0xFFFFFFFF ∧
    op (running [0x4104000040000000] [(2, 3)]) 0 = some (.claim 1 0 2) ∧ (((running [] [(2, 3)]).tile 0).reg 2).toNat = 3 ∧
    inCtx (running [0x4104000040000000] []) 0 (fun k => (k.x.ctrDecl 0).map (·.bitmap)) = some (some 4) ∧ 3 < 4 ∧
    3 ∉ ((running [] []).counter 0).claimed ∧
    op { running [0x4104000040000000] [(2, 3)] with counters := [(0, ⟨0, [3]⟩)] } 0 = some (.claim 1 0 2) := by decide +kernel

/-- A device with requests `net` on their way, and `m` as semaphore 9 of easel 0. -/
def waiting (net : List SyncReq) (m : Sem) : State :=
  let s := { device canvas with net }
  s.setSem (((s.easel 0).semDecl 9).bind (s.easel 0).semKey |>.getD 0) m

def aSem (n : Nat) : Sem := { count := BitVec.ofNat 32 n, comp := ~~~ BitVec.ofNat 32 n, max := 3, queue := [], values := [] }

def aReq (kind : SyncKind) (n : Nat) : SyncReq :=
  { kind, easel := 0, sem := 9, n, who := .tile 0, after := 0, unitClass := 4, unitId := 0 }

/-- The key of semaphore 9 where its easel declares it. -/
def key9 (s : State) : Option Nat := ((s.easel 0).semDecl 9).bind (s.easel 0).semKey

theorem witness_RequestAtHome :
    (waiting [aReq .signal 3] (aSem 0)).arrivable 0 (aReq .signal 3) = true ∧ key9 (waiting [aReq .signal 3] (aSem 0)) = some 9 ∧
    ((waiting [aReq .signal 3] (aSem 0)).sem 9).sound = true ∧ ((waiting [] (aSem 0)).sem 9).count.toNat + 3 ≤ ((waiting [] (aSem 0)).sem 9).max ∧
    ((waiting [] (aSem 0)).sem 9).queue = [] ∧ ((waiting [] (aSem 0)).sem 9).values = [] ∧
    (waiting [aReq .wait 3] (aSem 3)).arrivable 0 (aReq .wait 3) = true ∧ 3 ≤ ((waiting [] (aSem 3)).sem 9).count.toNat ∧
    (waiting [aReq .wait 3] (aSem 2)).arrivable 0 (aReq .wait 3) = true ∧ ((waiting [] (aSem 2)).sem 9).count.toNat < 3 ∧
    (waiting [aReq .waitv 3] (aSem 3)).arrivable 0 (aReq .waitv 3) = true ∧
    (waiting [aReq .waitv 3] (aSem 2)).arrivable 0 (aReq .waitv 3) = true := by decide +kernel

/-- The example of R279: the signals of 1 and 2 and whom they release. -/
def exampleSem : Sem := { count := 0, comp := ~~~ 0, max := 8, queue := [⟨.tile 12, 2⟩, ⟨.tile 40, 1⟩], values := [⟨.tile 7, 3⟩] }

theorem test_grant_example :
    (exampleSem.signal 1).2 = [] ∧ ((exampleSem.signal 1).1.signal 2).2 = [⟨.tile 7, 3⟩, ⟨.tile 12, 2⟩, ⟨.tile 40, 1⟩] ∧
    ((exampleSem.signal 1).1.signal 2).1.count = 0 := by decide +kernel

theorem witness_GrantOrder :
    exampleSem.count.toNat + 3 < 2 ^ 32 ∧ (aSem (2 ^ 32 - 2)).count.toNat + 1 < 2 ^ 32 ∧
    (exampleSem.queue.drop 1 = [⟨.tile 40, 1⟩] ∧ exampleSem.count = 0) ∧
    (waiting [aReq .wait 3] (aSem 3)).net[0]? = some (aReq .wait 3) := by decide +kernel

theorem witness_SyncFaults :
    op (running [0x4040026000000080] []) 0 = some (.wait 9 1 4) ∧ 3 < operandOf ((running [] []).tile 0) 1 4 ∧
    op (running [0x4080026000000080] []) 0 = some (.waitv 9 1 4) ∧
    op (running [0x4104000040000000] [(2, 4)]) 0 = some (.claim 1 0 2) ∧ 4 ≤ (((running [] [(2, 4)]).tile 0).reg 2).toNat ∧
    (waiting [aReq .signal 4] (aSem 0)).arrivable 0 (aReq .signal 4) = true ∧ ((waiting [] (aSem 0)).easel 0).mode = .bound ∧
    ((waiting [] (aSem 0)).sem 9).max < 0 + 4 ∧
    ((waiting [aReq .signal 1] { aSem 0 with comp := 0 }).sem 9).sound = false := by decide +kernel

theorem witness_FaultStopsEasel :
    ((device canvas).easel 0).mode = .bound ∧ (((device canvas).onEasel 0 fun x => { x with mode := .draining }).easel 0).mode = .draining ∧
    (device canvas).ownerOf 1 0 = some 0 ∧ (device canvas).works 0 = true ∧ ((device canvas).easel 0).update = none ∧
    (∀ t ∈ (device canvas).units 0 1, (device canvas).forming 0 t = []) := by decide +kernel

/-! ### The matrix array and the vector engine: the example at the end of chapter 4, with the chain of Table 8-8 -/

/-- The buffer plan of Table 4-19 over one tile. -/
def exampleCanvas : Canvas :=
  { canvas with sheets := [{ sheet with
      panels := [⟨0, false, 0, 1, 1, 1, 3, 0, 0, 1, 1, 0, 5⟩]
      bufs := [⟨0, true, 0, 262144, 0⟩, ⟨1, true, 262144, 262144, 0⟩, ⟨2, false, 524288, 262144, 0⟩, ⟨3, false, 786432, 32768, 0⟩,
               ⟨4, false, 819200, 512, 0⟩] }] }

/-- The shape word of M, N and K over E4M3 operands and a BF16 output, as words 4 to 8 of the example form it. -/
def shapeWord (m n k : Nat) : Word64 := BitVec.ofNat 64 (0x0998 * 2 ^ 48 + k * 2 ^ 26 + n * 2 ^ 13 + m)

/-- Tile 0 of the example at the words `ws`, with s3 and s6, and `q` in its array queue. -/
def exampleTile (ws : List Word64) (s3 s6 : Word64) (q : List MmaOp) : State :=
  (device exampleCanvas).setTile 0 { Tile.reset with program := ws, running := true, regs := [(3, s3), (6, s6)], arrayQ := q }

/-- Word 16 of the example, whose encoding the manual gives, and words 10, 17 and 18. -/
def word16 : Word64 := 0x10001805_8080C300

theorem test_word16 : decodeStage word16.toNat = some (.mma 0 6 1 6 2 0 3 0 1 1) := by decide +kernel

/-- What the checks of R105 give word 16. -/
def checked (s : State) : Option (Option MmaCheck) :=
  inCtx s 0 fun k => (k.mmaArgs (s.tile 0) 0 6 1 6 2 0).map fun g =>
    checkMma g k.panel.overlap ((s.tile 0).reg 3).toNat ((s.tile 0).reg 0).toInt 1 1 (s.tile 0).order (s.tile 0).pc (s.tile 0).word

def exampleOp (m n k : Nat) : MmaOp :=
  { order := 0, pc := 0, word := word16, a := 131072, b := 393216, c := 524288, units := ([1, 3, 4], [4]), m, n, k, fa := 3, fb := 3, fc := 1,
    seed := true, partialOut := true, scale := 0, overlap := false }

theorem witness_MmaAtIssue :
    op (exampleTile [word16] (shapeWord 128 128 1024) 131072 []) 0 = some (.mma 0 6 1 6 2 0 3 0 1 1) ∧
    checked (exampleTile [word16] (shapeWord 128 128 1024) 131072 []) = some (some (.good (exampleOp 128 128 1024))) ∧
    checked (exampleTile [word16] (shapeWord 0 128 1024) 131072 []) = some (some (.good (exampleOp 0 128 1024))) ∧
    checked (exampleTile [word16] (shapeWord 4097 1 1) 131072 []) = some (some (.operand 1)) ∧
    checked (exampleTile [word16] (shapeWord 1 1 1) 131073 []) = some (some (.operand 3)) ∧
    checked (exampleTile [word16] (shapeWord 129 1 1024) 131072 []) = some (some (.overflow 131072 0)) ∧
    (exampleTile [word16] (shapeWord 128 128 1024) 131072 []).arrayFull 0 = false ∧
    op (exampleTile [word16] 0 0 [anOp, anOp, anOp, anOp, anOp]) 0 = some (.mma 0 6 1 6 2 0 3 0 1 1) ∧
    (exampleTile [word16] 0 0 [anOp, anOp, anOp, anOp, anOp]).arrayFull 0 = true ∧
    (exampleTile [word16] 0 0 [anOp, anOp, anOp, anOp]).arrayFull 0 = false := by decide +kernel

/-- The example with `a` and `b` as its first elements of A and B and zero as its seed, its `mma` of M = N = 1 in the array queue. -/
def multiplying (k : Nat) (a b : List Byte) : State :=
  ((exampleTile [word16] 0 0 [exampleOp 1 1 k]).writeAt (storeBase 0 + 131072) a).writeAt (storeBase 0 + 393216) b

theorem witness_MmaProduct :
    ((multiplying 3 [0x7E, 0x01, 0xFE] [0x7E, 0x01, 0x7E]).tile 0).arrayQ = [exampleOp 1 1 3] ∧
    ((multiplying 3 [0x7E, 0x01, 0xFE] [0x7E, 0x01, 0x7E]).tileCtx 0).isSome = true ∧
    (multiplying 3 [0x7E, 0x01, 0xFE] [0x7E, 0x01, 0x7E]).mmaFree 0 (exampleOp 1 1 3) = true ∧
    MemoriesCanonical (multiplying 3 [0x7E, 0x01, 0xFE] [0x7E, 0x01, 0x7E]) ∧
    (exampleOp 1 1 3).c + 1 * 64 ≤ storeSize ∧ overlaps 524288 64 131072 (operandBytes 3 1 3) = false ∧
    overlaps 524288 64 393216 (operandBytes 3 1 3) = false ∧
    ((multiplying 3 [0x7E, 0x01, 0xFE] [0x7E, 0x01, 0x7E]).product 0 (exampleOp 1 1 3)).2 = 0 := by
  refine ⟨?_, ?_, ?_, ⟨?_, ?_⟩, ?_, ?_, ?_, ?_⟩ <;> decide +kernel

/-- The same with an uncorrectable error in the first word of A. -/
theorem witness_MmaPoison :
    (((multiplying 3 [0x7E, 0x01, 0xFE] [0x7E, 0x01, 0x7E]).setPoison (storeBase 0 + 131072) 8).line (storeBase 0 + 131072) 3 1 3 0).bad = true := by
  decide +kernel

/-- What follows an outcome. -/
def after (o : Host.Outcome State Fault Refusal) : State := match o with | .next s => s | _ => State.reset

/-- The example of R152: 448 × 448, then 2^-9 × 2^-9, then -448 × 448 leave 2^-18 in the exact partial, whose bits count 2^-32 each; rounded
to BF16 it is 0x3680. -/
theorem test_exact_partial :
    leNat ((after (exec (.mmaComplete 0 []) (multiplying 3 [0x7E, 0x01, 0xFE] [0x7E, 0x01, 0x7E]))).readAt (storeBase 0 + 524288) 12) = 2 ^ 14 ∧
    (output { exampleOp 1 1 3 with seed := false, partialOut := false }
      ((multiplying 3 [0x7E, 0x01, 0xFE] [0x7E, 0x01, 0x7E]).line (storeBase 0 + 131072) 3 1 3 0)
      ((multiplying 3 [0x7E, 0x01, 0xFE] [0x7E, 0x01, 0x7E]).line (storeBase 0 + 393216) 3 1 3 0) []).bytes = [0x80, 0x36] := by
  decide +kernel

/-- The conversion chain of Table 8-8. -/
def conversion : List Byte :=
  ([1, 2, 0, 0, 192, 0] ++ List.replicate 26 0) ++
  ([2, 0x10, 2, 0] ++ leBytes 4 0 ++ leBytes 4 0x6000034D ++ leBytes 4 0x60000340 ++ List.replicate 16 0 ++ leBytes 4 2048 ++ List.replicate 28 0) ++
  ([3, 1, 2, 0] ++ leBytes 4 0 ++ leBytes 4 0x6000034D ++ leBytes 4 0x60000340 ++ List.replicate 16 0 ++ leBytes 4 256 ++ List.replicate 28 0) ++
  ([0x30, 0, 0xFF, 0xFF, 1, 0, 0, 0] ++ List.replicate 24 0)

/-- Word 17 of the example, with the chain in buffer 4 at 256, a partial of 2^-18 in buffer 2, M = N = 1, and `q` in the vector queue. -/
def converting (q : List VecOp) : State :=
  let s := (device exampleCanvas).setTile 0 { Tile.reset with
    program := [BitVec.ofNat 64 (encodeStage (.vchain 4 9 3))], running := true, regs := [(3, shapeWord 1 1 0), (9, 256)], vecQ := q }
  (s.writeAt (storeBase 0 + 819200 + 256) conversion).writeAt (storeBase 0 + 524288) (leBytes 12 (2 ^ 14))

def aBuf : BufPlan := ⟨4, false, 819200, 512, 0⟩

theorem witness_VchainAtIssue :
    op (converting []) 0 = some (.vchain 4 9 3) ∧ inCtx (converting []) 0 (fun k => k.sheet.buf k.panel 4) = some (some aBuf) ∧
    inCtx (converting []) 0 (fun k => (converting []).vectorFull k.e 0) = some false ∧ (((converting []).tile 0).reg 9).toNat = 256 ∧
    (converting []).hazard 0 ([aBuf.unit 256], []) = false ∧ 256 % 64 = 0 ∧ aBuf.fits 256 32 = true ∧
    at8 ((converting []).readAt (storeBase 0 + (819200 + 256)) 32) 4 2 = 192 ∧ aBuf.fits 256 192 = true ∧
    (converting []).poisoned (storeBase 0 + (819200 + 256)) 192 = false ∧
    bytesAt ((converting []).readAt (storeBase 0 + (819200 + 256)) 192) 0 192 = conversion ∧
    inCtx (converting []) 0 (fun k => match checkChain k conversion (shapeWord 1 1 0).toNat with | .good h _ => h.w = 0 | _ => false) = some true ∧
    (converting []).hazardArray 0 ([8, 4], [6]) = false ∧ (converting []).hazardStream 0 ([8, 4], [6]) = false := by decide +kernel

/-- The chain in the vector queue. -/
def aChain : VecOp :=
  { order := 0, pc := 0, desc := conversion, vals := [0, 1, 1, 0, 0, 0, 0, 0, 0, 1, 1, 0, 0, 0, 0, 0, 0], param := shapeWord 1 1 0, reg := 3,
    ret := false, units := ([8, 4], [6]), verdict := false, outs := [(786432, 2)] }

/-- That chain behind an `mma` which writes the partial it reads. -/
def blocked : State :=
  (converting []).onTile 0 fun x => { x with arrayQ := [exampleOp 1 1 3], vecQ := [{ aChain with order := 1 }] }

def waitsFor (s : State) (o : VecOp) : Option Bool := (s.tileCtx 0).map fun k => s.chainWaits k.e 0 o

theorem witness_VchainDone :
    ((converting [aChain]).tile 0).vecQ = [aChain] ∧ waitsFor (converting [aChain]) aChain = some false ∧
    (blocked.tile 0).vecQ = [{ aChain with order := 1 }] ∧ waitsFor blocked { aChain with order := 1 } = some true := by decide +kernel

/-- Table 8-8 run: the partial 2^-18 becomes the BF16 value 0x3680 in buffer 3. -/
theorem test_conversion_chain :
    (after (exec (.vchainComplete 0 []) (converting [aChain]))).readAt (storeBase 0 + 786432) 2 = [0x80, 0x36] := by decide +kernel

/-! ### Streams -/

def aBlock (kind src dst : Nat) (payload : List Byte) : Block :=
  { kind, src, dst, page := false, type := 3, srcBase := 0, dstBase := 0, srcExt := 1, dstExt := 1, position := 9, channel := 0, lane := 0, payload }

/-- Stream 3 of panel 0 with the blocks `bs`, its local buffer 0. -/
def streamCanvas (bs : List Block) : Canvas :=
  { canvas with sheets := [{ sheet with streams := [{ id := 3, panel := 0, slice := 0, localBytes := 0, rate := 0, localBuf := 0, dbl := false, blocks := bs }] }] }

/-- A device with that stream, tile 0 running `ws`, and the issues `ys` and transfers `xs`. -/
def streaming (bs : List Block) (ws : List Word64) (ys : List Issue) (xs : List Xfer) : State :=
  let s := (device (streamCanvas bs)).setTile 0 { Tile.reset with program := ws, running := true }
  { s with streams := { s.streams with issues := ys, xfers := xs, nextIssue := ys.length } }

/-- A window block of one stripe and one chunk (kind 0x03 with an image window). -/
def theIssue : TileOp := .issue 3 0 0 0 0 1 1 9

theorem witness_IssueAndAwait :
    op (streaming [aBlock 1 1 0 []] [BitVec.ofNat 64 (encodeStage theIssue)] [] []) 0 = some theIssue ∧
    inCtx (streaming [aBlock 1 1 0 []] [BitVec.ofNat 64 (encodeStage theIssue)] [] []) 0
      (fun k => (k.x.stream 3).map fun d => (issueMismatch k d 0 1, d.window)) = some (some (false, none)) ∧
    ((streaming [aBlock 1 1 0 []] [] (List.replicate 15 { anIssue with tile := 1 }) []).issuesOf 0).length < 16 ∧
    (streaming [aBlock 1 1 0 []] [] [] []).hazard 0
      (((streaming [aBlock 1 1 0 []] [] [] []).tileCtx 0).elim ([], []) fun k => (k.x.stream 3).elim ([], []) fun d => k.issueUnits d 0 0 1) = false ∧
    inCtx (streaming [aBlock 3 1 0 [3]] [BitVec.ofNat 64 (encodeStage theIssue)] [] []) 0
      (fun k => (k.x.stream 3).map fun d => d.window) = some (some (some [3])) ∧
    stripeOrder none 1 0 1 0 0 = true ∧ stripeOrder none 1 0 1 1 0 = false ∧
    op (streaming [] [BitVec.ofNat 64 (encodeStage (.await 3 0))] [anIssue] []) 0 = some (.await 3 0) ∧ anIssue.stream = 3 ∧ anIssue.tile = 0 ∧
    op (streaming [] [BitVec.ofNat 64 (encodeStage (.await 4 0))] [anIssue] []) 0 = some (.await 4 0) ∧
    op (streaming [] [BitVec.ofNat 64 (encodeStage (.await 0 1))] [anIssue] []) 0 = some (.await 0 1) := by decide +kernel

/-- Words of an address program as a block's payload. -/
def program (os : List AddrOp) : List Byte := os.flatMap fun o => leBytes 8 (encodeAddr o)

/-- Issue 0 within its first block, an address program of `os`, at word `apc` with the registers `regs`. -/
def addressing (os : List AddrOp) (apc : Nat) (regs : Tab Word64) (emitted : Nat) : State :=
  streaming [aBlock 2 1 0 (program os)] [] [{ anIssue with apc, regs, inBlock := true, emitted }] []

def aop (s : State) (i : Nat) : Option AddrOp := (s.afetch i).map fun p => p.2

theorem witness_AddressRegisters :
    aop (addressing [.seti 2 1024, .fin] 0 [] 0) 0 = some (.seti 2 1024) ∧ aop (addressing [.getv 3 (2 * 2 ^ 29 + 5), .fin] 0 [] 0) 0 = some (.getv 3 (2 * 2 ^ 29 + 5)) ∧
    aop (addressing [.madd 0 0 6 1024, .fin] 0 [] 0) 0 = some (.madd 0 0 6 1024) ∧
    aop (addressing [.addi 0 0 (2 ^ 48 - 1), .fin] 0 [] 0) 0 = some (.addi 0 0 (2 ^ 48 - 1)) ∧ aop (addressing [.fin] 0 [] 0) 0 = some .fin ∧
    aop (streaming [aBlock 2 1 0 (program [.fin])] [] [anIssue] []) 0 = some .fin ∧ anIssue.inBlock = false := by decide +kernel

theorem witness_AddressRuns :
    aop (addressing [.loop 3 1, .fin, .fin] 0 [] 0) 0 = some (.loop 3 1) ∧
    aop (addressing [.loop 3 1, .fin, .fin] 0 [(3, 2 ^ 24)] 0) 0 = some (.loop 3 1) ∧
    aop (addressing [.loop 3 1, .fin, .fin] 0 [(3, 2 ^ 24 + 1)] 0) 0 = some (.loop 3 1) ∧ ((addressing [] 0 [] 0).easel 0).mode = .bound ∧
    aop (addressing [.emit 0 1 2 1 1, .fin] 0 [(2, 512)] (2 ^ 32 - 1)) 0 = some (.emit 0 1 2 1 1) ∧
    aop (addressing [.emit 0 0 2 1 1, .fin] 0 [] 0) 0 = some (.emit 0 0 2 1 1) ∧
    aop (addressing [.emit 0 1 2 0 0, .fin] 0 [(2, 512)] (2 ^ 32)) 0 = some (.emit 0 1 2 0 0) ∧
    aop (addressing [.zero 1 2 1, .fin] 0 [(2, 512)] (2 ^ 32 - 1)) 0 = some (.zero 1 2 1) ∧
    aop (addressing [.zero 1 2 1, .fin] 0 [] 0) 0 = some (.zero 1 2 1) := by decide +kernel

def fine (e : Option EndCheck) : Bool := match e with | some .fine => true | _ => false
def refusedRun (e : Option EndCheck) : Bool := match e with | some (.bad ..) => true | _ => false

/-- An issue whose run of `r` waits to be checked, from easel memory to its own store. -/
def moving (r : Run) : State := streaming [aBlock 1 1 1 []] [] [{ anIssue with runs := [r] }] []

def aRun : Run := { block := 0, length := 1024, src := 0, dst := 1024, zero := false, checked := false, starved := false }

theorem witness_RunsMove :
    ((moving aRun).issueCtx 0).map (fun c => (c.y.runs, c.d.blocks[0]? == some c.b)) = some ([aRun], true) ∧
    fine (((moving aRun).issueCtx 0).map fun c => (moving aRun).checkRun c aRun) = true ∧
    ((streaming [aBlock 1 1 0 (List.replicate 32 0)] [] [anIssue] []).issueCtx 0).map (fun c => (c.b.kind, (extentRun c).length)) = some (1, 0) ∧
    refusedRun (((moving { aRun with dst := 4032 }).issueCtx 0).map fun c => (moving aRun).checkRun c { aRun with dst := 4032 }) = true ∧
    refusedRun (((moving { aRun with dst := 1025 }).issueCtx 0).map fun c => (moving aRun).checkRun c { aRun with dst := 1025 }) = true ∧
    ((moving aRun).issueCtx 0).map (fun c => (c.b.dst, c.b.page, c.b.src)) = some (1, false, 1) ∧ aRun.zero = false := by decide +kernel

def aXfer : Xfer :=
  { id := 5, issue := 0, move := .copy 0 1024 512, slack := 100, arbs := [.hbm 0], sent := none, block := 0, space := 1, addr := 0, stores := [] }

/-- A run that fetches 1,024 B of easel memory into buffer 0 of its tile. -/
def fetching : State := streaming [aBlock 1 1 0 []] [] [{ anIssue with useLocal := true, runs := [{ aRun with dst := 0 }] }] []

theorem witness_RunFetched :
    (fetching.issueCtx 0).map (fun c => (c.b.src, c.b.dst, c.b.page)) = some (1, 0, false) ∧
    (fetching.issueCtx 0).map (fun c => (c.y.off, c.b.srcBase, c.d.slice)) = some (0, 0, 0) ∧
    (fetching.issueCtx 0).bind (fun c => c.localBuf) = some ⟨0, false, 0, 65536, 0⟩ ∧
    (fetching.issueCtx 0).map (fun c => roomOf (c.k.canvas.formula c.b.srcExt c.k.slots)) = some 4096 ∧
    fetching.mapped 0 0 1024 = true ∧ fetching.translate 0 0 = some 0 ∧
    (fetching.streams.issues.any fun z => z.runs != [] && z.id != 0) = false ∧ fetching.inSlice 0 = 0 ∧ fetching.atPort 0 = 0 ∧
    (fetching.issueCtx 0).map (fun c => (tierOf c.local0, storeTile c.local0)) = some (4, 0) ∧ tierOf 0 ≠ 4 := by decide +kernel

/-- A run of one slot of lane 0 that no intake holds. -/
theorem witness_RunWaits :
    (((streaming [{ aBlock 1 7 1 [] with srcExt := 1 }] [] [{ anIssue with runs := [{ aRun with dst := 0 }] }] []).issueCtx 0).map fun c =>
      (match (streaming [{ aBlock 1 7 1 [] with srcExt := 1 }] [] [{ anIssue with runs := [{ aRun with dst := 0 }] }] []).checkRun c { aRun with dst := 0 } with
        | .waits => true | _ => false)) = some true := by decide +kernel

/-- A window block of one chunk: a kind 0x02 record of an extent-0 stripe or a gate, at issue 0 with `inBlock` as `b`. -/
def chunking (kind : Nat) (bs : List Byte) (b : Bool) : State := streaming [aBlock kind 1 0 bs] [] [{ anIssue with inBlock := b }] []

theorem witness_BlocksRun :
    ((chunking 3 [3] true).issueCtx 0).map (fun c => (c.b.kind, c.y.inBlock, c.y.gates, c.y.parts)) = some (3, true, 0, []) ∧
    ((chunking 3 [3] false).issueCtx 0).map (fun c => (c.b.kind, c.y.inBlock)) = some (3, false) ∧
    ((chunking 4 [] false).issueCtx 0).map (fun c => (c.b.kind, decide (ceilDiv (aKeys c.b.payload c.k.slots) (aBk c.b.payload) ≤ c.y.p.toNat))) =
      some (4, true) := by decide +kernel

/-- A request of the trace unit of base die 0 and one of lane 0's intake. -/
def arbiterAsk (q : Ask) : State := let s := device canvas; { s with streams := { s.streams with asks := [q] } }

theorem witness_ArbiterOrder :
    leastSlack [.xfer { aXfer with id := 4, slack := 101 }, .xfer aXfer, .ask ⟨6, .trace 0, 100, [.hbm 0]⟩] = some (.xfer aXfer) ∧
    leastSlack ((streaming [aBlock 1 1 1 []] [] [anIssue] [aXfer]).pendingAt (.hbm 0)) = some (.xfer aXfer) ∧
    leastSlack ((arbiterAsk ⟨6, .bar2 0 true, 8192, [.hbm 0]⟩).pendingAt (.hbm 0)) = some (.ask ⟨6, .bar2 0 true, 8192, [.hbm 0]⟩) ∧
    (streaming [aBlock 1 1 1 []] [] [anIssue] [aXfer]).pendingAt (.hbm 1) = [] ∧
    (streaming [aBlock 1 1 1 []] [] [anIssue] [aXfer]).xfer 5 = some aXfer ∧ aXfer.arbs.head? = some (.hbm 0) ∧
    (streaming [aBlock 1 1 1 []] [] [anIssue] [aXfer]).emitHead aXfer = true ∧
    (streaming [aBlock 1 1 1 []] [] [anIssue] [aXfer]).flashFree (.hbm 0) (some 0) = true ∧
    (streaming [aBlock 1 1 1 []] [] [anIssue] [{ aXfer with id := 4, arbs := [] }, aXfer]).pendingAt (.hbm 0) = [.xfer aXfer] := by decide +kernel

/-- The transfer `x` of issue 0 alone in flight. -/
def flying (x : Xfer) : State := streaming [aBlock 1 1 1 []] [] [anIssue] [x]

theorem witness_TransferLands :
    (flying aXfer).xfer 5 = some aXfer ∧ ((flying aXfer).xferCtx aXfer).isSome = true ∧ aXfer.sent = none ∧ aXfer.arbs ≠ [] ∧
    (flying { aXfer with arbs := [] }).xfer 5 = some { aXfer with arbs := [] } ∧
    ((flying aXfer).xferCtx { aXfer with arbs := [] }).isSome = true ∧ MemoriesCanonical (flying aXfer) ∧
    1024 % pageBytes + 512 ≤ pageBytes ∧
    (flying { aXfer with arbs := [], move := .zeros 2096640 512 }).xfer 5 = some { aXfer with arbs := [], move := .zeros 2096640 512 } ∧
    ((flying aXfer).xferCtx { aXfer with arbs := [], move := .zeros 2096640 512 }).isSome = true ∧ 2096640 % pageBytes + 512 ≤ pageBytes := by
  refine ⟨?_, ?_, ?_, ?_, ?_, ?_, ⟨?_, ?_⟩, ?_, ?_, ?_, ?_⟩ <;> decide +kernel

/-- Issue 0 with nothing left to do, its completion signal 9, and a last block to space `dst`. -/
def finishing (dst : Nat) : State := streaming [aBlock 1 1 dst []] [] [{ anIssue with finished := true, signal := some 9 }] []

/-- The same with data channel 0 held and a port up that carries it. -/
def finishingFar : State :=
  { finishing 5 with
    bind := { (finishing 5).bind with table := (finishing 5).bind.table ++ [⟨7, 0, 1, 0, 0⟩] }
    fabric := { (finishing 5).fabric with ports := [(0, { Port.reset with state := 2, lanes := [0, 1, 2, 3], credits := [(0, 4)] })], masks := [(0, 1)] } }

theorem witness_IssueCompletes :
    (flying aXfer).issue 0 = some anIssue ∧ ((flying aXfer).tileCtx 0).isSome = true ∧ (((flying aXfer).easel 0).stream 3).isSome = true ∧
    anIssue.finished = false ∧ (∃ x ∈ (flying aXfer).streams.xfers, x.issue = 0) ∧
    (finishing 1).issue 0 = some { anIssue with finished := true, signal := some 9 } ∧ (finishing 1).streams.xfers = [] ∧
    (((finishing 1).easel 0).stream 3).bind (fun d => d.blocks.getLast?.map (·.dst)) = some 1 ∧
    (finishingFar.tileCtx 0).bind (fun k => ((finishingFar.easel 0).stream 3).map fun d =>
      progressSignal k d { anIssue with finished := true, signal := some 9 }) = some [] ∧
    ((finishingFar.easel 0).stream 3).bind (fun d => d.blocks.getLast?.map (·.dst)) = some 5 ∧
    (finishingFar.request 0 4 0 9 9 1 [] false none none).isSome = true := by decide +kernel

/-! ### Commands and canvases -/

/-- A descriptor (Table 15-5): operation, flags, argument, list count, parameter address and length, training step; no inline slots. -/
def descriptor (op flags arg list param len step : Nat) : List Byte :=
  let h := leBytes 1 op ++ leBytes 1 flags ++ [0] ++ leBytes 1 arg ++ leBytes 2 list ++ [0, 0] ++ leBytes 8 param ++ leBytes 4 len ++
    List.replicate 4 0 ++ leBytes 6 step ++ [0, 0]
  h ++ List.replicate 64 0 ++ h.map (~~~ ·)

/-- A command of queue 0 with sequence number 1, in phase `p`. -/
def command (p : Phase) (bytes : List Byte) : Cmd := { queue := 0, seq := 1, bytes, intact := true, phase := p, slots := [5], sentFabric := false }

/-- Queue 0 as enabled: 16 entries, at easel address 0 or in host memory. -/
def ring (inEasel : Bool) : Queue := { Queue.reset 0 with size := 16, enable := true, inEasel, state := 1 }

/-- A device with the command `c` in easel 0. -/
def commanded (c : Cmd) : State := (device canvas).onEasel 0 fun x => { x with lastSeq := 1, queues := [(0, ring false)], cmds := [c] }

/-- A device with `n` descriptors behind the head of queue 0. -/
def posted (inEasel : Bool) : State := (device canvas).onEasel 0 fun x => { x with queues := [(0, { ring inEasel with tail := 1 })] }

theorem witness_DescriptorTaken :
    (posted false).turn 0 = some 0 ∧ (posted true).turn 0 = some 0 ∧ (posted false).bound 0 = true ∧ State.reset.bound 0 = false ∧
    (posted true).ringEntry 0 { ring true with tail := 1 } = (List.replicate 128 0, true) ∧
    ((posted false).onEasel 0 fun x => { x with nextQueue := 1 }).turn 0 = some 0 := by decide +kernel

theorem witness_CommandDispatched :
    (commanded (command .taken (descriptor 8 2 0 0 0 0 7))).bound 0 = true ∧
    (commanded (command .taken (descriptor 8 2 0 0 0 0 7))).sequencerStopped 0 = false ∧
    ({ commanded (command .taken (descriptor 8 2 0 0 0 0 7)) with power := { powered with stoppedDies := [0] } } : State).sequencerStopped 0 = true ∧
    ((commanded (command .taken (descriptor 8 2 0 0 0 0 7))).easel 0).quiet = true ∧
    ((commanded (command .started (descriptor 8 2 0 0 0 0 7))).easel 0).quiet = false ∧
    ((commanded (command .taken (descriptor 8 2 0 0 0 0 7))).easel 0).waiting = some (command .taken (descriptor 8 2 0 0 0 0 7)) ∧
    ((commanded (command .taken (descriptor 8 2 0 0 0 0 7))).easel 0).startable (command .taken (descriptor 8 2 0 0 0 0 7)) = true ∧
    (commanded (command .taken [])).checkHeader 0 (command .taken (descriptor 8 2 0 0 0 0 7)) = none ∧
    (commanded (command .taken [])).listOk 0 (command .taken (descriptor 8 2 0 0 0 0 7)) = true ∧
    (commanded (command .taken [])).checkShapes 0 [5] [] = none ∧
    (command .taken (descriptor 8 2 0 0 0 0 7)).stepped = true ∧ (command .taken (descriptor 8 2 0 0 0 0 7)).last = true ∧
    (command .taken (descriptor 8 0 0 0 0 0 7)).last = false ∧ (command .taken (descriptor 8 0 0 0 0 0 0)).stepped = false ∧
    (commanded (command .taken [])).checkHeader 0 (command .taken (descriptor 9 0 0 0 0 0 0)) ≠ none ∧
    (((commanded (command .taken (descriptor 8 8 0 0 0 0 0))).onEasel 0 fun x =>
      { x with cmds := command .started (descriptor 3 0 0 0 0 0 0) :: x.cmds }).easel 0).startable (command .taken (descriptor 8 8 0 0 0 0 0)) = false := by
  decide +kernel

/-- The device at run work: its command in phase `p`, the semaphore at `n`. -/
def working1 (p : Phase) (n : Nat) : State := (commanded (command p (descriptor 1 0 0 0 0 0 0))).setSem 9 (aSem n)

theorem witness_WorkStarts :
    (∀ q ∈ (working1 .dispatched 0).sems, q.2.sound = true) ∧
    ((working1 .dispatched 0).easel 0).dispatched 1 = some (command .dispatched (descriptor 1 0 0 0 0 0 0)) ∧
    ((working1 .dispatched 0).easel 0).mode = .bound ∧ (working1 .dispatched 0).sheetTiles 0 = [0] := by decide +kernel

theorem witness_CommandEnds :
    ((working1 .started 0).easel 0).running 1 = some (command .started (descriptor 1 0 0 0 0 0 0)) ∧
    (∃ t ∈ ((working1 .started 0).onTile 0 fun x => { x with running := true }).sheetTiles 0,
      (((working1 .started 0).onTile 0 fun x => { x with running := true }).tile t).running = true) ∧
    (∀ t ∈ (working1 .started 0).sheetTiles 0, ((working1 .started 0).tile t).running = false) ∧
    (working1 .started 0).postedPending 0 = false ∧ ((working1 .started 0).easel 0).awaiting = [] ∧ ((working1 .started 0).easel 0).rerun = [] ∧
    (working1 .started 0).sequencerStopped 0 = false ∧
    (working1 .started 0).finalMismatch 0 (command .started (descriptor 1 0 0 0 0 0 0)) = none ∧
    ((working1 .started 0).easel 0).faultAtBoundary = false ∧
    (working1 .started 1).finalMismatch 0 (command .started (descriptor 1 0 0 0 0 0 0)) ≠ none ∧
    ((working1 .started 1).easel 0).mode = .bound ∧
    ((commanded (command .dispatched (descriptor 8 0 0 0 0 0 0))).easel 0).dispatched 8 = some (command .dispatched (descriptor 8 0 0 0 0 0 0)) ∧
    (((commanded (command .dispatched (descriptor 8 0 0 0 0 0 0))).faultLater 0).easel 0).faultAtBoundary = true ∧
    (command .dispatched (descriptor 8 0 0 0 0 0 0)).last = false ∧ (command .dispatched (descriptor 8 0 0 0 0 0 0)).step = 0 := by
  decide +kernel

/-- The bytes `bs` at easel address 4,096. -/
def stored (s : State) (bs : List Byte) : State := s.writeAt 4096 bs

theorem witness_SheetsAndPanels :
    ((commanded (command .dispatched (descriptor 3 0 0 0 0 0 0))).easel 0).dispatched 3 = some (command .dispatched (descriptor 3 0 0 0 0 0 0)) ∧
    (commanded (command .dispatched (descriptor 3 0 0 0 0 0 0))).works 0 = true ∧
    ((commanded (command .started (descriptor 3 0 0 0 0 0 0))).easel 0).running 3 = some (command .started (descriptor 3 0 0 0 0 0 0)) ∧
    ((commanded (command .dispatched (descriptor 4 0 0 0 4096 72 0))).easel 0).dispatched 4 = some (command .dispatched (descriptor 4 0 0 0 4096 72 0)) ∧
    ((commanded (command .dispatched (descriptor 4 0 0 0 4096 72 0))).easel 0).sheetDef = some sheet ∧
    checkReweight ((commanded (command .dispatched [])).blockOf 0 (command .dispatched (descriptor 4 0 0 0 4096 72 0))) sheet = .inl (1, 0) ∧
    ((commanded (command .started (descriptor 4 0 0 0 4096 72 0))).onEasel 0 fun x => { x with rearranged := some sheet }).works 0 = true := by
  decide +kernel

/-- A sheet of two panels of two rows each, and the block that moves one row of the first to the second. -/
def twoPanels : Sheet := { sheet with panels := [⟨0, false, 0, 2, 1, 1, 3, 0, 0, 1, 1, 0, 1⟩, ⟨1, false, 2, 2, 1, 1, 3, 0, 0, 1, 1, 0, 1⟩], sems := [] }

def oneRow : List Byte := [1, 0, 0, 0, 0, 0, 0, 0] ++ leBytes 2 0 ++ leBytes 2 1 ++ [1] ++ List.replicate 59 0

def arranged (sh : Option Sheet) : Bool := match sh with | some x => x.panels.map (fun p => (p.origin, p.rows)) = [(0, 1), (1, 3)] | none => false

theorem witness_Reweight :
    (stored (commanded (command .dispatched (descriptor 4 0 0 0 4096 72 0))) oneRow).blockOf 0 (command .dispatched (descriptor 4 0 0 0 4096 72 0)) = oneRow ∧
    arranged (match checkReweight oneRow twoPanels with | .inr x => some x | .inl _ => none) = true := by decide +kernel

/-- A canvas image (R69 to R73): slot 0 (plan 8, initial 4), one panel of one tile, one program of `end`. -/
def imageBody : List Byte :=
  (leBytes 1 1 ++ [0xFF, 0, 0] ++ leBytes 4 1 ++ leBytes 4 192 ++ leBytes 4 16) ++ (leBytes 1 3 ++ [0, 0, 0] ++ leBytes 4 1 ++ leBytes 4 256 ++ leBytes 4 32) ++
  (leBytes 1 4 ++ [0, 0, 0] ++ leBytes 4 1 ++ leBytes 4 320 ++ leBytes 4 8) ++ List.replicate 16 0 ++
  (leBytes 8 8 ++ leBytes 8 4 ++ List.replicate 48 0) ++
  (leBytes 2 0 ++ [0, 0, 0, 0] ++ [1, 1] ++ leBytes 2 1 ++ leBytes 2 2 ++ [0, 0, 0, 0] ++ leBytes 4 1 ++ leBytes 4 1 ++ List.replicate 8 0 ++ List.replicate 32 0) ++
  List.replicate 8 0

def imageOf (digest : List Byte) : List Byte :=
  leBytes 4 0x564E4344 ++ leBytes 2 0x0200 ++ [0, 0] ++ leBytes 8 384 ++ [1, 1] ++ leBytes 2 3 ++ leBytes 2 1 ++ [0, 0] ++ leBytes 8 99 ++ digest ++
  List.replicate 64 0 ++ imageBody ++ List.replicate 56 0

/-- SHAKE256 of the body. -/
def imageDigest : List Byte := leBytes 32 82279729671498049942802285272421421126801564640930156079687188617585248363667

def theImage : List Byte := imageOf imageDigest

/-- The device at a load of that image from easel address 4,096, with `bs` there. -/
def loadingFrom (p : Phase) (bs : List Byte) : State := stored (commanded (command p (descriptor 2 0 0 0 4096 384 0))) bs

theorem witness_CanvasLoads :
    ((loadingFrom .dispatched []).easel 0).dispatched 2 = some (command .dispatched (descriptor 2 0 0 0 4096 384 0)) ∧
    (loadingFrom .dispatched []).works 0 = true ∧
    (loadingFrom .dispatched theImage).image 0 (command .dispatched (descriptor 2 0 0 0 4096 384 0)) = (theImage, false) ∧
    checkHead theImage 384 false = none ∧ checkSignature theImage = none ∧ (loadingFrom .dispatched []).compat 0 = false ∧
    (loadingFrom .dispatched []).signatureOk theImage false = true ∧ (loadingFrom .dispatched []).checkImage 0 theImage = none ∧
    checkHead (imageOf []) 384 false ≠ none ∧ ((loadingFrom .dispatched []).easel 0).faultAtBoundary = false ∧
    (((loadingFrom .started []).onEasel 0 fun x => { x with loading := some (imCanvas theImage) }).easel 0).running 2 =
      some (command .started (descriptor 2 0 0 0 4096 384 0)) := by decide +kernel
/-! ### The primer -/

/-- A PCM payload (Table 12-6): 16-bit elements of one channel. -/
def pcm (values : List Nat) : List Byte :=
  [1, 1, 0, 0] ++ leBytes 4 48000 ++ leBytes 8 values.length ++ values.flatMap (leBytes 2)

/-- A record of sample 77 (R307). -/
def record (payload : List Byte) : List Byte :=
  let h := leBytes 4 payload.length ++ [5, 0, 0, 0] ++ leBytes 8 77
  h ++ leBytes 4 (crc32c (h ++ payload)) ++ List.replicate 12 0 ++ payload

/-- A record stream of one record (R305, R306), and its place. -/
def streamOf (r : List Byte) : List Byte :=
  let q := leBytes 8 128 ++ leBytes 4 r.length ++ leBytes 4 0
  let h := leBytes 4 0x53445244 ++ leBytes 2 0x0100 ++ leBytes 2 0 ++ leBytes 8 1 ++ leBytes 8 64 ++ leBytes 8 (128 + r.length) ++ leBytes 4 (crc32c q)
  h ++ leBytes 4 (crc32c h) ++ List.replicate 24 0 ++ q ++ List.replicate 48 0 ++ r

def records : List Byte := streamOf (record (pcm [3, 65535]))

/-- An intake of that record through lane 3 in memory mode: semaphore 9, outputs at 32,768, log at 65,536 (Table 12-1). -/
def intakeBlock (kind budget : Nat) : List Byte :=
  [BitVec.ofNat 8 kind, 2, 0, 1] ++ leBytes 2 0 ++ leBytes 2 9 ++ leBytes 8 8 ++ leBytes 8 16384 ++ leBytes 8 0 ++ leBytes 4 1 ++ leBytes 2 1 ++ leBytes 2 16 ++
  leBytes 8 16384 ++ leBytes 8 100 ++ leBytes 4 5 ++ leBytes 1 budget ++ [0, 0, 0] ++ leBytes 4 2 ++ leBytes 4 1 ++ List.replicate 24 0 ++ leBytes 8 32768 ++
  leBytes 8 128 ++ leBytes 8 65536 ++ leBytes 4 1 ++ leBytes 4 0 ++ List.replicate 16 0

/-- The device at that intake, lane 3 bound to easel 0. -/
def taking (p : Phase) (bs : List Byte) : State :=
  let s := stored (commanded (command p (descriptor 5 0 0 0 4096 144 0))) bs
  let s := s.writeAt 16384 records
  { s with bind := { s.bind with table := s.bind.table ++ [⟨6, 3, 1, 0, 0⟩] } }

theorem witness_Intake :
    ((taking .dispatched (intakeBlock 5 1)).easel 0).dispatched 5 = some (command .dispatched (descriptor 5 0 0 0 4096 144 0)) ∧
    (taking .dispatched (intakeBlock 5 1)).works 0 = true ∧ (taking .dispatched (intakeBlock 5 1)).asked (.intake 0) = none ∧
    (taking .dispatched (intakeBlock 5 1)).blockOf 0 (command .dispatched (descriptor 5 0 0 0 4096 144 0)) = intakeBlock 5 1 ∧
    (taking .dispatched (intakeBlock 5 1)).poisonedVa 0 4096 144 = false ∧
    (taking .dispatched (intakeBlock 5 1)).intakeFields 0 (intakeBlock 5 1) = none ∧
    (taking .dispatched (intakeBlock 5 1)).intakeFault 0 (intakeBlock 5 1) false = none ∧
    (taking .dispatched (intakeBlock 7 1)).intakeFields 0 (intakeBlock 7 1) = some 7 := by decide +kernel

/-- The intake of that command, begun or not. -/
def anIntake (started : Bool) : Intake :=
  { easel := 0, seq := 1, step := 0, block := intakeBlock 5 1, started, taken := 0, delivered := 0, consumed := 0, skips := 0, buffer := [],
    spares := [⟨2, 1, 1, 16, false, [3, 65535]⟩], row := [], slotRead := [], released := 0, starved := false }

/-- The record of the intake as its lane has it. -/
def anOutput (payload : List Byte) : Output := { index := 0, lane := 3, sampleId := 77, skip := 0, payload, sample := none, ready := false }

/-- The device with the intakes `xs` and lane 3 busy with record 0, or free. -/
def taken (xs : List Intake) (busy : Bool) : State :=
  let s := taking .started (intakeBlock 5 1)
  { s with primer := { s.primer with intakes := xs, lanes := if busy then [(3, ⟨0, 1, 0⟩)] else [] } }

theorem witness_IntakeRuns :
    startable 0 (taken [anIntake false] false).primer.intakes 0 = some (anIntake false) ∧
    startable 0 [anIntake true, { anIntake false with seq := 2 }] 0 = none ∧
    (taken [{ anIntake true with taken := 1, consumed := 1 }] false).primer.intakes.find? (fun i =>
      i.easel = 0 && i.started && i.consumed = ibCount i.block && i.row.isEmpty) = some { anIntake true with taken := 1, consumed := 1 } ∧
    ((taken [] false).easel 0).cmds.find? (·.seq = 1) = some (command .started (descriptor 5 0 0 0 4096 144 0)) ∧
    ((taken [] false).easel 0).faultAtBoundary = false := by decide +kernel

theorem witness_LaneRecordTake :
    (taken [anIntake true] false).intakeOfLane 3 = some (anIntake true) ∧ (∀ q ∈ (taken [anIntake true] false).primer.lanes, q.1 ≠ 3) ∧
    (taken [anIntake true] false).asked (.lane 3) = none ∧ (arbiterAsk ⟨6, .lane 3, 16384, []⟩).asked (.lane 3) = some ⟨6, .lane 3, 16384, []⟩ ∧
    (anIntake true).taken < ibCount (anIntake true).block ∧ (anIntake true).bufferRoom = true ∧
    (taken [anIntake true] false).recordOf 0 1 16384 5 0 = (77, some (pcm [3, 65535])) ∧ (preCheck (intakeBlock 5 1) (pcm [3, 65535])).1 = 0 ∧
    ((taken [anIntake true] false).writeAt (16384 + 160) [2]).recordOf 0 1 16384 5 0 = (77, none) ∧
    (preCheck (intakeBlock 5 1) (pcm [1, 2, 3])).1 = 0x0603 := by decide +kernel

/-- Lane 3 at work on `payload`. -/
def decodingOf (payload : List Byte) : State := taken [{ anIntake true with taken := 1, buffer := [anOutput payload] }] true

theorem witness_LanesDecode :
    (decodingOf (pcm [3, 65535])).decoding 3 =
      some ({ anIntake true with taken := 1, buffer := [anOutput (pcm [3, 65535])] }, anOutput (pcm [3, 65535]), ⟨2, 1, 1, 16, false⟩) ∧
    isText (ibKind (intakeBlock 5 1)) = false ∧
    (decodingOf []).workOf 0 (intakeBlock 5 1) (pcm [3, 65535]) ⟨2, 1, 1, 16, false⟩ none = 22 ∧
    budgetOf (intakeBlock 5 1) (pcm [3, 65535]) ⟨2, 1, 1, 16, false⟩ = 24 ∧
    (decodingOf []).decodeSample 0 (intakeBlock 5 1) (pcm [3, 65535]) ⟨2, 1, 1, 16, false⟩ none = some ⟨2, 1, 1, 16, false, [3, 65535]⟩ ∧
    (decodingOf []).decodeSample 0 (intakeBlock 5 1) ((pcm [3, 65535]).take 19) ⟨2, 1, 1, 16, false⟩ none = none ∧
    budgetOf (intakeBlock 5 0) (pcm [3, 65535]) ⟨2, 1, 1, 16, false⟩ < 22 := by decide +kernel

/-- A record decoded, or skipped, at the head of the reorder buffer. -/
def decoded (skip : Nat) : Output :=
  { anOutput (pcm [3, 65535]) with skip, ready := true, sample := if skip = 0 then some ⟨2, 1, 1, 16, false, [3, 65535]⟩ else none }

/-- A text intake with one segment in its row, `n` of its one record consumed. -/
def aRow (n : Nat) : Intake :=
  { anIntake true with block := intakeBlock 6 1, consumed := n, row := [⟨3, 1, 0, 0, 0xFFFF, 0xFFFFFFFF, ⟨0, 0, 0, 32, false, [8]⟩⟩] }

theorem witness_OutputsDelivered :
    (taken [{ anIntake true with buffer := [decoded 0] }] false).primer.intakes.find? (fun i => i.easel = 0 && i.started &&
      ((taken [{ anIntake true with buffer := [decoded 0] }] false).deliverNext i).isSome) = some { anIntake true with buffer := [decoded 0] } ∧
    (taken [{ anIntake true with buffer := [decoded 0x0601] }] false).primer.intakes.find? (fun i => i.easel = 0 && i.started &&
      ((taken [{ anIntake true with buffer := [decoded 0x0601] }] false).deliverNext i).isSome) = some { anIntake true with buffer := [decoded 0x0601] } ∧
    (taken [{ anIntake true with buffer := [decoded 0] }] false).asked (.output 0 1) = none ∧
    (taken [{ anIntake true with buffer := [decoded 0] }] false).outputArbs { anIntake true with buffer := [decoded 0] } ≠ [] ∧
    (aRow 1).consumed = ibCount (aRow 1).block ∧ (aRow 1).row ≠ [] ∧ (aRow 1).placeFree = true ∧ (aRow 0).rowCloses = false ∧
    ((taken [aRow 1] false).deliverNext (aRow 1)).isSome = true ∧
    [decoded 0].find? (·.index = (anIntake true).consumed) = some (decoded 0) ∧ (decoded 0).ready = true ∧ (decoded 0x0601).skip ≠ 0 ∧
    (anIntake true).placeFree = true ∧ isText (ibKind (intakeBlock 6 1)) = true ∧ ibMaxA (intakeBlock 6 1) = 2 ∧
    ({ anIntake true with block := intakeBlock 6 1, row := [⟨3, 1, 0, 0, 0xFFFF, 0xFFFFFFFF, ⟨0, 0, 0, 32, false, [8]⟩⟩] } : Intake).rowUsed + [9].length ≤ 2 := by
  decide +kernel

/-! ### Glaze units, verdicts and reductions -/

/-- A dictionary entry with a value in force. -/
def setting (s : State) (index sub : Nat) (bs : List Byte) : State :=
  { s with dict := { s.dict with values := tset s.dict.values (index * 256 + sub) bs } }

/-- A glaze entry of 16 elements (Table 14-2), its done value 1 of semaphore 9, its second buffer a page behind the first. -/
def glazeEntry : List Byte :=
  [1, 0] ++ leBytes 2 9 ++ leBytes 4 1 ++ leBytes 4 16 ++ leBytes 4 0 ++ leBytes 8 16384 ++ leBytes 8 16448 ++ leBytes 8 16512 ++ leBytes 8 0 ++
  leBytes 8 16640 ++ leBytes 8 0 ++ leBytes 8 16704 ++ leBytes 8 2097152 ++ List.replicate 48 0

/-- The block of an update of that entry, its table at 8,192 (Table 14-1). -/
def updateBlock : List Byte := leBytes 4 1 ++ List.replicate 4 0 ++ leBytes 8 8192 ++ leBytes 4 0x3F800000 ++ List.replicate 44 0

def updateCmd (p : Phase) : Cmd := command p (descriptor 6 0 0 0 4096 64 7)

def anUpdate : Update :=
  { seq := 1, step := 7, block := updateBlock, entries := [glazeEntry], applied := false, skipped := false, nonfinite := 0, waiters := [], stalled := false, writes := [] }

/-- The device at that update, with its last command of step 7 completed. -/
def updating (p : Phase) (f : Easel → Easel) : State :=
  ((stored (commanded (updateCmd p)) updateBlock).writeAt 8192 glazeEntry).onEasel 0 fun x => f { x with lastDone := 7, closedStep := 7 }

def verdictOf7 (skipped : Bool) : Tab Verdict := [(7, ⟨skipped, 16, 16, 1⟩)]

def someFacts : ImageFacts :=
  { select := 1, canvas := 7, seed := 0, next := 16, clean := 1, block := updateBlock, entries := [glazeEntry], extents := [] }

def aDrain (held : Bool) : Drain :=
  { id := 3, layer := 1, step := 6, buffer := 1, held, via := 0, phase := 2, space := 5, address := 0, position := 5, channel := 0, format := 0, slot := 0,
    header := [], facts := someFacts }

theorem witness_UpdateRuns :
    ((updating .dispatched id).easel 0).dispatched 6 = some (updateCmd .dispatched) ∧ (updating .dispatched id).works 0 = true ∧
    ((updating .dispatched id).easel 0).update = none ∧ (updating .dispatched id).blockOf 0 (updateCmd .dispatched) = updateBlock ∧
    (updating .dispatched id).poisonedVa 0 4096 64 = false ∧ (updating .dispatched id).updateFault 0 updateBlock false 7 = none ∧
    (∀ q ∈ (updating .dispatched id).sems, q.2.sound = true) ∧
    (updating .dispatched fun x => { x with lastApplied := 7 }).updateFault 0 updateBlock false 7 = some (0x090D, 0, 0xFF) := by decide +kernel

theorem witness_UpdateApplies :
    ((updating .started fun x => { x with update := some anUpdate, verdicts := verdictOf7 true }).easel 0).update = some anUpdate ∧
    ((updating .started fun x => { x with update := some anUpdate, verdicts := verdictOf7 true }).easel 0).decided 7 = true ∧
    ((updating .started fun x => { x with update := some anUpdate, verdicts := verdictOf7 true }).easel 0).wasSkipped 7 = true ∧
    ((updating .started fun x => { x with update := some anUpdate, verdicts := verdictOf7 false }).easel 0).wasSkipped 7 = false ∧
    ((updating .started fun x => { x with update := some anUpdate }).easel 0).bufferHeld 1 = false ∧
    ((updating .started fun x => { x with update := some anUpdate, drains := [aDrain true] }).easel 0).bufferHeld 1 = true ∧
    ((updating .started fun x => { x with update := some { anUpdate with applied := true } }).easel 0).running 6 = some (updateCmd .started) ∧
    ((updating .started id).easel 0).faultAtBoundary = false ∧ (updating .started id).works 0 = true ∧
    (updating .started id).sequencerStopped 0 = false ∧ (updating .started id).asked (.glaze 0) = none := by decide +kernel

/-- An export of step 7 to easel address 1,048,576 (Table 15-7). -/
def exportBlock : List Byte := leBytes 8 1048576 ++ [1, 0, 0, 0] ++ List.replicate 20 0

def exporting (last : Nat) : State :=
  (stored (commanded (command .dispatched (descriptor 7 0 0 0 4096 32 7))) exportBlock).onEasel 0 fun x =>
    { x with lastApplied := last, lastEntries := [glazeEntry] }

/-- The device with data channel 0, port 0 up on it, a partner and a log of a checkpoint every 4 steps. -/
def partnered (s : State) : State :=
  let s := { s with
    bind := { s.bind with table := s.bind.table ++ [⟨7, 0, 1, 0, 0⟩] }
    fabric := { s.fabric with ports := [(0, { Port.reset with state := 2, lanes := [0, 1, 2, 3], credits := [(0, 4), (16, 4)] })], masks := [(0, 1)] } }
  setting (setting s 0x9040 1 (leBytes 4 5)) 0x9040 3 (leBytes 4 4)

theorem witness_CheckpointsAndLog :
    ((exporting 7).easel 0).dispatched 7 = some (command .dispatched (descriptor 7 0 0 0 4096 32 7)) ∧ (exporting 7).works 0 = true ∧
    (exporting 7).blockOf 0 (command .dispatched (descriptor 7 0 0 0 4096 32 7)) = exportBlock ∧ (exporting 7).poisonedVa 0 4096 32 = false ∧
    (exporting 7).exportLegal 0 exportBlock 7 = true ∧ (exporting 0).exportLegal 0 exportBlock 7 = true ∧
    (exporting 7).mapped 0 1048576 (128 + payloadBytes [glazeEntry] ((exporting 7).extras 0) 0) = true ∧ ((exporting 7).easel 0).faultAtBoundary = false ∧
    ((updating .started fun x => { x with drains := [aDrain false] }).easel 0).drains.find? (fun d => d.layer = 1 && (d.phase != 0 || d.held)) =
      some (aDrain false) ∧
    (updating .started id).drainOpen 0 (aDrain false) = false ∧
    ((updating .started fun x => { x with drains := [{ aDrain true with via := 1, phase := 0 }] }).easel 0).drains.find? (fun d => d.layer = 1 &&
      (d.phase != 0 || d.held)) = some { aDrain true with via := 1, phase := 0 } ∧
    ((updating .started id).payload 0 someFacts 1 0).isSome = true ∧
    ((updating .started fun x => { x with drains := [{ aDrain true with layer := 4, space := 1 }] }).drainPayload 0
      { aDrain true with layer := 4, space := 1 }).isSome = true ∧ (updating .started id).asked (.drain 0 3) = none := by decide +kernel

theorem witness_LogEntryWrite :
    ((partnered (updating .started fun x => { x with update := some anUpdate })).easel 0).update = some anUpdate ∧
    (partnered (updating .started id)).drainChannel 0 = some 0 ∧ (partnered (updating .started id)).works 0 = true ∧
    (partnered (updating .started id)).layerOn 0 1 = true ∧ (∀ l ∈ ((partnered (updating .started id)).easel 0).logs, l.step ≠ 7) ∧
    7 ≤ ((partnered (updating .started id)).easel 0).lastDone ∧ ((partnered (updating .started id)).easel 0).shardsIn anUpdate = true ∧
    (partnered (updating .started id)).ownPort 0 ≠ none ∧
    ((partnered (updating .started fun x => { x with verdicts := verdictOf7 true })).easel 0).decided 7 = true ∧
    ((partnered (updating .started fun x => { x with verdicts := verdictOf7 true })).easel 0).wasSkipped 7 = true := by decide +kernel

/-- The same in a group of two devices. -/
def grouped (s : State) : State := setting (partnered s) 0x6110 1 (leBytes 4 2)

/-- A packet of channel `c` from position 5, as port 0 received it. -/
def arrived (type c a b : Nat) (payload : List Byte) : Arrival :=
  ⟨0, 1, { type, channel := c, fenced := false, poisoned := false, destination := 0, source := 5, epoch := 0, tag := 0, a, b, payload }⟩

/-- The device with the packets `l` received. -/
def receiving (s : State) (l : List Arrival) : State := { s with fabric := { s.fabric with received := l } }

theorem witness_StepsDecided :
    (grouped (updating .started id)).works 0 = true ∧ (grouped (updating .started id)).groupChannel 0 = some 0 ∧
    ((grouped (updating .started id)).easel 0).lastDone = 7 ∧ ((grouped (updating .started id)).easel 0).decided 7 = false ∧
    ((grouped (updating .started id)).easel 0).wordSent ≠ 7 ∧
    (∃ l ∈ ((grouped (updating .started fun x => { x with logs := [⟨7, [], 0, 2⟩] })).easel 0).logs, l.step = 7 ∧ l.phase = 2) ∧
    segmentPort ((grouped (updating .started id)).mask 0) 0 = some 0 ∧ ((grouped (updating .started id)).sendWord 0 7 0).isSome = true ∧
    (updating .started id).groupChannel 0 = none ∧ ((updating .started id).easel 0).lastDone = ((updating .started id).easel 0).closedStep ∧
    (receiving (grouped (updating .started fun x => { x with wordSent := 7 })) [arrived 7 16 0 7 (List.replicate 64 0)]).totalFor 0 =
      some (0, arrived 7 16 0 7 (List.replicate 64 0)) ∧
    ((updating .started id).easel 0).restore = none ∧
    ((grouped (updating .started fun x => { x with wordSent := 7 })).easel 0).decided ((grouped (updating .started fun x => { x with wordSent := 7 })).easel 0).wordSent =
      false := by decide +kernel

/-- A reduction of two segments of channel 0 in the sheet of run work of step 7. -/
def aRed : RedEntry :=
  { id := 6, channel := 0, wire := 0, srcSpace := 1, shardSpace := 1, slice := 0, trigger := 9, done := 9, triggerValue := 1, segments := 2, srcBase := 0,
    shardBase := 65536, scaleAddr := 0, healthBase := 0 }

def reducing (f : Easel → Easel) : State :=
  let s := commanded (command .started (descriptor 1 0 0 0 0 0 7))
  (grouped s).onEasel 0 fun x => f { x with canvas := some { canvas with sheets := [{ sheet with reds := [aRed] }] }, awaiting := [0] }

def aFiring (landed : List Nat) (complete : Bool) : Firing := ⟨0, 6, 7, 1, 0, landed, healthZero, true, complete⟩

/-- The device with that firing, and the packet of segment `seg` received. -/
def delivering (landed : List Nat) (seg step : Nat) : State :=
  receiving (reducing fun x => { x with firings := [aFiring landed false] }) [arrived 7 0 (6 + seg * 2 ^ 24) step (List.replicate 4096 0)]

theorem witness_ReductionFires :
    ((reducing id).easel 0).running 1 = some (command .started (descriptor 1 0 0 0 0 0 7)) ∧
    (((reducing id).easel 0).sheetDef.bind fun d => d.reds[0]?) = some aRed ∧ 0 ∈ ((reducing id).easel 0).awaiting ∧ (reducing id).works 0 = true ∧
    (reducing id).asked (.reduction 0 0) = none ∧
    (0, 6, 7) ∉ ((reducing id).easel 0).fired ∧ (0, 6, 7) ∈ ((reducing fun x => { x with fired := [(0, 6, 7)] }).easel 0).fired := by decide +kernel

theorem witness_ShardDelivery :
    ((delivering [] 0 7).arrival 0 7).map (fun a => (a.packet.channel, (delivering [] 0 7).reach a.packet, fld a.packet.a 24 32, a.packet.payload.length)) =
      some (0, .easel 0, 0, 4096) ∧
    ((delivering [] 0 7).easel 0).redEntry 0 6 = some aRed ∧ ((delivering [] 0 7).easel 0).firing 0 6 = some (aFiring [] false) ∧
    (delivering [] 0 7).segmentSlot aRed 0 = some 0 ∧ (delivering [] 1 7).segmentSlot aRed 1 = none ∧
    ((delivering [] 0 8).arrival 0 7).map (·.packet.b) = some 8 ∧ 0 ∈ (aFiring [0] false).landed ∧ (delivering [] 0 7).works 0 = true ∧
    ((reducing fun x => { x with firings := [aFiring [0] true] }).easel 0).firing 0 6 = some (aFiring [0] true) := by decide +kernel

theorem witness_GroupMaskSwitch :
    (reducing id).ownerOf 7 0 = some 0 ∧ policy (setting (reducing id) 0x6110 7 (leBytes 8 7)) 0x6110 7 = 7 ∧
    (if ((reducing fun x => { x with openStep := 7 }).easel 0).openStep ≠ 0 then 7 else ((reducing id).easel 0).closedStep) = 7 ∧
    (∀ f ∈ ((reducing id).easel 0).fired, f.1 = 0 → f.2.2 = 7 → (7 : Nat) = 0) := by decide +kernel


/-! ### Codings (R309): payloads made by the published compressors and by hand from the standards -/

def bytesOf (l : List Nat) : List Byte := l.map byteOf

/-- A grey image of 2 by 1 whose row has filter Sub, deflated by zlib. -/
theorem test_png :
    (pngDecode (bytesOf [137, 80, 78, 71, 13, 10, 26, 10, 0, 0, 0, 13, 73, 72, 68, 82, 0, 0, 0, 2, 0, 0, 0, 1, 8, 0, 0, 0, 0, 209, 73, 32, 86,
      0, 0, 0, 11, 73, 68, 65, 84, 120, 218, 99, 12, 96, 5, 0, 0, 171, 0, 87, 169, 227, 145, 218, 0, 0, 0, 0, 73, 69, 78, 68, 174, 66, 96,
      130])).out = some [0x50, 0x55] := by decide +kernel

/-- A frame of libzstd with literals, one sequence and a checksum. -/
theorem test_zstd :
    (zstdDecode (bytesOf [40, 181, 47, 253, 36, 21, 77, 0, 0, 24, 97, 97, 98, 1, 0, 30, 192, 2, 84, 250, 68, 220])).out =
      some (List.replicate 20 97#8 ++ [98#8]) := by decide +kernel

/-- Four samples of eight bits behind a fixed predictor of order 1, with Rice codes of parameter 1. -/
theorem test_flac :
    (flacDecode (bytesOf [102, 76, 97, 67, 128, 0, 0, 34, 0, 16, 16, 0, 0, 0, 0, 0, 0, 0, 10, 196, 64, 112, 0, 0, 0, 4, 0, 0, 0, 0, 0, 0, 0, 0,
      0, 0, 0, 0, 0, 0, 0, 0, 255, 248, 105, 2, 0, 3, 147, 18, 10, 0, 72, 224, 145, 153])).out = some [10, 12, 9, 9] := by decide +kernel

/-- A grey block whose coefficients are all zero: its payload bytes, 64 positions, 64 samples. -/
def greyJpeg : List Byte :=
  bytesOf ([0xFF, 0xD8, 0xFF, 0xDB, 0, 67, 0] ++ List.replicate 64 1 ++ [0xFF, 0xC0, 0, 11, 8, 0, 8, 0, 8, 1, 1, 0x11, 0]
    ++ [0xFF, 0xC4, 0, 20, 0, 1] ++ List.replicate 15 0 ++ [0] ++ [0xFF, 0xC4, 0, 20, 0x10, 1] ++ List.replicate 15 0 ++ [0]
    ++ [0xFF, 0xDA, 0, 8, 1, 1, 0, 0, 63, 0, 0x3F, 0xFF, 0xD9])

theorem test_jpeg : (jpegDecode greyJpeg).work = greyJpeg.length + 64 + 64 ∧ ((jpegDecode greyJpeg).out.map (·.length)) = some 64 := by
  decide +kernel

/-- The identity record begins with its magic, version and die count (Table 17-10). -/
theorem test_identity_head : identityRecord.take 8 = [0x51, 0x49, 0x44, 0x52, 0, 1, 12, 0] := by decide +kernel

/-- A NOTICE is a message of op 0x10 with the notice count and a 32-byte record (Table 16-3). -/
theorem test_notice_head :
    ((noticeBytes 0x1234 { code := 0x0A05, easel := 0xFF, unitClass := 0x0A, unitId := 0, seq := 0, detailA := 0, detailB := 0 }).take 16) =
      [1, 0x10, 0x34, 0x12, 0, 0, 0, 0, 0, 0, 0, 0, 32, 0, 0, 0] := by decide +kernel
/-! ### The fabric -/

/-- The device with VBUS up and port 0 as `f` makes it of an up port. -/
def portAt (f : Port → Port) : State :=
  let s := partnered (commanded (command .started (descriptor 1 0 0 0 0 0 7)))
  s.setPort 0 (f (s.port 0))

/-- Data flit 0 of a port, an idle flit and a NAK, as a peer sends them (Table 13-2). -/
def sentFlit (kind : Nat) : List Byte := flitBytes 0 kind 0xF 0 65535 0 3 []

theorem witness_FlitsTaken :
    linked (portAt id) 0 = true ∧ flitIntact true (sentFlit 0) = true ∧ flitKind (sentFlit 0) = 0 ∧ flitLegal (sentFlit 0) = true ∧
    at8 (sentFlit 0) 2 2 = ((portAt id).port 0).rxSeq ∧ flitIntact false (sentFlit 0) = false ∧ flitIntact true (0 :: (sentFlit 0).drop 1) = true ∧
    flitIntact true (1 :: (sentFlit 0).drop 1) = false ∧ flitLegal (flitBytes 18 0 0 0 0 0 0 []) = false ∧
    flitIntact true (flitBytes 18 0 0 0 0 0 0 []) = true ∧ flitKind (sentFlit 2) = 2 ∧ flitIntact true (sentFlit 2) = true ∧
    flitLegal (sentFlit 2) = true ∧ flitKind (sentFlit 1) = 1 ∧ flitIntact true (sentFlit 1) = true ∧ flitLegal (sentFlit 1) = true ∧
    ((portAt id).port 0).waiting = [] ∧ linked (portAt fun x => { x with state := 1 }) 0 = true := by decide +kernel

theorem witness_PortRetrains :
    ((portAt fun x => { x with naks := 8 }).port 0).up = true ∧ policy (portAt id) 0x6000 5 ≤ 8 ∧
    ((portAt fun x => { x with replay := [(0, sentFlit 0, none)] }).port 0).replay ≠ [] ∧
    (∀ i ∈ ((portAt id).port 0).failed, i ∉ ((portAt id).port 0).lanes) ∧
    (portAt id).badLanes [some 0, some 0, some 0, none, some 0] (insertSet ((portAt id).port 0).lanes (spareLane false)) = [3] ∧
    (∀ i < 5, laneFound (List.replicate 5 (some 0)) i = some 0) ∧ ((portAt id).port 0).ganged = false ∧ ((portAt id).port 0).failed = [] ∧
    (portAt fun x => { x with state := 5 }).port 0 = { (portAt id).port 0 with state := 5 } := by decide +kernel

/-- The device before port 0 comes up; pair 0 is ganged where `ganged` says so. -/
def fabricOn (ganged : Bool) : State :=
  let s := setting (device canvas) 0x6000 1 (leBytes 8 1)
  if ganged then setting s 0x6000 3 (leBytes 4 1) else s

theorem witness_PortBringUp :
    (fabricOn false).vbusUp = true ∧ (policy (fabricOn false) 0x6000 1).testBit 0 = true ∧ ((fabricOn false).port 0).up = false ∧
    (fabricOn false).fabric.refclk.getD (0 / 16) false = true ∧ (fabricOn false).gangs 0 = false ∧ (fabricOn true).gangs 0 = true ∧
    ((fabricOn true).port 1).up = false ∧ (∀ i < 5, laneFound (List.replicate 5 (some 0)) i = some 0) ∧
    (∀ i < 9, laneFound (List.replicate 9 (some 0)) i = some 0) ∧ (fabricOn false).laneBad 0 = false := by decide +kernel

/-- The device in training with its peer's link parameters received: subtype `sub`, flags `flags`, position 5. -/
def greeted (sub flags : Nat) : State :=
  receiving (portAt fun x => { x with state := 1 })
    [{ port := 0, flits := 1, packet := { (arrived 8 17 sub 0 (bytesAt (leBytes 4 sub ++ leBytes 4 5 ++ leBytes 4 flags) 0 64)).packet with type := 8 } }]

theorem witness_PeerParameters :
    ((greeted 1 5).arrival 0 8).map (fun a => (mgmtOk a.packet.payload, a.packet.a, at8 a.packet.payload 0 1, at8 a.packet.payload 4 4)) = some (true, 1, 1, 5) ∧
    ((greeted 1 5).arrival 0 8).map (fun a => ((at8 a.packet.payload 8 1).testBit 0, (at8 a.packet.payload 8 1).testBit 1, at8 a.packet.payload 8 1 / 4)) =
      some (true, false, 1) ∧
    linked (greeted 1 5) 0 = true ∧ ((greeted 1 5).port 0).ganged = false ∧ ((greeted 1 5).port 0).lanes.length = 4 ∧ (greeted 1 5).position = 0xFFFFF ∧
    ((greeted 1 4).arrival 0 8).map (fun a => (at8 a.packet.payload 8 1).testBit 0) = some false ∧
    ((greeted 2 5).arrival 0 8).map (fun a => (mgmtOk a.packet.payload, a.packet.a, at8 a.packet.payload 0 1)) = some (true, 2, 2) := by decide +kernel

theorem witness_SerWindowEnd :
    ((portAt id).port 0).up = true ∧ 3 ∈ ((portAt id).port 0).lanes ∧ (portAt id).laneBad 0 = false ∧ (portAt id).laneBad (2 ^ 30) = true ∧
    (∀ t ∈ (portAt id).fabric.taken, t.1 ≠ 0 / 2) ∧ spareLane ((portAt id).port 0).ganged ∉ ((portAt id).port 0).failed ∧
    (3 : Nat) ≠ spareLane ((portAt id).port 0).ganged ∧ 3 < (portAt id).fabric.refclk.length := by decide +kernel

/-- The device with one packet of channel 0 received. -/
def gotPacket (type a b : Nat) (payload : List Byte) : State := receiving (portAt id) [arrived type 0 a b payload]

def freeCanvas (s : State) : State := s.setSem 9 (aSem 0)

/-- The same with the key of position 5, channel 0 and tag 0 orphaned. -/
def orphan (s : State) : State := { s with fabric := { s.fabric with orphans := [(5, 0, 0)] } }

theorem witness_FarRequests :
    ((gotPacket 1 4096 3 (List.replicate 64 1)).arrival 0 1) = some (arrived 1 0 4096 3 (List.replicate 64 1)) ∧
    (gotPacket 1 0 0 []).reach (arrived 1 0 4096 3 []).packet = .easel 0 ∧ (gotPacket 1 0 0 []).mapped 0 4096 64 = true ∧
    (gotPacket 1 0 0 []).mapped 0 4194304 64 = false ∧
    (gotPacket 1 0 0 []).reach { (arrived 1 0 0 3 []).packet with channel := 1 } = .none ∧
    (gotPacket 1 0 0 []).reach { (arrived 1 0 0 3 []).packet with epoch := 1 } = .epoch ∧
    ((gotPacket 1 0 0 []).onEasel 0 fun x => { x with mode := .faulted }).reach (arrived 1 0 0 3 []).packet = .faulted 0 ∧
    (gotPacket 1 0 0 []).orphaned (arrived 1 0 0 3 []).packet = false ∧ (orphan (gotPacket 1 0 0 [])).orphaned { (arrived 1 0 0 3 []).packet with fenced := true } = true ∧
    (gotPacket 2 4096 (3 + 64 * 65536) []).arrival 0 2 = some (arrived 2 0 4096 (3 + 64 * 65536) []) ∧
    (gotPacket 2 0 0 []).poisonedVa 0 4096 ((3 + 64 * 65536) / 65536) = false := by decide +kernel

theorem witness_FabricSignal :
    (gotPacket 4 9 (3 + 1 * 65536) []).arrival 0 4 = some (arrived 4 0 9 (3 + 1 * 65536) []) ∧
    (((gotPacket 4 9 0 []).easel 0).semDecl 9).isSome = true ∧ (key9 (gotPacket 4 9 0 [])).isSome = true ∧
    (freeCanvas (gotPacket 4 9 0 [])).sem 9 = aSem 0 ∧ key9 (gotPacket 4 9 0 []) = some 9 ∧ (aSem 0).sound = true ∧ 0 + 1 ≤ (aSem 0).max := by decide +kernel

/-- The device with a request of issue 0 outstanding and the packet `q` received. -/
def asking (move : Move) (status : Nat) (payload : List Byte) : State :=
  let q := arrived 3 0 status 3 payload
  let s := flying { aXfer with arbs := [], move }
  let s := { s with
    bind := { s.bind with table := s.bind.table ++ [⟨7, 0, 1, 0, 0⟩] }
    fabric := { s.fabric with ports := [(0, { Port.reset with state := 2, lanes := [0, 1, 2, 3], credits := [(0, 4)] })], masks := [(0, 1)],
                              remotes := [⟨3, 0, (arrived 1 0 4096 3 []).packet, 0, some 0, some 5, none, none, none⟩] } }
  receiving s [q]

theorem witness_FabricResponse :
    ((asking (.remoteWrite none 4096 64 5 0 none) 0 []).arrival 0 3).map (·.packet.a) = some 0 ∧
    (asking (.remoteWrite none 4096 64 5 0 none) 0 []).reach (arrived 3 0 0 3 []).packet = .easel 0 ∧
    ((asking (.remoteWrite none 4096 64 5 0 none) 1 []).remote 3).map (fun r => (r.easel, r.xfer)) = some (0, some 5) ∧
    (asking (.remoteWrite none 4096 64 5 0 none) 1 []).works 0 = true ∧
    ((asking (.remoteWrite none 4096 64 5 0 none) 0 []).xfer 5).map (·.move) = some (.remoteWrite none 4096 64 5 0 none) ∧
    ((asking (.remoteRead 4096 1024 64 5 0) 0 (List.replicate 64 7)).xfer 5).map (·.move) = some (.remoteRead 4096 1024 64 5 0) ∧
    ((asking (.remoteRead 4096 1024 64 5 0) 2 (List.replicate 64 7)).arrival 0 3).map (fun a => (a.packet.a, a.packet.payload.length)) = some (2, 64) := by
  decide +kernel

/-- The device with a fence key, a posted signal received and a tagged packet landed. -/
def fenced (n : Nat) (f : Option Fence) : State :=
  let s := gotPacket 5 9 (2 + n * 65536) []
  { s with fabric := { s.fabric with fences := f.toList, landed := [arrived 1 0 4096 3 []] } }

def aFence (landed : Nat) (posted : Option (Nat × Nat × Nat)) : Fence := ⟨0, 5, 0, 0, landed, posted⟩

theorem witness_FencesHold :
    (fenced 1 none).arrival 0 5 = some (arrived 5 0 9 (2 + 1 * 65536) []) ∧ (fenced 1 none).reach (arrived 5 0 9 0 []).packet = .easel 0 ∧
    (fenced 1 none).postedBlocked (arrived 5 0 9 0 []).packet = false ∧ (fenced 1 (some (aFence 1 none))).postedBlocked (arrived 5 0 9 0 []).packet = false ∧
    (fenced 1 (some (aFence 2 none))).fence 5 0 0 = some (aFence 2 none) ∧ (fenced 1 none).fence 5 0 0 = none ∧
    (((fenced 1 none).easel 0).semDecl 9).isSome = true ∧ key9 (fenced 1 none) = some 9 ∧ (freeCanvas (fenced 1 none)).sem 9 = aSem 0 ∧
    (fenced 1 none).fabric.landed[0]? = some (arrived 1 0 4096 3 []) ∧ (fenced 1 none).ownerOf 7 0 = some 0 ∧ (0 : Nat) = (fenced 1 none).epoch 0 ∧
    (fenced 1 (some (aFence 0 (some (9, 2, 1))))).fence 5 0 0 = some (aFence 0 (some (9, 2, 1))) ∧ 0 + 1 < 2 ∧ 2 ≤ 1 + 1 ∧
    (fenced 1 (some (aFence 1 none))).works 0 = true := by decide +kernel

/-! ### The object dictionary and binding -/

/-- A message (Table 16-3) over the host link, which gives the role owner. -/
def message (op index sub : Nat) (data : List Byte) : Msg :=
  let h := [1] ++ leBytes 1 op ++ leBytes 2 7 ++ leBytes 2 index ++ leBytes 1 sub ++ [0] ++ leBytes 4 0 ++ leBytes 2 data.length ++ List.replicate 10 0 ++ data
  ⟨.pcie, 0, 0, h ++ leBytes 4 (crc32c h), true, false⟩

/-- The same over the management port, which gives the role anonymous. -/
def anonymously (m : Msg) : Msg := { m with transport := .t1s }

/-- A CU32 value (R6): a word and its complement. -/
def cu32 (v : Nat) : List Byte := leBytes 4 v ++ leBytes 4 (2 ^ 32 - 1 - v)

/-- A request that reaches the Curator whole and in form, as a Bool. -/
def served (s : State) (m : Msg) (role : Role) : Bool :=
  decide (s.dict.turn = false) && decide (m.later = false) && decide (s.dict.waiting = []) && s.transportUp m.transport && msgIntact m &&
    decide (s.roleOf m = some role) && decide (s.remembered m = none) && formatOk m

theorem served_spec {s : State} {m : Msg} {role : Role} (h : served s m role = true) : Served s m role := by
  simp only [served, Bool.and_eq_true, decide_eq_true_eq] at h
  obtain ⟨⟨⟨⟨⟨⟨⟨h1, h2⟩, h3⟩, h4⟩, h5⟩, h6⟩, h7⟩, h8⟩ := h
  exact ⟨⟨h1, h2, h3⟩, h4, h5, h6, h7, h8⟩

/-- A write of a CMD entry that only the action's own conditions can refuse, as a Bool. -/
def accepted (s : State) (m : Msg) : Bool := served s m .owner && decide ((s.countMgmt 0).commandStatus m .owner (fun _ _ => 0) = 0)

theorem accepted_spec {s : State} {m : Msg} (h : accepted s m = true) : Accepted s m := by
  simp only [accepted, Bool.and_eq_true, decide_eq_true_eq] at h
  exact ⟨.owner, served_spec h.1, h.2⟩

def entryIs (index sub : Nat) (p : Entry → Bool) : Bool := match entry index sub with | some x => p x | none => false

theorem witness_Read :
    served (device canvas) (message 1 0x3000 1 []) .owner = true ∧ mOp (message 1 0x3000 1 []) = 1 ∧ mOffset (message 1 0x3000 1 []) = 0 ∧
    mLast (message 1 0x3000 1 []) = false ∧ (device canvas).permitted .owner 1 0x3000 1 = true ∧
    entryIs 0x3000 1 (fun x => x.access != 3 && x.access != 6 && x.ty != 0x0A) = true ∧ (device canvas).withheld 0x3000 1 = false ∧
    served (device canvas) (anonymously (message 1 0x3000 1 [])) .anonymous = true ∧ (device canvas).permitted .anonymous 1 0x3000 1 = false := by
  decide +kernel

/-- Easel 0 reads as BOUND, mode 2 (Table 2-2). -/
theorem test_read_mode : (device canvas).value 0x3000 1 = [2] := by decide +kernel

/-- The write of the plain entry at `index` and `sub` passes every check, as a Bool. -/
def writeOk (s : State) (m : Msg) : Bool :=
  served s m .owner && mOp m = 2 && s.permitted .owner 2 (mIndex m) (mSub m) && mOffset m = 0 && !mLast m && !s.withheld (mIndex m) (mSub m) &&
  entryIs (mIndex m) (mSub m) fun x => x.ty != 0x0A && x.ty != 0x0B && s.writeCheck m x (some []) = 0

theorem writeOk_spec {s : State} {m : Msg} (h : writeOk s m = true) : WriteOk s m := by
  unfold writeOk entryIs at h
  cases he : entry (mIndex m) (mSub m) with
  | none => simp [he] at h
  | some x =>
    simp only [he, Bool.and_eq_true, decide_eq_true_eq, Bool.not_eq_true', bne_iff_ne] at h
    obtain ⟨⟨⟨⟨⟨⟨h1, h2⟩, h3⟩, h4⟩, h5⟩, h6⟩, ⟨h7, h8⟩, h9⟩ := h
    exact ⟨.owner, x, served_spec h1, h2, he, h3, h4, h5, h7, h8, h6, h9⟩

theorem witness_Write :
    writeOk (device canvas) (message 2 0x5000 4 (leBytes 2 720)) = true ∧ ownRow 0x5000 4 = false ∧
    writeOk (device canvas) (message 2 0x5000 4 (leBytes 2 721)) = false ∧ writeOk (device canvas) (message 2 0x5000 4 (leBytes 4 0)) = false ∧
    writeOk (device canvas) (message 2 0x6100 1 (leBytes 4 9)) = true := by decide +kernel

theorem witness_WriteOk : WriteOk (device canvas) (message 2 0x5000 4 (leBytes 2 720)) := writeOk_spec witness_Write.1

/-- The device with `n` requests waiting for the Curator, or one whose turn it is. -/
def behind (n : Nat) (turn : Bool) : State :=
  { device canvas with dict := { (device canvas).dict with waiting := List.replicate n (.read (message 1 0x3000 1 [])), turn } }

theorem witness_RequestsQueue :
    (device canvas).transportUp .pcie = true ∧ (device canvas).roleOf (message 1 0x3000 1 []) ≠ none ∧ (behind 63 false).dict.waiting.length < 64 ∧
    64 ≤ (behind 64 false).dict.waiting.length ∧ (behind 63 false).dict.waiting ≠ [] ∧ ({ message 1 0x3000 1 [] with later := true } : Msg).later = true ∧
    (behind 1 true).dict.turn = true ∧ (behind 1 true).remembered (message 1 0x3000 1 []) = none ∧ formatOk (message 1 0x3000 1 []) = true ∧
    (behind 1 true).permitted .owner 1 0x3000 1 = true ∧ (behind 1 true).withheld 0x3000 1 = false := by decide +kernel

theorem witness_List :
    served (device canvas) (message 3 0x1000 0 []) .owner = true ∧ mOp (message 3 0x1000 0 []) = 3 ∧
    (((device canvas).countMgmt 0).listEntries (message 3 0x1000 0 []) .owner).status = 0 := by decide +kernel

/-- The device that has answered a read of the mode of easel 0. -/
def readOnce : State := replied (device canvas) (message 1 0x3000 1 []) ⟨0, 0, 0, 0, [2]⟩

theorem witness_Remembered :
    readOnce.transportUp .pcie = true ∧ msgIntact (message 1 0x3000 1 []) = true ∧ readOnce.roleOf (message 1 0x3000 1 []) = some .owner ∧
    readOnce.remembered (message 1 0x3000 1 []) = some (replyBytes (message 1 0x3000 1 []) ⟨0, 0, 0, 0, [2]⟩) := by decide +kernel

/-- The device with a fault record that waits at the Curator. -/
def informed (code : Nat) : State := { device canvas with dict := { (device canvas).dict with intake := [⟨code, 0, 1, 0, 0, 0, 0⟩] } }

theorem witness_CuratorTimes :
    (informed 0x0501).dict.running = true ∧ (informed 0x0501).dict.intake ≠ [] ∧ (policy (setting (informed 0x0501) 0x1100 7 (leBytes 4 0x20)) 0x1100 7).testBit (0x0501 / 256) = true ∧
    (policy (setting (informed 0x0501) 0x1100 7 (leBytes 4 2)) 0x1100 7).testBit (0x0501 / 256) = false ∧
    (setting (informed 0x0501) 0x1100 6 (leBytes 24 1)).noticeTarget 0 = some 1 ∧
    (device canvas).transportUp .t1s = true ∧ (device canvas).linkLocal.length = 16 ∧ (written (device canvas).dict 0x1100 2).take 16 ≠ List.replicate 16 1 ∧
    (device canvas).linkLocal ≠ List.replicate 16 1 ∧ (device canvas).power.vio = true ∧ (device canvas).power.vaux = true ∧
    policy (device canvas) 0x1100 5 = 0 := by decide +kernel

/-- A staged request (Table 2-4) of one extent. -/
def request (op easel source flags timeout cls first count place : Nat) : List Byte :=
  leBytes 1 op ++ leBytes 1 easel ++ leBytes 1 source ++ leBytes 1 flags ++ leBytes 2 1 ++ [0, 0] ++ leBytes 4 timeout ++ leBytes 4 0x55 ++
  leBytes 1 cls ++ [0, 0, 0] ++ leBytes 4 first ++ leBytes 4 count ++ leBytes 4 place

/-- The device with a request staged. -/
def asked (b : List Byte) : State := setting (device canvas) 0x3100 1 b

/-- `bind_execute`. -/
def bindNow : Msg := message 2 0x3100 2 (cu32 0)

/-- Tile 1 to easel 1; tile 0 away from easel 0; tile 0 to easel 1; the last two forced. -/
def aBind : List Byte := request 1 1 0 0 1000 1 1 1 0
def anUnbind : List Byte := request 2 0 0 0 1000 1 0 1 0
def aMove : List Byte := request 3 1 0 0 1000 1 0 1 0
def aForcedUnbind : List Byte := request 2 0 0 1 0 1 0 1 0
def aForcedMove : List Byte := request 3 1 0 1 0 1 0 1 0

def passes (b : List Byte) : Bool :=
  accepted (asked b) bindNow && writes bindNow 0x3100 2 && decide (written (asked b).dict 0x3100 1 = b) && (asked b).bind.request.isNone && (asked b).vbusUp &&
  decide ((answered (asked b) bindNow 0).checkRequest b = none)

theorem witness_RequestsBegin :
    passes aBind = true ∧ passes anUnbind = true ∧ passes aMove = true ∧ passes aForcedUnbind = true ∧ passes aForcedMove = true ∧
    (answered (asked (request 1 1 0 0 0 1 0 1 0)) bindNow 0).checkRequest (request 1 1 0 0 0 1 0 1 0) = some (0x03, 0) ∧
    (answered (asked (request 3 1 0 0 60001 1 0 1 0)) bindNow 0).checkRequest (request 3 1 0 0 60001 1 0 1 0) = some (0x01, 0xFFFF) ∧
    (asked aBind).bind.revoke = [] ∧ ((asked aMove).easel 0).holdsRequest false = false ∧ ((asked aMove).easel 1).holdsRequest true = false ∧ ((asked anUnbind).easel 0).mode = .bound ∧
    (((asked anUnbind).onEasel 0 fun x => { x with mode := .faulted }).easel 0).mode ≠ .bound ∧ ((asked aBind).easel 1).mode = .free ∧
    (((asked anUnbind).onEasel 0 fun x => { x with cmds := [command .started (descriptor 3 0 0 0 0 0 0)] }).easel 0).holdsRequest false = true := by decide +kernel

/-- The device in a request of tile 0. -/
def requested (op : Nat) (mode : EaselMode) (draining : Bool) (cmds : List Cmd) : State :=
  let r : Request := { op, easel := 0, source := 0, forced := false, erase := false, tag := 0x55, extents := [(1, 0, 1, 0)], draining, clearing := !draining,
                       before := .bound, beforeSource := .bound }
  { (device canvas).onEasel 0 fun x => { x with mode, cmds } with bind := { (device canvas).bind with request := some r } }

/-- The same of a bind of tile 1 to easel 1. -/
def binding : State :=
  let r : Request := { op := 1, easel := 1, source := 0, forced := false, erase := false, tag := 0x55, extents := [(1, 1, 1, 0)], draining := false,
                       clearing := true, before := .free, beforeSource := .free }
  { (device canvas).onEasel 1 fun x => { x with mode := .binding } with bind := { (device canvas).bind with request := some r } }

theorem witness_RequestsEnd :
    ((requested 2 .draining true []).easel 0).mode = .draining ∧ (requested 2 .draining true []).bind.revoke = [] ∧
    ((requested 2 .draining true []).easel 0).cmds = [] ∧
    (∃ c ∈ ((requested 2 .draining true [command .started []]).easel 0).cmds, c.phase ≠ .taken) ∧
    ((requested 2 .clearing false []).bind.request.map fun r => (r.clearing, r.releases)) = some (true, 0) ∧
    (binding.bind.request.map (·.op)) = some 1 ∧ binding.bindable 1 = true ∧ binding.dict.running = true ∧ (∀ q ∈ binding.bind.retired, q.1 ≠ 2 ∧ q.1 ≠ 3) ∧ (binding.easel 1).mode = .binding ∧
    accepted ((device canvas).onEasel 0 fun x => { x with mode := .faulted }) (message 2 0x3000 9 (cu32 0)) = true ∧
    mValue (message 2 0x3000 9 (cu32 0)) = 0 ∧ (device canvas).vbusUp = true ∧ accepted (device canvas) (message 2 0x3000 9 (cu32 1)) = true ∧
    mValue (message 2 0x3000 9 (cu32 1)) ≠ 0 ∧ ((device canvas).easel 0).mode ≠ .faulted := by decide +kernel

/-! ### Resets and the link -/

/-- Easel 1 BOUND with a page, VF 1 enabled. -/
def twoEasels : State :=
  { (device canvas).setEasel 1 (working canvas) with bind := { (device canvas).bind with table := insertExtent (device canvas).bind.table ⟨2, 5, 1, 0, 1⟩ } }

def inD3 (f : Nat) : State := { twoEasels with host := { twoEasels.host with d3hot := [f] } }

def linkDown : State := { device canvas with host := { attached with linkUp := false } }

theorem witness_FunctionsReset :
    twoEasels.vbusUp = true ∧ twoEasels.functionOn 1 = true ∧ twoEasels.functionOn 2 = true ∧ (twoEasels.easel 2).mode = .free ∧ (twoEasels.easel 1).mode = .bound ∧ 1 ∈ (inD3 1).host.d3hot ∧
    (⟨2, 5, 1, 0, 1⟩ : Extent) ∈ twoEasels.bind.table ∧ twoEasels.host.linkUp = true ∧ twoEasels.host.perst = false ∧ twoEasels.bind.request = none ∧
    1 < twoEasels.host.numVfs ∧ (requested 2 .draining true []).bind.request ≠ none ∧ 0 < (requested 2 .draining true []).host.numVfs ∧
    twoEasels.power.vio = true ∧ twoEasels.power.vaux = true ∧ linkDown.host.perst = false ∧ linkDown.power.calibrated = true ∧
    linkDown.host.linkUp = false ∧ twoEasels.functionOn 3 = false := by decide +kernel

/-- The example of Table 16-16: 3,000 W is accepted as `power_limit_w`, 3,600 W receives RANGE (0x07), and the execute value is whole. -/
theorem test_power_limit :
    writeOk (device canvas) (message 2 0x2000 1 [0xB8, 0x0B]) = true ∧
    ((entry 0x2000 1).map fun x => (device canvas).writeCheck (message 2 0x2000 1 (leBytes 2 3600)) x (some [])) = some 0x07 ∧
    cu32Ok [0x51, 0, 0, 0, 0xAE, 0xFF, 0xFF, 0xFF] = true := by decide +kernel

/-- After order 2 of Table 16-17, `easel_mode` of the easel receives BOUND (0x08); before it, the write passes. -/
theorem test_easel_mode :
    ((entry 0x3001 3).map fun x => (binding.writeCheck (message 2 0x3001 3 [1]) x (some []), (asked aBind).writeCheck (message 2 0x3001 3 [1]) x (some []))) =
      some (0x08, 0) := by decide +kernel

/-! ### Actions of the dictionary -/

/-- Easel 0 at rest on its canvas, with a partner, a group of two devices and the record `b` staged at `sub` of 0x9040. -/
def resting (sub : Nat) (b : List Byte) : State := setting (grouped (device canvas)) 0x9040 sub b

def restoreRecord : List Byte := [1, 0, 0, 0] ++ leBytes 4 5 ++ leBytes 8 7 ++ leBytes 8 0

def takeoverRecord : List Byte := leBytes 4 9 ++ leBytes 2 1 ++ [0, 0] ++ leBytes 8 7 ++ leBytes 4 5 ++ List.replicate 4 0 ++ leBytes 8 0

def spreadRecord : List Byte :=
  leBytes 2 1 ++ leBytes 2 4 ++ [0, 0, 0, 0] ++ leBytes 8 4096 ++ leBytes 8 384 ++ leBytes 4 5 ++ leBytes 4 0 ++ leBytes 8 0 ++ leBytes 4 0 ++ leBytes 4 0 ++
  leBytes 8 8192

theorem witness_RestoreExecute :
    accepted (resting 0x10 restoreRecord) (message 2 0x9040 0x11 (cu32 0)) = true ∧ ((resting 0x10 restoreRecord).easel 0).restore = none ∧
    (resting 0x10 restoreRecord).vbusUp = true ∧ ((resting 0x10 restoreRecord).easel 0).mode = .bound ∧ ((resting 0x10 restoreRecord).easel 0).cmds = [] ∧
    ((resting 0x10 restoreRecord).easel 0).canvas.isSome = true ∧ written (resting 0x10 restoreRecord).dict 0x9040 0x10 = restoreRecord ∧
    restoreRecord.length = 24 ∧ rsv restoreRecord 2 2 = true ∧ at8 restoreRecord 8 8 < 2 ^ 48 ∧ at8 restoreRecord 0 1 = 1 ∧
    (resting 0x10 restoreRecord).ownPort (((resting 0x10 restoreRecord).drainChannel 0).getD 16) ≠ none := by decide +kernel

theorem witness_TakeoverExecute :
    accepted (resting 0x12 takeoverRecord) (message 2 0x9040 0x13 (cu32 0)) = true ∧ ((resting 0x12 takeoverRecord).easel 0).canvas.map (·.id) = some 7 ∧
    takeoverRecord.length = 32 ∧ rsv takeoverRecord 7 1 = true ∧ rsv takeoverRecord 20 4 = true ∧ at8 takeoverRecord 0 4 < 2 ^ 20 - 1 ∧
    at8 takeoverRecord 8 8 = 7 ∧ at8 takeoverRecord 6 1 = 0 ∧ (resting 0x12 takeoverRecord).holds 0 7 0 = true ∧
    at8 takeoverRecord 4 2 < ((resting 0x12 takeoverRecord).group 0).1 ∧
    ((answered (resting 0x12 takeoverRecord) (message 2 0x9040 0x13 (cu32 0)) 0).commitValue (0x6110 + 0) 2 false (leBytes 2 1)).reductionsOk 0 = true ∧
    (resting 0x12 takeoverRecord).ownPort 0 ≠ none := by decide +kernel

/-- The device at a spreading whose image stands at easel address 4,096. -/
def spreading : State := stored (resting 0x14 spreadRecord) theImage

def loadsAs (s : State) (id : Nat) : Bool := match s.loadAt 0 4096 384 false with | .inr cv => cv.id = id | .inl _ => false

theorem witness_SpreadExecute :
    accepted spreading (message 2 0x9040 0x15 (cu32 0)) = true ∧ (spreading.easel 0).canvas.isSome = true ∧ spreadRecord.length = 56 ∧
    rsv spreadRecord 5 3 = true ∧ rsv spreadRecord 28 4 = true ∧ rsv spreadRecord 44 4 = true ∧ at8 spreadRecord 4 1 = 0 ∧ spreading.holds 0 7 0 = true ∧
    at8 spreadRecord 0 2 < (spreading.group 0).1 ∧ at8 spreadRecord 0 2 ≠ (spreading.group 0).2 ∧ spreading.mapped 0 4096 384 = true ∧
    spreading.spreadTable 0 spreadRecord ≠ none ∧ spreading.ownPort 0 ≠ none := by decide +kernel

theorem witness_SpreadImage : loadsAs ((answered spreading (message 2 0x9040 0x15 (cu32 0)) 0).rebindChannel 0 0 4 1) 99 = true := by decide +kernel

/-- A firmware image with Quelum's key and a body of 64 zeros (Table 17-11). -/
def fwBody : List Byte := List.replicate 64 0

def fwHead : List Byte :=
  leBytes 4 0x49574651 ++ leBytes 2 0x0100 ++ [0, 0] ++ leBytes 4 3 ++ leBytes 4 0 ++ leBytes 8 4288 ++ leBytes 8 0 ++ leBytes 32 24612889459852004596688511491258153867685463960769261320922312518792956257662 ++ leBytes 4 128 ++
  leBytes 4 2176 ++ List.replicate 56 0

def fwTail : List Byte := (leBytes 2 1 ++ [0xFF, 0] ++ [9] ++ List.replicate 2043 0) ++ fwBody

def fwImage (key : List Byte) : List Byte := fwHead ++ (leBytes 2 1793 ++ (key ++ (List.replicate 253 0 ++ fwTail)))

theorem fwImage_key (key : List Byte) (h : key.length = 1793) : keyOf (fwImage key) 128 = key := by
  have h1 : (fwHead ++ leBytes 2 1793).length = 130 := by decide +kernel
  unfold keyOf bytesAt fwImage
  rw [← List.append_assoc, ← List.append_assoc, List.append_assoc _ key, List.drop_left' h1, List.take_left' h]
  simp [h]

/-- Quelum's key. -/
def quelum : List Byte := (List.range 1793).map Config.romKey

theorem fwImage_form :
    imageHeaderOk (fwImage quelum) 0x49574651 128 33554432 = true ∧ keyForm (fwImage quelum) 128 = true ∧ at8 (fwImage quelum) 2178 1 = 0xFF ∧
    at8 (fwImage quelum) 8 4 = 3 ∧ bodyDigestOk (fwImage quelum) = true := by
  refine ⟨?_, ?_, ?_, ?_, ?_⟩ <;> decide +kernel

theorem witness_FwImage (s : State) (h : s.trust.minSec ≤ 3) : s.firmwareOk (fwImage quelum) true = true := by
  obtain ⟨h1, h2, h3, h4, h5⟩ := fwImage_form
  have hk : keyOf (fwImage quelum) 128 = quelum := fwImage_key quelum (by simp [quelum])
  have hd : romKeyDigest = shake256 quelum := rfl
  simp [State.firmwareOk, h1, h2, h3, h4, h5, hk, h, hd]

def staging (sub : Nat) (b : List Byte) : State := setting (device canvas) 0x1800 sub b

theorem witness_FwCommit :
    accepted (staging 8 []) (message 2 0x1800 9 (cu32 0)) = true ∧ writes (message 2 0x1800 9 (cu32 0)) 0x1800 9 = true ∧
    mValue (message 2 0x1800 9 (cu32 0)) = 0 ∧ (staging 8 []).trust.minSec ≤ 3 ∧ accepted (device canvas) (message 2 0x1800 0x0A (cu32 0)) = true ∧
    ((device canvas).trust.image (device canvas).trust.runningSlot).isSome = true := by decide +kernel

theorem witness_FwStaged : written (staging 8 (fwImage quelum)).dict 0x1800 8 = fwImage quelum := by
  simp [staging, setting, written]

/-- A configuration image of no record, signed with key slot 2 (Table 17-11). -/
def cfgImage : List Byte :=
  leBytes 4 0x47464351 ++ leBytes 2 0x0100 ++ [0, 0] ++ leBytes 4 5 ++ leBytes 4 0 ++ leBytes 8 4288 ++ leBytes 8 0 ++
  leBytes 32 24612889459852004596688511491258153867685463960769261320922312518792956257662 ++ leBytes 4 0 ++ leBytes 4 2176 ++ List.replicate 56 0 ++
  List.replicate 2048 0 ++ (leBytes 2 1 ++ [2, 0] ++ [9] ++ List.replicate 2043 0) ++ fwBody

/-- The device with an owner key in slots 2 and 3, the PUF seed there, and `b` staged. -/
def owned (sub : Nat) (b : List Byte) : State :=
  { staging sub b with trust := { (device canvas).trust with pufOk := true, identityOk := true, keySlots := [(2, 1, [], []), (3, 1, [], [])] } }

theorem witness_ConfigCommit :
    accepted (owned 0x0C cfgImage) (message 2 0x1800 0x0D (cu32 0)) = true ∧
    ((owned 0x0C cfgImage).checkConfig (written (owned 0x0C cfgImage).dict 0x1800 0x0C) true).map (·.version) = some 5 ∧
    (owned 0x0C cfgImage).trust.commitCopy = 1 := by decide +kernel

/-- A staged key and its proof (R455) for slot 4. -/
def keyProof : List Byte :=
  (leBytes 2 1793 ++ List.replicate 1793 6 ++ List.replicate 253 0) ++ (leBytes 2 1 ++ [4, 0] ++ [9] ++ List.replicate 2043 0)

theorem witness_Keys :
    accepted (owned 3 keyProof) (message 2 0x1800 4 (cu32 4)) = true ∧ mValue (message 2 0x1800 4 (cu32 4)) = 4 ∧ (4 : Nat).testBit 8 = false ∧
    (owned 3 keyProof).enrolCheck true 4 = 0 ∧ (owned 3 keyProof).enrolCheck true 5 = 0x07 ∧
    mValue (message 2 0x1800 4 (cu32 (256 + 2))) = 258 ∧ (258 : Nat).testBit 8 = true ∧ accepted (owned 3 []) (message 2 0x1800 4 (cu32 258)) = true ∧
    (owned 3 []).revokeCheck 258 = 0 := by decide +kernel

theorem witness_FabricPositionWrite : WriteOk (device canvas) (message 2 0x6100 1 (leBytes 4 9)) := writeOk_spec witness_Write.2.2.2.2

/-- The device stopped by a power stage out of rating, or by heat; its dies are cool. -/
def stopped (state cause : Nat) : State := { device canvas with power := { powered with vbusState := state, stopCause := cause } }

/-- Trace unit 0 armed in trigger mode on easel 0's first page. -/
def traced : State :=
  { setting (device canvas) 0xB000 2 (leBytes 8 1) with
    obs := { Obs.reset with trace := [(0, { TraceUnit.reset with armed := true, sink := (1, 0, 4096, 65536) })] } }

/-- A self-test under way, and a sketch of easel 0 under way. -/
def testing : State := { device canvas with bind := { (device canvas).bind with selftest := 1 + 65536 } }

def sketching : State := { device canvas with obs := { Obs.reset with sketchEasel := some 0 } }

theorem witness_ActionsOfCare :
    accepted (stopped 4 16) (message 2 0x2000 0x0B (cu32 0)) = true ∧ (stopped 4 16).restartCheck 0 = 0 ∧ (stopped 4 16).power.stopCause ≠ 7 ∧
    (device canvas).restartCheck 0 ≠ 0 ∧ accepted (device canvas) (message 2 0x2000 0x0B (cu32 0)) = true ∧
    accepted (device canvas) (message 2 0x4000 3 (cu32 1)) = true ∧ (device canvas).selftestCheck 1 = 0 ∧ testing.bind.selftest / 65536 = 1 ∧
    accepted (device canvas) (message 2 0xB000 3 (cu32 63)) = true ∧ accepted traced (message 2 0xB000 0x0A (cu32 15)) = true ∧
    accepted traced (message 2 0xB000 0x0B (cu32 15)) = true ∧ traced.vbusUp = true ∧ (15 : Nat).testBit 0 = true ∧ (14 : Nat).testBit 0 = false ∧
    (traced.traceUnit 0).armed = true ∧ (traced.traceUnit 0).mode = 2 ∧ (traced.traceUnit 0).state = 0 ∧ (traced.traceUnit 0).triggered = false ∧
    traced.sinkValid (traced.traceUnit 0).sink = true ∧ (∀ d < 4, (traced.traceUnit d).stage.length < 4096) ∧
    (∀ q ∈ sketching.sems, q.2.sound = true) ∧ (∀ q ∈ (device canvas).sems, q.2.sound = true) ∧ sketching.vbusUp = true ∧ sketching.obs.sketchEasel = some 0 ∧ sketching.dict.running = true ∧
    (device canvas).obs.sketchEasel = none ∧ accepted sketching (message 2 0xB000 3 (cu32 63)) = true := by decide +kernel

/-- A device that answers SPDM over the management port, with an owner key in slot 2 and `n` sessions. -/
def attesting (n : Nat) (finished : Bool) : State :=
  { owned 3 [] with dict := { (device canvas).dict with
    sessions := (List.range n).map fun i => ⟨i + 1, .t1s, .owner, 2, 0, finished⟩, nextSession := n + 1 } }

def query : Spdm := ⟨.t1s, 0, 1, []⟩

theorem witness_SpdmAnswers :
    (attesting 1 true).transportUp .t1s = true ∧ (attesting 1 true).trust.recovery = false ∧ (attesting 1 true).trust.pufOk = true ∧ (attesting 1 true).attests = true ∧
    (device canvas).trust.pufOk = false ∧ (attesting 15 true).dict.sessions.length < 16 ∧ 16 ≤ (attesting 16 true).dict.sessions.length ∧
    ((attesting 1 true).keySlot 2).1 = 1 ∧ ((attesting 1 false).spdmSession query).map (·.finished) = some false ∧
    ((attesting 1 true).spdmSession query).map (·.finished) = some true := by decide +kernel

/-! ### The host interface -/

/-- Queue 0 of easel 0 and its event queue as `u` says; the tail may lead the head by the ring's size. -/
def queued (u : Queue) : State := (device canvas).onEasel 0 fun x => { x with queues := [(0, u)], events := u }

def aRing : Queue := { Queue.reset 0 with size := 64, enable := true, irq := true, state := 1, head := 2 ^ 32 - 1, tail := 2 ^ 32 - 1 }

def idleRing : Queue := { Queue.reset 0 with size := 64 }

theorem witness_HostAccesses :
    (queued aRing).reachable 0 = true ∧ (queued aRing).asked (.bar2 0 true) = none ∧
    (arbiterAsk ⟨6, .bar2 0 true, 8192, [.hbm 0]⟩).asked (.bar2 0 true) ≠ none ∧ (arbiterAsk ⟨6, .bar2 0 true, 8192, [.hbm 0]⟩).reachable 0 = true ∧
    ((queued aRing).easel 0).queueAt 0 = aRing ∧ (queued aRing).ownsQueue 0 0 = true ∧ aRing.state ≠ 3 ∧
    (queued aRing).bound 0 = true ∧ since 63 aRing.head ≤ aRing.size ∧ aRing.size < since 64 aRing.head ∧ idleRing.enable = false ∧
    ((queued aRing).easel 0).mode ≠ .free ∧ ((queued aRing).easel 0).queueAt 32 = aRing ∧ since aRing.tail (2 ^ 32 - 1) ≤ aRing.size ∧
    (queued idleRing).enableLegal 0 0 (idleRing.control 1) = true ∧ (idleRing.control 1).enable = false ∧
    (queued { idleRing with size := 65 }).enableLegal 0 0 ({ idleRing with size := 65 } : Queue) = false ∧ (queued aRing).ownsQueue 0 32 = true ∧
    (2 ^ 48 - 2097152) % 2097152 = 0 := by decide +kernel

/-- A device with function 0 in D3hot. -/
def asleep : State := { device canvas with host := { attached with d3hot := [0] } }

/-- A BAR2 write of function 0 granted by its arbiters, with a doorbell of queue 0 behind it. -/
def ringing : State :=
  { arbiterAsk ⟨6, .bar2 0 true, 8192, []⟩ with host := { attached with doorbells := [(0, 0, 5)] } }

theorem witness_Windows :
    (device canvas).answers 0 = true ∧ 0 ∉ (device canvas).host.d3hot ∧ (device canvas).arbsVa 0 0 60 8 = [.hbm 0] ∧
    (∀ d ∈ (device canvas).host.doorbells, d.1 ≠ 0) ∧ (ringing.host.doorbells = [(0, 0, 5)]) ∧ ringing.answers 0 = true ∧
    ringing.asked (.bar2 0 true) = some ⟨6, .bar2 0 true, 8192, []⟩ ∧ ringing.bar2Ok 0 0 8 = true ∧
    (device canvas).bar2Ok 0 4194240 64 = true ∧ (device canvas).bar2Ok 0 4194240 65 = false ∧ 0 ∈ asleep.host.d3hot ∧
    (∀ p ∈ piecesOf 64 60 8, (device canvas).poisonedVa 0 (p.1 / 64 * 64) 64 = false) := by decide +kernel

theorem witness_Holdoff :
    ({ aRing with inHoldoff := true } : Queue).inHoldoff = true ∧ aRing.covered = false ∧
    (((queued { aRing with inHoldoff := true, covered := true }).onEasel 0 fun x => { x with msix := [(0, ⟨0, 0, false, false⟩)] }).easel 0).queueAt 0 =
      { aRing with inHoldoff := true, covered := true } ∧
    ((((queued aRing).onEasel 0 fun x => { x with msix := [(0, ⟨0, 0, false, false⟩)] }).easel 0).vectorAt 0).masked = false ∧
    (stopped 3 3).vbusUp = false ∧ (stopped 3 3).host.linkUp = true ∧ (device canvas).host.numVfs ≤ min 2 63 := by decide +kernel

/-! ### Power -/

theorem witness_SuppliesReported :
    (device canvas).dict.running = true ∧ (device canvas).power.vbus = true ∧ (device canvas).power.vaux = true ∧ 1 ∉ (device canvas).power.raised ∧
    1 ∈ ((device canvas).markCause 1).power.raised ∧ ({ powered with overLimit := true, coreMv := 550 } : Power).coreMv = 550 ∧
    (device canvas).vbusUp = true ∧ (device canvas).vbusOn = true ∧ 5 ∉ (device canvas).power.stages ∧ (device canvas).power.vio = true := by decide +kernel

theorem witness_DomainStops :
    (device canvas).bind.request = none ∧ (device canvas).vbusOn = true ∧ (device canvas).vbusUp = true ∧ (device canvas).power.vaux = true := by
  decide +kernel

/-- All checks of a boot hold. -/
def allWell : BootChecks := ⟨true, true, true, true, true, true⟩

/-- VAUX present and the management part done. -/
def managed : State := { State.reset with power := { Power.reset with vaux := true, vio := true }, dict := { Dict.reset with running := true } }

theorem witness_DomainStarts :
    State.reset.slotBoots allWell State.reset.trust.preferred = true ∧ State.reset.power.vaux = false ∧ managed.slotBoots allWell 0 = true ∧
    managed.power.vio = true ∧ managed.bind.request = none ∧ managed.dict.running = true ∧ managed.trust.recovery = false ∧ managed.power.vbusState = 0 ∧
    managed.power.stopCause ≠ 7 ∧ (stopped 0 thermalCause).cool = true ∧ (stopped 3 9).power.vbusState = 3 ∧ (stopped 3 9).power.vaux = true ∧ (stopped 3 9).dict.running = true ∧ (stopped 3 9).trust.recovery = false ∧
    (stopped 4 16).power.vbusState = 4 ∧
    (({ managed with power := { managed.power with vbusState := 1, waitRefclk := true } } : State).power.waitRefclk) = true ∧
    managed.power.testEn = false ∧ managed.power.vaux = true := by decide +kernel

/-- The start-up of log entry 6: each row does its part, and easel 0 is BOUND with command queue 0. -/
theorem test_start_up :
    let s1 := after (exec (.vauxPowerOn allWell) State.reset)
    let s2 := after (exec (.vioPresent false) s1)
    let s3 := after (exec .vbusStartup s2)
    let s4 := after (exec (.refclkArrival 5 [] false) s3)
    s4.power.vbusState = 2 ∧ s4.bind.table = [⟨8, 0, 1, 0, 0⟩] ∧ (s4.easel 0).mode = .bound ∧ s4.host.perst = false := by decide +kernel

/-- Readings of a device well below its limits, and of one above them. -/
def lowLoad : Readings := ⟨1000, 1000, 750, [50000], 0⟩

def highLoad : Readings := ⟨1000, 300000, 750, [50000], 0⟩

theorem witness_RailFollowsLoad :
    (device canvas).dict.running = true ∧ (device canvas).power.vaux = true ∧ (device canvas).vbusUp = true ∧ 290000 < highLoad.i10 ∧
    lowLoad.p100 * 100 < 98 * min (policy (device canvas) 0x2000 1 * 1000) (290 * lowLoad.v10) ∧ lowLoad.i10 < 284000 ∧
    policy (device canvas) 0x2000 2 = 0 ∧ 290000 ≤ 290000 := by decide +kernel

/-! ### Tiles that fail, wear and observability -/

/-- A device without a spare left on compute die 0. -/
def spent : State := { device canvas with bind := { (device canvas).bind with roles := [] } }

theorem witness_UnitsWear :
    (device canvas).bindable 0 = true ∧ (device canvas).vbusUp = true ∧ ((device canvas).spareFor 0 9).isSome = true ∧ spent.spareFor 0 9 = none ∧
    (device canvas).ownerOf 1 0 = some 0 ∧ ((device canvas).easel 0).quiet = true ∧ spent.bind.request = none ∧ spent.works 0 = true ∧
    spent.bindable 0 = true ∧ ((commanded (command .started [])).easel 0).quiet = false ∧ (device canvas).role 160 = 1 ∧
    (device canvas).tiers.readOnly = false := by decide +kernel

theorem witness_PatrolRead :
    policy (device canvas) 0x5000 4 ≠ 0 ∧ isDram 16384 = true ∧ 16384 / pageBytes ∈ ((device canvas).writeAt 0 [1]).tiers.written ∧
    (((device canvas).writeAt 0 [1]).whereIs 16384).isSome = true ∧ ((device canvas).writeAt 0 [1]).poisoned 16384 8 = false ∧
    arbOf 16384 ≠ [] ∧ (∀ b ∈ arbOf 16384, ((device canvas).writeAt 0 [1]).pendingAt b = []) ∧
    (∃ b ∈ arbOf 0, (arbiterAsk ⟨6, .bar2 0 true, 8192, [.hbm 0]⟩).pendingAt b ≠ []) := by decide +kernel

theorem witness_WorkObserved :
    op (running [BitVec.ofNat 64 (5 * 2 ^ 60 + 7 * 2 ^ 38)] []) 0 = some (.mark 7 0) ∧ (device canvas).traced 0 = false ∧ traced.traced 0 = true ∧
    ((running [] []).tileCtx 0).isSome = true ∧ ((running [] []).tile 0).running = true := by decide +kernel

end Sys2Proof.Tests
end

section
/-! PROOFS. Bind, unbind and move requests from the write of `bind_execute` on (R45, R48 to R54): how an accepted CMD write comes to its
action, what the end of a request leaves alone, and what a request that begins does to its easels. -/

namespace Sys2Proof.Machine

/-! ### Memory that reads as before -/

theorem memoryKept_refl (s : State) : MemoryKept s s := ⟨fun _ _ => rfl, rfl⟩

theorem memoryKept_trans {s t u : State} (h : MemoryKept s t) (k : MemoryKept t u) : MemoryKept s u :=
  ⟨fun a n => (k.1 a n).trans (h.1 a n), k.2.trans h.2⟩

/-- Reads look at the two memories, the page-written bits and the poison marks alone. -/
theorem memoryKept_of_fields {s s' : State} (hm : s'.mem = s.mem) (hf : s'.flash = s.flash) (hp : s'.poison = s.poison)
    (hw : s'.tiers.written = s.tiers.written) : MemoryKept s s' :=
  ⟨fun a n => by simp only [State.readAt, hm, hf, hw], hp⟩

/-! ### A CMD write at the Curator (R418, R420) -/

/-- No check that the operations share answers OK. -/
theorem State.sharedCheck_ne_ok (s : State) (m : Msg) (role : Role) : s.sharedCheck m role ≠ some 0 := by
  unfold State.sharedCheck
  dsimp only
  repeat' split
  all_goals simp

/-- Where the dictionary's own checks pass, the action's check decides. -/
theorem State.commandStatus_eq_check {s : State} {m : Msg} {role : Role} (h : s.commandStatus m role (fun _ _ => 0) = 0)
    (check : State → Nat → Nat) : s.commandStatus m role check = check s (mValue m) := by
  unfold State.commandStatus at h ⊢
  split at h
  · next st hst => exact absurd (h ▸ hst) (s.sharedCheck_ne_ok m role)
  · split at h
    · cases h
    · split at h
      · split at h
        · cases h
        · next hw => simp [hw]
      · next hne => exact absurd h hne

/-- A request that reaches the Curator whole, permitted and new is run and answered (R424, R426). -/
theorem serve_of_served {s : State} {m : Msg} {role : Role} (h : Served s m role) (run : State → Role → Reply × State) :
    s.serve m run = ((run (s.countMgmt 0) role).2.answer m (run (s.countMgmt 0) role).1, some (run (s.countMgmt 0) role).1.status) := by
  obtain ⟨-, hup, hwhole, hrole, hnew, hform⟩ := h
  have hnew' : (s.countMgmt 0).remembered m = none := hnew
  simp [State.serve, hup, hwhole, hrole, hnew', hform]

/-- What an accepted CMD write is answered with: what the action's check says. -/
theorem serve_of_accepted {s : State} {m : Msg} (h : Accepted s m) (check : State → Nat → Nat) :
    (s.serve m fun s role => (plainReply (s.commandStatus m role check), s)) =
      (answered s m (check (s.countMgmt 0) (mValue m)), some (check (s.countMgmt 0) (mValue m))) := by
  obtain ⟨role, hserved, hok⟩ := h
  rw [serve_of_served hserved]
  dsimp only
  rw [State.commandStatus_eq_check hok check]
  rfl

theorem command_of_check_ok {s : State} {m : Msg} {check : State → Nat → Nat} (h : Accepted s m)
    (hc : check (s.countMgmt 0) (mValue m) = 0) (fail go : State → Nat → State) :
    s.command m check fail go = go (answered s m 0) (mValue m) :=
  State.command_accepted (by rw [serve_of_accepted h, hc])

theorem command_of_check_fails {s : State} {m : Msg} {check : State → Nat → Nat} {st : Nat} (h : Accepted s m)
    (hc : check (s.countMgmt 0) (mValue m) = st) (hst : st ≠ 0) (fail go : State → Nat → State) :
    s.command m check fail go = fail (answered s m st) st :=
  State.command_refused hst (by rw [serve_of_accepted h, hc])

section
variable (s : State) (m : Msg) (st : Nat)

/-- An answer changes the dictionary's records and what the device sends. -/
theorem answered_frame :
    answered s m st = { s with dict := (answered s m st).dict, out := (answered s m st).out } ∧ (answered s m st).dict.values = s.dict.values :=
  State.answer_frame (s.countMgmt 0) m (plainReply st)

@[simp] theorem answered_bind : (answered s m st).bind = s.bind := by rw [(answered_frame s m st).1]
@[simp] theorem answered_easels : (answered s m st).easels = s.easels := by rw [(answered_frame s m st).1]
@[simp] theorem answered_easel (e : Nat) : (answered s m st).easel e = s.easel e :=
  congrArg (tget Easel.reset · e) (answered_easels s m st)
@[simp] theorem answered_tiles : (answered s m st).tiles = s.tiles := by rw [(answered_frame s m st).1]
@[simp] theorem answered_sems : (answered s m st).sems = s.sems := by rw [(answered_frame s m st).1]

theorem answered_memoryKept : MemoryKept s (answered s m st) := by
  obtain ⟨h, -⟩ := answered_frame s m st
  rw [h]
  exact memoryKept_of_fields rfl rfl rfl rfl

/-- The staged values are those from before the answer. -/
theorem answered_written (index sub : Nat) : written (answered s m st).dict index sub = written s.dict index sub := by
  simp only [written, (answered_frame s m st).2]

end

/-! ### The rows of `bind_execute` -/

/-- A write of `bind_execute` that finds the Curator free is a CMD write, under the row that its staged request names. -/
theorem State.bindExecute_direct {s : State} {m : Msg} (h : Direct s m) (hw : writes m 0x3100 2 = true) (c : Instr)
    {which : List Byte → Bool} (hwhich : which (written s.dict 0x3100 1) = true) :
    s.bindExecute c m which = s.command m State.bindCheck (fun s _ => s) (fun s _ => s.startRequest) := by
  obtain ⟨hturn, hlater, hwaiting⟩ := h
  simp [State.bindExecute, hw, hwhich, State.atCurator_direct c hturn hlater hwaiting]

/-- Each of the five rows, at the request that makes it, is one CMD write. -/
theorem exec_bindRow {s : State} {m : Msg} {b : List Byte} (h : Accepted s m) (hw : writes m 0x3100 2 = true)
    (hb : b = written s.dict 0x3100 1) :
    exec (bindRow b m) s = .next (s.command m State.bindCheck (fun s _ => s) (fun s _ => s.startRequest)) := by
  obtain ⟨_, ⟨hdirect, -⟩, -⟩ := h
  have run := fun c which (hwhich : which b = true) => congrArg (Host.Outcome.next (φ := Fault) (ρ := Refusal))
    (State.bindExecute_direct (which := which) hdirect hw c (hb ▸ hwhich))
  clear hb
  unfold bindRow
  split
  · split
    · exact run _ isForcedUnbind (by simp [isForcedUnbind, *])
    · exact run _ isUnbind (by simp [isUnbind, *])
  · split
    · split
      · exact run _ isForcedMove (by simp [isForcedMove, *])
      · exact run _ isMove (by simp [isMove, *])
    · exact run _ (fun b => !(rqOp b = 2 || rqOp b = 3)) (by simp [*])

/-- While a request runs, every row is answered BUSY and does nothing (R50). -/
theorem exec_bindRow_busy {s : State} {m : Msg} {b : List Byte} (h : Accepted s m) (hw : writes m 0x3100 2 = true)
    (hb : b = written s.dict 0x3100 1) (hr : s.bind.request ≠ none) : exec (bindRow b m) s = .next (answered s m 0x09) := by
  have hc : State.bindCheck (s.countMgmt 0) (mValue m) = 0x09 := if_pos (Option.isSome_iff_ne_none.mpr hr)
  rw [exec_bindRow h hw hb, command_of_check_fails h hc (by decide)]

/-- While none runs, every row is answered OK and its request starts. -/
theorem exec_bindRow_starts {s : State} {m : Msg} {b : List Byte} (h : Accepted s m) (hw : writes m 0x3100 2 = true)
    (hb : b = written s.dict 0x3100 1) (hr : s.bind.request = none) (hv : s.vbusUp = true) :
    exec (bindRow b m) s = .next (answered s m 0).startRequest := by
  have hv' : (s.countMgmt 0).vbusUp = true := hv
  have hr' : (s.countMgmt 0).bind.request = none := hr
  have hc : State.bindCheck (s.countMgmt 0) (mValue m) = 0 := by simp [State.bindCheck, hr', hv']
  rw [exec_bindRow h hw hb, command_of_check_ok h hc]

/-! ### The end of a request (R51) -/

theorem State.tell_records (s : State) (es : List Nat) (v : Event) : RecordsOnly s (s.tell es v) :=
  (foldl_keeps_state RecordsOnly .refl (fun _ _ _ => .trans) _ (fun s e => s.deliver_records e v) es s).trans (State.copyIn_records _ _)

theorem RecordsOnly.bind {s s' : State} (h : RecordsOnly s s') : s'.bind = s.bind := by rw [h.1]
theorem RecordsOnly.tiles {s s' : State} (h : RecordsOnly s s') : s'.tiles = s.tiles := by rw [h.1]
theorem RecordsOnly.sems {s s' : State} (h : RecordsOnly s s') : s'.sems = s.sems := by rw [h.1]
theorem RecordsOnly.mode {s s' : State} (h : RecordsOnly s s') (e : Nat) : (s'.easel e).mode = (s.easel e).mode := by rw [h.2.1 e]

/-- No revocation waits: nothing is revoked (R59). -/
theorem State.revokeWaiting_of_nil {s : State} (h : s.bind.revoke = []) : s.revokeWaiting = s := by
  unfold State.revokeWaiting
  rw [h, List.foldl_nil, ← h]

/-- The device with its request ended under a status, its translations in step with the table. -/
def State.withoutRequest (s : State) (status : Nat) : State :=
  { s.invalidate with bind := { s.bind with request := none, status } }

/-- A request that ends while no revocation waits leaves a status and its records. -/
theorem State.endRequest_records {s : State} (h : s.bind.revoke = []) (easel status code a b : Nat) :
    RecordsOnly (s.withoutRequest status) (s.endRequest easel status code a b) := by
  unfold State.endRequest
  have k := State.tell_records (s.withoutRequest status)
  rw [State.revokeWaiting_of_nil]
  · exact k _ _
  · exact (congrArg Binding.revoke (k _ _).bind).trans h

/-! ### A request that begins (R52, R54, R59) -/

/-- The request that the staged bytes ask for, neither draining nor clearing. -/
def stagedRequest (b : List Byte) : Request :=
  { op := rqOp b, easel := rqEasel b, source := rqSource b, forced := rqForced b, erase := rqErase b, tag := rqTag b,
    extents := rqExtents b, draining := false, clearing := false, before := .free, beforeSource := .free }

/-- The device with a running request. -/
def State.withRequest (s : State) (r : Request) : State := { s with bind := { s.bind with request := some r } }

theorem State.withRequest_bind {s t : State} (h : t.bind = s.bind) (r : Request) :
    (t.withRequest r).bind = { s.bind with request := some r } := by rw [State.withRequest, h]

@[simp] theorem State.withRequest_easel (s : State) (r : Request) (e : Nat) : (s.withRequest r).easel e = s.easel e := rfl

theorem memoryKept_withRequest {s t : State} (h : MemoryKept s t) (r : Request) : MemoryKept s (t.withRequest r) := h

theorem memoryKept_onEasel {s t : State} (h : MemoryKept s t) (e : Nat) (f : Easel → Easel) : MemoryKept s (t.onEasel e f) := h

/-- A request that a check refuses ends at once. -/
theorem State.startRequest_refused {s : State} {b : List Byte} {reason idx : Nat} (hb : b = written s.dict 0x3100 1)
    (h : s.checkRequest b = some (reason, idx)) : s.startRequest = s.rejectRequest (rqEasel b) (rqTag b) reason idx := by
  unfold State.startRequest
  rw [← hb]
  dsimp only
  rw [h]

/-- The device with the staged request as the running one. -/
def State.accepting (s : State) (b : List Byte) : State :=
  { s with bind := { s.bind with request := some (stagedRequest b), status := 1 } }

@[simp] theorem State.accepting_easel (s : State) (b : List Byte) (e : Nat) : (s.accepting b).easel e = s.easel e := rfl
@[simp] theorem State.accepting_table (s : State) (b : List Byte) : (s.accepting b).bind.table = s.bind.table := rfl
@[simp] theorem State.accepting_status (s : State) (b : List Byte) : (s.accepting b).bind.status = 1 := rfl

theorem memoryKept_accepting {s t : State} (h : MemoryKept s t) (b : List Byte) : MemoryKept s (t.accepting b) := h

/-- A request that passes the checks is the running one, and begins or waits. -/
theorem State.startRequest_passed {s : State} {b : List Byte} (hb : b = written s.dict 0x3100 1) (h : s.checkRequest b = none) :
    s.startRequest = (s.accepting b).wakeRequest := by
  unfold State.startRequest
  rw [← hb]
  dsimp only
  rw [h]
  rfl

/-- A running request that waits for a command goes on waiting. -/
theorem State.wakeRequest_waits {s : State} {r : Request} (hr : s.bind.request = some r) (h : s.requestWaits r = true) :
    s.wakeRequest = s := by simp [State.wakeRequest, hr, h]

/-- A running request that waits for nothing begins. -/
theorem State.wakeRequest_begins {s : State} {r : Request} (hr : s.bind.request = some r) (hd : r.draining = false)
    (hc : r.clearing = false) (h : s.requestWaits r = false) : s.wakeRequest = s.beginRequest r := by
  simp [State.wakeRequest, hr, hd, hc, h]

/-- The device with the request's target out of FREE. -/
def State.targetLeft (s : State) (r : Request) : State :=
  if r.op != 2 && (s.easel r.easel).mode == .free then s.leaveFree r.easel else s

/-- Whether a request clears from its beginning on, and does not drain first. -/
def State.clearsAtOnce (s : State) (r : Request) : Bool :=
  r.op == 1 || r.forced || ((s.easel r.releases).mode != .bound && (s.easel r.releases).quiet)

/-- The request with the modes of its easels noted. -/
def State.notedRequest (s : State) (r : Request) : Request :=
  { r with before := (s.easel r.easel).mode, beforeSource := (s.easel r.releases).mode }

/-- The request as it runs once it has begun. -/
def State.begunRequest (s : State) (r : Request) : Request :=
  if s.clearsAtOnce r then { s.notedRequest r with clearing := true } else { s.notedRequest r with draining := true }

section
variable {s : State} {r : Request}

/-- What a request names stands as it begins. -/
theorem State.begunRequest_names (s : State) (r : Request) : (s.begunRequest r).op = r.op ∧ (s.begunRequest r).easel = r.easel ∧
    (s.begunRequest r).source = r.source ∧ (s.begunRequest r).forced = r.forced ∧ (s.begunRequest r).extents = r.extents ∧
    (s.begunRequest r).tag = r.tag := by
  unfold State.begunRequest
  split <;> exact ⟨rfl, rfl, rfl, rfl, rfl, rfl⟩

theorem State.begunRequest_clears (h : s.clearsAtOnce r = true) :
    (s.begunRequest r).clearing = true ∧ (s.begunRequest r).draining = r.draining := by
  simp [State.begunRequest, State.notedRequest, h]

theorem State.begunRequest_drains (h : s.clearsAtOnce r = false) : (s.begunRequest r).draining = true := by
  simp [State.begunRequest, h]

theorem State.leaveFree_easel_self (s : State) (e : Nat) :
    (s.leaveFree e).easel e = { s.easel e with mode := .binding, lastSeq := 0, skippedSteps := 0, keyEpoch := ((s.easel e).keyEpoch + 1) % 2 ^ 32 } := by
  simp [State.leaveFree, State.drawKey]

theorem State.leaveFree_easel_ne (s : State) {e f : Nat} (h : f ≠ e) : (s.leaveFree e).easel f = s.easel f := by
  simp [State.leaveFree, State.drawKey, h]

/-- A target that leaves FREE keeps its commands and its update. -/
theorem State.targetLeft_work (s : State) (r : Request) (f : Nat) :
    ((s.targetLeft r).easel f).cmds = (s.easel f).cmds ∧ ((s.targetLeft r).easel f).update = (s.easel f).update := by
  unfold State.targetLeft
  split
  · by_cases hf : f = r.easel
    · subst hf
      rw [State.leaveFree_easel_self]
      exact ⟨rfl, rfl⟩
    · rw [s.leaveFree_easel_ne hf]
      exact ⟨rfl, rfl⟩
  · exact ⟨rfl, rfl⟩

theorem State.targetLeft_quiet (s : State) (r : Request) (f : Nat) : ((s.targetLeft r).easel f).quiet = (s.easel f).quiet := by
  rw [Easel.quiet, (s.targetLeft_work r f).1, Easel.quiet]

theorem State.targetLeft_bind (s : State) (r : Request) : (s.targetLeft r).bind = s.bind := by
  unfold State.targetLeft
  split <;> rfl

theorem State.targetLeft_memoryKept (s : State) (r : Request) : MemoryKept s (s.targetLeft r) := by
  unfold State.targetLeft
  split
  · exact memoryKept_of_fields rfl rfl rfl rfl
  · exact memoryKept_refl s

/-- A request that takes units from an easel which is not its target: an unbind, or a move between two easels. -/
def Request.TakesUnits (r : Request) : Prop := r.op = 2 ∨ r.op = 3 ∧ r.source ≠ r.easel

theorem State.targetLeft_releases (h : r.TakesUnits) : (s.targetLeft r).easel r.releases = s.easel r.releases := by
  unfold State.targetLeft
  obtain hop | ⟨hop, hne⟩ := h
  · simp [hop]
  · have hrel : r.releases = r.source := if_pos hop
    split
    · exact s.leaveFree_easel_ne (hrel ▸ hne)
    · rfl

/-! An easel stopped at once (R59). -/

/-- The device with an easel stopped at once and CLEARING, its fence keys gone. -/
def State.stoppedToClear (s : State) (e : Nat) : State :=
  ((s.stopEasel e).dropKeys e).onEasel e fun x => { x with mode := .clearing }

theorem State.stoppedToClear_bind (s : State) (e : Nat) : (s.stoppedToClear e).bind = s.bind := by
  have h : (s.stoppedToClear e).bind = (s.stopEasel e).bind := rfl
  rw [h, (s.stopEasel_frame e).1]

theorem State.stoppedToClear_easel (s : State) (e : Nat) :
    ((s.stoppedToClear e).easel e).mode = .clearing ∧ ((s.stoppedToClear e).easel e).cmds = [] := by
  have hcmds : ((s.stopEasel e).easel e).cmds = [] := congrArg Easel.cmds (State.onEasel_easel_self _ _ _)
  rw [State.stoppedToClear, State.onEasel_easel_self]
  exact ⟨rfl, hcmds⟩

/-- Without an update under way, no memory is left undefined (R367). -/
theorem State.stoppedToClear_memoryKept {e : Nat} (h : (s.easel e).update = none) : MemoryKept s (s.stoppedToClear e) := by
  have hu : s.undefineUpdate e = s := by simp only [State.undefineUpdate, h]
  have hstop : MemoryKept s (s.stopEasel e) := by
    rw [State.stopEasel, hu]
    exact memoryKept_of_fields rfl rfl rfl rfl
  exact memoryKept_trans hstop (memoryKept_of_fields rfl rfl rfl rfl)

/-! How each kind of request begins. -/

/-- A request that begins, in terms of its target out of FREE. -/
theorem State.beginRequest_eq (s : State) (r : Request) : s.beginRequest r =
    if r.op = 1 then (s.targetLeft r).withRequest { s.notedRequest r with clearing := true }
    else if r.forced then
      ((s.targetLeft r).stoppedToClear r.releases).withRequest { s.notedRequest r with clearing := true }
    else if (s.easel r.releases).mode == .bound then
      ((s.targetLeft r).onEasel r.releases fun x => { x with mode := .draining }).withRequest { s.notedRequest r with draining := true }
    else if !((s.targetLeft r).easel r.releases).quiet then (s.targetLeft r).withRequest { s.notedRequest r with draining := true }
    else ((s.targetLeft r).onEasel r.releases fun x => { x with mode := .clearing }).withRequest { s.notedRequest r with clearing := true } :=
  rfl

theorem State.beginRequest_of_bind (h : r.op = 1) : s.beginRequest r = (s.targetLeft r).withRequest (s.begunRequest r) := by
  simp [State.beginRequest_eq, State.begunRequest, State.clearsAtOnce, h]

theorem State.beginRequest_of_forced (h : r.op ≠ 1) (hf : r.forced = true) :
    s.beginRequest r = ((s.targetLeft r).stoppedToClear r.releases).withRequest (s.begunRequest r) := by
  simp [State.beginRequest_eq, State.begunRequest, State.clearsAtOnce, h, hf]

theorem State.beginRequest_of_bound (h : r.op ≠ 1) (hf : r.forced = false) (hb : (s.easel r.releases).mode = .bound) :
    s.beginRequest r =
      ((s.targetLeft r).onEasel r.releases fun x => { x with mode := .draining }).withRequest (s.begunRequest r) := by
  simp [State.beginRequest_eq, State.begunRequest, State.clearsAtOnce, h, hf, hb]

theorem State.beginRequest_of_quiet (h : r.op ≠ 1) (hf : r.forced = false) (hb : (s.easel r.releases).mode ≠ .bound)
    (hq : (s.easel r.releases).quiet = true) : s.beginRequest r =
      ((s.targetLeft r).onEasel r.releases fun x => { x with mode := .clearing }).withRequest (s.begunRequest r) := by
  simp [State.beginRequest_eq, State.begunRequest, State.clearsAtOnce, State.targetLeft_quiet, h, hf, hb, hq]

theorem State.beginRequest_of_busy (h : r.op ≠ 1) (hf : r.forced = false) (hb : (s.easel r.releases).mode ≠ .bound)
    (hq : (s.easel r.releases).quiet = false) : s.beginRequest r = (s.targetLeft r).withRequest (s.begunRequest r) := by
  simp [State.beginRequest_eq, State.begunRequest, State.clearsAtOnce, State.targetLeft_quiet, h, hf, hb, hq]

/-- Whatever the request, as it begins the binding table and the status stand, and memory does unless an update is stopped. -/
theorem State.beginRequest_frame (s : State) (r : Request) :
    (s.beginRequest r).bind = { s.bind with request := some (s.begunRequest r) } ∧
    (r.forced = false ∨ (s.easel r.releases).update = none → MemoryKept s (s.beginRequest r)) := by
  have hbind := s.targetLeft_bind r
  have hmem := s.targetLeft_memoryKept r
  by_cases hop : r.op = 1
  · rw [State.beginRequest_of_bind hop]
    exact ⟨State.withRequest_bind hbind _, fun _ => memoryKept_withRequest hmem _⟩
  cases hf : r.forced with
  | true =>
    rw [State.beginRequest_of_forced hop hf]
    refine ⟨State.withRequest_bind ((State.stoppedToClear_bind _ _).trans hbind) _, fun hu => ?_⟩
    have hnone := (s.targetLeft_work r r.releases).2.trans (hu.resolve_left (by decide))
    exact memoryKept_withRequest (memoryKept_trans hmem (State.stoppedToClear_memoryKept hnone)) _
  | false =>
    by_cases hb : (s.easel r.releases).mode = .bound
    · rw [State.beginRequest_of_bound hop hf hb]
      exact ⟨State.withRequest_bind hbind _, fun _ => memoryKept_withRequest (memoryKept_onEasel hmem _ _) _⟩
    cases hq : (s.easel r.releases).quiet with
    | true =>
      rw [State.beginRequest_of_quiet hop hf hb hq]
      exact ⟨State.withRequest_bind hbind _, fun _ => memoryKept_withRequest (memoryKept_onEasel hmem _ _) _⟩
    | false =>
      rw [State.beginRequest_of_busy hop hf hb hq]
      exact ⟨State.withRequest_bind hbind _, fun _ => memoryKept_withRequest hmem _⟩

/-! What each kind of request is, and has done to the easel that it takes units from, when it has begun. -/

theorem State.beginRequest_bind_effect (h : r.op = 1) (hd : r.draining = false) :
    (s.begunRequest r).clearing = true ∧ (s.begunRequest r).draining = false ∧
    ((s.beginRequest r).easel r.easel).mode = if (s.easel r.easel).mode = .free then .binding else (s.easel r.easel).mode := by
  obtain ⟨hc, hd'⟩ := State.begunRequest_clears (s := s) (r := r) (by simp [State.clearsAtOnce, h])
  refine ⟨hc, hd'.trans hd, ?_⟩
  rw [State.beginRequest_of_bind h, State.withRequest_easel, State.targetLeft]
  by_cases hfree : (s.easel r.easel).mode = .free
  · simp [h, hfree, State.leaveFree_easel_self]
  · simp [hfree]

theorem State.beginRequest_forced_effect (h : r.op ≠ 1) (hf : r.forced = true) :
    (s.begunRequest r).clearing = true ∧ ((s.beginRequest r).easel r.releases).mode = .clearing ∧
    ((s.beginRequest r).easel r.releases).cmds = [] := by
  refine ⟨(State.begunRequest_clears (by simp [State.clearsAtOnce, hf])).1, ?_⟩
  rw [State.beginRequest_of_forced h hf, State.withRequest_easel]
  exact State.stoppedToClear_easel _ _

theorem State.beginRequest_bound_effect (h : r.op ≠ 1) (hf : r.forced = false) (hb : (s.easel r.releases).mode = .bound) :
    (s.begunRequest r).draining = true ∧ ((s.beginRequest r).easel r.releases).mode = .draining ∧
    ((s.beginRequest r).easel r.releases).cmds = (s.easel r.releases).cmds := by
  refine ⟨State.begunRequest_drains (by simp [State.clearsAtOnce, h, hf, hb]), ?_⟩
  rw [State.beginRequest_of_bound h hf hb, State.withRequest_easel, State.onEasel_easel_self]
  exact ⟨rfl, (s.targetLeft_work r _).1⟩

theorem State.beginRequest_quiet_effect (h : r.op ≠ 1) (hf : r.forced = false) (hb : (s.easel r.releases).mode ≠ .bound)
    (hq : (s.easel r.releases).quiet = true) :
    (s.begunRequest r).clearing = true ∧ ((s.beginRequest r).easel r.releases).mode = .clearing := by
  refine ⟨(State.begunRequest_clears (by simp [State.clearsAtOnce, hb, hq])).1, ?_⟩
  rw [State.beginRequest_of_quiet h hf hb hq, State.withRequest_easel, State.onEasel_easel_self]

theorem State.beginRequest_busy_effect (h : r.op ≠ 1) (ht : r.TakesUnits) (hf : r.forced = false) (hb : (s.easel r.releases).mode ≠ .bound)
    (hq : (s.easel r.releases).quiet = false) :
    (s.begunRequest r).draining = true ∧ (s.beginRequest r).easel r.releases = s.easel r.releases := by
  refine ⟨State.begunRequest_drains (by simp [State.clearsAtOnce, h, hf, hq]), ?_⟩
  rw [State.beginRequest_of_busy h hf hb hq, State.withRequest_easel, State.targetLeft_releases ht]

end

/-! ### Staged requests -/

/-- A request that passes the checks has a header in form (R495). -/
theorem State.headerOk_of_checkRequest {s : State} {b : List Byte} (h : s.checkRequest b = none) : headerOk b = true := by
  cases hb : headerOk b with
  | true => rfl
  | false => simp [State.checkRequest, hb] at h

/-- A header in form that is no bind takes units from an easel other than its target. -/
theorem stagedRequest_takesUnits {b : List Byte} (h : headerOk b = true) (hop : rqOp b ≠ 1) : (stagedRequest b).TakesUnits := by
  simp only [headerOk, Bool.and_eq_true, Bool.not_eq_true', Bool.and_eq_false_imp, decide_eq_true_eq, decide_eq_false_iff_not] at h
  show rqOp b = 2 ∨ rqOp b = 3 ∧ rqSource b ≠ rqEasel b
  omega

/-- What makes a staged request wait (R62, R83, R234). -/
theorem requestWaits_staged (s : State) (b : List Byte) : s.requestWaits (stagedRequest b) = true ↔
    (rqOp b ≠ 2 ∧ (s.easel (rqEasel b)).holdsRequest true = true) ∨
    (rqOp b ≠ 1 ∧ rqForced b = false ∧ (s.easel (rqReleases b)).holdsRequest false = true) := by
  have hwaits : s.requestWaits (stagedRequest b) = ((rqOp b != 2 && (s.easel (rqEasel b)).holdsRequest true) ||
      (rqOp b != 1 && !rqForced b && (s.easel (rqReleases b)).holdsRequest false)) := rfl
  simp [hwaits, and_assoc]

/-! ### The obligation -/

/-- A refused request ends: its reason is the status, no easel changes its mode, and no binding, tile or semaphore changes. -/
theorem State.rejectRequest_effect {s : State} (hr : s.bind.request = none) (hrev : s.bind.revoke = []) (easel tag reason idx : Nat) :
    (s.rejectRequest easel tag reason idx).bind = { s.bind with status := 3 + reason * 256 + idx * 65536 } ∧
    (∀ e, ((s.rejectRequest easel tag reason idx).easel e).mode = (s.easel e).mode) ∧
    (s.rejectRequest easel tag reason idx).tiles = s.tiles ∧ (s.rejectRequest easel tag reason idx).sems = s.sems := by
  have h : RecordsOnly (s.withoutRequest (3 + reason * 256 + idx * 65536)) (s.rejectRequest easel tag reason idx) :=
    State.endRequest_records hrev easel _ _ _ _
  exact ⟨h.bind.trans (by simp [State.withoutRequest, hr]), h.mode, h.tiles, h.sems⟩

/-- A staged request that passes the checks and waits for nothing begins. -/
theorem State.startRequest_begins {s : State} {b : List Byte} (hb : b = written s.dict 0x3100 1) (h : s.checkRequest b = none)
    (hw : (s.accepting b).requestWaits (stagedRequest b) = false) : s.startRequest = (s.accepting b).beginRequest (stagedRequest b) := by
  rw [State.startRequest_passed hb h, State.wakeRequest_begins rfl rfl rfl hw]

/-- A staged request that passes the checks but is held back is the running one, and nothing else changes. -/
theorem State.startRequest_waits {s : State} {b : List Byte} (hb : b = written s.dict 0x3100 1) (h : s.checkRequest b = none)
    (hw : (s.accepting b).requestWaits (stagedRequest b) = true) : s.startRequest = s.accepting b := by
  rw [State.startRequest_passed hb h, State.wakeRequest_waits rfl hw]

/-- Settles O48: an accepted write of `bind_execute` comes to `startRequest`, which rejects, begins or holds back the staged request. -/
theorem requestsBegin : Obligations.RequestsBegin := by
  unfold Obligations.RequestsBegin
  rintro s a m b rel hacc hw hb rfl rfl
  refine ⟨fun hr => ⟨_, exec_bindRow_busy hacc hw hb hr, rfl⟩, fun hr hv => ?_⟩
  have hexec := exec_bindRow_starts hacc hw hb hr hv
  have hb' : b = written (answered s m 0).dict 0x3100 1 := hb.trans (answered_written s m 0 _ _).symm
  have hwaits := requestWaits_staged ((answered s m 0).accepting b) b
  simp only [State.accepting_easel, answered_easel] at hwaits
  refine ⟨fun reason idx hcheck hrev => ⟨_, hexec, ?_⟩, fun hcheck hin hout => ⟨_, hexec, ?_⟩, fun hcheck hheld => ⟨_, hexec, ?_⟩⟩
  · rw [State.startRequest_refused hb' hcheck]
    simpa using State.rejectRequest_effect (s := answered s m 0) (by simpa using hr) (by simpa using hrev) (rqEasel b) (rqTag b) reason idx
  · have hgo : ((answered s m 0).accepting b).requestWaits (stagedRequest b) = false := by
      rw [← Bool.not_eq_true, hwaits]
      rintro (⟨hop, hhold⟩ | ⟨hop, hf, hhold⟩)
      · exact absurd hhold (by simp [hin hop])
      · exact absurd hhold (by rw [rqReleases, hout hop hf]; decide)
    rw [State.startRequest_begins hb' hcheck hgo]
    generalize ht : (answered s m 0).accepting b = t
    have heasel : ∀ e, s.easel e = t.easel e := fun e => by simp [← ht]
    have htable : t.bind.table = s.bind.table := by simp [← ht]
    have hstatus : t.bind.status = 1 := by simp [← ht]
    have hkept : MemoryKept s t := ht ▸ memoryKept_accepting (answered_memoryKept s m 0) b
    obtain ⟨hbind, hmem⟩ := t.beginRequest_frame (stagedRequest b)
    obtain ⟨hop, heas, hsrc, hforced, hext, htag⟩ := t.begunRequest_names (stagedRequest b)
    simp only [heasel]
    refine ⟨?_, ?_, fun hu => ?_, _, congrArg Binding.request hbind, hop, heas, hsrc, hforced, hext, htag, fun h1 => ?_, fun h1 hf => ?_,
      fun h1 hf hm => ?_, fun h1 hf hm hq => ?_, fun h1 hf hm hq => ?_⟩
    · exact (congrArg Binding.table hbind).trans htable
    · exact (congrArg Binding.status hbind).trans hstatus
    · exact memoryKept_trans hkept (hmem hu)
    · rw [if_neg (by omega : ¬rqOp b = 3)]
      exact State.beginRequest_bind_effect h1 rfl
    · exact State.beginRequest_forced_effect h1 hf
    · exact State.beginRequest_bound_effect h1 hf hm
    · exact State.beginRequest_quiet_effect h1 hf hm hq
    · exact State.beginRequest_busy_effect h1 (stagedRequest_takesUnits (State.headerOk_of_checkRequest hcheck) h1) hf hm hq
  · rw [State.startRequest_waits hb' hcheck (hwaits.mpr hheld)]
    exact ⟨by simp, answered_easels s m 0, _, rfl, rfl, rfl⟩

end Sys2Proof.Machine
end

section
/-! PROOFS. A tile past the instruction at its PC: the loops it is in, its registers, and all else that a scalar instruction leaves alone
(R92, R95, R96). -/

namespace Sys2Proof.Machine

/-! ### A register written -/

section
variable (x : Tile) (d : Nat) (v : Word64)

/-- A register write changes the registers alone. -/
theorem Tile.setReg_frame : x.setReg d v = { x with regs := (x.setReg d v).regs } := by
  unfold Tile.setReg
  split <;> rfl

@[simp] theorem Tile.setReg_pc : (x.setReg d v).pc = x.pc := by rw [Tile.setReg_frame]
@[simp] theorem Tile.setReg_loops : (x.setReg d v).loops = x.loops := by rw [Tile.setReg_frame]
@[simp] theorem Tile.setReg_program : (x.setReg d v).program = x.program := by rw [Tile.setReg_frame]
@[simp] theorem Tile.setReg_running : (x.setReg d v).running = x.running := by rw [Tile.setReg_frame]
@[simp] theorem Tile.setReg_ended : (x.setReg d v).ended = x.ended := by rw [Tile.setReg_frame]

theorem Tile.setReg_queuesKept : QueuesKept x (x.setReg d v) := by
  rw [Tile.setReg_frame]
  exact ⟨rfl, rfl, rfl⟩

/-- What every register reads after a write, s0 among them. -/
theorem Tile.reg_setReg (r : Nat) : (x.setReg d v).reg r = wrote x d v r := by
  unfold wrote
  split
  · next h =>
    obtain ⟨rfl, h0⟩ := h
    exact Tile.reg_setReg_self x r v h0
  · next h =>
    by_cases hr : r = d
    · have h0 : r = 0 := by_contra fun h0 => h ⟨hr, h0⟩
      rw [h0, Tile.reg_zero, Tile.reg_zero]
    · exact Tile.reg_setReg_ne x d r v hr

end

theorem Tile.reg_of_regs {x y : Tile} (h : y.regs = x.regs) (r : Nat) : y.reg r = x.reg r := by rw [Tile.reg, h, Tile.reg]

/-! ### The end of a loop body (R96) -/

/-- A next word that ends no body is where execution goes on. -/
theorem settle_of_midBody {ls : List LoopFrame} {n : Nat} (h : ∀ f ∈ ls, n ≠ f.last + 1) (g : Tab Word64) : settle ls n g = (n, ls, g) := by
  cases ls with
  | nil => rfl
  | cons f fs => simp [settle, h f]

/-- A loop with an iteration left starts it with its index. -/
theorem settle_of_iterates {f : LoopFrame} (h : f.iter + 1 < f.count) (fs : List LoopFrame) (g : Tab Word64) :
    settle (f :: fs) (f.last + 1) g = (f.first, { f with iter := f.iter + 1 } :: fs,
      if f.index = 0 then g else tset g f.index (BitVec.ofNat 64 (f.iter + 1))) := by
  simp [settle, h]

/-- A loop after its last iteration is left. -/
theorem settle_of_leaves {f : LoopFrame} (h : f.count ≤ f.iter + 1) (fs : List LoopFrame) (g : Tab Word64) :
    settle (f :: fs) (f.last + 1) g = settle fs (f.last + 1) g := by
  simp [settle, h]

/-- Only index registers are written between words. -/
theorem tget_settle_of_not_index {r : Nat} {ls : List LoopFrame} (h : r ∉ ls.map (·.index)) (n : Nat) (g : Tab Word64) :
    tget 0 (settle ls n g).2.2 r = tget 0 g r := by
  induction ls with
  | nil => rfl
  | cons f fs ih =>
    rw [List.map_cons, List.mem_cons, not_or] at h
    obtain ⟨hf, hfs⟩ := h
    unfold settle
    split
    · split
      · split
        · rfl
        · exact tget_tset_ne 0 g f.index r _ hf
      · exact ih hfs
    · rfl

/-! ### The tile at its next word -/

section
variable {x : Tile} {n : Nat}

/-- Where a tile stands in its program, from where execution settles. -/
theorem Tile.goto_of_settle {p : Nat} {ls : List LoopFrame} {g : Tab Word64} (h : settle x.loops n x.regs = (p, ls, g)) :
    (x.goto n).pc = p ∧ (x.goto n).loops = ls ∧ (x.goto n).regs = g := by
  simp [Tile.goto, h]

/-- Execution that settles with the registers unchanged leaves every register. -/
theorem Tile.goto_of_settle_regs {p : Nat} {ls : List LoopFrame} (h : settle x.loops n x.regs = (p, ls, x.regs)) :
    (x.goto n).pc = p ∧ (x.goto n).loops = ls ∧ ∀ r, (x.goto n).reg r = x.reg r := by
  obtain ⟨hpc, hloops, hregs⟩ := Tile.goto_of_settle h
  exact ⟨hpc, hloops, Tile.reg_of_regs hregs⟩

theorem Tile.goto_of_midBody (h : ∀ f ∈ x.loops, n ≠ f.last + 1) :
    (x.goto n).pc = n ∧ (x.goto n).loops = x.loops ∧ ∀ r, (x.goto n).reg r = x.reg r :=
  Tile.goto_of_settle_regs (settle_of_midBody h _)

theorem Tile.goto_of_leaves {f : LoopFrame} {fs : List LoopFrame} (hx : x.loops = f :: fs) (h : f.count ≤ f.iter + 1)
    (hout : ∀ g ∈ fs, g.last ≠ f.last) :
    (x.goto (f.last + 1)).pc = f.last + 1 ∧ (x.goto (f.last + 1)).loops = fs ∧ ∀ r, (x.goto (f.last + 1)).reg r = x.reg r := by
  apply Tile.goto_of_settle_regs
  rw [hx, settle_of_leaves h]
  exact settle_of_midBody (fun g hg heq => hout g hg (Nat.succ.inj heq).symm) _

theorem Tile.goto_of_iterates {f : LoopFrame} {fs : List LoopFrame} (hx : x.loops = f :: fs) (h : f.iter + 1 < f.count) :
    (x.goto (f.last + 1)).pc = f.first ∧ (x.goto (f.last + 1)).loops = { f with iter := f.iter + 1 } :: fs ∧
    (f.index ≠ 0 → (x.goto (f.last + 1)).reg f.index = BitVec.ofNat 64 (f.iter + 1)) ∧
    ∀ r, r ≠ f.index → (x.goto (f.last + 1)).reg r = x.reg r := by
  obtain ⟨hpc, hloops, hregs⟩ := Tile.goto_of_settle (hx ▸ settle_of_iterates h fs x.regs)
  have hset : (x.goto (f.last + 1)).regs = (x.setReg f.index (BitVec.ofNat 64 (f.iter + 1))).regs := by
    rw [hregs, Tile.setReg]
    split <;> rfl
  refine ⟨hpc, hloops, fun h0 => ?_, fun r hr => ?_⟩
  · rw [Tile.reg_of_regs hset, Tile.reg_setReg_self _ _ _ h0]
  · rw [Tile.reg_of_regs hset, Tile.reg_setReg_ne _ _ _ _ hr]

theorem Tile.reg_goto_of_not_index {r : Nat} (h : r ∉ indexes x) : (x.goto n).reg r = x.reg r := by
  unfold Tile.reg
  rw [← tget_settle_of_not_index h n x.regs]
  rfl

end

/-- A tile past an instruction that wrote a register: mid-body, at a further iteration, behind its loop, and in any case. -/
theorem Tile.setReg_advances (x : Tile) (d : Nat) (v : Word64) : Advances x (x.setReg d v).advance d v := by
  have hwrote := x.reg_setReg d v
  have hloops := x.setReg_loops d v
  have hnext : (x.setReg d v).advance = (x.setReg d v).goto (x.pc + 1) := by rw [Tile.advance, Tile.setReg_pc]
  rw [hnext]
  unfold Advances
  simp only [← hwrote]
  refine ⟨x.setReg_program d v, x.setReg_running d v, x.setReg_ended d v, rfl, fun hmid => ?_, fun f fs hx hlast => ?_, fun r hr => ?_⟩
  · rw [← hloops]
    exact Tile.goto_of_midBody fun f hf heq => hmid f (hloops ▸ hf) (Nat.succ.inj heq)
  · have hx' := hloops.trans hx
    rw [hlast]
    exact ⟨Tile.goto_of_iterates hx', Tile.goto_of_leaves hx'⟩
  · exact Tile.reg_goto_of_not_index (by rwa [indexes, hloops])

theorem Tile.setReg_advance_queuesKept (x : Tile) (d : Nat) (v : Word64) : QueuesKept x (x.setReg d v).advance :=
  x.setReg_queuesKept d v

/-! ### The device with its tile past a scalar instruction -/

theorem State.onTile_onlyTile (s : State) (t : Nat) (f : Tile → Tile) : OnlyTile t s (s.onTile t f) := by
  rw [OnlyTile, State.onTile_tile_self, State.onTile]

theorem State.setNext_scalarDone (s : State) (t d : Nat) (v : Word64) : ScalarDone t d v s (s.setNext t d v) := by
  refine ⟨s.onTile_onlyTile t _, ?_⟩
  rw [State.setNext, State.onTile_tile_self]
  exact ⟨Tile.setReg_advances _ d v, Tile.setReg_advance_queuesKept _ d v⟩

end Sys2Proof.Machine
end

section
/-! PROOFS. `alu` (R98): its second operand, what it writes, and its functions of Table 4-7 on all operands. -/

namespace Sys2Proof.Machine

/-! ### The instruction -/

/-- The second operand: the immediate zero-extended, or a register (Table 4-6). -/
theorem aluOperand_eq (x : Tile) (imm b : Nat) : aluOperand x imm b = if imm = 1 then BitVec.ofNat 64 b else x.reg (b / 2 ^ 28) := by
  unfold aluOperand Tile.operand
  split
  · rfl
  · rw [BitVec.ofNat_toNat, BitVec.setWidth_eq]

/-- An `alu` at a tile's PC writes its function of the operands and moves on. -/
theorem exec_alu {s : State} {t : Nat} {k : TileCtx} {d a func imm b : Nat} (h : s.fetch t = some (k, .alu d a func imm b)) :
    exec (.alu t) s = .next (s.setNext t d (aluValue func ((s.tile t).reg a) (aluOperand (s.tile t) imm b))) := by
  have harm : exec (.alu t) s = execAlu t s := rfl
  rw [harm, execAlu, h]

/-! ### The functions of Table 4-7, division by zero among them -/

/-- The quotient rounded up is at most the dividend, so it needs no wrap. -/
theorem ceilDiv_le_self (m n : Nat) : ceilDiv m n ≤ m := by
  unfold ceilDiv
  split
  · exact Nat.zero_le m
  · next h =>
    have hn : 0 < n := Nat.pos_of_ne_zero h
    have hmul : m ≤ m * n := Nat.le_mul_of_pos_right m hn
    rw [← Nat.lt_succ_iff, Nat.div_lt_iff_lt_mul hn, Nat.succ_mul]
    omega

section
variable (a b : Word64)

theorem toNat_aluValue_sub : (aluValue 1 a b).toNat = (a.toNat + 2 ^ 64 - b.toNat) % 2 ^ 64 := by
  have hb := b.isLt
  rw [aluValue, BitVec.toNat_sub]
  congr 1
  omega

theorem toNat_aluValue_divu : (aluValue 3 a b).toNat = if b = 0 then 0 else a.toNat / b.toNat := by
  rw [aluValue, BitVec.toNat_udiv]
  split
  · next h => simp [h]
  · rfl

theorem toNat_aluValue_ceildivu : (aluValue 4 a b).toNat = if b = 0 then 0 else (a.toNat + b.toNat - 1) / b.toNat := by
  have hzero : b = 0 ↔ b.toNat = 0 := BitVec.toNat_inj.symm
  rw [aluValue, BitVec.toNat_ofNat, Nat.mod_eq_of_lt (lt_of_le_of_lt (ceilDiv_le_self _ _) a.isLt)]
  simp only [ceilDiv, hzero]

theorem toNat_aluValue_remu : (aluValue 5 a b).toNat = if b = 0 then 0 else a.toNat % b.toNat := by
  rw [aluValue, apply_ite BitVec.toNat, BitVec.toNat_umod]
  rfl

theorem toNat_aluValue_minu : (aluValue 6 a b).toNat = min a.toNat b.toNat := by
  simp only [aluValue, apply_ite BitVec.toNat, BitVec.ult_iff_toNat_lt]
  split <;> omega

theorem toNat_aluValue_maxu : (aluValue 7 a b).toNat = max a.toNat b.toNat := by
  simp only [aluValue, apply_ite BitVec.toNat, BitVec.ult_iff_toNat_lt]
  split <;> omega

theorem toNat_aluValue_shl : (aluValue 11 a b).toNat = a.toNat * 2 ^ (b.toNat % 64) % 2 ^ 64 := by
  rw [aluValue, BitVec.toNat_shiftLeft, Nat.shiftLeft_eq]

theorem toNat_aluValue_shr : (aluValue 12 a b).toNat = a.toNat / 2 ^ (b.toNat % 64) := by
  rw [aluValue, BitVec.toNat_ushiftRight, Nat.shiftRight_eq_div_pow]

theorem toInt_aluValue_sar : (aluValue 13 a b).toInt = a.toInt / 2 ^ (b.toNat % 64) := by
  rw [aluValue, BitVec.toInt_sshiftRight, Int.shiftRight_eq_div_pow, Nat.cast_pow, Nat.cast_ofNat]

theorem toNat_aluValue_sltu : (aluValue 14 a b).toNat = if a.toNat < b.toNat then 1 else 0 := by
  simp only [aluValue, apply_ite BitVec.toNat, BitVec.ult_iff_toNat_lt]
  rfl

theorem toNat_aluValue_slts : (aluValue 15 a b).toNat = if a.toInt < b.toInt then 1 else 0 := by
  simp only [aluValue, apply_ite BitVec.toNat, BitVec.slt_iff_toInt_lt]
  rfl

end

/-! ### The obligation -/

/-- Settles O14: an `alu` is a register write past its word, and each function of Table 4-7 is the operation on words it names. -/
theorem aluFunctions : Obligations.AluFunctions := by
  unfold Obligations.AluFunctions
  refine ⟨fun s t k d a func imm b h => ?_, fun a b => ?_⟩
  · rw [← aluOperand_eq]
    exact ⟨_, exec_alu h, s.setNext_scalarDone t d _⟩
  · exact ⟨BitVec.toNat_add a b, toNat_aluValue_sub a b, BitVec.toNat_mul a b, toNat_aluValue_divu a b, toNat_aluValue_ceildivu a b,
      toNat_aluValue_remu a b, toNat_aluValue_minu a b, toNat_aluValue_maxu a b, fun _ => BitVec.getLsbD_and, fun _ => BitVec.getLsbD_or,
      fun _ => BitVec.getLsbD_xor, toNat_aluValue_shl a b, toNat_aluValue_shr a b, toInt_aluValue_sar a b, toNat_aluValue_sltu a b,
      toNat_aluValue_slts a b⟩

end Sys2Proof.Machine
end

section
/-! PROOFS. `signal`, `wait`, `waitv`, `fadd` and `claim` at their tile (R110, R111, R294 to R299): the request that leaves, the hold of a
wait, and what becomes of a work counter. -/

namespace Sys2Proof.Machine

/-! ### Requests that leave a tile (R110) -/

section
variable {s : State} {t : Nat} {k : TileCtx}

/-- An operand as the obligations write it (Tables 4-15 and 4-16). -/
theorem Tile.operand_eq (x : Tile) (imm operand : Nat) : x.operand imm operand = operandOf x imm operand := rfl

/-- A tile that moves on has done what a scalar instruction with destination s0 does. -/
theorem State.onTile_advance_scalarDone (s : State) (t : Nat) : ScalarDone t 0 0 s (s.onTile t Tile.advance) :=
  s.setNext_scalarDone t 0 0

/-- A `signal` adds its request to those on their way, where its operand is not 0, and moves its tile on. -/
theorem exec_signal {sem imm operand : Nat} (h : s.fetch t = some (k, .signal sem imm operand)) :
    exec (.signal t) s = .next (State.onTile { s with
      net := if operandOf (s.tile t) imm operand = 0 then s.net
        else s.net ++ [tileRequest s k t .signal sem (operandOf (s.tile t) imm operand)] } t Tile.advance) := by
  have harm : exec (.signal t) s = execSignal t s := rfl
  rw [harm, execSignal, h, ← Tile.operand_eq]
  dsimp only
  split <;> rfl

theorem exec_wait {sem imm operand : Nat} (h : s.fetch t = some (k, .wait sem imm operand)) :
    exec (.wait t) s = .next (s.issueWait k t .wait .sem sem (operandOf (s.tile t) imm operand)) := by
  have harm : exec (.wait t) s = execWait t s := rfl
  rw [harm, execWait, h, ← Tile.operand_eq]

theorem exec_waitv {sem imm operand : Nat} (h : s.fetch t = some (k, .waitv sem imm operand)) :
    exec (.waitv t) s = .next (s.issueWait k t .waitv .value sem (operandOf (s.tile t) imm operand)) := by
  have harm : exec (.waitv t) s = execWaitv t s := rfl
  rw [harm, execWaitv, h, ← Tile.operand_eq]

/-- A wait for 0 completes at once. -/
theorem State.issueWait_zero (s : State) (k : TileCtx) (t : Nat) (kind : SyncKind) (hold : Hold) (sem : Nat) :
    s.issueWait k t kind hold sem 0 = s.onTile t Tile.advance := if_pos rfl

/-- A wait for no more than the planned maximum sends its request and holds its tile at its PC. -/
theorem State.issueWait_sends (kind : SyncKind) (hold : Hold) {sem n : Nat} {d : SemDecl} (hd : k.x.semDecl sem = some d) (hpos : 0 < n)
    (hmax : n ≤ d.max) : s.issueWait k t kind hold sem n =
      State.setTile { s with net := s.net ++ [tileRequest s k t kind sem n] } t { s.tile t with hold := hold } := by
  rw [State.issueWait, if_neg (by omega), hd]
  exact if_neg (by omega)

/-- Either wait at issue: for 0 it completes, for no more than the planned maximum its request leaves and its tile is held. -/
theorem wait_completes {c : Instr} {kind : SyncKind} {hold : Hold} {sem n : Nat} (h : exec c s = .next (s.issueWait k t kind hold sem n)) :
    (n = 0 → Completes c s (ScalarDone t 0 0 s)) ∧
    (∀ d, k.x.semDecl sem = some d → 0 < n → n ≤ d.max → Completes c s fun s' =>
      s' = State.setTile { s with net := s.net ++ [tileRequest s k t kind sem n] } t { s.tile t with hold := hold }) := by
  refine ⟨fun hzero => ⟨_, h, ?_⟩, fun d hd hpos hmax => ⟨_, h, State.issueWait_sends kind hold hd hpos hmax⟩⟩
  rw [hzero, State.issueWait_zero]
  exact s.onTile_advance_scalarDone t

end

/-- At issue a signal leaves and moves on, a wait leaves and holds, and with operand 0 no request leaves. -/
theorem syncAtIssue : SyncAtIssue := by
  rintro s t k sem imm operand n rfl
  exact ⟨fun h => ⟨_, exec_signal h, State.onTile_advance_scalarDone _ t⟩, fun h => wait_completes (exec_wait h),
    fun h => wait_completes (exec_waitv h)⟩

/-! ### Work counters and claims (R295, R298, R299) -/

theorem State.setNext_counter (s : State) (t d : Nat) (v : Word64) (w : Nat) : (s.setNext t d v).counter w = s.counter w := rfl

/-- The work counters with `n` added to the value of counter `w`; an `fadd` of 0 writes none. -/
def State.countersAdded (s : State) (w n : Nat) : Tab Counter :=
  if n = 0 then s.counters else tset s.counters w { s.counter w with value := (s.counter w).value + n }

/-- The counter that was added to holds the sum, and every other one what it held. -/
theorem State.counter_countersAdded (s : State) (w n v : Nat) :
    State.counter { s with counters := s.countersAdded w n } v =
      if v = w then { s.counter w with value := (s.counter w).value + n } else s.counter v := by
  unfold State.countersAdded
  split
  · next hzero =>
    split
    · next hv => rw [hv, hzero]; rfl
    · rfl
  · exact tget_tset Counter.reset s.counters w v _

/-- The work counters with a ticket's bit of counter `w` set. -/
def State.countersClaimed (s : State) (w ticket : Nat) : Tab Counter :=
  tset s.counters w { s.counter w with claimed := insertSet (s.counter w).claimed ticket }

/-- The counter that was claimed from has the bit as well, and every other one what it held. -/
theorem State.counter_countersClaimed (s : State) (w ticket v : Nat) :
    State.counter { s with counters := s.countersClaimed w ticket } v =
      if v = w then { s.counter w with claimed := insertSet (s.counter w).claimed ticket } else s.counter v :=
  tget_tset Counter.reset s.counters w v _

section
variable {s : State} {t : Nat} {k : TileCtx} {d w : Nat}

/-- An `fadd` whose sum fits in 32 bits adds it and returns the old value. -/
theorem exec_fadd {imm operand : Nat} (h : s.fetch t = some (k, .fadd d w imm operand))
    (hfits : (s.counter w).value + operandOf (s.tile t) imm operand ≤ 0xFFFFFFFF) :
    exec (.fadd t) s = .next (State.setNext { s with counters := s.countersAdded w (operandOf (s.tile t) imm operand) } t d
      (BitVec.ofNat 64 (s.counter w).value)) := by
  have harm : exec (.fadd t) s = execFadd t s := rfl
  rw [← Tile.operand_eq] at hfits ⊢
  rw [harm, execFadd, h]
  simp only [if_neg (Nat.not_lt.mpr hfits), State.countersAdded]
  split <;> rfl

section
variable {r : Nat} {c : CtrDecl}
variable (h : s.fetch t = some (k, .claim d w r)) (hc : k.x.ctrDecl w = some c) (hsize : ((s.tile t).reg r).toNat < c.bitmap)
include h hc hsize

/-- A `claim` of a clear bit sets it and returns 1. -/
theorem exec_claim_first (hclear : ((s.tile t).reg r).toNat ∉ (s.counter w).claimed) :
    exec (.claim t) s = .next (State.setNext { s with counters := s.countersClaimed w ((s.tile t).reg r).toNat } t d 1) := by
  have harm : exec (.claim t) s = execClaim t s := rfl
  rw [harm, execClaim, h]
  simp only [hc, if_neg (Nat.not_le.mpr hsize), List.contains_iff_mem, if_neg hclear]
  rfl

/-- A `claim` of a set bit counts a duplicate, leaves its record (TICKET_DUPLICATE) and returns 0. -/
theorem exec_claim_again (hset : ((s.tile t).reg r).toNat ∈ (s.counter w).claimed) :
    ∃ s₁, RecordsOnly (s.onEasel k.e fun x => { x with ticketDups := addSat (2 ^ 64 - 1) x.ticketDups 1 }) s₁ ∧
      exec (.claim t) s = .next (s₁.setNext t d 0) := by
  have harm : exec (.claim t) s = execClaim t s := rfl
  rw [harm, execClaim, h]
  simp only [hc, if_neg (Nat.not_le.mpr hsize), List.contains_iff_mem, if_pos hset]
  exact ⟨_, State.reportSeq_records _ _ _ _ _ _ _ _, rfl⟩

end

end

theorem RecordsOnly.counters {s s' : State} (h : RecordsOnly s s') : s'.counters = s.counters := by rw [h.1]
theorem RecordsOnly.tile {s s' : State} (h : RecordsOnly s s') (t : Nat) : s'.tile t = s.tile t := by rw [State.tile, h.tiles, State.tile]
theorem RecordsOnly.ticketDups {s s' : State} (h : RecordsOnly s s') (e : Nat) : (s'.easel e).ticketDups = (s.easel e).ticketDups := by
  rw [h.2.1 e]

/-- An `fadd` adds once, the first `claim` of a ticket sets its bit, a later one sets none. -/
theorem countersAndClaims : CountersAndClaims := by
  intro s t k d w
  refine ⟨?_, ?_, ?_⟩
  · rintro imm operand n h rfl hfits
    obtain ⟨honly, hadv, hqueues⟩ := State.setNext_scalarDone
      { s with counters := s.countersAdded w (operandOf (s.tile t) imm operand) } t d (BitVec.ofNat 64 (s.counter w).value)
    refine ⟨_, exec_fadd h hfits, honly, hadv, hqueues, ?_, ?_, fun v hv => ?_⟩
    · rw [State.setNext_counter, State.counter_countersAdded, if_pos rfl]
    · rw [State.setNext_counter, State.counter_countersAdded, if_pos rfl]
    · rw [State.setNext_counter, State.counter_countersAdded, if_neg hv]
  · rintro r c ticket h rfl hc hsize hclear
    obtain ⟨honly, hadv, hqueues⟩ := State.setNext_scalarDone
      { s with counters := s.countersClaimed w ((s.tile t).reg r).toNat } t d 1
    refine ⟨_, exec_claim_first h hc hsize hclear, honly, hadv, hqueues, ?_, fun j => ?_, fun v hv => ?_⟩
    · rw [State.setNext_counter, State.counter_countersClaimed, if_pos rfl]
    · rw [State.setNext_counter, State.counter_countersClaimed, if_pos rfl, mem_insertSet]
    · rw [State.setNext_counter, State.counter_countersClaimed, if_neg hv]
  · rintro r c ticket h rfl hc hsize hset
    obtain ⟨s₁, hrecords, hexec⟩ := exec_claim_again h hc hsize hset
    have htile : s₁.tile t = s.tile t := hrecords.tile t
    obtain ⟨-, hadv, hqueues⟩ := s₁.setNext_scalarDone t d 0
    rw [htile] at hadv hqueues
    have hdups := (hrecords.ticketDups k.e).trans (congrArg Easel.ticketDups (s.onEasel_easel_self k.e _))
    exact ⟨_, hexec, hrecords.counters, hadv, hqueues, hdups⟩

/-- Settles O16: the requests of R110 and the counters of R295 and R298. -/
theorem syncInstructions : Obligations.SyncInstructions := ⟨syncAtIssue, countersAndClaims⟩

end Sys2Proof.Machine
end

section
/-! PROOFS. A semaphore at its home (R277 to R279): whom a signal releases, in which order, and a wait that is granted. -/

namespace Sys2Proof.Machine

/-! ### The consuming queue (R278) -/

/-- Those granted and those who stay are the queue, in its order. -/
theorem grantQueue_append (ws : List Waiter) (c : Nat) : (grantQueue ws c).2.2 ++ (grantQueue ws c).2.1 = ws := by
  induction ws generalizing c with
  | nil => rfl
  | cons w ws ih =>
    rw [grantQueue]
    split
    · exact congrArg (w :: ·) (ih (c - w.n))
    · rfl

/-- What is left and what was granted are the count. -/
theorem grantQueue_sum (ws : List Waiter) (c : Nat) : (grantQueue ws c).1 + ((grantQueue ws c).2.2.map (·.n)).sum = c := by
  induction ws generalizing c with
  | nil => rfl
  | cons w ws ih =>
    rw [grantQueue]
    split
    · have hrest := ih (c - w.n)
      simp only [List.map_cons, List.sum_cons]
      omega
    · rfl

/-- Who stays at the head asks for more than is left. -/
theorem grantQueue_head {ws rest : List Waiter} {c : Nat} {w : Waiter} (h : (grantQueue ws c).2.1 = w :: rest) :
    (grantQueue ws c).1 < w.n := by
  induction ws generalizing c with
  | nil => cases h
  | cons v vs ih =>
    rw [grantQueue] at h ⊢
    split at h
    · next hle =>
      rw [if_pos hle]
      exact ih h
    · next hgt =>
      rw [if_neg hgt]
      cases h
      exact Nat.not_le.mp hgt

/-- With nothing left, waiters for something all stay. -/
theorem grantQueue_zero {ws : List Waiter} (h : ∀ w ∈ ws, 0 < w.n) : grantQueue ws 0 = (0, ws, []) := by
  cases ws with
  | nil => rfl
  | cons w ws => exact if_neg (Nat.not_le.mpr (h w List.mem_cons_self))

/-! ### A signal (R277, R279) -/

section
variable (m : Sem) (n : Nat)

theorem Sem.signal_released : (m.signal n).2 =
    m.values.filter (fun w => decide (w.n ≤ m.count.toNat + n)) ++ (grantQueue m.queue (m.count.toNat + n)).2.2 := rfl

theorem Sem.signal_queue : (m.signal n).1.queue = (grantQueue m.queue (m.count.toNat + n)).2.1 := rfl

theorem Sem.signal_count : (m.signal n).1.count = BitVec.ofNat 32 (grantQueue m.queue (m.count.toNat + n)).1 := rfl

theorem Sem.signal_values : (m.signal n).1.values = m.values.filter fun w => decide (m.count.toNat + n < w.n) := by
  simp only [← Nat.not_le, decide_not]
  rfl

theorem Sem.signal_sound : (m.signal n).1.sound = true := m.store_sound _

/-- The count left fits in its word where the sum does. -/
theorem Sem.toNat_signal_count (h : m.count.toNat + n < 2 ^ 32) :
    (m.signal n).1.count.toNat = (grantQueue m.queue (m.count.toNat + n)).1 := by
  have hsum := grantQueue_sum m.queue (m.count.toNat + n)
  rw [m.signal_count, BitVec.toNat_ofNat, Nat.mod_eq_of_lt (by omega)]

/-- A signal of 1 to a semaphore at 0 whose first waiter asks for 1 grants that one. -/
theorem Sem.signal_one {w : Waiter} {ws : List Waiter} (hq : m.queue = w :: ws) (hzero : m.count = 0) (hone : w.n = 1)
    (hpos : ∀ x ∈ ws, 0 < x.n) : (m.signal 1).1.queue = ws ∧ (m.signal 1).1.count = 0 := by
  have hgrant : grantQueue m.queue (m.count.toNat + 1) = (0, ws, [w]) := by
    simp [hq, hzero, grantQueue, hone, grantQueue_zero hpos]
  rw [Sem.signal_queue, Sem.signal_count, hgrant]
  exact ⟨rfl, rfl⟩

end

/-! ### A wait that is granted (R277) -/

/-- Who is released changes no semaphore. -/
@[simp] theorem State.release_sem (s : State) (w : Who) (k : Nat) : (s.release w).sem k = s.sem k := by cases w <;> rfl

/-- A wait that finds no one before it and a count that holds its n takes it from the count, and changes nothing else of the semaphore. -/
theorem State.sem_applyWait_granted {s : State} {e key : Nat} {d : SemDecl} {w : Waiter} (hkey : (s.easel e).semKey d = some key)
    (hsound : (s.sem key).sound = true) (hfirst : (s.sem key).queue = []) (hn : w.n ≤ (s.sem key).count.toNat) :
    (s.applyWait e d w).sem key = (s.sem key).store (BitVec.ofNat 32 ((s.sem key).count.toNat - w.n)) := by
  simp [State.applyWait, hkey, hsound, hfirst, hn]

theorem Sem.store_values (m : Sem) (v : Word32) : (m.store v).values = m.values := rfl

/-- What is taken and what is stored are the count. -/
theorem Sem.toNat_store_sub {m : Sem} {n : Nat} (h : n ≤ m.count.toNat) :
    (m.store (BitVec.ofNat 32 (m.count.toNat - n))).count.toNat + n = m.count.toNat := by
  have hword := m.count.isLt
  rw [Sem.store, BitVec.toNat_ofNat, Nat.mod_eq_of_lt (by omega), Nat.sub_add_cancel h]

/-- A `wait` that may arrive is applied at its home. -/
theorem exec_syncRequestArrival_wait {s : State} {k : Nat} {r : SyncReq} {d : SemDecl} (hr : s.net[k]? = some r)
    (harr : s.arrivable k r = true) (hkind : r.kind = .wait) (hd : (s.easel r.easel).semDecl r.sem = some d) :
    exec (.syncRequestArrival k) s = .next (State.applyWait { s with net := dropAt s.net k } r.easel d ⟨r.who, r.n⟩) := by
  have harm : exec (.syncRequestArrival k) s = execSyncRequestArrival k s := rfl
  have hd' : (State.easel { s with net := dropAt s.net k } r.easel).semDecl r.sem = some d := hd
  simp [harm, execSyncRequestArrival, hr, harr, hd', hkind]

/-- Settles O18: the split of the queue by `grantQueue`, after the value waiters were compared with the whole sum. -/
theorem grantOrder : Obligations.GrantOrder := by
  unfold Obligations.GrantOrder
  refine ⟨fun m n hfits => ?_, fun m w ws => m.signal_one, ?_⟩
  · have hcount := m.toNat_signal_count n hfits
    refine ⟨_, m.signal_released n, (grantQueue_append _ _).symm, ?_, fun w ws hhead => ?_, m.signal_values n, m.signal_sound n⟩
    · rw [hcount]
      exact grantQueue_sum _ _
    · rw [hcount]
      exact grantQueue_head hhead
  · intro s k key r d hr harr hkind hd hkey hsound hfirst hn
    have hsem : (State.applyWait { s with net := dropAt s.net k } r.easel d ⟨r.who, r.n⟩).sem key =
        (s.sem key).store (BitVec.ofNat 32 ((s.sem key).count.toNat - r.n)) :=
      State.sem_applyWait_granted hkey hsound hfirst hn
    exact ⟨_, exec_syncRequestArrival_wait hr harr hkind hd, (congrArg Sem.values hsem).trans (Sem.store_values _ _),
      (congrArg (·.count.toNat + r.n) hsem).trans (Sem.toNat_store_sub hn)⟩

end Sys2Proof.Machine
end

section
/-! PROOFS. The words of stage programs and of address programs and what they decode to (R94, R255; Tables 4-2 to 4-16, Table 10-7). -/

namespace Sys2Proof.Machine

/-! ### Fields of a word -/

theorem fld_lt (w lo n : Nat) : fld w lo n < 2 ^ n := Nat.mod_lt _ (by positivity)

/-- A field is two adjoining ones. -/
theorem fld_add (w lo m n : Nat) : fld w lo (m + n) = fld w (lo + m) n * 2 ^ m + fld w lo m := by
  simp only [fld, pow_add, ← Nat.div_div_eq_div_mul]
  rw [Nat.mod_mul]
  ring

/-! ### Address-program words -/

/-- An address-program instruction has a word of 64 bits, which decodes to it: its fields do not overlap. -/
theorem decodeAddr_encodeAddr (o : AddrOp) (h : o.wf = true) : encodeAddr o < 2 ^ 64 ∧ decodeAddr (encodeAddr o) = some o := by
  generalize hw : encodeAddr o = w
  cases o with (simp [AddrOp.wf] at h; simp only [encodeAddr] at hw)
  | fin => subst hw; decide
  | seti d imm =>
    have hf : fld w 60 4 = 1 ∧ fld w 48 9 = 0 ∧ fld w 57 3 = d ∧ fld w 0 48 = imm := by
      and_intros <;> simp only [fld] <;> omega
    exact ⟨by omega, by simp [decodeAddr, hf]⟩
  | getv d src =>
    have hf : fld w 60 4 = 2 ∧ fld w 32 25 = 0 ∧ fld w 29 3 ≤ 2 ∧ fld w 57 3 = d ∧ fld w 0 32 = src := by
      and_intros <;> simp only [fld] <;> omega
    exact ⟨by omega, by simp [decodeAddr, hf]⟩
  | madd d a b imm =>
    have hf : fld w 60 4 = 3 ∧ fld w 32 19 = 0 ∧ fld w 57 3 = d ∧ fld w 54 3 = a ∧ fld w 51 3 = b ∧ fld w 0 32 = imm := by
      and_intros <;> simp only [fld] <;> omega
    exact ⟨by omega, by simp [decodeAddr, hf]⟩
  | addi d a imm =>
    have hf : fld w 60 4 = 4 ∧ fld w 48 6 = 0 ∧ fld w 57 3 = d ∧ fld w 54 3 = a ∧ fld w 0 48 = imm := by
      and_intros <;> simp only [fld] <;> omega
    exact ⟨by omega, by simp [decodeAddr, hf]⟩
  | loop c body =>
    have hf : fld w 60 4 = 5 ∧ fld w 0 52 = 0 ∧ fld w 57 3 = c ∧ fld w 52 5 = body := by
      and_intros <;> simp only [fld] <;> omega
    have hbody : body ≠ 0 := by omega
    exact ⟨by omega, by simp [decodeAddr, hf, hbody, h]⟩
  | emit a b l advSrc advDst =>
    have hf : fld w 60 4 = 6 ∧ fld w 0 49 = 0 ∧ fld w 57 3 = a ∧ fld w 54 3 = b ∧ fld w 51 3 = l ∧ fld w 50 1 = advSrc ∧
        fld w 49 1 = advDst := by
      and_intros <;> simp only [fld] <;> omega
    exact ⟨by omega, by simp [decodeAddr, hf]⟩
  | zero b l advDst =>
    have hf : fld w 60 4 = 7 ∧ fld w 0 49 = 0 ∧ fld w 57 3 = 0 ∧ fld w 50 1 = 0 ∧ fld w 54 3 = b ∧ fld w 51 3 = l ∧ fld w 49 1 = advDst := by
      and_intros <;> simp only [fld] <;> omega
    exact ⟨by omega, by simp [decodeAddr, hf]⟩

/-- Settles O8: each instruction's fields, read out of its word one by one. -/
theorem addressWordsRoundTrip : Obligations.AddressWordsRoundTrip := by
  unfold Obligations.AddressWordsRoundTrip
  exact decodeAddr_encodeAddr

/-! ### Stage-program words -/

/-- A stage-program instruction has a word of 64 bits, which decodes to it: its fields do not overlap. -/
theorem decodeStage_encodeStage (o : TileOp) (h : o.wf = true) : encodeStage o < 2 ^ 64 ∧ decodeStage (encodeStage o) = some o := by
  generalize hw : encodeStage o = w
  cases o with (simp [TileOp.wf, and_assoc] at h; simp only [encodeStage] at hw)
  | fin => subst hw; decide
  | loop src index body operand =>
    obtain ⟨hsrc, hindex, hpos, hbody, hop, hreg, hslot⟩ := h
    have hf : fld w 60 4 = 0 ∧ fld w 54 6 = 1 ∧ fld w 52 2 = src ∧ fld w 48 4 = index ∧ fld w 35 13 = body ∧ fld w 3 32 = operand ∧
        fld w 0 3 = 0 := by
      and_intros <;> simp only [fld] <;> omega
    have hwide : (src = 0 → fld w 7 28 = 0) ∧ (src = 2 → fld w 11 24 = 0) := by
      simp only [fld]
      omega
    have hle : body ≤ 8191 ∧ body ≠ 0 := by omega
    obtain rfl | rfl | rfl : src = 0 ∨ src = 1 ∨ src = 2 := by omega
    all_goals exact ⟨by omega, by simp [decodeStage, hf, hwide, hle]⟩
  | br a cond kind b target =>
    obtain ⟨ha, hcond, hkind, hb, htarget, hreg, hslot⟩ := h
    have hf : fld w 60 4 = 0 ∧ fld w 54 6 = 2 ∧ fld w 50 4 = a ∧ fld w 47 3 = cond ∧ fld w 45 2 = kind ∧ fld w 13 32 = b ∧
        fld w 0 13 = target := by
      and_intros <;> simp only [fld] <;> omega
    have hwide : (kind = 0 → fld w 17 28 = 0) ∧ (kind = 2 → fld w 21 24 = 0) := by
      simp only [fld]
      omega
    have hne : cond ≠ 7 := by omega
    obtain rfl | rfl | rfl : kind = 0 ∨ kind = 1 ∨ kind = 2 := by omega
    all_goals exact ⟨by omega, by simp [decodeStage, hf, hwide, hne]⟩
  | seti d imm =>
    have hf : fld w 60 4 = 0 ∧ fld w 54 6 = 3 ∧ fld w 48 2 = 0 ∧ fld w 50 4 = d ∧ fld w 0 48 = imm := by
      and_intros <;> simp only [fld] <;> omega
    exact ⟨by omega, by simp [decodeStage, hf]⟩
  | sethi d imm =>
    have hf : fld w 60 4 = 0 ∧ fld w 54 6 = 4 ∧ fld w 16 34 = 0 ∧ fld w 50 4 = d ∧ fld w 0 16 = imm := by
      and_intros <;> simp only [fld] <;> omega
    exact ⟨by omega, by simp [decodeStage, hf]⟩
  | alu d a func imm b =>
    obtain ⟨hd, ha, hfunc, himm, hb, hreg⟩ := h
    have hf : fld w 60 4 = 0 ∧ fld w 54 6 = 5 ∧ fld w 50 4 = d ∧ fld w 46 4 = a ∧ fld w 42 4 = func ∧ fld w 41 1 = imm ∧
        fld w 9 32 = b ∧ fld w 0 9 = 0 := by
      and_intros <;> simp only [fld] <;> omega
    exact ⟨by omega, by simp [decodeStage, hf, hreg]⟩
  | getslot d slot =>
    have hf : fld w 60 4 = 0 ∧ fld w 54 6 = 6 ∧ fld w 0 42 = 0 ∧ fld w 50 4 = d ∧ fld w 42 8 = slot := by
      and_intros <;> simp only [fld] <;> omega
    exact ⟨by omega, by simp [decodeStage, hf]⟩
  | getctx d item =>
    have hf : fld w 60 4 = 0 ∧ fld w 54 6 = 7 ∧ fld w 0 44 = 0 ∧ fld w 50 4 = d ∧ fld w 44 6 = item := by
      and_intros <;> simp only [fld] <;> omega
    exact ⟨by omega, by simp [decodeStage, hf, h]⟩
  | mma aBuf aOff bBuf bOff cBuf cOff shape scale seed part =>
    have hf : fld w 60 4 = 1 ∧ fld w 54 6 = 0 ∧ fld w 0 8 = 0 ∧ fld w 46 8 = aBuf ∧ fld w 42 4 = aOff ∧ fld w 34 8 = bBuf ∧
        fld w 30 4 = bOff ∧ fld w 22 8 = cBuf ∧ fld w 18 4 = cOff ∧ fld w 14 4 = shape ∧ fld w 10 4 = scale ∧ fld w 9 1 = seed ∧
        fld w 8 1 = part := by
      and_intros <;> simp only [fld] <;> omega
    exact ⟨by omega, by simp [decodeStage, hf]⟩
  | vchain buf off param =>
    have hf : fld w 60 4 = 2 ∧ fld w 54 6 = 0 ∧ fld w 0 38 = 0 ∧ fld w 46 8 = buf ∧ fld w 42 4 = off ∧ fld w 38 4 = param := by
      and_intros <;> simp only [fld] <;> omega
    exact ⟨by omega, by simp [decodeStage, hf]⟩
  | issue stream p q buf off useLocal sig sem =>
    obtain ⟨hstream, hp, hq, hbuf, hoff, hlocal, hsig, hsem, hnone⟩ := h
    have hf : fld w 60 4 = 3 ∧ fld w 54 6 = 0 ∧ fld w 0 6 = 0 ∧ fld w 44 10 = stream ∧ fld w 40 4 = p ∧ fld w 36 4 = q ∧
        fld w 28 8 = buf ∧ fld w 24 4 = off ∧ fld w 23 1 = useLocal ∧ fld w 22 1 = sig ∧ fld w 6 16 = sem := by
      and_intros <;> simp only [fld] <;> omega
    exact ⟨by omega, by simp [decodeStage, hf, hnone]⟩
  | await stream all =>
    have hf : fld w 60 4 = 3 ∧ fld w 54 6 = 1 ∧ fld w 0 43 = 0 ∧ fld w 44 10 = stream ∧ fld w 43 1 = all := by
      and_intros <;> simp only [fld] <;> omega
    exact ⟨by omega, by simp [decodeStage, hf]⟩
  | signal sem imm operand =>
    obtain ⟨hsem, himm, hop, hreg⟩ := h
    have hf : fld w 60 4 = 4 ∧ fld w 54 6 = 0 ∧ fld w 0 5 = 0 ∧ fld w 38 16 = sem ∧ fld w 37 1 = imm ∧ fld w 5 32 = operand := by
      and_intros <;> simp only [fld] <;> omega
    exact ⟨by omega, by simp [decodeStage, hf, hreg]⟩
  | wait sem imm operand =>
    obtain ⟨hsem, himm, hop, hreg⟩ := h
    have hf : fld w 60 4 = 4 ∧ fld w 54 6 = 1 ∧ fld w 0 5 = 0 ∧ fld w 38 16 = sem ∧ fld w 37 1 = imm ∧ fld w 5 32 = operand := by
      and_intros <;> simp only [fld] <;> omega
    exact ⟨by omega, by simp [decodeStage, hf, hreg]⟩
  | waitv sem imm operand =>
    obtain ⟨hsem, himm, hop, hreg⟩ := h
    have hf : fld w 60 4 = 4 ∧ fld w 54 6 = 2 ∧ fld w 0 5 = 0 ∧ fld w 38 16 = sem ∧ fld w 37 1 = imm ∧ fld w 5 32 = operand := by
      and_intros <;> simp only [fld] <;> omega
    exact ⟨by omega, by simp [decodeStage, hf, hreg]⟩
  | fadd d counter imm operand =>
    obtain ⟨hd, hcounter, himm, hop, hreg⟩ := h
    have hf : fld w 60 4 = 4 ∧ fld w 54 6 = 3 ∧ fld w 0 1 = 0 ∧ fld w 50 4 = d ∧ fld w 34 16 = counter ∧ fld w 33 1 = imm ∧
        fld w 1 32 = operand := by
      and_intros <;> simp only [fld] <;> omega
    exact ⟨by omega, by simp [decodeStage, hf, hreg]⟩
  | claim d counter ticket =>
    have hf : fld w 60 4 = 4 ∧ fld w 54 6 = 4 ∧ fld w 0 1 = 0 ∧ fld w 33 1 = 0 ∧ fld w 1 28 = 0 ∧ fld w 50 4 = d ∧ fld w 34 16 = counter ∧
        fld w 29 4 = ticket := by
      and_intros <;> simp only [fld] <;> omega
    exact ⟨by omega, by simp [decodeStage, hf]⟩
  | mark value reg =>
    have hf : fld w 60 4 = 5 ∧ fld w 54 6 = 0 ∧ fld w 0 34 = 0 ∧ fld w 38 16 = value ∧ fld w 34 4 = reg := by
      and_intros <;> simp only [fld] <;> omega
    exact ⟨by omega, by simp [decodeStage, hf]⟩

/-- The fields of widths `ns` of a word, from bit `lo` on, joined. -/
def joined (w lo : Nat) : List Nat → Nat
  | [] => 0
  | n :: ns => fld w lo n + 2 ^ n * joined w (lo + n) ns

/-- The fields of widths `ns` joined are one field. -/
theorem joined_eq_fld (w lo : Nat) (ns : List Nat) : joined w lo ns = fld w lo ns.sum := by
  induction ns generalizing lo with
  | nil => simp [joined, fld, Nat.mod_one]
  | cons n ns ih =>
    rw [joined, ih, List.sum_cons, fld_add]
    ring

/-- A word of 64 bits is its fields joined. -/
theorem joined_eq_word {w : Nat} (hw : w < 2 ^ 64) {ns : List Nat} (hns : ns.sum = 64) : joined w 0 ns = w := by
  rw [joined_eq_fld, hns, fld, pow_zero, Nat.div_one, Nat.mod_eq_of_lt hw]

theorem fld_lt_of_le {n k : Nat} (h : 2 ^ n ≤ k) (w lo : Nat) : fld w lo n < k := lt_of_lt_of_le (fld_lt w lo n) h

/-- Where the upper bits of a field are zero, its value lies below them. -/
theorem fld_lt_of_upper_zero {w lo m n : Nat} (h : fld w (lo + m) n = 0) : fld w lo (m + n) < 2 ^ m := by
  rw [fld_add, h, Nat.zero_mul, Nat.zero_add]
  exact fld_lt w lo m

/-- What the selector of a 32-bit operand field leaves of the field: a register number, anything, or a slot number. -/
theorem operand_of_selector {w k lo : Nat} (h : (k = 0 ∧ fld w (lo + 4) 28 = 0) ∨ k = 1 ∨ (k = 2 ∧ fld w (lo + 8) 24 = 0)) :
    k < 3 ∧ (k ≠ 0 ∨ fld w lo 32 < 16) ∧ (k ≠ 2 ∨ fld w lo 32 < 256) := by
  obtain ⟨rfl, hz⟩ | rfl | ⟨rfl, hz⟩ := h
  · exact ⟨by decide, .inr (fld_lt_of_upper_zero (m := 4) hz), .inl (by decide)⟩
  · simp
  · exact ⟨by decide, .inl (by decide), .inr (fld_lt_of_upper_zero (m := 8) hz)⟩

/-- A word that decodes is the word of the instruction it decodes to: each field of the instruction is one of the word, and the others are
zero. -/
theorem encodeStage_of_decodeStage {w : Nat} {o : TileOp} (hw : w < 2 ^ 64) (h : decodeStage w = some o) :
    o.wf = true ∧ encodeStage o = w := by
  have hlt : ∀ {n k : Nat}, 2 ^ n ≤ k → ∀ lo, fld w lo n < k := fun hk lo => fld_lt_of_le hk w lo
  unfold decodeStage at h
  dsimp only at h
  split at h
  all_goals rename_i hcls hop
  case h_1 =>
    obtain ⟨hc, rfl⟩ := (Option.ite_none_right_eq_some.mp h).imp_right Option.some.inj
    have hw' := joined_eq_word hw (ns := [54, 6, 4]) rfl
    simp only [joined, hcls, hop, hc, Nat.reduceAdd] at hw'
    exact ⟨rfl, hw'⟩
  case h_2 =>
    obtain ⟨hc, rfl⟩ := (Option.ite_none_right_eq_some.mp h).imp_right Option.some.inj
    simp only [Bool.and_eq_true, decide_eq_true_eq, bne_iff_ne, ne_eq, and_assoc] at hc
    have hw' := joined_eq_word hw (ns := [3, 32, 13, 4, 2, 6, 4]) rfl
    simp only [joined, hcls, hop, hc, Nat.reduceAdd] at hw'
    simp only [TileOp.wf, encodeStage, Bool.and_eq_true, Bool.or_eq_true, decide_eq_true_eq, bne_iff_ne]
    obtain ⟨hok, hpos, hle, -⟩ := hc
    obtain ⟨hsrc, hreg, hslot⟩ : fld w 52 2 < 3 ∧ _ := operand_of_selector (w := w) (lo := 3) (by split at hok <;> simp_all)
    exact ⟨⟨⟨⟨⟨⟨⟨hsrc, hlt (by norm_num) _⟩, Nat.pos_of_ne_zero hpos⟩, Nat.lt_succ_of_le hle⟩, hlt le_rfl _⟩, hreg⟩, hslot⟩,
      .trans (by ring) hw'⟩
  case h_3 =>
    obtain ⟨hc, rfl⟩ := (Option.ite_none_right_eq_some.mp h).imp_right Option.some.inj
    simp only [Bool.and_eq_true, bne_iff_ne, ne_eq] at hc
    have hw' := joined_eq_word hw (ns := [13, 32, 2, 3, 4, 6, 4]) rfl
    simp only [joined, hcls, hop, Nat.reduceAdd] at hw'
    simp only [TileOp.wf, encodeStage, Bool.and_eq_true, Bool.or_eq_true, decide_eq_true_eq, bne_iff_ne]
    obtain ⟨hok, hne⟩ := hc
    obtain ⟨hkind, hreg, hslot⟩ : fld w 45 2 < 3 ∧ _ := operand_of_selector (w := w) (lo := 13) (by split at hok <;> simp_all)
    exact ⟨⟨⟨⟨⟨⟨⟨hlt (by norm_num) _, lt_of_le_of_ne (Nat.le_of_lt_succ (hlt (by norm_num) _)) hne⟩, hkind⟩, hlt le_rfl _⟩, hlt (by norm_num) _⟩,
      hreg⟩, hslot⟩, .trans (by ring) hw'⟩
  case h_4 =>
    obtain ⟨hc, rfl⟩ := (Option.ite_none_right_eq_some.mp h).imp_right Option.some.inj
    have hw' := joined_eq_word hw (ns := [48, 2, 4, 6, 4]) rfl
    simp only [joined, hcls, hop, hc, Nat.reduceAdd] at hw'
    simp only [TileOp.wf, encodeStage, Bool.and_eq_true, decide_eq_true_eq]
    exact ⟨by and_intros <;> exact hlt (by norm_num) _, .trans (by ring) hw'⟩
  case h_5 =>
    obtain ⟨hc, rfl⟩ := (Option.ite_none_right_eq_some.mp h).imp_right Option.some.inj
    have hw' := joined_eq_word hw (ns := [16, 34, 4, 6, 4]) rfl
    simp only [joined, hcls, hop, hc, Nat.reduceAdd] at hw'
    simp only [TileOp.wf, encodeStage, Bool.and_eq_true, decide_eq_true_eq]
    exact ⟨by and_intros <;> exact hlt (by norm_num) _, .trans (by ring) hw'⟩
  case h_6 =>
    obtain ⟨hc, rfl⟩ := (Option.ite_none_right_eq_some.mp h).imp_right Option.some.inj
    simp only [Bool.and_eq_true, decide_eq_true_eq] at hc
    have hw' := joined_eq_word hw (ns := [9, 32, 1, 4, 4, 4, 6, 4]) rfl
    simp only [joined, hcls, hop, hc, Nat.reduceAdd] at hw'
    simp only [TileOp.wf, encodeStage, Bool.and_eq_true, decide_eq_true_eq, hc, and_true]
    exact ⟨by and_intros <;> exact hlt (by norm_num) _, .trans (by ring) hw'⟩
  case h_7 =>
    obtain ⟨hc, rfl⟩ := (Option.ite_none_right_eq_some.mp h).imp_right Option.some.inj
    have hw' := joined_eq_word hw (ns := [42, 8, 4, 6, 4]) rfl
    simp only [joined, hcls, hop, hc, Nat.reduceAdd] at hw'
    simp only [TileOp.wf, encodeStage, Bool.and_eq_true, decide_eq_true_eq]
    exact ⟨by and_intros <;> exact hlt (by norm_num) _, .trans (by ring) hw'⟩
  case h_8 =>
    obtain ⟨hc, rfl⟩ := (Option.ite_none_right_eq_some.mp h).imp_right Option.some.inj
    simp only [Bool.and_eq_true, decide_eq_true_eq] at hc
    have hw' := joined_eq_word hw (ns := [44, 6, 4, 6, 4]) rfl
    simp only [joined, hcls, hop, hc, Nat.reduceAdd] at hw'
    simp only [TileOp.wf, encodeStage, Bool.and_eq_true, decide_eq_true_eq]
    exact ⟨⟨hlt (by norm_num) _, hc.2⟩, .trans (by ring) hw'⟩
  case h_9 =>
    obtain ⟨hc, rfl⟩ := (Option.ite_none_right_eq_some.mp h).imp_right Option.some.inj
    have hw' := joined_eq_word hw (ns := [8, 1, 1, 4, 4, 4, 8, 4, 8, 4, 8, 6, 4]) rfl
    simp only [joined, hcls, hop, hc, Nat.reduceAdd] at hw'
    simp only [TileOp.wf, encodeStage, Bool.and_eq_true, decide_eq_true_eq]
    exact ⟨by and_intros <;> exact hlt (by norm_num) _, .trans (by ring) hw'⟩
  case h_10 =>
    obtain ⟨hc, rfl⟩ := (Option.ite_none_right_eq_some.mp h).imp_right Option.some.inj
    have hw' := joined_eq_word hw (ns := [38, 4, 4, 8, 6, 4]) rfl
    simp only [joined, hcls, hop, hc, Nat.reduceAdd] at hw'
    simp only [TileOp.wf, encodeStage, Bool.and_eq_true, decide_eq_true_eq]
    exact ⟨by and_intros <;> exact hlt (by norm_num) _, .trans (by ring) hw'⟩
  case h_11 =>
    obtain ⟨hc, rfl⟩ := (Option.ite_none_right_eq_some.mp h).imp_right Option.some.inj
    simp only [Bool.and_eq_true, decide_eq_true_eq] at hc
    have hw' := joined_eq_word hw (ns := [6, 16, 1, 1, 4, 8, 4, 4, 10, 6, 4]) rfl
    simp only [joined, hcls, hop, hc, Nat.reduceAdd] at hw'
    simp only [TileOp.wf, encodeStage, Bool.and_eq_true, decide_eq_true_eq, hc, and_true]
    exact ⟨by and_intros <;> exact hlt (by norm_num) _, .trans (by ring) hw'⟩
  case h_12 =>
    obtain ⟨hc, rfl⟩ := (Option.ite_none_right_eq_some.mp h).imp_right Option.some.inj
    have hw' := joined_eq_word hw (ns := [43, 1, 10, 6, 4]) rfl
    simp only [joined, hcls, hop, hc, Nat.reduceAdd] at hw'
    simp only [TileOp.wf, encodeStage, Bool.and_eq_true, decide_eq_true_eq]
    exact ⟨by and_intros <;> exact hlt (by norm_num) _, .trans (by ring) hw'⟩
  case h_13 =>
    obtain ⟨hc, rfl⟩ := (Option.ite_none_right_eq_some.mp h).imp_right Option.some.inj
    simp only [Bool.and_eq_true, decide_eq_true_eq] at hc
    have hw' := joined_eq_word hw (ns := [5, 32, 1, 16, 6, 4]) rfl
    simp only [joined, hcls, hop, hc, Nat.reduceAdd] at hw'
    simp only [TileOp.wf, encodeStage, Bool.and_eq_true, decide_eq_true_eq, hc, and_true]
    exact ⟨by and_intros <;> exact hlt (by norm_num) _, .trans (by ring) hw'⟩
  case h_14 =>
    obtain ⟨hc, rfl⟩ := (Option.ite_none_right_eq_some.mp h).imp_right Option.some.inj
    simp only [Bool.and_eq_true, decide_eq_true_eq] at hc
    have hw' := joined_eq_word hw (ns := [5, 32, 1, 16, 6, 4]) rfl
    simp only [joined, hcls, hop, hc, Nat.reduceAdd] at hw'
    simp only [TileOp.wf, encodeStage, Bool.and_eq_true, decide_eq_true_eq, hc, and_true]
    exact ⟨by and_intros <;> exact hlt (by norm_num) _, .trans (by ring) hw'⟩
  case h_15 =>
    obtain ⟨hc, rfl⟩ := (Option.ite_none_right_eq_some.mp h).imp_right Option.some.inj
    simp only [Bool.and_eq_true, decide_eq_true_eq] at hc
    have hw' := joined_eq_word hw (ns := [5, 32, 1, 16, 6, 4]) rfl
    simp only [joined, hcls, hop, hc, Nat.reduceAdd] at hw'
    simp only [TileOp.wf, encodeStage, Bool.and_eq_true, decide_eq_true_eq, hc, and_true]
    exact ⟨by and_intros <;> exact hlt (by norm_num) _, .trans (by ring) hw'⟩
  case h_16 =>
    obtain ⟨hc, rfl⟩ := (Option.ite_none_right_eq_some.mp h).imp_right Option.some.inj
    simp only [Bool.and_eq_true, decide_eq_true_eq] at hc
    have hw' := joined_eq_word hw (ns := [1, 32, 1, 16, 4, 6, 4]) rfl
    simp only [joined, hcls, hop, hc, Nat.reduceAdd] at hw'
    simp only [TileOp.wf, encodeStage, Bool.and_eq_true, decide_eq_true_eq, hc, and_true]
    exact ⟨by and_intros <;> exact hlt (by norm_num) _, .trans (by ring) hw'⟩
  case h_17 =>
    obtain ⟨hc, rfl⟩ := (Option.ite_none_right_eq_some.mp h).imp_right Option.some.inj
    simp only [Bool.and_eq_true, decide_eq_true_eq, and_assoc] at hc
    have hw' := joined_eq_word hw (ns := [1, 28, 4, 1, 16, 4, 6, 4]) rfl
    simp only [joined, hcls, hop, hc, Nat.reduceAdd] at hw'
    simp only [TileOp.wf, encodeStage, Bool.and_eq_true, decide_eq_true_eq]
    exact ⟨by and_intros <;> exact hlt (by norm_num) _, .trans (by ring) hw'⟩
  case h_18 =>
    obtain ⟨hc, rfl⟩ := (Option.ite_none_right_eq_some.mp h).imp_right Option.some.inj
    have hw' := joined_eq_word hw (ns := [34, 4, 16, 6, 4]) rfl
    simp only [joined, hcls, hop, hc, Nat.reduceAdd] at hw'
    simp only [TileOp.wf, encodeStage, Bool.and_eq_true, decide_eq_true_eq]
    exact ⟨by and_intros <;> exact hlt (by norm_num) _, .trans (by ring) hw'⟩
  case h_19 => cases h

/-- Settles O7: each field read out of a word, and each word joined from its fields. -/
theorem stageWords : Obligations.StageWords := by
  unfold Obligations.StageWords
  exact ⟨decodeStage_encodeStage, fun _ _ => encodeStage_of_decodeStage⟩

end Sys2Proof.Machine
end

section
/-! PROOFS. One step of the block, the device before any supply is present, and words written out from the encoding tables. -/

namespace Sys2Proof.Machine

/-- Settles O1: the three branches of `step`. -/
theorem stepRunsFront : Obligations.StepRunsFront := by
  unfold Obligations.StepRunsFront
  refine ⟨fun c rest s => rfl, ?_, ?_⟩
  · rintro s t c rest hp hr hw rfl
    simp [step, hp, State.nextRequest, hr, hw]
  · rintro s hp (hw | hr)
    · simp [step, hp, State.nextRequest, hw]
    · cases hw : s.dict.waiting <;> simp [step, hp, State.nextRequest, hr, hw]

theorem mreads_nil (a n : Nat) : mreads [] a n = List.replicate n 0 := by
  induction n generalizing a with
  | zero => rfl
  | succ n ih => simp [mreads, ih, List.replicate_succ]

/-- A memory that lists no byte reads as zeros. -/
@[simp] theorem mgets_nil (a n : Nat) : mgets [] a n = List.replicate n 0 := mreads_nil a n

theorem Sem.reset_sound : Sem.reset.sound = true := by decide

/-- Settles O2: each field of `State.reset`; a table that lists nothing gives the reset value of its units. -/
theorem resetLeaves : Obligations.ResetLeaves := by
  unfold Obligations.ResetLeaves
  refine ⟨fun a n => ?_, rfl, rfl, fun e => ⟨rfl, rfl, rfl⟩, fun t r => ⟨rfl, ?_⟩, fun k => ⟨rfl, Sem.reset_sound⟩, rfl, rfl, rfl, fun p => rfl⟩
  · have hmem : State.reset.mem = [] ∧ State.reset.flash = [] := ⟨rfl, rfl⟩
    simp [State.readAt, hmem]
  · have hregs : (State.reset.tile t).regs = [] := rfl
    simp [Tile.reg, hregs]

/-- Settles O3: at reset nothing is listed in memory or among the semaphores. -/
theorem invariantsAtReset : Obligations.InvariantsAtReset := by
  unfold Obligations.InvariantsAtReset
  exact ⟨⟨rfl, rfl⟩, fun p hp => absurd hp (List.not_mem_nil)⟩

/-- Settles O9: each word read by the decoders. -/
theorem wordsDecode : Obligations.WordsDecode := by
  unfold Obligations.WordsDecode
  decide

end Sys2Proof.Machine
end

section
/-! PROOFS. Bytes stored and read back, page-written bits, and poison marks (R56, R249, R267, R269). -/

namespace Sys2Proof.Machine

/-! ### What a store leaves of each field -/

/-- Whether a store at `a` finds its DRAM page unwritten (R56). -/
def State.fillsPage (s : State) (a : Nat) : Bool := isDram a && !s.tiers.written.contains (a / pageBytes)

theorem isDram_lt_flashBase {a : Nat} (h : isDram a = true) : a < flashBase := by
  have hd : a < 2 * lpddrBase := of_decide_eq_true h
  unfold lpddrBase at hd
  unfold flashBase
  omega

@[simp] theorem State.readAt_length (s : State) (a n : Nat) : (s.readAt a n).length = n := by
  unfold State.readAt
  split_ifs <;> simp

/-- One byte of a canonical memory, by the place at which it lies. -/
theorem State.readAt_one {s : State} (h : MemoriesCanonical s) (b : Nat) : s.readAt b 1 =
    [if flashBase ≤ b then mget s.flash (b - flashBase) else if s.fillsPage b then 0 else mget s.mem b] := by
  unfold State.readAt State.fillsPage
  split
  · simp [mgets_eq _ _ _ h.2]
  · split <;> simp_all [mgets_eq _ _ _ h.1]

section
variable {s : State} {a : Nat} {bs : List Byte}

theorem State.writeAt_nil (s : State) (a : Nat) : s.writeAt a [] = s := rfl

theorem State.writeAt_eq (hbs : bs ≠ []) : s.writeAt a bs =
    let u : State := { s with
      poison := s.poison.filter fun w => decide (w * 8 < a) || decide (a + bs.length < w * 8 + poisonUnit (w * 8))
      tags := tdelIf (tagged a bs.length) s.tags }
    if flashBase ≤ a then { u with flash := mputs s.flash (a - flashBase) bs }
    else if s.fillsPage a then
      { u with
        mem := mputs (mclear s.mem (a / pageBytes * pageBytes) pageBytes) a bs
        tiers := { s.tiers with written := insertSet s.tiers.written (a / pageBytes) } }
    else { u with mem := mputs s.mem a bs } := by
  rw [State.writeAt, if_neg (by simpa using hbs)]
  rfl

theorem State.writeAt_poison (hbs : bs ≠ []) : (s.writeAt a bs).poison =
    s.poison.filter fun w => decide (w * 8 < a) || decide (a + bs.length < w * 8 + poisonUnit (w * 8)) := by
  rw [State.writeAt_eq hbs]
  dsimp only
  split_ifs <;> rfl

theorem State.writeAt_flash (hbs : bs ≠ []) :
    (s.writeAt a bs).flash = if flashBase ≤ a then mputs s.flash (a - flashBase) bs else s.flash := by
  rw [State.writeAt_eq hbs]
  dsimp only
  split_ifs <;> rfl

theorem State.writeAt_mem (hbs : bs ≠ []) : (s.writeAt a bs).mem =
    if flashBase ≤ a then s.mem
    else if s.fillsPage a then mputs (mclear s.mem (a / pageBytes * pageBytes) pageBytes) a bs else mputs s.mem a bs := by
  rw [State.writeAt_eq hbs]
  dsimp only
  split_ifs <;> rfl

theorem State.writeAt_written (hbs : bs ≠ []) : (s.writeAt a bs).tiers.written =
    if s.fillsPage a then insertSet s.tiers.written (a / pageBytes) else s.tiers.written := by
  have hflash : s.fillsPage a = true → ¬flashBase ≤ a := fun h =>
    Nat.not_le.mpr (isDram_lt_flashBase (Bool.and_eq_true_iff.mp h).1)
  rw [State.writeAt_eq hbs]
  dsimp only
  split_ifs with hf hp hp
  · exact absurd hf (hflash hp)
  all_goals rfl

/-- A store to DRAM leaves its page written, and no other page's bit changes. -/
theorem State.mem_writeAt_written (hd : isDram a = true) (hbs : bs ≠ []) (q : Nat) :
    q ∈ (s.writeAt a bs).tiers.written ↔ q = a / pageBytes ∨ q ∈ s.tiers.written := by
  rw [State.writeAt_written hbs]
  by_cases hin : a / pageBytes ∈ s.tiers.written
  · have hfill : s.fillsPage a = false := by simp [State.fillsPage, hin]
    simp only [hfill, Bool.false_eq_true, if_false]
    exact ⟨.inr, by rintro (rfl | h); exacts [hin, h]⟩
  · have hfill : s.fillsPage a = true := by simp [State.fillsPage, hd, hin]
    simp [hfill]

end

/-- Settles O10: a read looks at the page-written bit first, and a store to an unwritten page puts it in. -/
theorem unwrittenPageReadsZero : Obligations.UnwrittenPageReadsZero := by
  unfold Obligations.UnwrittenPageReadsZero
  refine ⟨fun s a n hd hw => ?_, fun s a bs hd hbs => ⟨?_, fun q hq => ?_⟩⟩
  · simp [State.readAt, Nat.not_le.mpr (isDram_lt_flashBase hd), hd, hw]
  · simp [State.mem_writeAt_written hd hbs]
  · simp [State.mem_writeAt_written hd hbs, hq]

/-! ### Bytes stored -/

theorem State.writeAt_canonical {s : State} (h : MemoriesCanonical s) (a : Nat) (bs : List Byte) : MemoriesCanonical (s.writeAt a bs) := by
  obtain ⟨-, hm, hf⟩ := s.writeAt_memoryOnly a bs
  exact ⟨hm h.1, hf h.2⟩

/-- Bytes are read out of a memory that has just taken them in. -/
theorem mgets_mputs {m : Mem} (h : Memory.wf m = true) (a : Nat) (bs : List Byte) : mgets (mputs m a bs) a bs.length = bs := by
  rw [mgets_eq _ _ _ (mputs_wf _ _ _ h)]
  refine List.ext_getElem (by simp) fun i hi hi' => ?_
  simp [mget_mputs _ _ _ _ h, hi']

/-- Bytes stored within one page are read back. -/
theorem State.readAt_writeAt_self {s : State} (h : MemoriesCanonical s) (a : Nat) (bs : List Byte) :
    (s.writeAt a bs).readAt a bs.length = bs := by
  by_cases hbs : bs = []
  · subst hbs
    exact List.eq_nil_of_length_eq_zero (s.readAt_length a 0)
  · unfold State.readAt
    rw [State.writeAt_flash hbs, State.writeAt_mem hbs]
    split
    · exact mgets_mputs h.2 _ _
    · cases hd : isDram a with
      | false => simp [State.fillsPage, hd, mgets_mputs h.1]
      | true =>
        have hin : a / pageBytes ∈ (s.writeAt a bs).tiers.written := (State.mem_writeAt_written hd hbs _).mpr (.inl rfl)
        rw [if_neg (by simp [hin])]
        split
        · exact mgets_mputs (mclear_wf _ _ _ h.1) _ _
        · exact mgets_mputs h.1 _ _

theorem div_eq_iff_in_page {a b : Nat} : b / pageBytes = a / pageBytes ↔ a / pageBytes * pageBytes ≤ b ∧ b < a / pageBytes * pageBytes + pageBytes := by
  simp only [pageBytes]
  omega

/-- The page of a DRAM byte is DRAM as a whole. -/
theorem isDram_of_same_page {a b : Nat} (h : b / pageBytes = a / pageBytes) : isDram b = isDram a := by
  simp only [isDram, lpddrBase, pageBytes] at *
  congr 1
  simp only [eq_iff_iff]
  omega

/-- After a store to DRAM, its own page is written and every other page is as it was. -/
theorem State.fillsPage_writeAt {s : State} {a : Nat} {bs : List Byte} (hbs : bs ≠ []) (b : Nat) :
    (s.writeAt a bs).fillsPage b = (s.fillsPage b && !(s.fillsPage a && b / pageBytes = a / pageBytes)) := by
  by_cases hd : isDram b = true
  · by_cases hp : b / pageBytes = a / pageBytes
    · have hda := (isDram_of_same_page hp).symm.trans hd
      simp [State.fillsPage, State.mem_writeAt_written hda hbs, hp, hda, hd]
    · by_cases hda : isDram a = true
      · simp [State.fillsPage, State.mem_writeAt_written hda hbs, hp]
      · simp [State.fillsPage, State.writeAt_written hbs, hda]
  · simp [State.fillsPage, hd]

/-- A byte outside a store reads as before. -/
theorem State.readAt_writeAt_other {s : State} (h : MemoriesCanonical s) {a b : Nat} {bs : List Byte} (hout : b < a ∨ a + bs.length ≤ b) :
    (s.writeAt a bs).readAt b 1 = s.readAt b 1 := by
  by_cases hbs : bs = []
  · rw [hbs, State.writeAt_nil]
  have hput : ∀ m, Memory.wf m = true → mget (mputs m a bs) b = mget m b := fun m hm => by
    rw [mget_mputs _ _ _ _ hm, if_neg (by omega)]
  rw [State.readAt_one (State.writeAt_canonical h _ _), State.readAt_one h, State.writeAt_flash hbs, State.writeAt_mem hbs,
    State.fillsPage_writeAt hbs]
  congr 1
  by_cases hb : flashBase ≤ b
  · by_cases ha : flashBase ≤ a
    · rw [if_pos hb, if_pos hb, if_pos ha, mget_mputs _ _ _ _ h.2, if_neg (by omega)]
    · rw [if_pos hb, if_pos hb, if_neg ha]
  · rw [if_neg hb, if_neg hb]
    by_cases ha : flashBase ≤ a
    · have hfill : s.fillsPage a = false := by
        rw [← Bool.not_eq_true]
        exact fun hc => Nat.not_le.mpr (isDram_lt_flashBase (Bool.and_eq_true_iff.mp hc).1) ha
      simp [ha, hfill]
    · cases hfill : s.fillsPage a with
      | false => simp [ha, hput _ h.1]
      | true =>
        by_cases hp : b / pageBytes = a / pageBytes
        · have hfillb : s.fillsPage b = true := by
            rw [← hfill, State.fillsPage, isDram_of_same_page hp, hp, State.fillsPage]
          simp [ha, hp, hfillb, hput _ (mclear_wf _ _ _ h.1), mget_mclear, div_eq_iff_in_page.mp hp]
        · simp [ha, hp, hput _ (mclear_wf _ _ _ h.1), mget_mclear, mt div_eq_iff_in_page.mpr hp]

/-! ### Poison -/

/-- What a mark covers: [8 w, 8 w + its unit). -/
theorem State.poisoned_iff (s : State) (b m : Nat) :
    s.poisoned b m = true ↔ ∃ w ∈ s.poison, w * 8 < b + m ∧ b < w * 8 + poisonUnit (w * 8) := by
  simp [State.poisoned]

theorem mem_foldl_insertSet (l : List Nat) (p : List Nat) (w : Nat) : w ∈ l.foldl insertSet p ↔ w ∈ l ∨ w ∈ p := by
  induction l generalizing p with
  | nil => simp
  | cons x l ih =>
    rw [List.foldl_cons, ih, mem_insertSet, List.mem_cons]
    tauto

/-- The marks over a range: one for each word, or flash block, that meets it. -/
theorem mem_poisonMarks {a n w : Nat} : w ∈ poisonMarks a n ↔
    ∃ k, a / poisonUnit a ≤ k ∧ k < ceilDiv (a + n) (poisonUnit a) ∧ w = k * (poisonUnit a / 8) := by
  simp [poisonMarks, and_assoc, eq_comm]

/-- The mark over a byte of a range that was marked. -/
theorem State.exists_mark {s : State} {a n x : Nat} (hlo : a ≤ x) (hhi : x < a + n) :
    ∃ w ∈ (s.setPoison a n).poison, w * 8 ≤ x ∧ x < w * 8 + poisonUnit (w * 8) ∧ w * 8 = x / poisonUnit a * poisonUnit a := by
  refine ⟨x / poisonUnit a * (poisonUnit a / 8), ?_, ?_⟩
  · refine (mem_foldl_insertSet _ _ _).mpr (.inl (mem_poisonMarks.mpr ⟨_, Nat.div_le_div_right hlo, ?_, rfl⟩))
    unfold poisonUnit ceilDiv
    split <;> simp <;> omega
  · unfold poisonUnit flashBase
    split <;> split <;> omega

/-- A range that meets a marked one is poisoned. -/
theorem State.poisoned_setPoison {s : State} {a n b m : Nat} (hn : 0 < n) (hab : a < b + m) (hba : b < a + n) (hm : 0 < m) :
    (s.setPoison a n).poisoned b m = true := by
  obtain ⟨w, hw, hle, hlt, -⟩ := State.exists_mark (s := s) (a := a) (n := n) (x := max a b) (by omega) (by omega)
  exact (State.poisoned_iff _ _ _).mpr ⟨w, hw, by omega, by omega⟩

/-- A flash block is marked as a whole. -/
theorem State.poisoned_setPoison_block {s : State} {a n b m : Nat} (hn : 0 < n) (hm : 0 < m) (ha : flashBase ≤ a)
    (hblock : a / 65536 = b / 65536) : (s.setPoison a n).poisoned b m = true := by
  obtain ⟨w, hw, -, -, heq⟩ := State.exists_mark (s := s) (a := a) (n := n) (x := a) (by omega) (by omega)
  have hunit : poisonUnit a = 65536 := if_pos ha
  rw [hunit] at heq
  have hflash : flashBase ≤ w * 8 := by
    unfold flashBase at *
    omega
  refine (State.poisoned_iff _ _ _).mpr ⟨w, hw, ?_, ?_⟩
  · omega
  · rw [poisonUnit, if_pos hflash]
    omega

theorem poisonUnit_pos (a : Nat) : 8 ≤ poisonUnit a := by
  unfold poisonUnit
  split <;> decide

/-- Which marks a store leaves. -/
theorem State.mem_poison_writeAt {s : State} {a w : Nat} {bs : List Byte} (hbs : bs ≠ []) :
    w ∈ (s.writeAt a bs).poison ↔ w ∈ s.poison ∧ (w * 8 < a ∨ a + bs.length < w * 8 + poisonUnit (w * 8)) := by
  simp [State.writeAt_poison hbs]

/-- A range that only marks over it which the store keeps can meet is poisoned as before. -/
theorem State.poisoned_writeAt_of_kept {s : State} {a b m : Nat} {bs : List Byte}
    (hkeep : ∀ w, w * 8 < b + m → b < w * 8 + poisonUnit (w * 8) → w * 8 < a ∨ a + bs.length < w * 8 + poisonUnit (w * 8)) :
    (s.writeAt a bs).poisoned b m = s.poisoned b m := by
  by_cases hbs : bs = []
  · rw [hbs, State.writeAt_nil]
  rw [Bool.eq_iff_iff, State.poisoned_iff, State.poisoned_iff]
  constructor
  · rintro ⟨w, hw, hlt, hgt⟩
    exact ⟨w, ((State.mem_poison_writeAt hbs).mp hw).1, hlt, hgt⟩
  · rintro ⟨w, hw, hlt, hgt⟩
    exact ⟨w, (State.mem_poison_writeAt hbs).mpr ⟨hw, hkeep w hlt hgt⟩, hlt, hgt⟩

/-- A store of whole words below flash leaves no mark over them. -/
theorem State.poisoned_writeAt_self {s : State} {a : Nat} {bs : List Byte} (ha : a % 8 = 0) (hlen : bs.length % 8 = 0)
    (hflash : a + bs.length ≤ flashBase) : (s.writeAt a bs).poisoned a bs.length = false := by
  rw [← Bool.not_eq_true, State.poisoned_iff]
  rintro ⟨w, hw, hlt, hgt⟩
  have hunit : poisonUnit (w * 8) = 8 := if_neg (by omega)
  rw [hunit] at hgt
  by_cases hbs : bs = []
  · subst hbs
    simp only [List.length_nil] at *
    omega
  · have hkept := ((State.mem_poison_writeAt hbs).mp hw).2
    rw [hunit] at hkept
    omega

theorem poisonMarkedAndCleared : PoisonMarkedAndCleared := by
  refine ⟨fun _ _ _ _ _ hn hab hba hm => State.poisoned_setPoison hn hab hba hm,
    fun _ _ _ _ _ hn hm ha hblock => State.poisoned_setPoison_block hn hm ha hblock,
    fun _ _ _ ha hlen hflash => State.poisoned_writeAt_self ha hlen hflash, ?_, ?_⟩
  · intro s a b m bs hm hword hshort hin
    refine State.poisoned_writeAt_of_kept fun w hlt hgt => ?_
    have := poisonUnit_pos (w * 8)
    omega
  · intro s a b m bs ha hlen hout
    refine State.poisoned_writeAt_of_kept fun w hlt hgt => ?_
    omega

/-- Settles O11: a store changes its own bytes alone, and takes away the marks that it covers whole. -/
theorem memoryAndPoison : Obligations.MemoryAndPoison := by
  unfold Obligations.MemoryAndPoison
  exact ⟨fun s a bs h _ => ⟨State.readAt_writeAt_self h a bs, fun b hout => State.readAt_writeAt_other h hout⟩, poisonMarkedAndCleared⟩

end Sys2Proof.Machine
end

section
/-! PROOFS. The scalar and control instructions of a tile, and the tile that is done (R92, R95 to R97, R99). -/

namespace Sys2Proof.Machine

section
variable {s : State} {t : Nat} {k : TileCtx}

/-! ### Scalar instructions -/

theorem exec_seti {d imm : Nat} (h : s.fetch t = some (k, .seti d imm)) :
    exec (.seti t) s = .next (s.setNext t d (BitVec.ofNat 64 imm)) := by
  have harm : exec (.seti t) s = execSeti t s := rfl
  rw [harm, execSeti, h]

theorem exec_sethi {d imm : Nat} (h : s.fetch t = some (k, .sethi d imm)) :
    exec (.sethi t) s = .next (s.setNext t d (sethiValue ((s.tile t).reg d) imm)) := by
  have harm : exec (.sethi t) s = execSethi t s := rfl
  rw [harm, execSethi, h]

theorem exec_getslot {d slot : Nat} (h : s.fetch t = some (k, .getslot d slot)) :
    exec (.getslot t) s = .next (s.setNext t d (BitVec.ofNat 64 (slotAt k.slots slot))) := by
  have harm : exec (.getslot t) s = execGetslot t s := rfl
  rw [harm, execGetslot, h]

theorem exec_getctx {d item : Nat} (h : s.fetch t = some (k, .getctx d item)) :
    exec (.getctx t) s = .next (s.setNext t d (BitVec.ofNat 64 (k.item item))) := by
  have harm : exec (.getctx t) s = execGetctx t s := rfl
  rw [harm, execGetctx, h]

/-! ### `end`, `loop` and `br` -/

theorem exec_endProg (h : s.fetch t = some (k, .fin)) : exec (.endProg t) s =
    .next (s.onTile t fun x => { x with ended := true, hold := .none, counters := bumpAt x.counters 10 1 }) := by
  have harm : exec (.endProg t) s = execEndProg t s := rfl
  rw [harm, execEndProg, h]

theorem exec_loop {src index body operand : Nat} (h : s.fetch t = some (k, .loop src index body operand)) :
    exec (.loop t) s = .next (s.onTile t fun x => x.enterLoop index body (loopCount k x src operand)) := by
  have harm : exec (.loop t) s = execLoop t s := rfl
  rw [harm, execLoop, h]

theorem exec_br {a cond kind b target : Nat} (h : s.fetch t = some (k, .br a cond kind b target)) :
    exec (.br t) s = .next (s.onTile t fun x =>
      if brTaken cond (x.reg a) (brOperand k x kind b) then x.goto target else x.advance) := by
  have harm : exec (.br t) s = execBr t s := rfl
  rw [harm, execBr, h]

theorem loopCount_eq (k : TileCtx) (x : Tile) (src operand : Nat) : loopCount k x src operand =
    if src = 0 then (x.reg (operand % 16)).toNat else if src = 1 then operand else k.slots.getD (operand % 256) 0 := by
  unfold loopCount slotAt
  split <;> simp_all

theorem brOperand_eq (k : TileCtx) (x : Tile) (kind b : Nat) : brOperand k x kind b =
    if kind = 0 then x.reg (b % 16) else if kind = 1 then (BitVec.ofNat 32 b).signExtend 64
    else BitVec.ofNat 64 (k.slots.getD (b % 256) 0) := by
  unfold brOperand slotAt
  split <;> simp_all

/-- The conditions of Table 4-4. -/
theorem brTaken_iff (cond : Nat) (u v : Word64) : brTaken cond u v = true ↔ cond = 0 ∨ (cond = 1 ∧ u = v) ∨ (cond = 2 ∧ u ≠ v) ∨
    (cond = 3 ∧ u.toNat < v.toNat) ∨ (cond = 4 ∧ v.toNat ≤ u.toNat) ∨ (cond = 5 ∧ u.toInt < v.toInt) ∨ (cond = 6 ∧ v.toInt ≤ u.toInt) := by
  unfold brTaken
  split <;> simp_all [BitVec.ult, BitVec.slt]

theorem Tile.goto_queuesKept (x : Tile) (n : Nat) : QueuesKept x (x.goto n) := ⟨rfl, rfl, rfl⟩

/-- A loop with iterations starts at its first word, its index register at 0. -/
theorem Tile.enterLoop_of_pos (x : Tile) (index body : Nat) {n : Nat} (h : 0 < n) :
    QueuesKept x (x.enterLoop index body n) ∧ (x.enterLoop index body n).pc = x.pc + 1 ∧
    (∀ r, (x.enterLoop index body n).reg r = wrote x index 0 r) ∧
    (x.enterLoop index body n).loops = ⟨x.pc + 1, x.pc + body, n, 0, index⟩ :: x.loops := by
  unfold Tile.enterLoop
  rw [if_neg (by omega)]
  exact ⟨x.setReg_queuesKept index 0, rfl, x.reg_setReg index 0, rfl⟩

/-- A loop with count 0 is passed over. -/
theorem Tile.enterLoop_zero (x : Tile) (index body : Nat) : x.enterLoop index body 0 = x.goto (x.pc + body + 1) := rfl

theorem loopsAndBranches : LoopsAndBranches := by
  intro s t k
  refine ⟨fun h => ⟨_, exec_endProg h, s.onTile_onlyTile t _, ?_⟩, fun src index body operand h n hn => ⟨_, exec_loop h, s.onTile_onlyTile t _, ?_⟩,
    fun a cond kind b target h v hv u hu taken htaken => ⟨_, exec_br h, s.onTile_onlyTile t _, ?_⟩⟩
  · rw [State.onTile_tile_self]
    exact ⟨rfl, rfl, rfl, rfl, rfl, rfl⟩
  · rw [State.onTile_tile_self, loopCount_eq, ← hn]
    obtain rfl | hpos := Nat.eq_zero_or_pos n
    · rw [Tile.enterLoop_zero]
      refine ⟨Tile.goto_queuesKept _ _, fun h0 => absurd h0 (lt_irrefl 0), fun _ hout => ?_⟩
      exact Tile.goto_of_midBody fun f hf heq => hout f hf (Nat.succ.inj heq).symm
    · obtain ⟨hq, hrest⟩ := (s.tile t).enterLoop_of_pos index body hpos
      exact ⟨hq, fun _ => hrest, fun h0 => absurd h0 hpos.ne'⟩
  · rw [State.onTile_tile_self, brOperand_eq, ← hv, ← hu]
    rw [← brTaken_iff] at htaken
    by_cases hbr : brTaken cond u v = true
    · rw [if_pos hbr]
      exact ⟨Tile.goto_queuesKept _ _, fun _ hout => Tile.goto_of_midBody hout, fun hno => absurd (htaken.mpr hbr) hno⟩
    · rw [if_neg hbr]
      exact ⟨Tile.goto_queuesKept _ _, fun hyes => absurd (htaken.mp hyes) hbr, fun _ => Tile.setReg_advances (s.tile t) 0 0⟩

/-! ### TILE_DONE -/

theorem State.issuesOf_eq_nil : s.issuesOf t = [] ↔ ∀ y ∈ s.streams.issues, y.tile ≠ t := by
  simp [State.issuesOf]

theorem State.setTile_onlyTile (s : State) (t : Nat) (x : Tile) : OnlyTile t s (s.setTile t x) := by
  rw [OnlyTile, State.setTile_tile_self]

theorem tileIsDone : TileIsDone := by
  intro s t hrun hend
  have harm : exec (.tileDone t) s = execTileDone t s := rfl
  rw [Completes, harm, execTileDone]
  refine ⟨fun ⟨ha, hv, hi⟩ => ?_, fun hbusy => ?_⟩
  · rw [← State.issuesOf_eq_nil] at hi
    simp only [hrun, hend, ha, hv, hi]
    exact ⟨_, rfl, s.setTile_onlyTile t _, by rw [State.setTile_tile_self]⟩
  · refine if_neg fun hc => ?_
    simp only [Bool.and_eq_true, List.isEmpty_iff] at hc
    obtain ⟨⟨⟨-, ha⟩, hv⟩, hi⟩ := hc
    obtain h | h | ⟨y, hy, ht⟩ := hbusy
    · exact h ha
    · exact h hv
    · exact State.issuesOf_eq_nil.mp hi y hy ht

end

/-! ### The obligations -/

/-- Settles O13: each of the four is a register set and the PC moved on. -/
theorem scalarInstructions : Obligations.ScalarInstructions := by
  unfold Obligations.ScalarInstructions
  exact fun s t k => ⟨rfl, fun d imm h => ⟨_, exec_seti h, s.setNext_scalarDone t d _⟩, fun d imm h => ⟨_, exec_sethi h, s.setNext_scalarDone t d _⟩,
    fun d slot h => ⟨_, exec_getslot h, s.setNext_scalarDone t d _⟩, fun d item h => ⟨_, exec_getctx h, s.setNext_scalarDone t d _⟩⟩

/-- Settles O15: the branches of `end`, `loop` and `br`, and of TILE_DONE. -/
theorem controlInstructions : Obligations.ControlInstructions := by
  unfold Obligations.ControlInstructions
  exact ⟨loopsAndBranches, tileIsDone⟩

end Sys2Proof.Machine
end

section
/-! PROOFS. What a fault leaves of its easel and of everything else (R86, R117, R141, R271, R300). -/

namespace Sys2Proof.Machine

/-! ### Bytes left undefined -/

section
variable {s u : State}

theorem UndefinedOnly.tiles (h : UndefinedOnly s u) : u.tiles = s.tiles := by rw [h.1]
theorem UndefinedOnly.sems (h : UndefinedOnly s u) : u.sems = s.sems := by rw [h.1]
theorem UndefinedOnly.net (h : UndefinedOnly s u) : u.net = s.net := by rw [h.1]
theorem UndefinedOnly.streams (h : UndefinedOnly s u) : u.streams = s.streams := by rw [h.1]
theorem UndefinedOnly.primer (h : UndefinedOnly s u) : u.primer = s.primer := by rw [h.1]
theorem UndefinedOnly.bind (h : UndefinedOnly s u) : u.bind = s.bind := by rw [h.1]
theorem UndefinedOnly.tile (h : UndefinedOnly s u) (t : Nat) : u.tile t = s.tile t := by rw [State.tile, h.tiles, State.tile]
theorem UndefinedOnly.sem (h : UndefinedOnly s u) (k : Nat) : u.sem k = s.sem k := by rw [State.sem, h.sems, State.sem]
theorem UndefinedOnly.ownerOf (h : UndefinedOnly s u) (cls n : Nat) : u.ownerOf cls n = s.ownerOf cls n := by
  unfold State.ownerOf State.live
  rw [h.bind]
theorem UndefinedOnly.canonical (h : UndefinedOnly s u) (hs : MemoriesCanonical s) : MemoriesCanonical u := ⟨h.2.1 hs.1, h.2.2 hs.2⟩

/-- What an engine is forming is a matter of the tiles, the issues and the easel. -/
theorem UndefinedOnly.forming (h : UndefinedOnly s u) (e t : Nat) : u.forming e t = s.forming e t := by
  have hentered : ∀ inside rest, u.enteredFrom t inside rest = s.enteredFrom t inside rest := by
    intro inside rest
    induction rest generalizing inside with
    | nil => rfl
    | cons op rest ih =>
      have hfree : u.mmaFree t op = s.mmaFree t op := by
        unfold State.mmaFree State.mmaOnVector State.mmaOnStream State.issuesOf
        rw [h.tile, h.streams]
      rw [State.enteredFrom, State.enteredFrom, ih, hfree]
  unfold State.forming State.entered State.chainWaits State.chainOnArray State.chainOnStream State.issuesOf
  rw [hentered, h.tile, h.streams, h.easel]

end

/-- Byte `b` reads as before, and so does its poison; the memories stay canonical. -/
def ByteKept (b : Nat) (s s' : State) : Prop :=
  MemoriesCanonical s → MemoriesCanonical s' ∧ s'.readAt b 1 = s.readAt b 1 ∧ s'.poisoned b 1 = s.poisoned b 1

theorem ByteKept.refl (b : Nat) (s : State) : ByteKept b s s := fun h => ⟨h, rfl, rfl⟩

theorem ByteKept.trans {b : Nat} {s t u : State} (h : ByteKept b s t) (k : ByteKept b t u) : ByteKept b s u := fun hs => by
  obtain ⟨ht, hread, hpoison⟩ := h hs
  obtain ⟨hu, hread', hpoison'⟩ := k ht
  exact ⟨hu, hread'.trans hread, hpoison'.trans hpoison⟩

/-- A store elsewhere. -/
theorem State.writeAt_byteKept {s : State} {a b : Nat} {bs : List Byte} (hout : b < a ∨ a + bs.length ≤ b) :
    ByteKept b s (s.writeAt a bs) := fun h =>
  ⟨State.writeAt_canonical h a bs, State.readAt_writeAt_other h hout, State.poisoned_writeAt_of_kept fun w hlt hgt => by omega⟩

/-- A range left undefined elsewhere. -/
theorem State.undefine_byteKept {s : State} {a n b : Nat} (hout : b < a ∨ a + n ≤ b) : ByteKept b s (s.undefine a n) := by
  intro h
  refine ⟨(s.undefine_only a n).canonical h, ?_⟩
  unfold State.undefine
  split
  · exact ⟨rfl, rfl⟩
  · dsimp only
    split
    · refine ⟨?_, rfl⟩
      have hput : MemoriesCanonical { s with choices := s.choices + n + 1, mem := mputs s.mem a _, tags := tdelIf (tagged a n) s.tags } :=
        ⟨mputs_wf _ a ((List.range n).map fun i => BitVec.ofNat 8 (Sys2Proof.Config.freeNat (s.choices + i))) h.1, h.2⟩
      have hget := mget_mputs s.mem a ((List.range n).map fun i => BitVec.ofNat 8 (Sys2Proof.Config.freeNat (s.choices + i))) b h.1
      rw [if_neg (by simp; omega)] at hget
      rw [State.readAt_one hput, State.readAt_one h]
      dsimp only
      rw [hget]
      rfl
    · have hbase : MemoriesCanonical { s with choices := s.choices + n + 1 } := h
      exact (State.writeAt_byteKept (by simpa using hout) hbase).2

/-- Each range that a fold leaves undefined lies elsewhere. -/
theorem foldl_undefine_byteKept {b base : Nat} {l : List (Nat × Nat)} (hout : ∀ p ∈ l, b < base + p.1 ∨ base + p.1 + p.2 ≤ b) (s : State) :
    ByteKept b s (l.foldl (fun s p => s.undefine (base + p.1) p.2) s) := by
  induction l generalizing s with
  | nil => exact .refl b s
  | cons p l ih =>
    exact (State.undefine_byteKept (hout p List.mem_cons_self)).trans (ih (fun q hq => hout q (List.mem_cons_of_mem _ hq)) _)

/-- What the engines form elsewhere. -/
theorem State.undefineForming_byteKept {s : State} {e b : Nat} (h : NotForming s e b) : ByteKept b s (s.undefineForming e) := by
  have key : ∀ (l : List Nat) (u : State), UndefinedOnly s u → (∀ t ∈ l, t ∈ s.units e 1) → ByteKept b u
      (l.foldl (fun (s : State) t => (s.forming e t).foldl (fun s p => s.undefine (storeBase t + p.1) p.2) s) u) := by
    intro l
    induction l with
    | nil => exact fun u _ _ => .refl b u
    | cons t l ih =>
      intro u hu hl
      have hout : ∀ p ∈ u.forming e t, b < storeBase t + p.1 ∨ storeBase t + p.1 + p.2 ≤ b := by
        rw [hu.forming]
        exact h t (hl t List.mem_cons_self)
      have hnext : UndefinedOnly u ((u.forming e t).foldl (fun s p => s.undefine (storeBase t + p.1) p.2) u) :=
        foldl_keeps_state UndefinedOnly .refl (fun _ _ _ => .trans) _ (fun s p => s.undefine_only _ _) _ u
      exact (foldl_undefine_byteKept hout u).trans (ih _ (hu.trans hnext) fun t ht => hl t (List.mem_cons_of_mem _ ht))
  exact key _ s (.refl s) fun _ => id

/-! ### An easel that stops -/

section
variable (s : State) (e : Nat)

theorem State.stopEasel_net : (s.stopEasel e).net = s.net.filter (·.easel != e) := by
  rw [← (s.undefineUpdate_only e).net]
  rfl

theorem State.stopEasel_issues : (s.stopEasel e).streams.issues = s.streams.issues.filter (·.easel != e) := by
  rw [← (s.undefineUpdate_only e).streams]
  rfl

theorem State.stopEasel_xfers : (s.stopEasel e).streams.xfers =
    s.streams.xfers.filter fun x => s.streams.issues.any fun y => y.id = x.issue && y.easel != e := by
  rw [← (s.undefineUpdate_only e).streams]
  rfl

theorem State.stopEasel_primer : (s.stopEasel e).primer.intakes = s.primer.intakes.filter (·.easel != e) ∧
    (s.stopEasel e).primer.lanes = s.primer.lanes.filter fun p => p.2.easel != e := by
  rw [← (s.undefineUpdate_only e).primer]
  exact ⟨rfl, rfl⟩

/-- Waiters go; counts and what is stored with them stand. -/
theorem State.stopEasel_sem (k : Nat) : ((s.stopEasel e).sem k).count = (s.sem k).count ∧ ((s.stopEasel e).sem k).comp = (s.sem k).comp := by
  have hsems : (s.stopEasel e).sems = ((s.undefineUpdate e).dropWaiters e).sems := rfl
  have hsem : (s.stopEasel e).sem k = ((s.undefineUpdate e).dropWaiters e).sem k := by rw [State.sem, hsems, State.sem]
  rw [hsem, ← (s.undefineUpdate_only e).sem, State.sem, State.dropWaiters, tget_tmap _ _ _ _ rfl]
  exact ⟨rfl, rfl⟩

theorem State.stopEasel_tile (t : Nat) : (s.stopEasel e).tile t = if s.ownerOf 1 t = some e then (s.tile t).stop else s.tile t := by
  have hu := s.undefineUpdate_only e
  rw [← hu.tile, ← hu.ownerOf, State.stopEasel]
  generalize s.undefineUpdate e = u
  exact tget_tmap _ (fun t (x : Tile) => if u.ownerOf 1 t = some e then x.stop else x) _ _ (by split <;> rfl)

/-- The easel itself, its command list, loads and update gone. -/
theorem State.stopEasel_easel : (s.stopEasel e).easel e = { s.easel e with
    cmds := [], loading := none, rearranged := none, update := none, awaiting := [], firings := [], restore := none
    drains := (s.easel e).drains.filter (·.layer != 4), faultAtBoundary := false, rejected := false, rerun := [] } := by
  have hu := s.undefineUpdate_only e
  rw [← hu.easel, State.stopEasel]
  generalize s.undefineUpdate e = u
  have hsame : (((u.dropWaiters e).dropStreams e).dropPosted e).easel e = u.easel e := rfl
  rw [← hsame]
  generalize ((u.dropWaiters e).dropStreams e).dropPosted e = v
  exact State.onEasel_easel_self _ _ _

theorem State.stopEasel_byteKept (b : Nat) (h : (s.easel e).update = none) : ByteKept b s (s.stopEasel e) := by
  have hu : s.undefineUpdate e = s := by simp only [State.undefineUpdate, h]
  intro hs
  rw [State.stopEasel, hu]
  exact ⟨hs, rfl, rfl⟩

end

/-! ### A fault -/

section
variable {s : State} {e : Nat}

/-- A fault of a working easel: outputs in formation are undefined, the easel stops, and transfers granted before land yet. -/
theorem State.fault_eq (h : s.works e = true) : s.fault e =
    let u := s.undefineForming e
    let v := u.stopEasel e
    State.onEasel { v with streams := { v.streams with
        issues := v.streams.issues ++ u.landing (u.granted e), xfers := v.streams.xfers ++ u.granted e } } e
      fun x => { x with mode := .faulted } := by
  rw [State.fault, if_pos h]

theorem State.fault_easel (h : s.works e = true) : (s.fault e).easel e = { s.easel e with
    mode := .faulted, cmds := [], loading := none, rearranged := none, update := none, awaiting := [], firings := [], restore := none
    drains := (s.easel e).drains.filter (·.layer != 4), faultAtBoundary := false, rejected := false, rerun := [] } := by
  have hstop := State.stopEasel_easel (s.undefineForming e) e
  rw [State.fault_eq h, ← (s.undefineForming_only e).easel]
  dsimp only
  generalize (s.undefineForming e).stopEasel e = v at hstop ⊢
  refine (State.onEasel_easel_self _ _ _).trans ?_
  exact congrArg (fun x : Easel => { x with mode := .faulted }) hstop

theorem State.fault_net (h : s.works e = true) : (s.fault e).net = s.net.filter (·.easel != e) := by
  rw [State.fault_eq h, ← (s.undefineForming_only e).net, ← State.stopEasel_net]
  dsimp only
  generalize (s.undefineForming e).stopEasel e = v
  rfl

theorem State.fault_primer (h : s.works e = true) : (s.fault e).primer.intakes = s.primer.intakes.filter (·.easel != e) ∧
    (s.fault e).primer.lanes = s.primer.lanes.filter fun p => p.2.easel != e := by
  have hstop := State.stopEasel_primer (s.undefineForming e) e
  rw [State.fault_eq h, ← (s.undefineForming_only e).primer]
  dsimp only
  generalize (s.undefineForming e).stopEasel e = v at hstop ⊢
  exact hstop

theorem State.fault_tile (h : s.works e = true) (t : Nat) :
    (s.fault e).tile t = if s.ownerOf 1 t = some e then (s.tile t).stop else s.tile t := by
  rw [State.fault_eq h, ← (s.undefineForming_only e).tile, ← (s.undefineForming_only e).ownerOf, ← State.stopEasel_tile]
  dsimp only
  generalize (s.undefineForming e).stopEasel e = v
  rfl

/-- Counts stand, whether the easel works or not. -/
theorem State.fault_sem (s : State) (e k : Nat) : ((s.fault e).sem k).count = (s.sem k).count ∧ ((s.fault e).sem k).comp = (s.sem k).comp := by
  by_cases h : s.works e = true
  · have hstop := State.stopEasel_sem (s.undefineForming e) e k
    rw [State.fault_eq h, ← (s.undefineForming_only e).sem]
    dsimp only
    generalize (s.undefineForming e).stopEasel e = v at hstop ⊢
    exact hstop
  · rw [State.fault, if_neg h]
    exact ⟨rfl, rfl⟩

theorem State.fault_bind (s : State) (e : Nat) : (s.fault e).bind = s.bind := by rw [(s.fault_frame e).1]

/-- The transfers that are left are of those before. -/
theorem State.fault_xfers (h : s.works e = true) {x : Xfer} (hx : x ∈ (s.fault e).streams.xfers) : x ∈ s.streams.xfers := by
  have hstreams := (s.undefineForming_only e).streams
  have hxfers : (s.fault e).streams.xfers = ((s.undefineForming e).stopEasel e).streams.xfers ++ (s.undefineForming e).granted e := by
    rw [State.fault_eq h]
    dsimp only
    generalize (s.undefineForming e).stopEasel e = v
    rfl
  rw [hxfers, State.stopEasel_xfers, State.granted, hstreams, List.mem_append, List.mem_filter, List.mem_filter] at hx
  exact hx.elim (·.1) (·.1)

/-- The issues of the easel that are left move nothing more, and each has a transfer that its arbiters had granted. -/
theorem State.fault_issues (h : s.works e = true) {y : Issue} (hy : y ∈ (s.fault e).streams.issues) (he : y.easel = e) :
    y.runs = [] ∧ y.parts = [] ∧ ∃ x ∈ s.streams.xfers, x.issue = y.id ∧ x.arbs = [] ∧ x.sent = none := by
  have hstreams := (s.undefineForming_only e).streams
  have hissues : (s.fault e).streams.issues =
      ((s.undefineForming e).stopEasel e).streams.issues ++ (s.undefineForming e).landing ((s.undefineForming e).granted e) := by
    rw [State.fault_eq h]
    dsimp only
    generalize (s.undefineForming e).stopEasel e = v
    rfl
  rw [hissues, State.stopEasel_issues, List.mem_append] at hy
  obtain hy | hy := hy
  · simp [he] at hy
  · simp only [State.landing, State.granted, hstreams, List.mem_map, List.mem_filter, List.any_eq_true, Bool.and_eq_true, decide_eq_true_eq,
      List.isEmpty_iff, Option.isNone_iff_eq_none] at hy
    obtain ⟨z, ⟨-, x, ⟨hx, ⟨⟨harbs, hsent⟩, -⟩, -⟩, hid⟩, rfl⟩ := hy
    exact ⟨rfl, rfl, x, hx, hid, harbs, hsent⟩

theorem State.fault_byteKept (h : s.works e = true) (hu : (s.easel e).update = none) {b : Nat} (hb : NotForming s e b) :
    ByteKept b s (s.fault e) := by
  have hstop := (State.undefineForming_byteKept hb).trans
    (State.stopEasel_byteKept (s.undefineForming e) e b (by rw [(s.undefineForming_only e).easel, hu]))
  rw [State.fault_eq h]
  dsimp only
  generalize (s.undefineForming e).stopEasel e = v at hstop ⊢
  exact hstop

end

/-- Settles O20: what `State.fault` leaves, field by field. -/
theorem faultStopsEasel : Obligations.FaultStopsEasel := by
  unfold Obligations.FaultStopsEasel
  intro s e h
  rw [State.fault_easel h, State.fault_net h, (State.fault_primer h).1, (State.fault_primer h).2]
  refine ⟨rfl, rfl, rfl, rfl, fun t ht => ?_, fun y => State.fault_issues h, fun x => State.fault_xfers h, by simp, by simp, by simp,
    fun k => (s.fault_sem e k).1, s.fault_bind e, fun hs hu b hb => (State.fault_byteKept h hu hb hs).2, fun f hf => s.fault_other e f hf⟩
  rw [State.fault_tile h, if_pos ht]
  exact ⟨rfl, rfl, rfl, rfl⟩

end Sys2Proof.Machine
end

section
/-! PROOFS. A request at its semaphore's home, and where synchronization stops its easel (R110, R277, R281, R290, R299). -/

namespace Sys2Proof.Machine

/-! ### Who is released (R277, R278) -/

@[simp] theorem State.release_sems (s : State) (w : Who) : (s.release w).sems = s.sems := by cases w <;> rfl
@[simp] theorem State.release_net (s : State) (w : Who) : (s.release w).net = s.net := by cases w <;> rfl

theorem State.release_memoryKept (s : State) (w : Who) : MemoryKept s (s.release w) := by
  cases w <;> exact memoryKept_of_fields rfl rfl rfl rfl

/-- A tile that is released goes on past its wait. -/
theorem State.release_advances (s : State) {w : Who} {t : Nat} (h : w = .tile t) : Advances (s.tile t) ((s.release w).tile t) 0 0 := by
  subst h
  exact (s.onTile_advance_scalarDone t).2.1

theorem State.releaseAll_kept (ws : List Waiter) (s : State) : (ws.foldl (fun s w => s.release w.who) s).sems = s.sems ∧
    (ws.foldl (fun s w => s.release w.who) s).net = s.net ∧ MemoryKept s (ws.foldl (fun s w => s.release w.who) s) := by
  induction ws generalizing s with
  | nil => exact ⟨rfl, rfl, memoryKept_refl s⟩
  | cons w ws ih =>
    obtain ⟨hsems, hnet, hmem⟩ := ih (s.release w.who)
    exact ⟨hsems.trans (s.release_sems _), hnet.trans (s.release_net _), memoryKept_trans (s.release_memoryKept _) hmem⟩

/-! ### Records and faults -/

theorem RecordsOnly.net {s s' : State} (h : RecordsOnly s s') : s'.net = s.net := by rw [h.1]
theorem RecordsOnly.sem {s s' : State} (h : RecordsOnly s s') (k : Nat) : s'.sem k = s.sem k := by rw [State.sem, h.sems, State.sem]
theorem RecordsOnly.works {s s' : State} (h : RecordsOnly s s') (e : Nat) : s'.works e = s.works e := by
  rw [State.works, h.2.1 e]
  rfl

/-- A record that stops its easel: FAULTED with none of its requests on their way, and every count and counter as it stood. -/
theorem State.faultWith_stops {s : State} {e : Nat} (h : s.works e = true) (code cls unit seq a b : Nat) :
    ((s.faultWith code e cls unit seq a b).easel e).mode = .faulted ∧
    (∀ r ∈ (s.faultWith code e cls unit seq a b).net, r.easel ≠ e) ∧
    (∀ k, ((s.faultWith code e cls unit seq a b).sem k).count = (s.sem k).count) ∧
    (s.faultWith code e cls unit seq a b).counters = s.counters := by
  have hrec := s.reportSeq_records code e cls unit seq a b
  have hworks := (hrec.works e).trans h
  unfold State.faultWith
  refine ⟨State.fault_mode _ e hworks, ?_, fun k => ?_, ?_⟩
  · rw [State.fault_net hworks]
    simp
  · rw [(State.fault_sem _ e k).1, hrec.sem]
  · rw [(State.fault_frame _ e).1]
    exact hrec.counters

/-- The easel of an instruction that a tile fetches is its owner, and works. -/
theorem State.fetch_works {s : State} {t : Nat} {k : TileCtx} {o : TileOp} (h : s.fetch t = some (k, o)) :
    k.x = s.easel k.e ∧ s.works k.e = true := by
  have hctx : ∀ k, s.tileCtx t = some k → k.x = s.easel k.e := by
    intro k hk
    unfold State.tileCtx at hk
    split at hk
    · cases hk
    · dsimp only at hk
      split at hk
      · split at hk
        · cases hk
          rfl
        · cases hk
      · cases hk
  unfold State.fetch at h
  dsimp only at h
  split at h
  · split at h
    · next k' hk =>
      split at h
      · next hworks =>
        obtain ⟨o', -, heq⟩ := Option.map_eq_some_iff.mp h
        cases heq
        have hx := hctx k hk
        exact ⟨hx, by rw [State.works, ← hx]; exact hworks⟩
      · cases h
    · cases h
  · cases h

/-! ### A request at its home (R277) -/

section
variable {s : State} {k key : Nat} {r : SyncReq} {d : SemDecl}

/-- A request that may arrive leaves those on their way and is applied at its home. -/
theorem exec_syncRequestArrival (hr : s.net[k]? = some r) (harr : s.arrivable k r = true)
    (hd : (s.easel r.easel).semDecl r.sem = some d) : exec (.syncRequestArrival k) s = .next (match r.kind with
      | .signal => State.applySignal { s with net := dropAt s.net k } r.easel d r.n r.unitClass r.unitId
      | .wait => State.applyWait { s with net := dropAt s.net k } r.easel d ⟨r.who, r.n⟩
      | .waitv => State.applyWaitv { s with net := dropAt s.net k } r.easel d ⟨r.who, r.n⟩) := by
  have harm : exec (.syncRequestArrival k) s = execSyncRequestArrival k s := rfl
  have hd' : (State.easel { s with net := dropAt s.net k } r.easel).semDecl r.sem = some d := hd
  simp only [harm, execSyncRequestArrival, hr, harr, hd']
  rfl

end

section
variable {s : State} {e key : Nat} {d : SemDecl} (hkey : (s.easel e).semKey d = some key)
include hkey

/-- Whatever the request, a count that is not the complement of what is stored with it is SEM_COMPLEMENT (R281). -/
theorem State.apply_unsound (h : (s.sem key).sound = false) {n : Nat} (hn : 0 < n) (cls unit : Nat) (w : Waiter) :
    s.applySignal e d n cls unit = s.semComplement e d (s.sem key) ∧ s.applyWait e d w = s.semComplement e d (s.sem key) ∧
    s.applyWaitv e d w = s.semComplement e d (s.sem key) := by
  simp [State.applySignal, State.applyWait, State.applyWaitv, hkey, h, Nat.ne_of_gt hn]

variable (hsound : (s.sem key).sound = true)
include hsound

/-- A signal that its semaphore can take (R277). -/
theorem State.applySignal_taken {n : Nat} (hpos : 0 < n) (hword : n ≤ 0xFFFFFFFF) (hmax : (s.sem key).count.toNat + n ≤ (s.sem key).max)
    (cls unit : Nat) : s.applySignal e d n cls unit =
      ((s.sem key).signal n).2.foldl (fun s w => s.release w.who) (s.setSem key ((s.sem key).signal n).1) := by
  rw [State.applySignal, hkey]
  simp [hsound, Nat.ne_of_gt hpos, Nat.not_lt.mpr hmax, Nat.not_lt.mpr hword]

/-- A signal beyond the planned maximum is SEM_OVERFLOW (R290). -/
theorem State.applySignal_overflow {n : Nat} (hpos : 0 < n) (hmax : (s.sem key).max < (s.sem key).count.toNat + n) (cls unit : Nat) :
    ∃ cause, s.applySignal e d n cls unit = s.semFault 0x0401 e cls unit (s.sem key).count.toNat (s.sem key).max d.id cause := by
  rw [State.applySignal, hkey]
  by_cases hword : n > 0xFFFFFFFF
  · exact ⟨2, by simp [hsound, Nat.ne_of_gt hpos, hword]⟩
  · exact ⟨1, by simp [hsound, Nat.ne_of_gt hpos, hword, hmax]⟩

/-- A wait that finds no one before it and a count that holds its n (R277). -/
theorem State.applyWait_granted {w : Waiter} (hfirst : (s.sem key).queue = []) (hn : w.n ≤ (s.sem key).count.toNat) :
    s.applyWait e d w = (s.setSem key ((s.sem key).store (BitVec.ofNat 32 ((s.sem key).count.toNat - w.n)))).release w.who := by
  simp [State.applyWait, hkey, hsound, hfirst, hn]

/-- A wait that joins the queue (R277). -/
theorem State.applyWait_queued {w : Waiter} (h : (s.sem key).queue ≠ [] ∨ (s.sem key).count.toNat < w.n) :
    s.applyWait e d w = s.setSem key { s.sem key with queue := (s.sem key).queue ++ [w] } := by
  simp only [State.applyWait, hkey, hsound]
  have hnot : ¬ (((s.sem key).queue.isEmpty && decide (w.n ≤ (s.sem key).count.toNat)) = true) := by
    simp only [Bool.and_eq_true, List.isEmpty_iff, decide_eq_true_eq]
    exact fun ⟨hfirst, hn⟩ => h.elim (fun hne => hne hfirst) (Nat.not_lt.mpr hn)
  simp [hnot]

theorem State.applyWaitv_passes {w : Waiter} (hn : w.n ≤ (s.sem key).count.toNat) : s.applyWaitv e d w = s.release w.who := by
  simp [State.applyWaitv, hkey, hsound, hn]

theorem State.applyWaitv_queued {w : Waiter} (hn : (s.sem key).count.toNat < w.n) :
    s.applyWaitv e d w = s.setSem key { s.sem key with values := (s.sem key).values ++ [w] } := by
  simp [State.applyWaitv, hkey, hsound, Nat.not_le.mpr hn]

end

/-- What is taken from a count that holds it. -/
theorem Sem.store_sub {m : Sem} {n : Nat} (h : n ≤ m.count.toNat) : m.store (BitVec.ofNat 32 (m.count.toNat - n)) =
    { m with count := m.count - BitVec.ofNat 32 n, comp := ~~~ (m.count - BitVec.ofNat 32 n) } := by
  have hword : BitVec.ofNat 32 (m.count.toNat - n) = m.count - BitVec.ofNat 32 n := by
    apply BitVec.eq_of_toNat_eq
    have := m.count.isLt
    rw [BitVec.toNat_sub, BitVec.toNat_ofNat, BitVec.toNat_ofNat]
    omega
  rw [hword, Sem.store]

/-- A signal that no one waits for adds its n. -/
theorem Sem.signal_alone {m : Sem} (n : Nat) (hq : m.queue = []) (hv : m.values = []) : (m.signal n).2 = [] ∧
    (m.signal n).1.count.toNat = (m.count.toNat + n) % 2 ^ 32 := by
  rw [Sem.signal_released, Sem.signal_count, hq, hv]
  exact ⟨rfl, BitVec.toNat_ofNat _ _⟩

/-- Settles O17: each kind of request at its home, by what its semaphore holds. -/
theorem requestAtHome : Obligations.RequestAtHome := by
  unfold Obligations.RequestAtHome
  intro s k key r d m hr harr hd hkey hm hsound
  have hexec := exec_syncRequestArrival hr harr hd
  have hkey' : (State.easel { s with net := dropAt s.net k } r.easel).semKey d = some key := hkey
  have hsem : State.sem { s with net := dropAt s.net k } key = m := hm.symm
  have hsound' : (State.sem { s with net := dropAt s.net k } key).sound = true := hm ▸ hsound
  refine ⟨fun hkind hpos hword hmax => ?_, fun hkind hfirst hn => ?_, fun hkind hwaits => ?_, fun hkind hn => ?_, fun hkind hn => ?_⟩
  all_goals
    rw [hkind] at hexec
    dsimp only at hexec
  · rw [State.applySignal_taken hkey' hsound' hpos hword (hsem ▸ hmax), hsem] at hexec
    obtain ⟨hsems, hnet, hmem⟩ := State.releaseAll_kept (m.signal r.n).2 (State.setSem { s with net := dropAt s.net k } key (m.signal r.n).1)
    refine ⟨_, hexec, hsems, hnet, memoryKept_trans (memoryKept_of_fields rfl rfl rfl rfl) hmem, fun hq hv => ?_⟩
    obtain ⟨hnone, hcount⟩ := m.signal_alone r.n hq hv
    rw [hnone, List.foldl_nil, State.setSem_sem_self]
    exact ⟨rfl, hcount, m.signal_sound _⟩
  · rw [State.applyWait_granted hkey' hsound' (by rw [hsem]; exact hfirst) (by rw [hsem]; exact hn), hsem, Sem.store_sub hn] at hexec
    exact ⟨_, hexec, State.release_sems _ _, State.release_memoryKept _ _, fun t ht => State.release_advances _ ht⟩
  · rw [State.applyWait_queued hkey' hsound' (by rw [hsem]; exact hwaits), hsem] at hexec
    exact ⟨_, hexec, rfl⟩
  · rw [State.applyWaitv_passes hkey' hsound' (by rw [hsem]; exact hn)] at hexec
    exact ⟨_, hexec, State.release_sems _ _, State.release_memoryKept _ _, fun t ht => State.release_advances _ ht⟩
  · rw [State.applyWaitv_queued hkey' hsound' (by rw [hsem]; exact hn), hsem] at hexec
    exact ⟨_, hexec, rfl⟩

/-! ### Where synchronization stops its easel -/

/-- A wait beyond the planned maximum stops its easel, whatever its semaphore holds. -/
theorem State.issueWait_stops {s : State} {k : TileCtx} {t : Nat} (hworks : s.works k.e = true) (kind : SyncKind) (hold : Hold)
    {sem n : Nat} {d : SemDecl} (hd : k.x.semDecl sem = some d) (hmax : d.max < n) :
    ((s.issueWait k t kind hold sem n).easel k.e).mode = .faulted ∧ ∀ r ∈ (s.issueWait k t kind hold sem n).net, r.easel ≠ k.e := by
  rw [State.issueWait, if_neg (by omega), hd]
  dsimp only
  rw [if_pos hmax]
  have hstops : ∀ m : Sem, 
      let u := (if !m.sound then s.semComplement k.e d m else s.semFault 0x0402 k.e 0x04 (s.tileUnit k.e t) m.count.toNat d.max sem 3)
      (u.easel k.e).mode = .faulted ∧ ∀ r ∈ u.net, r.easel ≠ k.e := by
    intro m
    dsimp only
    split
    · exact ⟨(State.faultWith_stops hworks ..).1, (State.faultWith_stops hworks ..).2.1⟩
    · exact ⟨(State.faultWith_stops hworks ..).1, (State.faultWith_stops hworks ..).2.1⟩
  exact hstops _

/-- A ticket at or beyond the bitmap size is PROGRAM_OPERAND (R299). -/
theorem exec_claim_beyond {s : State} {t : Nat} {k : TileCtx} {d w r : Nat} {c : CtrDecl} (h : s.fetch t = some (k, .claim d w r))
    (hc : k.x.ctrDecl w = some c) (hsize : c.bitmap ≤ ((s.tile t).reg r).toNat) : exec (.claim t) s = .next (s.operandFault k t 0x06) := by
  have harm : exec (.claim t) s = execClaim t s := rfl
  rw [harm, execClaim, h]
  simp only [hc, if_pos hsize, ge_iff_le]

/-- Settles O19: each of the four is a record that stops its easel, which changes no count. -/
theorem syncFaults : Obligations.SyncFaults := by
  unfold Obligations.SyncFaults
  refine ⟨fun s t k sem imm operand d hd hmax => ⟨fun h => ?_, fun h => ?_⟩, fun s t k d w r c h hc hsize => ?_, ?_⟩
  · exact ⟨_, exec_wait h, State.issueWait_stops (State.fetch_works h).2 .wait .sem hd hmax⟩
  · exact ⟨_, exec_waitv h, State.issueWait_stops (State.fetch_works h).2 .waitv .value hd hmax⟩
  · obtain ⟨hmode, -, -, hctrs⟩ := State.faultWith_stops (State.fetch_works h).2 0x0220 0x04 (s.tileUnit k.e t) k.seq
      (s.tile t).word.toNat ((s.tile t).pc % 2 ^ 13 + 0x06 * 65536)
    exact ⟨_, exec_claim_beyond h hc hsize, hctrs, hmode⟩
  · intro s k key r d hr harr hbound hd hkey
    have hexec := exec_syncRequestArrival hr harr hd
    have hkey' : (State.easel { s with net := dropAt s.net k } r.easel).semKey d = some key := hkey
    have hworks : State.works { s with net := dropAt s.net k } r.easel = true := by
      have hmode : (State.easel { s with net := dropAt s.net k } r.easel).mode = .bound := hbound
      simp [State.works, Easel.works, hmode]
    refine ⟨fun hsound hkind hpos hmax => ?_, fun hunsound hpos => ?_⟩
    · rw [hkind] at hexec
      obtain ⟨cause, hover⟩ := State.applySignal_overflow hkey' hsound hpos hmax r.unitClass r.unitId
      dsimp only at hexec
      rw [hover] at hexec
      obtain ⟨hmode, -, hcounts, -⟩ := State.faultWith_stops hworks 0x0401 r.unitClass r.unitId _ _ _
      exact ⟨_, hexec, hcounts key, hmode⟩
    · obtain ⟨hmode, -, hcounts, -⟩ := State.faultWith_stops hworks 0x0403 _ _ _ _ _
      refine ⟨_, hexec, ?_⟩
      split
      · next hkind =>
        rw [(State.apply_unsound hkey' hunsound (hpos hkind) r.unitClass r.unitId ⟨r.who, r.n⟩).1]
        exact ⟨hcounts key, hmode⟩
      · rw [(State.apply_unsound hkey' hunsound Nat.one_pos r.unitClass r.unitId ⟨r.who, r.n⟩).2.1]
        exact ⟨hcounts key, hmode⟩
      · rw [(State.apply_unsound hkey' hunsound Nat.one_pos r.unitClass r.unitId ⟨r.who, r.n⟩).2.2]
        exact ⟨hcounts key, hmode⟩

end Sys2Proof.Machine
end

section
/-! PROOFS. Rounding and the formats (R144 to R147, R157). -/

namespace Sys2Proof.Machine

/-! ### Rounding (R157) -/

/-- A mantissa that lies on the grid is kept. -/
theorem Fmt.round_exact {f : Fmt} {m : Nat} {e q : Int} (hq : q = max f.emin (e + (log2 m : Nat) - f.mbits)) (h : q ≤ e) :
    f.round m e = (m * 2 ^ (e - q).toNat, q) := by
  subst hq
  exact if_pos h

/-- A finer mantissa is divided by the grid's step, and its remainder compared with half of the step. -/
theorem Fmt.round_divides {f : Fmt} {m : Nat} {e q : Int} (hq : q = max f.emin (e + (log2 m : Nat) - f.mbits)) (h : e < q) :
    f.round m e = let d := 2 ^ (q - e).toNat
      if 2 * (m % d) > d ∨ (2 * (m % d) = d ∧ m / d % 2 = 1) then (m / d + 1, q) else (m / d, q) := by
  subst hq
  exact if_neg (Int.not_le.mpr h)

/-- The quantum is that of the mantissa's leading bit, but no finer than the format's finest. -/
theorem Fmt.round_quantum (f : Fmt) (m : Nat) (e : Int) : (f.round m e).2 = max f.emin (e + (log2 m : Nat) - f.mbits) := by
  rcases le_or_gt (max f.emin (e + (log2 m : Nat) - f.mbits)) e with h | h
  · rw [Fmt.round_exact rfl h]
  · rw [Fmt.round_divides rfl h]
    dsimp only
    split <;> rfl

/-- Division of `m` by `d` with its remainder rounded to nearest, a tie to even. -/
theorem nearest_even {m d k : Nat} (hd : 0 < d)
    (hk : k = if 2 * (m % d) > d ∨ (2 * (m % d) = d ∧ m / d % 2 = 1) then m / d + 1 else m / d) :
    2 * m ≤ (2 * k + 1) * d ∧ 2 * k * d ≤ 2 * m + d ∧ (2 * m = (2 * k + 1) * d ∨ 2 * k * d = 2 * m + d → k % 2 = 0) := by
  have hm := Nat.div_add_mod m d
  have hr := Nat.mod_lt m hd
  generalize m / d = lo at hm hk
  generalize m % d = r at hm hk hr
  have hup : 2 * (lo + 1) * d = 2 * (d * lo) + 2 * d := by ring
  have hup' : (2 * (lo + 1) + 1) * d = 2 * (d * lo) + 3 * d := by ring
  have hdown : 2 * lo * d = 2 * (d * lo) := by ring
  have hdown' : (2 * lo + 1) * d = 2 * (d * lo) + d := by ring
  generalize d * lo = p at *
  split at hk <;> subst hk
  · rw [hup, hup']
    omega
  · rw [hdown, hdown']
    omega

/-- Settles O22: one division by the grid's step. -/
theorem roundsToNearestEven : Obligations.RoundsToNearestEven := by
  unfold Obligations.RoundsToNearestEven
  intro f m e _
  rw [f.round_quantum m e]
  refine ⟨le_max_left _ _, fun h => ?_, fun h d hd => ?_⟩
  · rw [Fmt.round_exact rfl h]
  · rw [Fmt.round_divides rfl h]
    dsimp only
    rw [← hd]
    refine nearest_even (hd ▸ Nat.two_pow_pos _) ?_
    split <;> rfl

/-! ### The formats (R144, R147) -/

section
variable {f : Fmt}

/-- A pattern is its sign and what is below it. -/
theorem Fmt.pattern_eq {bits : Nat} (h : bits < 2 ^ (f.ebits + f.mbits + 1)) :
    bits = f.sign (decide (bits / 2 ^ (f.mbits + f.ebits) % 2 = 1)) + bits % 2 ^ (f.mbits + f.ebits) := by
  have hdiv : bits / 2 ^ (f.mbits + f.ebits) < 2 := by
    rw [Nat.div_lt_iff_lt_mul (Nat.two_pow_pos _), ← Nat.pow_succ', Nat.add_comm f.mbits]
    exact h
  have hmod := Nat.div_add_mod bits (2 ^ (f.mbits + f.ebits))
  rw [Fmt.sign, Nat.add_comm f.ebits]
  generalize bits / 2 ^ (f.mbits + f.ebits) = q at *
  interval_cases q <;> simp at * <;> omega

/-- A value on the grid is written as its sign and its packed mantissa. -/
theorem Fmt.encode_exact {o : Overflow} {neg : Bool} {m : Nat} {e : Int} (hpos : m ≠ 0) (hgrid : f.emin ≤ e)
    (hlog : log2 m ≤ f.mbits) (hq : e = f.emin ∨ log2 m = f.mbits) (hmax : f.pack m e ≤ f.maxBits) :
    (f.encode o (.fin neg m e)).1 = f.sign neg + f.pack m e := by
  have hround : f.round m e = (m, e) := by
    have hqe : e = max f.emin (e + (log2 m : Nat) - f.mbits) := by omega
    rw [Fmt.round_exact hqe le_rfl]
    simp
  obtain ⟨n, rfl⟩ := Nat.exists_eq_succ_of_ne_zero hpos
  simp [Fmt.encode, hround, hmax]

/-- What a code stands for: an infinity or a NaN where its exponent is taken for them, else a mantissa at a quantum that packs to its
fields, which are no more than the largest finite value's. -/
theorem Fmt.decode_cases (hbits : 0 < f.ebits) (bits : Nat) {neg : Bool} (hneg : neg = decide (bits / 2 ^ (f.mbits + f.ebits) % 2 = 1)) :
    f.decode bits = .nan ∨
    (f.decode bits = .inf neg ∧ f.special = 0 ∧ bits % 2 ^ (f.mbits + f.ebits) = f.infBits) ∨
    ∃ m e, f.decode bits = .fin neg m e ∧ bits % 2 ^ (f.mbits + f.ebits) ≤ f.maxBits ∧
      (m = 0 ∧ bits % 2 ^ (f.mbits + f.ebits) = 0 ∨
        m ≠ 0 ∧ f.emin ≤ e ∧ log2 m ≤ f.mbits ∧ (e = f.emin ∨ log2 m = f.mbits) ∧ f.pack m e = bits % 2 ^ (f.mbits + f.ebits)) := by
  have hfields : bits % 2 ^ (f.mbits + f.ebits) = (bits / 2 ^ f.mbits % 2 ^ f.ebits) * 2 ^ f.mbits + bits % 2 ^ f.mbits := by
    rw [Nat.pow_add, Nat.mod_mul]
    ring
  have hfrac : bits % 2 ^ f.mbits < 2 ^ f.mbits := Nat.mod_lt _ (Nat.two_pow_pos _)
  have hex : bits / 2 ^ f.mbits % 2 ^ f.ebits < 2 ^ f.ebits := Nat.mod_lt _ (Nat.two_pow_pos _)
  have hlow : bits % 2 ^ (f.mbits + f.ebits) < 2 ^ (f.mbits + f.ebits) := Nat.mod_lt _ (Nat.two_pow_pos _)
  have htop : 2 ≤ 2 ^ f.ebits := Nat.pow_le_pow_right (n := 2) (by decide) hbits
  have hwhole : 2 ^ (f.mbits + f.ebits) = 2 ^ f.ebits * 2 ^ f.mbits := by rw [Nat.pow_add, Nat.mul_comm]
  unfold Fmt.decode
  dsimp only
  rw [← hneg]
  generalize bits % 2 ^ f.mbits = frac at *
  generalize bits / 2 ^ f.mbits % 2 ^ f.ebits = ex at *
  generalize bits % 2 ^ (f.mbits + f.ebits) = low at *
  split
  · next hspecial =>
    split
    · next hzero =>
      refine .inr (.inl ⟨rfl, hspecial.1, ?_⟩)
      rw [hfields, hspecial.2, hzero, Nat.add_zero, Fmt.infBits]
    · exact .inl rfl
  · next hspecial =>
    split
    · exact .inl rfl
    · next hones =>
      have hmax : low ≤ f.maxBits := by
        unfold Fmt.maxBits
        split
        · next hieee =>
          have hne : ex ≤ 2 ^ f.ebits - 2 := by omega
          have hmul : (ex + 1) * 2 ^ f.mbits ≤ (2 ^ f.ebits - 1) * 2 ^ f.mbits := Nat.mul_le_mul_right _ (by omega)
          rw [Nat.add_mul] at hmul
          omega
        · rw [Nat.add_comm f.ebits]
          omega
        · rw [Nat.add_comm f.ebits]
          omega
      split
      · next hsub =>
        refine .inr (.inr ⟨frac, f.emin, rfl, hmax, ?_⟩)
        rw [hsub, Nat.zero_mul, Nat.zero_add] at hfields
        rcases Nat.eq_zero_or_pos frac with hzero | hpos
        · exact .inl ⟨hzero, hfields.trans hzero⟩
        · refine .inr ⟨hpos.ne', le_rfl, (Nat.log2_lt hpos.ne' |>.mpr hfrac).le, .inl rfl, ?_⟩
          rw [Fmt.pack, if_pos hfrac, hfields]
      · next hnormal =>
        refine .inr (.inr ⟨_, _, rfl, hmax, .inr ⟨by omega, ?_, ?_, ?_, ?_⟩⟩)
        · unfold Fmt.emin
          omega
        · exact Nat.lt_succ_iff.mp ((Nat.log2_lt (by omega)).mpr (by rw [Nat.pow_succ]; omega))
        · exact .inr ((Nat.log2_eq_iff (by omega)).mpr ⟨by omega, by rw [Nat.pow_succ]; omega⟩)
        · have hquantum : ((ex : Int) - f.bias - f.mbits - f.emin).toNat + 1 = ex := by
            unfold Fmt.emin
            omega
          rw [Fmt.pack, if_neg (by omega), if_pos (by rw [Nat.pow_succ]; omega), hquantum, Nat.add_sub_cancel_left, hfields]

/-- Every code of a format with an exponent field, but the NaNs, is written back. -/
theorem Fmt.encode_decode (hbits : 0 < f.ebits) (o : Overflow) {bits : Nat} (h : bits < 2 ^ (f.ebits + f.mbits + 1))
    (hnan : f.decode bits ≠ .nan) : (f.encode o (f.decode bits)).1 = bits := by
  have hsign := Fmt.pattern_eq h
  obtain hdec | ⟨hdec, hspecial, hlow⟩ | ⟨m, e, hdec, hmax, ⟨hzero, hlow⟩ | ⟨hpos, hgrid, hlog, hq, hpack⟩⟩ := Fmt.decode_cases hbits bits rfl
  · exact absurd hdec hnan
  · rw [hdec, Fmt.encode]
    dsimp only
    rw [if_pos hspecial, ← hlow]
    exact hsign.symm
  · rw [hlow] at hsign
    rw [hdec, hzero]
    exact hsign.symm
  · rw [hdec, Fmt.encode_exact hpos hgrid hlog hq (hpack.trans_le hmax), hpack]
    exact hsign.symm

end

/-- Settles O21: a code's fields are the mantissa and quantum that its value is packed from. -/
theorem formatsRoundTrip : Obligations.FormatsRoundTrip := by
  unfold Obligations.FormatsRoundTrip
  intro code f o bits hf
  refine Fmt.encode_decode ?_ o
  unfold fmtOf at hf
  split at hf <;> cases hf <;> decide

end Sys2Proof.Machine
end

section
/-! PROOFS. A product whose outputs have no byte: MMA_COMPLETE poisons nothing there (R103, R142). -/

namespace Sys2Proof.Machine

/-- A matrix instruction of one output in format code 9, whose elements are narrower than a byte: C takes 0 bytes. -/
def bytelessOp : MmaOp :=
  { order := 0, pc := 0, word := 0, a := 0, b := 4096, c := 8192, units := ([], []), m := 1, n := 1, k := 1, fa := 3, fb := 3, fc := 9,
    seed := false, partialOut := false, scale := 0, overlap := false }

/-- An easel at work on tile 0 whose oldest `mma` is that instruction, its element of A with an uncorrectable error. -/
def bytelessProduct : State :=
  let panel : Sheet := { panels := [⟨0, false, 0, 1, 1, 1, 3, 0, 0, 1, 1, 0, 1⟩], bufs := [], programs := [], streams := [], sems := [], ctrs := [], reds := [] }
  { State.reset with
    bind := { Binding.reset with table := [⟨1, 0, 1, 0, 0⟩] }
    easels := [(0, { Easel.reset with
      mode := .bound
      canvas := some { id := 7, version := 0x0200, digest := [], slots := [], formulas := [⟨0, 0, []⟩], sheets := [panel], tilesRequired := 1,
                       tileMap := [0] } })]
    tiles := [(0, { Tile.reset with arrayQ := [bytelessOp] })]
    poison := [storeBase 0 / 8] }

/-- The output of that instruction has no byte that could carry a mark. -/
theorem bytelessProduct_unmarked : (match exec (.mmaComplete 0 []) bytelessProduct with
    | .next s => s.poisoned (storeBase 0 + 8192) bytelessOp.outBytes | _ => false) = false := by
  decide +kernel

/-- Refutes O24: nothing keeps from the array queue an output format whose elements are narrower than a byte (Table 4-10 does at issue), and
an output of no byte that reads an element with an uncorrectable error cannot be poisoned. -/
theorem not_mmaProduct : ¬ Obligations.MmaProduct := by
  unfold Obligations.MmaProduct
  intro h
  obtain ⟨k, hk⟩ : ∃ k, bytelessProduct.tileCtx 0 = some k := Option.isSome_iff_exists.mp (by decide +kernel)
  obtain ⟨-, hout⟩ := h bytelessProduct 0 k bytelessOp [] (by decide +kernel) hk (by decide +kernel)
  obtain ⟨s', hexec, hbytes, -⟩ := hout 0 rfl ⟨by decide +kernel, by decide +kernel⟩ (by decide) (by decide) (by decide) (by decide)
    (by decide) (by decide +kernel)
  have hpoisoned := (hbytes 0 0 _ (by decide) (by decide) rfl).2 (.inl (by decide +kernel))
  have hunmarked := bytelessProduct_unmarked
  rw [hexec] at hunmarked
  exact Bool.false_ne_true (hunmarked.symm.trans hpoisoned)

end Sys2Proof.Machine
end

section
/-! PROOFS. `mma` at issue: how many wait behind those in the array, and what operands that pass the checks satisfy (R100, R105, R112, R129). -/

namespace Sys2Proof.Machine

/-! ### The array queue (R112, R129) -/

section
variable (s : State) (t : Nat)

/-- No more enter the array than the overlap depth of those that wait allows. -/
theorem State.enteredFrom_length {d : Nat} {q : List MmaOp} (h : ∀ op ∈ q, overlapDepth op ≤ d) (inside : List MmaOp) (hin : inside.length ≤ d) :
    inside.length + (s.enteredFrom t inside q).length ≤ d := by
  induction q generalizing inside with
  | nil => simpa [State.enteredFrom] using hin
  | cons op q ih =>
    rw [State.enteredFrom]
    split
    · next henter =>
      simp only [Bool.and_eq_true, decide_eq_true_eq] at henter
      have hop := h op List.mem_cons_self
      have hrest := ih (fun o ho => h o (List.mem_cons_of_mem _ ho)) (inside ++ [op]) (by simp; omega)
      simp only [List.length_append, List.length_cons, List.length_nil] at hrest ⊢
      omega
    · simpa using hin

theorem State.entered_length {d : Nat} (h : ∀ op ∈ (s.tile t).arrayQ, overlapDepth op ≤ d) : (s.entered t).length ≤ d := by
  have hlen := s.enteredFrom_length t h [] (Nat.zero_le d)
  rwa [List.length_nil, Nat.zero_add] at hlen

theorem overlapDepth_le (op : MmaOp) : overlapDepth op ≤ 4 := by
  unfold overlapDepth
  split <;> decide

theorem State.arrayFull_of_eight (h : 8 ≤ (s.tile t).arrayQ.length) : s.arrayFull t = true := by
  have hlen := s.entered_length t fun op _ => overlapDepth_le op
  exact decide_eq_true (by omega)

theorem State.arrayFull_of_five (halone : ∀ op ∈ (s.tile t).arrayQ, op.overlap = false) (h : 5 ≤ (s.tile t).arrayQ.length) :
    s.arrayFull t = true := by
  have hlen := s.entered_length (d := 1) t fun op hop => by simp [overlapDepth, halone op hop]
  exact decide_eq_true (by omega)

theorem State.arrayFull_of_few (h : (s.tile t).arrayQ.length < 4) : s.arrayFull t = false := decide_eq_false (by omega)

end

/-! ### The checks (R105) -/

/-- A range that fits a buffer of even size ends in it; an empty one fits anywhere. -/
theorem BufPlan.fits_end {b : BufPlan} {off len : Nat} (h : b.fits off len = true) (heven : b.size % 2 = 0) : off + len ≤ max b.size off := by
  unfold BufPlan.fits within at h
  split at h
  · omega
  · split at h
    · simp only [Bool.and_eq_true, decide_eq_true_eq] at h
      obtain ⟨hhalf, hoff⟩ := h
      rw [Nat.max_eq_left (by omega : 1 ≤ b.size / 2)] at hhalf
      have hdiv := Nat.div_add_mod off (b.size / 2)
      have hlt : off / (b.size / 2) < 2 := (Nat.div_lt_iff_lt_mul (by omega)).mpr (by omega)
      generalize off / (b.size / 2) = q at *
      interval_cases q <;> omega
    · simp only [Bool.and_eq_true, decide_eq_true_eq] at h
      omega

/-- The operands as they are handed to the array. -/
def MmaArgs.op (g : MmaArgs) (overlap : Bool) (h : Shape) (scale : Int) (seed part order pc : Nat) (word : Word64) : MmaOp :=
  { order, pc, word, a := g.a.offset + g.aOff, b := g.b.offset + g.bOff, c := g.c.offset + g.cOff
    units := (if seed = 1 then [g.a.unit g.aOff, g.b.unit g.bOff, g.c.unit g.cOff] else [g.a.unit g.aOff, g.b.unit g.bOff], [g.c.unit g.cOff])
    m := h.m, n := h.n, k := h.k, fa := h.fa, fb := h.fb, fc := h.fc, seed := seed = 1, partialOut := part = 1, scale, overlap }

/-- What operands that pass have passed, check by check. -/
theorem checkMma_good {g : MmaArgs} {overlap : Bool} {shape : Nat} {scale : Int} {seed part order pc : Nat} {word : Word64} {op : MmaOp}
    (h : checkMma g overlap shape scale seed part order pc word = .good op) :
    op = g.op overlap (shapeOf shape) scale seed part order pc word ∧ shapeOk shape = true ∧ seedOk seed part = true ∧
    (g.aOff % 64 = 0 ∧ g.bOff % 64 = 0 ∧ g.cOff % 64 = 0) ∧ (-512 ≤ scale ∧ scale ≤ 512) ∧
    (g.a.fits g.aOff (operandBytes op.fa op.m op.k) = true ∧ g.b.fits g.bOff (operandBytes op.fb op.n op.k) = true ∧
      g.c.fits g.cOff (op.m * op.outPitch) = true) ∧
    overlaps op.c (op.m * op.outPitch) op.a (operandBytes op.fa op.m op.k) = false ∧
    overlaps op.c (op.m * op.outPitch) op.b (operandBytes op.fb op.n op.k) = false := by
  unfold checkMma at h
  dsimp only at h
  split_ifs at h with hshape hformats hoffs hscale ha hb hc hover hseed
  all_goals
    cases h
    simp only [Bool.not_eq_true', Bool.or_eq_true, bne_iff_ne, not_or, not_not, Bool.not_eq_true, Bool.not_eq_false, not_lt] at *
    exact ⟨by simp [MmaArgs.op, hseed], hshape, hformats.2, ⟨hoffs.1.1, hoffs.1.2, hoffs.2⟩, hscale, ⟨ha, hb, hc⟩, hover⟩

/-! ### At issue -/

/-- What follows the checks: an easel that stops, an `mma` without outputs that is complete, or one that enters the queue. -/
def State.takeMma (s : State) (k : TileCtx) (t : Nat) : MmaCheck → State
  | .operand r => s.operandFault k t r
  | .overflow o b => s.tileOverflow k t o b
  | .good op =>
    if op.m = 0 ∨ op.n = 0 then s.onTile t Tile.advance
    else s.onTile t fun x => { x.advance with order := x.order + 1, arrayQ := x.arrayQ ++ [op] }

section
variable {s : State} {t : Nat} {k : TileCtx} {aBuf aOff bBuf bOff cBuf cOff shape scale seed part : Nat}
variable (h : s.fetch t = some (k, .mma aBuf aOff bBuf bOff cBuf cOff shape scale seed part))
include h

theorem exec_mma_stalls (hfull : s.arrayFull t = true) : exec (.mma t) s = .next s := by
  have harm : exec (.mma t) s = execMma t s := rfl
  rw [harm, execMma, h]
  exact if_pos hfull

/-- With room in the queue the checks decide. -/
theorem exec_mma_checked {g : MmaArgs} (hg : k.mmaArgs (s.tile t) aBuf aOff bBuf bOff cBuf cOff = some g) (hroom : s.arrayFull t = false) :
    exec (.mma t) s = .next (s.takeMma k t (checkMma g k.panel.overlap ((s.tile t).reg shape).toNat ((s.tile t).reg scale).toInt seed part
      (s.tile t).order (s.tile t).pc (s.tile t).word)) := by
  have harm : exec (.mma t) s = execMma t s := rfl
  rw [harm, execMma, h]
  dsimp only
  rw [hg, if_neg (by simp [hroom])]
  dsimp only
  cases checkMma g k.panel.overlap ((s.tile t).reg shape).toNat ((s.tile t).reg scale).toInt seed part (s.tile t).order (s.tile t).pc
    (s.tile t).word with
  | good op =>
    dsimp only [State.takeMma]
    split <;> rfl
  | operand reason => rfl
  | overflow o b => rfl

end

theorem Tile.advance_advances (x : Tile) : Advances x x.advance 0 0 := Tile.setReg_advances x 0 0

/-- Settles O23: the queue's length, then the checks in their order. -/
theorem mmaAtIssue : Obligations.MmaAtIssue := by
  unfold Obligations.MmaAtIssue
  refine ⟨?_, ?_⟩
  · intro s t k aBuf aOff bBuf bOff cBuf cOff shape scale seed part g h hg
    refine ⟨exec_mma_stalls h, s.arrayFull_of_eight t, s.arrayFull_of_five t, s.arrayFull_of_few t, fun hroom r hr => ?_⟩
    have hexec := exec_mma_checked h hg hroom
    have hfault := fun code a b => (State.faultWith_stops (State.fetch_works h).2 code 0x04 (s.tileUnit k.e t) k.seq a b).1
    rw [← hr] at hexec
    refine ⟨?_, ?_, ?_, ?_⟩
    · rintro op rfl hm hn
      rw [State.takeMma, if_neg (by simp [hm, hn])] at hexec
      refine ⟨_, hexec, s.onTile_onlyTile t _, ?_⟩
      rw [State.onTile_tile_self]
      exact ⟨Tile.advance_advances (s.tile t), rfl, rfl, rfl⟩
    · rintro op rfl hzero
      rw [State.takeMma, if_pos hzero] at hexec
      exact ⟨_, hexec, s.onTile_advance_scalarDone t⟩
    · rintro reason rfl
      exact ⟨_, hexec, hfault ..⟩
    · rintro o b rfl
      exact ⟨_, hexec, hfault ..⟩
  · intro g overlap shape scale seed part order pc word op h nc hnc
    obtain ⟨rfl, hshape, hseed, ⟨ha, hb, hc⟩, ⟨hlo, hhi⟩, ⟨hfa, hfb, hfc⟩, hover⟩ := checkMma_good h
    subst hnc
    simp only [shapeOk, Bool.and_eq_true, decide_eq_true_eq] at hshape
    obtain ⟨⟨⟨hm, hn⟩, hk⟩, -⟩ := hshape
    refine ⟨rfl, hm, hn, hk, by simp [MmaArgs.op, Nat.add_mod, ha], by simp [MmaArgs.op, Nat.add_mod, hb], by simp [MmaArgs.op, Nat.add_mod, hc],
      hlo, hhi, rfl, fun hone => by simpa [seedOk, hone] using hseed, BufPlan.fits_end hfa, BufPlan.fits_end hfb, BufPlan.fits_end hfc, hover⟩

end Sys2Proof.Machine
end

section
/-! PROOFS. What the vector engine leaves alone: a chain writes bytes of memory and nothing else (R200, R202, R217). -/

namespace Sys2Proof.Machine

theorem State.setPoison_only (s : State) (a n : Nat) : UndefinedOnly s (s.setPoison a n) := (s.setPoison_memoryOnly a n).undefined

theorem State.puts_only (s : State) (l : List Put) : UndefinedOnly s (s.puts l) := by
  have hwrites := foldl_keeps_state UndefinedOnly .refl (fun _ _ _ => .trans) (fun (s : State) (p : Put) => s.writeAt p.at_ p.bytes)
    (fun s p => (s.writeAt_memoryOnly p.at_ p.bytes).undefined) l s
  have hmarks := foldl_keeps_state UndefinedOnly .refl (fun _ _ _ => .trans)
    (fun (s : State) (p : Put) => if p.bad then s.setPoison p.at_ p.bytes.length else s)
    (fun s p => by split; exacts [s.setPoison_only _ _, .refl s]) l
  exact (hwrites.trans ⟨rfl, id, id⟩).trans (hmarks _)

theorem State.storeOut_only (s : State) (c : VecCtx) (x : Ten) (sat : Bool) (f : List Nat → Option Elt) :
    UndefinedOnly s (s.storeOut c x sat f) := by
  unfold State.storeOut
  split
  · exact s.puts_only _
  · exact s.puts_only _

theorem State.poisonOut_only (s : State) (c : VecCtx) (x : Ten) (bad : Bool) : UndefinedOnly s (State.poisonOut c x bad s) := by
  unfold State.poisonOut
  split
  · exact foldl_keeps_state UndefinedOnly .refl (fun _ _ _ => .trans) _ (fun s _ => s.setPoison_only _ _) _ s
  · exact .refl s

theorem State.storeResult_only (s : State) (c : VecCtx) (d : List Nat) (g : Stage) (r : List Elt) : UndefinedOnly s (s.storeResult c d g r) := by
  unfold State.storeResult
  split
  · exact s.storeOut_only _ _ _ _
  · exact .refl s

theorem State.stageWrite_only (s : State) (c : VecCtx) (d : List Nat) (done : List (List Elt)) (g : Stage) :
    UndefinedOnly s (s.stageWrite c d done g).1 := by
  have hfinish : ∀ x sat f bad, UndefinedOnly s (State.poisonOut c x bad (s.storeOut c x sat f)) := fun x sat f bad =>
    (s.storeOut_only c x sat f).trans (State.poisonOut_only _ _ _ _)
  unfold State.stageWrite
  dsimp only
  split
  · exact .refl s
  split
  · split
    · exact .refl s
    · exact s.puts_only _
  · split
    · dsimp only
      exact s.storeOut_only _ _ _ _
    · exact .refl s
  · split
    · dsimp only
      refine UndefinedOnly.trans ?_ (State.storeOut_only _ _ _ _ _)
      refine UndefinedOnly.trans ?_ (State.storeOut_only _ _ _ _ _)
      exact s.storeOut_only _ _ _ _
    · exact .refl s
  · split
    · exact hfinish _ _ _ _
    · exact .refl s
  · exact hfinish _ _ _ _

/-- A chain writes bytes, their poison and tags, and uses up free choices. -/
theorem State.runChain_only (s : State) (c : VecCtx) : UndefinedOnly s (s.runChain c).1 := by
  unfold State.runChain
  dsimp only
  split
  · exact .refl s
  · have hstages := foldl_keeps UndefinedOnly .refl (fun _ _ _ => .trans)
      (fun (acc : State × Nat) (p : Stage × Nat) =>
        if writer p.1.op then
          let r := acc.1.stageWrite c (c.h.dom.map Int.toNat)
            ((s.resultsOf c (c.h.dom.map Int.toNat) 0 c.h.stages [] [] 0).1.zipIdx.map fun p => settled c.h p.2 p.1) p.1
          (r.1, acc.2 + r.2)
        else if p.1.out = 0xFF then acc
        else (acc.1.storeResult c (c.h.dom.map Int.toNat) p.1 ((s.resultsOf c (c.h.dom.map Int.toNat) 0 c.h.stages [] [] 0).1.getD p.2 []), acc.2))
      (fun acc p => by
        dsimp only
        split
        · exact acc.1.stageWrite_only _ _ _ _
        · split
          · exact .refl _
          · exact acc.1.storeResult_only _ _ _ _) c.h.stages.zipIdx
    refine UndefinedOnly.trans ?_ (hstages _)
    dsimp only
    split
    · exact ⟨rfl, id, id⟩
    · exact .refl s


/-! ### `vchain` at issue (R106, R205) -/

/-- A range within one that carries no mark carries none. -/
theorem State.poisoned_sub {s : State} {a n b m : Nat} (h : s.poisoned a n = false) (hlo : a ≤ b) (hhi : b + m ≤ a + n) :
    s.poisoned b m = false := by
  rw [← Bool.not_eq_true, State.poisoned_iff] at h ⊢
  rintro ⟨w, hw, hlt, hgt⟩
  exact h ⟨w, hw, by omega, by omega⟩

/-- A descriptor without marks has none over its header and none over the rest. -/
theorem State.poisoned_header_rest {s : State} {base lo n : Nat} (h : s.poisoned (base + lo) (max n 32) = false) :
    s.poisoned (base + lo) 32 = false ∧ s.poisoned (base + (lo + 32)) (n - 32) = false :=
  ⟨State.poisoned_sub h le_rfl (by omega), State.poisoned_sub h (by omega) (by omega)⟩

/-- A descriptor's words that carry no mark are read as they are. -/
theorem State.readDesc_clean {s : State} {k : TileCtx} {t lo n : Nat} (h : s.poisoned (storeBase t + lo) n = false) :
    s.readDesc k t lo n [] = (false, s) := by
  have herrors : s.storeErrors k t 5 [(lo, n)] [] = s := rfl
  rw [State.readDesc, herrors, h]
  rfl

/-- What follows the reading of a descriptor that passes the checks, with its buffers free. (The checks are a variable here: the kernel
would evaluate them.) -/
theorem State.vchain_checked {s : State} {k : TileCtx} {t off param : Nat} {b : BufPlan} {h : Chain} {vals : List Int} {n a : Nat}
    {p : List Byte} {u : Units} {check : List Byte → Nat → ChainCheck} {r : Bool × State} (hr : r = (false, s)) (hp : p = bytesAt (s.readAt a n) 0 (max n 32))
    (hcheck : check p ((s.tile t).reg param).toNat = .good h vals) (hu : u = h.units (k.sheet.plan k.panel) (b.unit off))
    (harray : s.hazardArray t u = false) (hstream : s.hazardStream t u = false) :
    (match (generalizing := false) r with
    | (true, s') => s'
    | (false, s') =>
      let p := bytesAt (s'.readAt a n) 0 (max n 32)
      match (generalizing := false) check p ((s.tile t).reg param).toNat with
      | .operand r => s'.operandFault k t r
      | .overflow o i => s'.tileOverflow k t (ofSigned 64 o) i
      | .good h vals =>
        let u := h.units (k.sheet.plan k.panel) (b.unit off)
        if s.hazardArray t u || s.hazardStream t u then s
        else
          let back := h.ret.isSome && param != 0
          s'.onTile t fun x =>
            { x.advance with order := x.order + 1, hold := if back then .chain else .none,
                             vecQ := x.vecQ ++ [(vecCtx k t h).op x p vals param u] }) =
    s.onTile t fun x => { x.advance with
      order := x.order + 1, hold := if h.ret.isSome && param != 0 then .chain else .none
      vecQ := x.vecQ ++ [(vecCtx k t h).op x p vals param u] } := by
  subst hr
  dsimp only
  rw [← hp, hcheck]
  dsimp only
  rw [← hu, harray, hstream]
  rfl

/-- A chain whose descriptor is read and passes the checks, with its buffers free, enters the vector queue. -/
theorem State.vchainIssue_enters {s : State} {k : TileCtx} {t off param : Nat} {b : BufPlan} {h : Chain} {vals : List Int} {n : Nat}
    {p : List Byte} {u : Units} (halign : off % 64 = 0) (hhead : b.fits off 32 = true)
    (hn : n = at8 (s.readAt (storeBase t + (b.offset + off)) 32) 4 2) (hfits : b.fits off n = true)
    (hclean : s.poisoned (storeBase t + (b.offset + off)) (max n 32) = false)
    (hp : p = bytesAt (s.readAt (storeBase t + (b.offset + off)) n) 0 (max n 32))
    (hcheck : checkChain k p ((s.tile t).reg param).toNat = .good h vals) (hu : u = h.units (k.sheet.plan k.panel) (b.unit off))
    (harray : s.hazardArray t u = false) (hstream : s.hazardStream t u = false) :
    s.vchainIssue k t b off param [] = s.onTile t fun x => { x.advance with
      order := x.order + 1, hold := if h.ret.isSome && param != 0 then .chain else .none
      vecQ := x.vecQ ++ [(vecCtx k t h).op x p vals param u] } := by
  have hparts := State.poisoned_header_rest hclean
  have hfirst : s.readDesc k t (b.offset + off) 32 [] = (false, s) := State.readDesc_clean hparts.1
  have hrest : s.readDesc k t (b.offset + off + 32) (n - 32) [] = (false, s) := State.readDesc_clean hparts.2
  unfold State.vchainIssue
  generalize checkChain k = check at hcheck ⊢
  rw [if_neg (by simp [halign]), if_neg (by simp [hhead])]
  split
  · next heq => simp [hfirst] at heq
  · next s' heq =>
    obtain rfl : s = s' := by simpa [hfirst] using heq
    extract_lets n2
    obtain rfl : n2 = n := hn.symm
    clear_value n2
    rw [if_neg (by simp [hfits])]
    exact State.vchain_checked hrest hp hcheck hu harray hstream

/-- The issue of a chain with room in the queue and its descriptor's buffer free. -/
theorem exec_vchain {s : State} {t : Nat} {k : TileCtx} {buf off param : Nat} {b : BufPlan} (h : s.fetch t = some (k, .vchain buf off param))
    (hb : k.sheet.buf k.panel buf = some b) (hroom : s.vectorFull k.e t = false)
    (hfree : s.hazard t ([b.unit ((s.tile t).reg off).toNat], []) = false) (errs : List (Nat × MemErr)) :
    exec (.vchain t errs) s = .next (s.vchainIssue k t b ((s.tile t).reg off).toNat param errs) := by
  have harm : exec (.vchain t errs) s = execVchain t errs s := rfl
  rw [harm, execVchain, h]
  dsimp only
  rw [hb]
  simp [hroom, hfree]

theorem vchainAtIssue : VchainAtIssue := by
  intro s t k buf off param n b h vals p hfetch hb hroom o ho hfree halign hhead hn hfits hclean hp hcheck u hu harray hstream
  subst ho
  have hexec := exec_vchain hfetch hb hroom hfree []
  rw [State.vchainIssue_enters halign hhead hn hfits hclean hp hcheck hu harray hstream] at hexec
  refine ⟨_, hexec, s.onTile_onlyTile t _, ?_⟩
  rw [State.onTile_tile_self]
  refine ⟨Tile.advance_advances (s.tile t), ?_, rfl, rfl, rfl⟩
  simp

/-! ### VCHAIN_COMPLETE (R202, R217) -/

/-- The tile once its oldest chain is done: the returned value in its parameter register, and the tile no longer held for it. -/
def Tile.chainDone (x : Tile) (op : VecOp) (rest : List VecOp) (v : Word64) (out : Nat) : Tile :=
  let x := { x with vecQ := rest, counters := bumpAt x.counters 11 out }
  if op.ret && op.reg != 0 then { (x.setReg op.reg v) with hold := .none } else x

section
variable (x : Tile) (op : VecOp) (rest : List VecOp) (v : Word64) (out : Nat)

theorem Tile.chainDone_queues : (x.chainDone op rest v out).vecQ = rest ∧ (x.chainDone op rest v out).arrayQ = x.arrayQ ∧
    (x.chainDone op rest v out).pc = x.pc := by
  obtain ⟨harray, hvec, -⟩ := Tile.setReg_queuesKept { x with vecQ := rest, counters := bumpAt x.counters 11 out } op.reg v
  unfold Tile.chainDone
  dsimp only
  split
  · exact ⟨hvec, harray, Tile.setReg_pc _ _ _⟩
  · exact ⟨rfl, rfl, rfl⟩

theorem Tile.chainDone_reg (r : Nat) : (x.chainDone op rest v out).reg r = wrote x (if op.ret then op.reg else 0) v r := by
  unfold Tile.chainDone
  dsimp only
  split
  · next hret =>
    rw [Bool.and_eq_true] at hret
    rw [if_pos hret.1]
    exact Tile.reg_setReg _ _ _ r
  · next hret =>
    have hzero : (if op.ret then op.reg else 0) = 0 := by
      split
      · next hr => simpa [hr] using hret
      · rfl
    rw [hzero, wrote, if_neg (by omega)]
    rfl

theorem Tile.chainDone_hold (hret : op.ret = true) (hreg : op.reg ≠ 0) : (x.chainDone op rest v out).hold = .none := by
  simp [Tile.chainDone, hret, hreg]

end

section
variable {s : State} {t : Nat} {k : TileCtx} {op : VecOp} {rest : List VecOp} (hq : (s.tile t).vecQ = op :: rest) (hk : s.tileCtx t = some k)
include hq hk

theorem exec_vchainComplete_waits (errs : List (Nat × MemErr)) (hw : s.chainWaits k.e t op = true) :
    exec (.vchainComplete t errs) s = .next s := by
  have harm : exec (.vchainComplete t errs) s = execVchainComplete t errs s := rfl
  rw [harm, execVchainComplete, hq]
  dsimp only
  rw [hk]
  exact if_pos hw

theorem exec_vchainComplete (errs : List (Nat × MemErr)) (hw : s.chainWaits k.e t op = false) :
    let c := vecCtx k t (chainOf op.desc op.vals)
    let r := (s.storeErrors k t 5 c.reads errs).runChain c
    exec (.vchainComplete t errs) s = .next (r.1.onTile t fun x => x.chainDone op rest r.2.1 r.2.2) := by
  have harm : exec (.vchainComplete t errs) s = execVchainComplete t errs s := rfl
  rw [harm, execVchainComplete, hq]
  dsimp only
  rw [hk]
  exact if_neg (by simp [hw])

end

theorem vchainDone : VchainDone := by
  intro s t k op rest hq hk c hc
  refine ⟨exec_vchainComplete_waits hq hk [], fun hw => ?_, fun errs hw => ?_⟩
  · have hexec := exec_vchainComplete hq hk [] hw
    dsimp only at hexec
    rw [← hc] at hexec
    have hnone : s.storeErrors k t 5 c.reads [] = s := rfl
    rw [hnone] at hexec
    refine ⟨_, hexec, ?_⟩
    dsimp only
    rw [State.onTile_tile_self, (s.runChain_only c).tile]
    obtain ⟨hvec, harray, hpc⟩ := (s.tile t).chainDone_queues op rest (s.runChain c).2.1 (s.runChain c).2.2
    exact ⟨hvec, harray, hpc, memoryKept_of_fields rfl rfl rfl rfl, Tile.chainDone_reg _ _ _ _ _, Tile.chainDone_hold _ _ _ _ _⟩
  · refine ⟨_, exec_vchainComplete hq hk errs hw, ?_⟩
    dsimp only
    rw [State.onTile_tile_self]
    exact (Tile.chainDone_queues _ _ _ _ _).1

/-- Settles O25: a chain at issue, and its end. -/
theorem vchains : Obligations.Vchains := ⟨vchainAtIssue, vchainDone⟩

end Sys2Proof.Machine
end

section
/-! PROOFS. `issue` and `await` (R107, R108, R181, R259). -/

namespace Sys2Proof.Machine

/-! ### An issue that joins the issues -/

section
variable (s : State) (y : Issue) (c : Option (Nat × Nat))

/-- The streams with a new issue; nothing else changes, and of the streams the transfers stand. -/
theorem State.openIssue_streams : s.openIssue y c = { s with streams := (s.openIssue y c).streams } ∧
    (s.openIssue y c).streams.issues = s.streams.issues ++ [y] ∧ (s.openIssue y c).streams.nextIssue = y.id + 1 ∧
    (s.openIssue y c).streams.xfers = s.streams.xfers := by
  unfold State.openIssue
  dsimp only
  split
  · exact ⟨rfl, rfl, rfl, rfl⟩
  · exact ⟨rfl, rfl, rfl, rfl⟩

end

section
variable {s : State} {t : Nat} {k : TileCtx}

/-- The device with an issue opened and its tile past the instruction. -/
def State.passIssue (s : State) (t : Nat) (y : Issue) (c : Option (Nat × Nat)) : State :=
  (s.openIssue y c).onTile t fun x => { x.advance with order := x.order + 1 }

theorem State.passIssue_opens (y : Issue) (c : Option (Nat × Nat)) (hid : y.id = s.streams.nextIssue) :
    let s' := s.passIssue t y c
    s' = { s with streams := s'.streams }.setTile t (s'.tile t) ∧
    s'.streams.issues = s.streams.issues ++ [y] ∧ s'.streams.nextIssue = s.streams.nextIssue + 1 ∧
    s'.streams.xfers = s.streams.xfers ∧ Advances (s.tile t) (s'.tile t) 0 0 ∧ (s'.tile t).order = (s.tile t).order + 1 ∧
    (s'.tile t).arrayQ = (s.tile t).arrayQ ∧ (s'.tile t).vecQ = (s.tile t).vecQ := by
  obtain ⟨hstate, hissues, hnext, hxfers⟩ := s.openIssue_streams y c
  have htile : (s.openIssue y c).tile t = s.tile t := by rw [hstate]; rfl
  dsimp only [State.passIssue]
  rw [State.onTile_tile_self, htile]
  refine ⟨?_, hissues, hnext.trans (by rw [hid]), hxfers, Tile.advance_advances (s.tile t), rfl, rfl, rfl⟩
  rw [State.onTile, htile]
  conv_lhs => rw [hstate]
  rfl

/-- The checks of an `issue` passed, the order of chunks decides. -/
theorem exec_issue {stream p q buf off useLocal sig sem : Nat} {d : StreamDesc} {y : Issue}
    (h : s.fetch t = some (k, .issue stream p q buf off useLocal sig sem)) (hd : k.x.stream stream = some d)
    (hmatch : issueMismatch k d buf useLocal = false) (hfew : (s.issuesOf t).length < 16)
    (hy : y = {
      id := s.streams.nextIssue, easel := k.e, tile := t, order := (s.tile t).order, seq := k.seq, stream, p := (s.tile t).reg p,
      q := (s.tile t).reg q, useLocal := useLocal = 1, buf, off := ((s.tile t).reg off).toNat, signal := if sig = 1 then some sem else none,
      units := k.issueUnits d buf ((s.tile t).reg off).toNat useLocal, block := 0, apc := 0, regs := [], loops := [], inBlock := false,
      runs := [], emitted := 0, parts := [], begun := false, gates := 0, gated := false, consumed := false, finished := false })
    (hfree : s.hazard t y.units = false) : exec (.issue t) s = .next (match d.window with
      | none => s.passIssue t y none
      | some w =>
        if stripeOrder (s.flow t stream k.seq).chunk k.panel.rows k.r (wChunks w k.slots) ((s.tile t).reg p).toNat ((s.tile t).reg q).toNat
        then s.passIssue t y (some (((s.tile t).reg p).toNat, ((s.tile t).reg q).toNat))
        else s.faultWith 0x0305 k.e 0x04 (s.tileUnit k.e t) k.seq
          (((s.tile t).reg p).toNat % 2 ^ 32 + ((s.tile t).reg q).toNat % 2 ^ 32 * 2 ^ 32) k.li) := by
  have harm : exec (.issue t) s = execIssue t s := rfl
  rw [harm, execIssue, h]
  dsimp only
  rw [hd]
  dsimp only
  rw [if_neg (by simp [hmatch]), if_neg (by omega)]
  rw [hy] at hfree
  rw [if_neg (by simpa using hfree), ← hy]
  cases d.window with
  | none => rfl
  | some w => exact (apply_ite Host.Outcome.next _ _ _).symm

/-! ### `await` (R108) -/

theorem State.awaited_iff {stream all : Nat} : s.awaited t stream all = true ↔
    ∀ y ∈ s.streams.issues, y.tile = t → all ≠ 1 ∧ y.stream ≠ stream := by
  simp [State.awaited, State.issuesOf, imp_iff_not_or]

theorem exec_await {stream all : Nat} (h : s.fetch t = some (k, .await stream all)) : exec (.await t) s =
    .next (if s.awaited t stream all then s.onTile t Tile.advance
      else s.onTile t fun x => { x with hold := .await (if all = 1 then none else some stream) }) := by
  have harm : exec (.await t) s = execAwait t s := rfl
  rw [harm, execAwait, h]
  exact (apply_ite Host.Outcome.next _ _ _).symm

end

/-- Settles O26: the checks in their order, then the order of chunks; and the earlier issues that an `await` names. -/
theorem issueAndAwait : Obligations.IssueAndAwait := by
  unfold Obligations.IssueAndAwait
  refine fun s t k => ⟨?_, fun stream all h => ⟨fun hnone => ?_, fun hsome => ?_⟩⟩
  · intro stream p q buf off useLocal sig sem d h hd hmatch hfew y hy hfree ordered hordered
    have hexec := exec_issue h hd hmatch hfew hy hfree
    have hid : y.id = s.streams.nextIssue := by rw [hy]
    refine ⟨fun hin => ?_, fun hout => ?_⟩
    · rw [hordered] at hin
      cases hw : d.window with
      | none =>
        rw [hw] at hexec
        exact ⟨_, hexec, State.passIssue_opens y none hid⟩
      | some w =>
        rw [hw] at hexec
        dsimp only at hexec
        rw [if_pos (hin w hw)] at hexec
        exact ⟨_, hexec, State.passIssue_opens y _ hid⟩
    · rw [hordered] at hout
      push Not at hout
      obtain ⟨w, hw, hno⟩ := hout
      rw [hw] at hexec
      dsimp only at hexec
      rw [if_neg hno] at hexec
      exact ⟨_, hexec, (State.faultWith_stops (State.fetch_works h).2 ..).1⟩
  · have hexec := exec_await h
    rw [if_pos (State.awaited_iff.mpr hnone)] at hexec
    exact ⟨_, hexec, s.onTile_advance_scalarDone t⟩
  · have hexec := exec_await h
    have hwaits : ¬ s.awaited t stream all = true := by
      rw [State.awaited_iff]
      intro hall
      obtain ⟨y, hy, ht, hnamed⟩ := hsome
      exact hnamed.elim (hall y hy ht).1 (hall y hy ht).2
    rw [if_neg hwaits] at hexec
    exact ⟨_, hexec, rfl⟩

end Sys2Proof.Machine
end

section
/-! PROOFS. The instructions of address programs (R255, R256). -/

namespace Sys2Proof.Machine

/-! ### Where an address program goes on (R256) -/

theorem settleAddr_of_midBody {ls : List LoopFrame} {n : Nat} (h : ∀ f ∈ ls, n ≠ f.last + 1) : settleAddr ls n = (n, ls) := by
  cases ls with
  | nil => rfl
  | cons f fs => simp [settleAddr, h f]

theorem settleAddr_of_iterates {f : LoopFrame} (h : f.iter + 1 < f.count) (fs : List LoopFrame) :
    settleAddr (f :: fs) (f.last + 1) = (f.first, { f with iter := f.iter + 1 } :: fs) := by
  simp [settleAddr, h]

theorem settleAddr_of_leaves {f : LoopFrame} (h : f.count ≤ f.iter + 1) (fs : List LoopFrame) :
    settleAddr (f :: fs) (f.last + 1) = settleAddr fs (f.last + 1) := by
  simp [settleAddr, h]

theorem Issue.agoto_of_midBody {y : Issue} {n : Nat} (h : ∀ f ∈ y.loops, n ≠ f.last + 1) : y.agoto n = { y with apc := n } := by
  rw [Issue.agoto, settleAddr_of_midBody h]

/-- An issue whose registers and runs may have changed, past the word it is at. -/
theorem Issue.agoto_moves (y : Issue) (regs : Tab Word64) (runs : List Run) (emitted : Nat) :
    AddrMoves y { ({ y with regs := regs }.agoto (y.apc + 1)) with runs := runs, emitted := emitted } := by
  refine ⟨rfl, fun hmid => ?_, fun f fs hloops hlast => ⟨fun hmore => ?_, fun hless hout => ?_⟩⟩
  · have hgoto := settleAddr_of_midBody (ls := y.loops) (n := y.apc + 1) fun f hf heq => hmid f hf (Nat.succ.inj heq).symm
    simp [Issue.agoto, hgoto]
  · have hgoto := settleAddr_of_iterates hmore fs
    rw [hlast, ← hloops] at hgoto
    simp [Issue.agoto, hgoto, hlast]
  · have hgoto := (settleAddr_of_leaves hless fs).trans
      (settleAddr_of_midBody (ls := fs) (n := f.last + 1) fun g hg heq => hout g hg (Nat.succ.inj heq).symm)
    rw [hlast, ← hloops] at hgoto
    simp [Issue.agoto, hgoto]

/-- A register set and the program moved on. -/
theorem Issue.aset_done (y : Issue) (d : Nat) (v : Word64) : AddrMoves y (y.aset d v) ∧ SetsReg y d v (y.aset d v) := by
  refine ⟨y.agoto_moves (tset y.regs d v) y.runs y.emitted, fun r => ?_, rfl, rfl⟩
  have hregs : (y.aset d v).regs = tset y.regs d v := rfl
  rw [hregs, tget_tset]

/-! ### The register instructions (R255) -/

/-- A field read as a signed number is its sign extension. -/
theorem ofInt_toSigned {w : Nat} (hw : 0 < w) (n : Nat) : BitVec.ofInt 64 (toSigned w n) = (BitVec.ofNat w n).signExtend 64 := by
  have hhalf : 2 * (n % 2 ^ w) < 2 ^ w ↔ n % 2 ^ w < 2 ^ (w - 1) := by
    obtain ⟨v, rfl⟩ := Nat.exists_eq_succ_of_ne_zero hw.ne'
    rw [Nat.pow_succ', Nat.succ_sub_one]
    omega
  rw [BitVec.signExtend, toSigned, BitVec.toInt_eq_toNat_cond, BitVec.toNat_ofNat]
  simp only [hhalf]
  norm_num

section
variable {s : State} {i : Nat} {c : IssueCtx}

theorem exec_addrSeti {d imm : Nat} (h : s.afetch i = some (c, .seti d imm)) :
    exec (.addrSeti i) s = .next (s.setIssue (c.y.aset d (BitVec.ofNat 64 imm))) := by
  have harm : exec (.addrSeti i) s = execAddrSeti i s := rfl
  rw [harm, execAddrSeti, h]

theorem exec_getv {d src : Nat} (h : s.afetch i = some (c, .getv d src)) :
    exec (.getv i) s = .next (s.setIssue (c.y.aset d (BitVec.ofInt 64 (c.k.source 0 0 false src)))) := by
  have harm : exec (.getv i) s = execGetv i s := rfl
  rw [harm, execGetv, h]

theorem exec_madd {d a b imm : Nat} (h : s.afetch i = some (c, .madd d a b imm)) : exec (.madd i) s =
    .next (s.setIssue (c.y.aset d (tget 0 c.y.regs a + tget 0 c.y.regs b * (BitVec.ofNat 32 imm).signExtend 64))) := by
  have harm : exec (.madd i) s = execMadd i s := rfl
  rw [harm, execMadd, h, ← ofInt_toSigned (by decide)]

theorem exec_addi {d a imm : Nat} (h : s.afetch i = some (c, .addi d a imm)) : exec (.addi i) s =
    .next (s.setIssue (c.y.aset d (tget 0 c.y.regs a + (BitVec.ofNat 48 imm).signExtend 64))) := by
  have harm : exec (.addi i) s = execAddi i s := rfl
  rw [harm, execAddi, h, ← ofInt_toSigned (by decide)]

theorem exec_addrEnd (h : s.afetch i = some (c, .fin)) : exec (.addrEnd i) s = .next (s.setIssue (c.y.nextBlock c.d)) := by
  have harm : exec (.addrEnd i) s = execAddrEnd i s := rfl
  rw [harm, execAddrEnd, h]

/-- The context of an instruction is that of the issue, started and in its block. -/
theorem State.afetch_issue {o : AddrOp} {y : Issue} (h : s.afetch i = some (c, o)) (hy : s.issue i = some y) :
    c.y = Issue.enter { y with begun := true } c.b := by
  have hctx : ∀ c, s.issueCtx i = some c → c.y = { y with begun := true } := by
    intro c hc
    unfold State.issueCtx at hc
    rw [hy] at hc
    dsimp only at hc
    split at hc
    · cases hc
    · split at hc
      · cases hc
      · split at hc
        · cases hc
        · obtain ⟨b, -, rfl⟩ := Option.map_eq_some_iff.mp hc
          rfl
  unfold State.afetch at h
  split at h
  · next c' hc =>
    split at h
    · obtain ⟨o', -, heq⟩ := Option.map_eq_some_iff.mp h
      cases heq
      dsimp only
      rw [hctx c' hc]
    · cases h
  · cases h

/-- An issue that enters its block writes its registers out. -/
theorem Issue.enter_regs {y : Issue} (h : y.inBlock = false) (b : Block) {r : Nat} (hr : r < 8) :
    tget 0 (Issue.enter { y with begun := true } b).regs r = Issue.areg { y with begun := true } b r := by
  have hregs : (Issue.enter { y with begun := true } b).regs = (List.range 8).map fun r => (r, Issue.areg { y with begun := true } b r) := by
    simp [Issue.enter, h]
  rw [hregs]
  interval_cases r <;> rfl

end

theorem addressRegisters : AddressRegisters := by
  intro s i c
  have hset := fun d v => (c.y.aset_done d v)
  refine ⟨fun d imm h => ⟨_, exec_addrSeti h, _, rfl, hset _ _⟩, fun d src h => ⟨_, exec_getv h, _, rfl, hset _ _⟩,
    fun d a b imm h => ⟨_, exec_madd h, _, rfl, hset _ _⟩, fun d a imm h => ⟨_, exec_addi h, _, rfl, hset _ _⟩,
    fun h => ⟨_, exec_addrEnd h, _, rfl, rfl, rfl, rfl, rfl, decide_eq_true_iff⟩, fun y o hy hin h => ?_⟩
  rw [State.afetch_issue h hy]
  have hareg : ∀ r, Issue.areg { y with begun := true } c.b r = match r with
      | 0 => BitVec.ofNat 64 c.b.srcBase | 1 => BitVec.ofNat 64 c.b.dstBase | 6 => y.p | 7 => y.q | _ => 0 := by
    intro r
    simp only [Issue.areg, hin]
    rfl
  have hreg : ∀ r, r < 8 → tget 0 (Issue.enter { y with begun := true } c.b).regs r = _ := fun r hr =>
    (Issue.enter_regs hin c.b hr).trans (hareg r)
  refine ⟨hreg 0 (by decide), hreg 1 (by decide), hreg 6 (by decide), hreg 7 (by decide), fun r hlo hhi => (hreg r (by omega)).trans ?_⟩
  interval_cases r <;> rfl

/-! ### `loop`, `emit` and `zero` (R255, R256) -/

section
variable {s : State} {i : Nat} {c : IssueCtx}

theorem exec_addrLoop {r body : Nat} (h : s.afetch i = some (c, .loop r body)) : exec (.addrLoop i) s =
    .next (if (tget 0 c.y.regs r).toNat > 2 ^ 24 then s.programFault c
      else if (tget 0 c.y.regs r).toNat = 0 then s.setIssue (c.y.agoto (c.y.apc + body + 1))
      else s.setIssue { c.y with apc := c.y.apc + 1, loops := ⟨c.y.apc + 1, c.y.apc + body, (tget 0 c.y.regs r).toNat, 0, 0⟩ :: c.y.loops }) := by
  have harm : exec (.addrLoop i) s = execAddrLoop i s := rfl
  rw [harm, execAddrLoop, h]
  dsimp only
  split_ifs <;> rfl

/-- STREAM_PROGRAM stops a working easel. -/
theorem State.programFault_stops (h : s.works c.y.easel = true) : ((s.programFault c).easel c.y.easel).mode = .faulted :=
  (State.faultWith_stops (s := s.fresh.2) h ..).1

/-- The registers after a run whose end is `advanced` by its length. -/
def advanceReg (regs : Tab Word64) (flag r : Nat) (n : Word64) : Tab Word64 := if flag = 1 then tset regs r (tget 0 regs r + n) else regs

theorem tget_advanceReg (regs : Tab Word64) (flag r : Nat) (n : Word64) (q : Nat) :
    tget 0 (advanceReg regs flag r n) q = tget 0 regs q + if q = r ∧ flag = 1 then n else 0 := by
  unfold advanceReg
  split
  · next hflag =>
    rw [tget_tset]
    by_cases hq : q = r <;> simp [hq, hflag]
  · next hflag => simp [hflag]

theorem exec_emit {a b l advS advD : Nat} (h : s.afetch i = some (c, .emit a b l advS advD)) : exec (.emit i) s =
    .next (s.emitRun c ⟨c.y.block, (tget 0 c.y.regs l).toNat, (tget 0 c.y.regs a).toNat, (tget 0 c.y.regs b).toNat, false, false, false⟩
      (Issue.agoto { c.y with regs := advanceReg (advanceReg c.y.regs advS a (tget 0 c.y.regs l)) advD b (tget 0 c.y.regs l) } (c.y.apc + 1))) := by
  have harm : exec (.emit i) s = execEmit i s := rfl
  rw [harm, execEmit, h]
  unfold advanceReg
  dsimp only
  split_ifs <;> rfl

theorem exec_zero {b l advD : Nat} (h : s.afetch i = some (c, .zero b l advD)) : exec (.zero i) s =
    .next (s.emitRun c ⟨c.y.block, (tget 0 c.y.regs l).toNat, 0, (tget 0 c.y.regs b).toNat, true, false, false⟩
      (Issue.agoto { c.y with regs := advanceReg c.y.regs advD b (tget 0 c.y.regs l) } (c.y.apc + 1))) := by
  have harm : exec (.zero i) s = execZero i s := rfl
  rw [harm, execZero, h]
  unfold advanceReg
  dsimp only
  split_ifs <;> rfl

/-- A run of no length is none; any other is added, as long as fewer than 2^32 were. -/
theorem State.emitRun_done (hfew : c.y.emitted < 2 ^ 32) (r : Run) (regs : Tab Word64) :
    ∃ y', s.emitRun c r (Issue.agoto { c.y with regs := regs } (c.y.apc + 1)) = s.setIssue y' ∧ AddrMoves c.y y' ∧ y'.regs = regs ∧
      (r.length ≠ 0 → y'.runs = c.y.runs ++ [r] ∧ y'.emitted = c.y.emitted + 1) ∧
      (r.length = 0 → y'.runs = c.y.runs ∧ y'.emitted = c.y.emitted) := by
  unfold State.emitRun
  split
  · next hzero => exact ⟨_, rfl, c.y.agoto_moves regs c.y.runs c.y.emitted, rfl, fun h => absurd hzero h, fun _ => ⟨rfl, rfl⟩⟩
  · next hne =>
    rw [if_neg (by omega)]
    exact ⟨_, rfl, c.y.agoto_moves regs (c.y.runs ++ [r]) (c.y.emitted + 1), rfl, fun _ => ⟨rfl, rfl⟩, fun h => absurd h hne⟩

/-- One run more than 2^32 is STREAM_PROGRAM. -/
theorem State.emitRun_overflows (hmany : 2 ^ 32 ≤ c.y.emitted) {r : Run} (hr : r.length ≠ 0) (y : Issue) :
    s.emitRun c r y = s.programFault c := by
  rw [State.emitRun, if_neg hr, if_pos (by omega)]

theorem toNat_eq_zero_iff (n : Word64) : n.toNat = 0 ↔ n = 0 :=
  ⟨fun h => BitVec.eq_of_toNat_eq h, fun h => by rw [h]; rfl⟩

end

theorem addressRuns : AddressRuns := by
  intro s i c
  refine ⟨fun r body h n hn => ?_, fun a b l advS advD h hfew n hn => ?_, fun b l advD h hfew n hn => ?_,
    fun a b l advS advD h hmany hl hworks => ?_⟩
  · have hexec := exec_addrLoop h
    rw [← hn] at hexec
    refine ⟨fun hzero hout => ?_, fun hpos hle => ?_, fun hgt hworks => ?_⟩
    · rw [if_neg (by omega), if_pos hzero, Issue.agoto_of_midBody fun f hf heq => hout f hf (Nat.succ.inj heq).symm] at hexec
      exact ⟨_, hexec, _, rfl, rfl⟩
    · rw [if_neg (by omega), if_neg (by omega)] at hexec
      exact ⟨_, hexec, _, rfl, rfl⟩
    · rw [if_pos hgt] at hexec
      exact ⟨_, hexec, State.programFault_stops hworks⟩
  · obtain ⟨y', hrun, hmoves, hregs, hsome, hnone⟩ := State.emitRun_done (s := s) hfew
      ⟨c.y.block, (tget 0 c.y.regs l).toNat, (tget 0 c.y.regs a).toNat, (tget 0 c.y.regs b).toNat, false, false, false⟩
      (advanceReg (advanceReg c.y.regs advS a (tget 0 c.y.regs l)) advD b (tget 0 c.y.regs l))
    subst hn
    refine ⟨_, exec_emit h, y', hrun, hmoves, fun q => ?_, fun hne => hsome (mt (toNat_eq_zero_iff _).mp hne),
      fun hzero => hnone ((toNat_eq_zero_iff _).mpr hzero)⟩
    rw [hregs, tget_advanceReg, tget_advanceReg]
  · obtain ⟨y', hrun, hmoves, hregs, hsome, hnone⟩ := State.emitRun_done (s := s) hfew
      ⟨c.y.block, (tget 0 c.y.regs l).toNat, 0, (tget 0 c.y.regs b).toNat, true, false, false⟩
      (advanceReg c.y.regs advD b (tget 0 c.y.regs l))
    subst hn
    refine ⟨_, exec_zero h, y', hrun, hmoves, fun q => ?_, fun hne => (hsome (mt (toNat_eq_zero_iff _).mp hne)).1,
      fun hzero => (hnone ((toNat_eq_zero_iff _).mpr hzero)).1⟩
    rw [hregs, tget_advanceReg]
    split <;> simp
  · exact ⟨_, (exec_emit h).trans (congrArg _ (State.emitRun_overflows hmany (mt (toNat_eq_zero_iff _).mp hl) _)),
      State.programFault_stops hworks⟩

/-- Settles O27: each word of an address program, and the registers a block starts with. -/
theorem addressPrograms : Obligations.AddressPrograms := ⟨addressRegisters, addressRuns⟩

end Sys2Proof.Machine
end

section
/-! PROOFS. What an arbiter grants (R261, R264 to R266, R322, R366). -/

namespace Sys2Proof.Machine

/-! ### The request of least slack (R265) -/

/-- Whether the first of the rest takes the place of `x`. -/
theorem leastSlack_cons (x : Pending) (l : List Pending) : leastSlack (x :: l) = match leastSlack l with
    | none => some x
    | some y => if y.slack < x.slack || (y.slack = x.slack && decide (y.id < x.id)) then some y else some x := rfl

theorem precedes_iff (p q : Pending) : (p.slack < q.slack || (p.slack = q.slack && decide (p.id < q.id))) = true ↔ Precedes p q := by
  simp [Precedes]

theorem Precedes.trans {p q r : Pending} (h : Precedes p q) (k : Precedes q r) : Precedes p r := by
  unfold Precedes at *
  omega

theorem Precedes.asymm {p q : Pending} (h : Precedes p q) : ¬ Precedes q p := by
  unfold Precedes at *
  omega

/-- What precedes a request precedes every one that does not precede that request. -/
theorem Precedes.of_not {p q r : Pending} (h : Precedes p q) (k : ¬ Precedes r q) : Precedes p r := by
  unfold Precedes at *
  omega

/-- The request of least slack is there, and comes before all of the list in the order of grants. -/
theorem leastSlack_splits {l : List Pending} {p : Pending} (h : leastSlack l = some p) :
    ∃ before behind, l = before ++ p :: behind ∧ (∀ q ∈ before, Precedes p q) ∧ ∀ q ∈ behind, ¬ Precedes q p := by
  induction l generalizing p with
  | nil => cases h
  | cons x l ih =>
    rw [leastSlack_cons] at h
    cases hl : leastSlack l with
    | none =>
      rw [hl] at h
      cases h
      have hnil : l = [] := by
        cases l with
        | nil => rfl
        | cons y l =>
          rw [leastSlack_cons] at hl
          split at hl
          · cases hl
          · split at hl <;> cases hl
      subst hnil
      exact ⟨[], [], rfl, by simp, by simp⟩
    | some y =>
      rw [hl] at h
      obtain ⟨before, behind, hsplit, hbefore, hbehind⟩ := ih hl
      dsimp only at h
      split at h
      · next hyx =>
        rw [precedes_iff] at hyx
        cases h
        exact ⟨x :: before, behind, by rw [hsplit]; rfl, by simpa using ⟨hyx, hbefore⟩, hbehind⟩
      · next hyx =>
        rw [precedes_iff] at hyx
        cases h
        refine ⟨[], l, rfl, by simp, fun q hq hqx => ?_⟩
        rw [hsplit, List.mem_append, List.mem_cons] at hq
        obtain hq | rfl | hq := hq
        · exact hyx (Precedes.trans (hbefore q hq) hqx)
        · exact hyx hqx
        · exact hbehind q hq (Precedes.of_not hqx hyx)

/-- A request that those before it come after, and that none behind it precedes, is the one of least slack. -/
theorem leastSlack_of_split {before behind : List Pending} {p : Pending} (hbefore : ∀ q ∈ before, Precedes p q)
    (hbehind : ∀ q ∈ behind, ¬ Precedes q p) : leastSlack (before ++ p :: behind) = some p := by
  induction before with
  | nil =>
    rw [List.nil_append, leastSlack_cons]
    cases hl : leastSlack behind with
    | none => rfl
    | some y =>
      obtain ⟨pre, post, rfl, -⟩ := leastSlack_splits hl
      have hno := hbehind y (by simp)
      rw [← precedes_iff] at hno
      exact if_neg hno
  | cons x before ih =>
    rw [List.cons_append, leastSlack_cons, ih fun q hq => hbefore q (List.mem_cons_of_mem _ hq)]
    exact if_pos ((precedes_iff p x).mpr (hbefore x List.mem_cons_self))

theorem leastSlack_iff (l : List Pending) (p : Pending) : leastSlack l = some p ↔
    ∃ before behind, l = before ++ p :: behind ∧ (∀ q ∈ before, Precedes p q) ∧ ∀ q ∈ behind, ¬ Precedes q p := by
  refine ⟨leastSlack_splits, ?_⟩
  rintro ⟨before, behind, rfl, hbefore, hbehind⟩
  exact leastSlack_of_split hbefore hbehind

/-! ### A grant -/

/-- A transfer that is granted is past that arbiter, forced or not. -/
theorem State.grant_granted (s : State) (x : Xfer) (forced : Bool) : Granted s (s.grant x forced) (.xfer x) := by
  unfold State.grant Granted
  dsimp only
  repeat' split
  all_goals exact ⟨rfl, rfl, rfl, rfl⟩

/-- A unit's request that is granted is past that arbiter; a trace unit then writes. -/
theorem State.grantAsk_granted (s : State) (q : Ask) : Granted s (s.grantAsk q) (.ask q) := by
  intro hwho
  unfold State.grantAsk
  dsimp only
  split
  · next hd _ => exact absurd hd (hwho _)
  · rfl

theorem State.grantPending_granted (s : State) (p : Pending) (forced : Bool) : Granted s (s.grantPending p forced) p := by
  cases p with
  | xfer x => exact s.grant_granted x forced
  | ask q => exact s.grantAsk_granted q

section
variable {s : State} {a : Arb}

theorem exec_arbiterGrant {p : Pending} (h : leastSlack (s.pendingAt a) = some p) :
    exec (.arbiterGrant a) s = .next (s.grantPending p false) := by
  have harm : exec (.arbiterGrant a) s = execArbiterGrant a s := rfl
  rw [harm, execArbiterGrant, h]

theorem exec_arbiterGrant_none (h : s.pendingAt a = []) : exec (.arbiterGrant a) s = .next s := by
  have harm : exec (.arbiterGrant a) s = execArbiterGrant a s := rfl
  rw [harm, execArbiterGrant, h]
  rfl

/-! ### The starvation guard (R266) -/

/-- The first transfer of a number is the first of those that pass a filter too. -/
theorem find?_map_filter {f : Xfer → Bool} {i : Nat} {l : List Xfer} {x : Xfer} (h : l.find? (·.id = i) = some x) (hf : f x = true) :
    ((l.filter f).map Pending.xfer).find? (·.id = i) = some (.xfer x) := by
  induction l with
  | nil => cases h
  | cons z l ih =>
    by_cases hz : z.id = i
    · simp only [List.find?_cons, hz, decide_true, Option.some.injEq] at h
      subst h
      simp [hf, Pending.id, hz]
    · simp only [List.find?_cons, hz, decide_false] at h
      by_cases hfz : f z = true <;> simpa [List.filter_cons, hfz, Pending.id, hz] using ih h

theorem exec_starvationGuardExpiry {i : Nat} {x : Xfer} (hx : s.xfer i = some x) (ha : x.arbs.head? = some a) (hhead : s.emitHead x = true)
    (hflash : s.flashFree a (some x.issue) = true) : exec (.starvationGuardExpiry i) s = .next (s.grant x true) := by
  have harm : exec (.starvationGuardExpiry i) s = execStarvationGuardExpiry i s := rfl
  have hpend : (s.pendingAt a).find? (·.id = i) = some (.xfer x) := by
    unfold State.pendingAt
    rw [List.find?_append, find?_map_filter hx (by simp [ha, hhead, hflash])]
    rfl
  have hno : s.pendingNo i = some (.xfer x) := by
    simp only [State.pendingNo, hx, Option.bind_some, ha, Option.some_or]
    exact hpend
  rw [harm, execStarvationGuardExpiry, hno]
  rfl

/-! ### Emit order and slack -/

/-- Of a slice's transfers, those before one that is pending have every grant (R261). -/
theorem State.granted_before_pending {x z : Xfer} {before behind : List Xfer} (h : .xfer x ∈ s.pendingAt a)
    (hsplit : s.streams.xfers = before ++ x :: behind) (hids : (s.streams.xfers.map (·.id)).Nodup) (hz : z ∈ before)
    (hslice : (s.sliceOf z).map (·.1) = (s.sliceOf x).map (·.1)) : z.arbs = [] := by
  have hhead : s.emitHead x = true := by
    simp only [State.pendingAt, List.mem_append, List.mem_map, List.mem_filter, Bool.and_eq_true] at h
    obtain ⟨y, ⟨-, ⟨-, hy⟩, -⟩, heq⟩ | ⟨q, -, heq⟩ := h
    · cases heq
      exact hy
    · cases heq
  by_contra hne
  have hfound : ∃ w ∈ before, s.streams.xfers.find? (fun z => !z.arbs.isEmpty && (s.sliceOf z).map (·.1) = (s.sliceOf x).map (·.1)) = some w := by
    rw [hsplit, List.find?_append]
    cases hw : before.find? (fun z => !z.arbs.isEmpty && (s.sliceOf z).map (·.1) = (s.sliceOf x).map (·.1)) with
    | none =>
      have hno := List.find?_eq_none.mp hw z hz
      simp [hslice, hne] at hno
    | some w => exact ⟨w, List.mem_of_find?_eq_some hw, rfl⟩
  obtain ⟨w, hw, hfind⟩ := hfound
  simp only [State.emitHead, hfind, decide_eq_true_eq] at hhead
  rw [hsplit, List.map_append, List.map_cons, List.nodup_append] at hids
  exact hids.2.2 w.id (List.mem_map_of_mem hw) x.id List.mem_cons_self hhead

/-- A primer's request while a run waits on its intake's output (R322). -/
theorem State.slackNow_primer {q : Ask} {x : Intake} (hserved : s.servedIntake q.who = some x) (hwaits : s.awaits x = true) :
    (s.slackNow q).slack = 2048 := by
  unfold State.slackNow
  split
  · next hwho =>
    rw [hwho] at hserved
    cases hserved
  · rw [hserved]
    exact if_pos hwaits

/-- A drain's request (R366). -/
theorem State.slackNow_drain {q : Ask} {e id : Nat} {d : Drain} (hwho : q.who = .drain e id)
    (hd : (s.easel e).drains.find? (·.id = id) = some d) : (s.slackNow q).slack = (s.easel e).drainSlack d := by
  simp only [State.slackNow, hwho, hd]

end

/-- Settles O29: the order of grants, what one grant changes, and the slack of the units that have one of their own. -/
theorem arbiterOrder : Obligations.ArbiterOrder := by
  unfold Obligations.ArbiterOrder
  refine ⟨leastSlack_iff, fun s a p h => ⟨_, exec_arbiterGrant h, s.grantPending_granted p false⟩, fun s a => exec_arbiterGrant_none,
    fun s i x a hx ha hhead hflash => ⟨_, exec_starvationGuardExpiry hx ha hhead hflash, s.grant_granted x true⟩,
    fun s a x z before behind h hsplit hids hz hslice => State.granted_before_pending h hsplit hids hz hslice,
    fun s q x => State.slackNow_primer, fun s q e id d hwho hd => ?_⟩
  rw [State.slackNow_drain hwho hd]
  simp [Easel.drainSlack]

end Sys2Proof.Machine
end

section
/-! PROOFS. Transfers that land, and issues that complete (R107, R260, R264, R269, R283, R284). -/

namespace Sys2Proof.Machine

/-! ### Poison that travels with a copy (R269) -/

/-- A mark of a range below flash lies over exactly one of its 64 B lines, where the range is whole lines. -/
theorem mem_poisonMarks_line {a w : Nat} (ha : a % 64 = 0) (hflash : a < flashBase) : w ∈ poisonMarks a 64 ↔ a ≤ w * 8 ∧ w * 8 < a + 64 := by
  have hunit : poisonUnit a = 8 := if_neg (Nat.not_le.mpr hflash)
  rw [mem_poisonMarks, hunit]
  simp only [ceilDiv]
  constructor
  · rintro ⟨k, hlo, hhi, rfl⟩
    simp only [if_neg (by decide : ¬(8 : Nat) = 0)] at hhi
    omega
  · rintro ⟨hlo, hhi⟩
    simp only [if_neg (by decide : ¬(8 : Nat) = 0)]
    exact ⟨w, by omega, by omega, by omega⟩

/-- Of lines marked at whole-line places below flash, a line is poisoned where it is one of them, or was before. -/
theorem State.poisoned_foldl_setPoison {d : Nat} (hd : d % 64 = 0) {ls : List Nat} (hls : ∀ l ∈ ls, d + 64 * l < flashBase) (s : State)
    {k : Nat} (hk : d + 64 * k < flashBase) :
    (ls.foldl (fun s l => s.setPoison (d + 64 * l) 64) s).poisoned (d + 64 * k) 64 = true ↔ k ∈ ls ∨ s.poisoned (d + 64 * k) 64 = true := by
  induction ls generalizing s with
  | nil => simp
  | cons l ls ih =>
    rw [List.foldl_cons, ih (fun j hj => hls j (List.mem_cons_of_mem _ hj)), List.mem_cons]
    have hl := hls l List.mem_cons_self
    have hone : (s.setPoison (d + 64 * l) 64).poisoned (d + 64 * k) 64 = true ↔ k = l ∨ s.poisoned (d + 64 * k) 64 = true := by
      rw [State.poisoned_iff, State.poisoned_iff]
      constructor
      · rintro ⟨w, hw, hlt, hgt⟩
        obtain hw | hw := (mem_foldl_insertSet _ _ _).mp hw
        · rw [mem_poisonMarks_line (by omega) hl] at hw
          have hwhole : flashBase % 64 = 0 := rfl
          have hunit : poisonUnit (w * 8) = 8 := if_neg (by omega)
          rw [hunit] at hgt
          exact .inl (by omega)
        · exact .inr ⟨w, hw, hlt, hgt⟩
      · rintro (rfl | ⟨w, hw, hlt, hgt⟩)
        · refine ⟨(d + 64 * k) / 8, (mem_foldl_insertSet _ _ _).mpr (.inl ?_), by omega, ?_⟩
          · rw [mem_poisonMarks_line (by omega) hl]
            omega
          · have := poisonUnit_pos ((d + 64 * k) / 8 * 8)
            omega
        · exact ⟨w, (mem_foldl_insertSet _ _ _).mpr (.inr hw), hlt, hgt⟩
    rw [hone]
    tauto

/-- A store of whole words below flash leaves no mark over any of them. -/
theorem State.poisoned_writeAt_within {s : State} {a b m : Nat} {bs : List Byte} (ha : a % 8 = 0) (hlen : bs.length % 8 = 0)
    (hflash : a + bs.length ≤ flashBase) (hlo : a ≤ b) (hhi : b + m ≤ a + bs.length) : (s.writeAt a bs).poisoned b m = false :=
  State.poisoned_sub (State.poisoned_writeAt_self ha hlen hflash) hlo hhi

section
variable {s : State} {a d n : Nat}

theorem State.copyBytes_eq : s.copyBytes a d n =
    (if s.poison.isEmpty then [] else (List.range (ceilDiv n 64)).filter fun l => s.poisoned (a + 64 * l) 64).foldl
      (fun s l => s.setPoison (d + 64 * l) 64) ((s.writeAt d (s.readAt a n)).tag ((s.tagsAt a n).map fun p => (p.1 + 8 * d, p.2))) := rfl

/-- Marks change no byte. -/
theorem State.readAt_foldl_setPoison (ls : List Nat) (s : State) (b m : Nat) :
    (ls.foldl (fun s l => s.setPoison (d + 64 * l) 64) s).readAt b m = s.readAt b m := by
  induction ls generalizing s with
  | nil => rfl
  | cons l ls ih => exact (ih _).trans rfl

/-- A copy is read back, and no other byte changes. -/
theorem State.copyBytes_reads (h : MemoriesCanonical s) : (s.copyBytes a d n).readAt d n = s.readAt a n ∧
    ∀ b, (b < d ∨ d + n ≤ b) → (s.copyBytes a d n).readAt b 1 = s.readAt b 1 := by
  have hlen := s.readAt_length a n
  rw [State.copyBytes_eq]
  refine ⟨?_, fun b hb => ?_⟩
  · rw [State.readAt_foldl_setPoison]
    have hself := State.readAt_writeAt_self h d (s.readAt a n)
    rwa [hlen] at hself
  · rw [State.readAt_foldl_setPoison]
    exact State.readAt_writeAt_other h (by rwa [hlen])

/-- A copy of whole lines below flash carries the poison of each. -/
theorem State.copyBytes_poison (hd : d % 64 = 0) (hn : n % 64 = 0) (hflash : d + n ≤ flashBase) {l : Nat} (hl : l < n / 64) :
    (s.copyBytes a d n).poisoned (d + 64 * l) 64 = s.poisoned (a + 64 * l) 64 := by
  have hlen := s.readAt_length a n
  have hcount : ceilDiv n 64 = n / 64 := by
    simp only [ceilDiv, if_neg (by decide : ¬(64 : Nat) = 0)]
    omega
  have hclean : ((s.writeAt d (s.readAt a n)).tag ((s.tagsAt a n).map fun p => (p.1 + 8 * d, p.2))).poisoned (d + 64 * l) 64 = false :=
    State.poisoned_writeAt_within (s := s) (by omega) (by omega) (by omega) (by omega) (by omega)
  rw [State.copyBytes_eq, Bool.eq_iff_iff, State.poisoned_foldl_setPoison hd ?_ _ (by omega), hclean]
  · split
    · next hnone =>
      have hnil : s.poison = [] := by simpa using hnone
      simp [State.poisoned, hnil]
    · simp [hcount, hl]
  · intro k hk
    split at hk
    · cases hk
    · rw [List.mem_filter, List.mem_range, hcount] at hk
      omega

/-- A copy changes the memories, what is marked of them and their tags. -/
theorem State.copyBytes_memoryOnly : MemoryOnly s (s.copyBytes a d n) := by
  rw [State.copyBytes_eq]
  exact ((s.writeAt_memoryOnly d (s.readAt a n)).trans ⟨rfl, id, id⟩).trans
    (foldl_keeps_state MemoryOnly .refl (fun _ _ _ => .trans) _ (fun s l => s.setPoison_memoryOnly _ _) _ _)

end

/-! ### The accounts of a landed transfer (R264, R165) -/

/-- What landing is counted in changes: accounts of the streams, and the counts of the easel. -/
theorem State.account_frame (s : State) (c : IssueCtx) (n : Nat) (counts : Option (List Nat)) :
    s.account c n counts = { s with easels := (s.account c n counts).easels, streams := (s.account c n counts).streams } ∧
    (s.account c n counts).streams.xfers = s.streams.xfers ∧
    ((s.account c n counts).flow c.y.tile c.y.stream c.y.seq).landed = (s.flow c.y.tile c.y.stream c.y.seq).landed + n := by
  have hflow : ∀ f : Flow, f.tile = c.y.tile → f.stream = c.y.stream → f.seq = c.y.seq → (s.setFlow f).flow c.y.tile c.y.stream c.y.seq = f := by
    intro f ht hs hq
    have hfind : (s.setFlow f).streams.flows.find? (fun g => g.tile = c.y.tile && g.stream = c.y.stream && g.seq = c.y.seq) = some f := by
      simp only [State.setFlow, List.find?_append]
      have hnone : (s.streams.flows.filter fun g => !(g.tile = f.tile && g.stream = f.stream)).find?
          (fun g => g.tile = c.y.tile && g.stream = c.y.stream && g.seq = c.y.seq) = none := by
        rw [List.find?_eq_none]
        intro g hg
        simp only [List.mem_filter, ht, hs, Bool.not_eq_true', Bool.and_eq_false_iff, decide_eq_false_iff_not] at hg
        simp only [Bool.and_eq_true, decide_eq_true_eq]
        tauto
      rw [hnone]
      simp [ht, hs, hq]
    rw [State.flow, hfind]
  have hid : (s.flow c.y.tile c.y.stream c.y.seq).tile = c.y.tile ∧ (s.flow c.y.tile c.y.stream c.y.seq).stream = c.y.stream ∧
      (s.flow c.y.tile c.y.stream c.y.seq).seq = c.y.seq := by
    unfold State.flow
    split
    · next f hf => simpa [and_assoc] using List.find?_some hf
    · exact ⟨rfl, rfl, rfl⟩
  obtain ⟨ht, hs, hq⟩ := hid
  have hmine := hflow { s.flow c.y.tile c.y.stream c.y.seq with
    landed := (s.flow c.y.tile c.y.stream c.y.seq).landed + n
    drained := (s.flow c.y.tile c.y.stream c.y.seq).drained + (if c.d.localIsSource then n else 0) } ht hs hq
  unfold State.account
  dsimp only
  split
  · split
    · exact ⟨rfl, rfl, congrArg Flow.landed hmine⟩
    · exact ⟨rfl, rfl, congrArg Flow.landed hmine⟩
  · exact ⟨rfl, rfl, congrArg Flow.landed hmine⟩

/-- A transfer that lands: gone from those in flight, its bytes counted; what is in memory is what landing put there. -/
theorem State.landed_of {s u : State} {x n : Nat} {c : IssueCtx} {counts : Option (List Nat)} (hxfers : u.streams.xfers = s.streams.xfers)
    (htiles : u.tiles = s.tiles) (hsems : u.sems = s.sems) (hflows : u.streams.flows = s.streams.flows) :
    (let s' := (u.account c n counts).dropXfer x
    s'.streams.xfers = s.streams.xfers.filter (·.id != x) ∧ s'.tiles = s.tiles ∧ s'.sems = s.sems ∧
      (s'.flow c.y.tile c.y.stream c.y.seq).landed = (s.flow c.y.tile c.y.stream c.y.seq).landed + n) := by
  obtain ⟨hframe, hkept, hflow⟩ := u.account_frame c n counts
  have hold : u.flow c.y.tile c.y.stream c.y.seq = s.flow c.y.tile c.y.stream c.y.seq := by rw [State.flow, hflows, State.flow]
  rw [hold] at hflow
  refine ⟨?_, ?_, ?_, hflow⟩
  · exact congrArg (List.filter _) (hkept.trans hxfers)
  · exact (congrArg State.tiles hframe).trans htiles
  · exact (congrArg State.sems hframe).trans hsems

/-- The accounts and the transfers in flight are no part of memory. -/
theorem State.account_dropXfer_memory (u : State) (c : IssueCtx) (n : Nat) (counts : Option (List Nat)) (x : Nat) :
    MemoryKept u ((u.account c n counts).dropXfer x) := by
  obtain ⟨hframe, -, -⟩ := u.account_frame c n counts
  have hkept : MemoryKept u (u.account c n counts) := by
    rw [hframe]
    exact memoryKept_of_fields rfl rfl rfl rfl
  exact hkept

theorem MemoryKept.poisoned {s s' : State} (h : MemoryKept s s') (a n : Nat) : s'.poisoned a n = s.poisoned a n := by
  rw [State.poisoned, h.2, State.poisoned]

/-! ### TRANSFER_LAND (R260) -/

section
variable {s : State} {x : Nat} {f : Xfer} {c : IssueCtx} (hx : s.xfer x = some f) (hc : s.xferCtx f = some c)
include hx hc

theorem exec_transferLand_waits (harbs : f.arbs ≠ []) (errs : List (Nat × MemErr)) : exec (.transferLand x errs) s = .next s := by
  have harm : exec (.transferLand x errs) s = execTransferLand x errs s := rfl
  rw [harm, execTransferLand, hx]
  dsimp only
  rw [hc]
  exact if_pos (by simp [harbs])

variable (hsent : f.sent = none) (harbs : f.arbs = [])
include hsent harbs

theorem exec_transferLand_copy {a d n : Nat} (hm : f.move = .copy a d n) : exec (.transferLand x []) s =
    .next (((s.landCopy a d n).account c n (some (healthOf c.b.type (s.readAt a n) (s.tagsAt a n)))).dropXfer x) := by
  have harm : exec (.transferLand x []) s = execTransferLand x [] s := rfl
  rw [harm, execTransferLand, hx]
  dsimp only
  rw [hc]
  dsimp only
  rw [if_neg (by simp [hsent, harbs]), hm]
  rfl

theorem exec_transferLand_zeros {d n : Nat} (hm : f.move = .zeros d n) (hd : d < flashBase) (errs : List (Nat × MemErr)) :
    exec (.transferLand x errs) s =
      .next (((s.writeAt d (List.replicate n 0)).account c n (some (healthOf c.b.type (List.replicate n 0) []))).dropXfer x) := by
  have harm : exec (.transferLand x errs) s = execTransferLand x errs s := rfl
  rw [harm, execTransferLand, hx]
  dsimp only
  rw [hc]
  dsimp only
  rw [if_neg (by simp [hsent, harbs]), hm]
  dsimp only
  rw [if_neg (Nat.not_le.mpr hd)]

theorem exec_transferLand_remoteWrite {a addr n pos ch : Nat} {s2 : State} (hm : f.move = .remoteWrite (some a) addr n pos ch none)
    (ha : a < flashBase) (hreq : s.request c.y.easel 1 ch pos addr 0 (s.readAt a n) (s.poisoned a n) (some c.y.id) (some x) = some s2) :
    exec (.transferLand x []) s = .next (s2.onXfer x fun z => { z with sent := some (s.fabric.nextTag % 65536) }) := by
  have harm : exec (.transferLand x []) s = execTransferLand x [] s := rfl
  have hnone : s.sourceErrors c f a n [] = s := rfl
  rw [harm, execTransferLand, hx]
  dsimp only
  rw [hc]
  dsimp only
  rw [if_neg (by simp [hsent, harbs]), hm]
  dsimp only
  rw [hnone, hreq]
  dsimp only
  rw [if_neg (Nat.not_le.mpr ha)]

end

/-- A flash block that is not whole takes the bytes into its stage, and no byte of memory changes. -/
theorem State.programFlash_waits {s : State} {d : Nat} {bs : List Byte} {bad : Bool} {t : Nat × Nat × Nat}
    (ht : s.streams.flashTurn.find? (·.1 = stackOf d) = some t) (hpart : t.2.2 + bs.length < 65536) :
    let u := s.programFlash d bs bad
    u.streams.xfers = s.streams.xfers ∧ u.tiles = s.tiles ∧ u.sems = s.sems ∧ u.streams.flows = s.streams.flows ∧ MemoryKept s u := by
  unfold State.programFlash State.flashLanded
  dsimp only
  rw [ht]
  dsimp only
  have hnot : decide (65536 ≤ t.2.2 + bs.length) = false := decide_eq_false (by omega)
  rw [hnot]
  exact ⟨rfl, rfl, rfl, rfl, memoryKept_of_fields rfl rfl rfl rfl⟩

/-- Below flash a copy lands at once; one out of flash is counted in its block. -/
theorem State.landCopy_memory {s : State} {a d n : Nat} (hd : d < flashBase) :
    let u := s.landCopy a d n
    u.streams.xfers = s.streams.xfers ∧ u.tiles = s.tiles ∧ u.sems = s.sems ∧ u.streams.flows = s.streams.flows ∧
    MemoryKept (s.copyBytes a d n) u := by
  have hcopy := (State.copyBytes_memoryOnly (s := s) (a := a) (d := d) (n := n)).1
  have hfields : (s.copyBytes a d n).streams.xfers = s.streams.xfers ∧ (s.copyBytes a d n).streams.flows = s.streams.flows ∧
      (s.copyBytes a d n).tiles = s.tiles ∧ (s.copyBytes a d n).sems = s.sems := by
    rw [hcopy]
    exact ⟨rfl, rfl, rfl, rfl⟩
  obtain ⟨hxfers, hflows, htiles, hsems⟩ := hfields
  unfold State.landCopy
  rw [if_neg (Nat.not_le.mpr hd)]
  generalize s.copyBytes a d n = u at *
  dsimp only
  split
  · unfold State.flashLanded
    split
    · exact ⟨hxfers, htiles, hsems, hflows, memoryKept_of_fields rfl rfl rfl rfl⟩
    · exact ⟨hxfers, htiles, hsems, hflows, memoryKept_refl u⟩
  · exact ⟨hxfers, htiles, hsems, hflows, memoryKept_refl u⟩

/-- No page holds the beginning of flash. -/
theorem add_le_flashBase {d n : Nat} (hd : d < flashBase) (hpage : d % pageBytes + n ≤ pageBytes) : d + n ≤ flashBase := by
  simp only [flashBase, pageBytes] at *
  omega

theorem transferLands : TransferLands := by
  intro s x f c hx hc hsent landed hlanded
  refine ⟨exec_transferLand_waits hx hc, ?_, ?_, ?_, ?_⟩
  · intro a d n harbs hm hcanon hpage hd
    obtain ⟨hxfers, htiles, hsems, hflows, hmem⟩ := State.landCopy_memory (s := s) (a := a) (n := n) hd
    have hkept := memoryKept_trans hmem
      ((s.landCopy a d n).account_dropXfer_memory c n (some (healthOf c.b.type (s.readAt a n) (s.tagsAt a n))) x)
    obtain ⟨hself, hother⟩ := State.copyBytes_reads (a := a) (d := d) (n := n) hcanon
    refine ⟨_, exec_transferLand_copy hx hc hsent harbs hm, (hlanded _ _).mpr (State.landed_of hxfers htiles hsems hflows),
      (hkept.1 d n).trans hself, fun b hb => (hkept.1 b 1).trans (hother b hb), fun hline hwhole l hl => ?_⟩
    rw [MemoryKept.poisoned hkept]
    exact State.copyBytes_poison hline hwhole (add_le_flashBase hd hpage) hl
  · intro d n errs harbs hm hcanon hpage hd
    have hwrite := (s.writeAt_memoryOnly d (List.replicate n 0)).1
    have hkept := (s.writeAt d (List.replicate n 0)).account_dropXfer_memory c n (some (healthOf c.b.type (List.replicate n 0) [])) x
    have hself := State.readAt_writeAt_self hcanon d (List.replicate n 0)
    rw [List.length_replicate] at hself
    refine ⟨_, exec_transferLand_zeros hx hc hsent harbs hm hd errs, (hlanded _ _).mpr (State.landed_of ?_ ?_ ?_ ?_),
      (hkept.1 d n).trans hself, fun b hb => (hkept.1 b 1).trans (State.readAt_writeAt_other hcanon (by simpa using hb))⟩
    all_goals rw [hwrite]
  · intro a d n t harbs hm hd ht hpart
    have hcopy : s.landCopy a d n = s.programFlash d (s.readAt a n) (s.poisoned a n) := if_pos hd
    obtain ⟨hxfers, htiles, hsems, hflows, hmem⟩ := State.programFlash_waits (bs := s.readAt a n) (bad := s.poisoned a n) ht
      (by rwa [State.readAt_length])
    have hexec := exec_transferLand_copy hx hc hsent harbs hm
    rw [hcopy] at hexec
    exact ⟨_, hexec, (hlanded _ _).mpr (State.landed_of hxfers htiles hsems hflows),
      (memoryKept_trans hmem (State.account_dropXfer_memory _ c n _ x)).1⟩
  · intro a addr n pos ch s2 harbs hm ha hreq
    exact ⟨_, exec_transferLand_remoteWrite hx hc hsent harbs hm ha hreq, rfl, rfl, rfl⟩

/-! ### STREAM_ISSUE_COMPLETE (R107, R283, R284) -/

/-- The completion and progress signals of an issue. -/
def issueSignal (y : Issue) (d : StreamDesc) (id : Nat) : SyncReq :=
  { kind := .signal, easel := y.easel, sem := id, n := 1, who := .tile y.tile, after := 0, unitClass := 5, unitId := streamUnit d }

/-- The issue ended, with the signals `ids` sent. -/
def State.endIssue (s : State) (i : Nat) (y : Issue) (d : StreamDesc) (ids : List Nat) : State :=
  { s with net := s.net ++ ids.map (issueSignal y d), streams := { s.streams with issues := s.streams.issues.filter (·.id != i) } }

section
variable {s : State} {i : Nat} {y : Issue} {k : TileCtx} {d : StreamDesc} (hy : s.issue i = some y) (hk : s.tileCtx y.tile = some k)
variable (hd : (s.easel y.easel).stream y.stream = some d)
include hy hk hd

theorem exec_issueComplete_waits (h : s.issueDone y = false) : exec (.streamIssueComplete i) s = .next s := by
  have harm : exec (.streamIssueComplete i) s = execStreamIssueComplete i s := rfl
  simp only [harm, execStreamIssueComplete, hy, hk, hd, h]
  rfl

theorem exec_issueComplete_here (h : s.issueDone y = true) (hnear : y.signal = none ∨ ∀ b, d.blocks.getLast? = some b → b.dst ≠ 5) :
    exec (.streamIssueComplete i) s = .next (s.endIssue i y d (progressSignal k d y ++ y.signal.toList)) := by
  have harm : exec (.streamIssueComplete i) s = execStreamIssueComplete i s := rfl
  simp only [harm, execStreamIssueComplete, hy, hk, hd, h]
  cases hsig : y.signal with
  | none => simp [State.endIssue, issueSignal]
  | some id =>
    rw [hsig] at hnear
    cases hlast : d.blocks.getLast? with
    | none => rfl
    | some b =>
      have hb : b.dst ≠ 5 := hnear.elim (by simp) fun hall => hall b hlast
      simp [hb, State.endIssue, issueSignal]

theorem exec_issueComplete_far {b : Block} {id : Nat} (h : s.issueDone y = true) (hlast : d.blocks.getLast? = some b) (hfar : b.dst = 5)
    (hsig : y.signal = some id) : exec (.streamIssueComplete i) s =
      match s.request y.easel 4 b.channel b.position id 1 [] false none none with
      | some s2 => .next (s2.endIssue i y d (progressSignal k d y))
      | none => .next s := by
  have harm : exec (.streamIssueComplete i) s = execStreamIssueComplete i s := rfl
  simp only [harm, execStreamIssueComplete, hy, hk, hd, h, hsig, hlast, hfar]
  cases s.request y.easel 4 b.channel b.position id 1 [] false none none with
  | none => rfl
  | some s2 => rfl

end

theorem State.issueDone_iff {s : State} {y : Issue} : s.issueDone y = true ↔ y.finished = true ∧ y.runs = [] ∧
    (∀ x ∈ s.streams.xfers, x.issue ≠ y.id) ∧ ∀ z ∈ s.streams.issues, z.tile = y.tile → z.stream = y.stream → y.id ≤ z.id := by
  simp [State.issueDone, and_assoc, imp_iff_not_or, or_assoc]

theorem issueCompletes : IssueCompletes := by
  rintro s i y k d hy hk hd sent rfl
  refine ⟨fun hleft => exec_issueComplete_waits hy hk hd ?_, fun hfin hruns hxfers hissues => ?_⟩
  · rw [← Bool.not_eq_true, State.issueDone_iff]
    rintro ⟨hfin, hruns, hxfers, hissues⟩
    obtain h | h | ⟨x, hx, h⟩ | ⟨z, hz, ht, hs, h⟩ := hleft
    · simp [hfin] at h
    · exact h hruns
    · exact hxfers x hx h
    · exact Nat.not_le.mpr h (hissues z hz ht hs)
  · have hdone := State.issueDone_iff.mpr ⟨hfin, hruns, hxfers, hissues⟩
    refine ⟨fun hnear => ⟨_, exec_issueComplete_here hy hk hd hdone hnear, rfl, rfl, rfl⟩, fun b id s2 hlast hfar hsig hreq => ?_,
      fun b id hlast hfar hsig hreq => ?_⟩
    · have hexec := exec_issueComplete_far hy hk hd hdone hlast hfar hsig
      rw [hreq] at hexec
      exact ⟨_, hexec, rfl⟩
    · have hexec := exec_issueComplete_far hy hk hd hdone hlast hfar hsig
      rwa [hreq] at hexec

/-- Settles O30: what each kind of transfer does as it lands, and what ends an issue. -/
theorem transfersAndIssues : Obligations.TransfersAndIssues := ⟨transferLands, issueCompletes⟩

end Sys2Proof.Machine
end

section
/-! PROOFS. Descriptors taken in turn (R402). -/

namespace Sys2Proof.Machine

/-! ### The queues of an easel -/

section
variable (x : Easel) (q : Nat) (u : Queue)

@[simp] theorem Easel.setQueue_queueAt_self : (x.setQueue q u).queueAt q = u := by
  unfold Easel.setQueue Easel.queueAt
  split
  · rfl
  · exact tget_tset_self _ _ _ _

theorem Easel.setQueue_queueAt_ne {j : Nat} (h : j ≠ q) : (x.setQueue q u).queueAt j = x.queueAt j := by
  unfold Easel.setQueue
  split
  · next hq =>
    subst hq
    exact (if_neg h).trans (if_neg h).symm
  · unfold Easel.queueAt
    split
    · rfl
    · exact tget_tset_ne _ _ _ _ _ h

/-- A queue stored leaves what does not depend on the queues. -/
theorem Easel.setQueue_keeps {β : Type} (f : Easel → β) (hf : ∀ (y : Easel) qs ev, f { y with queues := qs, events := ev } = f y) :
    f (x.setQueue q u) = f x := by
  unfold Easel.setQueue
  split
  · exact hf x x.queues u
  · exact hf x (tset x.queues q u) x.events

@[simp] theorem Easel.setQueue_mode : (x.setQueue q u).mode = x.mode := x.setQueue_keeps q u Easel.mode fun _ _ _ => rfl
@[simp] theorem Easel.setQueue_keyEpoch : (x.setQueue q u).keyEpoch = x.keyEpoch := x.setQueue_keeps q u Easel.keyEpoch fun _ _ _ => rfl
@[simp] theorem Easel.setQueue_canvas : (x.setQueue q u).canvas = x.canvas := x.setQueue_keeps q u Easel.canvas fun _ _ _ => rfl
@[simp] theorem Easel.setQueue_loading : (x.setQueue q u).loading = x.loading := x.setQueue_keeps q u Easel.loading fun _ _ _ => rfl
@[simp] theorem Easel.setQueue_sheet : (x.setQueue q u).sheet = x.sheet := x.setQueue_keeps q u Easel.sheet fun _ _ _ => rfl
@[simp] theorem Easel.setQueue_moved : (x.setQueue q u).moved = x.moved := x.setQueue_keeps q u Easel.moved fun _ _ _ => rfl
@[simp] theorem Easel.setQueue_rearranged : (x.setQueue q u).rearranged = x.rearranged := x.setQueue_keeps q u Easel.rearranged fun _ _ _ => rfl
@[simp] theorem Easel.setQueue_slots : (x.setQueue q u).slots = x.slots := x.setQueue_keeps q u Easel.slots fun _ _ _ => rfl
@[simp] theorem Easel.setQueue_cmds : (x.setQueue q u).cmds = x.cmds := x.setQueue_keeps q u Easel.cmds fun _ _ _ => rfl
@[simp] theorem Easel.setQueue_faultAtBoundary : (x.setQueue q u).faultAtBoundary = x.faultAtBoundary := x.setQueue_keeps q u Easel.faultAtBoundary fun _ _ _ => rfl
@[simp] theorem Easel.setQueue_awaiting : (x.setQueue q u).awaiting = x.awaiting := x.setQueue_keeps q u Easel.awaiting fun _ _ _ => rfl
@[simp] theorem Easel.setQueue_rerun : (x.setQueue q u).rerun = x.rerun := x.setQueue_keeps q u Easel.rerun fun _ _ _ => rfl
@[simp] theorem Easel.setQueue_update : (x.setQueue q u).update = x.update := x.setQueue_keeps q u Easel.update fun _ _ _ => rfl

end

/-! ### The queue whose turn it is (R402) -/

section
variable {s : State} {e q : Nat}

/-- The first of 0, 1, … below `n` that passes. -/
theorem find?_range_filter {p f : Nat → Bool} {n : Nat} (h : ((List.range n).filter p).find? f = some q) :
    q < n ∧ p q = true ∧ f q = true ∧ ∀ j, j < q → f j = true → p j = false := by
  rw [List.find?_filter, List.find?_range_eq_some] at h
  obtain ⟨hpq, hlt, hmin⟩ := h
  simp only [decide_eq_true_eq] at hpq
  refine ⟨List.mem_range.mp hlt, hpq.1, hpq.2, fun j hj hf => ?_⟩
  have hno := hmin j hj
  simpa [hf] using hno

theorem State.turn_spec (h : s.turn e = some q) : q < 32 ∧ s.takeable e q = true ∧
    (((s.easel e).nextQueue ≤ q ∧ ∀ j, (s.easel e).nextQueue ≤ j → j < q → s.takeable e j = false) ∨
     ((∀ j, (s.easel e).nextQueue ≤ j → j < 32 → s.takeable e j = false) ∧ ∀ j, j < q → s.takeable e j = false)) := by
  unfold State.turn at h
  dsimp only at h
  split at h
  · next r hr =>
    cases h
    obtain ⟨hlt, htake, hnext, hmin⟩ := find?_range_filter hr
    exact ⟨hlt, htake, .inl ⟨of_decide_eq_true hnext, fun j hj hjq => hmin j hjq (decide_eq_true hj)⟩⟩
  · next hnone =>
    have hfirst : ((List.range 32).filter (s.takeable e)).find? (fun _ => true) = some q := by
      cases hl : (List.range 32).filter (s.takeable e) with
      | nil => rw [hl] at h; cases h
      | cons r rs => rw [hl] at h; simpa using h
    obtain ⟨hlt, htake, -, hmin⟩ := find?_range_filter hfirst
    refine ⟨hlt, htake, .inr ⟨fun j hj hjq => ?_, fun j hj => hmin j hj rfl⟩⟩
    rw [List.find?_eq_none] at hnone
    by_contra hyes
    exact hnone j (List.mem_filter.mpr ⟨List.mem_range.mpr hjq, by simpa using hyes⟩) (decide_eq_true hj)

end

/-! ### DESCRIPTOR_TAKE -/

/-- The easel with queue `q`, whose turn it was, past its head and the command taken. -/
def Easel.taken (x : Easel) (q : Nat) (u : Queue) (r : List Byte × Bool) : Easel :=
  { (x.setQueue q { u with head := (u.head + 1) % 2 ^ 32, state := waitState ((u.head + 1) % 2 ^ 32) u.tail }) with
    lastSeq := min (x.lastSeq + 1) (2 ^ 48 - 1), nextQueue := q + 1, cmds := x.cmds ++ [newCmd q (x.lastSeq + 1) r.1 r.2] }

section
variable {s : State} {e q : Nat} {entry : List Byte} {intact : Bool} {u : Queue}

theorem exec_descriptorTake_unbound (h : s.bound e = false) : exec (.descriptorTake e entry intact) s = .next s := by
  have harm : exec (.descriptorTake e entry intact) s = execDescriptorTake e entry intact s := rfl
  rw [harm, execDescriptorTake]
  exact if_pos (by simp [h])

/-- An easel stored twice is the one stored last. -/
theorem State.setEasel_setEasel (s : State) (e : Nat) (x y : Easel) : (s.setEasel e x).setEasel e y = s.setEasel e y :=
  congrArg (fun z => { s with easels := z }) (tset_tset s.easels e x y)

/-- A descriptor read without an uncorrectable error is taken; with all queues empty the turn starts anew. -/
theorem exec_descriptorTake (hb : s.bound e = true) (ht : s.turn e = some q) (hu : u = (s.easel e).queueAt q)
    (hok : u.inEasel = true → intact = true) : ∃ next, exec (.descriptorTake e entry intact) s = .next
      (s.setEasel e { (s.easel e).taken q u (if u.inEasel then s.ringEntry e u else (entry, intact)) with nextQueue := next }) := by
  have harm : exec (.descriptorTake e entry intact) s = execDescriptorTake e entry intact s := rfl
  have hread : (if u.inEasel then ((s.ringEntry e u).1, (s.ringEntry e u).2 && intact) else (entry, intact)) =
      if u.inEasel then s.ringEntry e u else (entry, intact) := by
    split
    · next hin => simp [hok hin]
    · rfl
  have hclean : (u.inEasel && !intact) = false := by
    cases hin : u.inEasel with
    | false => rfl
    | true => simp [hok hin]
  rw [harm, execDescriptorTake, if_neg (by simp [hb]), ht]
  dsimp only
  rw [← hu, hread, hclean]
  generalize (if u.inEasel then s.ringEntry e u else (entry, intact)) = r
  rw [if_neg Bool.false_ne_true]
  split
  · refine ⟨0, congrArg Host.Outcome.next ?_⟩
    rw [State.onEasel, State.setEasel_easel_self, State.setEasel_setEasel]
    rfl
  · exact ⟨q + 1, rfl⟩

end

/-- Settles O31: whose turn it is, and what the taking of its descriptor changes. -/
theorem descriptorTaken : Obligations.DescriptorTaken := by
  unfold Obligations.DescriptorTaken
  refine ⟨fun s e q => State.turn_spec, fun s e entry intact => exec_descriptorTake_unbound, ?_⟩
  intro s e q entry intact u hb ht hu hok r hr
  obtain ⟨next, hexec⟩ := exec_descriptorTake (entry := entry) hb ht hu hok
  rw [← hr] at hexec
  refine ⟨_, hexec, ?_⟩
  dsimp only [OnlyEasel]
  rw [State.setEasel_easel_self]
  exact ⟨rfl, rfl, (s.easel e).setQueue_queueAt_self q _, fun j hj => (s.easel e).setQueue_queueAt_ne q _ hj,
    ((s.easel e).setQueue_mode q _).trans (beq_iff_eq.mp hb), (s.easel e).setQueue_canvas q _, (s.easel e).setQueue_slots q _, rfl⟩

end Sys2Proof.Machine
end

section
/-! PROOFS. What records leave of the queues, the completion of a command (R406), and COMMAND_DISPATCH (R404, R405). -/

namespace Sys2Proof.Machine

/-! ### Records leave every COMPLETED as it stands -/

/-- COMPLETED of every queue stands. -/
def CompletedKept (s s' : State) : Prop :=
  ∀ e q, ((s'.easel e).queueAt q).completed = ((s.easel e).queueAt q).completed

theorem CompletedKept.refl (s : State) : CompletedKept s s := fun _ _ => rfl

theorem CompletedKept.trans {a b c : State} (h : CompletedKept a b) (k : CompletedKept b c) : CompletedKept a c :=
  fun e q => (k e q).trans (h e q)

theorem CompletedKept.of_easels {s s' : State} (h : s'.easels = s.easels) : CompletedKept s s' := fun e q => by
  rw [State.easel, h, State.easel]

theorem State.emit_completed (s : State) (o : Out) : CompletedKept s (s.emit o) := .of_easels rfl

/-- One easel stored whose queues have their COMPLETED. -/
theorem State.setEasel_completed {s : State} {e : Nat} {x : Easel}
    (h : ∀ q, (x.queueAt q).completed = ((s.easel e).queueAt q).completed) : CompletedKept s (s.setEasel e x) := by
  intro f q
  by_cases hf : f = e
  · rw [hf, State.setEasel_easel_self, h]
  · rw [State.setEasel_easel_ne _ _ _ _ hf]

theorem Easel.setQueue_completed {x : Easel} {q : Nat} {u : Queue} (h : u.completed = (x.queueAt q).completed) (j : Nat) :
    ((x.setQueue q u).queueAt j).completed = (x.queueAt j).completed := by
  by_cases hj : j = q
  · rw [hj, Easel.setQueue_queueAt_self, h]
  · rw [Easel.setQueue_queueAt_ne x q u hj]

theorem Easel.queueAt_congr {x y : Easel} (hq : y.queues = x.queues) (he : y.events.completed = x.events.completed) (q : Nat) :
    (y.queueAt q).completed = (x.queueAt q).completed := by
  unfold Easel.queueAt
  split
  · exact he
  · rw [hq]

theorem State.fireVector_completed (s : State) (e q : Nat) : CompletedKept s (s.fireVector e q) := by
  unfold State.fireVector
  dsimp only
  split
  · exact .refl s
  · split
    · exact State.setEasel_completed (Easel.setQueue_completed rfl)
    · split
      · refine CompletedKept.trans ?_ (State.emit_completed _ _)
        exact State.setEasel_completed (Easel.setQueue_completed rfl)
      · exact State.setEasel_completed (Easel.queueAt_congr rfl rfl)

theorem MemoryOnly.completed {s s' : State} (h : MemoryOnly s s') : CompletedKept s s' := .of_easels (by rw [h.1])

theorem State.putRecord_completed (s : State) (e : Nat) (v : Event) : CompletedKept s (s.putRecord e v) := by
  unfold State.putRecord
  dsimp only
  refine CompletedKept.trans ?_ (State.fireVector_completed _ _ _)
  refine CompletedKept.trans ?_ (State.setEasel_completed (Easel.queueAt_congr rfl rfl))
  split
  · exact (s.writeVa_memoryOnly _ _ _).completed
  · exact .of_easels rfl

theorem flushHeld_completed (e : Nat) (l : List Event) (s : State) : CompletedKept s (flushHeld s e l) := by
  induction l generalizing s with
  | nil => exact State.setEasel_completed (Easel.queueAt_congr rfl rfl)
  | cons v l ih =>
    unfold flushHeld
    split
    · exact (s.putRecord_completed e v).trans (ih _)
    · exact State.setEasel_completed (Easel.queueAt_congr rfl rfl)

theorem State.flush_completed (s : State) (e : Nat) : CompletedKept s (s.flush e) := by
  unfold State.flush
  dsimp only
  split
  · refine CompletedKept.trans ?_ (flushHeld_completed _ _ _)
    split
    · exact .refl s
    · have hdropped : CompletedKept s (s.setEasel e { s.easel e with dropped := 0 }) :=
        State.setEasel_completed (Easel.queueAt_congr rfl rfl)
      exact hdropped.trans (State.putRecord_completed _ _ _)
  · exact .refl s

theorem Easel.hold_completed (x : Easel) (v : Event) (q : Nat) : ((x.hold v).queueAt q).completed = (x.queueAt q).completed := by
  unfold Easel.hold
  dsimp only
  split
  · exact Easel.queueAt_congr rfl rfl q
  · split
    · exact Easel.queueAt_congr rfl rfl q
    · split <;> exact Easel.queueAt_congr rfl rfl q

theorem State.deliver_completed (s : State) (e : Nat) (v : Event) : CompletedKept s (s.deliver e v) := by
  unfold State.deliver
  dsimp only
  split
  · exact s.putRecord_completed e v
  · exact (State.setEasel_completed (Easel.hold_completed _ v)).trans (State.flush_completed _ _)

theorem State.post_completed (s : State) (v : Event) : CompletedKept s (s.post v) :=
  (s.deliver_completed _ v).trans (.of_easels rfl)

theorem State.traceStore_completed (s : State) (d e : Nat) (bs : List Byte) : CompletedKept s (s.traceStore d e bs).1 := by
  have hask (s : State) : CompletedKept s (s.traceAsk d) := by
    unfold State.traceAsk
    dsimp only
    split <;> exact .of_easels rfl
  unfold State.traceStore
  dsimp only
  split
  · exact .refl s
  split
  · exact .of_easels rfl
  · split
    · exact .of_easels rfl
    · exact CompletedKept.trans (.of_easels rfl) (hask _)

theorem State.traceTake_completed (s : State) (d e code seq : Nat) : CompletedKept s (s.traceTake d e code seq).1 := by
  unfold State.traceTake
  dsimp only
  split
  · exact CompletedKept.trans (.of_easels rfl) (State.traceStore_completed _ _ _ _)
  · exact .refl s

theorem raiseChain_completed (n : Nat) (v : Event) (s : State) : CompletedKept s (raiseChain n v s) := by
  induction n generalizing v s with
  | zero => exact s.post_completed v
  | succ n ih =>
    unfold raiseChain
    dsimp only
    split
    · refine (s.post_completed v).trans (foldl_keeps_state CompletedKept .refl (fun _ _ _ => .trans) _ (fun t d => ?_) _ _)
      exact (t.traceTake_completed _ _ _ _).trans
        (foldl_keeps_state CompletedKept .refl (fun _ _ _ => .trans) _ (fun u w => ih w u) _ _)
    · exact s.post_completed v

theorem State.reportSeq_completed (s : State) (code e cls unit seq a b : Nat) :
    CompletedKept s (s.reportSeq code e cls unit seq a b) := raiseChain_completed _ _ s

/-! ### The end of a command (R406) -/

theorem RecordsOnly.cmds {s s' : State} (h : RecordsOnly s s') (e : Nat) : (s'.easel e).cmds = (s.easel e).cmds := by rw [h.2.1 e]

section
variable {s : State} {e : Nat} {c : Cmd} {boundary : Bool}

/-- The easel with a command ended, before any record is written of it. -/
def Easel.ended (x : Easel) (c : Cmd) : Easel :=
  (x.dropCmd c.seq).setQueue c.queue { x.queueAt c.queue with completed := (x.queueAt c.queue).completed + 1 }

theorem Easel.ended_records (x : Easel) (c : Cmd) : EaselRecords (x.dropCmd c.seq) (x.ended c) := Easel.setQueue_records _ _ _

/-- With no fault deferred to it, the end of a command is the command dropped and counted, and the record it may ask for. -/
theorem State.complete_eq (hf : (s.easel e).faultAtBoundary = false) (hs : s.sequencerStopped e = false) :
    s.complete e c boundary = (let t := s.setEasel e ((s.easel e).ended c)
      if c.notify then t.reportSeq 0x0103 e 0x01 (queueUnit e c.queue) c.seq (c.op + c.queue * 256) 0 else t) := by
  unfold State.complete
  dsimp only
  rw [if_neg (by simp [hf, hs])]
  rfl

theorem State.complete_records (hf : (s.easel e).faultAtBoundary = false) (hs : s.sequencerStopped e = false) :
    RecordsOnly (s.setEasel e ((s.easel e).dropCmd c.seq)) (s.complete e c boundary) := by
  have hcount : RecordsOnly (s.setEasel e ((s.easel e).dropCmd c.seq)) (s.setEasel e ((s.easel e).ended c)) := by
    have h := (s.setEasel e ((s.easel e).dropCmd c.seq)).setEasel_records e ((s.easel e).ended c)
      (by rw [State.setEasel_easel_self]; exact Easel.ended_records _ _)
    rwa [State.setEasel_setEasel] at h
  rw [State.complete_eq hf hs]
  dsimp only
  split
  · exact hcount.trans (State.reportSeq_records _ _ _ _ _ _ _ _)
  · exact hcount

/-- The command is in the list no more and is counted at its queue. -/
theorem State.complete_ended (hf : (s.easel e).faultAtBoundary = false) (hs : s.sequencerStopped e = false) :
    Ended e c s (s.complete e c boundary) := by
  refine ⟨?_, ?_⟩
  · rw [(State.complete_records hf hs).cmds e, State.setEasel_easel_self]
    rfl
  · have hcount : (((s.setEasel e ((s.easel e).ended c)).easel e).queueAt c.queue).completed =
        ((s.easel e).queueAt c.queue).completed + 1 := by
      rw [State.setEasel_easel_self, Easel.ended, Easel.setQueue_queueAt_self]
    rw [State.complete_eq hf hs]
    dsimp only
    split
    · rw [State.reportSeq_completed]
      exact hcount
    · exact hcount

/-- What does not depend on records is of the easel as it stood, without the command. -/
theorem State.complete_easel (hf : (s.easel e).faultAtBoundary = false) (hs : s.sequencerStopped e = false) :
    EaselRecords ((s.easel e).dropCmd c.seq) ((s.complete e c boundary).easel e) := by
  have h := (State.complete_records (c := c) (boundary := boundary) hf hs).2.1 e
  rwa [State.setEasel_easel_self] at h

end

/-! ### COMMAND_DISPATCH -/

/-- The easel whose next command's step takes the exponent that was waiting for it (R169). -/
def Easel.scaled (s : State) (e : Nat) (x : Easel) (c : Cmd) : Easel :=
  if c.stepped && x.lossFresh then { x with lossExp := policyInt s (0x8040 + e) 1, lossFresh := false }
  else match x.lossNext with
    | some k => if c.stepped then { x with lossExp := k, lossNext := none } else x
    | none => x

theorem Easel.scaled_keeps {β : Type} (s : State) (e : Nat) (x : Easel) (c : Cmd) (f : Easel → β)
    (hf : ∀ (y : Easel) a b k, f { y with lossExp := a, lossFresh := b, lossNext := k } = f y) : f (Easel.scaled s e x c) = f x := by
  unfold Easel.scaled
  split
  · exact hf x _ _ x.lossNext
  · split
    · next k hk =>
      split
      · exact hf x k x.lossFresh none
      · rfl
    · rfl

/-- The easel with command `c` dispatched with slots `v`. -/
def Easel.dispatchedWith (x : Easel) (c : Cmd) (v : List Nat) : Easel :=
  { (x.openFor c) with slots := v, cmds := x.cmds.map fun (d : Cmd) => if d.seq = c.seq then { d with phase := .dispatched, slots := v } else d }

theorem Easel.openFor_open (x : Easel) (c : Cmd) :
    (c.stepped = true → c.last = true → (x.openFor c).openStep = 0 ∧ (x.openFor c).closedStep = c.step) ∧
    (c.stepped = true → c.last = false → (x.openFor c).openStep = c.step ∧ (x.openFor c).closedStep = x.closedStep) ∧
    (c.stepped = false → (x.openFor c).openStep = x.openStep ∧ (x.openFor c).closedStep = x.closedStep) := by
  unfold Easel.openFor
  refine ⟨fun hs hl => ?_, fun hs hl => ?_, fun hs => ?_⟩
  · simp [hs, hl]
  · simp [hs, hl]
  · simp [hs]

theorem Easel.openFor_rest (x : Easel) (c : Cmd) : (x.openFor c).mode = x.mode ∧ (x.openFor c).canvas = x.canvas := by
  unfold Easel.openFor
  split
  · exact ⟨rfl, rfl⟩
  · split <;> exact ⟨rfl, rfl⟩

section
variable {s : State} {e : Nat} {c : Cmd}

theorem execCommandDispatch_held (hb : s.bound e = true) (hw : (s.easel e).waiting = some c)
    (h : (s.easel e).startable c = false ∨ s.sequencerStopped e = true) : exec (.commandDispatch e) s = .next s := by
  have harm : exec (.commandDispatch e) s = execCommandDispatch e s := rfl
  rw [harm, execCommandDispatch]
  dsimp only
  cases hs : s.sequencerStopped e with
  | true => exact if_pos (by simp)
  | false =>
    rw [if_neg (by simp [hb]), hw]
    exact if_pos (by simpa [hs] using h)

theorem exec_commandDispatch (hb : s.bound e = true) (hw : (s.easel e).waiting = some c) (hst : (s.easel e).startable c = true)
    (hs : s.sequencerStopped e = false) (hc : s.checkHeader e c = none) (hl : s.listOk e c = true)
    (hsh : c.op ≠ 2 → s.checkShapes e (applySlots (s.easel e).slots (s.slotEntries e c)) (s.slotEntries e c) = none) :
    exec (.commandDispatch e) s = .next (s.setEasel e
      ((Easel.scaled s e (s.easel e) c).dispatchedWith c (applySlots (s.easel e).slots (s.slotEntries e c)))) := by
  have harm : exec (.commandDispatch e) s = execCommandDispatch e s := rfl
  have hnone : (if c.op = 2 then none else
      s.checkShapes e (applySlots (s.easel e).slots (s.slotEntries e c)) (s.slotEntries e c)) = none := by
    split
    · rfl
    · next hop => exact hsh hop
  rw [harm, execCommandDispatch]
  dsimp only
  rw [if_neg (by simp [hb, hs]), hw]
  dsimp only
  rw [if_neg (by simp [hst]), hc]
  dsimp only
  rw [if_neg (by simp [hl]), hnone]
  rfl

/-- A command that fails a check is rejected. -/
theorem exec_commandDispatch_reject (hb : s.bound e = true) (hw : (s.easel e).waiting = some c)
    (hst : (s.easel e).startable c = true) (hs : s.sequencerStopped e = false)
    (h : s.checkHeader e c ≠ none ∨ s.listOk e c = false ∨ (c.op ≠ 2 ∧
      s.checkShapes e (applySlots (s.easel e).slots (s.slotEntries e c)) (s.slotEntries e c) ≠ none)) :
    ∃ r, exec (.commandDispatch e) s = .next (s.reject e c r) := by
  have harm : exec (.commandDispatch e) s = execCommandDispatch e s := rfl
  rw [harm, execCommandDispatch]
  dsimp only
  rw [if_neg (by simp [hb, hs]), hw]
  dsimp only
  rw [if_neg (by simp [hst])]
  cases hc : s.checkHeader e c with
  | some r => exact ⟨r, rfl⟩
  | none =>
    dsimp only
    cases hl : s.listOk e c with
    | false => exact ⟨_, rfl⟩
    | true =>
      obtain hh | hh | ⟨hop, hsh⟩ := h
      · exact absurd hc hh
      · exact absurd (hl.symm.trans hh) (by simp)
      · obtain ⟨r, hr⟩ := Option.ne_none_iff_exists'.mp hsh
        rw [if_neg (by simp), if_neg hop, hr]
        exact ⟨r, rfl⟩

/-- A rejection: the easel is in FAULTED with the commands dispatched before, and what these have under way stands. -/
theorem State.reject_easel (r : Reject) (hb : s.bound e = true) : ((s.reject e c r).easel e).mode = .faulted ∧
    ((s.reject e c r).easel e).cmds = (s.easel e).cmds.filter (·.phase != .taken) ∧
    ((s.easel e).quiet = false → (s.reject e c r).works e = true ∧ (s.reject e c r).tiles = s.tiles ∧
      (s.reject e c r).streams.issues = s.streams.issues ∧ (s.reject e c r).streams.xfers = s.streams.xfers ∧
      (s.reject e c r).sems = s.sems) := by
  have hwork : s.works e = true := by
    unfold State.works Easel.works
    rw [beq_iff_eq.mp hb]
    rfl
  unfold State.reject
  dsimp only
  generalize hs : s.reportSeq r.1 e 0x01 (queueUnit e c.queue) (min c.seq (2 ^ 48 - 1)) r.2.1 r.2.2 = t
  have hrec : RecordsOnly s t := hs ▸ s.reportSeq_records _ _ _ _ _ _ _
  have hquiet : (t.easel e).quiet = (s.easel e).quiet := by rw [Easel.quiet, hrec.cmds, Easel.quiet]
  split
  · next hq =>
    have hall : (s.easel e).cmds.filter (·.phase != .taken) = [] := by
      rw [hquiet] at hq
      rw [List.filter_eq_nil_iff]
      intro d hd
      simpa using List.all_eq_true.mp hq d hd
    refine ⟨State.fault_mode t e ((hrec.works e).trans hwork), ?_, fun hno => absurd (hquiet ▸ hq) (by simp [hno])⟩
    rw [State.fault_easel ((hrec.works e).trans hwork), hall]
  · refine ⟨?_, ?_, fun _ => ⟨?_, hrec.tiles, congrArg (·.streams.issues) hrec.1, congrArg (·.streams.xfers) hrec.1, hrec.sems⟩⟩
    · rw [State.onEasel_easel_self]
    · rw [State.onEasel_easel_self, ← hrec.cmds e]
    · rw [State.works, State.onEasel_easel_self]
      rfl

end

/-- Settles O32: the three ends of COMMAND_DISPATCH. -/
theorem commandDispatched : Obligations.CommandDispatched := by
  unfold Obligations.CommandDispatched
  intro s e c hb hw
  refine ⟨execCommandDispatch_held hb hw, ?_, fun hst hs h => ?_⟩
  · rintro v rfl hst hs hc hl hsh
    refine ⟨_, exec_commandDispatch hb hw hst hs hc hl hsh, ?_⟩
    dsimp only [OnlyEasel]
    rw [State.setEasel_easel_self]
    generalize applySlots (s.easel e).slots (s.slotEntries e c) = v
    have hkeep {β : Type} := Easel.scaled_keeps (β := β) s e (s.easel e) c
    have hopen := (Easel.scaled s e (s.easel e) c).openFor_open c
    rw [hkeep Easel.openStep fun _ _ _ _ => rfl, hkeep Easel.closedStep fun _ _ _ _ => rfl] at hopen
    obtain ⟨hmode, hcanvas⟩ := (Easel.scaled s e (s.easel e) c).openFor_rest c
    have hcmds : (Easel.scaled s e (s.easel e) c).cmds = (s.easel e).cmds := hkeep Easel.cmds fun _ _ _ _ => rfl
    refine ⟨rfl, rfl, ?_, ?_, ⟨{ c with phase := .dispatched, slots := v }, ?_, rfl, rfl, rfl, rfl⟩, hopen⟩
    · exact hmode.trans ((hkeep Easel.mode fun _ _ _ _ => rfl).trans (beq_iff_eq.mp hb))
    · exact hcanvas.trans (hkeep Easel.canvas fun _ _ _ _ => rfl)
    · refine List.mem_map.mpr ⟨c, ?_, if_pos rfl⟩
      rw [hcmds]
      exact List.mem_of_find?_eq_some hw
  · obtain ⟨r, hr⟩ := exec_commandDispatch_reject hb hw hst hs h
    exact ⟨_, hr, State.reject_easel r hb⟩

end Sys2Proof.Machine
end

section
/-! PROOFS. Run-work commands from their start to their end (R91, R291), and NO_OPERATION (R403). -/

namespace Sys2Proof.Machine

/-! ### Folds -/

/-- What one member of a list establishes and the others keep, under what all of them keep. -/
theorem foldl_establishes {α β : Type} {I P : β → Prop} {f : β → α → β} {l : List α} {x : α} (hx : x ∈ l)
    (hI : ∀ b y, I b → I (f b y)) (hat : ∀ b, I b → P (f b x)) (hkeep : ∀ b, I b → ∀ y ∈ l, P b → P (f b y)) {b : β} (hb : I b) :
    P (l.foldl f b) := by
  have hrest : ∀ (l' : List α), (∀ y ∈ l', y ∈ l) → ∀ b, I b → P b → P (l'.foldl f b) := by
    intro l'
    induction l' with
    | nil => exact fun _ _ _ h => h
    | cons y l' ih =>
      exact fun hsub b hi h => ih (fun z hz => hsub z (List.mem_cons_of_mem _ hz)) _ (hI b y hi) (hkeep b hi y (hsub y List.mem_cons_self) h)
  have hkeepI : ∀ (l' : List α) b, I b → I (l'.foldl f b) := by
    intro l'
    induction l' with
    | nil => exact fun _ h => h
    | cons y l' ih => exact fun b h => ih _ (hI b y h)
  obtain ⟨l₁, l₂, rfl⟩ := List.append_of_mem hx
  rw [List.foldl_append, List.foldl_cons]
  exact hrest l₂ (fun y hy => List.mem_append_right _ (List.mem_cons_of_mem _ hy)) _ (hI _ _ (hkeepI _ _ hb)) (hat _ (hkeepI _ _ hb))

/-- A tile after a change of each tile of a list, once for each place it has there. -/
theorem foldl_onTile_tile (f : Tile → Tile) (l : List Nat) (t : Nat) (s : State) :
    (l.foldl (fun s i => s.onTile i f) s).tile t = f^[l.count t] (s.tile t) := by
  induction l generalizing s with
  | nil => rfl
  | cons i l ih =>
    rw [List.foldl_cons, ih]
    by_cases h : i = t
    · subst h
      rw [State.onTile_tile_self, List.count_cons_self, Function.iterate_succ_apply]
    · rw [State.onTile_tile_ne _ _ _ _ (Ne.symm h), List.count_cons_of_ne h]

/-! ### Sound semaphores -/

theorem mem_tset {α : Type} {t : Tab α} {k : Nat} {x : α} {p : Nat × α} (h : p ∈ tset t k x) : p = (k, x) ∨ p ∈ t := by
  induction t with
  | nil => exact .inl (List.mem_singleton.mp h)
  | cons q t ih =>
    unfold tset at h
    split at h
    · exact (List.mem_cons.mp h).imp id fun h => h
    · split at h
      · exact (List.mem_cons.mp h).imp id (List.mem_cons_of_mem _)
      · obtain rfl | h := List.mem_cons.mp h
        · exact .inr List.mem_cons_self
        · exact (ih h).imp id (List.mem_cons_of_mem _)

theorem semaphoresSound_sem {s : State} (h : SemaphoresSound s) (k : Nat) : (s.sem k).sound = true :=
  tget_all (fun m : Sem => m.sound = true) _ _ Sem.reset_sound h k

theorem semaphoresSound_setSem {s : State} (h : SemaphoresSound s) {k : Nat} {m : Sem} (hm : m.sound = true) :
    SemaphoresSound (s.setSem k m) :=
  fun p hp => (mem_tset hp).elim (fun he => he ▸ hm) (h p)

/-! ### RUN_WORK -/

/-- Where every semaphore is sound, the triggers of a sheet are armed, and at most those already reached are noted of the easel. -/
def Armed (e : Nat) (s s' : State) : Prop :=
  SemaphoresSound s → SemaphoresSound s' ∧ s'.tiles = s.tiles ∧ MemoryKept s s' ∧ (∀ f, f ≠ e → s'.easel f = s.easel f) ∧
    (s'.easel e).cmds = (s.easel e).cmds

theorem Armed.refl (e : Nat) (s : State) : Armed e s s := fun h => ⟨h, rfl, memoryKept_refl s, fun _ _ => rfl, rfl⟩

theorem Armed.trans {e : Nat} {a b c : State} (h : Armed e a b) (k : Armed e b c) : Armed e a c := fun hs => by
  obtain ⟨hb, ht, hm, ho, hc⟩ := h hs
  obtain ⟨kb, kt, km, ko, kc⟩ := k hb
  exact ⟨kb, kt.trans ht, memoryKept_trans hm km, fun f hf => (ko f hf).trans (ho f hf), kc.trans hc⟩

theorem State.applyWaitv_arms (s : State) (e r n : Nat) (m : SemDecl) : Armed e s (s.applyWaitv e m ⟨.reduction e r, n⟩) := by
  intro hsound
  cases hkey : (s.easel e).semKey m with
  | none => rw [State.applyWaitv, hkey]; exact Armed.refl e s hsound
  | some k =>
    by_cases hn : n ≤ (s.sem k).count.toNat
    · rw [State.applyWaitv_passes hkey (semaphoresSound_sem hsound k) hn]
      refine ⟨hsound, rfl, State.release_memoryKept _ _, fun f hf => State.onEasel_easel_ne _ _ _ _ hf, ?_⟩
      rw [State.release, State.onEasel_easel_self]
    · rw [State.applyWaitv_queued hkey (semaphoresSound_sem hsound k) (w := ⟨.reduction e r, n⟩) (Nat.not_le.mp hn)]
      exact ⟨semaphoresSound_setSem hsound (semaphoresSound_sem hsound k :), rfl, memoryKept_of_fields rfl rfl rfl rfl, fun _ _ => rfl, rfl⟩

theorem State.armTriggers_arms (s : State) (e : Nat) : Armed e s (s.armTriggers e) := by
  unfold State.armTriggers
  split
  · exact .refl e s
  · refine foldl_keeps_state (Armed e) (.refl e) (fun _ _ _ => .trans) _ (fun s r => ?_) _ s
    split
    · exact s.applyWaitv_arms e _ _ _
    · exact .refl e s

theorem foldl_onTile_rest (f : Tile → Tile) (l : List Nat) (s : State) :
    l.foldl (fun s i => s.onTile i f) s = { s with tiles := (l.foldl (fun s i => s.onTile i f) s).tiles } := by
  induction l generalizing s with
  | nil => rfl
  | cons i l ih => rw [List.foldl_cons, ih]; rfl

theorem State.startTiles_rest (s : State) (e n : Nat) : s.startTiles e n = { s with tiles := (s.startTiles e n).tiles } :=
  foldl_onTile_rest _ _ s

theorem State.startTiles_other {s : State} {e t : Nat} (n : Nat) (h : t ∉ s.sheetTiles e) : (s.startTiles e n).tile t = s.tile t := by
  rw [State.startTiles, foldl_onTile_tile, List.count_eq_zero_of_not_mem h]
  rfl

theorem Tile.start_program (x : Tile) (n : Nat) : (x.start n).program = x.program := rfl

theorem Tile.start_reg (x : Tile) (n r : Nat) : (x.start n).reg r = 0 := by
  unfold Tile.reg
  split <;> rfl

theorem State.startTiles_started {s : State} {e t : Nat} (n : Nat) (h : t ∈ s.sheetTiles e) :
    ∃ x : Tile, (s.startTiles e n).tile t = x.start n ∧ x.program = (s.tile t).program := by
  have hkept (k : Nat) : ((fun x : Tile => x.start n)^[k] (s.tile t)).program = (s.tile t).program := by
    induction k with
    | zero => rfl
    | succ k ih => rw [Function.iterate_succ_apply', Tile.start_program]; exact ih
  obtain ⟨k, hk⟩ := Nat.exists_eq_succ_of_ne_zero (List.count_pos_iff.mpr h).ne'
  rw [State.startTiles, foldl_onTile_tile, hk, Function.iterate_succ_apply']
  exact ⟨_, rfl, hkept k⟩

/-- The easel of a run-work command that starts, with the counts and tickets it starts from. -/
def Easel.workStarted (x : Easel) (c : Cmd) (counts tickets : List (Nat × Nat)) : Easel :=
  { x.setPhase c.seq .started with awaiting := [], startCounts := counts, startTickets := tickets }

/-- The state with the command started in its easel, and no tile started yet. -/
def State.commandStarted (s : State) (e : Nat) (c : Cmd) : State :=
  s.setEasel e ((s.easel e).workStarted c (s.countsOf e) (s.ticketsOf e))

/-- The state as RUN_WORK leaves it before its triggers are armed. -/
def State.workStarted (s : State) (e : Nat) (c : Cmd) : State := (s.commandStarted e c).startTiles e c.seq

theorem exec_runWork {s : State} {e : Nat} {c : Cmd} (hc : (s.easel e).dispatched 1 = some c) (hw : s.works e = true) :
    exec (.runWork e) s = .next ((s.workStarted e c).armTriggers e) := by
  have harm : exec (.runWork e) s = execRunWork e s := rfl
  rw [harm, execRunWork]
  dsimp only
  rw [hc]
  dsimp only
  rw [if_neg (by rw [← State.works, hw]; simp)]
  rfl

theorem Easel.setPhase_started {x : Easel} {c : Cmd} (h : c ∈ x.cmds) (p : Phase) : ∃ d ∈ (x.setPhase c.seq p).cmds, d.seq = c.seq ∧ d.phase = p :=
  ⟨{ c with phase := p }, List.mem_map.mpr ⟨c, h, if_pos rfl⟩, rfl, rfl⟩

theorem Easel.mem_of_dispatched {x : Easel} {op : Nat} {c : Cmd} (h : x.dispatched op = some c) : c ∈ x.cmds := List.mem_of_find?_eq_some h
theorem Easel.mem_of_running {x : Easel} {op : Nat} {c : Cmd} (h : x.running op = some c) : c ∈ x.cmds := List.mem_of_find?_eq_some h

/-- What the start of a command's tiles keeps. -/
theorem State.workStarted_kept (s : State) (e : Nat) (c : Cmd) (hs : SemaphoresSound s) :
    SemaphoresSound (s.workStarted e c) ∧ MemoryKept s (s.workStarted e c) ∧ (∀ f, f ≠ e → (s.workStarted e c).easel f = s.easel f) ∧
      ((s.workStarted e c).easel e).cmds = ((s.easel e).setPhase c.seq .started).cmds := by
  have hrest := (s.commandStarted e c).startTiles_rest e c.seq
  have heasel (f : Nat) : (s.workStarted e c).easel f = (s.commandStarted e c).easel f := congrArg (·.easel f) hrest
  have hkept : MemoryKept (s.commandStarted e c) (s.workStarted e c) := by
    rw [State.workStarted, hrest]
    exact memoryKept_of_fields rfl rfl rfl rfl
  have hsems : (s.workStarted e c).sems = s.sems := congrArg (·.sems) hrest
  refine ⟨?_, memoryKept_trans (memoryKept_of_fields rfl rfl rfl rfl) hkept, fun f hf => ?_, ?_⟩
  · unfold SemaphoresSound
    rw [hsems]
    exact hs
  · rw [heasel]
    exact State.setEasel_easel_ne _ _ _ _ hf
  · rw [heasel, State.commandStarted, State.setEasel_easel_self, Easel.workStarted]

theorem State.commandStarted_sheetTiles (s : State) (e : Nat) (c : Cmd) : (s.commandStarted e c).sheetTiles e = s.sheetTiles e := by
  have heasel : (s.commandStarted e c).easel e = (s.easel e).workStarted c (s.countsOf e) (s.ticketsOf e) := State.setEasel_easel_self _ _ _
  have hdef : ((s.commandStarted e c).easel e).sheetDef = (s.easel e).sheetDef := heasel ▸ rfl
  have hdense : (s.commandStarted e c).denseOf e = s.denseOf e := by
    unfold State.denseOf
    rw [heasel]
    rfl
  rw [State.sheetTiles, hdef, hdense, State.sheetTiles]

theorem workStarts : WorkStarts := by
  unfold WorkStarts
  intro s e c hs hc hw
  refine ⟨_, exec_runWork hc hw, ?_⟩
  obtain ⟨hs1, hmem1, hother1, hcmds1⟩ := s.workStarted_kept e c hs
  obtain ⟨-, htiles, hmem, hother, hcmds⟩ := (s.workStarted e c).armTriggers_arms e hs1
  have htile (t : Nat) : ((s.workStarted e c).armTriggers e).tile t = (s.workStarted e c).tile t := by rw [State.tile, htiles, State.tile]
  have hsheet := s.commandStarted_sheetTiles e c
  refine ⟨?_, memoryKept_trans hmem1 hmem, fun t ht => ?_, fun t ht => ?_, fun f hf => (hother f hf).trans (hother1 f hf)⟩
  · unfold Started
    rw [hcmds, hcmds1]
    exact Easel.setPhase_started (Easel.mem_of_dispatched hc) _
  · obtain ⟨x, hx, hprogram⟩ := State.startTiles_started (s := s.commandStarted e c) c.seq (hsheet.symm ▸ ht)
    rw [htile, State.workStarted, hx]
    exact ⟨rfl, rfl, rfl, x.start_reg c.seq, rfl, rfl, rfl, hprogram⟩
  · rw [htile, State.workStarted]
    exact State.startTiles_other (s := s.commandStarted e c) c.seq (hsheet.symm ▸ ht)

/-! ### COMMAND_END -/

/-- The semaphores and counters alone. -/
theorem State.initialSync_only (s : State) (e : Nat) :
    s.initialSync e = { s with sems := (s.initialSync e).sems, counters := (s.initialSync e).counters } := by
  unfold State.initialSync
  split
  · next d _ =>
    dsimp only
    have hfold : ∀ s : State, d.sems.foldl (fun s m => s.setCount e m m.initial) s =
        { s with sems := (d.sems.foldl (fun s m => s.setCount e m m.initial) s).sems } :=
      fun s => foldl_keeps_state (fun s s' => s' = { s with sems := s'.sems }) (fun _ => rfl)
        (fun a b c h k => by rw [k, h]) _ (fun s m => by unfold State.setCount; split <;> rfl) _ s
    rw [hfold]
  · rfl

/-- A command that ends sets each semaphore of its sheet to its initial value. -/
theorem State.initialSync_sem {s : State} {e k : Nat} {d : Sheet} {m : SemDecl} (hd : (s.easel e).sheetDef = some d) (hm : m ∈ d.sems)
    (hk : (s.easel e).semKey m = some k) (hsame : ∀ q ∈ d.sems, (s.easel e).semKey q = some k → q.initial = m.initial) :
    ((s.initialSync e).sem k).count = BitVec.ofNat 32 m.initial ∧ ((s.initialSync e).sem k).sound = true := by
  have hset (t : State) (q : SemDecl) (h : (t.easel e).semKey q = some k) (n : Nat) :
      ((t.setCount e q n).sem k).count = BitVec.ofNat 32 n ∧ ((t.setCount e q n).sem k).sound = true := by
    unfold State.setCount
    rw [h]
    dsimp only
    rw [State.setSem_sem_self]
    exact ⟨rfl, Sem.store_sound _ _⟩
  have hother (t : State) (q : SemDecl) (h : (t.easel e).semKey q ≠ some k) (n : Nat) : (t.setCount e q n).sem k = t.sem k := by
    unfold State.setCount
    split
    · next j hj => exact State.setSem_sem_ne _ _ _ _ fun hkj => h (hkj ▸ hj)
    · rfl
  have heasel (t : State) (q : SemDecl) (n : Nat) : (t.setCount e q n).easel e = t.easel e := by
    unfold State.setCount
    split <;> rfl
  unfold State.initialSync
  rw [hd]
  exact foldl_establishes (I := fun t => t.easel e = s.easel e)
    (P := fun t => (t.sem k).count = BitVec.ofNat 32 m.initial ∧ (t.sem k).sound = true) hm
    (fun t q h => (heasel t q _).trans h) (fun t h => hset t m (h.symm ▸ hk) _)
    (fun t h q hq hP => by
      by_cases hqk : (s.easel e).semKey q = some k
      · rw [hsame q hq hqk]
        exact hset t q (h.symm ▸ hqk) _
      · rw [hother t q (h.symm ▸ hqk)]
        exact hP) rfl

/-- A command that ends sets each work counter of its sheet to its first ticket, with no claim (R293). -/
theorem State.initialSync_counter {s : State} {e : Nat} {d : Sheet} {w : CtrDecl} (hd : (s.easel e).sheetDef = some d) (hw : w ∈ d.ctrs)
    (hsame : ∀ q ∈ d.ctrs, q.number = w.number → q.first = w.first) :
    (s.initialSync e).counter w.number = { value := w.first, claimed := [] } := by
  unfold State.initialSync
  rw [hd]
  exact foldl_establishes (I := fun _ => True) (P := fun t => tget Counter.reset t w.number = { value := w.first, claimed := [] }) hw
    (fun _ _ _ => trivial) (fun t _ => tget_tset_self _ _ _ _)
    (fun t _ q hq hP => by
      by_cases hqw : q.number = w.number
      · rw [hqw, tget_tset_self, hsame q hq hqw]
      · rw [tget_tset_ne _ _ _ _ _ (Ne.symm hqw)]
        exact hP) trivial

/-- A command that ends its easel's work under its own boundary rule, where no fault was deferred to it. -/
theorem State.finishCmd_kept {s : State} {e : Nat} (c : Cmd) (hf : (s.easel e).faultAtBoundary = false) (hs : s.sequencerStopped e = false) :
    Ended e c s (s.finishCmd e c) ∧ (∃ u, u = (if c.last then { s.easel e with lastDone := c.step } else s.easel e) ∧
      RecordsOnly (s.setEasel e (u.dropCmd c.seq)) (s.finishCmd e c)) := by
  unfold State.finishCmd
  dsimp only
  split
  · have hf' : ((s.setEasel e { s.easel e with lastDone := c.step }).easel e).faultAtBoundary = false := by
      rw [State.setEasel_easel_self]
      exact hf
    have hended := State.complete_ended (c := c) (boundary := (s.easel e).boundary c) hf' hs
    have hrec := State.complete_records (c := c) (boundary := (s.easel e).boundary c) hf' hs
    unfold Ended at hended
    rw [State.setEasel_easel_self] at hended hrec
    rw [State.setEasel_setEasel] at hrec
    exact ⟨hended, _, rfl, hrec⟩
  · exact ⟨State.complete_ended hf hs, _, rfl, State.complete_records hf hs⟩

/-- The command runs on while a tile of it does, a posted signal is pending or a reduction has still to fire. -/
theorem exec_commandEnd_waits {s : State} {e : Nat} {c : Cmd} (hc : (s.easel e).running 1 = some c)
    (h : (∃ t ∈ s.sheetTiles e, (s.tile t).running = true) ∨ s.postedPending e = true ∨ (s.easel e).awaiting ≠ [] ∨ (s.easel e).rerun ≠ []) :
    exec (.commandEnd e) s = .next s := by
  have harm : exec (.commandEnd e) s = execCommandEnd e s := rfl
  rw [harm, execCommandEnd, hc]
  refine if_pos ?_
  simp only [Bool.or_eq_true, List.any_eq_true, Bool.not_eq_true', List.isEmpty_eq_false_iff, or_assoc]
  exact h

section
variable {s : State} {e : Nat} {c : Cmd}

theorem exec_commandEnd (hc : (s.easel e).running 1 = some c) (hidle : ∀ t ∈ s.sheetTiles e, (s.tile t).running = false)
    (hposted : s.postedPending e = false) (hawait : (s.easel e).awaiting = []) (hrerun : (s.easel e).rerun = []) :
    exec (.commandEnd e) s = match s.finalMismatch e c with
      | some (m, f) => .next (s.endFault e m f)
      | none => .next (((s.initialSync e).publishWork e).finishCmd e c) := by
  have harm : exec (.commandEnd e) s = execCommandEnd e s := rfl
  have hno : ¬ ((s.sheetTiles e).any fun t => (s.tile t).running) = true := by
    rw [List.any_eq_true]
    exact fun ⟨t, ht, hrun⟩ => absurd (hidle t ht) (by simp [hrun])
  rw [harm, execCommandEnd, hc]
  exact if_neg (by simp [hno, hposted, hawait, hrerun])

/-- A mismatch is found at a semaphore that the sheet has a home for. -/
theorem State.finalMismatch_key {m : SemDecl} {f : Int} (h : s.finalMismatch e c = some (m, f)) : ∃ k, (s.easel e).semKey m = some k := by
  unfold State.finalMismatch at h
  dsimp only at h
  split at h
  · obtain ⟨q, -, hq⟩ := List.exists_of_findSome?_eq_some h
    split at hq
    · next k hk =>
      split at hq
      · cases hq; exact ⟨k, hk⟩
      · split at hq
        · cases hq; exact ⟨k, hk⟩
        · cases hq
    · cases hq
  · cases h

theorem State.endFault_stops (hw : s.works e = true) {m : SemDecl} {k : Nat} (hk : (s.easel e).semKey m = some k) (f : Int) :
    ((s.endFault e m f).easel e).mode = .faulted ∧ ∀ k, ((s.endFault e m f).sem k).count = (s.sem k).count := by
  unfold State.endFault
  rw [hk]
  dsimp only
  split
  · exact ⟨(State.faultWith_stops hw ..).1, (State.faultWith_stops hw ..).2.2.1⟩
  · split <;> exact ⟨(State.faultWith_stops hw ..).1, (State.faultWith_stops hw ..).2.2.1⟩

/-- The end of a run-work command: its end, on the semaphores and counters that it sets back. -/
theorem State.workEnded (c : Cmd) (hf : (s.easel e).faultAtBoundary = false) (hs : s.sequencerStopped e = false) :
    let s' := ((s.initialSync e).publishWork e).finishCmd e c
    Ended e c s s' ∧ (s'.easel e).mode = (s.easel e).mode ∧ (∀ k, s'.sem k = (s.initialSync e).sem k) ∧
      ∀ w, s'.counter w = (s.initialSync e).counter w := by
  intro s'
  have hrest := s.initialSync_only e
  have heasels : ((s.initialSync e).publishWork e).easels = s.easels := by
    rw [hrest]
    rfl
  have heasel : ((s.initialSync e).publishWork e).easel e = s.easel e := by rw [State.easel, heasels, State.easel]
  have hseq : ((s.initialSync e).publishWork e).sequencerStopped e = false := by
    rw [hrest]
    exact hs
  obtain ⟨hended, u, hu, hrec⟩ := State.finishCmd_kept c (heasel ▸ hf) hseq
  refine ⟨?_, ?_, fun k => ?_, fun w => ?_⟩
  · unfold Ended at hended ⊢
    rw [heasel] at hended
    exact hended
  · rw [hrec.mode, State.setEasel_easel_self, hu, heasel]
    split <;> rfl
  · exact hrec.sem k
  · exact congrArg (tget Counter.reset · w) hrec.counters

theorem exec_noOperation (hc : (s.easel e).dispatched 8 = some c) : exec (.noOperation e) s = .next (s.finishCmd e c) := by
  have harm : exec (.noOperation e) s = execNoOperation e s := rfl
  rw [harm, execNoOperation, hc]

/-- A fault deferred to a step boundary takes the place of the completion there. -/
theorem State.finishCmd_faults (hf : (s.easel e).faultAtBoundary = true ∨ s.sequencerStopped e = true) (hw : s.works e = true)
    (hlast : c.last = false) (hopen : (s.easel e).openStep = 0) (hclosed : (s.easel e).closedStep = 0) (hstep : c.step = 0) :
    ((s.finishCmd e c).easel e).mode = .faulted := by
  have hboundary : (s.easel e).boundary c = true := by simp [Easel.boundary, hopen, hclosed, hstep]
  unfold State.finishCmd
  dsimp only
  rw [if_neg (by simp [hlast]), hboundary, State.complete]
  dsimp only
  rw [if_pos (by simpa using hf)]
  refine State.fault_mode _ e ?_
  rw [State.works, State.onEasel_easel_self]
  exact hw

end

theorem commandEnds : CommandEnds := by
  unfold CommandEnds
  refine ⟨fun s e c hc => ⟨exec_commandEnd_waits hc, fun hidle hposted hawait hrerun => ⟨fun hmis hf hs => ?_, fun hmis hw => ?_⟩⟩,
    fun s e c hc => ⟨fun hf hs => ?_, fun hf hw hlast hopen hclosed hstep => ?_⟩⟩
  · have hexec := exec_commandEnd hc hidle hposted hawait hrerun
    rw [hmis] at hexec
    obtain ⟨hended, hmode, hsem, hctr⟩ := State.workEnded c hf hs
    refine ⟨_, hexec, hended, hmode, fun d hd => ⟨fun m hm k hk hsame => ?_, fun w hw hsame => ?_⟩⟩
    · rw [hsem]
      exact State.initialSync_sem hd hm hk hsame
    · rw [hctr, State.initialSync_counter hd hw hsame]
      exact ⟨rfl, rfl⟩
  · have hexec := exec_commandEnd hc hidle hposted hawait hrerun
    obtain ⟨⟨m, f⟩, hmf⟩ := Option.ne_none_iff_exists'.mp hmis
    rw [hmf] at hexec
    obtain ⟨k, hk⟩ := State.finalMismatch_key hmf
    exact ⟨_, hexec, State.endFault_stops hw hk f⟩
  · obtain ⟨hended, u, hu, hrec⟩ := State.finishCmd_kept c hf hs
    refine ⟨_, exec_noOperation hc, hended, ?_, hrec.tiles, hrec.sems⟩
    rw [hrec.mode, State.setEasel_easel_self, hu]
    split <;> rfl
  · exact ⟨_, exec_noOperation hc, State.finishCmd_faults hf hw hlast hopen hclosed hstep⟩

/-- Settles O33: the start of a run-work command, and the ends of it and of NO_OPERATION. -/
theorem workRuns : Obligations.WorkRuns := ⟨workStarts, commandEnds⟩

end Sys2Proof.Machine
end

section
/-! PROOFS. Canvas loads (R66, R67, R82), sheet switches (R60, R61) and panel reweights (R230, R231). -/

namespace Sys2Proof.Machine

/-! ### A record and the end of its command -/

/-- An easel may have had records, and a command of it ended. -/
def EaselDone (x y : Easel) : Prop :=
  y = { x with cmds := y.cmds, lastDone := y.lastDone, events := y.events, queues := y.queues, held := y.held, lost := y.lost, dropped := y.dropped, msix := y.msix }

/-- Command `c` of easel `e` has ended, with at most records beside it. -/
structure Finished (e : Nat) (c : Cmd) (s s' : State) : Prop where
  ended : Ended e c s s'
  tiles : s'.tiles = s.tiles
  sems : s'.sems = s.sems
  counters : s'.counters = s.counters
  easel : EaselDone (s.easel e) (s'.easel e)

/-- The end of a command after records of it. -/
theorem State.finishCmd_after {s t : State} {e : Nat} (c : Cmd) (hrec : RecordsOnly s t) (hdone : CompletedKept s t)
    (hf : (s.easel e).faultAtBoundary = false) (hs : s.sequencerStopped e = false) : Finished e c s (t.finishCmd e c) := by
  have hft : (t.easel e).faultAtBoundary = false := by
    rw [hrec.2.1 e]
    exact hf
  have hst : t.sequencerStopped e = false := by
    rw [hrec.1]
    exact hs
  obtain ⟨⟨hcmds, hcompleted⟩, u, hu, hfin⟩ := State.finishCmd_kept c hft hst
  have hdrop : EaselDone (s.easel e) (u.dropCmd c.seq) := by
    have heasel := hrec.2.1 e
    rw [hu, EaselDone]
    split
    · rw [heasel]
      rfl
    · rw [heasel]
      rfl
  refine ⟨⟨?_, ?_⟩, hfin.tiles.trans hrec.tiles, hfin.sems.trans hrec.sems, hfin.counters.trans hrec.counters, ?_⟩
  · rw [hcmds, hrec.cmds]
  · rw [hcompleted, hdone]
  · have hlast := hfin.2.1 e
    rw [State.setEasel_easel_self] at hlast
    unfold EaselDone at hdrop ⊢
    rw [hlast, hdrop]

theorem State.reported_finishes {s : State} {e : Nat} (c : Cmd) (hf : (s.easel e).faultAtBoundary = false)
    (hs : s.sequencerStopped e = false) (code e' cls unit seq a b : Nat) :
    Finished e c s ((s.reportSeq code e' cls unit seq a b).finishCmd e c) :=
  State.finishCmd_after c (s.reportSeq_records _ _ _ _ _ _ _) (s.reportSeq_completed _ _ _ _ _ _ _) hf hs

/-! ### LOAD_CANVAS -/

section
variable {s : State} {e : Nat} {c : Cmd} {b : List Byte} {bad verified : Bool}

theorem exec_loadCanvas (hc : (s.easel e).dispatched 2 = some c) (hw : s.works e = true) :
    exec (.loadCanvas e verified) s = .next (s.loadImage e c verified) := by
  have harm : exec (.loadCanvas e verified) s = execLoadCanvas e verified s := rfl
  rw [harm, execLoadCanvas, hc]
  exact if_pos hw

/-- An image that every check passes. -/
theorem State.loadImage_loads (hi : s.image e c = (b, bad)) (hbad : bad = false) (hhead : checkHead b c.paramLen (s.compat e) = none)
    (hsig : checkSignature b = none) (hok : s.signatureOk b verified = true) (himage : s.checkImage e b = none) :
    s.loadImage e c verified = s.onEasel e fun x => { (x.setPhase c.seq .started) with loading := some (imCanvas b) } := by
  subst hbad
  rw [State.loadImage, hi]
  dsimp only
  rw [if_neg Bool.false_ne_true, hhead]
  dsimp only
  rw [hsig]
  dsimp only
  rw [if_neg (by simp [hok]), himage]

theorem State.authFail_finishes (hf : (s.easel e).faultAtBoundary = false) (hs : s.sequencerStopped e = false) (a cause : Nat) :
    Finished e c s ((s.authFail e c.seq a cause).finishCmd e c) := by
  obtain ⟨hended, htiles, hsems, hctrs, heasel⟩ := State.reported_finishes
    (s := { s with trust := { s.trust with authFailures := s.trust.authFailures + 1 } }) c hf hs 0x0A01 e 0x0B 0 c.seq a cause
  exact ⟨hended, htiles, hsems, hctrs, heasel⟩

/-- An image that a check refuses: a record, and the end of the command. -/
theorem State.loadImage_refused (hi : s.image e c = (b, bad)) (hf : (s.easel e).faultAtBoundary = false) (hs : s.sequencerStopped e = false)
    (h : bad = true ∨ checkHead b c.paramLen (s.compat e) ≠ none ∨ checkSignature b ≠ none ∨ s.signatureOk b verified = false ∨
      s.checkImage e b ≠ none) : Finished e c s (s.loadImage e c verified) := by
  rw [State.loadImage, hi]
  dsimp only
  have hfirst : ∀ o, o = (if bad then some (headLocus 0) else checkHead b c.paramLen (s.compat e)) → o = none →
      checkSignature b ≠ none ∨ s.signatureOk b verified = false ∨ s.checkImage e b ≠ none := by
    rintro o ho rfl
    split at ho
    · cases ho
    · next hbad =>
      obtain h | h | h := h
      · exact absurd h hbad
      · exact absurd ho.symm h
      · exact h
  generalize (if bad then some (headLocus 0) else checkHead b c.paramLen (s.compat e)) = first at hfirst ⊢
  cases first with
  | some l => exact State.reported_finishes c hf hs ..
  | none =>
    dsimp only
    replace hfirst := hfirst none rfl rfl
    cases hsig : checkSignature b with
    | some l => exact State.reported_finishes c hf hs ..
    | none =>
      dsimp only
      split
      · exact State.authFail_finishes hf hs _ _
      · next hok =>
        obtain h | h | h := hfirst
        · exact absurd hsig h
        · exact absurd (by simpa using h) hok
        · obtain ⟨⟨code, n, l⟩, hl⟩ := Option.ne_none_iff_exists'.mp h
          rw [hl]
          exact State.reported_finishes c hf hs ..

end

/-! ### A sheet put in force -/

/-- The program of a panel. -/
def Sheet.programOf (d : Sheet) (p : Panel) : List Word64 := match d.programs.find? (·.1 = p.program) with | some w => w.2 | none => []

/-- The tiles of a panel with its program. -/
def State.installPanel (d : Sheet) (e : Nat) (s : State) (p : Panel) : State :=
  (p.tiles.filterMap (s.denseOf e)).foldl (fun s t => s.onTile t fun x => { x with program := d.programOf p }) s

theorem State.installPrograms_eq {s : State} {e : Nat} {d : Sheet} (h : (s.easel e).sheetDef = some d) :
    s.installPrograms e = d.panels.foldl (State.installPanel d e) s := by
  rw [State.installPrograms, h]
  rfl

theorem State.installPanel_only (d : Sheet) (e : Nat) (s : State) (p : Panel) :
    s.installPanel d e p = { s with tiles := (s.installPanel d e p).tiles } := foldl_onTile_rest _ _ s

theorem State.installPrograms_only (s : State) (e : Nat) : s.installPrograms e = { s with tiles := (s.installPrograms e).tiles } := by
  cases h : (s.easel e).sheetDef with
  | none => rw [State.installPrograms, h]
  | some d =>
    rw [State.installPrograms_eq h]
    exact foldl_keeps_state (fun s s' => s' = { s with tiles := s'.tiles }) (fun _ => rfl) (fun a b c h k => by rw [k, h])
      _ (State.installPanel_only d e) _ s

theorem Tile.iterate_program (w : List Word64) (x : Tile) (n : Nat) :
    (fun x : Tile => { x with program := w })^[n] x = if n = 0 then x else { x with program := w } := by
  induction n with
  | zero => rfl
  | succ n ih =>
    rw [Function.iterate_succ_apply', ih]
    split <;> rfl

/-- A tile after the programs of one panel are written. -/
theorem State.installPanel_tile (d : Sheet) (e : Nat) (s : State) (p : Panel) (t : Nat) : (s.installPanel d e p).tile t =
    if t ∈ p.tiles.filterMap (s.denseOf e) then { s.tile t with program := d.programOf p } else s.tile t := by
  rw [State.installPanel, foldl_onTile_tile, Tile.iterate_program]
  by_cases ht : t ∈ p.tiles.filterMap (s.denseOf e)
  · rw [if_neg (List.count_pos_iff.mpr ht).ne', if_pos ht]
  · rw [if_pos (List.count_eq_zero_of_not_mem ht), if_neg ht]

theorem State.installPrograms_regs (s : State) (e t : Nat) : ((s.installPrograms e).tile t).regs = (s.tile t).regs := by
  cases h : (s.easel e).sheetDef with
  | none => rw [State.installPrograms, h]
  | some d =>
    rw [State.installPrograms_eq h]
    refine foldl_keeps_state (fun s s' => (s'.tile t).regs = (s.tile t).regs) (fun _ => rfl) (fun a b c h k => k.trans h) _ (fun s p => ?_) _ s
    rw [State.installPanel_tile]
    split <;> rfl

/-- The tiles of a panel have its program, where no panel with another one has them too. -/
theorem State.installPrograms_program {s : State} {e i t : Nat} {d : Sheet} {p : Panel} (hd : (s.easel e).sheetDef = some d)
    (hp : p ∈ d.panels) (hi : i ∈ p.tiles) (ht : s.denseOf e i = some t)
    (hsame : ∀ q ∈ d.panels, ∀ j ∈ q.tiles, s.denseOf e j = some t → q.program = p.program) :
    ((s.installPrograms e).tile t).program = d.programOf p := by
  rw [State.installPrograms_eq hd]
  refine foldl_establishes (I := fun u : State => u.denseOf e = s.denseOf e) (P := fun u : State => (u.tile t).program = d.programOf p) hp
    (fun u q h => ?_) (fun u h => ?_) (fun u h q hq hP => ?_) rfl
  · rw [State.installPanel_only]
    exact h
  · rw [State.installPanel_tile, if_pos (List.mem_filterMap.mpr ⟨i, hi, h ▸ ht⟩)]
  · rw [State.installPanel_tile]
    split
    · next hmem =>
      obtain ⟨j, hj, hjt⟩ := List.mem_filterMap.mp hmem
      have hprogram := hsame q hq j hj (h ▸ hjt)
      show d.programOf q = d.programOf p
      rw [Sheet.programOf, hprogram, Sheet.programOf]
    · exact hP

theorem State.installSheet_easels (s : State) (e : Nat) : (s.installSheet e).easels = s.easels := by
  unfold State.installSheet State.clearFlows
  rw [State.initialSync_only, State.installPrograms_only]

theorem State.installSheet_tile (s : State) (e t : Nat) : (s.installSheet e).tile t = (s.installPrograms e).tile t := by
  unfold State.installSheet State.clearFlows
  rw [State.initialSync_only]
  rfl

theorem State.installSheet_sem (s : State) (e k : Nat) : (s.installSheet e).sem k = ((s.installPrograms e).initialSync e).sem k := rfl

/-- The sheet is in force wherever its easel, its tiles and its semaphores are as it was installed. -/
theorem State.installSheet_inForce {s s' : State} {e : Nat} (heasel : (s'.easel e).sheetDef = (s.easel e).sheetDef)
    (hcanvas : (s'.easel e).canvas = (s.easel e).canvas) (htiles : s'.tiles = (s.installSheet e).tiles)
    (hsems : s'.sems = (s.installSheet e).sems) : SheetInForce e s' := by
  intro d hd
  rw [heasel] at hd
  have htile (t : Nat) : s'.tile t = (s.installPrograms e).tile t := by
    rw [← State.installSheet_tile, State.tile, htiles, State.tile]
  have hsem (k : Nat) : s'.sem k = ((s.installPrograms e).initialSync e).sem k := by
    rw [← State.installSheet_sem, State.sem, hsems, State.sem]
  have hdense : s'.denseOf e = s.denseOf e := by
    unfold State.denseOf
    rw [hcanvas]
  have hkey : (s'.easel e).semKey = (s.easel e).semKey := by
    unfold Easel.semKey
    rw [hcanvas]
  refine ⟨fun p hp i hi t ht hsame => ?_, fun m hm k hk hsame => ?_⟩
  · rw [hdense] at ht hsame
    rw [htile]
    exact State.installPrograms_program hd hp hi ht hsame
  · rw [hkey] at hk hsame
    rw [hsem]
    have hinstalled : (s.installPrograms e).easel e = s.easel e := by rw [State.installPrograms_only]; rfl
    exact (State.initialSync_sem (by rw [hinstalled]; exact hd) hm (by rw [hinstalled]; exact hk) (by rw [hinstalled]; exact hsame)).1

/-! ### CANVAS_LOADED and SHEET_SWITCHED -/

section
variable {s : State} {e us : Nat} {c : Cmd} {cv : Canvas} {sh : Sheet}

/-- An easel as its sheet is put in force, then the record and the end of the command. -/
theorem State.installed_finishes (y : Easel) (hf : y.faultAtBoundary = false) (hs : s.sequencerStopped e = false)
    (hcmds : y.cmds = (s.easel e).cmds) (hq : ∀ q, y.queueAt q = (s.easel e).queueAt q) (code e' cls unit seq a b : Nat) :
    let s' := (((s.setEasel e y).installSheet e).reportSeq code e' cls unit seq a b).finishCmd e c
    Ended e c s s' ∧ EaselDone y (s'.easel e) ∧ SheetInForce e s' ∧ ∀ t, (s'.tile t).regs = (s.tile t).regs := by
  intro s'
  have heasel : ((s.setEasel e y).installSheet e).easel e = y := by
    rw [State.easel, State.installSheet_easels]
    exact State.setEasel_easel_self _ _ _
  have hseq : ((s.setEasel e y).installSheet e).sequencerStopped e = false := by
    unfold State.installSheet State.clearFlows
    rw [State.initialSync_only, State.installPrograms_only]
    exact hs
  obtain ⟨⟨hcm, hcount⟩, htiles, hsems, -, hdone⟩ :=
    State.reported_finishes c (by rw [heasel]; exact hf) hseq code e' cls unit seq a b
  rw [heasel] at hcm hcount hdone
  refine ⟨⟨hcm.trans (by rw [hcmds]), hcount.trans (by rw [hq])⟩, hdone, ?_, fun t => ?_⟩
  · refine State.installSheet_inForce (s := s.setEasel e y) ?_ ?_ htiles hsems
    · rw [State.setEasel_easel_self, hdone]
      rfl
    · rw [State.setEasel_easel_self, hdone]
  · rw [State.tile, htiles, ← State.tile, State.installSheet_tile, State.installPrograms_regs]
    rfl

theorem exec_canvasLoaded (hl : (s.easel e).loading = some cv) (hc : (s.easel e).running 2 = some c) (hw : s.works e = true) :
    exec (.canvasLoaded e us) s = .next ((((s.setEasel e ((s.easel e).commit cv (s.units e 1))).installSheet e).reportSeq 0x0211 e 0x02 e
      c.seq cv.id (us % 2 ^ 32)).finishCmd e c) := by
  have harm : exec (.canvasLoaded e us) s = execCanvasLoaded e us s := rfl
  rw [harm, execCanvasLoaded]
  dsimp only
  rw [hl, hc]
  exact if_neg (by simp [hw])

theorem exec_sheetSwitch (hc : (s.easel e).dispatched 3 = some c) (hw : s.works e = true) :
    exec (.sheetSwitch e) s = .next (s.onEasel e fun x => x.setPhase c.seq .started) := by
  have harm : exec (.sheetSwitch e) s = execSheetSwitch e s := rfl
  rw [harm, execSheetSwitch, hc]
  exact if_pos hw

theorem exec_sheetSwitched (hc : (s.easel e).running 3 = some c) (hw : s.works e = true) : ∃ unit,
    exec (.sheetSwitched e) s = .next ((((s.setEasel e { s.easel e with sheet := c.argument, moved := none }).installSheet e).reportSeq
      0x0210 e 0x03 unit c.seq ((s.easel e).sheet + c.argument * 256) 0).finishCmd e c) := by
  have harm : exec (.sheetSwitched e) s = execSheetSwitched e s := rfl
  rw [harm, execSheetSwitched]
  dsimp only
  rw [hc]
  exact ⟨_, if_neg (by simp [hw])⟩

/-! ### REWEIGHT and PANEL_REWEIGHTED -/

theorem exec_reweight (hc : (s.easel e).dispatched 4 = some c) (hd : (s.easel e).sheetDef = some sh) (hw : s.works e = true) :
    exec (.reweight e) s = match checkReweight (s.blockOf e c) sh with
      | .inl (r, k) => .next ((s.reportSeq 0x0214 e 0x03 (s.sequencer e) c.seq 0 (r + k * 256)).finishCmd e c)
      | .inr sh' => .next (s.setEasel e { (s.easel e).setPhase c.seq .started with rearranged := some sh' }) := by
  have harm : exec (.reweight e) s = execReweight e s := rfl
  rw [harm, execReweight]
  dsimp only
  rw [hc, hd]
  exact if_neg (by simp [hw])

theorem exec_panelReweighted (hc : (s.easel e).running 4 = some c) (hr : (s.easel e).rearranged = some sh) (hw : s.works e = true) : ∃ unit a,
    exec (.panelReweighted e us) s = .next ((((s.setEasel e { s.easel e with moved := some sh, rearranged := none }).installPrograms e).reportSeq
      0x0213 e 0x03 unit c.seq a (us % 2 ^ 32)).finishCmd e c) := by
  have harm : exec (.panelReweighted e us) s = execPanelReweighted e us s := rfl
  rw [harm, execPanelReweighted]
  dsimp only
  rw [hc, hr]
  exact ⟨_, _, if_neg (by simp [hw])⟩

end

/-- The new arrangement in force, then the record and the end of the command. -/
theorem State.reweighted_finishes {s : State} {e : Nat} {c : Cmd} (sh : Sheet) (hcv : (s.easel e).canvas.isSome = true)
    (hf : (s.easel e).faultAtBoundary = false) (hs : s.sequencerStopped e = false) (code e' cls unit seq a b : Nat) :
    let y : Easel := { s.easel e with moved := some sh, rearranged := none }
    let s' := (((s.setEasel e y).installPrograms e).reportSeq code e' cls unit seq a b).finishCmd e c
    Ended e c s s' ∧ EaselDone y (s'.easel e) ∧ s'.sems = s.sems ∧ s'.counters = s.counters ∧
      ∀ p ∈ sh.panels, ∀ i ∈ p.tiles, ∀ t, s.denseOf e i = some t →
        (∀ q ∈ sh.panels, ∀ j ∈ q.tiles, s.denseOf e j = some t → q.program = p.program) → (s'.tile t).program = sh.programOf p := by
  intro y s'
  have hy : (s.setEasel e y).easel e = y := State.setEasel_easel_self _ _ _
  have hrest := (s.setEasel e y).installPrograms_only e
  have heasel : ((s.setEasel e y).installPrograms e).easel e = y := by
    rw [hrest]
    exact hy
  have hseq : ((s.setEasel e y).installPrograms e).sequencerStopped e = false := by
    rw [hrest]
    exact hs
  have hdense : (s.setEasel e y).denseOf e = s.denseOf e := by
    unfold State.denseOf
    rw [hy]
  have hdef : ((s.setEasel e y).easel e).sheetDef = some sh := by
    rw [hy]
    exact if_pos hcv
  obtain ⟨hended, htiles, hsems, hctrs, hdone⟩ := State.reported_finishes c (by rw [heasel]; exact hf) hseq code e' cls unit seq a b
  unfold Ended at hended
  rw [heasel] at hended hdone
  refine ⟨hended, hdone, hsems.trans (by rw [hrest]; rfl), hctrs.trans (by rw [hrest]; rfl), fun p hp i hi t ht hsame => ?_⟩
  rw [State.tile, htiles, ← State.tile]
  exact State.installPrograms_program hdef hp hi (hdense ▸ ht) (hdense ▸ hsame)

/-- Settles O34: the load that passes, the one that a check refuses, and the commit. -/
theorem canvasLoads : Obligations.CanvasLoads := by
  unfold Obligations.CanvasLoads
  refine ⟨fun s e verified c b bad hc hw hi => ⟨fun hbad hhead hsig hok himage => ?_, fun h hf hs => ?_⟩,
    fun s e us c cv hl hc hw hf hs => ?_⟩
  · have hexec := exec_loadCanvas (verified := verified) hc hw
    rw [State.loadImage_loads hi hbad hhead hsig hok himage] at hexec
    refine ⟨_, hexec, ?_⟩
    unfold Started
    dsimp only [OnlyEasel]
    rw [State.onEasel_easel_self]
    exact ⟨rfl, Easel.setPhase_started (Easel.mem_of_dispatched hc) _, rfl, rfl⟩
  · obtain ⟨hended, htiles, -, -, hdone⟩ := State.loadImage_refused (verified := verified) hi hf hs h
    refine ⟨_, exec_loadCanvas hc hw, hended, ?_, ?_, htiles⟩ <;> rw [hdone]
  · obtain ⟨hended, hdone, hforce, hregs⟩ := State.installed_finishes (c := c) ((s.easel e).commit cv (s.units e 1)) hf hs rfl (fun _ => rfl)
      0x0211 e 0x02 e c.seq cv.id (us % 2 ^ 32)
    refine ⟨_, exec_canvasLoaded hl hc hw, hended, ?_, ?_, ?_, ?_, hforce, hregs⟩ <;> rw [hdone] <;> rfl

/-- Settles O35: a switch and a reweight, from their start to their end. -/
theorem sheetsAndPanels : Obligations.SheetsAndPanels := by
  unfold Obligations.SheetsAndPanels
  refine ⟨fun s e c hc hw => ⟨_, exec_sheetSwitch hc hw, ?_⟩, fun s e c hc hw hf hs => ?_,
    fun s e c sh hc hd hw => ⟨fun sh' hr => ?_, fun r hr hf hs => ?_⟩, fun s e us c sh hc hr hw hcv hf hs => ?_⟩
  · unfold Started
    dsimp only [OnlyEasel]
    rw [State.onEasel_easel_self]
    exact ⟨rfl, Easel.setPhase_started (Easel.mem_of_dispatched hc) _, rfl⟩
  · obtain ⟨unit, hexec⟩ := exec_sheetSwitched hc hw
    obtain ⟨hended, hdone, hforce, -⟩ := State.installed_finishes (c := c) { s.easel e with sheet := c.argument, moved := none } hf hs rfl (fun _ => rfl)
      0x0210 e 0x03 unit c.seq ((s.easel e).sheet + c.argument * 256) 0
    refine ⟨_, hexec, hended, ?_, ?_, ?_, hforce⟩ <;> rw [hdone]
  · have hexec := exec_reweight hc hd hw
    rw [hr] at hexec
    refine ⟨_, hexec, ?_⟩
    unfold Started
    dsimp only [OnlyEasel]
    rw [State.setEasel_easel_self]
    exact ⟨rfl, Easel.setPhase_started (Easel.mem_of_dispatched hc) _, rfl, hd⟩
  · have hexec := exec_reweight hc hd hw
    rw [hr] at hexec
    obtain ⟨hended, htiles, hsems, -, hdone⟩ := State.reported_finishes c hf hs 0x0214 e 0x03 (s.sequencer e) c.seq 0 (r.1 + r.2 * 256)
    refine ⟨_, hexec, hended, ?_, htiles, hsems⟩
    rw [hdone]
    exact hd
  · obtain ⟨unit, a, hexec⟩ := exec_panelReweighted (us := us) hc hr hw
    obtain ⟨hended, hdone, hsems, hctrs, hprogram⟩ := State.reweighted_finishes sh hcv hf hs 0x0213 e 0x03 unit c.seq a (us % 2 ^ 32)
    refine ⟨_, hexec, hended, ?_, ?_, hsems, hctrs, hprogram⟩
    · rw [hdone]
      exact if_pos hcv
    · rw [hdone]

end Sys2Proof.Machine
end

section
/-! PROOFS. What stops the VBUS domain (R438, R446), and the power loop (R444). -/

namespace Sys2Proof.Machine

/-! ### The planes without their state -/

/-- An easel without its state: FREE, with the numbers that a key and a record take. -/
def Easel.emptied (x : Easel) : Easel := { Easel.reset with keyEpoch := x.keyEpoch, lastSeq := x.lastSeq }

theorem State.freeze_only (s : State) : ∃ f, (if s.vbusUp then s.freeze else s) = { s with dict := { s.dict with frozen := f } } := by
  split
  · exact ⟨_, rfl⟩
  · exact ⟨s.dict.frozen, rfl⟩

/-- What the loss of the planes takes and keeps where no request runs. -/
structure WithoutPlanes (s s' : State) : Prop where
  planes : PlanesLost s s'
  power : s'.power = { s.power with calibrated := false, waitRefclk := false }
  dict : ∃ f, s'.dict = { s.dict with frozen := f }
  easel : ∀ e, s'.easel e = (s.easel e).emptied

theorem State.losePlanes_easel {s s' : State} (h : s'.easels = s.easels.map fun p => (p.1, p.2.emptied)) (e : Nat) :
    s'.easel e = (s.easel e).emptied := by
  rw [State.easel, h]
  exact tget_tmap Easel.reset (fun _ => Easel.emptied) s.easels e rfl

theorem State.losePlanes_lost {s : State} (h : s.bind.request = none) : WithoutPlanes s s.losePlanes := by
  obtain ⟨f, hf⟩ := s.freeze_only
  unfold State.losePlanes
  rw [hf]
  dsimp only
  rw [h]
  refine ⟨⟨fun e => ?_, rfl, rfl, rfl, rfl, rfl, rfl, rfl, rfl⟩, rfl, ⟨f, rfl⟩, State.losePlanes_easel rfl⟩
  rw [State.losePlanes_easel (s := s) rfl e]
  exact ⟨rfl, rfl, rfl⟩

/-- A change that leaves the planes and the power supply's calibration to what the loss makes of them. -/
theorem PlanesLost.congr {s t u : State} (h : PlanesLost s t) (he : u.easels = t.easels) (hb : u.bind = t.bind) (hm : u.mem = t.mem)
    (ht : u.tiles = t.tiles) (hs : u.sems = t.sems) (hf : u.flash = t.flash) (htr : u.trust = t.trust) : PlanesLost s u := by
  obtain ⟨h1, h2, h3, h4, h5, h6, h7, h8, h9⟩ := h
  unfold PlanesLost
  rw [hb, hm, ht, hs, hf, htr]
  refine ⟨fun e => ?_, h2, h3, h4, h5, h6, h7, h8, h9⟩
  rw [State.easel, he]
  exact h1 e

/-- The domain stopped: its planes are lost, its cause and its record kept. -/
theorem State.stopVbus_stops {s : State} (h : s.bind.request = none) (state cause : Nat) (v : Event) :
    PlanesLost s (s.stopVbus state cause v) ∧ (s.stopVbus state cause v).power = { s.power with
      calibrated := false, waitRefclk := false, vbusState := state, stopCause := cause, stopRecord := some v } ∧
    (s.stopVbus state cause v).dict.values = s.dict.values := by
  obtain ⟨hplanes, hpower, ⟨f, hdict⟩, -⟩ := State.losePlanes_lost h
  unfold State.stopVbus
  dsimp only
  refine ⟨PlanesLost.congr hplanes rfl rfl rfl rfl rfl rfl rfl, ?_, ?_⟩
  · rw [State.copyIn, hpower]
  · have hvalues : s.losePlanes.dict.values = s.dict.values := by rw [hdict]
    rw [← hvalues, State.copyIn, Dict.accept]
    split <;> rfl

/-! ### What stops the domain -/

/-- A stop with the record of a supply. -/
def State.stopFor (s : State) (cause a : Nat) : State := s.stopVbus 3 cause { supplyRecord cause a with seq := (s.easel 0).lastSeq }

section
variable {s : State} {n : Nat}

theorem exec_vbusCollapse (hon : s.vbusOn = true) (hn : n < 10000) : exec (.vbusCollapse n) s = .next
    { (s.markCause 3).stopFor 3 n with power := { ((s.markCause 3).stopFor 3 n).power with vbus := false } } := by
  have harm : exec (.vbusCollapse n) s = execVbusCollapse n s := rfl
  rw [harm, execVbusCollapse]
  exact if_pos (by simp [hon, hn])

theorem exec_powerStageFailedOutOfRating (hon : s.vbusOn = true) : exec (.powerStageFailedOutOfRating n) s = .next
    (((s.retireStage n).markCause 7).stopFor 7 n) := by
  have harm : exec (.powerStageFailedOutOfRating n) s = execPowerStageFailedOutOfRating n s := rfl
  rw [harm, execPowerStageFailedOutOfRating]
  exact if_neg (by simp [hon])

theorem exec_pcieRefclkLost (hup : s.vbusUp = true) : exec (.pcieRefclkLost n) s = .next
    { (s.markCause 9).stopFor 9 n with power := { ((s.markCause 9).stopFor 9 n).power with refclk := false } } := by
  have harm : exec (.pcieRefclkLost n) s = execPcieRefclkLost n s := rfl
  rw [harm, execPcieRefclkLost]
  exact if_neg (by simp [hup])

/-- The trip noted, before the domain stops. -/
def State.tripped (s : State) (die celsius : Nat) : State :=
  { s with power := { s.power with
      thermTrip := true, thermalTrips := s.power.thermalTrips + 1,
      dieTemps := (Machine.padded 12 s.power.dieTemps).set die (milliF32 (celsius * 1000)) } }

theorem exec_thermalTrip {die : Nat} (hon : s.vbusOn = true) (hn : 115 ≤ n) (hdie : die < 12) : exec (.thermalTrip die n) s = .next
    ((s.tripped die n).stopVbus 4 thermalCause (overtempRecord s die (n * 1000) 2)) := by
  have harm : exec (.thermalTrip die n) s = execThermalTrip die n s := rfl
  rw [harm, execThermalTrip]
  exact if_neg (by simp [hon, Nat.not_lt.mpr hn, Nat.not_le.mpr hdie])

theorem exec_vauxOutOfRange_low (hv : s.power.vaux = true) (hn : n < 3000) : exec (.vauxOutOfRange n) s = .next s.loseVaux := by
  have harm : exec (.vauxOutOfRange n) s = execVauxOutOfRange n s := rfl
  have hrange : ¬ 3135 ≤ n := by omega
  rw [harm, execVauxOutOfRange, if_neg (by simp [hv, hrange])]
  exact if_pos hn

end

/-- Settles O56: each stop loses the planes and keeps its cause. -/
theorem domainStops : Obligations.DomainStops := by
  unfold Obligations.DomainStops
  refine ⟨fun s c state cause n hreq h => ?_, fun s mv hreq hv hmv => ?_⟩
  · obtain ⟨rfl, rfl, rfl, hon, hn⟩ | ⟨rfl, rfl, rfl, hon⟩ | ⟨rfl, rfl, rfl, hup⟩ | ⟨die, rfl, rfl, rfl, hon, hn, hdie⟩ := h
    · refine ⟨_, exec_vbusCollapse hon hn, ?_⟩
      obtain ⟨hplanes, hpower, hvalues⟩ := State.stopVbus_stops (s := s.markCause 3) hreq 3 3
        { supplyRecord 3 n with seq := ((s.markCause 3).easel 0).lastSeq }
      rw [State.stopFor]
      generalize State.stopVbus _ _ _ _ = t at hplanes hpower hvalues ⊢
      dsimp only
      rw [hpower]
      exact ⟨PlanesLost.congr hplanes rfl rfl rfl rfl rfl rfl rfl, rfl, rfl, rfl, hvalues, fun _ => rfl, nofun, nofun, nofun⟩
    · refine ⟨_, exec_powerStageFailedOutOfRating hon, ?_⟩
      obtain ⟨hplanes, hpower, hvalues⟩ := State.stopVbus_stops (s := (s.retireStage n).markCause 7) hreq 3 7
        { supplyRecord 7 n with seq := (((s.retireStage n).markCause 7).easel 0).lastSeq }
      rw [State.stopFor]
      generalize State.stopVbus _ _ _ _ = t at hplanes hpower hvalues ⊢
      rw [hpower]
      exact ⟨hplanes, rfl, rfl, rfl, hvalues, nofun, nofun, fun _ => (mem_insertSet _ _ _).mpr (.inl rfl), nofun⟩
    · refine ⟨_, exec_pcieRefclkLost hup, ?_⟩
      obtain ⟨hplanes, hpower, hvalues⟩ := State.stopVbus_stops (s := s.markCause 9) hreq 3 9
        { supplyRecord 9 n with seq := ((s.markCause 9).easel 0).lastSeq }
      rw [State.stopFor]
      generalize State.stopVbus _ _ _ _ = t at hplanes hpower hvalues ⊢
      dsimp only
      rw [hpower]
      exact ⟨PlanesLost.congr hplanes rfl rfl rfl rfl rfl rfl rfl, rfl, rfl, rfl, hvalues, nofun, fun _ => rfl, nofun, nofun⟩
    · refine ⟨_, exec_thermalTrip hon hn hdie, ?_⟩
      obtain ⟨hplanes, hpower, hvalues⟩ := State.stopVbus_stops (s := s.tripped die n) hreq 4 thermalCause (overtempRecord s die (n * 1000) 2)
      generalize State.stopVbus _ _ _ _ = t at hplanes hpower hvalues ⊢
      rw [hpower]
      exact ⟨hplanes, rfl, rfl, rfl, hvalues, nofun, nofun, nofun, fun _ => ⟨rfl, rfl⟩⟩
  · refine ⟨_, exec_vauxOutOfRange_low hv hmv, ?_⟩
    obtain ⟨hplanes, -, -, -⟩ := State.losePlanes_lost hreq
    unfold State.loseVaux
    exact ⟨PlanesLost.congr hplanes rfl rfl rfl rfl rfl rfl rfl, rfl, rfl, rfl, rfl⟩

/-! ### The power loop -/

/-- Records of temperatures: nothing else changes but which dies are hot. -/
theorem State.overtemps_records (s : State) (temps : List Nat) : ∃ hot,
    RecordsOnly { s with power := { s.power with hotDies := hot } } (s.overtemps temps) :=
  ⟨_, foldl_keeps_state RecordsOnly .refl (fun _ _ _ => .trans) _ (fun s _ => s.raise_records _) _ _⟩

/-- The rail, the limit and the units after an evaluation. -/
theorem exec_powerLoopTick {s : State} (r : Readings) (hrun : s.dict.running = true) (hvaux : s.power.vaux = true) (hup : s.vbusUp = true) :
    Completes (.powerLoopTick r) s fun s' => s'.tiles = s.tiles ∧ s'.sems = s.sems ∧ s'.bind = s.bind ∧
      s'.power.overLimit = s.overNow r ∧ s'.power.coreMv = s.nextCoreMv r := by
  have harm : exec (.powerLoopTick r) s = execPowerLoopTick r s := rfl
  unfold Completes
  rw [harm, execPowerLoopTick, if_neg (by simp [hrun, hvaux])]
  dsimp only
  rw [if_neg (by simpa [State.clearCauses, State.vbusUp] using hup)]
  generalize ht : State.clearCauses _ (fun c => c = 1 && decide (10800 ≤ r.v10) || _ || _) = t
  obtain ⟨hot, hrec⟩ := t.overtemps_records (r.temps.take 12)
  have hpower : (t.overtemps (r.temps.take 12)).power = { t.power with hotDies := hot } := by rw [hrec.1]
  refine ⟨_, rfl, hrec.tiles.trans ?_, hrec.sems.trans ?_, hrec.bind.trans ?_, ?_, ?_⟩
  · rw [← ht]; rfl
  · rw [← ht]; rfl
  · rw [← ht]; rfl
  · rw [hpower, ← ht]; rfl
  · rw [hpower, ← ht]; rfl

theorem State.overNow_iff (s : State) (r : Readings) : s.overNow r = true ↔
    min (policy s 0x2000 1 * 1000) (290 * r.v10) < r.p100 ∨ 290000 < r.i10 ∨ (policy s 0x2000 2 = 0 ∧ ∃ t ∈ r.temps, 103000 < t) := by
  simp [State.overNow, State.powerLimit, or_assoc]

/-- Whether the loop has room to raise the rail. -/
def State.railMargin (s : State) (r : Readings) : Bool :=
  decide (r.p100 * 100 < 98 * s.powerLimit r.v10) && decide (r.i10 < 284000)
    && (policy s 0x2000 2 = 1 || r.temps.all fun t => decide (t < 100000))

theorem State.railMargin_iff (s : State) (r : Readings) : s.railMargin r = true ↔
    r.p100 * 100 < 98 * min (policy s 0x2000 1 * 1000) (290 * r.v10) ∧ r.i10 < 284000 ∧ (policy s 0x2000 2 = 1 ∨ ∀ t ∈ r.temps, t < 100000) := by
  simp only [State.railMargin, State.powerLimit, Bool.and_eq_true, Bool.or_eq_true, decide_eq_true_eq, List.all_eq_true, and_assoc]
  exact and_congr decide_eq_true_iff Iff.rfl

theorem State.nextCoreMv_eq (s : State) (r : Readings) : s.nextCoreMv r =
    if s.overNow r && decide (550 < s.power.coreMv) then s.power.coreMv - 5
    else if !s.overNow r && decide (s.power.coreMv < policy s 0x2000 3) && s.railMargin r then s.power.coreMv + 5
    else if !s.overNow r && decide (policy s 0x2000 3 < s.power.coreMv) then s.power.coreMv - 5
    else s.power.coreMv := by
  simp only [State.nextCoreMv, State.railMargin, Bool.and_assoc]

/-- Settles O58: the rail's step by whether the device is over its limit, where the rail stands, and whether there is margin. -/
theorem railFollowsLoad : Obligations.RailFollowsLoad := by
  unfold Obligations.RailFollowsLoad
  rintro s r hrun hvaux hup mv set limit rfl rfl rfl above habove margin hmargin
  obtain ⟨s', hexec, htiles, hsems, hbind, hover, hmv⟩ := exec_powerLoopTick r hrun hvaux hup
  rw [← State.overNow_iff] at habove
  rw [← State.railMargin_iff] at hmargin
  rw [State.nextCoreMv_eq] at hmv
  refine ⟨s', hexec, htiles, hsems, hbind, by rw [hover, habove], ?_⟩
  have hfree (h : ¬above) : s.overNow r = false := by simpa using habove.not.mp h
  rw [hmv]
  refine ⟨fun ha hm => ?_, fun ha hm => ?_, fun ha hm hg => ?_, fun ha hm hg => ?_, fun ha hm => ?_, fun ha hm => ?_⟩
  · simp [habove.mp ha, hm]
  · simp [habove.mp ha, Nat.not_lt.mpr hm]
  · simp [hfree ha, hm, hmargin.mp hg]
  · have hno : s.railMargin r = false := by simpa using hmargin.not.mp hg
    simp [hfree ha, hno, Nat.not_lt.mpr hm.le]
  · simp [hfree ha, Nat.not_lt.mpr hm.le, hm]
  · simp [hfree ha, hm]

end Sys2Proof.Machine
end

section
/-! PROOFS. What the clearing of units, the stop of an easel and the loss of its canvas leave alone (R52, R55, R58). -/

namespace Sys2Proof.Machine

/-! ### The face of an easel -/

/-- What of an easel the clearing of units leaves alone: its mode, its canvas and its key. -/
def SameFace (x y : Easel) : Prop := y.mode = x.mode ∧ y.canvas = x.canvas ∧ y.keyEpoch = x.keyEpoch

theorem SameFace.refl (x : Easel) : SameFace x x := ⟨rfl, rfl, rfl⟩
theorem SameFace.trans {x y z : Easel} (h : SameFace x y) (k : SameFace y z) : SameFace x z :=
  ⟨k.1.trans h.1, k.2.1.trans h.2.1, k.2.2.trans h.2.2⟩

/-- Where easel `e` alone is at stake: the other easels keep their face and their commands, and power, the host link and the trust state
stand. -/
structure OthersKept (e : Nat) (s s' : State) : Prop where
  face : ∀ f, f ≠ e → SameFace (s.easel f) (s'.easel f)
  cmds : ∀ f, f ≠ e → (s'.easel f).cmds = (s.easel f).cmds
  power : s'.power = s.power
  host : s'.host = s.host

/-- Units of easel `e` cleared: as for the other easels, and `e` keeps its face, gets no command, and the bindings stand. -/
structure Cleared (e : Nat) (s s' : State) : Prop where
  others : OthersKept e s s'
  self : SameFace (s.easel e) (s'.easel e)
  idle : (s.easel e).cmds = [] → (s'.easel e).cmds = []
  bind : s'.bind = s.bind

theorem OthersKept.refl (e : Nat) (s : State) : OthersKept e s s := ⟨fun _ _ => .refl _, fun _ _ => rfl, rfl, rfl⟩

theorem OthersKept.trans {e : Nat} {a b c : State} (h : OthersKept e a b) (k : OthersKept e b c) : OthersKept e a c :=
  ⟨fun f hf => (h.face f hf).trans (k.face f hf), fun f hf => (k.cmds f hf).trans (h.cmds f hf), k.power.trans h.power, k.host.trans h.host⟩

theorem Cleared.refl (e : Nat) (s : State) : Cleared e s s := ⟨.refl e s, .refl _, id, rfl⟩

theorem Cleared.trans {e : Nat} {a b c : State} (h : Cleared e a b) (k : Cleared e b c) : Cleared e a c :=
  ⟨h.others.trans k.others, h.self.trans k.self, k.idle ∘ h.idle, k.bind.trans h.bind⟩

/-- A change outside the easels, power, the host link and the bindings. -/
theorem Cleared.of_fields {e : Nat} {s s' : State} (he : s'.easels = s.easels) (hb : s'.bind = s.bind) (hp : s'.power = s.power)
    (hh : s'.host = s.host) : Cleared e s s' := by
  have heasel (f : Nat) : s'.easel f = s.easel f := by rw [State.easel, he, State.easel]
  exact ⟨⟨fun f _ => heasel f ▸ .refl _, fun f _ => by rw [heasel], hp, hh⟩, heasel e ▸ .refl _, fun h => by rw [heasel]; exact h, hb⟩

theorem OthersKept.of_fields {e : Nat} {s s' : State} (he : s'.easels = s.easels) (hp : s'.power = s.power) (hh : s'.host = s.host) :
    OthersKept e s s' := by
  have heasel (f : Nat) : s'.easel f = s.easel f := by rw [State.easel, he, State.easel]
  exact ⟨fun f _ => heasel f ▸ .refl _, fun f _ => by rw [heasel], hp, hh⟩

/-- A change of easel `e` alone. -/
theorem State.setEasel_others (s : State) (e : Nat) (x : Easel) : OthersKept e s (s.setEasel e x) :=
  ⟨fun f hf => by rw [State.setEasel_easel_ne _ _ _ _ hf]; exact .refl _, fun f hf => by rw [State.setEasel_easel_ne _ _ _ _ hf], rfl, rfl⟩

theorem State.onEasel_others (s : State) (e : Nat) (g : Easel → Easel) : OthersKept e s (s.onEasel e g) := s.setEasel_others e _

theorem State.onEasel_cleared {s : State} {e : Nat} {g : Easel → Easel} (hface : SameFace (s.easel e) (g (s.easel e)))
    (hidle : (s.easel e).cmds = [] → (g (s.easel e)).cmds = []) : Cleared e s (s.onEasel e g) :=
  ⟨s.onEasel_others e g, by rw [State.onEasel_easel_self]; exact hface, by rw [State.onEasel_easel_self]; exact hidle, rfl⟩

theorem RecordsOnly.power {s s' : State} (h : RecordsOnly s s') : s'.power = s.power := by rw [h.1]
theorem RecordsOnly.host {s s' : State} (h : RecordsOnly s s') : s'.host = s.host := by rw [h.1]

theorem RecordsOnly.face {s s' : State} (h : RecordsOnly s s') (f : Nat) : SameFace (s.easel f) (s'.easel f) := by
  rw [h.2.1 f]
  exact .refl _

theorem RecordsOnly.cleared {e : Nat} {s s' : State} (h : RecordsOnly s s') : Cleared e s s' :=
  ⟨⟨fun f _ => h.face f, fun f _ => h.cmds f, h.power, h.host⟩, h.face e, fun k => (h.cmds e).trans k, h.bind⟩

theorem Cleared.foldl {α : Type} {e : Nat} {f : State → α → State} (h : ∀ s x, Cleared e s (f s x)) (l : List α) (s : State) :
    Cleared e s (l.foldl f s) := foldl_keeps_state (Cleared e) (.refl e) (fun _ _ _ => .trans) f h l s

theorem OthersKept.foldl {α : Type} {e : Nat} {f : State → α → State} (h : ∀ s x, OthersKept e s (f s x)) (l : List α) (s : State) :
    OthersKept e s (l.foldl f s) := foldl_keeps_state (OthersKept e) (.refl e) (fun _ _ _ => .trans) f h l s

/-! ### Units cleared -/

theorem State.clearTile_cleared (e : Nat) (s : State) (t : Nat) : Cleared e s (s.clearTile t) := .of_fields rfl rfl rfl rfl

/-- A change of every easel that leaves its face and its commands. -/
theorem tmap_easels_cleared {e : Nat} {s s' : State} {g : Easel → Easel} (he : s'.easels = tmap (fun _ x => g x) s.easels)
    (hreset : g Easel.reset = Easel.reset) (hface : ∀ x, SameFace x (g x)) (hcmds : ∀ x, (g x).cmds = x.cmds) (hb : s'.bind = s.bind)
    (hp : s'.power = s.power) (hh : s'.host = s.host) : Cleared e s s' := by
  have heasel (f : Nat) : s'.easel f = g (s.easel f) := by
    rw [State.easel, he]
    exact tget_tmap _ _ _ _ hreset
  exact ⟨⟨fun f _ => heasel f ▸ hface _, fun f _ => by rw [heasel, hcmds], hp, hh⟩, heasel e ▸ hface _,
    fun h => by rw [heasel, hcmds]; exact h, hb⟩

theorem State.clearChannel_cleared (e : Nat) (s : State) (v : Nat) (released : Bool) : Cleared e s (s.clearChannel v released) :=
  tmap_easels_cleared (g := fun x => { x with firings := x.firings.filter (·.channel != v), fired := x.fired.filter (·.1 != v) })
    rfl rfl (fun _ => ⟨rfl, rfl, rfl⟩) (fun _ => rfl) rfl rfl rfl

theorem State.clearUnits_cleared (e : Nat) (s : State) (cls first count : Nat) (released erase : Bool) :
    Cleared e s (s.clearUnits cls first count released erase) := by
  unfold State.clearUnits
  dsimp only
  split
  · exact Cleared.foldl (State.clearTile_cleared e) _ s
  · exact .of_fields rfl rfl rfl rfl
  · exact .of_fields rfl rfl rfl rfl
  · exact .of_fields rfl rfl rfl rfl
  · exact .of_fields rfl rfl rfl rfl
  · exact .of_fields rfl rfl rfl rfl
  · exact Cleared.foldl (fun s v => s.clearChannel_cleared e v released) _ s
  · exact .of_fields rfl rfl rfl rfl
  · exact .of_fields rfl rfl rfl rfl
  · split
    · exact .of_fields rfl rfl rfl rfl
    · exact .refl e s
  · exact .refl e s

theorem Easel.clearQueue_face (x : Easel) (q v : Nat) : SameFace x (x.clearQueue q v) := ⟨rfl, rfl, rfl⟩

theorem Easel.clearQueue_idle {x : Easel} (h : x.cmds = []) (q v : Nat) : (x.clearQueue q v).cmds = [] := by
  have hm : (x.maskVector (x.queueAt q).vector).cmds = [] := h
  rw [Easel.clearQueue]
  dsimp only
  rw [hm]
  rfl

theorem State.clearQueue_cleared (e : Nat) (s : State) (q v : Nat) : Cleared e s (s.onEasel e fun y => y.clearQueue q v) :=
  State.onEasel_cleared (Easel.clearQueue_face _ q v) fun h => Easel.clearQueue_idle h q v

theorem State.clearQueues_cleared (e : Nat) (s : State) (first count : Nat) : Cleared e s (s.clearQueues e first count) :=
  Cleared.foldl (fun s _ => Cleared.foldl (fun s _ => s.clearQueue_cleared e _ _) _ s) _ s

theorem State.clearEasel_cleared (e : Nat) (s : State) (memory : Bool) : Cleared e s (s.clearEasel e memory) := by
  unfold State.clearEasel
  dsimp only
  refine Cleared.trans (Cleared.foldl (fun s x => ?_) _ s) (State.onEasel_cleared ⟨rfl, rfl, rfl⟩ fun _ => rfl)
  split
  · exact Cleared.foldl (fun s q => s.clearQueue_cleared e q 0) _ s
  · exact s.clearUnits_cleared e _ _ _ _ _

/-- A cleared easel has no command. -/
theorem State.clearEasel_cmds (e : Nat) (s : State) (memory : Bool) : ((s.clearEasel e memory).easel e).cmds = [] := by
  unfold State.clearEasel
  dsimp only
  rw [State.onEasel_easel_self]

/-! ### An easel stopped, unloaded and freed -/

theorem StopOnly.bind {s s' : State} (h : StopOnly s s') : s'.bind = s.bind := by rw [h.1]
theorem StopOnly.power {s s' : State} (h : StopOnly s s') : s'.power = s.power := by rw [h.1]
theorem StopOnly.host {s s' : State} (h : StopOnly s s') : s'.host = s.host := by rw [h.1]

theorem State.stopEasel_cleared (e : Nat) (s : State) : Cleared e s (s.stopEasel e) := by
  have hframe := s.stopEasel_frame e
  have hself := s.stopEasel_easel e
  exact ⟨⟨fun f hf => by rw [State.stopEasel_other s e f hf]; exact .refl _, fun f hf => by rw [State.stopEasel_other s e f hf],
    hframe.power, hframe.host⟩, by rw [hself]; exact ⟨rfl, rfl, rfl⟩, fun _ => by rw [hself], hframe.bind⟩

/-- A canvas gone: nothing of the easel's mode, key and commands changes, nor of the bindings. -/
theorem State.unloadCanvas_kept (e : Nat) (s : State) : OthersKept e s (s.unloadCanvas e) ∧ ((s.unloadCanvas e).easel e).canvas = none ∧
    ((s.unloadCanvas e).easel e).mode = (s.easel e).mode ∧ ((s.unloadCanvas e).easel e).keyEpoch = (s.easel e).keyEpoch ∧
    ((s.unloadCanvas e).easel e).cmds = (s.easel e).cmds ∧ (s.unloadCanvas e).bind = s.bind := by
  unfold State.unloadCanvas
  split
  · next cv _ =>
    have hrec := s.report_records 0x0212 e 0x02 e cv.id 0
    have hface := hrec.face e
    refine ⟨hrec.cleared.others.trans (State.onEasel_others _ e _), ?_⟩
    rw [State.onEasel_easel_self]
    exact ⟨rfl, hface.1, hface.2.2, hrec.cmds e, hrec.bind⟩
  · next hnone => exact ⟨.refl e s, hnone, rfl, rfl, rfl, rfl⟩

theorem State.freeEasel_others (e : Nat) (s : State) : OthersKept e s (s.freeEasel e) := by
  have hforget : OthersKept e s (s.forgetRemotes e) := .of_fields rfl rfl rfl
  exact hforget.trans (State.onEasel_others _ e _)

theorem State.invalidate_others (e : Nat) (s : State) : OthersKept e s s.invalidate := .of_fields rfl rfl rfl

theorem State.freeEasel_mode (e : Nat) (s : State) : ((s.freeEasel e).easel e).mode = .free := by
  rw [State.freeEasel, State.onEasel_easel_self]
  rfl

theorem State.retirePages_others (e : Nat) (s : State) (cls first count : Nat) : OthersKept e s (s.retirePages e cls first count) := by
  unfold State.retirePages
  dsimp only
  split
  · refine OthersKept.foldl (fun s p => ?_) _ s
    refine OthersKept.trans ?_ (State.report_records _ _ _ _ _ _ _).cleared.others
    exact .of_fields rfl rfl rfl
  · exact .refl e s

theorem State.releaseRuns_others (e : Nat) (s : State) (l : List (Nat × Nat × Nat)) (erase : Bool) : OthersKept e s (s.releaseRuns e l erase) := by
  refine OthersKept.foldl (fun s r => ?_) l s
  dsimp only
  have hunbind (t : State) : OthersKept e t (t.unbindRun r.1 r.2.1 r.2.2) := .of_fields rfl rfl rfl
  refine OthersKept.trans (OthersKept.trans ?_ (State.retirePages_others e _ _ _ _)) (hunbind _)
  split
  · exact (s.clearQueues_cleared e _ _).others
  · exact (s.clearUnits_cleared e _ _ _ _ _).others

theorem State.revoked_records (s : State) (e cause : Nat) : RecordsOnly s (s.revoked e cause) := s.tell_records _ _

/-- A revocation frees its easel, and leaves the others. -/
theorem State.revokeEasel_others (e : Nat) (s : State) (cause : Nat) : OthersKept e s (s.revokeEasel e cause) := by
  unfold State.revokeEasel
  split
  · exact .refl e s
  · dsimp only
    refine OthersKept.trans ?_ (State.invalidate_others e _)
    refine OthersKept.trans ?_ (State.freeEasel_others e _)
    refine OthersKept.trans ?_ (State.releaseRuns_others e _ _ false)
    exact (s.stopEasel_cleared e).others.trans (State.revoked_records _ e cause).cleared.others

theorem State.revokeEasel_mode (e : Nat) (s : State) (cause : Nat) : ((s.revokeEasel e cause).easel e).mode = .free := by
  unfold State.revokeEasel
  split
  · next h => exact beq_iff_eq.mp h
  · exact State.freeEasel_mode e _

end Sys2Proof.Machine
end

section
/-! PROOFS. Function resets, disabled functions and the link (R58, R412), and the supplies that are reported (R437). -/

namespace Sys2Proof.Machine

/-! ### The host's accesses forgotten -/

/-- What forgetting waiting accesses leaves: the easels, the bindings, power, tiles and semaphores, and of the host link all but the doorbells
held back. -/
structure AccessesOnly (s s' : State) : Prop where
  host : s'.host = { s.host with doorbells := s'.host.doorbells }
  easels : s'.easels = s.easels
  bind : s'.bind = s.bind
  power : s'.power = s.power
  tiles : s'.tiles = s.tiles
  sems : s'.sems = s.sems

theorem AccessesOnly.refl (s : State) : AccessesOnly s s := ⟨rfl, rfl, rfl, rfl, rfl, rfl⟩

theorem AccessesOnly.trans {a b c : State} (h : AccessesOnly a b) (k : AccessesOnly b c) : AccessesOnly a c :=
  ⟨by rw [k.host, h.host], k.easels.trans h.easels, k.bind.trans h.bind, k.power.trans h.power, k.tiles.trans h.tiles, k.sems.trans h.sems⟩

theorem AccessesOnly.easel {s s' : State} (h : AccessesOnly s s') (e : Nat) : s'.easel e = s.easel e := by
  rw [State.easel, h.easels, State.easel]

theorem State.dropAccesses_only (s : State) (f : Nat) : AccessesOnly s (s.dropAccesses f) := ⟨rfl, rfl, rfl, rfl, rfl, rfl⟩

/-! ### A function reset -/

section
variable {s : State} {e : Nat}

theorem State.functionReset_idle (h : (s.easel e).mode = .free ∨ (s.easel e).mode = .binding) :
    s.functionReset e = (s.dropAccesses e).drawKey e := by
  unfold State.functionReset
  dsimp only
  rw [((s.dropAccesses_only e).easel e)]
  exact if_pos (by simpa using h)

/-- The easel stopped, without its canvas and cleared, before its new key. -/
def State.resetCleared (s : State) (e : Nat) : State :=
  ((((s.dropAccesses e).stopEasel e).forgetRemotes e).unloadCanvas e).clearEasel e true

theorem State.functionReset_work (h : (s.easel e).mode ≠ .free) (h' : (s.easel e).mode ≠ .binding) :
    s.functionReset e = ((s.resetCleared e).drawKey e).onEasel e fun x =>
      { x with mode := if x.mode == .faulted then .bound else x.mode, drains := [] } := by
  unfold State.functionReset
  dsimp only
  rw [((s.dropAccesses_only e).easel e)]
  exact if_neg (by simp [h, h'])

/-- Up to its canvas, the easel is stopped. -/
theorem State.forgotten_cleared (s : State) (e : Nat) : Cleared e (s.dropAccesses e) (((s.dropAccesses e).stopEasel e).forgetRemotes e) := by
  refine Cleared.trans (State.stopEasel_cleared e _) ?_
  exact .of_fields rfl rfl rfl rfl

theorem State.resetCleared_kept (s : State) (e : Nat) : OthersKept e (s.dropAccesses e) (s.resetCleared e) ∧
    ((s.resetCleared e).easel e).mode = (s.easel e).mode ∧ ((s.resetCleared e).easel e).canvas = none ∧
    ((s.resetCleared e).easel e).keyEpoch = (s.easel e).keyEpoch ∧ ((s.resetCleared e).easel e).cmds = [] ∧
    (s.resetCleared e).bind = s.bind := by
  unfold State.resetCleared
  have hstop := s.forgotten_cleared e
  generalize State.forgetRemotes _ e = t at hstop ⊢
  obtain ⟨hothers, hcanvas, hmode, hkey, -, hbind⟩ := t.unloadCanvas_kept e
  have hclear := State.clearEasel_cleared e (t.unloadCanvas e) true
  have hcmds := State.clearEasel_cmds e (t.unloadCanvas e) true
  generalize State.clearEasel _ e true = u at hclear hcmds ⊢
  obtain ⟨humode, hucanvas, hukey⟩ := hclear.self
  obtain ⟨htmode, -, htkey⟩ := hstop.self
  exact ⟨(hstop.others.trans hothers).trans hclear.others, (humode.trans hmode).trans htmode, hucanvas.trans hcanvas,
    (hukey.trans hkey).trans htkey, hcmds, (hclear.bind.trans hbind).trans hstop.bind⟩

theorem State.drawKey_others (s : State) (e : Nat) : OthersKept e s (s.drawKey e) := s.onEasel_others e _

theorem State.functionReset_others (s : State) (e : Nat) : OthersKept e (s.dropAccesses e) (s.functionReset e) := by
  by_cases h : (s.easel e).mode = .free ∨ (s.easel e).mode = .binding
  · rw [State.functionReset_idle h]
    exact State.drawKey_others _ e
  · push Not at h
    rw [State.functionReset_work h.1 h.2]
    exact ((s.resetCleared_kept e).1.trans (State.drawKey_others _ e)).trans (State.onEasel_others _ e _)

/-- An easel that was reset: no canvas, no command, a new key; BOUND where it was in FAULTED. -/
theorem State.functionReset_easel (h : (s.easel e).mode ≠ .free) (h' : (s.easel e).mode ≠ .binding) :
    ((s.functionReset e).easel e).canvas = none ∧ ((s.functionReset e).easel e).cmds = [] ∧
    ((s.functionReset e).easel e).keyEpoch = ((s.easel e).keyEpoch + 1) % 2 ^ 32 ∧
    ((s.functionReset e).easel e).mode = (if (s.easel e).mode = .faulted then .bound else (s.easel e).mode) ∧
    (s.functionReset e).bind = s.bind := by
  obtain ⟨-, hmode, hcanvas, hkey, hcmds, hbind⟩ := s.resetCleared_kept e
  rw [State.functionReset_work h h', State.onEasel_easel_self, State.drawKey, State.onEasel_easel_self, ← hmode, ← hkey]
  refine ⟨hcanvas, hcmds, rfl, ?_, hbind⟩
  simp only [beq_iff_eq]

end

/-! ### The pages of an easel that was reset -/

theorem mem_clearPages_written {s : State} {base first count p : Nat} (h : p ∈ (s.clearPages base first count).tiers.written) :
    p ∈ s.tiers.written ∧ (p < base / pageBytes + first ∨ base / pageBytes + first + count ≤ p) := by
  have h' := List.mem_filter.mp h
  exact ⟨h'.1, by simpa using h'.2⟩

theorem foldl_written {α : Type} {f : State → α → State} (hf : ∀ s x, (f s x).tiers.written = s.tiers.written) (l : List α) (s : State) :
    (l.foldl f s).tiers.written = s.tiers.written :=
  foldl_keeps_state (fun s s' => s'.tiers.written = s.tiers.written) (fun _ => rfl) (fun _ _ _ h k => k.trans h) f hf l s

/-- Clearing marks no page as written. -/
theorem State.clearUnits_written (s : State) (cls first count p : Nat) (released erase : Bool)
    (h : p ∈ (s.clearUnits cls first count released erase).tiers.written) : p ∈ s.tiers.written := by
  unfold State.clearUnits at h
  dsimp only at h
  split at h
  · exact foldl_written (f := State.clearTile) (fun _ _ => rfl) _ s ▸ h
  · exact (mem_clearPages_written h).1
  · exact (mem_clearPages_written h).1
  · exact h
  · exact h
  · exact h
  · exact foldl_written (f := fun s v => s.clearChannel v released) (fun _ _ => rfl) _ s ▸ h
  · exact h
  · exact h
  · split at h <;> exact h
  · exact h

/-- Every page of HBM that a cleared easel holds reads as unwritten. -/
theorem State.clearEasel_written {s : State} {e : Nat} {x : Extent} (hx : x ∈ s.bind.table) (he : x.easel = e) (hc : x.cls = 2) {u : Nat}
    (hlo : x.first ≤ u) (hhi : u < x.first + x.count) : u ∉ (s.clearEasel e true).tiers.written := by
  unfold State.clearEasel
  dsimp only
  refine foldl_establishes (I := fun _ => True) (P := fun t : State => u ∉ t.tiers.written) (x := x) ?_ (fun _ _ _ => trivial) (fun t _ => ?_)
    (fun t _ y _ ht => ?_) (b := s) trivial
  · exact List.mem_filter.mpr ⟨List.mem_filter.mpr ⟨hx, by simp [he]⟩, by simp [hc]⟩
  · rw [if_neg (by simp [hc]), hc]
    intro hmem
    obtain ⟨-, hout⟩ := mem_clearPages_written hmem
    rw [Nat.zero_div] at hout
    omega
  · split
    · rw [foldl_written (f := fun s q => s.onEasel e fun y => y.clearQueue q 0) fun _ _ => rfl]
      exact ht
    · exact fun hmem => ht (State.clearUnits_written _ _ _ _ _ _ _ hmem)

theorem State.onEasel_drawKey_written (s : State) (e : Nat) (f : Easel → Easel) :
    ((s.drawKey e).onEasel e f).tiers.written = s.tiers.written := rfl

theorem State.functionReset_written {s : State} {e : Nat} (h : (s.easel e).mode ≠ .free) (h' : (s.easel e).mode ≠ .binding)
    {x : Extent} (hx : x ∈ s.bind.table) (he : x.easel = e) (hc : x.cls = 2) {u : Nat}
    (hlo : x.first ≤ u) (hhi : u < x.first + x.count) : u ∉ (s.functionReset e).tiers.written := by
  have htable : ((((s.dropAccesses e).stopEasel e).forgetRemotes e).unloadCanvas e).bind = s.bind :=
    (State.unloadCanvas_kept e _).2.2.2.2.2.trans (s.forgotten_cleared e).bind
  have hmem := State.clearEasel_written (s := (((s.dropAccesses e).stopEasel e).forgetRemotes e).unloadCanvas e) (by rw [htable]; exact hx) he hc
    hlo hhi
  rw [State.functionReset_work h h', State.onEasel_drawKey_written, State.resetCleared]
  exact hmem

/-! ### Functions disabled -/

section
variable {s : State} {n cause : Nat}

/-- The easels of the functions above `n`. -/
def State.disabled (s : State) (n : Nat) : List Nat := (span (n + 1) 64).filter fun e => decide (e ≤ s.host.numVfs)

theorem State.mem_disabled {e : Nat} : e ∈ s.disabled n ↔ n < e ∧ e < 64 ∧ e ≤ s.host.numVfs := by
  rw [State.disabled, List.mem_filter, mem_span, decide_eq_true_eq, Nat.succ_le_iff, and_assoc]

/-- The device with the functions above `n` off, their accesses forgotten, before their easels are revoked. -/
def State.functionsOff (s : State) (n : Nat) : State :=
  (s.disabled n).foldl State.dropAccesses
    { s with host := { s.host with numVfs := min n s.host.numVfs, d3hot := s.host.d3hot.filter fun f => decide (f ≤ n) } }

theorem State.functionsOff_only (s : State) (n : Nat) : AccessesOnly
    { s with host := { s.host with numVfs := min n s.host.numVfs, d3hot := s.host.d3hot.filter fun f => decide (f ≤ n) } } (s.functionsOff n) :=
  foldl_keeps_state AccessesOnly .refl (fun _ _ _ => .trans) _ State.dropAccesses_only _ _

theorem State.disableVfs_eq (s : State) (n cause : Nat) : s.disableVfs n cause =
    if s.bind.request.isSome then { s.functionsOff n with bind := { s.bind with revoke := s.bind.revoke ++ (s.disabled n).map fun e => (e, cause) } }
    else (s.disabled n).foldl (fun s e => s.revokeEasel e cause) (s.functionsOff n) := by
  have hbind : (s.functionsOff n).bind = s.bind := (s.functionsOff_only n).bind
  rw [← hbind]
  rfl

/-- Easels revoked, easel `e` not among them. -/
theorem revokeAll_kept {e : Nat} {l : List Nat} (hl : e ∉ l) (cause : Nat) (s : State) :
    SameFace (s.easel e) ((l.foldl (fun s f => s.revokeEasel f cause) s).easel e) ∧
    ((l.foldl (fun s f => s.revokeEasel f cause) s).easel e).cmds = (s.easel e).cmds := by
  induction l generalizing s with
  | nil => exact ⟨.refl _, rfl⟩
  | cons f l ih =>
    obtain ⟨hne, hrest⟩ := not_or.mp (List.mem_cons.not.mp hl)
    have hone := s.revokeEasel_others f cause
    obtain ⟨hface, hcmds⟩ := ih hrest (s.revokeEasel f cause)
    exact ⟨(hone.face e hne).trans hface, hcmds.trans (hone.cmds e hne)⟩

theorem revokeAll_power (l : List Nat) (cause : Nat) (s : State) : (l.foldl (fun s f => s.revokeEasel f cause) s).power = s.power ∧
    (l.foldl (fun s f => s.revokeEasel f cause) s).host = s.host :=
  foldl_keeps_state (fun s s' => s'.power = s.power ∧ s'.host = s.host) (fun _ => ⟨rfl, rfl⟩)
    (fun _ _ _ h k => ⟨k.1.trans h.1, k.2.trans h.2⟩) _ (fun s f => ⟨(s.revokeEasel_others f cause).power, (s.revokeEasel_others f cause).host⟩) l s

/-- Every easel of a list is FREE once all were revoked. -/
theorem revokeAll_free {e : Nat} {l : List Nat} (he : e ∈ l) (cause : Nat) (s : State) :
    ((l.foldl (fun s f => s.revokeEasel f cause) s).easel e).mode = .free :=
  foldl_establishes (I := fun _ => True) (P := fun t : State => (t.easel e).mode = .free) he (fun _ _ _ => trivial)
    (fun t _ => State.revokeEasel_mode e t cause)
    (fun t _ f _ ht => by
      by_cases hf : e = f
      · rw [← hf]
        exact State.revokeEasel_mode e t cause
      · exact ((t.revokeEasel_others f cause).face e hf).1.trans ht) trivial

theorem State.disableVfs_host (s : State) (n cause : Nat) : (s.disableVfs n cause).power = s.power ∧
    ∃ waits, (s.disableVfs n cause).host = { s.host with
      numVfs := min n s.host.numVfs, d3hot := s.host.d3hot.filter (fun f => decide (f ≤ n)), doorbells := waits } := by
  have hoff := s.functionsOff_only n
  rw [State.disableVfs_eq]
  split
  · exact ⟨hoff.power, _, hoff.host⟩
  · obtain ⟨hpower, hhost⟩ := revokeAll_power (s.disabled n) cause (s.functionsOff n)
    exact ⟨hpower.trans hoff.power, _, hhost.trans hoff.host⟩

theorem State.disableVfs_kept {e : Nat} (h : e ∉ s.disabled n) : SameFace (s.easel e) ((s.disableVfs n cause).easel e) ∧
    ((s.disableVfs n cause).easel e).cmds = (s.easel e).cmds := by
  have hoff : (s.functionsOff n).easel e = s.easel e := (s.functionsOff_only n).easel e
  rw [State.disableVfs_eq]
  split
  · rw [← hoff]
    exact ⟨.refl _, rfl⟩
  · have hkept := revokeAll_kept h cause (s.functionsOff n)
    rwa [hoff] at hkept

theorem State.disableVfs_free {e : Nat} (hreq : s.bind.request = none) (h : e ∈ s.disabled n) :
    ((s.disableVfs n cause).easel e).mode = .free := by
  rw [State.disableVfs_eq, hreq]
  exact revokeAll_free h cause _

end

/-! ### FLR of PF0 -/

/-- FLR of PF0, but for the power states of the functions. -/
theorem State.pfReset_kept (s : State) : s.pfReset.power = s.power ∧ (∃ waits, s.pfReset.host = { s.host with
      numVfs := 0, d3hot := [], doorbells := waits }) ∧
    ((s.easel 0).mode ≠ .free → (s.easel 0).mode ≠ .binding → (s.pfReset.easel 0).canvas = none ∧ (s.pfReset.easel 0).cmds = []) ∧
    (s.bind.request = none → ∀ e, 1 ≤ e → e ≤ s.host.numVfs → e < 64 → (s.pfReset.easel e).mode = .free) := by
  obtain ⟨hpower, waits, hhost⟩ := s.disableVfs_host 0 3
  have hothers := (s.disableVfs 0 3).functionReset_others 0
  have hdrop := (s.disableVfs 0 3).dropAccesses_only 0
  have hzero : 0 ∉ s.disabled 0 := fun h => absurd (State.mem_disabled.mp h).1 (by simp)
  obtain ⟨hface, -⟩ := State.disableVfs_kept (cause := 3) hzero
  refine ⟨hothers.power.trans (hdrop.power.trans hpower), ⟨((s.disableVfs 0 3).functionReset 0).host.doorbells, ?_⟩, fun hfree hbinding => ?_,
    fun hreq e hlo hhi hlt => ?_⟩
  · show { ((s.disableVfs 0 3).functionReset 0).host with d3hot := [] } = _
    rw [hothers.host, hdrop.host, hhost, Nat.zero_min]
  · obtain ⟨hcanvas, hcmds, -⟩ := State.functionReset_easel (s := s.disableVfs 0 3) (e := 0) (by rw [hface.1]; exact hfree)
      (by rw [hface.1]; exact hbinding)
    exact ⟨hcanvas, hcmds⟩
  · have hmem : e ∈ s.disabled 0 := State.mem_disabled.mpr ⟨hlo, hlt, hhi⟩
    have hmode := (hothers.face e (by omega)).1
    rw [hdrop.easel, State.disableVfs_free hreq hmem] at hmode
    exact hmode

/-- PERST_N asserted: as FLR of PF0 where the planes are up, and the link stays in reset. -/
theorem State.assertPerst_kept (s : State) : s.assertPerst.power = s.power ∧ s.assertPerst.host.perst = true := by
  unfold State.assertPerst
  split
  · next h => exact ⟨rfl, h⟩
  · dsimp only
    split
    · exact ⟨s.pfReset_kept.1, rfl⟩
    · exact ⟨rfl, rfl⟩

/-! ### The link -/

theorem State.linkBack_records (s : State) : RecordsOnly s s.linkBack := by
  refine foldl_keeps_state RecordsOnly .refl (fun _ _ _ => .trans) _ (fun s e => ?_) _ s
  refine (s.flush_records e).trans (foldl_keeps_state RecordsOnly .refl (fun _ _ _ => .trans) _ (fun s v => ?_) _ _)
  unfold State.sendPending
  dsimp only
  split
  · refine RecordsOnly.trans ?_ (State.emit_records _ _)
    exact State.onEasel_records _ e _ fun _ => rfl
  · exact .refl s

/-! ### The instructions -/

section
variable {s : State} {e n : Nat}

theorem exec_functionReset {c : Instr} (hup : s.vbusUp = true) (he : e ≠ 0) (hon : s.functionOn e = true)
    (hc : c = .flrVf e ∨ (c = .d0Return e ∧ e ∈ s.host.d3hot)) : exec c s = .next ((s.functionReset e).setD0 e) := by
  obtain rfl | ⟨rfl, hd3⟩ := hc
  · have harm : exec (.flrVf e) s = execFlrVf e s := rfl
    rw [harm, execFlrVf]
    exact if_pos (by simp [he, hon, hup])
  · have harm : exec (.d0Return e) s = execD0Return e s := rfl
    rw [harm, execD0Return, if_neg (by simp [hon, hd3])]
    exact if_neg he

theorem exec_flrPf (hup : s.vbusUp = true) : exec .flrPf s = .next s.pfReset := by
  have harm : exec .flrPf s = execFlrPf s := rfl
  rw [harm, execFlrPf]
  exact if_pos hup

theorem exec_hotReset (hlink : s.host.linkUp = true) : exec .hotReset s = .next
    { s.pfReset with host := { s.pfReset.host with linkUp := false, generation := 0, width := 0 } } := by
  have harm : exec .hotReset s = execHotReset s := rfl
  rw [harm, execHotReset]
  exact if_pos hlink

theorem exec_perstAssert (hup : s.vbusUp = true) (hperst : s.host.perst = false) : exec .perstAssert s = .next
    { s.pfReset with host := { s.pfReset.host with perst := true, linkUp := false, generation := 0, width := 0 } } := by
  have harm : exec .perstAssert s = execPerstAssert s := rfl
  rw [harm, execPerstAssert, State.assertPerst, if_neg (by simp [hperst]), if_pos hup]

theorem exec_vfDisable (h : n < s.host.numVfs) : exec (.vfDisable n) s = .next (s.disableVfs n 2) := by
  have harm : exec (.vfDisable n) s = execVfDisable n s := rfl
  rw [harm, execVfDisable]
  exact if_pos (by simpa using h)

theorem exec_pcieLinkUp {generation width : Nat} (hperst : s.host.perst = false) (hcal : s.power.calibrated = true) (hlink : s.host.linkUp = false) :
    exec (.pcieLinkUp generation width) s = .next (State.linkBack
      { s with host := { s.host with linkUp := true, generation := min generation (policy s 0xC000 2), width := width } }) := by
  have harm : exec (.pcieLinkUp generation width) s = execPcieLinkUp generation width s := rfl
  rw [harm, execPcieLinkUp]
  exact if_neg (by simp [hperst, hcal, hlink])

end

/-- Settles O50: resets of one function and of all, functions disabled, and the link. -/
theorem functionsReset : Obligations.FunctionsReset := by
  unfold Obligations.FunctionsReset
  refine ⟨fun s e c hup he hon hc hfree hbinding => ?_, fun s e hup he hon hmode => ?_, fun s c hup hc => ?_, fun s n hn => ?_,
    fun s hvio hvaux => ?_, fun s f hon => ?_, fun s => ⟨_, rfl, rfl⟩, fun s generation width hperst hcal hlink => ?_⟩
  · obtain ⟨hcanvas, hcmds, hkey, hmode, hbind⟩ := State.functionReset_easel hfree hbinding
    refine ⟨_, exec_functionReset hup he hon hc, hcanvas, hcmds, hkey, hmode, hbind, ?_, fun x hx hxe hxc u hlo hhi => ?_⟩
    · exact fun hmem => absurd (List.mem_filter.mp hmem).2 (by simp)
    · exact State.functionReset_written hfree hbinding hx hxe hxc hlo hhi
  · refine ⟨_, exec_functionReset hup he hon (.inl rfl), ?_⟩
    rw [State.functionReset_idle hmode]
    have hself : (((s.dropAccesses e).drawKey e).setD0 e).easel e = ((s.dropAccesses e).drawKey e).easel e := rfl
    have hdrop := (s.dropAccesses_only e).easel e
    dsimp only
    rw [hself, State.drawKey, State.onEasel_easel_self, hdrop]
    exact ⟨rfl, rfl, rfl, rfl, rfl⟩
  · obtain ⟨-, ⟨waits, hhost⟩, hzero, hfree⟩ := s.pfReset_kept
    obtain rfl | ⟨rfl, hlink⟩ | ⟨rfl, hperst⟩ := hc
    · refine ⟨_, exec_flrPf hup, ?_⟩
      dsimp only
      rw [hhost]
      exact ⟨rfl, rfl, fun h => absurd rfl h, nofun, hzero, hfree⟩
    · refine ⟨_, exec_hotReset hlink, ?_⟩
      dsimp only
      rw [hhost]
      exact ⟨rfl, rfl, fun _ => rfl, nofun, hzero, hfree⟩
    · refine ⟨_, exec_perstAssert hup hperst, ?_⟩
      dsimp only
      rw [hhost]
      exact ⟨rfl, rfl, fun _ => rfl, fun _ => rfl, hzero, hfree⟩
  · obtain ⟨-, waits, hhost⟩ := s.disableVfs_host n 2
    refine ⟨_, exec_vfDisable hn, ?_, fun hreq e hlo hhi hlt => State.disableVfs_free hreq (State.mem_disabled.mpr ⟨hlo, hlt, hhi⟩),
      fun hreq => ?_⟩
    · rw [hhost]
      exact min_eq_left hn.le
    · rw [State.disableVfs_eq, if_pos (Option.isSome_iff_ne_none.mpr hreq)]
      refine ⟨(s.functionsOff_only n).easels, fun e hlo hhi hlt => List.mem_append_right _ (List.mem_map.mpr ⟨e, ?_, rfl⟩)⟩
      exact State.mem_disabled.mpr ⟨hlo, hlt, hhi⟩
  · have harm : exec .perstDeassert s = execPerstDeassert s := rfl
    refine ⟨_, ?_, rfl⟩
    rw [harm, execPerstDeassert]
    exact if_pos (by simp [hvio, hvaux])
  · have harm : exec (.d3hotEntry f) s = execD3hotEntry f s := rfl
    refine ⟨{ s with host := { s.host with d3hot := insertSet s.host.d3hot f } }, ?_, rfl, fun g => mem_insertSet _ _ _⟩
    rw [harm, execD3hotEntry]
    exact if_pos hon
  · refine ⟨_, exec_pcieLinkUp hperst hcal hlink, ?_⟩
    have hrec := State.linkBack_records
      { s with host := { s.host with linkUp := true, generation := min generation (policy s 0xC000 2), width := width } }
    exact ⟨hrec.tiles, hrec.sems, hrec.bind, hrec.host⟩

/-! ### Supplies -/

section
variable {s : State} {cause a : Nat}

/-- A cause that persists is reported no more. -/
theorem State.supplyReport_again (h : cause ∈ s.power.raised) : s.supplyReport cause a = s := by
  unfold State.supplyReport
  exact if_pos (by simp [h])

/-- A cause that is new is marked, and its record raised. -/
theorem State.supplyReport_records (hrun : s.dict.running = true) (h : cause ∉ s.power.raised) :
    RecordsOnly (s.markCause cause) (s.supplyReport cause a) := by
  unfold State.supplyReport
  rw [if_neg (by simp [hrun, h])]
  exact State.raise_records _ _

/-- Records after a cause was marked: the cause persists and is counted, and the device runs on. -/
theorem State.marked_kept {s' : State} (hrec : RecordsOnly (s.markCause cause) s') :
    s'.power.supplyFaults = s.power.supplyFaults + 1 ∧ s'.power.alert = true ∧ (∀ d, d ∈ s'.power.raised ↔ d = cause ∨ d ∈ s.power.raised) ∧
    s'.power.vbusState = s.power.vbusState ∧ s'.tiles = s.tiles ∧ s'.sems = s.sems ∧ s'.bind = s.bind ∧
    ∀ e, (s'.easel e).mode = (s.easel e).mode := by
  rw [hrec.power]
  exact ⟨rfl, rfl, fun d => mem_insertSet _ _ _, rfl, hrec.tiles, hrec.sems, hrec.bind, hrec.mode⟩

/-- The findings that are supply reports. -/
theorem exec_supplyReport {c : Instr} {mv : Nat} (h : (c = .vbusLow mv ∧ cause = 1 ∧ s.power.vbus = true ∧ mv < 10800) ∨
      (c = .vbusHigh mv ∧ cause = 2 ∧ s.power.vbus = true ∧ 13200 < mv) ∨
      (c = .limitNotMet mv ∧ cause = 8 ∧ s.vbusUp = true ∧ s.power.overLimit = true ∧ s.power.coreMv = 550) ∨
      (c = .vauxOutOfRange mv ∧ cause = 4 ∧ s.power.vaux = true ∧ 3000 ≤ mv ∧ (mv < 3135 ∨ 3465 < mv))) :
    exec c s = .next (s.supplyReport cause mv) := by
  obtain ⟨rfl, rfl, hvbus, hmv⟩ | ⟨rfl, rfl, hvbus, hmv⟩ | ⟨rfl, rfl, hup, hover, hcore⟩ | ⟨rfl, rfl, hvaux, hlo, hout⟩ := h
  · have harm : exec (.vbusLow mv) s = execVbusLow mv s := rfl
    rw [harm, execVbusLow]
    exact if_pos (by simp [hvbus, hmv])
  · have harm : exec (.vbusHigh mv) s = execVbusHigh mv s := rfl
    rw [harm, execVbusHigh]
    exact if_pos (by simp [hvbus, hmv])
  · have harm : exec (.limitNotMet mv) s = execLimitNotMet mv s := rfl
    rw [harm, execLimitNotMet]
    exact if_pos (by simp [hup, hover, hcore])
  · have harm : exec (.vauxOutOfRange mv) s = execVauxOutOfRange mv s := rfl
    have hrange : ¬(3135 ≤ mv ∧ mv ≤ 3465) := by omega
    rw [harm, execVauxOutOfRange, if_neg (by simpa [hvaux] using hrange)]
    exact if_neg (Nat.not_lt.mpr hlo)

theorem exec_powerStageFailed {stage : Nat} (hon : s.vbusOn = true) (h : stage ∉ s.power.stages) : exec (.powerStageFailed stage) s = .next
    (((s.retireStage stage).markCause 6).raise { supplyRecord 6 stage with seq := (((s.retireStage stage).markCause 6).easel 0).lastSeq }) := by
  have harm : exec (.powerStageFailed stage) s = execPowerStageFailed stage s := rfl
  rw [harm, execPowerStageFailed]
  exact if_neg (by simp [hon, h])

theorem exec_vioOutOfRange {mv : Nat} (hvio : s.power.vio = true) (h : mv < 1710 ∨ 1890 < mv) : exec (.vioOutOfRange mv) s = .next
    (State.assertPerst { s.supplyReport 5 mv with power := { (s.supplyReport 5 mv).power with vio := false } }) := by
  have harm : exec (.vioOutOfRange mv) s = execVioOutOfRange mv s := rfl
  have hrange : ¬(1710 ≤ mv ∧ mv ≤ 1890) := by omega
  rw [harm, execVioOutOfRange]
  exact if_neg (by simpa [hvio] using hrange)

end

/-- Settles O55: reports once while their cause persists, and VIO lost and present. -/
theorem suppliesReported : Obligations.SuppliesReported := by
  unfold Obligations.SuppliesReported
  refine ⟨fun s c cause mv hrun h => ⟨fun hmem => ?_, fun hnew => ?_⟩, fun s stage hon hnew => ?_, fun s mv hvio h => ?_, fun s asserted => ?_,
    fun s => ⟨⟨_, rfl, rfl⟩, _, rfl, rfl⟩⟩
  · exact ⟨_, exec_supplyReport h, State.supplyReport_again hmem⟩
  · exact ⟨_, exec_supplyReport h, State.marked_kept (State.supplyReport_records hrun hnew)⟩
  · refine ⟨_, exec_powerStageFailed hon hnew, ?_⟩
    have hrec := ((s.retireStage stage).markCause 6).raise_records
      { supplyRecord 6 stage with seq := (((s.retireStage stage).markCause 6).easel 0).lastSeq }
    obtain ⟨hfaults, -, hraised, hstate, -, -, hbind, hmode⟩ := State.marked_kept hrec
    refine ⟨?_, (hraised 6).mpr (.inl rfl), hfaults, hstate, hbind, hmode⟩
    rw [hrec.power]
    exact (mem_insertSet _ _ _).mpr (.inl rfl)
  · refine ⟨_, exec_vioOutOfRange hvio h, ?_⟩
    obtain ⟨hpower, hperst⟩ := State.assertPerst_kept { s.supplyReport 5 mv with power := { (s.supplyReport 5 mv).power with vio := false } }
    rw [hpower]
    exact ⟨rfl, hperst⟩
  · refine ⟨_, rfl, ?_⟩
    cases asserted with
    | false => exact ⟨rfl, rfl, fun hmem => absurd (List.mem_filter.mp hmem).2 (by simp)⟩
    | true =>
      obtain ⟨hpower, hperst⟩ := State.assertPerst_kept (({ s with power := { s.power with vio := true } } : State).clearCauses (· = 5))
      rw [if_pos rfl, hpower]
      exact ⟨rfl, hperst, fun hmem => absurd (List.mem_filter.mp hmem).2 (by simp)⟩

end Sys2Proof.Machine
end

section
/-! PROOFS. The end of requests, and `easel_reset` (R45, R52, R65). -/

namespace Sys2Proof.Machine

/-! ### Units taken out of the table -/

/-- Whether an extent holds unit `u` of a class. -/
def Extent.has (x : Extent) (cls u : Nat) : Bool := x.cls = cls && decide (x.first ≤ u) && decide (u < x.first + x.count)

theorem Extent.has_iff (x : Extent) (cls u : Nat) : x.has cls u = true ↔ x.cls = cls ∧ x.first ≤ u ∧ u < x.first + x.count := by
  simp [Extent.has, and_assoc]

/-- What is left of an extent holds only what it held, and nothing of what was cut out. -/
theorem cutExtent_has {cls first count c u : Nat} {x y : Extent} (hy : y ∈ cutExtent cls first count x) (h : y.has c u = true) :
    x.has c u = true ∧ ¬(c = cls ∧ first ≤ u ∧ u < first + count) := by
  rw [Extent.has_iff] at h ⊢
  unfold cutExtent at hy
  split at hy
  · next hout =>
    simp only [Bool.or_eq_true, bne_iff_ne, decide_eq_true_eq] at hout
    rw [List.mem_singleton] at hy
    subst hy
    exact ⟨h, by omega⟩
  · next hin =>
    simp only [Bool.or_eq_true, bne_iff_ne, decide_eq_true_eq, not_or, not_not] at hin
    obtain hy | hy := List.mem_append.mp hy
    · split at hy
      · rw [List.mem_singleton] at hy
        subst hy
        dsimp only at h
        omega
      · cases hy
    · split at hy
      · rw [List.mem_singleton] at hy
        subst hy
        dsimp only at h
        omega
      · cases hy

/-- The table with the runs (class, first, count) taken out. -/
def cutRuns (l : List (Nat × Nat × Nat)) (t : List Extent) : List Extent := l.foldl (fun t r => t.flatMap (cutExtent r.1 r.2.1 r.2.2)) t

theorem cutRuns_has {l : List (Nat × Nat × Nat)} {r : Nat × Nat × Nat} (hr : r ∈ l) {u : Nat} (hlo : r.2.1 ≤ u) (hhi : u < r.2.1 + r.2.2)
    (t : List Extent) : ∀ y ∈ cutRuns l t, y.has r.1 u = false :=
  foldl_establishes (I := fun _ => True) (P := fun t : List Extent => ∀ y ∈ t, y.has r.1 u = false) hr (fun _ _ _ => trivial)
    (fun t _ y hy => by
      obtain ⟨x, -, hx⟩ := List.mem_flatMap.mp hy
      by_contra hhas
      exact (cutExtent_has hx (by simpa using hhas)).2 ⟨rfl, hlo, hhi⟩)
    (fun t _ q _ ht y hy => by
      obtain ⟨x, hxt, hx⟩ := List.mem_flatMap.mp hy
      by_contra hhas
      exact absurd (ht x hxt) (by simp [(cutExtent_has hx (by simpa using hhas)).1])) trivial

/-! ### Runs released -/

section
variable {s : State} {e : Nat}

theorem State.retirePages_bind (s : State) (e cls first count : Nat) :
    ∃ gone, (s.retirePages e cls first count).bind = { s.bind with retired := gone } := by
  unfold State.retirePages
  dsimp only
  split
  · refine foldl_keeps_state (fun s s' => ∃ gone, s'.bind = { s.bind with retired := gone }) (fun s => ⟨s.bind.retired, rfl⟩)
      (fun a b c ⟨_, h⟩ ⟨k, k'⟩ => ⟨k, by rw [k', h]⟩) _ (fun s p => ?_) _ s
    exact ⟨_, (State.report_records _ _ _ _ _ _ _).bind⟩
  · exact ⟨_, rfl⟩

/-- The table after a release is the table without the runs; pages may have been retired. -/
theorem State.releaseRuns_bind (l : List (Nat × Nat × Nat)) (erase : Bool) (s : State) :
    ∃ gone, (s.releaseRuns e l erase).bind = { s.bind with table := cutRuns l s.bind.table, retired := gone } := by
  induction l generalizing s with
  | nil => exact ⟨s.bind.retired, rfl⟩
  | cons r l ih =>
    let cleared := if r.1 = 8 then s.clearQueues e r.2.1 r.2.2 else s.clearUnits r.1 r.2.1 r.2.2 true erase
    have hcleared : cleared.bind = s.bind := by
      show (if r.1 = 8 then s.clearQueues e r.2.1 r.2.2 else s.clearUnits r.1 r.2.1 r.2.2 true erase).bind = s.bind
      split
      · exact (s.clearQueues_cleared e _ _).bind
      · exact (s.clearUnits_cleared e _ _ _ _ _).bind
    obtain ⟨gone, hretired⟩ := cleared.retirePages_bind e r.1 r.2.1 r.2.2
    obtain ⟨gone', hrest⟩ := ih ((cleared.retirePages e r.1 r.2.1 r.2.2).unbindRun r.1 r.2.1 r.2.2)
    refine ⟨gone', hrest.trans ?_⟩
    rw [State.unbindRun, hretired, hcleared]
    rfl

/-! ### The end of a request -/

/-- Everything after a request ends, with no revocation waiting. -/
theorem State.endRequest_kept (hrev : s.bind.revoke = []) (easel status code a b : Nat) :
    (s.endRequest easel status code a b).bind = { s.bind with request := none, status } ∧
    (∀ f, SameFace (s.easel f) ((s.endRequest easel status code a b).easel f)) ∧
    (s.endRequest easel status code a b).tiles = s.tiles ∧ (s.endRequest easel status code a b).sems = s.sems := by
  have h := State.endRequest_records hrev easel status code a b
  exact ⟨h.bind, h.face, h.tiles, h.sems⟩

/-! ### DRAIN_COMPLETE and DRAIN_TIMEOUT -/

variable {r : Request}

theorem exec_drainComplete_busy (hr : s.bind.request = some r) (hd : r.draining = true) (hrun : s.dict.running = true)
    (hbusy : ∃ c ∈ (s.easel r.releases).cmds, c.phase ≠ .taken) : exec .drainComplete s = .next s := by
  have harm : exec .drainComplete s = execDrainComplete s := rfl
  have hquiet : (s.easel r.releases).quiet = false := by simpa [Easel.quiet] using hbusy
  simp [harm, execDrainComplete, hr, hd, hrun, hquiet]

theorem exec_drainComplete (hr : s.bind.request = some r) (hd : r.draining = true) (hrun : s.dict.running = true)
    (hmode : (s.easel r.releases).mode = .draining ∨ (s.easel r.releases).mode = .faulted)
    (hquiet : ∀ c ∈ (s.easel r.releases).cmds, c.phase = .taken) : exec .drainComplete s = .next
      (((s.dropStreams r.releases).onEasel r.releases fun x => { x with mode := .clearing }).withRequest
        { r with draining := false, clearing := true }) := by
  have harm : exec .drainComplete s = execDrainComplete s := rfl
  have hq : (s.easel r.releases).quiet = true := by simpa [Easel.quiet] using hquiet
  rw [harm, execDrainComplete, hr]
  dsimp only
  rw [if_neg (by simp [hrun]), if_pos hd]
  refine if_pos ?_
  rw [hq, Bool.and_true, Bool.or_eq_true, beq_iff_eq, beq_iff_eq]
  exact hmode.symm

/-- The easel that drained BOUND again, and the request's target FREE where it got nothing. -/
def State.drainedBack (s : State) (r : Request) : State :=
  (s.onEasel r.releases fun x => { x with mode := .bound }).backToFree r

theorem exec_drainTimeout (hr : s.bind.request = some r) (hd : r.draining = true) (hrun : s.dict.running = true)
    (hmode : (s.easel r.releases).mode = .draining) : exec .drainTimeout s = .next
      ((s.drainedBack r).rejectRequest r.easel r.tag 0x07 0xFFFF) := by
  have harm : exec .drainTimeout s = execDrainTimeout s := rfl
  rw [harm, execDrainTimeout, hr]
  dsimp only
  rw [if_pos (by simp [hd, hrun]), if_pos (by simp [hmode])]
  rfl

theorem State.drainedBack_kept (s : State) (r : Request) : ((s.drainedBack r).easel r.releases).mode = .bound ∧
    (s.drainedBack r).bind = s.bind ∧ (s.drainedBack r).tiles = s.tiles ∧ (s.drainedBack r).sems = s.sems := by
  have hself : ((s.onEasel r.releases fun x => { x with mode := .bound }).easel r.releases).mode = .bound := by
    rw [State.onEasel_easel_self]
  unfold State.drainedBack State.backToFree
  split
  · next h =>
    simp only [Bool.and_eq_true, beq_iff_eq] at h
    refine ⟨?_, rfl, rfl, rfl⟩
    have hne : r.releases ≠ r.easel := fun he => by rw [← he, hself] at h; cases h.2
    rw [((State.freeEasel_others r.easel _).face _ hne).1, hself]
  · exact ⟨hself, rfl, rfl, rfl⟩

/-! ### CLEARING_COMPLETE -/

theorem exec_clearingComplete {us : Nat} (hr : s.bind.request = some r) (hc : r.clearing = true) (hrun : s.dict.running = true) :
    exec (.clearingComplete us) s = .next (
      let t := { s with bind := { s.bind with request := none } }
      let t := if r.op = 1 then t else (t.releaseFor r).afterRelease r.releases r.beforeSource
      let t := if r.op = 2 then t else t.acquire r
      t.endRequest r.easel 2 0x0A10 r.tag (us % 2 ^ 32)) := by
  have harm : exec (.clearingComplete us) s = execClearingComplete us s := rfl
  rw [harm, execClearingComplete, hr]
  dsimp only
  rw [if_neg (by simp [hrun]), if_pos hc]

theorem State.releaseFor_bind (s : State) (r : Request) : ∃ gone, (s.releaseFor r).bind =
    { s.bind with table := cutRuns (r.extents.map fun x => (x.1, x.2.1, x.2.2.1)) s.bind.table, retired := gone } := by
  unfold State.releaseFor
  dsimp only
  generalize (List.foldl (fun (s : State) (x : Nat × Nat × Nat) => s.unbindRun x.1 x.2.1 x.2.2) s _).empty r.releases = all
  have hbefore : (if r.forced && all then s.revoked r.releases 1
      else if s.namesAny r.releases (r.extents.map fun x => (x.1, x.2.1, x.2.2.1)) then s.unloadCanvas r.releases else s).bind = s.bind := by
    split
    · exact (s.revoked_records _ _).bind
    · split
      · exact (s.unloadCanvas_kept r.releases).2.2.2.2.2
      · rfl
  rw [← hbefore]
  exact State.releaseRuns_bind _ _ _

theorem State.afterRelease_bind (s : State) (e : Nat) (before : EaselMode) : (s.afterRelease e before).bind = s.bind := by
  unfold State.afterRelease
  split <;> rfl

theorem cutRuns_map (l : List (Nat × Nat × Nat × Nat)) (t : List Extent) :
    cutRuns (l.map fun x => (x.1, x.2.1, x.2.2.1)) t = l.foldl (fun l x => l.flatMap (cutExtent x.1 x.2.1 x.2.2.1)) t := by
  rw [cutRuns, List.foldl_map]

/-- While an unbind clears, its units are owned by none already. -/
theorem State.live_of_clearing (hr : s.bind.request = some r) (hc : r.clearing = true) (hop : r.op ≠ 1) :
    s.live = cutRuns (r.extents.map fun x => (x.1, x.2.1, x.2.2.1)) s.bind.table := by
  rw [State.live, hr, cutRuns_map]
  exact if_pos (by simp [hc, hop])

theorem State.live_of_idle (hr : s.bind.request = none) : s.live = s.bind.table := by rw [State.live, hr]

theorem State.ownerOf_none {cls u : Nat} (h : ∀ x ∈ s.live, x.has cls u = false) : s.ownerOf cls u = none := by
  rw [State.ownerOf, Option.map_eq_none_iff, List.find?_eq_none]
  intro x hx
  have hno := h x hx
  rw [Extent.has] at hno
  simp [hno]

/-- An unbind commits: its units are owned by none, the others as before. -/
theorem exec_clearingComplete_unbind {us : Nat} (hr : s.bind.request = some r) (hc : r.clearing = true) (hrun : s.dict.running = true)
    (hrev : s.bind.revoke = []) (hop : r.op = 2) : Completes (.clearingComplete us) s fun s' => s'.bind.request = none ∧ s'.bind.status = 2 ∧
      s'.live = s.live := by
  have hexec := exec_clearingComplete (us := us) hr hc hrun
  dsimp only at hexec
  rw [if_pos hop, if_neg (by simp [hop])] at hexec
  obtain ⟨gone, hbind⟩ := State.releaseFor_bind { s with bind := { s.bind with request := none } } r
  rw [← State.afterRelease_bind _ r.releases r.beforeSource] at hbind
  generalize State.afterRelease _ r.releases r.beforeSource = t at hexec hbind
  obtain ⟨hend, -⟩ := State.endRequest_kept (s := t) (by rw [hbind]; exact hrev) r.easel 2 0x0A10 r.tag (us % 2 ^ 32)
  refine ⟨_, hexec, ?_, ?_, ?_⟩
  · rw [hend]
  · rw [hend]
  · rw [State.live_of_idle (by rw [hend]), State.live_of_clearing hr hc (by simp [hop]), hend, hbind]

/-! ### A bind commits -/

/-- The table with the extents of a bind put in. -/
def boundExtents (t : List Extent) (r : Request) : List Extent :=
  r.extents.foldl (fun t x => insertExtent t ⟨x.1, x.2.1, x.2.2.1, x.2.2.2, r.easel⟩) t

/-- The units that come with a bind cleared. -/
def State.clearedFor (s : State) (r : Request) : State :=
  r.extents.foldl (fun s x => if x.1 = 8 then s else s.clearUnits x.1 x.2.1 x.2.2.1 false false) s

theorem State.clearedFor_cleared (s : State) (r : Request) (e : Nat) : Cleared e s (s.clearedFor r) := by
  refine Cleared.foldl (fun s x => ?_) _ s
  split
  · exact .refl e s
  · exact s.clearUnits_cleared e _ _ _ _ _

theorem State.bindExtents_eq (l : List (Nat × Nat × Nat × Nat)) (e : Nat) (s : State) :
    l.foldl (fun (s : State) x => { s with bind := { s.bind with table := insertExtent s.bind.table ⟨x.1, x.2.1, x.2.2.1, x.2.2.2, e⟩ } }) s =
      { s with bind := { s.bind with table := l.foldl (fun t x => insertExtent t ⟨x.1, x.2.1, x.2.2.1, x.2.2.2, e⟩) s.bind.table } } := by
  induction l generalizing s with
  | nil => rfl
  | cons x l ih => rw [List.foldl_cons, ih]; rfl

/-- A bind of units of which none is retired gives them all to its easel. -/
theorem State.acquire_eq (hop : r.op = 1) (hret : ∀ q ∈ s.bind.retired, q.1 ≠ 2 ∧ q.1 ≠ 3)
    (hok : ∀ x ∈ r.extents, x.1 = 1 → ∀ n, x.2.1 ≤ n → n < x.2.1 + x.2.2.1 → s.bindable n = true) :
    s.acquire r = (State.onEasel { s.clearedFor r with bind := { s.bind with table := boundExtents s.bind.table r } } r.easel fun x =>
      { x with mode := if x.mode == .binding then .bound else x.mode }) := by
  have hbind := (s.clearedFor_cleared r 0).bind
  unfold State.acquire
  dsimp only
  rw [if_pos hop, ← State.clearedFor, State.bindExtents_eq, hbind, ← boundExtents]
  generalize ht : ({ s.clearedFor r with bind := { s.bind with table := boundExtents s.bind.table r } } : State) = t
  have hroles : t.bind.roles = s.bind.roles := by rw [← ht]
  have hretired : t.bind.retired.filter (fun q => q.1 = 2 || q.1 = 3) = [] := by
    rw [List.filter_eq_nil_iff, ← ht]
    intro q hq
    simp [hret q hq]
  have hunits : ((r.extents.filter (·.1 = 1)).flatMap fun x => (span x.2.1 (x.2.1 + x.2.2.1)).filter fun n => !t.bindable n) = [] := by
    rw [List.flatMap_eq_nil_iff]
    intro x hx
    obtain ⟨hmem, hcls⟩ := List.mem_filter.mp hx
    rw [List.filter_eq_nil_iff]
    intro n hn
    obtain ⟨hlo, hhi⟩ := (mem_span _ _ _).mp hn
    have hb : t.bindable n = s.bindable n := by rw [State.bindable, State.role, hroles, ← State.role, ← State.bindable]
    simp [hb, hok x hmem (by simpa using hcls) n hlo hhi]
  rw [hretired, List.foldl_nil, hunits, List.foldl_nil]

theorem exec_clearingComplete_bind {us : Nat} (hr : s.bind.request = some r) (hc : r.clearing = true) (hrun : s.dict.running = true)
    (hrev : s.bind.revoke = []) (hop : r.op = 1) (hret : ∀ q ∈ s.bind.retired, q.1 ≠ 2 ∧ q.1 ≠ 3)
    (hok : ∀ x ∈ r.extents, x.1 = 1 → ∀ n, x.2.1 ≤ n → n < x.2.1 + x.2.2.1 → s.bindable n = true) :
    Completes (.clearingComplete us) s fun s' => s'.bind.request = none ∧ s'.bind.status = 2 ∧
      ((s.easel r.easel).mode = .binding → (s'.easel r.easel).mode = .bound) ∧ s'.bind.table = boundExtents s.bind.table r := by
  have hexec := exec_clearingComplete (us := us) hr hc hrun
  dsimp only at hexec
  rw [if_neg (by simp [hop]), if_pos hop, State.acquire_eq (s := { s with bind := { s.bind with request := none } }) hop hret hok] at hexec
  have hface := (State.clearedFor_cleared { s with bind := { s.bind with request := none } } r r.easel).self
  generalize State.clearedFor _ r = t at hexec hface
  obtain ⟨hend, hfaces, -⟩ := State.endRequest_kept (s := State.onEasel { t with bind :=
    { s.bind with request := none, table := boundExtents s.bind.table r } } r.easel fun x =>
      { x with mode := if x.mode == .binding then .bound else x.mode }) hrev r.easel 2 0x0A10 r.tag (us % 2 ^ 32)
  refine ⟨_, hexec, ?_, ?_, fun hbinding => ?_, ?_⟩
  · rw [hend]
  · rw [hend]
  · have hmode := (hfaces r.easel).1
    rw [State.onEasel_easel_self] at hmode
    refine hmode.trans (if_pos ?_)
    rw [beq_iff_eq]
    exact hface.1.trans hbinding
  · rw [hend]
    rfl

/-! ### `easel_reset` -/

theorem State.resetEasel_kept (s : State) (e : Nat) : ((s.resetEasel e).easel e).mode = .bound ∧ ((s.resetEasel e).easel e).canvas = none ∧
    ((s.resetEasel e).easel e).cmds = [] ∧ ∀ f, f ≠ e → ((s.resetEasel e).easel f).mode = (s.easel f).mode := by
  obtain ⟨hothers, hcanvas, -⟩ := (s.dropStreams e).unloadCanvas_kept e
  have hclear := State.clearEasel_cleared e ((s.dropStreams e).unloadCanvas e) false
  have hcmds := State.clearEasel_cmds e ((s.dropStreams e).unloadCanvas e) false
  have hremoved (t : State) : (t.dropRemoved e).easels = t.easels := by
    refine foldl_keeps_state (fun s s' => s'.easels = s.easels) (fun _ => rfl) (fun _ _ _ h k => k.trans h) _ (fun s n => ?_) _ t
    rfl
  have heasel (t : State) (f : Nat) : (t.dropRemoved e).easel f = t.easel f := by rw [State.easel, hremoved, State.easel]
  unfold State.resetEasel
  rw [State.onEasel_easel_self, heasel]
  refine ⟨rfl, hclear.self.2.1.trans hcanvas, hcmds, fun f hf => ?_⟩
  rw [State.onEasel_easel_ne _ _ _ _ hf, heasel]
  exact (hclear.others.face f hf).1.trans (hothers.face f hf).1

theorem exec_easelReset {m : Msg} {e : Nat} (h : Accepted s m) (hop : mOp m = 2) (hi : mIndex m = 0x3000 + e) (he : e < 64) (hsub : mSub m = 9) :
    exec (.easelReset m) s = .next (s.command m
      (fun s v => if v != e || (s.easel e).mode != .faulted then 0x07 else if !s.vbusUp then 0x0A else 0) (fun s _ => s)
      (fun s _ => s.resetEasel e)) := by
  have harm : exec (.easelReset m) s = execEaselReset m s := rfl
  obtain ⟨_, ⟨⟨hturn, hlater, hwaiting⟩, -⟩, -⟩ := h
  have hidx : mIndex m - 0x3000 = e := by omega
  rw [harm, execEaselReset, hidx, if_pos (by simp [hop, hi, he, hsub]), State.atCurator_direct _ hturn hlater hwaiting]

end

/-- Settles O49: what each event makes of the running request, and `easel_reset`. -/
theorem requestsEnd : Obligations.RequestsEnd := by
  unfold Obligations.RequestsEnd
  refine ⟨fun s r hr hd hrun hmode => ⟨exec_drainComplete_busy hr hd hrun, fun hquiet => ?_, fun hdraining hrev => ?_⟩,
    fun s us r hr hc hrun hrev => ⟨fun hop => ?_, fun hop hret hok => exec_clearingComplete_bind hr hc hrun hrev hop hret hok⟩,
    fun s m e h hop hi he hsub hup => ⟨fun hv hmode => ?_, fun hbad => ?_⟩⟩
  · refine ⟨_, exec_drainComplete hr hd hrun hmode hquiet, ?_⟩
    dsimp only
    rw [State.withRequest_easel, State.onEasel_easel_self]
    exact ⟨rfl, rfl, rfl⟩
  · obtain ⟨hmode', hbind, htiles, hsems⟩ := s.drainedBack_kept r
    obtain ⟨hend, hfaces, htiles', hsems'⟩ := State.endRequest_kept (s := s.drainedBack r) (by rw [hbind]; exact hrev) r.easel
      (3 + 0x07 * 256 + 0xFFFF * 65536) 0x0A11 r.tag (0x07 + 0xFFFF * 65536)
    refine ⟨_, exec_drainTimeout hr hd hrun hdraining, (hfaces _).1.trans hmode', ?_, htiles'.trans htiles, hsems'.trans hsems⟩
    rw [State.rejectRequest, hend, hbind]
  · obtain ⟨s', hexec, hreq, hstatus, hlive⟩ := exec_clearingComplete_unbind (us := us) hr hc hrun hrev hop
    refine ⟨s', hexec, hreq, hstatus, fun x hx u hlo hhi => State.ownerOf_none ?_, fun cls u _ => by rw [State.ownerOf, hlive, State.ownerOf]⟩
    rw [hlive, State.live_of_clearing hr hc (by simp [hop])]
    exact cutRuns_has (r := (x.1, x.2.1, x.2.2.1)) (List.mem_map.mpr ⟨x, hx, rfl⟩) hlo hhi _
  · have hup' : (s.countMgmt 0).vbusUp = true := hup
    have hmode' : ((s.countMgmt 0).easel e).mode = .faulted := hmode
    have hexec := exec_easelReset h hop hi he hsub
    rw [command_of_check_ok h (by simp [hv, hmode', hup'])] at hexec
    obtain ⟨hbound, hcanvas, hcmds, hothers⟩ := (answered s m 0).resetEasel_kept e
    exact ⟨_, hexec, hbound, hcanvas, hcmds, fun f hf => (hothers f hf).trans (by rw [answered_easel])⟩
  · have hcheck : (if mValue m != e || ((s.countMgmt 0).easel e).mode != .faulted then 0x07
        else if !(s.countMgmt 0).vbusUp then 0x0A else 0) = 0x07 := by
      have heasel : (s.countMgmt 0).easel e = s.easel e := rfl
      rw [heasel]
      exact if_pos (by simpa using hbad)
    have hexec := exec_easelReset h hop hi he hsub
    rw [command_of_check_fails h hcheck (by decide)] at hexec
    exact ⟨_, hexec, rfl⟩

end Sys2Proof.Machine
end

section
/-! PROOFS. Power-on, resets, restarts and the start of the VBUS domain (R438 to R443, R447). -/

namespace Sys2Proof.Machine

/-! ### Records of the device that find no event queue -/

section
variable {s : State}

theorem Easel.hold_events (x : Easel) (v : Event) : (x.hold v).events = x.events := by
  unfold Easel.hold
  dsimp only
  split
  · rfl
  · split
    · rfl
    · split <;> rfl

theorem State.eventRoom_disabled {e : Nat} (h : (s.easel e).events.enable = false) : s.eventRoom e = false := by
  simp [State.eventRoom, h]

/-- Without an event queue a record is held. -/
theorem State.deliver_held {e : Nat} (h : (s.easel e).events.enable = false) (v : Event) :
    s.deliver e v = s.setEasel e ((s.easel e).hold v) := by
  have hroom : (s.setEasel e ((s.easel e).hold v)).eventRoom e = false :=
    State.eventRoom_disabled (by rw [State.setEasel_easel_self, Easel.hold_events]; exact h)
  unfold State.deliver
  dsimp only
  rw [State.eventRoom_disabled h, if_neg (by simp), State.flush, if_neg (by simp [hroom])]

/-- No trace unit looks at a record of the device. -/
theorem State.reportDevice_eq (s : State) (code cls unit a b : Nat) : ∃ v, s.reportDevice code cls unit a b = (s.deliver 0 v).copyIn v := by
  have hshown (t : State) (v : Event) (hv : v.easel = 0xFF) : t.triggers v = false := by
    simp [State.triggers, State.traced, hv]
  refine ⟨{ code, easel := 0xFF, unitClass := cls, unitId := unit, seq := (s.easel 0).lastSeq, detailA := a, detailB := b }, ?_⟩
  unfold State.reportDevice State.raise raiseChain
  dsimp only
  rw [hshown _ _ rfl]
  rfl

end

/-! ### The management plane's own part -/

/-- What a boot of the management plane changes: values of entries, the record of its checks, and records, which are held where easel 0 has no
event queue. -/
structure ManagementOnly (s s' : State) : Prop where
  power : s'.power = s.power
  bind : s'.bind = s.bind
  tiles : s'.tiles = s.tiles
  sems : s'.sems = s.sems
  mode : ∀ e, (s'.easel e).mode = (s.easel e).mode
  trust : s'.trust.recovery = s.trust.recovery ∧ s'.trust.runningSlot = s.trust.runningSlot
  dict : ∃ values, s'.dict = { s.dict with values := values, intake := s'.dict.intake, missed := s'.dict.missed }
  held : (s.easel 0).events.enable = false → (s'.easel 0).events.enable = false ∧ s'.mem = s.mem ∧ s'.flash = s.flash

theorem ManagementOnly.refl (s : State) : ManagementOnly s s :=
  ⟨rfl, rfl, rfl, rfl, fun _ => rfl, ⟨rfl, rfl⟩, ⟨_, rfl⟩, fun h => ⟨h, rfl, rfl⟩⟩

theorem ManagementOnly.trans {a b c : State} (h : ManagementOnly a b) (k : ManagementOnly b c) : ManagementOnly a c := by
  obtain ⟨v, hv⟩ := h.dict
  obtain ⟨w, hw⟩ := k.dict
  refine ⟨k.power.trans h.power, k.bind.trans h.bind, k.tiles.trans h.tiles, k.sems.trans h.sems, fun e => (k.mode e).trans (h.mode e),
    ⟨k.trust.1.trans h.trust.1, k.trust.2.trans h.trust.2⟩, ⟨w, ?_⟩, fun hoff => ?_⟩
  · rw [hw, hv]
  · obtain ⟨hb, hbm, hbf⟩ := h.held hoff
    obtain ⟨hc, hcm, hcf⟩ := k.held hb
    exact ⟨hc, hcm.trans hbm, hcf.trans hbf⟩

section
variable {s : State}

theorem State.reportDevice_management (s : State) (code cls unit a b : Nat) : ManagementOnly s (s.reportDevice code cls unit a b) := by
  have hrec := s.reportDevice_records code cls unit a b
  refine ⟨hrec.power, hrec.bind, hrec.tiles, hrec.sems, hrec.mode, ?_, ⟨s.dict.values, ?_⟩, fun hoff => ?_⟩
  · rw [hrec.1]
    exact ⟨rfl, rfl⟩
  · rw [hrec.1]
  · obtain ⟨v, hv⟩ := s.reportDevice_eq code cls unit a b
    rw [hv, State.deliver_held hoff]
    refine ⟨?_, rfl, rfl⟩
    have heasel : ((s.setEasel 0 ((s.easel 0).hold v)).copyIn v).easel 0 = (s.easel 0).hold v := State.setEasel_easel_self s 0 _
    rw [heasel, Easel.hold_events]
    exact hoff

/-- A change of what the security block noted, but for which slot runs. -/
theorem ManagementOnly.of_trust {s s' : State} {t : Trust} (h : s' = { s with trust := t }) (hr : t.recovery = s.trust.recovery)
    (hs : t.runningSlot = s.trust.runningSlot) : ManagementOnly s s' := by
  subst h
  exact ⟨rfl, rfl, rfl, rfl, fun _ => rfl, ⟨hr, hs⟩, ⟨_, rfl⟩, fun h => ⟨h, rfl, rfl⟩⟩

theorem State.authFailDevice_management (s : State) (a cause : Nat) : ManagementOnly s (s.authFailDevice a cause) := by
  unfold State.authFailDevice
  refine ManagementOnly.trans ?_ (State.reportDevice_management _ _ _ _ _ _)
  exact .of_trust rfl rfl rfl

theorem State.authFailDevice_values (s : State) (a cause : Nat) : (s.authFailDevice a cause).dict.values = s.dict.values := by
  unfold State.authFailDevice
  rw [(State.reportDevice_records _ _ _ _ _ _).1]

theorem State.bootIdentity_management (s : State) (c : BootChecks) : ManagementOnly s (s.bootIdentity c) := by
  unfold State.bootIdentity
  split
  · exact .refl s
  · dsimp only
    generalize ht : (if c.identity then s else s.authFailDevice 0 8) = t
    have h : ManagementOnly s t := by
      rw [← ht]
      split
      · exact .refl s
      · exact s.authFailDevice_management _ _
    have hnoted : ManagementOnly t { t with trust := { t.trust with pufOk := c.puf, identityOk := c.identity } } := .of_trust rfl rfl rfl
    split
    · exact h.trans hnoted
    · exact (h.trans hnoted).trans (State.authFailDevice_management _ _ _)

theorem State.bootIdentity_values (s : State) (c : BootChecks) : (s.bootIdentity c).dict.values = s.dict.values := by
  unfold State.bootIdentity
  split
  · rfl
  · dsimp only
    generalize ht : (if c.identity then s else s.authFailDevice 0 8) = t
    have h : t.dict.values = s.dict.values := by
      rw [← ht]
      split
      · rfl
      · exact s.authFailDevice_values _ _
    split
    · exact h
    · exact (State.authFailDevice_values _ _ _).trans h

theorem State.commitValue_management (s : State) (index sub : Nat) (d : List Byte) : ManagementOnly s (s.commitValue index sub false d) :=
  ⟨rfl, rfl, rfl, rfl, fun _ => rfl, ⟨rfl, rfl⟩, ⟨_, rfl⟩, fun h => ⟨h, rfl, rfl⟩⟩

/-- A copy of the configuration taken, or its failure noted. -/
def State.takeConfig (s : State) (copy : Nat) (img : Option CfgImage) (ok : Bool) : State × Option CfgImage :=
  match img with
  | some i => if ok then (s, some i) else (s.authFailDevice copy 3, none)
  | none => (s, none)

theorem State.takeConfig_management (s : State) (copy : Nat) (img : Option CfgImage) (ok : Bool) : ManagementOnly s (s.takeConfig copy img ok).1 := by
  unfold State.takeConfig
  split
  · split
    · exact .refl s
    · exact s.authFailDevice_management _ _
  · exact .refl s

/-- The copy of the higher version. -/
def newerConfig : Option CfgImage → Option CfgImage → Option CfgImage
  | some x, some y => some (if x.version < y.version then y else x)
  | some x, none => some x
  | none, y => y

/-- The configuration applied over the defaults, or its absence reported. -/
def State.applyConfig (s : State) : Option CfgImage → State
  | some i =>
    let t := i.records.foldl (fun s r => s.commitValue r.1 r.2.1 false r.2.2) s
    { t with trust := { t.trust with configVersion := i.version, configDigest := i.digest } }
  | none => s.reportDevice 0x0A06 0x0A 0 0 0

theorem State.bootConfig_eq {c : BootChecks} (h : ¬ s.trust.recovery = true) : s.bootConfig c =
    let a := s.takeConfig 0 s.trust.cfgA c.cfgA
    let b := a.1.takeConfig 1 s.trust.cfgB c.cfgB
    b.1.applyConfig (newerConfig a.2 b.2) := by
  unfold State.bootConfig
  rw [if_neg h]
  rfl

theorem State.applyConfig_management (s : State) (i : Option CfgImage) : ManagementOnly s (s.applyConfig i) := by
  cases i with
  | none => exact s.reportDevice_management _ _ _ _ _
  | some i =>
    have hvalues := foldl_keeps_state ManagementOnly .refl (fun _ _ _ => .trans)
      (fun s (r : Nat × Nat × List Byte) => s.commitValue r.1 r.2.1 false r.2.2) (fun s r => s.commitValue_management _ _ _) i.records s
    exact hvalues.trans (.of_trust rfl rfl rfl)

theorem State.bootConfig_management (s : State) (c : BootChecks) : ManagementOnly s (s.bootConfig c) := by
  by_cases h : s.trust.recovery = true
  · rw [State.bootConfig, if_pos h]
    exact .refl s
  · rw [State.bootConfig_eq h]
    exact ((s.takeConfig_management _ _ _).trans (State.takeConfig_management _ _ _ _)).trans (State.applyConfig_management _ _)

/-- The device with the firmware of slot `p` running. -/
def State.runsSlot (s : State) (p : Nat) : State := { s with trust := { s.trust with runningSlot := p, recovery := false } }

theorem State.bootFirmware_boots {c : BootChecks} (h : s.slotBoots c s.trust.preferred = true) :
    s.bootFirmware c = s.runsSlot s.trust.preferred := by
  unfold State.bootFirmware
  exact if_pos h

/-- The management plane as it starts, before its checks. -/
def State.managementReset (s : State) : State :=
  { s with
    dict := { Dict.reset with running := true, frozen := s.dict.frozen, i3cAddress := s.dict.i3cAddress }
    trust := { s.trust with authFailures := 0, configVersion := 0, configDigest := [] }
    bind := { s.bind with request := none, status := 0, selftest := 0 }
    obs := { s.obs with sketch := [] } }

/-- A start of the management plane whose preferred slot verifies. -/
theorem State.startManagement_boots {c : BootChecks} (h : s.slotBoots c s.trust.preferred = true) :
    ManagementOnly (s.managementReset.runsSlot s.trust.preferred) (s.startManagement c) := by
  have hboot : s.managementReset.bootFirmware c = s.managementReset.runsSlot s.trust.preferred :=
    State.bootFirmware_boots (s := s.managementReset) h
  have heq : s.startManagement c = ((s.managementReset.bootFirmware c).bootIdentity c).bootConfig c := rfl
  rw [heq, hboot]
  exact (State.bootIdentity_management _ c).trans (State.bootConfig_management _ c)

/-- What a start of the management plane leaves. -/
theorem State.startManagement_leaves {c : BootChecks} (h : s.slotBoots c s.trust.preferred = true) :
    (s.startManagement c).dict.running = true ∧ (s.startManagement c).trust.recovery = false ∧
    (s.startManagement c).trust.runningSlot = s.trust.preferred ∧ (s.startManagement c).dict.sessions = [] ∧
    (s.startManagement c).bind.request = none := by
  have hm := State.startManagement_boots h
  obtain ⟨values, hdict⟩ := hm.dict
  rw [hm.trust.1, hm.trust.2, hdict, hm.bind]
  exact ⟨rfl, rfl, rfl, rfl, rfl⟩

/-! ### Power-on, MRESET_N and a Curator restart -/

/-- The supply of the management plane noted. -/
def State.vauxOn (s : State) : State :=
  { s with
    power := { s.power with vaux := true, supplyFaults := 0, thermalTrips := 0, raised := s.power.raised.filter (· != 4), startTimes := [] }
    dict := { s.dict with frozen := [] } }

theorem exec_vauxPowerOn {c : BootChecks} (h : s.power.vaux = false) :
    exec (.vauxPowerOn c) s = .next ((s.vauxOn.startManagement c).freeTimes 0 6) := by
  have harm : exec (.vauxPowerOn c) s = execVauxPowerOn c s := rfl
  rw [harm, execVauxPowerOn]
  exact if_neg (by simp [h])

theorem exec_mreset {c : BootChecks} (hvaux : s.power.vaux = true) (hvio : s.power.vio = true) :
    exec (.mreset c) s = .next (State.startManagement { s.losePlanes with power := { s.losePlanes.power with vbusState := 0 } } c) := by
  have harm : exec (.mreset c) s = execMreset c s := rfl
  rw [harm, execMreset]
  exact if_neg (by simp [hvaux, hvio])

/-- MRESET_N: the planes are lost, and the management plane starts. -/
theorem State.mreset_leaves {c : BootChecks} (hreq : s.bind.request = none) (hboot : s.slotBoots c s.trust.preferred = true)
    {t : State} (ht : t = { s.losePlanes with power := { s.losePlanes.power with vbusState := 0 } }) :
    (t.startManagement c).power.vbusState = 0 ∧ (t.startManagement c).dict.running = true ∧ (t.startManagement c).trust.recovery = false ∧
    (t.startManagement c).trust.runningSlot = s.trust.preferred ∧ (t.startManagement c).dict.sessions = [] ∧
    (t.startManagement c).bind.table = [] ∧ (t.startManagement c).mem = [] ∧ (t.startManagement c).flash = s.flash ∧
    ∀ e, ((t.startManagement c).easel e).mode = .free := by
  obtain ⟨hplanes, -, -, heasel⟩ := State.losePlanes_lost hreq
  obtain ⟨hmode, htable, -, hmem, -, -, hflash, htrust, -⟩ := hplanes
  have htrust' : t.trust = s.trust := by rw [ht]; exact htrust
  have hboot' : t.slotBoots c t.trust.preferred = true := by
    rw [htrust', State.slotBoots, htrust']
    exact hboot
  have hm := State.startManagement_boots hboot'
  obtain ⟨hrun, hrec, hslot, hsessions, -⟩ := State.startManagement_leaves hboot'
  have hoff : ((t.managementReset.runsSlot t.trust.preferred).easel 0).events.enable = false := by
    have h0 : (t.managementReset.runsSlot t.trust.preferred).easel 0 = (s.easel 0).emptied := by
      rw [ht]
      exact heasel 0
    rw [h0]
    rfl
  obtain ⟨-, hmem', hflash'⟩ := hm.held hoff
  refine ⟨?_, hrun, hrec, hslot.trans (by rw [htrust']), hsessions, ?_, hmem'.trans ?_, hflash'.trans ?_, fun e => (hm.mode e).trans ?_⟩
  · rw [hm.power, ht]
    rfl
  · rw [hm.bind, ht]
    exact htable
  · rw [ht]
    exact hmem
  · rw [ht]
    exact hflash
  · rw [ht]
    exact (hmode e).1

theorem exec_curatorRestart {c : BootChecks} (hvaux : s.power.vaux = true) (hrun : s.dict.running = true) (down : Bool) :
    exec (.curatorRestart c down) s = .next (if down then s.stopCurator else s.restartCurator c) := by
  have harm : exec (.curatorRestart c down) s = execCuratorRestart c s down := rfl
  rw [harm, execCuratorRestart, if_neg (by simp [hvaux, hrun])]
  exact (apply_ite Host.Outcome.next _ _ _).symm

/-- The Curator back, before its checks. -/
def State.curatorBack (s : State) : State := { s.stopCurator with dict := { s.stopCurator.dict with running := true, restarting := false } }

theorem State.restartCurator_leaves {c : BootChecks} (hboot : s.slotBoots c s.trust.preferred = true) (hreq : s.bind.request = none) :
    ManagementOnly (s.curatorBack.runsSlot s.trust.preferred) (s.restartCurator c) ∧ (s.restartCurator c).dict.values = s.dict.values := by
  have hboot' : s.curatorBack.bootFirmware c = s.curatorBack.runsSlot s.trust.preferred := State.bootFirmware_boots (s := s.curatorBack) hboot
  have hm := (s.curatorBack.runsSlot s.trust.preferred).bootIdentity_management c
  have heq : s.restartCurator c = (s.curatorBack.runsSlot s.trust.preferred).bootIdentity c := by
    unfold State.restartCurator
    dsimp only
    rw [← State.curatorBack, hboot']
    generalize State.bootIdentity _ c = t at hm ⊢
    rw [hm.bind]
    have hnone : (s.curatorBack.runsSlot s.trust.preferred).bind.request = none := hreq
    rw [hnone]
  rw [heq]
  exact ⟨hm, State.bootIdentity_values _ c⟩

end

end Sys2Proof.Machine
end

section
/-! PROOFS. The start of the VBUS domain (R440, R447). -/

namespace Sys2Proof.Machine

/-! ### What the start-up tests leave of power and of the easels' keys -/

/-- Power and the easels' keys stand. -/
def KeysKept (s s' : State) : Prop := s'.power = s.power ∧ ∀ f, (s'.easel f).keyEpoch = (s.easel f).keyEpoch

theorem KeysKept.refl (s : State) : KeysKept s s := ⟨rfl, fun _ => rfl⟩
theorem KeysKept.trans {a b c : State} (h : KeysKept a b) (k : KeysKept b c) : KeysKept a c :=
  ⟨k.1.trans h.1, fun f => (k.2 f).trans (h.2 f)⟩

theorem KeysKept.of_fields {s s' : State} (hp : s'.power = s.power) (he : s'.easels = s.easels) : KeysKept s s' :=
  ⟨hp, fun f => by rw [State.easel, he, State.easel]⟩

theorem RecordsOnly.keys {s s' : State} (h : RecordsOnly s s') : KeysKept s s' := ⟨h.power, fun f => (h.face f).2.2⟩

theorem OthersKept.keys {e : Nat} {s s' : State} (h : OthersKept e s s') (hself : (s'.easel e).keyEpoch = (s.easel e).keyEpoch) :
    KeysKept s s' :=
  ⟨h.power, fun f => by
    by_cases hf : f = e
    · rw [hf, hself]
    · exact (h.face f hf).2.2⟩

theorem Cleared.keys {e : Nat} {s s' : State} (h : Cleared e s s') : KeysKept s s' := h.others.keys h.self.2.2

theorem KeysKept.foldl {α : Type} {f : State → α → State} (h : ∀ s x, KeysKept s (f s x)) (l : List α) (s : State) :
    KeysKept s (l.foldl f s) := foldl_keeps_state KeysKept .refl (fun _ _ _ => .trans) f h l s

theorem State.setEasel_keys {s : State} {e : Nat} {x : Easel} (h : x.keyEpoch = (s.easel e).keyEpoch) : KeysKept s (s.setEasel e x) :=
  (s.setEasel_others e x).keys (by rw [State.setEasel_easel_self, h])

theorem State.onEasel_keys {s : State} {e : Nat} {g : Easel → Easel} (h : (g (s.easel e)).keyEpoch = (s.easel e).keyEpoch) :
    KeysKept s (s.onEasel e g) := State.setEasel_keys h

section
variable (s : State) (e : Nat)

theorem State.freeEasel_keys : KeysKept s (s.freeEasel e) :=
  (State.freeEasel_others e s).keys (by rw [State.freeEasel, State.onEasel_easel_self]; rfl)

theorem State.unloadCanvas_keys : KeysKept s (s.unloadCanvas e) :=
  (s.unloadCanvas_kept e).1.keys (s.unloadCanvas_kept e).2.2.2.1

theorem State.retirePages_keys (cls first count : Nat) : KeysKept s (s.retirePages e cls first count) := by
  unfold State.retirePages
  dsimp only
  split
  · refine KeysKept.foldl (fun s p => ?_) _ s
    refine KeysKept.trans ?_ (State.report_records _ _ _ _ _ _ _).keys
    exact .of_fields rfl rfl
  · exact .refl s

theorem State.releaseRuns_keys (l : List (Nat × Nat × Nat)) (erase : Bool) : KeysKept s (s.releaseRuns e l erase) := by
  refine KeysKept.foldl (fun s r => ?_) l s
  dsimp only
  have hunbind (t : State) : KeysKept t (t.unbindRun r.1 r.2.1 r.2.2) := .of_fields rfl rfl
  refine KeysKept.trans (KeysKept.trans ?_ (State.retirePages_keys _ e _ _ _)) (hunbind _)
  split
  · exact (s.clearQueues_cleared e _ _).keys
  · exact (s.clearUnits_cleared e _ _ _ _ _).keys

theorem State.revokeEasel_keys (cause : Nat) : KeysKept s (s.revokeEasel e cause) := by
  unfold State.revokeEasel
  split
  · exact .refl s
  · dsimp only
    have hinvalidate (t : State) : KeysKept t t.invalidate := .of_fields rfl rfl
    refine KeysKept.trans ?_ (hinvalidate _)
    refine KeysKept.trans ?_ (State.freeEasel_keys _ e)
    refine KeysKept.trans ?_ (State.releaseRuns_keys _ e _ false)
    exact (s.stopEasel_cleared e).keys.trans (State.revoked_records _ e cause).keys

theorem State.endRequest_keys (easel status code a b : Nat) : KeysKept s (s.endRequest easel status code a b) := by
  have hrevoke (t : State) : KeysKept t t.revokeWaiting := by
    unfold State.revokeWaiting
    refine KeysKept.trans (.of_fields rfl rfl) (KeysKept.foldl (fun s (r : Nat × Nat) => s.revokeEasel_keys r.1 r.2) _ _)
  unfold State.endRequest
  dsimp only
  refine KeysKept.trans ?_ (hrevoke _)
  refine KeysKept.trans ?_ (State.tell_records _ _ _).keys
  exact .of_fields rfl rfl

theorem State.backToFree_keys (r : Request) : KeysKept s (s.backToFree r) := by
  unfold State.backToFree
  split
  · exact s.freeEasel_keys _
  · exact .refl s

theorem State.rollback_keys (r : Request) (reason idx : Nat) (lost : List (Nat × Nat × Nat)) : KeysKept s (s.rollback r reason idx lost) := by
  unfold State.rollback
  dsimp only
  refine KeysKept.trans ?_ (State.endRequest_keys _ _ _ _ _ _)
  refine KeysKept.trans ?_ (State.backToFree_keys _ r)
  have hmode (t : State) : KeysKept t (if r.op = 1 then t else if t.empty r.releases then t.freeEasel r.releases
      else t.onEasel r.releases fun x => { x with mode := if x.mode == .clearing || x.mode == .draining then
        (if r.beforeSource == .free then x.mode else r.beforeSource) else x.mode }) := by
    split
    · exact .refl t
    · split
      · exact t.freeEasel_keys _
      · exact State.onEasel_keys rfl
  refine KeysKept.trans ?_ (hmode _)
  have hunload (t : State) (l : List (Nat × Nat × Nat)) : KeysKept t (if t.namesAny r.releases l then t.unloadCanvas r.releases else t) := by
    split
    · exact t.unloadCanvas_keys _
    · exact .refl t
  split
  · exact .of_fields rfl rfl
  · refine KeysKept.trans ?_ (State.releaseRuns_keys _ _ _ _)
    refine KeysKept.trans ?_ (hunload _ _)
    exact .of_fields rfl rfl

theorem State.fault_keys : KeysKept s (s.fault e) := by
  refine ⟨(s.fault_frame e).power, fun f => ?_⟩
  by_cases hf : f = e
  · subst hf
    by_cases hw : s.works f = true
    · rw [State.fault_easel hw]
    · rw [State.fault, if_neg hw]
  · rw [State.fault_other s e f hf]

theorem State.finishCmd_keys (c : Cmd) : KeysKept s (s.finishCmd e c) := by
  have hcomplete (t : State) (boundary : Bool) : KeysKept t (t.complete e c boundary) := by
    unfold State.complete
    dsimp only
    split
    · refine KeysKept.trans ?_ (State.fault_keys _ e)
      exact State.onEasel_keys rfl
    · have hended : KeysKept t (t.setEasel e ((t.easel e).ended c)) :=
        State.setEasel_keys (Easel.setQueue_keyEpoch _ _ _)
      split
      · exact hended.trans (State.reportSeq_records _ _ _ _ _ _ _ _).keys
      · exact hended
  unfold State.finishCmd
  dsimp only
  refine KeysKept.trans ?_ (hcomplete _ _)
  split
  · exact State.setEasel_keys rfl
  · exact .refl s

theorem State.loadTileLost_keys : KeysKept s (s.loadTileLost e) := by
  unfold State.loadTileLost
  dsimp only
  split
  · refine KeysKept.trans ?_ (State.finishCmd_keys _ e _)
    refine KeysKept.trans ?_ (State.reportSeq_records _ _ _ _ _ _ _ _).keys
    exact State.setEasel_keys rfl
  · exact .refl s

theorem State.requestTileLost_keys (n : Nat) : KeysKept s (s.requestTileLost n) := by
  unfold State.requestTileLost
  split
  · split
    · split
      · exact s.rollback_keys _ _ _ _
      · exact .refl s
    · exact .refl s
  · exact .refl s

theorem State.spareExhausted_records (owner : Option Nat) (phys : Nat) : RecordsOnly s (s.spareExhausted owner phys) := by
  unfold State.spareExhausted
  split
  · exact s.report_records _ _ _ _ _ _
  · exact s.reportDevice_records _ _ _ _ _

theorem State.unitRetired_records (owner : Option Nat) (unit cls : Nat) : RecordsOnly s (s.unitRetired owner unit cls) := by
  unfold State.unitRetired
  split
  · exact s.report_records _ _ _ _ _ _
  · exact s.reportDevice_records _ _ _ _ _

theorem State.loseTile_keys (n : Nat) (sudden : Bool) : KeysKept s (s.loseTile n sudden) := by
  unfold State.loseTile
  dsimp only
  have hremove : KeysKept s (s.removeTile n) := .of_fields rfl rfl
  have hunbind (t : State) : KeysKept t (t.unbindRun 1 n 1) := .of_fields rfl rfl
  have hremoved : KeysKept s (if sudden || (s.ownerOf 1 n).isNone then ((s.removeTile n).clearTile n).unbindRun 1 n 1 else s.removeTile n) := by
    split
    · exact (hremove.trans (State.clearTile_cleared 0 _ n).keys).trans (hunbind _)
    · exact hremove
  generalize (if sudden || (s.ownerOf 1 n).isNone then ((s.removeTile n).clearTile n).unbindRun 1 n 1 else s.removeTile n) = t at hremoved ⊢
  have hlost := (hremoved.trans (t.spareExhausted_records (s.ownerOf 1 n) (physId (s.server n))).keys).trans (State.requestTileLost_keys _ n)
  split
  · next e _ =>
    refine (hlost.trans (State.loadTileLost_keys _ e)).trans ?_
    split
    · exact State.fault_keys _ _
    · exact State.onEasel_keys rfl
  · exact hlost

theorem State.failedTest_keys (n : Nat) : KeysKept s (s.failedTest n) := by
  unfold State.failedTest
  split
  · refine KeysKept.trans ?_ (State.unitRetired_records _ _ _ _).keys
    exact .of_fields rfl rfl
  · split
    · exact .refl s
    · dsimp only
      split
      · refine KeysKept.trans ?_ (State.unitRetired_records _ _ _ _).keys
        exact .of_fields rfl rfl
      · refine KeysKept.trans ?_ (State.loseTile_keys _ _ _)
        refine KeysKept.trans ?_ (State.unitRetired_records _ _ _ _).keys
        exact .of_fields rfl rfl

end

/-! ### The start of the domain -/

section
variable {s : State}

theorem exec_vbusStartup (hvaux : s.power.vaux = true) (hrun : s.dict.running = true) (hrec : s.trust.recovery = false)
    (hoff : s.power.vbusState = 0) (hcool : s.power.stopCause = thermalCause → s.cool = true) (hstage : s.power.stopCause ≠ 7) :
    exec .vbusStartup s = .next s.beginVbus := by
  have harm : exec .vbusStartup s = execVbusStartup s := rfl
  have hstart : s.startVbus = s.beginVbus := if_neg hstage
  have hthermal : (s.power.stopCause != thermalCause || s.cool) = true := by
    by_cases h : s.power.stopCause = thermalCause
    · simp [hcool h]
    · simp [h]
  rw [harm, execVbusStartup, if_pos (by simp [hvaux, hrun, hrec, hoff, hthermal]), hstart]

theorem exec_vbusCauseCleared (hstate : s.power.vbusState = 3) (hvaux : s.power.vaux = true) (hrun : s.dict.running = true)
    (hrec : s.trust.recovery = false) (hcause : s.power.stopCause = 3 ∨ s.power.stopCause = 9) :
    exec .vbusCauseCleared s = .next (s.clearCauses (· = s.power.stopCause)).beginVbus := by
  have harm : exec .vbusCauseCleared s = execVbusCauseCleared s := rfl
  rw [harm, execVbusCauseCleared]
  exact if_pos (by simp [hstate, hvaux, hrun, hrec, hcause])

theorem exec_vbusCauseCleared_stays (h : s.power.vbusState = 4 ∨ s.power.stopCause = 7 ∨ s.trust.recovery = true) :
    exec .vbusCauseCleared s = .next s := by
  have harm : exec .vbusCauseCleared s = execVbusCauseCleared s := rfl
  rw [harm, execVbusCauseCleared]
  refine if_neg ?_
  obtain h | h | h := h <;> simp [h]

theorem exec_refclkArrival {us : Nat} {failed : List Nat} {later : Bool} (hstate : s.power.vbusState = 1)
    (h : s.power.waitRefclk = true ∨ s.power.calibrated = true) : exec (.refclkArrival us failed later) s =
      .next (if later then s.calibrate else s.calibrate.endStartup us failed) := by
  have harm : exec (.refclkArrival us failed later) s = execRefclkArrival us failed s later := rfl
  rw [harm, execRefclkArrival]
  exact if_pos (by simpa [hstate] using h)

/-- The next key differs. -/
theorem nextKey_ne (k : Nat) : (k + 1) % 2 ^ 32 ≠ k := by omega

/-- Easel 0 BOUND with a new key over the table of order 7. -/
theorem State.initBinding_leaves (h : s.power.testEn = false) : s.initBinding.bind.table = [⟨8, 0, 1, 0, 0⟩] ∧
    (s.initBinding.easel 0).mode = .bound ∧ (s.initBinding.easel 0).keyEpoch = ((s.easel 0).keyEpoch + 1) % 2 ^ 32 ∧
    s.initBinding.power = s.power := by
  unfold State.initBinding
  rw [if_neg (by simp [h])]
  dsimp only
  rw [State.onEasel_easel_self, State.leaveFree_easel_self]
  exact ⟨rfl, rfl, rfl, rfl⟩

theorem State.armTraces_rest (l : List Nat) (s : State) : (l.foldl State.armTrace s).easels = s.easels ∧ (l.foldl State.armTrace s).bind = s.bind ∧
    (l.foldl State.armTrace s).power = s.power := by
  refine foldl_keeps_state (fun s s' => s'.easels = s.easels ∧ s'.bind = s.bind ∧ s'.power = s.power) (fun _ => ⟨rfl, rfl, rfl⟩)
    (fun _ _ _ h k => ⟨k.1.trans h.1, k.2.1.trans h.2.1, k.2.2.trans h.2.2⟩) _ (fun s d => ?_) l s
  exact ⟨rfl, rfl, rfl⟩

/-- Order 8 leaves the bindings and the easels' faces, and takes the record of a stop. -/
theorem State.startComplete_leaves (s : State) (us : Nat) : (s.startComplete us).bind = s.bind ∧
    SameFace (s.easel 0) ((s.startComplete us).easel 0) ∧ (s.startComplete us).power = { s.power with stopRecord := none } := by
  have hkept : ∃ t, s.startComplete us = (List.range 4).foldl State.armTrace t ∧
      RecordsOnly { s with power := { s.power with stopRecord := none } } t := by
    refine ⟨_, rfl, ?_⟩
    refine RecordsOnly.trans ?_ (State.reportDevice_records _ _ _ _ _ _)
    split
    · exact State.deliver_records _ _ _
    · next hnone =>
      have heq : ({ s with power := { s.power with stopRecord := none } } : State) = s := by rw [← hnone]
      rw [heq]
      exact .refl s
  obtain ⟨t, heq, hrec⟩ := hkept
  obtain ⟨heasels, hbind, hpower⟩ := State.armTraces_rest (List.range 4) t
  have heasel : ((List.range 4).foldl State.armTrace t).easel 0 = t.easel 0 := by rw [State.easel, heasels, State.easel]
  rw [heq, heasel]
  exact ⟨hbind.trans hrec.bind, hrec.face 0, hpower.trans hrec.power⟩

/-- The device as its tests begin. -/
def State.testing (s : State) (us : Nat) : State :=
  let t := ({ s with power := { s.power with vbusState := 2 } } : State).freeTimes 6 7
  { t with power := { t.power with startTimes := t.power.startTimes.set 13 (us % 2 ^ 32) } }

theorem State.freeTimes_rest (s : State) (lo n : Nat) : (∃ times, (s.freeTimes lo n).power = { s.power with startTimes := times }) ∧
    (s.freeTimes lo n).easels = s.easels := ⟨⟨_, rfl⟩, rfl⟩

theorem State.testing_rest (s : State) (us : Nat) : (s.testing us).power.vbusState = 2 ∧ (s.testing us).power.calibrated = s.power.calibrated ∧
    (s.testing us).power.testEn = s.power.testEn ∧ (s.testing us).easel 0 = s.easel 0 := by
  unfold State.testing
  obtain ⟨⟨times, hpower⟩, heasels⟩ := State.freeTimes_rest { s with power := { s.power with vbusState := 2 } } 6 7
  generalize State.freeTimes _ 6 7 = t at hpower heasels ⊢
  dsimp only
  rw [hpower]
  refine ⟨rfl, rfl, rfl, ?_⟩
  unfold State.easel
  dsimp only
  rw [heasels]

/-- Orders 4 to 8. -/
theorem State.endStartup_leaves (us : Nat) (failed : List Nat) (h : s.power.testEn = false) :
    (s.endStartup us failed).power.vbusState = 2 ∧ (s.endStartup us failed).power.calibrated = s.power.calibrated ∧
    (s.endStartup us failed).bind.table = [⟨8, 0, 1, 0, 0⟩] ∧ ((s.endStartup us failed).easel 0).mode = .bound ∧
    ((s.endStartup us failed).easel 0).keyEpoch = ((s.easel 0).keyEpoch + 1) % 2 ^ 32 ∧ (s.endStartup us failed).power.stopRecord = none := by
  have heq : s.endStartup us failed = (((s.testing us).startupTests failed).initBinding).startComplete us := rfl
  obtain ⟨hvbus, hcal, htest, heasel⟩ := s.testing_rest us
  generalize s.testing us = t at heq hvbus hcal htest heasel
  obtain ⟨hpower, hkey⟩ : KeysKept t (t.startupTests failed) := KeysKept.foldl State.failedTest_keys failed t
  obtain ⟨htable, hmode, hnew, hpower'⟩ := State.initBinding_leaves (s := t.startupTests failed) (by rw [hpower, htest, h])
  obtain ⟨hbind, hface, hlast⟩ := (t.startupTests failed).initBinding.startComplete_leaves us
  rw [heq, hlast, hbind, hface.1, hface.2.2, hpower', hpower, hnew, hkey, heasel]
  exact ⟨hvbus, hcal, htable, hmode, rfl, rfl⟩

end

/-- Settles O57: the starts of the management plane and of the domain. -/
theorem domainStarts : Obligations.DomainStarts := by
  unfold Obligations.DomainStarts
  refine ⟨fun s c hboot => ⟨fun hvaux => ?_, fun hreq hvaux hvio => ?_, fun hrun hvaux hreq => ?_, fun hrun hvaux => ?_⟩,
    fun s hvaux hrun hrec hoff hcool hstage => ⟨_, exec_vbusStartup hvaux hrun hrec hoff hcool hstage, rfl, rfl, rfl, rfl, rfl, rfl⟩,
    fun s hstate hvaux hrun hrec hcause => ?_, fun s h => exec_vbusCauseCleared_stays h, fun s us failed hstate h => ⟨fun htest => ?_, ?_⟩⟩
  · obtain ⟨hrun, hrec, hslot, hsessions, hreq⟩ := State.startManagement_leaves (s := s.vauxOn) (c := c) hboot
    refine ⟨_, exec_vauxPowerOn hvaux, ?_, hrun, hrec, hslot, hsessions, hreq⟩
    exact congrArg Power.vaux (State.startManagement_boots (s := s.vauxOn) (c := c) hboot).power
  · exact ⟨_, exec_mreset hvaux hvio, State.mreset_leaves hreq hboot rfl⟩
  · obtain ⟨hm, hvalues⟩ := State.restartCurator_leaves hboot hreq
    obtain ⟨values, hdict⟩ := hm.dict
    refine ⟨_, exec_curatorRestart hvaux hrun false, hm.trust.1, hm.trust.2, ?_, ?_, ?_, ?_, ?_, hvalues, hm.bind, hm.tiles, hm.sems⟩
    · exact (congrArg Dict.staging hdict).trans rfl
    · exact (congrArg Dict.transactions hdict).trans rfl
    · exact (congrArg Dict.running hdict).trans rfl
    · exact (congrArg Dict.waiting hdict).trans rfl
    · exact (congrArg Dict.sessions hdict).trans rfl
  · refine ⟨_, exec_curatorRestart hvaux hrun true, rfl, rfl, rfl, rfl, rfl, rfl, fun v => ⟨rfl, rfl⟩⟩
  · refine ⟨_, exec_vbusCauseCleared hstate hvaux hrun hrec hcause, rfl, rfl, rfl, rfl, fun hmem => ?_⟩
    exact absurd (List.mem_filter.mp hmem).2 (by simp)
  · refine ⟨_, exec_refclkArrival hstate h, ?_⟩
    obtain ⟨hvbus, hcal, htable, hmode, hkey, hrecord⟩ := State.endStartup_leaves (s := s.calibrate) us failed htest
    rw [if_neg Bool.false_ne_true]
    refine ⟨hvbus, hcal, htable, hmode, ?_, hrecord⟩
    rw [hkey]
    exact nextKey_ne _
  · refine ⟨_, exec_refclkArrival hstate h, ?_⟩
    rw [if_pos rfl]
    exact ⟨rfl, hstate, rfl, rfl, fun hmem => absurd (List.mem_filter.mp hmem).2 (by simp)⟩

end Sys2Proof.Machine
end

section
/-! PROOFS. Tiles that fail, wear and the patrol (R40, R268, R386 to R390). -/

namespace Sys2Proof.Machine

section
variable {s : State} {e : Nat}

/-! ### What ends requests and commands leaves of the bindings -/

/-- The tiles' roles and the self-test stand. -/
def RolesKept (s s' : State) : Prop := s'.bind.roles = s.bind.roles ∧ s'.bind.selftest = s.bind.selftest

theorem RolesKept.refl (s : State) : RolesKept s s := ⟨rfl, rfl⟩
theorem RolesKept.trans {a b c : State} (h : RolesKept a b) (k : RolesKept b c) : RolesKept a c := ⟨k.1.trans h.1, k.2.trans h.2⟩
theorem RolesKept.of_bind {t : State} (h : t.bind = s.bind) : RolesKept s t := by
  unfold RolesKept
  rw [h]
  exact ⟨rfl, rfl⟩

theorem State.releaseRuns_roles (s : State) (e : Nat) (l : List (Nat × Nat × Nat)) (erase : Bool) : RolesKept s (s.releaseRuns e l erase) := by
  obtain ⟨gone, h⟩ := State.releaseRuns_bind (e := e) l erase s
  unfold RolesKept
  rw [h]
  exact ⟨rfl, rfl⟩

theorem State.revokeEasel_roles (s : State) (e cause : Nat) : RolesKept s (s.revokeEasel e cause) := by
  unfold State.revokeEasel
  split
  · exact .refl s
  · dsimp only
    have hstop : RolesKept s (s.stopEasel e) := .of_bind (s.stopEasel_frame e).bind
    have hend (t : State) : RolesKept t (t.freeEasel e).invalidate := .refl t
    refine RolesKept.trans ?_ (hend _)
    exact (hstop.trans (.of_bind ((s.stopEasel e).revoked_records e cause).bind)).trans (State.releaseRuns_roles _ e _ _)

theorem State.endRequest_roles (s : State) (easel status code a b : Nat) : RolesKept s (s.endRequest easel status code a b) := by
  have hrevoke (t : State) : RolesKept t t.revokeWaiting := by
    unfold State.revokeWaiting
    have hnone : RolesKept t { t with bind := { t.bind with revoke := [] } } := ⟨rfl, rfl⟩
    exact hnone.trans (foldl_keeps_state RolesKept .refl (fun _ _ _ => .trans) _
      (fun s (r : Nat × Nat) => s.revokeEasel_roles r.1 r.2) t.bind.revoke _)
  unfold State.endRequest
  dsimp only
  refine RolesKept.trans ?_ (hrevoke _)
  refine RolesKept.trans ?_ (.of_bind (State.tell_records _ _ _).bind)
  exact ⟨rfl, rfl⟩

theorem State.rollback_roles (s : State) (r : Request) (reason idx : Nat) (lost : List (Nat × Nat × Nat)) :
    RolesKept s (s.rollback r reason idx lost) := by
  have hback (t : State) : RolesKept t (t.backToFree r) := by
    unfold State.backToFree
    split <;> exact ⟨rfl, rfl⟩
  have hmode (t : State) : RolesKept t (if r.op = 1 then t else if t.empty r.releases then t.freeEasel r.releases
      else t.onEasel r.releases fun x => { x with mode := if x.mode == .clearing || x.mode == .draining then
        (if r.beforeSource == .free then x.mode else r.beforeSource) else x.mode }) := by
    split
    · exact .refl t
    · split <;> exact ⟨rfl, rfl⟩
  have hunload (t : State) (l : List (Nat × Nat × Nat)) : RolesKept t (if t.namesAny r.releases l then t.unloadCanvas r.releases else t) := by
    split
    · exact .of_bind (t.unloadCanvas_kept r.releases).2.2.2.2.2
    · exact .refl t
  unfold State.rollback State.rejectRequest
  dsimp only
  refine RolesKept.trans ?_ (State.endRequest_roles _ _ _ _ _ _)
  refine RolesKept.trans ?_ (hback _)
  refine RolesKept.trans ?_ (hmode _)
  split
  · exact ⟨rfl, rfl⟩
  · refine RolesKept.trans ?_ (State.releaseRuns_roles _ _ _ _)
    refine RolesKept.trans ?_ (hunload _ _)
    exact ⟨rfl, rfl⟩

theorem State.requestTileLost_roles (s : State) (n : Nat) : RolesKept s (s.requestTileLost n) := by
  unfold State.requestTileLost
  split
  · split
    · split
      · exact s.rollback_roles _ _ _ _
      · exact .refl s
    · exact .refl s
  · exact .refl s

/-! ### An easel that works or is FAULTED -/

/-- Whether an easel works or has stopped. -/
def Easel.stands (x : Easel) : Prop := x.works = true ∨ x.mode = .faulted

theorem Easel.stands_congr {x y : Easel} (hm : y.mode = x.mode) (hr : y.rejected = x.rejected) (h : x.stands) : y.stands := by
  unfold Easel.stands Easel.works at *
  rwa [hm, hr]

theorem RecordsOnly.stands {t : State} (h : RecordsOnly s t) (hs : (s.easel e).stands) : (t.easel e).stands := by
  refine Easel.stands_congr (h.mode e) ?_ hs
  rw [h.2.1 e]

theorem State.fault_faulted (h : (s.easel e).stands) : ((s.fault e).easel e).mode = .faulted := by
  by_cases hw : s.works e = true
  · exact s.fault_mode e hw
  · rw [State.fault, if_neg hw]
    exact h.resolve_left hw

theorem Easel.setQueue_rejected (x : Easel) (q : Nat) (u : Queue) : (x.setQueue q u).rejected = x.rejected := by
  unfold Easel.setQueue
  split <;> rfl

/-- The end of a command leaves the bindings, and an easel that works or has stopped. -/
theorem State.complete_stands (s : State) (e : Nat) (c : Cmd) (boundary : Bool) : (s.complete e c boundary).bind = s.bind ∧
    ((s.easel e).stands → ((s.complete e c boundary).easel e).stands) := by
  unfold State.complete
  dsimp only
  split
  · refine ⟨State.fault_bind _ e, fun h => .inr (State.fault_faulted ?_)⟩
    rw [State.onEasel_easel_self]
    exact h
  · have hended (h : (s.easel e).stands) : ((s.setEasel e ((s.easel e).ended c)).easel e).stands := by
      rw [State.setEasel_easel_self]
      exact Easel.stands_congr (Easel.setQueue_mode _ _ _) (Easel.setQueue_rejected _ _ _) h
    split
    · exact ⟨(State.reportSeq_records _ _ _ _ _ _ _ _).bind, fun h => (State.reportSeq_records _ _ _ _ _ _ _ _).stands (hended h)⟩
    · exact ⟨rfl, hended⟩

theorem State.finishCmd_stands (s : State) (e : Nat) (c : Cmd) : (s.finishCmd e c).bind = s.bind ∧
    ((s.easel e).stands → ((s.finishCmd e c).easel e).stands) := by
  unfold State.finishCmd
  dsimp only
  split
  · obtain ⟨hbind, hstands⟩ := State.complete_stands (s.setEasel e { s.easel e with lastDone := c.step }) e c ((s.easel e).boundary c)
    rw [State.setEasel_easel_self] at hstands
    exact ⟨hbind, hstands⟩
  · exact State.complete_stands s e c _

theorem State.loadTileLost_stands (s : State) (e : Nat) : (s.loadTileLost e).bind = s.bind ∧
    ((s.easel e).stands → ((s.loadTileLost e).easel e).stands) := by
  unfold State.loadTileLost
  dsimp only
  split
  · next c _ =>
    have hrec : RecordsOnly (s.setEasel e { s.easel e with loading := none })
        ((s.setEasel e { s.easel e with loading := none }).loadFault e c 0x0204 5 (headLocus 20)) := State.reportSeq_records _ _ _ _ _ _ _ _
    obtain ⟨hbind, hstands⟩ := State.finishCmd_stands
      ((s.setEasel e { s.easel e with loading := none }).loadFault e c 0x0204 5 (headLocus 20)) e c
    exact ⟨hbind.trans hrec.bind, fun h => hstands (hrec.stands (by rw [State.setEasel_easel_self]; exact h))⟩
  · exact ⟨rfl, id⟩

/-! ### A spare takes over (R40, R386) -/

theorem State.replaceTile_leaves (s : State) (t p : Nat) : (s.replaceTile t p).server t = p ∧ (s.replaceTile t p).role p = 4 ∧
    (s.replaceTile t p).bind.table = s.bind.table ∧ (s.replaceTile t p).tiles = s.tiles ∧ (s.replaceTile t p).sems = s.sems :=
  ⟨tget_tset_self t _ t p, tget_tset_self 0 _ p 4, rfl, rfl, rfl⟩

theorem State.afterFailure_bind (s : State) (e die phys : Nat) : (s.afterFailure e die phys).bind = s.bind := by
  unfold State.afterFailure
  dsimp only
  split
  · split
    · exact (s.undefineForming_only e).bind
    · exact s.fault_bind e
  · rfl

variable {t choice p : Nat}

/-- The state after a sudden failure that spare `p` makes good. -/
def State.failedOver (s : State) (t p : Nat) : State :=
  let u := (s.replaceTile t p).freshStore t
  match u.ownerOf 1 t with
  | some e => u.afterFailure e (t / 168) (physId (s.server t))
  | none => u

theorem exec_tileFailure_spare (hb : s.bindable t = true) (hup : s.vbusUp = true) (hp : s.spareFor t choice = some p) :
    exec (.tileFailure t choice) s = .next (s.failedOver t p) := by
  have harm : exec (.tileFailure t choice) s = execTileFailure t choice s := rfl
  rw [harm, execTileFailure, if_neg (by simp [hb, hup]), hp]
  rfl

theorem State.failedOver_bind (s : State) (t p : Nat) : (s.failedOver t p).bind = (s.replaceTile t p).bind := by
  unfold State.failedOver
  dsimp only
  split
  · exact (State.afterFailure_bind _ _ _ _).trans rfl
  · rfl

theorem exec_tileRetire (hb : s.bindable t = true) (hup : s.vbusUp = true) (hquiet : ∀ e, s.ownerOf 1 t = some e → (s.easel e).quiet = true) :
    exec (.tileRetire t choice) s = match s.spareFor t choice with
      | some p => .next ((s.replaceTile t p).unitRetired (s.ownerOf 1 t) (physId (s.server t)) 1)
      | none => .next ((s.unitRetired (s.ownerOf 1 t) (physId (s.server t)) 1).loseTile t false) := by
  have harm : exec (.tileRetire t choice) s = execTileRetire t choice s := rfl
  rw [harm, execTileRetire]
  cases howner : s.ownerOf 1 t with
  | none => exact if_neg (by simp [hb, hup])
  | some e => exact if_neg (by simp [hb, hup, hquiet e howner])

theorem exec_tileRetire_busy (he : s.ownerOf 1 t = some e) (hquiet : (s.easel e).quiet = false) : exec (.tileRetire t choice) s = .next s := by
  have harm : exec (.tileRetire t choice) s = execTileRetire t choice s := rfl
  rw [harm, execTileRetire, he]
  exact if_pos (by simp [hquiet])

/-! ### A tile lost without a spare (R387) -/

/-- The tile taken away with a sudden failure: cleared, and owned by none. -/
def State.tileGone (s : State) (t : Nat) : State := ((s.removeTile t).clearTile t).unbindRun 1 t 1

theorem State.removeTile_role (s : State) (t : Nat) : (s.removeTile t).role t = 2 := tget_tset_self 0 _ t 2

theorem State.tileGone_leaves (s : State) (t : Nat) : (s.tileGone t).bind.request = s.bind.request ∧
    (s.tileGone t).bind.table = s.bind.table.flatMap (cutExtent 1 t 1) ∧ (s.tileGone t).role t = 2 ∧ (s.tileGone t).easels = s.easels := by
  refine ⟨rfl, rfl, s.removeTile_role t, ?_⟩
  simp only [State.tileGone, State.unbindRun, State.clearTile, State.wipe, State.removeTile, State.setRole, State.recordRetired]

theorem State.loseTile_sudden (he : s.ownerOf 1 t = some e) (hr : s.bind.request = none) : s.loseTile t true =
    (((s.tileGone t).spareExhausted (some e) (physId (s.server t))).loadTileLost e).fault e := by
  have hlost (u : State) (hu : u.bind.request = none) : u.requestTileLost t = u := by rw [State.requestTileLost, hu]
  have hnone : ((s.tileGone t).spareExhausted (some e) (physId (s.server t))).bind.request = none := by
    rw [((s.tileGone t).spareExhausted_records _ _).bind, (s.tileGone_leaves t).1, hr]
  rw [State.loseTile, he]
  dsimp only
  rw [Bool.true_or, if_pos rfl, if_pos rfl, ← State.tileGone, hlost _ hnone]

theorem State.loseTile_sudden_leaves (he : s.ownerOf 1 t = some e) (hr : s.bind.request = none) (hw : s.works e = true) :
    ((s.loseTile t true).easel e).mode = .faulted ∧ (s.loseTile t true).ownerOf 1 t = none ∧ (s.loseTile t true).role t = 2 := by
  have hrec := (s.tileGone t).spareExhausted_records (some e) (physId (s.server t))
  obtain ⟨hrequest, htable, hrole, heasels⟩ := s.tileGone_leaves t
  have hwork : (s.tileGone t).works e = true := by
    rw [State.works, State.easel, heasels]
    exact hw
  rw [State.loseTile_sudden he hr]
  generalize s.tileGone t = u at *
  obtain ⟨hbind, hstands⟩ := (u.spareExhausted (some e) (physId (s.server t))).loadTileLost_stands e
  have hall : ((((u.spareExhausted (some e) (physId (s.server t))).loadTileLost e)).fault e).bind = u.bind := by
    rw [State.fault_bind, hbind, hrec.bind]
  refine ⟨State.fault_faulted (hstands (hrec.stands (.inl hwork))), State.ownerOf_none fun x hx => ?_, ?_⟩
  · rw [State.live_of_idle (by rw [hall, hrequest, hr]), hall, htable] at hx
    obtain ⟨y, -, hy⟩ := List.mem_flatMap.mp hx
    by_contra hhas
    exact (cutExtent_has hy (by simpa using hhas)).2 ⟨rfl, le_refl t, Nat.lt_succ_self t⟩
  · rw [State.role, hall]
    exact hrole

theorem State.loseTile_worn (he : s.ownerOf 1 t = some e) : s.loseTile t false =
    ((((s.removeTile t).spareExhausted (some e) (physId (s.server t))).requestTileLost t).loadTileLost e).faultLater e := by
  rw [State.loseTile, he]
  rfl

theorem State.loadTileLost_roles (s : State) (e : Nat) : RolesKept s (s.loadTileLost e) := .of_bind (s.loadTileLost_stands e).1

theorem State.loseTile_worn_roles (he : s.ownerOf 1 t = some e) : RolesKept (s.removeTile t) (s.loseTile t false) := by
  rw [State.loseTile_worn he]
  have hrec : RolesKept (s.removeTile t) ((s.removeTile t).spareExhausted (some e) (physId (s.server t))) :=
    .of_bind ((s.removeTile t).spareExhausted_records (some e) (physId (s.server t))).bind
  exact ((hrec.trans (State.requestTileLost_roles _ t)).trans (State.loadTileLost_roles _ e)).trans ⟨rfl, rfl⟩

theorem State.loseTile_worn_leaves (he : s.ownerOf 1 t = some e) :
    ((s.loseTile t false).easel e).faultAtBoundary = true ∧ (s.loseTile t false).role t = 2 := by
  refine ⟨?_, ?_⟩
  · rw [State.loseTile_worn he]
    exact congrArg Easel.faultAtBoundary (State.onEasel_easel_self _ e _)
  · rw [State.role, (State.loseTile_worn_roles he).1]
    exact s.removeTile_role t

theorem exec_tileFailure_lost (hb : s.bindable t = true) (hup : s.vbusUp = true) (hp : s.spareFor t choice = none) :
    exec (.tileFailure t choice) s = .next (s.loseTile t true) := by
  have harm : exec (.tileFailure t choice) s = execTileFailure t choice s := rfl
  rw [harm, execTileFailure, if_neg (by simp [hb, hup]), hp]

/-! ### Spares, flash and the patrol (R493, R390, R268) -/

theorem exec_spareTileFailure (hr : s.role t = 1) (ht : t < 1344) (hup : s.vbusUp = true) :
    exec (.spareTileFailure t) s = .next (s.retireSpare t) := by
  have harm : exec (.spareTileFailure t) s = execSpareTileFailure t s := rfl
  rw [harm, execSpareTileFailure]
  exact if_pos (by simp [hr, ht, hup])

theorem State.retireSpare_leaves (s : State) (t : Nat) : (s.retireSpare t).role t = 2 ∧
    (s.retireSpare t).bind.retired = s.bind.retired ++ [(1, t, 0)] ∧ (s.retireSpare t).bind.table = s.bind.table ∧
    (s.retireSpare t).tiles = s.tiles := by
  have hrec := ((s.recordRetired 1 t 0).setRole t 2).unitRetired_records none (physId t) 1
  unfold State.retireSpare
  rw [State.role, hrec.bind, hrec.tiles]
  exact ⟨tget_tset_self 0 _ t 2, rfl, rfl, rfl⟩

theorem exec_flashReadOnly {die : Nat} (hro : s.tiers.readOnly = false) (hup : s.vbusUp = true) : exec (.flashReadOnly die) s =
    .next (State.reportDevice { s with tiers := { s.tiers with readOnly := true, flashWear := s.tiers.flashWear.set die 100 } }
      0x0902 0x07 (die + 32) die 0) := by
  have harm : exec (.flashReadOnly die) s = execFlashReadOnly die s := rfl
  rw [harm, execFlashReadOnly, if_neg (by simp [hro, hup])]

theorem RecordsOnly.tiers {u : State} (h : RecordsOnly s u) : u.tiers = { s.tiers with written := u.tiers.written } := by
  rw [h.1]

variable {a : Nat} {err : MemErr}

theorem exec_patrolRead_waits (h : ∃ b ∈ arbOf a, s.pendingAt b ≠ []) : exec (.patrolRead a err false) s = .next s := by
  have harm : exec (.patrolRead a err false) s = execPatrolRead a err false s := rfl
  rw [harm, execPatrolRead]
  refine if_pos ?_
  have hany : ((arbOf a).any fun b => !(s.pendingAt b).isEmpty) = true := by simpa using h
  rw [hany, Bool.or_true]

theorem exec_patrolRead {w : Nat × Nat × Nat} (hup : s.vbusUp = true) (hpol : policy s 0x5000 4 ≠ 0) (hdram : isDram a = true)
    (hwritten : a / pageBytes ∈ s.tiers.written) (hw : s.whereIs a = some w) (h : ∀ b ∈ arbOf a, s.pendingAt b = []) :
    exec (.patrolRead a err false) s =
      .next ((s.readError w.1 a w.2.1 w.2.2 3 0 (s.easel w.1).lastSeq err).markWorn a) := by
  have harm : exec (.patrolRead a err false) s = execPatrolRead a err false s := rfl
  have hany : ((arbOf a).any fun b => !(s.pendingAt b).isEmpty) = false := by simpa using h
  have hok : s.tiers.written.contains (a / pageBytes) = true := by simpa using hwritten
  rw [harm, execPatrolRead, if_neg (by simp [hup, hpol, hany])]
  dsimp only
  rw [if_neg Bool.false_ne_true, hok, hdram, hw]
  exact if_neg (by simp)

theorem State.cellsRead_written (hwritten : a / pageBytes ∈ s.tiers.written) : s.cellsRead a = true := by
  simp [State.cellsRead, hwritten]

theorem State.readError_clean (e a space addr requester stream seq : Nat) : s.readError e a space addr requester stream seq .clean = s := by
  unfold State.readError
  split <;> rfl

theorem State.markWorn_tiers (s : State) (a : Nat) : s.markWorn a = { s with tiers := (s.markWorn a).tiers } := by
  unfold State.markWorn
  dsimp only
  split <;> rfl

theorem State.markWorn_leaves (s : State) (a p : Nat) : (s.markWorn a).tiers.ueCount = s.tiers.ueCount ∧
    (p ∈ s.tiers.bad → p ∈ (s.markWorn a).tiers.bad) := by
  unfold State.markWorn
  dsimp only
  split
  · exact ⟨rfl, fun h => (mem_insertSet _ _ _).mpr (.inr h)⟩
  · exact ⟨rfl, id⟩

theorem State.uncorrectable_tiers (s : State) (e cls unit seq space addr tier requester stream : Nat) :
    (s.uncorrectable e cls unit seq space addr tier requester stream).tiers.bad = s.tiers.bad ∧
    (s.uncorrectable e cls unit seq space addr tier requester stream).tiers.ueCount = s.tiers.ueCount := by
  have htiers := (s.reportSeq_records 0x0502 e cls unit seq (addr % 2 ^ 60 + space * 2 ^ 60) (tier + requester * 256 + stream * 65536)).tiers
  unfold State.uncorrectable
  dsimp only
  generalize State.reportSeq _ _ _ _ _ _ _ _ = t at htiers ⊢
  split <;> exact ⟨(congrArg (·.bad) htiers).trans rfl, (congrArg (·.ueCount) htiers).trans rfl⟩

theorem tierOf_dram (h : isDram a = true) : tierOf a < 2 := by
  have h : a < 2 * lpddrBase := of_decide_eq_true h
  have hflash : 2 * lpddrBase ≤ flashBase := by decide
  unfold tierOf
  rw [if_neg (Nat.not_le.mpr (Nat.lt_of_lt_of_le h hflash)), if_pos h]
  split <;> decide

/-- An uncorrectable word of DRAM that was not marked yet: its page is to be retired, and counted. -/
theorem State.readError_uncorrectable (e space addr requester stream seq : Nat) (hdram : isDram a = true)
    (hwritten : a / pageBytes ∈ s.tiers.written) (hp : s.poisoned (a / 8 * 8) 8 = false) :
    let s' := s.readError e a space addr requester stream seq .uncorrectable
    a / pageBytes ∈ s'.tiers.bad ∧
      tget 0 s'.tiers.ueCount (stackOf a + 16 * tierOf a) = tget 0 s.tiers.ueCount (stackOf a + 16 * tierOf a) + 1 := by
  have htier := tierOf_dram hdram
  have hne : tierOf a ≠ 4 := by omega
  have heq : s.readError e a space addr requester stream seq .uncorrectable = s.poisonAt e a space addr requester stream seq := by
    rw [State.readError, State.cellsRead_written hwritten]
    simp [hp]
  rw [heq, State.poisonAt]
  dsimp only
  rw [if_neg hne, if_pos htier, if_neg hne]
  obtain ⟨hbad, hcount⟩ := State.uncorrectable_tiers (s := { s.setPoison (a / 64 * 64) 64 with tiers := { s.tiers with
    ueCount := tset s.tiers.ueCount (stackOf a + 16 * tierOf a) (tget 0 s.tiers.ueCount (stackOf a + 16 * tierOf a) + 1)
    bad := insertSet s.tiers.bad (a / pageBytes) } }) e 0x07 (memUnit a) seq space addr (tierOf a) requester stream
  refine ⟨?_, ?_⟩
  · refine (congrArg (a / pageBytes ∈ ·) hbad).mpr ?_
    exact (mem_insertSet _ _ _).mpr (.inl rfl)
  · refine (congrArg (tget 0 · _) hcount).trans ?_
    exact tget_tset_self 0 _ _ _

end

/-- Settles O59: tiles and spares that fail or wear, flash that turns read-only, and the patrol. -/
theorem unitsWear : Obligations.UnitsWear := by
  unfold Obligations.UnitsWear
  refine ⟨fun s t choice hb hup => ⟨fun p hp => ⟨?_, fun hquiet => ?_⟩, fun hnone e he => ⟨fun hr hw => ?_, fun hquiet => ?_⟩,
    fun e he hbusy => exec_tileRetire_busy he hbusy⟩, fun s t hr ht hup => ⟨_, exec_spareTileFailure hr ht hup, s.retireSpare_leaves t⟩,
    fun s die hro hup => ?_, fun s a w hup hpol hdram hwritten hw => ⟨fun hpend err => exec_patrolRead_waits hpend, fun hidle => ?_,
      fun hidle hp => ?_⟩⟩
  · obtain ⟨hserver, hrole, htable, -, -⟩ := s.replaceTile_leaves t p
    refine ⟨_, exec_tileFailure_spare hb hup hp, ?_⟩
    dsimp only
    rw [State.server, State.role, State.failedOver_bind]
    exact ⟨hserver, hrole, htable⟩
  · obtain ⟨hserver, hrole, htable, htiles, hsems⟩ := s.replaceTile_leaves t p
    have hrec := (s.replaceTile t p).unitRetired_records (s.ownerOf 1 t) (physId (s.server t)) 1
    have hexec := exec_tileRetire (choice := choice) hb hup hquiet
    rw [hp] at hexec
    refine ⟨_, hexec, ?_⟩
    dsimp only
    rw [State.server, State.role, hrec.bind, hrec.tile, hrec.sems, State.tile, htiles]
    exact ⟨hserver, hrole, htable, rfl, hsems⟩
  · exact ⟨_, exec_tileFailure_lost hb hup hnone, State.loseTile_sudden_leaves he hr hw⟩
  · have hexec := exec_tileRetire (choice := choice) hb hup fun f hf => by
      rw [he] at hf
      cases hf
      exact hquiet
    rw [hnone] at hexec
    have hrec := s.unitRetired_records (s.ownerOf 1 t) (physId (s.server t)) 1
    refine ⟨_, hexec, State.loseTile_worn_leaves ?_⟩
    rw [State.ownerOf, State.live, hrec.bind]
    exact he
  · have hrec := State.reportDevice_records { s with tiers := { s.tiers with readOnly := true, flashWear := s.tiers.flashWear.set die 100 } }
      0x0902 0x07 (die + 32) die 0
    refine ⟨_, exec_flashReadOnly hro hup, ?_⟩
    dsimp only
    rw [hrec.tiers, hrec.bind]
    exact ⟨rfl, rfl, rfl⟩
  · refine ⟨_, exec_patrolRead hup hpol hdram hwritten hw hidle, ?_⟩
    rw [State.readError_clean]
    exact s.markWorn_tiers a
  · refine ⟨_, exec_patrolRead hup hpol hdram hwritten hw hidle, ?_⟩
    obtain ⟨hbad, hcount⟩ := State.readError_uncorrectable (s := s) w.1 w.2.1 w.2.2 3 0 (s.easel w.1).lastSeq hdram hwritten hp
    generalize State.readError _ _ _ _ _ _ _ _ _ = t at hbad hcount ⊢
    obtain ⟨hue, hkept⟩ := t.markWorn_leaves a (a / pageBytes)
    rw [hue]
    exact ⟨hkept hbad, hcount⟩

end Sys2Proof.Machine
end

section
/-! PROOFS. Marks, program-counter samples and publications (R109, R461, R465). -/

namespace Sys2Proof.Machine

section
variable {s : State} {t : Nat} {k : TileCtx}

/-! ### Marks and samples -/

theorem raiseAll_records (r : State × List Event) : RecordsOnly r.1 (raiseAll r) :=
  foldl_keeps_state RecordsOnly .refl (fun _ _ _ => .trans) _ (fun s v => s.raise_records v) r.2 r.1

theorem exec_mark {value reg : Nat} (h : s.fetch t = some (k, .mark value reg)) : exec (.mark t) s =
    .next ((if s.traced k.e then s.traceMark k t value ((s.tile t).reg reg).toNat else s).onTile t Tile.advance) := by
  have harm : exec (.mark t) s = execMark t s := rfl
  rw [harm, execMark, h]

/-- A tile with one more trace record. -/
def Tile.traceCounted (x : Tile) : Tile := { x with traced := x.traced + 1 }

theorem State.traceMark_records (s : State) (k : TileCtx) (t value reg : Nat) :
    RecordsOnly (s.onTile t Tile.traceCounted) (s.traceMark k t value reg) := by
  unfold State.traceMark
  dsimp only
  have hstored := (State.traceStore_records (s.onTile t Tile.traceCounted) (baseDie (s.server t)) k.e
    (traceRecord 1 k.e 0 (physId (s.server t)) (s.tile t).pc k.seq k.li (s.tile t).traced value (reg % 2 ^ 32))).trans (raiseAll_records _)
  split
  · exact (hstored.trans (State.traceTake_records _ _ _ _ _)).trans (raiseAll_records _)
  · exact hstored

theorem Tile.traceCounted_advances (x : Tile) : Advances x x.traceCounted.advance 0 0 ∧ QueuesKept x x.traceCounted.advance ∧
    x.traceCounted.advance.traced = x.traced + 1 :=
  ⟨Tile.setReg_advances x.traceCounted 0 0, ⟨rfl, rfl, rfl⟩, rfl⟩

theorem exec_pcSample (hk : s.tileCtx t = some k) (hrun : (s.tile t).running = true) : exec (.pcSample t) s =
    if s.traced k.e then .next (raiseAll ((s.onTile t fun x => { x with traced := x.traced + 1, counters := bumpAt x.counters 12 1 }).traceStore
      (baseDie (s.server t)) k.e (traceRecord 0 k.e (s.stallReason t) (physId (s.server t)) (s.tile t).pc k.seq k.li ((s.tile t).traced + 1) 0 0)))
    else .next s := by
  have harm : exec (.pcSample t) s = execPcSample t s := rfl
  rw [harm, execPcSample, hk]
  dsimp only
  rw [hrun, Bool.true_and]

/-! ### Publications -/

theorem publishAll_only (f : State → Nat → List Nat) (l : List Nat) (s : State) : ∃ p,
    l.foldl (fun s e => s.publishAt 9 e (f s e)) s = { s with obs := { s.obs with published := p } } := by
  refine foldl_keeps_state (fun s s' => ∃ p, s' = { s with obs := { s.obs with published := p } }) (fun s => ⟨s.obs.published, rfl⟩)
    (fun a b c ⟨p, h⟩ ⟨q, h'⟩ => ⟨q, by rw [h', h]⟩) _ (fun s e => ⟨_, rfl⟩) l s

theorem pubKey_inj {cls e f : Nat} : pubKey cls e = pubKey cls f ↔ e = f := Nat.add_left_cancel_iff

theorem State.publishAt_self (s : State) (cls unit : Nat) (l : List Nat) : tget [] (s.publishAt cls unit l).obs.published (pubKey cls unit) = l :=
  tget_tset_self _ _ _ _

theorem State.publishAt_ne (s : State) {cls e f : Nat} (l : List Nat) (h : e ≠ f) :
    tget [] (s.publishAt cls f l).obs.published (pubKey cls e) = tget [] s.obs.published (pubKey cls e) :=
  tget_tset_ne _ _ _ _ _ (mt pubKey_inj.mp h)

/-- The counts of an easel that its glaze units keep. -/
def State.glazeCounts (s : State) (e : Nat) : List Nat := (s.easel e).glazeStats ++ [(s.easel e).varnishStalls]

theorem State.glazeCounts_of_easels {u : State} (h : u.easels = s.easels) (e : Nat) : u.glazeCounts e = s.glazeCounts e := by
  rw [State.glazeCounts, State.easel, h, State.glazeCounts, State.easel]

/-- The publication of the glaze units: every easel's counts. -/
theorem exec_publishGlaze (s : State) (u : Nat) : Completes (.deviceCounterPublication 9 u) s fun s' =>
    s' = { s with obs := { s.obs with published := s'.obs.published } } ∧
    ∀ e, e < 64 → tget [] s'.obs.published (pubKey 9 e) = s.glazeCounts e := by
  have hexec : exec (.deviceCounterPublication 9 u) s = .next ((List.range 64).foldl (fun s e => s.publishAt 9 e (s.glazeCounts e)) s) := rfl
  refine ⟨_, hexec, ?_, fun e he => ?_⟩
  · obtain ⟨p, hp⟩ := publishAll_only State.glazeCounts (List.range 64) s
    rw [hp]
  · have hI (v : State) (f : Nat) (h : v.easels = s.easels) : (v.publishAt 9 f (v.glazeCounts f)).easels = s.easels := h
    have hat (v : State) (h : v.easels = s.easels) : tget [] (v.publishAt 9 e (v.glazeCounts e)).obs.published (pubKey 9 e) = s.glazeCounts e := by
      rw [State.publishAt_self, State.glazeCounts_of_easels h]
    refine foldl_establishes (I := fun v : State => v.easels = s.easels) (P := fun v : State =>
      tget [] v.obs.published (pubKey 9 e) = s.glazeCounts e) (List.mem_range.mpr he) hI hat (fun v hv f _ hprev => ?_) (b := s) rfl
    by_cases hf : e = f
    · subst hf
      exact hat v hv
    · rw [State.publishAt_ne v _ hf]
      exact hprev

theorem exec_publishDevice {cls : Nat} (s : State) (u : Nat) (h : cls = 5 ∨ cls = 7 ∨ cls = 8 ∨ cls = 0xD) :
    exec (.deviceCounterPublication cls u) s = .next (s.publishAt cls u (s.deviceCounters cls u)) := by
  have harm : exec (.deviceCounterPublication cls u) s = execDeviceCounterPublication cls u s := rfl
  rw [harm, execDeviceCounterPublication, if_neg (by omega), if_pos h]

theorem exec_publishSlice (s : State) {u : Nat} (h : u < 128) : exec (.counterPublication 5 u) s =
    .next { s with streams := { s.streams with slices := tmap (fun i b => if i = u then b.publish else b) s.streams.slices } } := by
  have harm : exec (.counterPublication 5 u) s = execCounterPublication 5 u s := rfl
  rw [harm, execCounterPublication]
  exact if_pos h

/-- The bank of one unit published among those of its kind. -/
theorem tget_publish (l : Tab Bank) (u : Nat) :
    tget Bank.reset (tmap (fun i b => if i = u then b.publish else b) l) u = (tget Bank.reset l u).publish :=
  (tget_tmap Bank.reset (fun i b => if i = u then b.publish else b) l u (if_pos rfl)).trans (if_pos rfl)

theorem exec_publishLane (s : State) (u : Nat) : Completes (.counterPublication 6 u) s fun s' =>
    tget Bank.reset s'.primer.banks u = (tget Bank.reset s.primer.banks u).publish ∧ s'.primer.intakes = s.primer.intakes := by
  refine ⟨_, rfl, ?_⟩
  dsimp only
  split <;> exact ⟨tget_publish _ u, rfl⟩

end

/-- Settles O60: marks, samples and publications. -/
theorem workObserved : Obligations.WorkObserved := by
  unfold Obligations.WorkObserved
  refine ⟨fun s t value reg k h => ⟨fun hno => ?_, fun htr => ?_⟩, fun s t k hk hrun => ⟨fun hno => ?_, fun htr => ?_⟩, fun s u =>
    ⟨⟨_, rfl, ?_⟩, fun hu => ⟨_, exec_publishSlice s hu, rfl, tget_publish _ u⟩, exec_publishLane s u, fun e he => ?_, fun cls hcls => ?_⟩⟩
  · have hexec := exec_mark h
    rw [if_neg (by simp [hno])] at hexec
    exact ⟨_, hexec, s.onTile_advance_scalarDone t⟩
  · have hexec := exec_mark h
    rw [if_pos htr] at hexec
    have hrec := s.traceMark_records k t value ((s.tile t).reg reg).toNat
    generalize s.traceMark k t value ((s.tile t).reg reg).toNat = v at hexec hrec
    obtain ⟨hadv, hqueues, htraced⟩ := (s.tile t).traceCounted_advances
    have htile : v.tile t = (s.tile t).traceCounted := by rw [hrec.tile, State.onTile_tile_self]
    refine ⟨_, hexec, ?_⟩
    dsimp only
    rw [State.onTile_tile_self, htile]
    refine ⟨hadv, hqueues, htraced, hrec.sems, fun w hw => ?_⟩
    rw [State.onTile_tile_ne _ _ _ _ hw, hrec.tile, State.onTile_tile_ne _ _ _ _ hw]
  · exact (exec_pcSample hk hrun).trans (if_neg (by simp [hno]))
  · refine ⟨_, (exec_pcSample hk hrun).trans (if_pos htr), ?_⟩
    dsimp only
    have hrec := ((s.onTile t fun x => { x with traced := x.traced + 1, counters := bumpAt x.counters 12 1 }).traceStore_records
      (baseDie (s.server t)) k.e (traceRecord 0 k.e (s.stallReason t) (physId (s.server t)) (s.tile t).pc k.seq k.li
        ((s.tile t).traced + 1) 0 0)).trans (raiseAll_records _)
    rw [hrec.tile, hrec.sems, State.onTile_tile_self]
    exact ⟨rfl, rfl, rfl, rfl, ⟨rfl, rfl, rfl⟩, rfl⟩
  · dsimp only
    exact ⟨s.onTile_onlyTile u _, State.onTile_tile_self _ _ _⟩
  · obtain ⟨s', hexec, honly, hall⟩ := exec_publishGlaze s u
    exact ⟨s', hexec, honly, hall e he⟩
  · exact ⟨_, exec_publishDevice s u hcls, rfl, tget_tset_self _ _ _ _⟩

end Sys2Proof.Machine
end

section
/-! PROOFS. Time limits, notices and addresses of the Curator (R421, R426 to R428, R433). -/

namespace Sys2Proof.Machine

/-- What one member of a list does to `Q`, and nothing else does, stands once the list is through. -/
theorem foldl_once {α β : Type} {f : β → α → β} {x : α} {P Q : β → Prop} (hQ : ∀ b y, y ≠ x → Q b → Q (f b y)) (hat : ∀ b, Q b → P (f b x))
    (hP : ∀ b y, y ≠ x → P b → P (f b y)) : ∀ {l : List α}, x ∈ l → l.Nodup → ∀ {b}, Q b → P (l.foldl f b) := by
  have hrest : ∀ (l : List α), x ∉ l → ∀ b, P b → P (l.foldl f b) := by
    intro l
    induction l with
    | nil => exact fun _ _ h => h
    | cons y l ih => exact fun hx b h => ih (fun h' => hx (List.mem_cons_of_mem _ h')) _ (hP b y (fun h' => hx (h' ▸ List.mem_cons_self)) h)
  intro l
  induction l with
  | nil => exact fun hx => absurd hx List.not_mem_nil
  | cons y l ih =>
    intro hx hn b hb
    obtain ⟨hy, hn'⟩ := List.nodup_cons.mp hn
    obtain rfl | hx' := List.mem_cons.mp hx
    · exact hrest l hy _ (hat b hb)
    · exact ih hx' hn' (hQ b y (fun h => hy (h ▸ hx')) hb)

section
variable {s : State}

/-! ### Notices -/

/-- What notices change: their counts, those of the dictionary and what is sent. -/
def NoticesOnly (s s' : State) : Prop :=
  (∃ count window stats, s' = { s with
    dict := { s.dict with noticeCount := count, noticeWindow := window, stats := stats }, out := s'.out }) ∧ s.out <+: s'.out

theorem NoticesOnly.refl (s : State) : NoticesOnly s s := ⟨⟨_, _, _, rfl⟩, List.prefix_rfl⟩

theorem NoticesOnly.trans {a b c : State} (h : NoticesOnly a b) (k : NoticesOnly b c) : NoticesOnly a c := by
  obtain ⟨⟨n, w, st, h1⟩, h2⟩ := h
  obtain ⟨⟨n', w', st', k1⟩, k2⟩ := k
  refine ⟨⟨n', w', st', ?_⟩, h2.trans k2⟩
  rw [k1]
  conv_lhs => rw [h1]

theorem NoticesOnly.target {u : State} (h : NoticesOnly s u) (k : Nat) : u.noticeTarget k = s.noticeTarget k := by
  obtain ⟨⟨n, w, st, h⟩, -⟩ := h
  rw [h]
  rfl

theorem NoticesOnly.up {u : State} (h : NoticesOnly s u) (t : Transport) : u.transportUp t = s.transportUp t := by
  obtain ⟨⟨n, w, st, h⟩, -⟩ := h
  rw [h]
  rfl

theorem State.emit_notices (s : State) (o : Out) : NoticesOnly s (s.emit o) := ⟨⟨_, _, _, rfl⟩, List.prefix_append _ _⟩

variable {v : Event} {k t : Nat}

/-- A notice that is withheld: past 1,000 in the last second. -/
theorem State.notify_withheld (ht : s.noticeTarget k = some t) (hw : 1000 ≤ tget 0 s.dict.noticeWindow k) : s.notify v k =
    State.countMgmt { s with dict := { s.dict with noticeCount := tset s.dict.noticeCount k ((tget 0 s.dict.noticeCount k + 1) % 65536) } } 7 := by
  rw [State.notify, ht]
  exact if_pos hw

/-- The counts of a notice that goes out. -/
def State.noticed (s : State) (k : Nat) : State := State.countMgmt { s with dict := { s.dict with
  noticeCount := tset s.dict.noticeCount k ((tget 0 s.dict.noticeCount k + 1) % 65536)
  noticeWindow := tset s.dict.noticeWindow k (tget 0 s.dict.noticeWindow k + 1) } } 6

theorem State.notify_goes (ht : s.noticeTarget k = some t) (hw : tget 0 s.dict.noticeWindow k < 1000) : s.notify v k =
    if s.transportUp (if t = 2 then .pcie else .t1s) then
      (s.noticed k).emit (.notice k (tget 0 s.dict.noticeCount k) (noticeBytes (tget 0 s.dict.noticeCount k) v))
    else s.noticed k := by
  rw [State.notify, ht]
  exact if_neg (Nat.not_le.mpr hw)

/-- A notice to one target leaves the others' counts. -/
theorem State.notify_only (s : State) (v : Event) (k : Nat) : NoticesOnly s (s.notify v k) ∧ ∀ j, j ≠ k →
    tget 0 (s.notify v k).dict.noticeCount j = tget 0 s.dict.noticeCount j ∧
    tget 0 (s.notify v k).dict.noticeWindow j = tget 0 s.dict.noticeWindow j := by
  cases ht : s.noticeTarget k with
  | none =>
    rw [State.notify, ht]
    exact ⟨.refl s, fun j _ => ⟨rfl, rfl⟩⟩
  | some t =>
    by_cases hw : 1000 ≤ tget 0 s.dict.noticeWindow k
    · rw [State.notify_withheld ht hw]
      exact ⟨⟨⟨_, _, _, rfl⟩, List.prefix_rfl⟩, fun j hj => ⟨tget_tset_ne _ _ _ _ _ hj, rfl⟩⟩
    · rw [State.notify_goes ht (Nat.not_le.mp hw)]
      have hnoticed : NoticesOnly s (s.noticed k) := ⟨⟨_, _, _, rfl⟩, List.prefix_rfl⟩
      generalize s.transportUp (if t = 2 then .pcie else .t1s) = up
      cases up
      · exact ⟨hnoticed, fun j hj => ⟨tget_tset_ne _ _ _ _ _ hj, tget_tset_ne _ _ _ _ _ hj⟩⟩
      · exact ⟨hnoticed.trans (State.emit_notices _ _), fun j hj => ⟨tget_tset_ne _ _ _ _ _ hj, tget_tset_ne _ _ _ _ _ hj⟩⟩

/-- What a notice does at its own target. -/
theorem State.notify_at (ht : s.noticeTarget k = some t) {n w : Nat} (hn : tget 0 s.dict.noticeCount k = n) (hw : tget 0 s.dict.noticeWindow k = w) :
    tget 0 (s.notify v k).dict.noticeCount k = (n + 1) % 65536 ∧
    tget 0 (s.notify v k).dict.noticeWindow k = (if w < 1000 then w + 1 else w) ∧
    (w < 1000 → s.transportUp (if t = 2 then .pcie else .t1s) = true → .notice k n (noticeBytes n v) ∈ (s.notify v k).out) := by
  subst hn hw
  by_cases hw : 1000 ≤ tget 0 s.dict.noticeWindow k
  · rw [State.notify_withheld ht hw, if_neg (Nat.not_lt.mpr hw)]
    exact ⟨tget_tset_self _ _ _ _, rfl, fun h => absurd h (Nat.not_lt.mpr hw)⟩
  · rw [State.notify_goes ht (Nat.not_le.mp hw), if_pos (Nat.not_le.mp hw)]
    generalize s.transportUp (if t = 2 then .pcie else .t1s) = up
    cases up
    · exact ⟨tget_tset_self _ _ _ _, tget_tset_self _ _ _ _, fun _ hup => absurd hup Bool.false_ne_true⟩
    · exact ⟨tget_tset_self _ _ _ _, tget_tset_self _ _ _ _, fun _ _ => List.mem_append_right _ (List.mem_singleton.mpr rfl)⟩

/-- The record gone out to every target. -/
def State.notifyAll (s : State) (v : Event) : State := (List.range 4).foldl (fun s k => s.notify v k) s

theorem State.notifyAll_only (s : State) (v : Event) : NoticesOnly s (s.notifyAll v) :=
  foldl_keeps_state NoticesOnly .refl (fun _ _ _ => .trans) _ (fun s k => (s.notify_only v k).1) (List.range 4) s

theorem State.notifyAll_at (hk : k < 4) (ht : s.noticeTarget k = some t) {n w : Nat} (hn : tget 0 s.dict.noticeCount k = n)
    (hw : tget 0 s.dict.noticeWindow k = w) :
    tget 0 (s.notifyAll v).dict.noticeCount k = (n + 1) % 65536 ∧
    tget 0 (s.notifyAll v).dict.noticeWindow k = (if w < 1000 then w + 1 else w) ∧
    (w < 1000 → s.transportUp (if t = 2 then .pcie else .t1s) = true → .notice k n (noticeBytes n v) ∈ (s.notifyAll v).out) := by
  unfold State.notifyAll
  refine foldl_once (Q := fun u : State => NoticesOnly s u ∧ tget 0 u.dict.noticeCount k = n ∧ tget 0 u.dict.noticeWindow k = w)
    (P := fun u : State => tget 0 u.dict.noticeCount k = (n + 1) % 65536 ∧ tget 0 u.dict.noticeWindow k = (if w < 1000 then w + 1 else w) ∧
      (w < 1000 → s.transportUp (if t = 2 then .pcie else .t1s) = true → .notice k n (noticeBytes n v) ∈ u.out))
    (fun u j hj hu => ?_) (fun u hu => ?_) (fun u j hj hu => ?_) (List.mem_range.mpr hk) List.nodup_range ⟨.refl s, hn, hw⟩
  · obtain ⟨honly, hcount, hwindow⟩ := hu
    obtain ⟨hstep, hothers⟩ := u.notify_only v j
    obtain ⟨hc, hwin⟩ := hothers k hj.symm
    exact ⟨honly.trans hstep, hc.trans hcount, hwin.trans hwindow⟩
  · obtain ⟨honly, hcount, hwindow⟩ := hu
    obtain ⟨hc, hwin, hout⟩ := State.notify_at (v := v) ((honly.target k).trans ht) hcount hwindow
    exact ⟨hc, hwin, fun hlt hup => hout hlt ((honly.up _).trans hup)⟩
  · obtain ⟨hcount, hwindow, hout⟩ := hu
    obtain ⟨hstep, hothers⟩ := u.notify_only v j
    obtain ⟨hc, hwin⟩ := hothers k hj.symm
    exact ⟨hc.trans hcount, hwin.trans hwindow, fun hlt hup => hstep.2.subset (hout hlt hup)⟩

/-- The oldest record taken from those that wait, with the second's notices brought up to date. -/
def State.recordTaken (s : State) (rest : List Event) (aged : List Nat) : State := { s with dict := { s.dict.age aged with intake := rest } }

theorem NoticesOnly.after_taken {rest : List Event} {aged : List Nat} {u : State} (h : NoticesOnly (s.recordTaken rest aged) u) :
    u = { s with dict := u.dict, out := u.out } ∧ u.dict.intake = rest ∧ u.dict.values = s.dict.values ∧ s.out <+: u.out := by
  obtain ⟨⟨n, w, st, heq⟩, hpre⟩ := h
  refine ⟨?_, ?_, ?_, hpre⟩ <;> rw [heq] <;> rfl

theorem exec_faultLineRecord {rest : List Event} {aged : List Nat} (hrun : s.dict.running = true) (hin : s.dict.intake = v :: rest) :
    exec (.faultLineRecord aged) s = if (policy s 0x1100 7).testBit (v.code / 256) then
      .next ((s.recordTaken rest aged).notifyAll v)
    else .next (s.recordTaken rest aged) := by
  have harm : exec (.faultLineRecord aged) s = execFaultLineRecord aged s := rfl
  have hin' : (s.dict.age aged).intake = v :: rest := hin
  rw [harm, execFaultLineRecord, if_neg (by simp [hrun])]
  dsimp only
  rw [hin']
  rfl

/-! ### Addresses -/

theorem exec_neighborDiscovery {target : List Byte} (hup : s.transportUp .t1s = true) (h : target = s.linkLocal ∨
    (globalOk (written s.dict 0x1100 2) = true ∧ target = (written s.dict 0x1100 2).take 16)) :
    exec (.neighborDiscovery target) s = .next (s.emit (.neighbor target)) := by
  have harm : exec (.neighborDiscovery target) s = execNeighborDiscovery target s := rfl
  rw [harm, execNeighborDiscovery]
  exact if_pos (by simpa [hup] using h)

theorem exec_neighborDiscovery_other {target : List Byte} (h : target ≠ s.linkLocal)
    (h' : globalOk (written s.dict 0x1100 2) = true → (written s.dict 0x1100 2).take 16 ≠ target) :
    exec (.neighborDiscovery target) s = .next s := by
  have harm : exec (.neighborDiscovery target) s = execNeighborDiscovery target s := rfl
  rw [harm, execNeighborDiscovery]
  refine if_neg fun hc => ?_
  simp only [Bool.and_eq_true, Bool.or_eq_true, decide_eq_true_eq] at hc
  obtain ⟨-, heq | ⟨hok, heq⟩⟩ := hc
  · exact h heq
  · exact h' hok heq.symm

theorem exec_i3cDynamicAddress {address : Nat} (hrun : s.dict.running = true) (hvaux : s.power.vaux = true) (hvio : s.power.vio = true)
    (hpol : policy s 0x1100 5 = 0) :
    exec (.i3cDynamicAddress address) s = .next { s with dict := { s.dict with i3cAddress := address } } := by
  have harm : exec (.i3cDynamicAddress address) s = execI3cDynamicAddress address s := rfl
  rw [harm, execI3cDynamicAddress]
  exact if_pos (by simp [hrun, hvaux, hvio, hpol])

end

/-- Settles O47: what the Curator's time limits, notices and addresses do. -/
theorem curatorTimes : Obligations.CuratorTimes := by
  unfold Obligations.CuratorTimes
  refine ⟨fun s requester index sub => ⟨_, rfl, rfl, fun g => ?_⟩, fun s requester number => ⟨_, rfl, rfl, fun t => ?_⟩,
    fun s v rest aged hrun hin sent hsent => ⟨?_, fun hnot => ?_⟩, fun s target hup =>
      ⟨fun h => ⟨_, exec_neighborDiscovery hup (.inl h), rfl⟩, fun _ hok h => ⟨_, exec_neighborDiscovery hup (.inr ⟨hok, h⟩), rfl⟩,
        fun h h' => exec_neighborDiscovery_other h h'⟩,
    fun s address hrun hvaux hvio hpol => ⟨_, exec_i3cDynamicAddress hrun hvaux hvio hpol, rfl⟩⟩
  · simp only [Dict.unstage, List.mem_filter, Bool.not_eq_true', Bool.and_eq_false_iff, decide_eq_false_iff_not, not_and_or, or_assoc]
  · simp only [List.mem_filter, Bool.not_eq_true', Bool.and_eq_false_iff, decide_eq_false_iff_not, not_and_or]
  · by_cases hchosen : (policy s 0x1100 7).testBit (v.code / 256) = true
    · refine ⟨_, (exec_faultLineRecord hrun hin).trans (if_pos hchosen), ?_⟩
      have hat (k t n : Nat) (hk : k < 4) (ht : s.noticeTarget k = some t) (hn : n = tget 0 s.dict.noticeCount k) :=
        State.notifyAll_at (s := s.recordTaken rest aged) (v := v) hk ht (n := n) hn.symm (hsent k).symm
      have honly := (State.notifyAll_only (s.recordTaken rest aged) v).after_taken
      generalize (s.recordTaken rest aged).notifyAll v = u at hat honly ⊢
      obtain ⟨heq, hintake, hvalues, hpre⟩ := honly
      exact ⟨heq, hintake, hvalues, hpre, fun _ => hat⟩
    · exact ⟨_, (exec_faultLineRecord hrun hin).trans (if_neg hchosen), rfl, rfl, rfl, List.prefix_rfl, fun h => absurd h hchosen⟩
  · exact ⟨_, (exec_faultLineRecord hrun hin).trans (if_neg (by simp [hnot])), rfl⟩

end Sys2Proof.Machine
end

section
/-! PROOFS. SPDM (R454, R456). -/

namespace Sys2Proof.Machine

section
variable {s : State} {q : Spdm}

theorem State.onSpdm_reached (hup : s.transportUp q.transport = true) (hrec : s.trust.recovery = false) (f : State → State) :
    s.onSpdm q f = .next (f s) := by
  rw [State.onSpdm, if_pos (by simp [hup, hrec])]

theorem completes_onSpdm {c : Instr} {f : State → State} {P : State → Prop} (hup : s.transportUp q.transport = true)
    (hrec : s.trust.recovery = false) (hc : exec c s = s.onSpdm q f) (hP : P (f s)) : Completes c s P :=
  ⟨f s, hc.trans (State.onSpdm_reached hup hrec f), hP⟩

/-- A request for attestation: answered where the device attests itself, else refused. -/
theorem State.attested_eq (s : State) (q : Spdm) (n : Nat) (content : List Byte) : s.attested q n content =
    { s with out := s.out ++ [if s.attests = true then .spdm q.transport q.requester 0 (Config.spdmAnswer n (q.bytes ++ content))
      else .spdm q.transport q.requester 1 []] } := by
  unfold State.attested
  split <;> rfl

theorem State.inSession_eq {x : Session} (hx : s.spdmSession q = some x) (n : Nat) : s.inSession q n =
    { s with out := s.out ++ [if x.finished = true then .spdm q.transport q.requester 0 (Config.spdmAnswer n (q.bytes ++ []))
      else .spdm q.transport q.requester 1 []] } := by
  rw [State.inSession, hx]
  dsimp only
  split <;> rfl

/-- A failed authentication is counted and reported; sessions stand. -/
theorem State.authFailDevice_counts (s : State) (a cause : Nat) : (s.authFailDevice a cause).dict.sessions = s.dict.sessions ∧
    (s.authFailDevice a cause).trust.authFailures = s.trust.authFailures + 1 := by
  have h := State.reportDevice_records { s with trust := { s.trust with authFailures := s.trust.authFailures + 1 } } 0x0A01 0x0B 0 a cause
  unfold State.authFailDevice
  rw [h.1]
  exact ⟨rfl, rfl⟩

/-! ### KEY_EXCHANGE -/

theorem exec_keyExchange (hup : s.transportUp q.transport = true) (hrec : s.trust.recovery = false) (hpuf : s.trust.pufOk = true)
    (slot : Nat) (proven : Bool) : exec (.keyExchange q slot proven) s = .next (
      if 16 ≤ s.dict.sessions.length then s.spdmError q 2
      else if !proven || decide (16 ≤ slot) || !s.keyUsable slot then (s.spdmError q 1).authFailDevice slot 6
      else State.spdmReply { s with dict := { s.dict with
        sessions := s.dict.sessions ++ [⟨s.dict.nextSession, q.transport, if slot < 8 then .owner else .observer, slot, q.requester, false⟩]
        nextSession := s.dict.nextSession + 1 } } q 8 []) := by
  have harm : exec (.keyExchange q slot proven) s = execKeyExchange q slot proven s := rfl
  rw [harm, execKeyExchange, State.onSpdm_reached hup hrec]
  dsimp only
  rw [if_neg (by simp [hpuf])]

/-! ### FINISH and END_SESSION -/

variable {x : Session}

theorem exec_finish (hup : s.transportUp q.transport = true) (hrec : s.trust.recovery = false) (hx : s.spdmSession q = some x)
    (hopen : x.finished = false) (proven : Bool) : exec (.finish q proven) s = .next (
      if proven then State.spdmReply { s with dict := { s.dict with
        sessions := s.dict.sessions.map fun y => if y.id = x.id then { y with finished := true } else y } } q 9 []
      else ((s.dropSession x.id).spdmError q 1).authFailDevice x.slot 6) := by
  have harm : exec (.finish q proven) s = execFinish q proven s := rfl
  rw [harm, execFinish, State.onSpdm_reached hup hrec, hx]
  dsimp only
  rw [if_neg (by simp [hopen])]

theorem exec_endSession (hup : s.transportUp q.transport = true) (hrec : s.trust.recovery = false) (hx : s.spdmSession q = some x) :
    exec (.endSession q) s = .next ((s.spdmReply q 12 []).dropSession x.id) := by
  have harm : exec (.endSession q) s = execEndSession q s := rfl
  rw [harm, execEndSession, State.onSpdm_reached hup hrec, hx]

end

/-- Settles O53: each SPDM request. -/
theorem spdmAnswers : Obligations.SpdmAnswers := by
  unfold Obligations.SpdmAnswers
  intro s q hup hrec answer hanswer refused hrefused
  refine ⟨fun c n hc => ?_, fun c n content hc => ?_, fun slot hpuf => ⟨fun hroom hslot hkey => ?_, fun hfull proven => ?_, fun hroom => ?_⟩,
    fun x hx => ⟨fun hopen => ?_, fun hopen => ?_, fun c n hc => ?_, ?_⟩⟩
  · rw [hanswer]
    obtain ⟨rfl, rfl⟩ | ⟨rfl, rfl⟩ | ⟨rfl, rfl⟩ := hc <;> exact completes_onSpdm (f := fun s => s.spdmReply q _ []) hup hrec rfl rfl
  · rw [hanswer, hrefused]
    obtain ⟨rfl, rfl, rfl⟩ | ⟨rfl, rfl, rfl⟩ | ⟨rfl, rfl, rfl⟩ | ⟨rfl, rfl, rfl⟩ := hc
    · exact completes_onSpdm (f := fun s => s.attested q 4 (shake256 Config.deviceCert)) hup hrec rfl (s.attested_eq q _ _)
    · exact completes_onSpdm (f := fun s => s.attested q 5 Config.deviceCert) hup hrec rfl (s.attested_eq q _ _)
    · exact completes_onSpdm (f := fun s => s.attested q 6 s.measurements) hup hrec rfl (s.attested_eq q _ _)
    · exact completes_onSpdm (f := fun s => s.attested q 7 s.measurements) hup hrec rfl (s.attested_eq q _ _)
  · have hexec := exec_keyExchange hup hrec hpuf slot true
    rw [State.keySlot] at hkey
    rw [if_neg (Nat.not_le.mpr hroom), if_neg (by simp [hslot, State.keyUsable, hpuf, hkey])] at hexec
    rw [hanswer]
    exact ⟨_, hexec, rfl, rfl, rfl⟩
  · have hexec := exec_keyExchange hup hrec hpuf slot proven
    rw [if_pos hfull] at hexec
    rw [hrefused]
    exact ⟨_, hexec, rfl⟩
  · have hexec := exec_keyExchange hup hrec hpuf slot false
    rw [if_neg (Nat.not_le.mpr hroom), if_pos (by simp)] at hexec
    exact ⟨_, hexec, (s.spdmError q 1).authFailDevice_counts slot 6⟩
  · rw [hanswer]
    exact ⟨_, exec_finish hup hrec hx hopen true, rfl, rfl⟩
  · exact ⟨_, exec_finish hup hrec hx hopen false, (((s.dropSession x.id).spdmError q 1).authFailDevice_counts x.slot 6).1⟩
  · rw [hanswer, hrefused]
    obtain ⟨rfl, rfl⟩ | ⟨rfl, rfl⟩ := hc <;> exact completes_onSpdm (f := fun s => s.inSession q _) hup hrec rfl (State.inSession_eq hx _)
  · rw [hanswer]
    refine ⟨_, exec_endSession hup hrec hx, rfl, rfl, rfl, fun g hg => ?_⟩
    simpa using (List.mem_filter.mp hg).2

end Sys2Proof.Machine
end

section
/-! PROOFS. Writes that start actions: the restart, the self-test, the sketch and the trace units (R386, R438, R470 to R474). -/

namespace Sys2Proof.Machine

/-! ### CMD writes in their turn -/

section
variable {s : State} {m : Msg} {check : State → Nat → Nat} {fail go : State → Nat → State} {c : Instr}

/-- An accepted CMD write that its action's check passes is answered, and the action takes place. -/
theorem exec_command_ok (h : Accepted s m) (hc : check (s.countMgmt 0) (mValue m) = 0)
    (hexec : exec c s = .next (s.atCurator c m fun s => s.command m check fail go)) : exec c s = .next (go (answered s m 0) (mValue m)) := by
  obtain ⟨-, ⟨⟨hturn, hlater, hwaiting⟩, -⟩, -⟩ := id h
  rw [hexec, State.atCurator_direct _ hturn hlater hwaiting, command_of_check_ok h hc]

/-- One that its action's check refuses is answered with the status. -/
theorem exec_command_fails {st : Nat} (h : Accepted s m) (hc : check (s.countMgmt 0) (mValue m) = st) (hst : st ≠ 0)
    (hexec : exec c s = .next (s.atCurator c m fun s => s.command m check fail go)) : exec c s = .next (fail (answered s m st) st) := by
  obtain ⟨-, ⟨⟨hturn, hlater, hwaiting⟩, -⟩, -⟩ := id h
  rw [hexec, State.atCurator_direct _ hturn hlater hwaiting, command_of_check_fails h hc hst]

end

section
variable {s : State} {m : Msg} {d : Nat}

/-! ### `vbus_restart` and `tile_selftest` -/

theorem exec_vbusRestart (hw : writes m 0x2000 0x0B = true) : exec (.vbusRestart m) s =
    .next (s.atCurator (.vbusRestart m) m fun s => s.command m State.restartCheck (fun s _ => s) fun s _ => s.startVbus) := by
  have harm : exec (.vbusRestart m) s = execVbusRestart m s := rfl
  rw [harm, execVbusRestart, if_pos hw]

theorem exec_tileSelftest (hw : writes m 0x4000 3 = true) : exec (.tileSelftest m) s =
    .next (s.atCurator (.tileSelftest m) m fun s => s.command m State.selftestCheck (fun s _ => s) fun s v =>
      { s with bind := { s.bind with selftest := v + 65536 } }) := by
  have harm : exec (.tileSelftest m) s = execTileSelftest m s := rfl
  rw [harm, execTileSelftest, if_pos hw]

/-- A tile lost to wear leaves the self-test's word. -/
theorem State.loseTile_selftest (s : State) (t : Nat) : (s.loseTile t false).bind.selftest = s.bind.selftest := by
  cases he : s.ownerOf 1 t with
  | some e => exact (State.loseTile_worn_roles he).2
  | none =>
    have hgone : (s.tileGone t).bind.selftest = s.bind.selftest := rfl
    rw [State.loseTile, he]
    dsimp only
    rw [if_pos (by rfl), ← State.tileGone]
    refine ((State.requestTileLost_roles _ t).2.trans ?_).trans hgone
    exact congrArg (·.selftest) ((s.tileGone t).spareExhausted_records none (physId (s.server t))).bind

theorem State.failedTest_selftest (s : State) (n : Nat) : (s.failedTest n).bind.selftest = s.bind.selftest := by
  unfold State.failedTest
  split
  · exact congrArg (·.selftest) (((s.recordRetired 1 n 0).setRole n 2).unitRetired_records none (physId n) 1).bind
  · split
    · rfl
    · dsimp only
      have hchoice : ({ s with choices := s.choices + 1 } : State).bind.selftest = s.bind.selftest := rfl
      generalize ({ s with choices := s.choices + 1 } : State) = u at hchoice ⊢
      split
      · next p _ =>
        have hspare : (u.replaceTile (s.serves n) p).bind.selftest = u.bind.selftest := rfl
        refine Eq.trans ?_ (hspare.trans hchoice)
        exact congrArg (·.selftest) ((u.replaceTile (s.serves n) p).unitRetired_records none (physId n) 1).bind
      · refine (State.loseTile_selftest _ _).trans (Eq.trans ?_ hchoice)
        exact congrArg (·.selftest) (u.unitRetired_records none (physId n) 1).bind

theorem exec_selftestComplete (passed : Bool) (h : s.bind.selftest / 65536 = 1) : exec (.selftestComplete passed) s =
    let u : State := { s with bind := { s.bind with selftest := s.bind.selftest % 2048 + (if passed then 2 else 3) * 65536 } }
    match passed, densePos (s.bind.selftest % 2048) with
    | false, some n => .next (u.failedTest n)
    | _, _ => .next u := by
  have harm : exec (.selftestComplete passed) s = execSelftestComplete passed s := rfl
  rw [harm, execSelftestComplete]
  exact if_neg (by simp [h])

/-! ### The sketch -/

theorem exec_sketchBuild (hw : writes m 0xB000 3 = true) : exec (.sketchBuild m) s =
    .next (s.atCurator (.sketchBuild m) m fun s => s.command m State.sketchCheck (fun s _ => s) fun s v =>
      State.checkCounts { s with obs := { s.obs with sketchEasel := some v, firstState := s.sketchNodes v } } v) := by
  have harm : exec (.sketchBuild m) s = execSketchBuild m s := rfl
  rw [harm, execSketchBuild, if_pos hw]

/-- One count read by its home. -/
def State.homeReads (e : Nat) (s : State) (q : SemDecl) : State :=
  match (s.easel e).semKey q with
  | some k => if (s.sem k).sound then s else s.semComplement e q (s.sem k)
  | none => s

/-- Where every count is its complement's, the homes find nothing. -/
theorem State.checkCounts_sound (h : ∀ k, (s.sem k).sound = true) (e : Nat) : s.checkCounts e = s := by
  have hone (q : SemDecl) : State.homeReads e s q = s := by
    unfold State.homeReads
    split
    · exact if_pos (h _)
    · rfl
  have hall (l : List SemDecl) : l.foldl (State.homeReads e) s = s := by
    induction l with
    | nil => rfl
    | cons q l ih => rw [List.foldl_cons, hone, ih]
  unfold State.checkCounts
  split
  · exact hall _
  · rfl

theorem exec_sketchSecondPublication {e : Nat} (hs : s.obs.sketchEasel = some e) (hrun : s.dict.running = true) (hup : s.vbusUp = true) :
    exec .sketchSecondPublication s = .next (State.checkCounts
      (State.report { s with obs := { s.obs with sketchEasel := none, firstState := [], sketch := (s.joinSketch e).1 } } 0x0B02 e 0x0A 0
        (s.joinSketch e).2.1 (s.joinSketch e).2.2) e) := by
  have harm : exec .sketchSecondPublication s = execSketchSecondPublication s := rfl
  rw [harm, execSketchSecondPublication, hs]
  exact if_neg (by simp [hrun, hup])

/-! ### Triggers and arming of the trace units -/

/-- The policy word reaches a unit; its record names the easel that holds the sink. -/
def State.triggerUnit (s : State) (d : Nat) : State :=
  raiseAll (s.traceTake d (s.traceUnit d).sink.2.1 0 (s.easel (s.traceUnit d).sink.2.1).lastSeq)

theorem exec_traceTrigger (hw : writes m 0xB000 0x0A = true) : exec (.traceTrigger m) s =
    .next (s.atCurator (.traceTrigger m) m fun s => s.command m State.traceCheck (fun s _ => s) fun s v =>
      ((List.range 4).filter v.testBit).foldl State.triggerUnit s) := by
  have harm : exec (.traceTrigger m) s = execTraceTrigger m s := rfl
  rw [harm, execTraceTrigger, if_pos hw]
  rfl

theorem exec_traceArm (hw : writes m 0xB000 0x0B = true) : exec (.traceArm m) s =
    .next (s.atCurator (.traceArm m) m fun s => s.command m State.traceCheck (fun s _ => s) fun s v =>
      ((List.range 4).filter v.testBit).foldl State.armTrace s) := by
  have harm : exec (.traceArm m) s = execTraceArm m s := rfl
  rw [harm, execTraceArm, if_pos hw]

/-- A trace unit that its trigger cannot make raise a record of its own: it has room for the trigger's, or has had its trigger. -/
def TraceUnit.settled (u : TraceUnit) : Prop := u.stage.length < 4096 ∨ u.triggered = true

theorem State.setTrace_self (s : State) (d : Nat) (u : TraceUnit) : (s.setTrace d u).traceUnit d = u := tget_tset_self _ _ _ _
theorem State.setTrace_ne (s : State) {d d' : Nat} (u : TraceUnit) (h : d' ≠ d) : (s.setTrace d u).traceUnit d' = s.traceUnit d' :=
  tget_tset_ne _ _ _ _ _ h

theorem State.traceAsk_traceUnit (s : State) (d d' : Nat) : (s.traceAsk d).traceUnit d' = s.traceUnit d' := by
  unfold State.traceAsk
  dsimp only
  split <;> rfl

/-- A unit with its trigger. -/
def TraceUnit.trip (u : TraceUnit) : TraceUnit :=
  { u with triggered := true, trigger := u.write + u.stage.length, triggers := u.triggers + 1 }

/-- A record staged by a unit with room raises none. -/
theorem State.traceStore_room {e : Nat} {bs : List Byte} (hstate : (s.traceUnit d).state = 0) (hroom : (s.traceUnit d).stage.length < 4096) :
    (s.traceStore d e bs).2 = [] ∧ (∃ l, (s.traceStore d e bs).1.traceUnit d = { s.traceUnit d with stage := l }) ∧
      ∀ d', d' ≠ d → (s.traceStore d e bs).1.traceUnit d' = s.traceUnit d' := by
  unfold State.traceStore
  dsimp only
  split
  · exact ⟨rfl, ⟨(s.traceUnit d).stage, rfl⟩, fun _ _ => rfl⟩
  · rw [if_neg (by simp [hstate]), if_neg (by omega)]
    refine ⟨rfl, ⟨(s.traceUnit d).stage ++ [bs], ?_⟩, fun d' hd' => ?_⟩
    · rw [State.traceAsk_traceUnit, State.setTrace_self]
    · rw [State.traceAsk_traceUnit, State.setTrace_ne _ _ hd']

/-- Whether a unit takes a trigger for the easel that holds its sink. -/
def State.takesTrigger (s : State) (d : Nat) : Prop := (s.traceUnit d).armed = true ∧ (s.traceUnit d).mode = 2 ∧ (s.traceUnit d).state = 0 ∧
  (s.traceUnit d).triggered = false ∧ s.sinkValid (s.traceUnit d).sink = true

theorem State.traceTake_taken (h : s.takesTrigger d) (code seq : Nat) : s.traceTake d (s.traceUnit d).sink.2.1 code seq =
    (s.setTrace d (s.traceUnit d).trip).traceStore d (s.traceUnit d).sink.2.1 (traceRecord 2 (s.traceUnit d).sink.2.1 0 0 0 seq 0
      ((s.traceUnit d).triggers + 1) code (((s.traceUnit d).write + (s.traceUnit d).stage.length) % 2 ^ 32)) := by
  obtain ⟨harmed, hmode, hstate, hnot, hvalid⟩ := h
  exact if_pos (by simp [harmed, hmode, hstate, hnot, hvalid])

theorem State.traceTake_idle (h : ¬ s.takesTrigger d) (code seq : Nat) : s.traceTake d (s.traceUnit d).sink.2.1 code seq = (s, []) :=
  if_neg fun hc => h (by simpa [State.takesTrigger, and_assoc] using hc)

/-- A trigger that a unit does not take changes nothing; one it takes trips it, and stages the record. -/
theorem State.triggerUnit_spec (h : (s.traceUnit d).settled) : (¬ s.takesTrigger d → s.triggerUnit d = s) ∧
    (s.takesTrigger d → (∃ l, (s.triggerUnit d).traceUnit d = { (s.traceUnit d).trip with stage := l }) ∧
      ∀ d', d' ≠ d → (s.triggerUnit d).traceUnit d' = s.traceUnit d') := by
  refine ⟨fun hno => ?_, fun ht => ?_⟩
  · rw [State.triggerUnit, State.traceTake_idle hno]
    rfl
  · obtain ⟨-, -, hstate, hnot, -⟩ := id ht
    have hroom : (s.traceUnit d).stage.length < 4096 := h.resolve_right (by simp [hnot])
    rw [State.triggerUnit, State.traceTake_taken ht]
    generalize traceRecord _ _ _ _ _ _ _ _ _ _ = bs
    obtain ⟨hevents, ⟨l, hself⟩, hothers⟩ := State.traceStore_room (s := s.setTrace d (s.traceUnit d).trip) (d := d)
      (e := (s.traceUnit d).sink.2.1) (bs := bs) (by rw [State.setTrace_self]; exact hstate) (by rw [State.setTrace_self]; exact hroom)
    rw [State.setTrace_self] at hself
    rw [raiseAll, hevents]
    exact ⟨⟨l, hself⟩, fun d' hd' => (hothers d' hd').trans (State.setTrace_ne _ _ hd')⟩

theorem State.triggerUnit_records (s : State) (d : Nat) : RecordsOnly s (s.triggerUnit d) :=
  (s.traceTake_records d _ _ _).trans (raiseAll_records _)

theorem State.sinkValid_of_bind {u : State} (h : u.bind = s.bind) (k : Nat × Nat × Nat × Nat) : u.sinkValid k = s.sinkValid k := by
  unfold State.sinkValid State.live State.unitCount State.held
  rw [h]

/-- A unit's trigger leaves every unit settled, and the other units as they were. -/
theorem State.triggerUnit_keeps (h : ∀ d < 4, (s.traceUnit d).settled) (hd : d < 4) :
    (∀ d' < 4, ((s.triggerUnit d).traceUnit d').settled) ∧ ∀ d', d' ≠ d → (s.triggerUnit d).traceUnit d' = s.traceUnit d' := by
  obtain ⟨hno, hyes⟩ := State.triggerUnit_spec (h d hd)
  by_cases ht : s.takesTrigger d
  · obtain ⟨⟨l, hself⟩, hothers⟩ := hyes ht
    refine ⟨fun d' hd' => ?_, hothers⟩
    by_cases hdd : d' = d
    · subst hdd
      rw [hself]
      exact .inr rfl
    · rw [hothers d' hdd]
      exact h d' hd'
  · rw [hno ht]
    exact ⟨h, fun _ _ => rfl⟩

/-- Every unit of a list given its trigger: the others stand, and one that takes it is tripped. -/
theorem triggerUnits_spec {l : List Nat} (hl : ∀ d ∈ l, d < 4) (hn : l.Nodup) (h : ∀ d < 4, (s.traceUnit d).settled) :
    (d ∉ l → (l.foldl State.triggerUnit s).traceUnit d = s.traceUnit d) ∧
    (d ∈ l → s.takesTrigger d → ∃ st, (l.foldl State.triggerUnit s).traceUnit d = { (s.traceUnit d).trip with stage := st }) := by
  induction l generalizing s with
  | nil => exact ⟨fun _ => rfl, fun hd => absurd hd List.not_mem_nil⟩
  | cons x l ih =>
    obtain ⟨hx, hn'⟩ := List.nodup_cons.mp hn
    obtain ⟨hsettled, hothers⟩ := State.triggerUnit_keeps h (hl x List.mem_cons_self)
    obtain ⟨hout, hin⟩ := ih (s := s.triggerUnit x) (fun y hy => hl y (List.mem_cons_of_mem _ hy)) hn' hsettled
    refine ⟨fun hd => ?_, fun hd ht => ?_⟩
    · obtain ⟨hne, hd'⟩ := not_or.mp (mt List.mem_cons.mpr hd)
      exact (hout hd').trans (hothers d hne)
    · by_cases hdx : d = x
      · subst hdx
        obtain ⟨⟨st, hself⟩, -⟩ := (State.triggerUnit_spec (h d (hl d List.mem_cons_self))).2 ht
        exact ⟨st, (hout hx).trans hself⟩
      · have hsame := hothers d hdx
        have ht' : (s.triggerUnit x).takesTrigger d := by
          unfold State.takesTrigger at ht ⊢
          rwa [hsame, State.sinkValid_of_bind (s.triggerUnit_records x).bind]
        obtain ⟨st, hself⟩ := hin ((List.mem_cons.mp hd).resolve_left hdx) ht'
        exact ⟨st, by rw [List.foldl_cons, hself, hsame]⟩

/-- A unit armed anew. -/
def TraceUnit.arm (u : TraceUnit) (mode period : Nat) (sink : Nat × Nat × Nat × Nat) : TraceUnit :=
  { u with mode, state := 0, triggered := false, armed := true, sink, period, arms := (u.arms + 1) % 2 ^ 32, write := 0, trigger := 0, lost := 0,
           dropped := 0, stage := [] }

theorem armTraces_spec {l : List Nat} (hn : l.Nodup) : (d ∉ l → (l.foldl State.armTrace s).traceUnit d = s.traceUnit d) ∧
    (d ∈ l → (l.foldl State.armTrace s).traceUnit d = (s.traceUnit d).arm (policy s 0xB000 1) (policy s 0xB000 6) (s.sinkNamed d)) := by
  have hself (u : State) : (u.armTrace d).traceUnit d = (u.traceUnit d).arm (policy u 0xB000 1) (policy u 0xB000 6) (u.sinkNamed d) :=
    State.setTrace_self _ _ _
  have hne (u : State) (x : Nat) (h : d ≠ x) : (u.armTrace x).traceUnit d = u.traceUnit d := State.setTrace_ne _ _ h
  have hentries (u : State) (x i j : Nat) : policy (u.armTrace x) i j = policy u i j := rfl
  have hsink (u : State) (x : Nat) : (u.armTrace x).sinkNamed d = u.sinkNamed d := rfl
  induction l generalizing s with
  | nil => exact ⟨fun _ => rfl, fun hd => absurd hd List.not_mem_nil⟩
  | cons x l ih =>
    obtain ⟨hx, hn'⟩ := List.nodup_cons.mp hn
    obtain ⟨hout, hin⟩ := ih (s := s.armTrace x) hn'
    refine ⟨fun hd => ?_, fun hd => ?_⟩
    · obtain ⟨hdx, hd'⟩ := not_or.mp (mt List.mem_cons.mpr hd)
      exact (hout hd').trans (hne s x hdx)
    · by_cases hdx : d = x
      · subst hdx
        exact (hout hx).trans (hself s)
      · rw [List.foldl_cons, hin ((List.mem_cons.mp hd).resolve_left hdx), hentries, hentries, hsink, hne s x hdx]

theorem State.traceCheck_ok {v : Nat} (hlt : v < 16) (hup : s.vbusUp = true) : s.traceCheck v = 0 := by
  rw [State.traceCheck, if_neg (Nat.not_le.mpr hlt), hup]
  rfl

theorem mem_unitsOf {v : Nat} (hd : d < 4) : d ∈ (List.range 4).filter v.testBit ↔ v.testBit d = true := by
  simp [List.mem_filter, hd]

theorem answered_power (s : State) (m : Msg) (st : Nat) : (answered s m st).power = s.power := by rw [(answered_frame s m st).1]
theorem answered_obs (s : State) (m : Msg) (st : Nat) : (answered s m st).obs = s.obs := by rw [(answered_frame s m st).1]
theorem answered_traceUnit (s : State) (m : Msg) (st d : Nat) : (answered s m st).traceUnit d = s.traceUnit d := by
  rw [State.traceUnit, answered_obs, State.traceUnit]
theorem answered_policy (s : State) (m : Msg) (st i j : Nat) : policy (answered s m st) i j = policy s i j := by
  unfold policy written
  rw [(answered_frame s m st).2]

end

/-- Settles O52: each action, the end of the self-test and of the sketch's build. -/
theorem actionsOfCare : Obligations.ActionsOfCare := by
  unfold Obligations.ActionsOfCare
  refine ⟨fun s a m v h ha hv => ⟨fun hw hc hstage => ?_, fun hw hc => ?_, fun hw hc => ?_, fun hw hlt hbusy => ?_,
    fun hw hlt hfree hup hsound => ?_, fun hw hlt hup hroom => ?_, fun hw hlt hup => ?_⟩, fun s h => ⟨?_, ?_⟩, fun s e hs hrun hup hsound => ?_⟩
  · subst ha hv
    refine ⟨_, exec_command_ok h hc (exec_vbusRestart hw), ?_⟩
    rw [State.startVbus, answered_power, if_neg hstage, State.beginVbus, answered_power]
  · subst hv
    exact ⟨_, exec_command_fails h rfl hc (exec_vbusRestart hw), rfl⟩
  · subst ha hv
    refine ⟨_, exec_command_ok h hc (exec_tileSelftest hw), ?_⟩
    rw [answered_bind]
  · subst hv
    refine ⟨_, exec_command_fails h (st := 0x09) ?_ (by decide) (exec_sketchBuild hw), rfl⟩
    exact (if_neg (Nat.not_le.mpr hlt)).trans (if_pos hbusy)
  · subst ha hv
    have hc : State.sketchCheck (s.countMgmt 0) (mValue m) = 0 := by
      have hsame : State.sketchCheck (s.countMgmt 0) (mValue m) = s.sketchCheck (mValue m) := rfl
      rw [hsame, State.sketchCheck, if_neg (Nat.not_le.mpr hlt), hfree]
      simp [hup]
    refine ⟨_, exec_command_ok h hc (exec_sketchBuild hw), ?_⟩
    rw [State.checkCounts_sound, answered_obs]
    intro k
    have hsems : State.sem { answered s m 0 with obs := { (answered s m 0).obs with
        sketchEasel := some (mValue m), firstState := (answered s m 0).sketchNodes (mValue m) } } k = s.sem k :=
      congrArg (tget Sem.reset · k) (answered_sems s m 0)
    rw [hsems]
    exact semaphoresSound_sem hsound k
  · subst hv
    have hc : State.traceCheck (s.countMgmt 0) (mValue m) = 0 := State.traceCheck_ok hlt hup
    refine ⟨_, exec_command_ok h hc (exec_traceTrigger hw), fun d hd u hu => ?_⟩
    subst hu
    obtain ⟨hout, hin⟩ := triggerUnits_spec (s := answered s m 0) (d := d) (l := (List.range 4).filter (mValue m).testBit)
      (fun x hx => List.mem_range.mp (List.mem_of_mem_filter hx)) (List.nodup_range.filter _)
      (fun x hx => .inl (by rw [answered_traceUnit]; exact hroom x hx))
    rw [mem_unitsOf hd] at hout hin
    rw [answered_traceUnit] at hout hin
    refine ⟨fun hbit => hout (by simp [hbit]), fun hbit harmed hmode hstate hnot hvalid => ?_⟩
    obtain ⟨st, hself⟩ := hin hbit (by
      unfold State.takesTrigger
      rw [answered_traceUnit, State.sinkValid_of_bind (answered_bind s m 0)]
      exact ⟨harmed, hmode, hstate, hnot, hvalid⟩)
    rw [hself]
    exact ⟨rfl, rfl, rfl⟩
  · subst hv
    have hc : State.traceCheck (s.countMgmt 0) (mValue m) = 0 := State.traceCheck_ok hlt hup
    refine ⟨_, exec_command_ok h hc (exec_traceArm hw), fun d hd u hu => ?_⟩
    subst hu
    obtain ⟨hout, hin⟩ := armTraces_spec (s := answered s m 0) (d := d) (l := (List.range 4).filter (mValue m).testBit) (List.nodup_range.filter _)
    rw [mem_unitsOf hd] at hout hin
    rw [answered_traceUnit] at hout hin
    refine ⟨fun hbit => hout (by simp [hbit]), fun hbit => ?_⟩
    rw [hin hbit]
    have hentry : policy (answered s m 0) 0xB000 1 = policy s 0xB000 1 := answered_policy s m 0 _ _
    exact ⟨rfl, rfl, rfl, rfl, rfl, rfl, rfl, hentry⟩
  · exact ⟨_, exec_selftestComplete true h, rfl⟩
  · have hexec := exec_selftestComplete false h
    dsimp only at hexec
    split at hexec
    · exact ⟨_, hexec, State.failedTest_selftest _ _⟩
    · exact ⟨_, hexec, rfl⟩
  · refine ⟨_, exec_sketchSecondPublication hs hrun hup, ?_⟩
    have hrec := State.report_records { s with obs := { s.obs with sketchEasel := none, firstState := [], sketch := (s.joinSketch e).1 } } 0x0B02 e 0x0A 0
      (s.joinSketch e).2.1 (s.joinSketch e).2.2
    generalize State.report _ _ _ _ _ _ _ = u at hrec ⊢
    rw [State.checkCounts_sound fun k => by rw [hrec.sem]; exact semaphoresSound_sem hsound k]
    refine ⟨?_, ?_, ?_, hrec.tiles, hrec.sems⟩ <;> rw [hrec.1]

end Sys2Proof.Machine
end

section
/-! PROOFS. What leaves a port (R328 to R332, R341, R345). -/

namespace Sys2Proof.Machine

/-! ### Ports of the state -/

section
variable {s : State} {p q : Nat} {x y z : Port}

theorem State.setPort_setPort (s : State) (p : Nat) (x y : Port) : (s.setPort p x).setPort p y = s.setPort p y := by
  unfold State.setPort
  dsimp only
  rw [tset_tset]

/-! ### One port -/

/-- What a flit without data changes of its port: the credit owed, and the codeword being formed. -/
def Port.Controls (x y : Port) : Prop :=
  y = { x with owed := y.owed, codeword := y.codeword, stream := y.stream, symbols := y.symbols }

/-- What packets change of the port they leave by, or wait at. -/
def Port.Sends (x y : Port) : Prop :=
  y = { x with txSeq := y.txSeq, replay := y.replay, waiting := y.waiting, credits := y.credits, owed := y.owed, codeword := y.codeword,
               stream := y.stream, symbols := y.symbols } ∧ x.replay <+: y.replay

theorem Port.Controls.refl (x : Port) : x.Controls x := rfl

theorem Port.Controls.trans (h : x.Controls y) (k : y.Controls z) : x.Controls z := by
  unfold Port.Controls at *
  rw [k, h]

theorem Port.Sends.refl (x : Port) : x.Sends x := ⟨rfl, List.prefix_rfl⟩

theorem Port.Sends.trans (h : x.Sends y) (k : y.Sends z) : x.Sends z := by
  obtain ⟨h, hreplay⟩ := h
  obtain ⟨k, kreplay⟩ := k
  refine ⟨?_, hreplay.trans kreplay⟩
  rw [k]
  conv_lhs => rw [h]

theorem Port.Controls.sends (h : x.Controls y) : x.Sends y := by
  unfold Port.Controls at h
  refine ⟨?_, ?_⟩ <;> rw [h]

theorem Port.push_controls (x : Port) (bs : List Byte) : x.Controls (x.push bs) := by
  unfold Port.push
  dsimp only
  split <;> rfl

theorem Port.creditBack_controls (x : Port) : x.Controls x.creditBack.2.2 := by
  unfold Port.creditBack
  split <;> rfl

theorem packetFlits_sends (n : Nat) (k : Packet) (first : Bool) (bs : List Byte) (x : Port) (acc : List (List Byte)) :
    x.Sends (packetFlits n k first bs x acc).1 := by
  induction n generalizing first bs x acc with
  | zero => exact .refl x
  | succ n ih =>
    unfold packetFlits
    refine Port.Sends.trans ?_ (ih _ _ _ _)
    refine x.creditBack_controls.sends.trans ?_
    exact ⟨rfl, List.prefix_append _ _⟩

/-! ### The state behind a port -/

/-- What leaves by port `p`: the port, the flits, and the source of a packet that leaves before a position is assigned. -/
structure Sent (p : Nat) (s s' : State) : Prop where
  rest : s' = { s with fabric := { s.fabric with ports := s'.fabric.ports }, out := s'.out, choices := s'.choices }
  out : s.out <+: s'.out
  port : (s.port p).Sends (s'.port p)
  others : ∀ q, q ≠ p → s'.port q = s.port q

theorem Sent.refl (p : Nat) (s : State) : Sent p s s := ⟨rfl, List.prefix_rfl, .refl _, fun _ _ => rfl⟩

theorem Sent.trans {t u : State} (h : Sent p s t) (k : Sent p t u) : Sent p s u := by
  refine ⟨?_, h.out.trans k.out, h.port.trans k.port, fun q hq => (k.others q hq).trans (h.others q hq)⟩
  rw [k.rest]
  conv_lhs => rw [h.rest]

theorem State.setPort_sent (h : (s.port p).Sends x) : Sent p s (s.setPort p x) :=
  ⟨rfl, List.prefix_rfl, by rwa [State.setPort_port_self], fun _ hq => State.setPort_port_ne _ _ _ _ hq⟩

theorem State.sendFlit_port_self (s : State) (p : Nat) (f : List Byte) : (s.sendFlit p f).port p = (s.port p).push f :=
  State.setPort_port_self _ _ _

theorem State.sendFlit_sent (s : State) (p : Nat) (f : List Byte) : Sent p s (s.sendFlit p f) :=
  ⟨rfl, List.prefix_append _ _, by rw [State.sendFlit_port_self]; exact (Port.push_controls _ f).sends,
    fun _ hq => State.setPort_port_ne _ _ _ _ hq⟩

theorem State.stamp_sent (s : State) (p : Nat) (k : Packet) : Sent p s (s.stamp k).2 := by
  unfold State.stamp
  split
  · exact .refl p s
  · exact ⟨rfl, List.prefix_rfl, .refl _, fun _ _ => rfl⟩

theorem State.stamp_port (s : State) (k : Packet) (q : Nat) : (s.stamp k).2.port q = s.port q := by
  unfold State.stamp
  split <;> rfl

/-- What waits at a port sent as far as it can be. -/
theorem pump_sent (p : Nat) (l : List Packet) (blocked : List Nat) (s : State) : Sent p s (pump p l blocked s) := by
  induction l generalizing blocked s with
  | nil => exact .refl p s
  | cons k l ih =>
    unfold pump
    dsimp only
    split
    · have hwait : Sent p s (s.setPort p { s.port p with waiting := (s.port p).waiting ++ [k] }) := State.setPort_sent ⟨rfl, List.prefix_rfl⟩
      exact hwait.trans (ih _ _)
    · refine Sent.trans ?_ (ih _ _)
      have hstamp := s.stamp_sent p k
      have hport := s.stamp_port k p
      generalize s.stamp k = r at hstamp hport ⊢
      have hcredit : (r.2.port p).Sends { s.port p with credits := tset (s.port p).credits k.channel (tget 0 (s.port p).credits k.channel - k.flits) } := by
        rw [hport]
        exact ⟨rfl, List.prefix_rfl⟩
      refine Sent.trans ?_ (foldl_keeps_state (Sent p) (.refl p) (fun _ _ _ => .trans) _ (fun s f => s.sendFlit_sent p f) _ _)
      exact hstamp.trans (State.setPort_sent (hcredit.trans (packetFlits_sends _ _ _ _ _ _)))

theorem State.pumpPort_sent (s : State) (p : Nat) : Sent p s (s.pumpPort p) := by
  unfold State.pumpPort
  have hempty : Sent p s (s.setPort p { s.port p with waiting := [] }) := State.setPort_sent ⟨rfl, List.prefix_rfl⟩
  exact hempty.trans (pump_sent p _ _ _)

/-- With nothing that waits, nothing leaves. -/
theorem State.pumpPort_idle (h : (s.port p).waiting = []) : s.pumpPort p = s.setPort p (s.port p) := by
  have hself : ({ s.port p with waiting := [] } : Port) = s.port p := by rw [← h]
  unfold State.pumpPort
  dsimp only
  rw [h, hself, pump]

theorem State.sendOn_sent (s : State) (p : Nat) (k : Packet) : Sent p s (s.sendOn p k) := by
  have hwait : Sent p s (s.setPort p { s.port p with waiting := (s.port p).waiting ++ [k] }) := State.setPort_sent ⟨rfl, List.prefix_rfl⟩
  exact hwait.trans (State.pumpPort_sent _ p)

/-! ### What leaves by any port -/

/-- Packets and flits left by whatever ports: these, the flits, and the free choices of a source. -/
structure PortsOnly (s s' : State) : Prop where
  rest : s' = { s with fabric := { s.fabric with ports := s'.fabric.ports, withheld := s'.fabric.withheld }, out := s'.out, choices := s'.choices }
  out : s.out <+: s'.out
  port : ∀ q, (s.port q).Sends (s'.port q)

theorem PortsOnly.refl (s : State) : PortsOnly s s := ⟨rfl, List.prefix_rfl, fun _ => .refl _⟩

theorem PortsOnly.trans {t u : State} (h : PortsOnly s t) (k : PortsOnly t u) : PortsOnly s u := by
  refine ⟨?_, h.out.trans k.out, fun q => (h.port q).trans (k.port q)⟩
  rw [k.rest]
  conv_lhs => rw [h.rest]

theorem Sent.ports {t : State} (h : Sent p s t) : PortsOnly s t := by
  refine ⟨?_, h.out, fun q => ?_⟩
  · conv_lhs => rw [h.rest]
    conv_rhs => rw [h.rest]
  · by_cases hq : q = p
    · exact hq ▸ h.port
    · rw [h.others q hq]
      exact .refl _

section
variable {t : State} (h : PortsOnly s t)
include h
theorem PortsOnly.easels : t.easels = s.easels := by rw [h.rest]
theorem PortsOnly.easel (e : Nat) : t.easel e = s.easel e := by rw [State.easel, h.easels, State.easel]
theorem PortsOnly.tiles : t.tiles = s.tiles := by rw [h.rest]
theorem PortsOnly.sems : t.sems = s.sems := by rw [h.rest]
theorem PortsOnly.bind : t.bind = s.bind := by rw [h.rest]
theorem PortsOnly.dict : t.dict = s.dict := by rw [h.rest]
theorem PortsOnly.mem : t.mem = s.mem := by rw [h.rest]
theorem PortsOnly.streams : t.streams = s.streams := by rw [h.rest]
theorem PortsOnly.received : t.fabric.received = s.fabric.received := by rw [h.rest]
theorem PortsOnly.memoryKept : MemoryKept s t := by
  rw [h.rest]
  exact ⟨fun _ _ => rfl, rfl⟩
end

/-! ### Flits without data -/

/-- Flits without data left: the credit of ports, that withheld for want of a key, and the flits. -/
structure Controlled (s s' : State) : Prop where
  rest : s' = { s with fabric := { s.fabric with ports := s'.fabric.ports, withheld := s'.fabric.withheld }, out := s'.out }
  out : s.out <+: s'.out
  port : ∀ q, (s.port q).Controls (s'.port q)

theorem Controlled.refl (s : State) : Controlled s s := ⟨rfl, List.prefix_rfl, fun _ => .refl _⟩

theorem Controlled.trans {t u : State} (h : Controlled s t) (k : Controlled t u) : Controlled s u := by
  refine ⟨?_, h.out.trans k.out, fun q => (h.port q).trans (k.port q)⟩
  rw [k.rest]
  conv_lhs => rw [h.rest]

theorem Controlled.ports {t : State} (h : Controlled s t) : PortsOnly s t := by
  refine ⟨?_, h.out, fun q => (h.port q).sends⟩
  conv_lhs => rw [h.rest]
  conv_rhs => rw [h.rest]

theorem State.setPort_controlled (h : (s.port p).Controls x) : Controlled s (s.setPort p x) := by
  refine ⟨rfl, List.prefix_rfl, fun q => ?_⟩
  by_cases hq : q = p
  · subst hq
    rwa [State.setPort_port_self]
  · rw [State.setPort_port_ne _ _ _ _ hq]
    exact .refl _

theorem State.sendFlit_controlled (s : State) (p : Nat) (f : List Byte) : Controlled s (s.sendFlit p f) := by
  have hemit (t : State) : Controlled t (t.emit (.flit p f)) := ⟨rfl, List.prefix_append _ _, fun _ => .refl _⟩
  exact (State.setPort_controlled (Port.push_controls _ f)).trans (hemit _)

theorem Port.control_controls (x : Port) (kind : Nat) : x.Controls (x.control kind).1 := x.creditBack_controls

theorem State.sendControl_controlled (s : State) (p kind : Nat) : Controlled s (s.sendControl p kind) :=
  (State.setPort_controlled (Port.control_controls _ kind)).trans (State.sendFlit_controlled _ p _)

theorem State.returnCredit_controlled (s : State) (a : Arrival) : Controlled s (s.returnCredit a) := by
  unfold State.returnCredit
  dsimp only
  split
  · exact .refl s
  · have howed (l : Tab Nat) : Controlled s (s.setPort a.port { s.port a.port with owed := l }) := State.setPort_controlled rfl
    exact (howed _).trans (State.sendControl_controlled _ _ 1)

theorem State.settleCredit_controlled (s : State) : Controlled s s.settleCredit := by
  unfold State.settleCredit
  dsimp only
  have hfreed (l : List Arrival) : Controlled s { s with fabric := { s.fabric with withheld := l } } := ⟨rfl, List.prefix_rfl, fun _ => .refl _⟩
  exact (hfreed _).trans (foldl_keeps_state Controlled .refl (fun _ _ _ => .trans) _ State.returnCredit_controlled _ _)

theorem State.returnTagged_controlled (s : State) (a : Arrival) : Controlled s (s.returnTagged a) := by
  have hheld : Controlled s { s with fabric := { s.fabric with withheld := s.fabric.withheld ++ [a] } } := ⟨rfl, List.prefix_rfl, fun _ => .refl _⟩
  exact hheld.trans (State.settleCredit_controlled _)

theorem State.advertise_controlled (s : State) (p n : Nat) : Controlled s (s.advertise p n) := by
  induction n generalizing s with
  | zero => exact .refl s
  | succ n ih =>
    unfold State.advertise
    split
    · exact (s.sendControl_controlled p 1).trans (ih _)
    · exact .refl s

/-! ### Ports picked -/

/-- A packet of the device's own has a port to leave by where its channel's mask holds any. -/
theorem State.ownPort_isSome (c : Nat) : (s.ownPort c).isSome = !(maskPorts (s.mask c)).isEmpty := by
  unfold State.ownPort
  dsimp only
  cases hpick : s.pickPort (maskPorts (s.mask c)) with
  | none => cases maskPorts (s.mask c) <;> rfl
  | some p =>
    cases hmask : maskPorts (s.mask c) with
    | nil => rw [hmask] at hpick; cases hpick
    | cons _ _ => rfl

end

end Sys2Proof.Machine
end

section
/-! PROOFS. The Curator's answers and its queue (R419, R423 to R426, R431). -/

namespace Sys2Proof.Machine

/-! ### Answers are remembered -/

theorem findAt_spec {α : Type} (p : α → Bool) (l : List α) (i n : Nat) (x : α) (h : findAt p l i = some (n, x)) :
    ∃ pre post, l = pre ++ x :: post ∧ n = i + pre.length ∧ p x = true ∧ ∀ y ∈ pre, p y = false := by
  induction l generalizing i with
  | nil => cases h
  | cons y l ih =>
    rw [findAt] at h
    split at h
    · next hy =>
      cases h
      exact ⟨[], l, rfl, rfl, hy, fun _ h => absurd h List.not_mem_nil⟩
    · next hy =>
      obtain ⟨pre, post, rfl, rfl, hx, hpre⟩ := ih _ h
      refine ⟨y :: pre, post, rfl, by rw [List.length_cons]; omega, hx, fun z hz => ?_⟩
      obtain rfl | hz := List.mem_cons.mp hz
      · simpa using hy
      · exact hpre z hz

theorem find?_last {α : Type} {P : α → Bool} {l : List α} {x : α} (hx : P x = true) (hl : ∀ y ∈ l, P y = false) :
    (l ++ [x]).find? P = some x := by
  rw [List.find?_append, List.find?_eq_none.mpr fun y hy => by simp [hl y hy]]
  simp [hx]

/-- Where a requester's transactions are cut to its latest, the newest one stays. -/
theorem keepTransactions_newest (k : Nat) {old : List Transaction} {new : Transaction} {P : Transaction → Bool} (hk : new.requester = k)
    (hnew : P new = true) (hold : ∀ t ∈ old, P t = false) : (keepTransactions k (old ++ [new])).find? P = some new := by
  unfold keepTransactions
  dsimp only
  split
  · next hmany =>
    split
    · next n x hfound =>
      obtain ⟨pre, post, heq, rfl, -, hpre⟩ := findAt_spec _ _ _ _ _ hfound
      rw [Nat.zero_add, heq, dropAt]
      have hdrop : (pre ++ x :: post).take pre.length ++ (pre ++ x :: post).drop (pre.length + 1) = pre ++ post := by simp
      rw [hdrop]
      obtain rfl | ⟨init, last, rfl⟩ := post.eq_nil_or_concat
      · obtain ⟨rfl, hx⟩ := List.append_inj' heq rfl
        have hmine : old.filter (fun t => decide (t.requester = k)) = [] := List.filter_eq_nil_iff.mpr fun t ht => by simp [hpre t ht]
        rw [List.filter_append, hmine] at hmany
        simp [hk] at hmany
      · have heq' : old ++ [new] = (pre ++ x :: init) ++ [last] := by simpa using heq
        obtain ⟨rfl, hlast⟩ := List.append_inj' heq' rfl
        cases hlast
        rw [List.concat_eq_append, ← List.append_assoc]
        refine find?_last hnew fun t ht => hold t ?_
        simp only [List.mem_append, List.mem_cons] at ht ⊢
        tauto
    · exact find?_last hnew hold
  · exact find?_last hnew hold

section
variable {s : State} {m : Msg} {role : Role}

/-- A status counted. -/
def State.countStatus (s : State) (status : Nat) : State :=
  match statusCount status with
  | some i => s.countMgmt i
  | none => s

theorem State.countStatus_stats (s : State) (status : Nat) : ∃ st, s.countStatus status = { s with dict := { s.dict with stats := st } } := by
  unfold State.countStatus
  split
  · exact ⟨_, rfl⟩
  · exact ⟨s.dict.stats, rfl⟩

/-- The transactions with a new one of message `m`. -/
def State.withTransaction (s : State) (m : Msg) (bs : List Byte) : List Transaction :=
  keepTransactions (requesterKey m) ((s.dict.transactions.filter fun t => !(t.requester = requesterKey m && t.number = mTransaction m)) ++
    [⟨requesterKey m, mTransaction m, m.bytes, bs⟩])

theorem State.answer_eq (s : State) (m : Msg) (r : Reply) : s.answer m r = State.emit { s.countStatus r.status with
    dict := { (s.countStatus r.status).dict with transactions := (s.countStatus r.status).withTransaction m (replyBytes m r) } }
    (.response m.transport m.requester (replyBytes m r)) := rfl

theorem State.answer_leaves (s : State) (m : Msg) (r : Reply) : (s.answer m r).out = s.out ++ [.response m.transport m.requester (replyBytes m r)] ∧
    (s.answer m r).remembered m = some (replyBytes m r) := by
  obtain ⟨st, hst⟩ := s.countStatus_stats r.status
  rw [State.answer_eq, hst]
  refine ⟨rfl, ?_⟩
  unfold State.remembered State.withTransaction
  dsimp only [State.emit]
  rw [keepTransactions_newest (requesterKey m) rfl (by simp) fun t ht => ?_]
  · rfl
  · have hout := (List.mem_filter.mp ht).2
    simp only [Bool.not_eq_true', Bool.and_eq_false_iff, decide_eq_false_iff_not] at hout ⊢
    exact .inl hout

/-! ### A request that runs -/

/-- A whole new request in form is run and answered, whatever waits behind it. -/
theorem State.serve_runs (hup : s.transportUp m.transport = true) (hwhole : msgIntact m = true) (hrole : s.roleOf m = some role)
    (hnew : s.remembered m = none) (hform : formatOk m = true) (run : State → Role → Reply × State) :
    (s.serve m run).1 = (run (s.countMgmt 0) role).2.answer m (run (s.countMgmt 0) role).1 := by
  have hnew' : (s.countMgmt 0).remembered m = none := hnew
  simp [State.serve, hup, hwhole, hrole, hnew', hform]

theorem exec_read (hop : mOp m ≠ 2) (hop' : mOp m ≠ 3) : exec (.read m) s =
    .next (s.atCurator (.read m) m fun s => (s.serve m fun s role => s.readEntry m role).1) := by
  have harm : exec (.read m) s = execRead m s := rfl
  rw [harm, execRead, if_neg (by simp [hop, hop'])]

theorem exec_list (hop : mOp m = 3) : exec (.list m) s =
    .next (s.atCurator (.list m) m fun s => (s.serve m fun s role => (s.listEntries m role, s)).1) := by
  have harm : exec (.list m) s = execList m s := rfl
  rw [harm, execList, if_pos hop]

theorem exec_write (hop : mOp m = 2) (hrow : ownRow (mIndex m) (mSub m) = false) : exec (.write m) s =
    .next (s.atCurator (.write m) m fun s => (s.serve m fun s role => s.writeEntry m role).1) := by
  have harm : exec (.write m) s = execWrite m s := rfl
  rw [harm, execWrite, if_pos (by simp [hop, hrow])]

/-- Permitted, of an entry that is there and not a segment of another: the shared checks pass. -/
theorem State.sharedCheck_passes {x : Entry} (hop : mOp m ≠ 3) (hx : entry (mIndex m) (mSub m) = some x)
    (hperm : s.permitted role (mOp m) (mIndex m) (mSub m) = true) (hoff : mOffset m = 0) (hlast : mLast m = false) :
    s.sharedCheck m role = none := by
  unfold State.sharedCheck
  dsimp only
  rw [if_neg (by simp [hperm]), if_neg (by simp [present, hop, hx]), if_neg (by simp [hoff, hlast])]

theorem State.sharedCheck_forbidden (hperm : s.permitted role (mOp m) (mIndex m) (mSub m) = false) : s.sharedCheck m role = some 0x02 := by
  unfold State.sharedCheck
  dsimp only
  rw [if_pos (by simp [hperm])]

/-- The value of an entry that may be read and is no BLOB. -/
theorem State.readEntry_value {x : Entry} (hop : mOp m = 1) (hx : entry (mIndex m) (mSub m) = some x)
    (hperm : s.permitted role 1 (mIndex m) (mSub m) = true) (h3 : x.access ≠ 3) (h6 : x.access ≠ 6)
    (hheld : s.withheld (mIndex m) (mSub m) = false) (hty : x.ty ≠ 0x0A) (hoff : mOffset m = 0) (hlast : mLast m = false) :
    s.readEntry m role = (⟨0, 0, 0, 0, s.value (mIndex m) (mSub m)⟩, s) := by
  rw [State.readEntry, State.sharedCheck_passes (by omega) hx (by rw [hop]; exact hperm) hoff hlast]
  dsimp only
  rw [hx]
  dsimp only
  rw [if_neg (by simp [h3, h6]), if_neg (by simp [hheld]), if_neg hty]

/-- A write whose checks pass commits its data. -/
theorem State.writeEntry_commits (h : WriteOk s m) : ∃ role, Served s m role ∧
    (s.countMgmt 0).writeEntry m role = (plainReply 0, (s.countMgmt 0).commitValue (mIndex m) (mSub m) false (mData m)) := by
  obtain ⟨role, x, hserved, hop, hx, hperm, hoff, hlast, htyA, htyB, hheld, hcheck⟩ := h
  have hperm' : (s.countMgmt 0).permitted role (mOp m) (mIndex m) (mSub m) = true := by
    rw [hop]
    exact hperm
  have hheld' : (s.countMgmt 0).withheld (mIndex m) (mSub m) = false := hheld
  have hcheck' : (s.countMgmt 0).writeCheck m x (some []) = 0 := hcheck
  refine ⟨role, hserved, ?_⟩
  rw [State.writeEntry, State.sharedCheck_passes (by omega) hx hperm' hoff hlast]
  dsimp only
  rw [hx]
  dsimp only
  rw [if_neg htyA, hcheck']
  refine (if_neg (by simp [hheld'])).trans ?_
  rw [if_neg htyA, if_neg htyB]

theorem State.commitValue_written (s : State) (i b : Nat) (d : List Byte) : written (s.commitValue i b false d).dict i b = d ∧
    ∀ j c, j * 256 + c ≠ i * 256 + b → written (s.commitValue i b false d).dict j c = written s.dict j c :=
  ⟨tget_tset_self _ _ _ _, fun _ _ h => tget_tset_ne _ _ _ _ _ h⟩

theorem written_of_values {d d' : Dict} (h : d'.values = d.values) (i b : Nat) : written d' i b = written d i b := by
  unfold written
  rw [h]

/-! ### The queue of the Curator -/

variable {c : Instr}

/-- Every request is run, or waits, at the Curator. -/
theorem exec_request (h : IsRequest c m) (s : State) : ∃ go, exec c s = .next (s.atCurator c m go) := by
  obtain ⟨rfl, hop, hop'⟩ | ⟨rfl, hop⟩ | ⟨rfl, hop, hrow⟩ := h
  · exact ⟨_, exec_read hop hop'⟩
  · exact ⟨_, exec_list hop⟩
  · exact ⟨_, exec_write hop hrow⟩

/-- A whole request that finds the Curator at work, or others waiting. -/
theorem State.atCurator_behind (hup : s.transportUp m.transport = true) (hwhole : msgIntact m = true) (hrole : s.roleOf m ≠ none)
    (hturn : s.dict.turn = false) (hbusy : m.later = true ∨ s.dict.waiting ≠ []) (go : State → State) : s.atCurator c m go =
    if 64 ≤ s.dict.waiting.length then
      ((s.countMgmt 0).countMgmt 4).emit (.response m.transport m.requester (replyBytes m (plainReply 0x09)))
    else { s with dict := { s.dict with waiting := s.dict.waiting ++ [c] } } := by
  have hsome : (s.roleOf m).isSome = true := Option.isSome_iff_ne_none.mpr hrole
  have hwait : (!m.later && s.dict.waiting.isEmpty) = false := by
    obtain h | h := hbusy
    · simp [h]
    · simp [h]
  rw [State.atCurator, if_neg (by simp [hturn]), if_neg (by simp [hup, hwhole, hsome, hwait])]

end

theorem requestsQueue : RequestsQueue := by
  intro s c m hc hup hwhole hrole
  refine ⟨fun hturn hbusy => ?_, fun role x t hturn ht hread hop hrole' hnew hform hx hperm h3 h6 hheld hty hoff hlast => ?_⟩
  · obtain ⟨go, hexec⟩ := exec_request hc s
    rw [State.atCurator_behind hup hwhole hrole hturn hbusy] at hexec
    refine ⟨fun hroom => ?_, fun hfull => ?_⟩
    · rwa [if_neg (Nat.not_le.mpr hroom)] at hexec
    · rw [if_pos hfull] at hexec
      exact ⟨_, hexec, rfl, rfl⟩
  · subst hread
    have hup' : t.transportUp m.transport = true := by
      rw [ht]
      exact hup
    have hrole'' : t.roleOf m = some role := by
      rw [ht]
      exact hrole'
    have hnew' : t.remembered m = none := by
      rw [ht]
      exact hnew
    have hperm' : (t.countMgmt 0).permitted role 1 (mIndex m) (mSub m) = true := by
      rw [ht]
      exact hperm
    have hheld' : (t.countMgmt 0).withheld (mIndex m) (mSub m) = false := by
      rw [ht]
      exact hheld
    refine ⟨_, exec_read (by omega) (by omega), ?_⟩
    dsimp only
    rw [State.atCurator_turn _ _ hturn, ← ht, State.serve_runs hup' hwhole hrole'' hnew' hform,
      State.readEntry_value hop hx hperm' h3 h6 hheld' hty hoff hlast]
    rfl

theorem requestsAnswered : RequestsAnswered := by
  refine ⟨fun s m r => ⟨?_, ?_, ?_, ?_⟩, fun s m role x h hop hx => ⟨fun hperm h3 h6 hheld hty hoff hlast => ?_, fun hperm => ?_⟩,
    fun s m h hrow => ?_, fun s m role h hop => ?_, fun s m role bs hdirect hup hwhole hrole hknown hop => ?_⟩
  · exact ((s.countMgmt 0).answer_leaves m r).1
  · exact (State.answer_frame (s.countMgmt 0) m r).1
  · exact (State.answer_frame (s.countMgmt 0) m r).2
  · exact ((s.countMgmt 0).answer_leaves m r).2
  · obtain ⟨⟨hturn, hlater, hwaiting⟩, hup, hwhole, hrole, hnew, hform⟩ := id h
    refine ⟨_, exec_read (by omega) (by omega), ?_⟩
    rw [State.atCurator_direct _ hturn hlater hwaiting, State.serve_runs hup hwhole hrole hnew hform,
      State.readEntry_value (s := s.countMgmt 0) hop hx hperm h3 h6 hheld hty hoff hlast]
    rfl
  · obtain ⟨⟨hturn, hlater, hwaiting⟩, hup, hwhole, hrole, hnew, hform⟩ := id h
    have hforbidden : (s.countMgmt 0).permitted role (mOp m) (mIndex m) (mSub m) = false := by
      rw [hop]
      exact hperm
    refine ⟨_, exec_read (by omega) (by omega), ?_⟩
    rw [State.atCurator_direct _ hturn hlater hwaiting, State.serve_runs hup hwhole hrole hnew hform, State.readEntry,
      State.sharedCheck_forbidden hforbidden]
    rfl
  · have hop : mOp m = 2 := by
      obtain ⟨_, _, _, hop, -⟩ := h
      exact hop
    obtain ⟨role, hserved, hwrite⟩ := State.writeEntry_commits h
    obtain ⟨⟨hturn, hlater, hwaiting⟩, hup, hwhole, hrole, hnew, hform⟩ := id hserved
    have hexec := exec_write (s := s) hop hrow
    rw [State.atCurator_direct _ hturn hlater hwaiting, State.serve_runs hup hwhole hrole hnew hform, hwrite] at hexec
    refine ⟨_, hexec, ?_⟩
    dsimp only
    obtain ⟨hframe, hvalues⟩ := State.answer_frame ((s.countMgmt 0).commitValue (mIndex m) (mSub m) false (mData m)) m (plainReply 0)
    have hout := (State.answer_leaves ((s.countMgmt 0).commitValue (mIndex m) (mSub m) false (mData m)) m (plainReply 0)).1
    have hout' := ((s.countMgmt 0).answer_leaves m (plainReply 0)).1
    obtain ⟨hsame, hothers⟩ := (s.countMgmt 0).commitValue_written (mIndex m) (mSub m) (mData m)
    refine ⟨hframe, (written_of_values hvalues _ _).trans hsame, hout.trans hout'.symm, fun i b _ hne => ?_⟩
    exact (written_of_values hvalues _ _).trans (hothers i b hne)
  · obtain ⟨⟨hturn, hlater, hwaiting⟩, hup, hwhole, hrole, hnew, hform⟩ := id h
    refine ⟨_, exec_list hop, ?_⟩
    rw [State.atCurator_direct _ hturn hlater hwaiting, State.serve_runs hup hwhole hrole hnew hform]
    rfl
  · obtain ⟨hturn, hlater, hwaiting⟩ := hdirect
    have hknown' : (s.countMgmt 0).remembered m = some bs := hknown
    refine ⟨_, exec_read (by omega) (by omega), ?_⟩
    rw [State.atCurator_direct _ hturn hlater hwaiting]
    simp [State.serve, hup, hwhole, hrole, hknown']

/-- Settles O46: the answers and the queue of the Curator. -/
theorem dictionaryAnswers : Obligations.DictionaryAnswers := ⟨requestsAnswered, requestsQueue⟩

end Sys2Proof.Machine
end

section
/-! PROOFS. Restores, takeovers and spreadings; firmware, configuration, keys and the position (R338, R376, R378, R383, R450 to R455). -/

namespace Sys2Proof.Machine

/-! ### Fields in bytes -/

theorem leNat_leBytes (n v : Nat) : leNat (leBytes n v) = v % 256 ^ n := by
  induction n generalizing v with
  | zero => rw [pow_zero, Nat.mod_one]; rfl
  | succ n ih =>
    rw [leBytes, leNat, ih, pow_succ', Nat.mod_mul, BitVec.toNat_ofNat]
    omega

theorem leNat_lt (l : List Byte) : leNat l < 256 ^ l.length := by
  induction l with
  | nil => exact Nat.one_pos
  | cons b l ih =>
    have hb : b.toNat < 256 := b.isLt
    rw [leNat, List.length_cons, pow_succ']
    omega

theorem leBytes_leNat (l : List Byte) : leBytes l.length (leNat l) = l := by
  induction l with
  | nil => rfl
  | cons b l ih =>
    have hb : b.toNat < 256 := b.isLt
    have hmod : (b.toNat + 256 * leNat l) % 256 = b.toNat := by omega
    have hdiv : (b.toNat + 256 * leNat l) / 256 = leNat l := by omega
    rw [List.length_cons, leNat, leBytes, hmod, hdiv, ih, BitVec.ofNat_toNat, BitVec.setWidth_eq]

theorem at8_lt (b : List Byte) (off n : Nat) : at8 b off n < 256 ^ n :=
  lt_of_lt_of_le (leNat_lt _) (Nat.pow_le_pow_right (by decide) (by rw [List.length_take]; omega))

section
variable {s : State} {m : Msg} {e : Nat}

/-! ### Requests to far devices -/

/-- Requests to far devices left: ports, the requests under way, what was sent, and the free choices of a source. -/
structure Requested (s s' : State) : Prop where
  rest : s' = { s with
    fabric := { s.fabric with ports := s'.fabric.ports, remotes := s'.fabric.remotes, nextTag := s'.fabric.nextTag }
    out := s'.out
    choices := s'.choices }
  out : s.out <+: s'.out

theorem Requested.refl (s : State) : Requested s s := ⟨rfl, List.prefix_rfl⟩

theorem Requested.trans {t u : State} (h : Requested s t) (k : Requested t u) : Requested s u := by
  refine ⟨?_, h.out.trans k.out⟩
  rw [k.rest]
  conv_lhs => rw [h.rest]

theorem Sent.requested {p : Nat} {t : State} (h : Sent p s t) : Requested s t := by
  refine ⟨?_, h.out⟩
  conv_lhs => rw [h.rest]
  conv_rhs => rw [h.rest]

theorem State.requestOn_requested (s : State) (p e type channel dest a bHigh : Nat) (payload : List Byte) (poisoned : Bool)
    (issue xfer drain log fetch : Option Nat) :
    Requested s (s.requestOn p e type channel dest a bHigh payload poisoned issue xfer drain log fetch) := by
  unfold State.requestOn
  dsimp only
  refine Requested.trans ?_ (State.sendOn_sent _ p _).requested
  exact ⟨rfl, List.prefix_rfl⟩

/-- A restore that fetches from afar, where its channel's mask holds a port. -/
theorem State.fetchFar_requests {r : Restore} (hport : (s.ownPort r.channel).isSome = true) (off n : Nat) :
    Requested (s.onEasel e fun x => { x with restore := some { r with want := n, parts := [], bad := [] } }) (s.fetchFar e r off n) := by
  obtain ⟨p, hp⟩ := Option.isSome_iff_exists.mp hport
  unfold State.fetchFar
  rw [hp]
  refine foldl_keeps_state Requested .refl (fun _ _ _ => .trans) _ (fun s i => ?_) _ _
  split
  · exact s.requestOn_requested _ _ _ _ _ _ _ _ _ _ _ _ _ _
  · exact .refl s

section
variable {t : State} (h : Requested s t)
include h
theorem Requested.easel (e : Nat) : t.easel e = s.easel e := by rw [h.rest]; rfl
theorem Requested.tiles : t.tiles = s.tiles := by rw [h.rest]
theorem Requested.dict : t.dict = s.dict := by rw [h.rest]
theorem Requested.bind : t.bind = s.bind := by rw [h.rest]
theorem Requested.memoryKept : MemoryKept s t := by
  rw [h.rest]
  exact ⟨fun _ _ => rfl, rfl⟩
end

/-! ### The commands of Table 14-8 -/

theorem State.resilienceCommand_eq {c : Instr} {sub : Nat} {go : State → Nat → State} (hop : mOp m = 2) (hi : mIndex m = 0x9040 + e) (he : e < 64)
    (hsub : mSub m = sub) : s.resilienceCommand c m sub go =
    s.atCurator c m fun s => s.command m (fun s _ => s.restorable e) (fun s _ => s) (fun s _ => go s e) := by
  have hidx : mIndex m - 0x9040 = e := by omega
  rw [State.resilienceCommand, hidx]
  exact if_pos (by simp [hop, hi, he, hsub])

theorem State.restorable_ok (hr : (s.easel e).restore = none) (hup : s.vbusUp = true) (hmode : (s.easel e).mode = .bound)
    (hcv : (s.easel e).canvas.isSome = true) (hcmds : (s.easel e).cmds = []) : s.restorable e = 0 := by
  have hnone : (s.easel e).canvas.isNone = false := by simpa using hcv
  rw [State.restorable]
  simp [hr, hup, hmode, hnone, hcmds]

/-- An answer changes what the dictionary keeps beside its values, and what is sent. -/
theorem answered_shape (s : State) (m : Msg) (st : Nat) : ∃ d o, answered s m st = { s with dict := d, out := o } ∧ d.values = s.dict.values :=
  ⟨_, _, (answered_frame s m st).1, (answered_frame s m st).2⟩

theorem policy_of_values {t : State} (h : t.dict.values = s.dict.values) (i b : Nat) : policy t i b = policy s i b := by
  rw [policy, written_of_values h, policy]

theorem State.ownPort_of_masks {t : State} (h : t.fabric.masks = s.fabric.masks) {c : Nat} (hp : s.ownPort c ≠ none) : (t.ownPort c).isSome = true := by
  have hs := Option.isSome_iff_ne_none.mpr hp
  rw [State.ownPort_isSome] at hs ⊢
  rwa [State.mask, h]

theorem answered_drainChannel (s : State) (m : Msg) (st e : Nat) : (answered s m st).drainChannel e = s.drainChannel e := by
  obtain ⟨d, o, h, hv⟩ := answered_shape s m st
  rw [h]
  simp only [State.drainChannel, State.groupChannel, State.group, State.units, State.held, policy, written, hv]
  rfl

/-! ### RESTORE_EXECUTE (R376) -/

/-- A fetch from afar in a state that stands as `s` does but for its dictionary. -/
theorem State.fetchFar_leaves {t : State} {r : Restore} {n : Nat} (hport : (t.ownPort r.channel).isSome = true) :
    let u := t.fetchFar e r 0 n
    u.easel e = { t.easel e with restore := some { r with want := n, parts := [], bad := [] } } ∧ u.tiles = t.tiles ∧ u.dict = t.dict ∧
      MemoryKept t u := by
  have h := State.fetchFar_requests (e := e) hport 0 n
  refine ⟨?_, h.tiles, h.dict, ?_⟩
  · rw [h.easel, State.onEasel_easel_self]
  · exact memoryKept_trans (memoryKept_of_fields rfl rfl rfl rfl) h.memoryKept

theorem State.beginRestore_fetches {b : List Byte} (hb : b = written s.dict (0x9040 + e) 0x10) (hlen : b.length = 24) (hrsv : rsv b 2 2 = true)
    (hstep : at8 b 8 8 < 2 ^ 48) (hlayer : at8 b 0 1 = 1 ∨ at8 b 0 1 = 3) : s.beginRestore e =
    s.fetchFar e (newRestore 0 (at8 b 0 1) (at8 b 1 1) (at8 b 4 4) ((s.drainChannel e).getD 16) (at8 b 16 8) (at8 b 8 8)) 0 128 := by
  subst hb
  unfold State.beginRestore
  dsimp only
  have hzero : at8 (written s.dict (0x9040 + e) 0x10) 0 1 ≠ 0 := by omega
  have hthree : ¬ 3 < at8 (written s.dict (0x9040 + e) 0x10) 0 1 := by omega
  have hle : ¬ 2 ^ 48 ≤ at8 (written s.dict (0x9040 + e) 0x10) 8 8 := Nat.not_le.mpr hstep
  rw [if_neg (by simp [hlen, hrsv, hzero, hthree, hle, -Nat.reducePow]), if_neg (by omega)]

/-! ### TAKEOVER_EXECUTE (R378) -/

/-- A position adopted: what it leaves is the announcements at the ports. -/
theorem State.adoptPosition_ports (s : State) (n : Nat) : PortsOnly (s.commitValue 0x6100 1 false (leBytes 4 n)) (s.adoptPosition n) := by
  unfold State.adoptPosition
  dsimp only
  refine foldl_keeps_state PortsOnly .refl (fun _ _ _ => .trans) _ (fun s p => ?_) _ _
  exact ((State.setPort_sent (s := s) (p := p) (x := { s.port p with waiting := [] }) ⟨rfl, List.prefix_rfl⟩).trans (pump_sent p _ _ _)).ports

/-- The state in which a takeover begins its fetch. -/
def State.takenOver (s : State) (e v rank position : Nat) : State :=
  ((s.commitValue (0x6110 + v) 2 false (leBytes 2 rank)).adoptPosition position).sequenceRecord 0x0906 e s.position position

theorem State.beginTakeover_fetches {b : List Byte} {cv : Canvas} (hb : b = written s.dict (0x9040 + e) 0x12) (hlen : b.length = 32)
    (hrsv : rsv b 7 1 = true) (hrsv' : rsv b 20 4 = true) (hpos : at8 b 0 4 < 2 ^ 20 - 1) (hcv : (s.easel e).canvas = some cv)
    (hid : cv.id = at8 b 8 8) (hv : at8 b 6 1 < 16) (hholds : s.holds e 7 (at8 b 6 1) = true) (hrank : at8 b 4 2 < (s.group (at8 b 6 1)).1)
    (hreds : (s.commitValue (0x6110 + at8 b 6 1) 2 false (leBytes 2 (at8 b 4 2))).reductionsOk e = true) : s.beginTakeover e =
    (s.takenOver e (at8 b 6 1) (at8 b 4 2) (at8 b 0 4)).fetchFar e (newRestore 1 1 0 (at8 b 16 4) (at8 b 6 1) (at8 b 24 8) 0) 0 128 := by
  have hpos' : at8 b 0 4 < 1048575 := by omega
  unfold State.beginTakeover
  dsimp only
  rw [← hb, hcv]
  dsimp only
  exact if_neg (by simp [hlen, hrsv, hrsv', hpos', hid, Nat.not_le.mpr hv, hholds, Nat.not_le.mpr hrank, hreds])

theorem RecordsOnly.values {t : State} (h : RecordsOnly s t) : t.dict.values = s.dict.values := by rw [h.1]
theorem RecordsOnly.fabric {t : State} (h : RecordsOnly s t) : t.fabric = s.fabric := by rw [h.1]

theorem policy_commitValue_self (s : State) (i b n v : Nat) (h : v < 256 ^ n) : policy (s.commitValue i b false (leBytes n v)) i b = v := by
  rw [policy, (s.commitValue_written i b _).1, leNat_leBytes, Nat.mod_eq_of_lt h]

theorem policy_commitValue_ne {s : State} {i b j c : Nat} {d : List Byte} (h : j * 256 + c ≠ i * 256 + b) :
    policy (s.commitValue i b false d) j c = policy s j c := by
  rw [policy, (s.commitValue_written i b d).2 j c h, policy]

theorem State.takenOver_leaves (s : State) (e v rank position : Nat) (hrank : rank < 256 ^ 2) (hpos : position < 256 ^ 4) (hv : v < 16) :
    let t := s.takenOver e v rank position
    t.position = position ∧ policy t (0x6110 + v) 2 = rank ∧ t.tiles = s.tiles ∧ t.fabric.masks = s.fabric.masks := by
  have hports := State.adoptPosition_ports (s.commitValue (0x6110 + v) 2 false (leBytes 2 rank)) position
  have hrec := State.report_records ((s.commitValue (0x6110 + v) 2 false (leBytes 2 rank)).adoptPosition position) 0x0906 e 0x0A 0 s.position position
  have hvalues (i b : Nat) := policy_of_values (hrec.values.trans (congrArg Dict.values hports.dict)) i b
  refine ⟨?_, ?_, ?_, ?_⟩
  · exact (hvalues _ _).trans (policy_commitValue_self _ _ _ _ _ hpos)
  · exact ((hvalues _ _).trans (policy_commitValue_ne (by omega))).trans (policy_commitValue_self _ _ _ _ _ hrank)
  · exact hrec.tiles.trans hports.tiles
  · refine (congrArg Fabric.masks hrec.fabric).trans ?_
    rw [hports.rest]
    rfl

/-! ### SPREAD_EXECUTE (R383) -/

/-- The channel cleared and unbound of an easel whose canvas is gone. -/
theorem State.releaseRuns_channel (s : State) (e v : Nat) :
    s.releaseRuns e [(7, v, 1)] false = (s.clearChannel v true).unbindRun 7 v 1 := by
  have hspan : span v (v + 1) = [v] := by simp [span]
  unfold State.releaseRuns State.clearUnits State.retirePages
  simp only [List.foldl_cons, List.foldl_nil, hspan]
  rfl

theorem State.rebindChannel_leaves {v epoch f : Nat} (hepoch : epoch < 256 ^ 2) (hf : f < 256 ^ 2) :
    let t := s.rebindChannel e v epoch f
    policy t (0x6110 + v) 3 = epoch ∧ policy t (0x6110 + v) 9 = f ∧ (t.easel e).mode = (s.easel e).mode ∧ t.fabric.masks = s.fabric.masks := by
  obtain ⟨-, -, hmode, -⟩ := s.unloadCanvas_kept e
  have hmasks : (s.unloadCanvas e).fabric.masks = s.fabric.masks := by
    unfold State.unloadCanvas
    split
    · exact congrArg Fabric.masks (s.report_records _ e _ e _ 0).fabric
    · rfl
  have hclear := ((s.unloadCanvas e).clearChannel_cleared e v true).self.1
  unfold State.rebindChannel
  dsimp only
  rw [State.releaseRuns_channel]
  refine ⟨?_, policy_commitValue_self _ _ _ _ _ hf, hclear.trans hmode, hmasks⟩
  exact (policy_commitValue_ne (by omega)).trans (policy_commitValue_self _ _ _ _ _ hepoch)

/-- The state in which a spreading begins its fetch. -/
def State.spreadOut (s : State) (e : Nat) (cv : Canvas) : State :=
  ((s.fresh.2.setEasel e ((s.easel e).commit cv (s.units e 1))).installSheet e).report 0x0211 e 0x02 e cv.id
    (Sys2Proof.Config.freeNat s.choices % 2 ^ 32)

theorem State.spreadOut_leaves (s : State) (e : Nat) (cv : Canvas) :
    let t := s.spreadOut e cv
    (∃ c, (t.easel e).canvas = some c ∧ c.id = cv.id) ∧ (t.easel e).mode = (s.easel e).mode ∧ t.dict.values = s.dict.values ∧
      t.fabric.masks = s.fabric.masks := by
  have hrec := ((s.fresh.2.setEasel e ((s.easel e).commit cv (s.units e 1))).installSheet e).report_records 0x0211 e 0x02 e cv.id
    (Sys2Proof.Config.freeNat s.choices % 2 ^ 32)
  have heasel : ((s.fresh.2.setEasel e ((s.easel e).commit cv (s.units e 1))).installSheet e).easel e = (s.easel e).commit cv (s.units e 1) := by
    rw [State.easel, State.installSheet_easels]
    exact State.setEasel_easel_self _ _ _
  obtain ⟨hmode, hcanvas, -⟩ := hrec.face e
  rw [heasel] at hmode hcanvas
  have hinstall (x : State) : (x.installSheet e).dict = x.dict ∧ (x.installSheet e).fabric = x.fabric := by
    unfold State.installSheet State.clearFlows
    rw [State.initialSync_only, State.installPrograms_only]
    exact ⟨rfl, rfl⟩
  refine ⟨⟨_, hcanvas, rfl⟩, hmode, ?_, ?_⟩
  · exact hrec.values.trans (congrArg Dict.values (hinstall _).1)
  · exact (congrArg Fabric.masks hrec.fabric).trans (congrArg Fabric.masks (hinstall _).2)

theorem State.beginSpread_fetches {b : List Byte} {cv : Canvas} {verified : Bool} (hb : b = written s.dict (0x9040 + e) 0x14)
    (hlen : b.length = 56) (h5 : rsv b 5 3 = true) (h28 : rsv b 28 4 = true) (h44 : rsv b 44 4 = true) (hv : at8 b 4 1 < 16)
    (hholds : s.holds e 7 (at8 b 4 1) = true) (hf : at8 b 0 2 < (s.group (at8 b 4 1)).1) (hne : at8 b 0 2 ≠ (s.group (at8 b 4 1)).2)
    (hmapped : s.mapped e (at8 b 8 8) (at8 b 16 8) = true) (htable : s.spreadTable e b ≠ none)
    (hload : (s.rebindChannel e (at8 b 4 1) (at8 b 2 2) (at8 b 0 2)).loadAt e (at8 b 8 8) (at8 b 16 8) verified = .inr cv) :
    ∃ q, s.beginSpread e verified = ((s.rebindChannel e (at8 b 4 1) (at8 b 2 2) (at8 b 0 2)).spreadOut e cv).fetchFar e
      { newRestore 2 1 0 (at8 b 24 4) (at8 b 4 1) (at8 b 32 8) 0 with elements := q } 0 128 := by
  refine ⟨(((s.rebindChannel e (at8 b 4 1) (at8 b 2 2) (at8 b 0 2)).spreadOut e cv).spreadTable e b).getD [], ?_⟩
  unfold State.beginSpread
  dsimp only
  rw [← hb]
  have hsome : (s.spreadTable e b).isNone = false := by
    rw [Option.isNone_eq_false_iff, Option.isSome_iff_ne_none]
    exact htable
  rw [if_neg (by simp [hlen, h5, h28, h44, Nat.not_le.mpr hv, hholds, Nat.not_le.mpr hf, hne, hmapped, hsome]), hload]
  generalize s.rebindChannel e (at8 b 4 1) (at8 b 2 2) (at8 b 0 2) = t
  rfl

/-! ### A configuration image is judged by the values in force -/

theorem State.valueOk_of_values {t : State} (h : t.dict.values = s.dict.values) (index sub : Nat) (x : Entry) (d : List Byte) :
    t.valueOk index sub x d = s.valueOk index sub x d := by
  have hcadences (v : Nat) : t.cadencesOk index sub v = s.cadencesOk index sub v := by
    simp only [State.cadencesOk, policy_of_values h]
  have hrange (v : Nat) : t.extraRange index sub v = s.extraRange index sub v := by
    simp only [State.extraRange, policy_of_values h, hcadences]
  simp only [State.valueOk, hrange]

theorem State.recordAllowed_of_values {t : State} (h : t.dict.values = s.dict.values) (r : Nat × Nat × Nat × List Byte) :
    t.recordAllowed r = s.recordAllowed r := by
  unfold State.recordAllowed
  generalize entry r.1 r.2.1 = found
  match found with
  | none => rfl
  | some x => dsimp only; rw [State.valueOk_of_values h]

/-- A record of an image taken into a trial state. -/
def State.tryRecord (s : State) (r : Nat × Nat × Nat × List Byte) : Option State :=
  if s.recordAllowed r then some (s.commitValue r.1 r.2.1 false r.2.2.2) else none

/-- Two trials that hold the same values, or both are over. -/
inductive SameTrial : Option State → Option State → Prop
  | ended : SameTrial none none
  | going {s t : State} (h : s.dict.values = t.dict.values) : SameTrial (some s) (some t)

theorem State.commitValue_values (s : State) (i b : Nat) (d : List Byte) :
    (s.commitValue i b false d).dict.values = tset s.dict.values (i * 256 + b) d := rfl

theorem SameTrial.tryRecord {x y : Option State} (h : SameTrial x y) (r : Nat × Nat × Nat × List Byte) :
    SameTrial (x.bind fun s => s.tryRecord r) (y.bind fun s => s.tryRecord r) := by
  cases h with
  | ended => exact .ended
  | going h =>
    simp only [Option.bind_some, State.tryRecord, State.recordAllowed_of_values h]
    split
    · exact .going (by rw [State.commitValue_values, State.commitValue_values, h])
    · exact .ended

theorem SameTrial.foldl {x y : Option State} (h : SameTrial x y) (l : List (Nat × Nat × Nat × List Byte)) :
    SameTrial (l.foldl (fun a r => a.bind fun s => s.tryRecord r) x) (l.foldl (fun a r => a.bind fun s => s.tryRecord r) y) := by
  induction l generalizing x y with
  | nil => exact h
  | cons r l ih => exact ih (h.tryRecord r)

theorem State.checkConfig_of_trust {t : State} (htrust : t.trust = s.trust) (b : List Byte) (verified : Bool) :
    t.checkConfig b verified = s.checkConfig b verified := by
  have hkey (k : Nat) : t.keyUsable k = s.keyUsable k := by rw [State.keyUsable, htrust, State.keyUsable]
  unfold State.checkConfig
  dsimp only
  rw [hkey]
  refine if_congr Iff.rfl ?_ rfl
  generalize cfgRecords b.length (b.drop 4224) = records
  match records with
  | none => rfl
  | some l =>
    have hl := SameTrial.foldl (x := some { t with dict := { t.dict with values := [] } })
      (y := some { s with dict := { s.dict with values := [] } }) (.going rfl) l
    simp only [State.tryRecord] at hl
    dsimp only
    generalize List.foldl _ (some { t with dict := { t.dict with values := [] } }) l = x at hl ⊢
    generalize List.foldl _ (some { s with dict := { s.dict with values := [] } }) l = y at hl ⊢
    cases hl <;> rfl

/-! ### Firmware, configuration and keys -/

theorem exec_fwCommit {verified : Bool} (hw : writes m 0x1800 9 = true) : exec (.fwCommit m verified) s =
    .next (s.atCurator (.fwCommit m verified) m fun s => s.command m
      (fun s v => if v < 2 && s.firmwareOk (written s.dict 0x1800 8) verified then 0 else 0x07) (fun s _ => s) fun s v =>
        let b := written s.dict 0x1800 8
        let img : FwImage := { secVersion := at8 b 8 4, digest := (b.drop 32).take 32 }
        let slot := 1 - s.trust.runningSlot
        let t := if slot = 0 then { s.trust with fwA := some img } else { s.trust with fwB := some img }
        let s := { s with trust := { t with preferred := slot } }
        if v = 1 then s.stopCurator else s) := by
  have harm : exec (.fwCommit m verified) s = execFwCommit m verified s := rfl
  rw [harm, execFwCommit]
  exact if_pos hw

theorem exec_fwConfirm (hw : writes m 0x1800 0x0A = true) : exec (.fwConfirm m) s =
    .next (s.atCurator (.fwConfirm m) m fun s => s.command m (fun _ _ => 0) (fun s _ => s) fun s _ =>
      match s.trust.image s.trust.runningSlot with
      | some i => { s with trust := { s.trust with minSec := max s.trust.minSec i.secVersion } }
      | none => s) := by
  have harm : exec (.fwConfirm m) s = execFwConfirm m s := rfl
  rw [harm, execFwConfirm]
  exact if_pos hw

theorem exec_configCommit {verified : Bool} (hw : writes m 0x1800 0x0D = true) : exec (.configCommit m verified) s =
    .next (s.atCurator (.configCommit m verified) m fun s => s.command m
      (fun s _ => if (s.checkConfig (written s.dict 0x1800 0x0C) verified).isSome then 0 else 0x07)
      (fun s st => if st = 0x07 then s.authFailDevice s.trust.commitCopy 3 else s)
      fun s _ =>
        match s.checkConfig (written s.dict 0x1800 0x0C) verified with
        | some i =>
          let t := if s.trust.commitCopy = 0 then { s.trust with cfgA := some i } else { s.trust with cfgB := some i }
          { s with trust := t }
        | none => s) := by
  have harm : exec (.configCommit m verified) s = execConfigCommit m verified s := rfl
  rw [harm, execConfigCommit]
  exact if_pos hw

theorem exec_keyEnrol {verified : Bool} (hw : writes m 0x1800 4 = true) (hbit : (mValue m).testBit 8 = false) :
    exec (.keyEnrol m verified) s = .next (s.atCurator (.keyEnrol m verified) m fun s => s.command m (fun s v => s.enrolCheck verified v)
      (fun s st => if st = 0x07 then (s.nextNonce).authFailDevice (mValue m % 16) 5 else s)
      fun s v =>
        let key := keyOf (written s.dict 0x1800 3) 0
        ((s.setKeySlot v (1, shake256 key, key)).nextNonce).keyEnrolled v 0) := by
  have harm : exec (.keyEnrol m verified) s = execKeyEnrol m verified s := rfl
  rw [harm, execKeyEnrol]
  exact if_pos (by rw [hw, hbit]; rfl)

theorem exec_keyRevoke (hw : writes m 0x1800 4 = true) (hbit : (mValue m).testBit 8 = true) : exec (.keyRevoke m) s =
    .next (s.atCurator (.keyRevoke m) m fun s => s.command m State.revokeCheck (fun s _ => s) fun s v =>
      (s.setKeySlot (v % 16) (2, (s.keySlot (v % 16)).2.1, (s.keySlot (v % 16)).2.2)).keyEnrolled (v % 16) 1) := by
  have harm : exec (.keyRevoke m) s = execKeyRevoke m s := rfl
  rw [harm, execKeyRevoke]
  exact if_pos (by rw [hw, hbit]; rfl)

theorem answered_trust (s : State) (m : Msg) (st : Nat) : (answered s m st).trust = s.trust := by rw [(answered_frame s m st).1]
theorem answered_keySlot (s : State) (m : Msg) (st k : Nat) : (answered s m st).keySlot k = s.keySlot k := by
  rw [State.keySlot, answered_trust, State.keySlot]

theorem State.setKeySlot_self (s : State) (k : Nat) (x : Nat × List Byte × List Byte) : (s.setKeySlot k x).keySlot k = x :=
  tget_tset_self _ _ _ _
theorem State.setKeySlot_ne (s : State) {j k : Nat} (x : Nat × List Byte × List Byte) (h : j ≠ k) :
    (s.setKeySlot k x).keySlot j = s.keySlot j := tget_tset_ne _ _ _ _ _ h

theorem State.keyEnrolled_trust (s : State) (k what : Nat) : (s.keyEnrolled k what).trust = s.trust := by
  rw [State.keyEnrolled, (s.reportDevice_records _ _ _ _ _).1]

theorem State.authFailDevice_trust (s : State) (a cause : Nat) :
    (s.authFailDevice a cause).trust = { s.trust with authFailures := s.trust.authFailures + 1 } := by
  rw [State.authFailDevice, (State.reportDevice_records _ _ _ _ _ _).1]

theorem State.keyEnrolled_keySlot (s : State) (k what j : Nat) : (s.keyEnrolled k what).keySlot j = s.keySlot j := by
  rw [State.keySlot, State.keyEnrolled_trust, State.keySlot]

/-! ### FABRIC_POSITION_WRITE (R338) -/

theorem exec_fabricPositionWrite (hw : writes m 0x6100 1 = true) : exec (.fabricPositionWrite m) s =
    .next (s.atCurator (.fabricPositionWrite m) m fun s =>
      match s.serve m (fun s role => s.writeEntry m role) with
      | (s, some 0) => s.adoptPosition (leNat (mData m))
      | (s, _) => s) := by
  have harm : exec (.fabricPositionWrite m) s = execFabricPositionWrite m s := rfl
  rw [harm, execFabricPositionWrite]
  exact if_pos hw

theorem State.writeCheck_size {x : Entry} (h : s.writeCheck m x (some []) = 0) : sizeOk x (mData m).length = true := by
  by_contra hno
  rw [Bool.not_eq_true] at hno
  unfold State.writeCheck at h
  by_cases hro : x.access = 1 <;> simp [hno, hro] at h

theorem positionLength_of_writeOk (h : WriteOk s m) (hi : mIndex m = 0x6100) (hb : mSub m = 1) : (mData m).length = 4 := by
  obtain ⟨role, x, -, -, hx, -, -, -, -, -, -, hcheck⟩ := h
  rw [hi, hb] at hx
  have hx' : x = (entry 0x6100 1).get (by decide) := by simp [hx]
  have hsize := State.writeCheck_size hcheck
  have hty : x.ty = 4 := by rw [hx']; decide
  have hfour : x.size = 4 := by rw [hx']; decide
  simpa [sizeOk, hty, hfour] using hsize

end

/-! ### The actions of Table 14-8 -/

section
variable {s : State} {m : Msg} {e sub : Nat} {c : Instr} {go : State → Nat → State} {b : List Byte} (hacc : Accepted s m) (hop : mOp m = 2)
  (hi : mIndex m = 0x9040 + e) (he : e < 64) (hr : (s.easel e).restore = none) (hup : s.vbusUp = true) (hmode : (s.easel e).mode = .bound)
  (hcmds : (s.easel e).cmds = []) (hcv : (s.easel e).canvas.isSome = true)
include hacc hop hi he hr hup hmode hcmds hcv

/-- An accepted write of Table 14-8 for an easel at rest: the action begins. -/
theorem exec_resilience (hsub : mSub m = sub) (harm : exec c s = .next (s.resilienceCommand c m sub go)) :
    exec c s = .next (go (answered s m 0) e) := by
  refine exec_command_ok (check := fun s _ => s.restorable e) (fail := fun s _ => s) (go := fun s _ => go s e) hacc ?_ ?_
  · exact State.restorable_ok (s := s.countMgmt 0) hr hup hmode hcv hcmds
  · rw [harm, State.resilienceCommand_eq hop hi he hsub]

theorem restoreBegins (hsub : mSub m = 0x11) (hb : b = written s.dict (0x9040 + e) 0x10) (hlen : b.length = 24) (hrsv : rsv b 2 2 = true)
    (hstep : at8 b 8 8 < 2 ^ 48) (hlayer : at8 b 0 1 = 1 ∨ at8 b 0 1 = 3) (hport : s.ownPort ((s.drainChannel e).getD 16) ≠ none) :
    Completes (.restoreExecute m) s fun s' => MemoryKept s s' ∧ s'.tiles = s.tiles ∧ ∃ r, (s'.easel e).restore = some r ∧ r.kind = 0 ∧
      r.layer = at8 b 0 1 ∧ r.step = at8 b 8 8 ∧ r.position = at8 b 4 4 ∧ r.base = at8 b 16 8 ∧ r.phase = 0 ∧ r.want = 128 := by
  have hmasks : (answered s m 0).fabric.masks = s.fabric.masks := by rw [(answered_frame s m 0).1]
  refine ⟨_, exec_resilience (c := .restoreExecute m) (go := fun s e => s.beginRestore e) hacc hop hi he hr hup hmode hcmds hcv hsub rfl, ?_⟩
  dsimp only
  rw [State.beginRestore_fetches (by rw [written_of_values (answered_frame s m 0).2]; exact hb) hlen hrsv hstep hlayer, answered_drainChannel]
  obtain ⟨heasel, htiles, -, hmem⟩ := State.fetchFar_leaves (e := e) (n := 128)
    (r := newRestore 0 (at8 b 0 1) (at8 b 1 1) (at8 b 4 4) ((s.drainChannel e).getD 16) (at8 b 16 8) (at8 b 8 8))
    (State.ownPort_of_masks (t := answered s m 0) hmasks hport)
  refine ⟨memoryKept_trans (answered_memoryKept s m 0) hmem, htiles.trans (answered_tiles s m 0), _, by rw [heasel], ?_⟩
  exact ⟨rfl, rfl, rfl, rfl, rfl, rfl, rfl⟩

omit hcv in
theorem takeoverBegins {cv : Canvas} (hsub : mSub m = 0x13) (hcv : (s.easel e).canvas = some cv) (hb : b = written s.dict (0x9040 + e) 0x12)
    (hlen : b.length = 32) (hrsv : rsv b 7 1 = true) (hrsv' : rsv b 20 4 = true) (hpos : at8 b 0 4 < 2 ^ 20 - 1) (hid : cv.id = at8 b 8 8)
    (hv : at8 b 6 1 < 16) (hholds : s.holds e 7 (at8 b 6 1) = true) (hrank : at8 b 4 2 < (s.group (at8 b 6 1)).1)
    (hreds : ((answered s m 0).commitValue (0x6110 + at8 b 6 1) 2 false (leBytes 2 (at8 b 4 2))).reductionsOk e = true)
    (hport : s.ownPort (at8 b 6 1) ≠ none) :
    Completes (.takeoverExecute m) s fun s' => s'.position = at8 b 0 4 ∧ policy s' (0x6110 + at8 b 6 1) 2 = at8 b 4 2 ∧ s'.tiles = s.tiles ∧
      ∃ r, (s'.easel e).restore = some r ∧ r.kind = 1 ∧ r.layer = 1 ∧ r.position = at8 b 16 4 ∧ r.base = at8 b 24 8 := by
  have hvalues := (answered_frame s m 0).2
  have hmasks : (answered s m 0).fabric.masks = s.fabric.masks := by rw [(answered_frame s m 0).1]
  have hgroup : (answered s m 0).group (at8 b 6 1) = s.group (at8 b 6 1) := by rw [State.group, policy_of_values hvalues, policy_of_values hvalues, State.group]
  refine ⟨_, exec_resilience (c := .takeoverExecute m) (go := fun s e => s.beginTakeover e) hacc hop hi he hr hup hmode hcmds
    (by rw [hcv]; rfl) hsub rfl, ?_⟩
  dsimp only
  rw [State.beginTakeover_fetches (by rw [written_of_values hvalues]; exact hb) hlen hrsv hrsv' hpos (by rw [answered_easel]; exact hcv) hid hv
    (by rw [State.holds, State.ownerOf, State.live, answered_bind]; exact hholds) (by rw [hgroup]; exact hrank) hreds]
  obtain ⟨hposition, hpolicy, htiles, hmasks'⟩ := (answered s m 0).takenOver_leaves e (at8 b 6 1) (at8 b 4 2) (at8 b 0 4) (at8_lt _ _ _) (at8_lt _ _ _) hv
  obtain ⟨heasel, htiles', hdict, -⟩ := State.fetchFar_leaves (e := e) (n := 128) (r := newRestore 1 1 0 (at8 b 16 4) (at8 b 6 1) (at8 b 24 8) 0)
    (State.ownPort_of_masks (hmasks'.trans hmasks) hport)
  refine ⟨?_, ?_, (htiles'.trans htiles).trans (answered_tiles s m 0), _, by rw [heasel], rfl, rfl, rfl, rfl⟩
  · exact (policy_of_values (congrArg Dict.values hdict) _ _).trans hposition
  · exact (policy_of_values (congrArg Dict.values hdict) _ _).trans hpolicy

theorem spreadBegins {cv : Canvas} {verified : Bool} (hsub : mSub m = 0x15) (hb : b = written s.dict (0x9040 + e) 0x14) (hlen : b.length = 56)
    (h5 : rsv b 5 3 = true) (h28 : rsv b 28 4 = true) (h44 : rsv b 44 4 = true) (hv : at8 b 4 1 < 16)
    (hholds : s.holds e 7 (at8 b 4 1) = true) (hf : at8 b 0 2 < (s.group (at8 b 4 1)).1) (hne : at8 b 0 2 ≠ (s.group (at8 b 4 1)).2)
    (hmapped : s.mapped e (at8 b 8 8) (at8 b 16 8) = true) (htable : s.spreadTable e b ≠ none)
    (hload : ((answered s m 0).rebindChannel e (at8 b 4 1) (at8 b 2 2) (at8 b 0 2)).loadAt e (at8 b 8 8) (at8 b 16 8) verified = .inr cv)
    (hport : s.ownPort (at8 b 4 1) ≠ none) :
    Completes (.spreadExecute m verified) s fun s' => policy s' (0x6110 + at8 b 4 1) 3 = at8 b 2 2 ∧ policy s' (0x6110 + at8 b 4 1) 9 = at8 b 0 2 ∧
      (∃ c', (s'.easel e).canvas = some c' ∧ c'.id = cv.id) ∧ (s'.easel e).mode = .bound ∧
      ∃ r, (s'.easel e).restore = some r ∧ r.kind = 2 ∧ r.position = at8 b 24 4 ∧ r.base = at8 b 32 8 := by
  obtain ⟨hframe, hvalues⟩ := answered_frame s m 0
  have hmasks : (answered s m 0).fabric.masks = s.fabric.masks := by rw [hframe]
  have hgroup : (answered s m 0).group (at8 b 4 1) = s.group (at8 b 4 1) := by rw [State.group, policy_of_values hvalues, policy_of_values hvalues, State.group]
  have hmapped' : (answered s m 0).mapped e (at8 b 8 8) (at8 b 16 8) = true := by rw [hframe]; exact hmapped
  have htable' : (answered s m 0).spreadTable e b ≠ none := by rw [hframe]; exact htable
  refine ⟨_, exec_resilience (c := .spreadExecute m verified) (go := fun s e => s.beginSpread e verified) hacc hop hi he hr hup hmode hcmds hcv hsub rfl, ?_⟩
  dsimp only
  obtain ⟨q, hq⟩ := State.beginSpread_fetches (by rw [written_of_values hvalues]; exact hb) hlen h5 h28 h44 hv
    (by rw [State.holds, State.ownerOf, State.live, answered_bind]; exact hholds) (by rw [hgroup]; exact hf) (by rw [hgroup]; exact hne) hmapped' htable' hload
  rw [hq]
  obtain ⟨hepoch, hrank, hmode', hmasks'⟩ := State.rebindChannel_leaves (s := answered s m 0) (e := e) (v := at8 b 4 1) (epoch := at8 b 2 2) (f := at8 b 0 2)
    (at8_lt _ _ _) (at8_lt _ _ _)
  generalize (answered s m 0).rebindChannel e (at8 b 4 1) (at8 b 2 2) (at8 b 0 2) = t at hepoch hrank hmode' hmasks' ⊢
  obtain ⟨hcanvas, hmode'', hvalues', hmasks''⟩ := t.spreadOut_leaves e cv
  obtain ⟨heasel, -, hdict, -⟩ := State.fetchFar_leaves (e := e) (n := 128)
    (r := { newRestore 2 1 0 (at8 b 24 4) (at8 b 4 1) (at8 b 32 8) 0 with elements := q })
    (State.ownPort_of_masks ((hmasks''.trans hmasks').trans hmasks) hport)
  have hpolicy (i j : Nat) := policy_of_values ((congrArg Dict.values hdict).trans hvalues') i j
  refine ⟨(hpolicy _ _).trans hepoch, (hpolicy _ _).trans hrank, by rw [heasel]; exact hcanvas, ?_, _, by rw [heasel], rfl, rfl, rfl⟩
  rw [heasel]
  exact ((hmode''.trans hmode').trans (by rw [answered_easel])).trans hmode

end

/-! ### Firmware, configuration and keys -/

section
variable {s : State} {m : Msg} {verified : Bool} (hacc : Accepted s m)
include hacc

theorem firmwareCommits (hw : writes m 0x1800 9 = true) (hv : mValue m = 0) (hok : s.firmwareOk (written s.dict 0x1800 8) verified = true) :
    Completes (.fwCommit m verified) s fun s' => s' = { answered s m 0 with trust := s'.trust } ∧ s'.trust.preferred = 1 - s.trust.runningSlot ∧
      s'.trust.image (1 - s.trust.runningSlot) = some ⟨at8 (written s.dict 0x1800 8) 8 4, ((written s.dict 0x1800 8).drop 32).take 32⟩ ∧
      s'.trust.runningSlot = s.trust.runningSlot ∧ s'.trust.keySlots = s.trust.keySlots ∧ s'.trust.minSec = s.trust.minSec := by
  have hc : (if mValue m < 2 && (s.countMgmt 0).firmwareOk (written (s.countMgmt 0).dict 0x1800 8) verified then 0 else 0x07) = 0 := by
    have hok' : (s.countMgmt 0).firmwareOk (written (s.countMgmt 0).dict 0x1800 8) verified = true := hok
    rw [hv, hok']
    rfl
  refine ⟨_, exec_command_ok hacc hc (exec_fwCommit hw), ?_⟩
  dsimp only
  rw [if_neg (by rw [hv]; decide), written_of_values (answered_frame s m 0).2, answered_trust]
  refine ⟨rfl, rfl, ?_, ?_⟩
  · unfold Trust.image
    dsimp only
    by_cases hzero : 1 - s.trust.runningSlot = 0
    · rw [if_pos hzero, if_pos hzero]
    · rw [if_neg hzero, if_neg hzero]
  · split <;> exact ⟨rfl, rfl, rfl⟩

theorem firmwareConfirms {i : FwImage} (hw : writes m 0x1800 0x0A = true) (hi : s.trust.image s.trust.runningSlot = some i) :
    Completes (.fwConfirm m) s fun s' => s' = { answered s m 0 with trust := { s.trust with minSec := max s.trust.minSec i.secVersion } } := by
  refine ⟨_, exec_command_ok hacc rfl (exec_fwConfirm hw), ?_⟩
  rw [answered_trust, hi]

theorem configurationCommits {i : CfgImage} (hw : writes m 0x1800 0x0D = true) (hi : s.checkConfig (written s.dict 0x1800 0x0C) verified = some i) :
    Completes (.configCommit m verified) s fun s' => s' = { answered s m 0 with trust := s'.trust } ∧
      (s.trust.commitCopy = 0 → s'.trust = { s.trust with cfgA := some i }) ∧
      (s.trust.commitCopy ≠ 0 → s'.trust = { s.trust with cfgB := some i }) := by
  have hc : (if ((s.countMgmt 0).checkConfig (written (s.countMgmt 0).dict 0x1800 0x0C) verified).isSome then 0 else 0x07) = 0 := by
    have hcounted : (s.countMgmt 0).checkConfig (written (s.countMgmt 0).dict 0x1800 0x0C) verified = some i :=
      (State.checkConfig_of_trust (s := s) (t := s.countMgmt 0) rfl _ _).trans hi
    rw [hcounted]
    rfl
  refine ⟨_, exec_command_ok hacc hc (exec_configCommit hw), ?_⟩
  rw [written_of_values (answered_frame s m 0).2, State.checkConfig_of_trust (answered_trust s m 0), hi, answered_trust]
  exact ⟨rfl, fun h => if_pos h, fun h => if_neg h⟩

theorem keyEnrols (hw : writes m 0x1800 4 = true) (hbit : (mValue m).testBit 8 = false) (hok : s.enrolCheck verified (mValue m) = 0) :
    Completes (.keyEnrol m verified) s fun s' => (s'.keySlot (mValue m)).1 = 1 ∧ (s'.keySlot (mValue m)).2.2 = keyOf (written s.dict 0x1800 3) 0 ∧
      s'.trust.nonceCount = s.trust.nonceCount + 1 ∧ ∀ w, w ≠ mValue m → s'.keySlot w = s.keySlot w := by
  refine ⟨_, exec_command_ok hacc hok (exec_keyEnrol hw hbit), ?_⟩
  dsimp only
  rw [written_of_values (answered_frame s m 0).2]
  simp only [State.keyEnrolled_keySlot, State.keyEnrolled_trust]
  have hnonce (t : State) (k : Nat) : t.nextNonce.keySlot k = t.keySlot k := rfl
  refine ⟨?_, ?_, congrArg (·.nonceCount + 1) (answered_trust s m 0), fun w hne => ?_⟩
  · rw [hnonce, State.setKeySlot_self]
  · rw [hnonce, State.setKeySlot_self]
  · rw [hnonce, State.setKeySlot_ne _ _ hne, answered_keySlot]

theorem keyEnrolFails (hw : writes m 0x1800 4 = true) (hbit : (mValue m).testBit 8 = false) (hno : s.enrolCheck verified (mValue m) = 0x07) :
    Completes (.keyEnrol m verified) s fun s' => s'.trust.keySlots = s.trust.keySlots ∧ s'.trust.nonceCount = s.trust.nonceCount + 1 ∧
      s'.trust.authFailures = s.trust.authFailures + 1 := by
  refine ⟨_, exec_command_fails hacc hno (by decide) (exec_keyEnrol hw hbit), ?_⟩
  have hnonce : (answered s m 7).nextNonce.trust = { s.trust with nonceCount := s.trust.nonceCount + 1 } := by
    rw [State.nextNonce, answered_trust]
  dsimp only
  rw [if_pos rfl, State.authFailDevice_trust, hnonce]
  exact ⟨rfl, rfl, rfl⟩

theorem keyRevokes (hw : writes m 0x1800 4 = true) (hbit : (mValue m).testBit 8 = true) (hok : s.revokeCheck (mValue m) = 0) :
    Completes (.keyRevoke m) s fun s' => s'.keySlot (mValue m % 16) = (2, (s.keySlot (mValue m % 16)).2) ∧
      ∀ w, w ≠ mValue m % 16 → s'.keySlot w = s.keySlot w := by
  refine ⟨_, exec_command_ok hacc hok (exec_keyRevoke hw hbit), ?_⟩
  simp only [State.keyEnrolled_keySlot, answered_keySlot]
  exact ⟨State.setKeySlot_self _ _ _, fun w hne => (State.setKeySlot_ne _ _ hne).trans (answered_keySlot s m 0 w)⟩

end

/-! ### The position -/

theorem positionWritten (s : State) (m : Msg) (h : WriteOk s m) (hi : mIndex m = 0x6100) (hb : mSub m = 1) :
    Completes (.fabricPositionWrite m) s fun s' =>
      written s'.dict 0x6100 1 = mData m ∧ s'.easels = s.easels ∧ s'.tiles = s.tiles ∧ MemoryKept s s' ∧ (answered s m 0).out <+: s'.out := by
  have hlen := positionLength_of_writeOk h hi hb
  have hop : mOp m = 2 := by
    obtain ⟨_, _, _, hop, -⟩ := h
    exact hop
  obtain ⟨role, hserved, hwrite⟩ := State.writeEntry_commits h
  obtain ⟨hturn, hlater, hwaiting⟩ := id hserved.1
  have hexec := exec_fabricPositionWrite (s := s) (m := m) (by simp [writes, hop, hi, hb])
  rw [State.atCurator_direct _ hturn hlater hwaiting, serve_of_served hserved, hwrite] at hexec
  refine ⟨_, hexec, ?_⟩
  dsimp only [plainReply]
  generalize ht : (s.countMgmt 0).commitValue (mIndex m) (mSub m) false (mData m) = t
  have hout : (t.answer m (plainReply 0)).out = (answered s m 0).out := by
    rw [(t.answer_leaves m (plainReply 0)).1, ← ht]
    exact ((s.countMgmt 0).answer_leaves m (plainReply 0)).1.symm
  obtain ⟨hframe, -⟩ := t.answer_frame m (plainReply 0)
  have hports := (t.answer m (plainReply 0)).adoptPosition_ports (leNat (mData m))
  have hback : leBytes 4 (leNat (mData m)) = mData m := hlen ▸ leBytes_leNat (mData m)
  refine ⟨?_, ?_, ?_, ?_, ?_⟩
  · exact ((congrArg (written · 0x6100 1) hports.dict).trans (State.commitValue_written _ _ _ _).1).trans hback
  · refine hports.easels.trans ?_
    rw [hframe, ← ht]
    rfl
  · refine hports.tiles.trans ?_
    rw [hframe, ← ht]
    rfl
  · refine memoryKept_trans ?_ hports.memoryKept
    rw [hframe, ← ht]
    exact ⟨fun _ _ => rfl, rfl⟩
  · rw [← hout]
    exact hports.out

/-- Settles O51: each action of Table 14-8, of the security block, and the position. -/
theorem actionsOfTrust : Obligations.ActionsOfTrust := by
  unfold Obligations.ActionsOfTrust
  refine ⟨fun s a m e b hacc ha hop hi he hr hup hmode hcmds => ⟨?_, ?_, ?_⟩, fun s a m verified hacc ha => ⟨?_, ?_, ?_, ?_, ?_⟩, positionWritten⟩
  · rintro n hsub hcv hb hlen hrsv hstep rfl hlayer hport
    exact restoreBegins hacc hop hi he hr hup hmode hcmds hcv hsub hb hlen hrsv hstep hlayer hport
  · rintro v cv hsub hcv hb hlen hrsv hrsv' hpos hid rfl hv hholds hrank hreds hport
    subst ha
    exact takeoverBegins hacc hop hi he hr hup hmode hcmds hsub hcv hb hlen hrsv hrsv' hpos hid hv hholds hrank hreds hport
  · rintro v cv verified hsub hcv hb hlen h5 h28 h44 rfl hv hholds hf hne hmapped htable hload hport
    subst ha
    exact spreadBegins hacc hop hi he hr hup hmode hcmds hcv hsub hb hlen h5 h28 h44 hv hholds hf hne hmapped htable hload hport
  · subst ha
    exact firmwareCommits hacc
  · subst ha
    exact fun _ => firmwareConfirms hacc
  · subst ha
    exact fun _ => configurationCommits hacc
  · rintro v hw rfl hbit
    exact ⟨keyEnrols hacc hw hbit, keyEnrolFails hacc hw hbit⟩
  · rintro v hw rfl hbit
    exact keyRevokes hacc hw hbit

end Sys2Proof.Machine
end

section
/-! PROOFS. Flits taken, sent again, and ports that train again or go down (R328 to R332, R335 to R337). -/

namespace Sys2Proof.Machine

section
variable {s t u : State} {p q : Nat} {x y z : Port}

/-! ### What flits change -/

/-- What the device does at its ports: the fabric, what is sent, and the free choices of a source. -/
structure Wired (s s' : State) : Prop where
  rest : s' = { s with fabric := s'.fabric, out := s'.out, choices := s'.choices }
  out : s.out <+: s'.out

theorem Wired.refl (s : State) : Wired s s := ⟨rfl, List.prefix_rfl⟩

theorem Wired.trans (h : Wired s t) (k : Wired t u) : Wired s u := by
  refine ⟨?_, h.out.trans k.out⟩
  rw [k.rest]
  conv_lhs => rw [h.rest]

theorem PortsOnly.wired (h : PortsOnly s t) : Wired s t := by
  refine ⟨?_, h.out⟩
  conv_lhs => rw [h.rest]
  conv_rhs => rw [h.rest]

section
variable (h : Wired s t)
include h
theorem Wired.easels : t.easels = s.easels := by rw [h.rest]
theorem Wired.easel (e : Nat) : t.easel e = s.easel e := by rw [State.easel, h.easels, State.easel]
theorem Wired.dict : t.dict = s.dict := by rw [h.rest]
theorem Wired.bind : t.bind = s.bind := by rw [h.rest]
theorem Wired.tiles : t.tiles = s.tiles := by rw [h.rest]
theorem Wired.sems : t.sems = s.sems := by rw [h.rest]
theorem Wired.memoryKept : MemoryKept s t := by
  rw [h.rest]
  exact ⟨fun _ _ => rfl, rfl⟩
end

/-- A flit heard: the codewords counted, and credit that waited for a key returned. -/
def Port.Hears (x y : Port) : Prop :=
  y = { x with owed := y.owed, codeword := y.codeword, stream := y.stream, symbols := y.symbols, stats := y.stats }

theorem State.setPort_wired (s : State) (p : Nat) (x : Port) : Wired s (s.setPort p x) := ⟨rfl, List.prefix_rfl⟩
theorem State.onPort_wired (s : State) (p : Nat) (g : Port → Port) : Wired s (s.onPort p g) := s.setPort_wired p _

theorem State.onPort_port_ne (s : State) {p q : Nat} (g : Port → Port) (h : q ≠ p) : (s.onPort p g).port q = s.port q :=
  State.setPort_port_ne _ _ _ _ h

theorem Port.Controls.hears (h : x.Controls y) : x.Hears y := by
  unfold Port.Controls at h
  unfold Port.Hears
  conv_lhs => rw [h]
  conv_rhs => rw [h]

/-- The state in which a flit is judged. -/
def State.hear (s : State) (p : Nat) (fec : List MemErr) : State := s.settleCredit.countFec p fec

theorem State.hear_wired (s : State) (p : Nat) (fec : List MemErr) : Wired s (s.hear p fec) := by
  have hcount (s : State) (p i n : Nat) : Wired s (s.countPort p i n) := s.onPort_wired p _
  exact (s.settleCredit_controlled.ports.wired.trans (hcount _ _ _ _)).trans (hcount _ _ _ _)

theorem State.hear_port (s : State) (p : Nat) (fec : List MemErr) : (s.port p).Hears ((s.hear p fec).port p) := by
  have h := (s.settleCredit_controlled.port p).hears
  unfold State.hear State.countFec State.countPort
  rw [State.onPort_port_self, State.onPort_port_self]
  unfold Port.Hears at h ⊢
  conv_lhs => rw [h]

theorem State.hear_received (s : State) (p : Nat) (fec : List MemErr) : (s.hear p fec).fabric.received = s.fabric.received :=
  s.settleCredit_controlled.ports.received

theorem State.hear_choices (s : State) (p : Nat) (fec : List MemErr) : (s.hear p fec).choices = s.choices := by
  have h : (s.hear p fec).choices = s.settleCredit.choices := rfl
  rw [h, s.settleCredit_controlled.rest]

section
variable (h : x.Hears y)
include h
theorem Port.Hears.rxSeq : y.rxSeq = x.rxSeq := by rw [h]
theorem Port.Hears.nakSent : y.nakSent = x.nakSent := by rw [h]
theorem Port.Hears.naks : y.naks = x.naks := by rw [h]
theorem Port.Hears.replay : y.replay = x.replay := by rw [h]
theorem Port.Hears.credits : y.credits = x.credits := by rw [h]
theorem Port.Hears.waiting : y.waiting = x.waiting := by rw [h]
theorem Port.Hears.progress (flit : List Byte) : y.progress flit = x.progress flit := by rw [Port.progress, h.replay, Port.progress]

theorem Port.Hears.takeHeader_replay (flit : List Byte) : (y.takeHeader flit).replay = (x.takeHeader flit).replay := by
  unfold Port.takeHeader
  dsimp only
  rw [h.replay]
  split <;> rfl
end

theorem Port.takeHeader_keeps (x : Port) (flit : List Byte) : (x.takeHeader flit).waiting = x.waiting ∧
    (x.takeHeader flit).credits = tset x.credits (at8 flit 6 1) (tget 0 x.credits (at8 flit 6 1) + at8 flit 7 1) := by
  unfold Port.takeHeader
  dsimp only
  split <;> exact ⟨rfl, rfl⟩

/-! ### Flits without data -/

theorem State.sendControl_out (s : State) (p kind : Nat) : (s.sendControl p kind).out = s.out ++ [.flit p ((s.port p).control kind).2] := rfl

theorem flitKind_control (x : Port) {kind : Nat} (h : kind < 8) : flitKind (x.control kind).2 = kind := by
  have hfirst (seq ack c n : Nat) : at8 (flitBytes 0 kind 0xF seq ack c n []) 0 1 = (0 + kind * 32) % 256 := by
    simp [at8, flitBytes, leBytes, leNat]
  unfold Port.control flitKind
  dsimp only
  rw [hfirst]
  omega

/-! ### The replay buffer sent again -/

theorem sendFlits_out (p : Nat) (l : List (Nat × List Byte × Option Packet)) (s : State) :
    (l.foldl (fun s f => s.sendFlit p f.2.1) s).out = s.out ++ l.map fun f => .flit p f.2.1 := by
  induction l generalizing s with
  | nil => rw [List.foldl_nil, List.map_nil, List.append_nil]
  | cons f l ih =>
    have hsent : (s.sendFlit p f.2.1).out = s.out ++ [.flit p f.2.1] := rfl
    rw [List.foldl_cons, ih, hsent, List.map_cons, List.append_assoc, List.singleton_append]

theorem sendFlits_controlled (p : Nat) (l : List (Nat × List Byte × Option Packet)) (s : State) :
    Controlled s (l.foldl (fun s f => s.sendFlit p f.2.1) s) :=
  foldl_keeps_state Controlled .refl (fun _ _ _ => .trans) _ (fun s f => s.sendFlit_controlled p f.2.1) l s

/-- The replay buffer leaves again, and nothing else changes but the counts of the port. -/
theorem State.resend_spec (s : State) (p : Nat) : Wired s (s.resend p) ∧ (s.port p).Hears ((s.resend p).port p) ∧
    (s.resend p).out = s.out ++ replayed p (s.port p) ∧ (s.resend p).fabric.taken = s.fabric.taken := by
  have hsent := sendFlits_controlled p (s.port p).replay (s.countPort p 2 (s.port p).replay.length)
  unfold State.resend
  dsimp only
  refine ⟨?_, ?_, sendFlits_out _ _ _, ?_⟩
  · exact (s.onPort_wired p _).trans hsent.ports.wired
  · have hport := (hsent.port p).hears
    unfold State.countPort at hport ⊢
    rw [State.onPort_port_self] at hport
    unfold Port.Hears at hport ⊢
    conv_lhs => rw [hport]
  · rw [hsent.rest]
    rfl

/-! ### The body of a data flit -/

/-- A body taken: the packets that have come whole, and credit owed for what is discarded. -/
structure Bodied (p : Nat) (s s' : State) : Prop where
  rest : s' = { s with fabric := { s.fabric with ports := s'.fabric.ports, received := s'.fabric.received } }
  received : s.fabric.received <+: s'.fabric.received
  port : s'.port p = { s.port p with partials := (s'.port p).partials, owed := (s'.port p).owed, stats := (s'.port p).stats }

theorem Bodied.refl (p : Nat) (s : State) : Bodied p s s := ⟨rfl, List.prefix_rfl, rfl⟩

theorem Bodied.trans (h : Bodied p s t) (k : Bodied p t u) : Bodied p s u := by
  refine ⟨?_, h.received.trans k.received, ?_⟩
  · rw [k.rest]
    conv_lhs => rw [h.rest]
  · rw [k.port]
    conv_lhs => rw [h.port]

theorem Bodied.wired (h : Bodied p s t) : Wired s t := by
  refine ⟨?_, ?_⟩
  · conv_lhs => rw [h.rest]
    conv_rhs => rw [h.rest]
  · rw [h.rest]

theorem State.setPort_bodied (h : x = { s.port p with partials := x.partials, owed := x.owed, stats := x.stats }) : Bodied p s (s.setPort p x) :=
  ⟨rfl, List.prefix_rfl, by rw [State.setPort_port_self]; exact h⟩

theorem State.onPort_bodied {g : Port → Port}
    (h : g (s.port p) = { s.port p with partials := (g (s.port p)).partials, owed := (g (s.port p)).owed, stats := (g (s.port p)).stats }) :
    Bodied p s (s.onPort p g) := State.setPort_bodied h

theorem State.arrive_bodied (s : State) (p c n : Nat) (bs : List Byte) : Bodied p s (s.arrive p c n bs) := by
  have hkept (k : Packet) : Bodied p s { s with fabric := { s.fabric with received := s.fabric.received ++ [{ port := p, flits := n, packet := k }] } } :=
    ⟨rfl, List.prefix_append _ _, rfl⟩
  have hcount : Bodied p s (s.countPort p 5 1) := State.setPort_bodied rfl
  have hdiscard := hcount.trans (State.setPort_bodied (s := s.countPort p 5 1)
    (x := { (s.countPort p 5 1).port p with owed := tset ((s.countPort p 5 1).port p).owed c (tget 0 ((s.countPort p 5 1).port p).owed c + n) }) rfl)
  unfold State.arrive
  split
  · split
    · exact hkept _
    · exact hdiscard
  · exact hdiscard

theorem State.takeBody_bodied (s : State) (p : Nat) (flit : List Byte) : Bodied p s (s.takeBody p flit) := by
  unfold State.takeBody
  dsimp only
  generalize splitPackets 300 _ [] = r
  split
  · split <;> (refine State.onPort_bodied ?_; rfl)
  · refine Bodied.trans ?_ (foldl_keeps_state (Bodied p) (.refl p) (fun _ _ _ => .trans) _ (fun s k => s.arrive_bodied p _ _ k) _ _)
    refine Bodied.trans ?_ (State.arrive_bodied _ p _ _ _)
    refine State.onPort_bodied ?_
    rfl

/-! ### DATA_FLIT, NAK_FLIT and IDLE_FLIT -/

variable {flit : List Byte} {whole : Bool} {fec : List MemErr}

/-- A data flit in sequence taken. -/
def State.takeData (s : State) (p : Nat) (flit : List Byte) : State :=
  s.setPort p { ((s.port p).takeHeader flit) with rxSeq := ((s.port p).rxSeq + 1) % 65536, nakSent := false }

theorem State.linked_of (h : linked s p = true) : (!((s.port p).up || (s.port p).state = 1)) = false := by
  unfold linked at h
  rw [h]
  rfl

theorem exec_dataFlit_taken (hl : linked s p = true) (hok : flitIntact whole flit = true) (hkind : flitKind flit = 0) (hlegal : flitLegal flit = true)
    (hseq : at8 flit 2 2 = (s.port p).rxSeq) : exec (.dataFlit p flit whole fec) s =
    .next (((((s.hear p fec).takeData p flit).takeBody p flit).pumpPort p).sendControl p 1) := by
  have harm : exec (.dataFlit p flit whole fec) s = execDataFlit p flit whole fec s := rfl
  have hrx : at8 flit 2 2 = ((s.settleCredit.countFec p fec).port p).rxSeq := hseq.trans (s.hear_port p fec).rxSeq.symm
  rw [harm, execDataFlit]
  dsimp only
  rw [State.linked_of hl, if_neg (by decide), if_neg (by simp [hkind]), if_neg (by simp [hok, hlegal]), if_pos hrx]
  rfl

theorem exec_dataFlit_bad (hl : linked s p = true) (hbad : flitIntact whole flit = false ∨ (flitKind flit = 0 ∧ flitLegal flit = false)) :
    exec (.dataFlit p flit whole fec) s = .next (((s.hear p fec).onPort p fun x => { x with nakSent := true }).sendControl p 2) := by
  have harm : exec (.dataFlit p flit whole fec) s = execDataFlit p flit whole fec s := rfl
  rw [harm, execDataFlit]
  dsimp only
  rw [State.linked_of hl, if_neg (by decide), if_neg, if_pos]
  · rfl
  · obtain h | ⟨-, h⟩ := hbad <;> simp [h]
  · obtain h | ⟨h, -⟩ := hbad <;> simp [h]

theorem exec_nakFlit (hl : linked s p = true) (hok : flitIntact whole flit = true) (hkind : flitKind flit = 2) (hlegal : flitLegal flit = true) :
    exec (.nakFlit p flit whole fec) s = .next ((((s.hear p fec).setPort p { (((s.hear p fec).port p).takeHeader flit) with
      naks := if (s.port p).progress flit then 0 else (s.port p).naks + 1 }).resend p).pumpPort p) := by
  have harm : exec (.nakFlit p flit whole fec) s = execNakFlit p flit whole fec s := rfl
  rw [harm, execNakFlit, ← (s.hear_port p fec).progress, ← (s.hear_port p fec).naks]
  dsimp only
  rw [State.linked_of hl, if_neg (by decide), if_neg (by simp [hok, hkind, hlegal])]
  rfl

theorem exec_idleFlit (hl : linked s p = true) (hok : flitIntact whole flit = true) (hkind : flitKind flit = 1) (hlegal : flitLegal flit = true) :
    exec (.idleFlit p flit whole fec) s = .next (((s.hear p fec).onPort p fun x => x.takeHeader flit).pumpPort p) := by
  have harm : exec (.idleFlit p flit whole fec) s = execIdleFlit p flit whole fec s := rfl
  rw [harm, execIdleFlit]
  dsimp only
  rw [State.linked_of hl, if_neg (by decide), if_pos (by simp [hok, hkind, hlegal])]
  rfl

/-- A flit taken at a linked port. -/
theorem flitTaken (hl : linked s p = true) (hok : flitIntact whole flit = true) (hkind : flitKind flit = 0) (hlegal : flitLegal flit = true)
    (hseq : at8 flit 2 2 = (s.port p).rxSeq) : Completes (.dataFlit p flit whole fec) s fun s' =>
      (s'.port p).rxSeq = ((s.port p).rxSeq + 1) % 65536 ∧ (s'.port p).nakSent = false ∧ s'.easels = s.easels ∧ MemoryKept s s' ∧
        s.fabric.received <+: s'.fabric.received := by
  refine ⟨_, exec_dataFlit_taken hl hok hkind hlegal hseq, ?_⟩
  have hbody := State.takeBody_bodied ((s.hear p fec).takeData p flit) p flit
  have htake : ((s.hear p fec).takeData p flit).port p = { (((s.hear p fec).port p).takeHeader flit) with
      rxSeq := (((s.hear p fec).port p).rxSeq + 1) % 65536, nakSent := false } := State.setPort_port_self _ _ _
  have hwired := ((s.hear_wired p fec).trans (State.setPort_wired _ p _)).trans hbody.wired
  have hreceived : s.fabric.received <+: (((s.hear p fec).takeData p flit).takeBody p flit).fabric.received :=
    (s.hear_received p fec).symm ▸ hbody.received
  have hport := hbody.port
  generalize (((s.hear p fec).takeData p flit).takeBody p flit) = t at hport hwired hreceived ⊢
  have hpump := (t.pumpPort_sent p).ports.trans (State.sendControl_controlled _ p 1).ports
  have hsent := hpump.port p
  obtain ⟨hsent, -⟩ := hsent
  have hall := hwired.trans hpump.wired
  refine ⟨?_, ?_, hall.easels, hall.memoryKept, hpump.received.symm ▸ hreceived⟩
  · rw [hsent]
    dsimp only
    rw [hport]
    dsimp only
    rw [htake, (s.hear_port p fec).rxSeq]
  · rw [hsent]
    dsimp only
    rw [hport]
    dsimp only
    rw [htake]

theorem badFlitNaks (hl : linked s p = true) (hbad : flitIntact whole flit = false ∨ (flitKind flit = 0 ∧ flitLegal flit = false)) :
    Completes (.dataFlit p flit whole fec) s fun s' => (s'.port p).rxSeq = (s.port p).rxSeq ∧ (s'.port p).nakSent = true ∧
      s'.fabric.received = s.fabric.received ∧ MemoryKept s s' ∧ ∃ l bs, s'.out = s.out ++ l ++ [.flit p bs] ∧ flitKind bs = 2 := by
  refine ⟨_, exec_dataFlit_bad hl hbad, ?_⟩
  have hport : ((s.hear p fec).onPort p fun x => { x with nakSent := true }).port p = { (s.hear p fec).port p with nakSent := true } :=
    State.onPort_port_self _ _ _
  have hwired := (s.hear_wired p fec).trans (State.onPort_wired _ p fun x => { x with nakSent := true })
  have hreceived : ((s.hear p fec).onPort p fun x => { x with nakSent := true }).fabric.received = s.fabric.received := s.hear_received p fec
  generalize ((s.hear p fec).onPort p fun x => { x with nakSent := true }) = t at hport hwired hreceived ⊢
  have hsend := t.sendControl_controlled p 2
  have hself := hsend.port p
  unfold Port.Controls at hself
  obtain ⟨l, hl⟩ := hwired.out
  refine ⟨?_, ?_, hsend.ports.received.trans hreceived, (hwired.trans hsend.ports.wired).memoryKept, l, ((t.port p).control 2).2, ?_, flitKind_control _ (by decide)⟩
  · rw [hself]
    dsimp only
    rw [hport]
    exact (s.hear_port p fec).rxSeq
  · rw [hself]
    dsimp only
    rw [hport]
  · rw [t.sendControl_out, hl]

theorem nakResends (hl : linked s p = true) (hok : flitIntact whole flit = true) (hkind : flitKind flit = 2) (hlegal : flitLegal flit = true) :
    Completes (.nakFlit p flit whole fec) s fun s' => (s'.port p).naks = (if (s.port p).progress flit then 0 else (s.port p).naks + 1) ∧
      MemoryKept s s' ∧ ∃ l, (s.out ++ l ++ replayed p ((s.port p).takeHeader flit)) <+: s'.out := by
  refine ⟨_, exec_nakFlit hl hok hkind hlegal, ?_⟩
  have hhear := s.hear_port p fec
  obtain ⟨l, hl⟩ := (s.hear_wired p fec).out
  have hset := State.setPort_port_self (s.hear p fec) p { (((s.hear p fec).port p).takeHeader flit) with
    naks := if (s.port p).progress flit then 0 else (s.port p).naks + 1 }
  have hout : ((s.hear p fec).setPort p { (((s.hear p fec).port p).takeHeader flit) with
    naks := if (s.port p).progress flit then 0 else (s.port p).naks + 1 }).out = s.out ++ l := hl.symm
  have hwired := (s.hear_wired p fec).trans ((s.hear p fec).setPort_wired p { (((s.hear p fec).port p).takeHeader flit) with
    naks := if (s.port p).progress flit then 0 else (s.port p).naks + 1 })
  generalize (s.hear p fec).setPort p _ = t at hset hout hwired ⊢
  obtain ⟨hrw, hrp, hro, -⟩ := t.resend_spec p
  have hpump := (t.resend p).pumpPort_sent p
  unfold Port.Hears at hrp
  refine ⟨?_, ((hwired.trans hrw).trans hpump.ports.wired).memoryKept, l, ?_⟩
  · rw [hpump.port.1]
    dsimp only
    rw [hrp]
    dsimp only
    rw [hset]
  · have hreplay : replayed p (t.port p) = replayed p ((s.port p).takeHeader flit) := by
      unfold replayed
      rw [hset, ← hhear.takeHeader_replay]
    rw [← hout, ← hreplay, ← hro]
    exact hpump.out

theorem idleTaken (hl : linked s p = true) (hok : flitIntact whole flit = true) (hkind : flitKind flit = 1) (hlegal : flitLegal flit = true)
    (hw : (s.port p).waiting = []) : Completes (.idleFlit p flit whole fec) s fun s' => s' = { s with fabric := s'.fabric, out := s'.out } ∧
      (s'.port p).replay = ((s.port p).takeHeader flit).replay ∧
      tget 0 (s'.port p).credits (at8 flit 6 1) = tget 0 (s.port p).credits (at8 flit 6 1) + at8 flit 7 1 := by
  refine ⟨_, exec_idleFlit hl hok hkind hlegal, ?_⟩
  have hhear := s.hear_port p fec
  obtain ⟨hwaiting, hcredits⟩ := ((s.hear p fec).port p).takeHeader_keeps flit
  have hself := (s.hear p fec).onPort_port_self p fun x => x.takeHeader flit
  rw [State.pumpPort_idle (by rw [hself, hwaiting, hhear.waiting]; exact hw), hself]
  have hwired := ((s.hear_wired p fec).trans (State.onPort_wired _ p fun x => x.takeHeader flit)).trans
    (State.setPort_wired _ p (((s.hear p fec).port p).takeHeader flit))
  have hport := State.setPort_port_self ((s.hear p fec).onPort p fun x => x.takeHeader flit) p (((s.hear p fec).port p).takeHeader flit)
  have hchoices : (((s.hear p fec).onPort p fun x => x.takeHeader flit).setPort p (((s.hear p fec).port p).takeHeader flit)).choices = s.choices :=
    s.hear_choices p fec
  generalize ((s.hear p fec).onPort p _).setPort p _ = t at hwired hport hchoices ⊢
  refine ⟨?_, ?_, ?_⟩
  · have h := hwired.rest
    rwa [hchoices] at h
  · rw [hport]
    exact hhear.takeHeader_replay flit
  · rw [hport, hcredits, hhear.credits, tget_tset_self]

end

end Sys2Proof.Machine
end

section
/-! PROOFS. Ports that train, train again or go down (R331, R333 to R337, R344, R486). -/

namespace Sys2Proof.Machine

section
variable {s t u : State} {p q : Nat} {x y z : Port}

/-! ### A port down -/

/-- A picked port is one of the list. -/
theorem State.pickPort_mem {l : List Nat} (h : s.pickPort l = some p) : p ∈ l := by
  unfold State.pickPort at h
  have hstep : ∀ (l' : List Nat) (b : Option Nat), (∀ q, b = some q → q ∈ l) → (∀ q ∈ l', q ∈ l) →
      ∀ q, l'.foldl (fun (b : Option Nat) p => match b with
        | none => some p
        | some q => if (s.port p).waiting.length < (s.port q).waiting.length then some p else some q) b = some q → q ∈ l := by
    intro l'
    induction l' with
    | nil => exact fun b hb _ q hq => hb q hq
    | cons i l' ih =>
      intro b hb hl
      refine ih _ (fun q hq => ?_) fun q hq => hl q (List.mem_cons_of_mem _ hq)
      have hi := hl i List.mem_cons_self
      cases b with
      | none => exact Option.some.inj hq ▸ hi
      | some r =>
        dsimp only at hq
        split at hq
        · exact Option.some.inj hq ▸ hi
        · exact Option.some.inj hq ▸ hb r rfl
  exact hstep _ none (fun _ h => by cases h) (fun q hq => List.mem_of_mem_filter hq) p h

/-- Requests sent once more by other ports. -/
structure Rerouted (p : Nat) (s s' : State) : Prop where
  rest : s' = { s with fabric := { s.fabric with ports := s'.fabric.ports, remotes := s'.fabric.remotes }, out := s'.out, choices := s'.choices }
  port : s'.port p = s.port p
  others : ∀ q, (s.port q).Sends (s'.port q)

theorem Rerouted.refl (p : Nat) (s : State) : Rerouted p s s := ⟨rfl, rfl, fun _ => .refl _⟩

theorem Rerouted.trans (h : Rerouted p s t) (k : Rerouted p t u) : Rerouted p s u := by
  refine ⟨?_, k.port.trans h.port, fun q => (h.others q).trans (k.others q)⟩
  rw [k.rest]
  conv_lhs => rw [h.rest]

theorem Sent.rerouted (hq : p ≠ q) (h : Sent q s t) : Rerouted p s t := by
  refine ⟨?_, h.others p hq, h.ports.port⟩
  conv_lhs => rw [h.rest]
  conv_rhs => rw [h.rest]

theorem State.sendElsewhere_rerouted (s : State) (p : Nat) (l : List Packet) : Rerouted p s (State.sendElsewhere s p l) := by
  induction l generalizing s with
  | nil => exact .refl p s
  | cons k l ih =>
    unfold State.sendElsewhere
    split
    · split
      · next q hpick =>
        have hne : p ≠ q := by
          have hmem := State.pickPort_mem hpick
          have := (List.mem_filter.mp hmem).2
          rintro rfl
          simp at this
        have hnamed (r : List Remote) : Rerouted p s { s with fabric := { s.fabric with remotes := r } } := ⟨rfl, rfl, fun _ => .refl _⟩
        exact ((hnamed _).trans ((State.sendOn_sent _ q k).rerouted hne)).trans (ih _)
      · exact ih s
    · exact ih s

/-- A port that went down. -/
def Port.down (x : Port) : Port :=
  { Port.reset with stats := x.stats, ganged := x.ganged, failed := x.failed, waiting := x.waiting.filter Packet.stays }

/-- The second port of a ganged pair freed. -/
def State.freePair (s : State) (p : Nat) (ganged : Bool) : State := if ganged then s.onPort (p + 1) fun y => { y with state := 0 } else s

/-- The state of a port that goes down, before what it held goes elsewhere. -/
def State.downed (s : State) (p : Nat) : State :=
  let s := (s.setPort p (s.port p).down).freePair p (s.port p).ganged
  let lost := fun (a : Arrival) => if a.port = p then { a with flits := 0 } else a
  { s with fabric := { s.fabric with
    received := s.fabric.received.map lost, landed := s.fabric.landed.map lost, withheld := s.fabric.withheld.map lost } }

theorem State.portDown_eq (s : State) (p cause : Nat) : s.portDown p cause =
    State.sendElsewhere ((s.downed p).reportDevice 0x0701 0x08 p p cause) p ((s.port p).replay.filterMap (·.2.2) ++ (s.port p).waiting) := rfl

theorem State.freePair_port (s : State) (p : Nat) (ganged : Bool) (hq : q ≠ p + 1) : (s.freePair p ganged).port q = s.port q := by
  unfold State.freePair
  split
  · exact s.onPort_port_ne _ hq
  · rfl

theorem State.freePair_state (s : State) (p : Nat) (ganged : Bool) (q : Nat) :
    ((s.freePair p ganged).port q).state = (s.port q).state ∨ ((s.freePair p ganged).port q).state = 0 := by
  by_cases hq : q = p + 1
  · subst hq
    unfold State.freePair
    split
    · rw [State.onPort_port_self]
      exact .inr rfl
    · exact .inl rfl
  · rw [s.freePair_port p ganged hq]
    exact .inl rfl

theorem State.downed_port (s : State) (p q : Nat) : (s.downed p).port q = ((s.setPort p (s.port p).down).freePair p (s.port p).ganged).port q := rfl

theorem State.downed_port_self (s : State) (p : Nat) : (s.downed p).port p = (s.port p).down := by
  rw [State.downed_port, State.freePair_port _ _ _ (Nat.ne_of_lt p.lt_succ_self), State.setPort_port_self]

theorem State.downed_state (s : State) (p q : Nat) : ((s.downed p).port q).state = (s.port q).state ∨ ((s.downed p).port q).state = 0 := by
  by_cases hq : q = p
  · subst hq
    rw [State.downed_port_self]
    exact .inr rfl
  · rw [State.downed_port]
    have hset := State.setPort_port_ne s _ _ (s.port p).down hq
    rw [← hset]
    exact State.freePair_state _ _ _ _

theorem State.portDown_port_self (s : State) (p cause : Nat) : (s.portDown p cause).port p = (s.port p).down := by
  rw [State.portDown_eq, (State.sendElsewhere_rerouted _ p _).port, State.port, (State.reportDevice_records _ _ _ _ _ _).fabric]
  exact s.downed_port_self p

theorem State.portDown_down (s : State) (p cause : Nat) : ((s.portDown p cause).port p).up = false ∧ ((s.portDown p cause).port p).replay = [] := by
  rw [State.portDown_port_self]
  exact ⟨rfl, rfl⟩

/-- Another port that is not up stays so. -/
theorem State.portDown_stays (s : State) (p cause : Nat) (h : (s.port q).up = false) : ((s.portDown p cause).port q).up = false := by
  have hsends := ((State.sendElsewhere_rerouted ((s.downed p).reportDevice 0x0701 0x08 p p cause) p
    ((s.port p).replay.filterMap (·.2.2) ++ (s.port p).waiting)).others q).1
  rw [State.portDown_eq, hsends]
  have hreport : ((s.downed p).reportDevice 0x0701 0x08 p p cause).port q = (s.downed p).port q := by
    rw [State.port, (State.reportDevice_records _ _ _ _ _ _).fabric, State.port]
  unfold Port.up at h ⊢
  dsimp only
  rw [hreport]
  obtain hstate | hstate := s.downed_state p q
  · rwa [hstate]
  · rw [hstate]
    rfl

theorem State.portDown_refclk (s : State) (p cause : Nat) : (s.portDown p cause).fabric.refclk = s.fabric.refclk := by
  rw [State.portDown_eq, (State.sendElsewhere_rerouted _ p _).rest]
  have hdowned : (s.downed p).fabric.refclk = s.fabric.refclk := by
    unfold State.downed State.freePair
    dsimp only
    split <;> rfl
  exact (congrArg Fabric.refclk (State.reportDevice_records (s.downed p) _ _ _ _ _).fabric).trans hdowned

/-! ### A port that trains again -/

/-- A port as its lanes train again. -/
def Port.again (x : Port) : Port := { x with state := upState x.ganged x.lanes.length, naks := 0, nakSent := false }

def State.trainAgain (s : State) (p : Nat) : State := ((s.setPort p (s.port p).again).countPort p 3 1).resend p

/-- The lanes that fail as a port trains again. -/
def State.badAgain (s : State) (p : Nat) (found : List (Option Nat)) : List Nat :=
  (s.port p).failed ++ (s.badLanes found (insertSet (s.port p).lanes (spareLane (s.port p).ganged))).filter (!(s.port p).failed.contains ·)

theorem State.retrain_trained {found : List (Option Nat)} (ht : s.failLanes p found (s.badAgain p found) (s.port p).lanes = t)
    (hup : (t.port p).state ≠ 0) : s.retrain p true found = t.trainAgain p := by
  subst ht
  exact if_neg hup

theorem Port.again_up (x : Port) : x.again.up = true := by
  unfold Port.again Port.up upState
  dsimp only
  split <;> split <;> rfl

/-- A port that trained again is up, on its lanes, and sends its replay buffer again. -/
theorem State.trainAgain_spec (s : State) (p : Nat) : ((s.port p).again).Hears ((s.trainAgain p).port p) ∧ Wired s (s.trainAgain p) ∧
    (s.trainAgain p).out = s.out ++ replayed p (s.port p) ∧ (s.trainAgain p).fabric.taken = s.fabric.taken := by
  have hset := State.setPort_port_self s p (s.port p).again
  have hself : ((s.port p).again).Hears (((s.setPort p (s.port p).again).countPort p 3 1).port p) := by
    unfold State.countPort
    rw [State.onPort_port_self, hset]
    rfl
  have hw := (s.setPort_wired p (s.port p).again).trans ((s.setPort p (s.port p).again).onPort_wired p fun x =>
    { x with stats := (List.range 8).map fun j => x.stats.getD j 0 + (if j = 3 then 1 else 0) })
  have hreplay : (((s.setPort p (s.port p).again).countPort p 3 1).port p).replay = (s.port p).replay := hself.replay
  have htaken : ((s.setPort p (s.port p).again).countPort p 3 1).fabric.taken = s.fabric.taken := rfl
  have hout : ((s.setPort p (s.port p).again).countPort p 3 1).out = s.out := rfl
  obtain ⟨hrw, hrp, hro, hrt⟩ := State.resend_spec ((s.setPort p (s.port p).again).countPort p 3 1) p
  unfold State.trainAgain
  refine ⟨?_, hw.trans hrw, ?_, hrt.trans htaken⟩
  · unfold Port.Hears at hself hrp ⊢
    conv_lhs => rw [hrp]
    conv_lhs => rw [hself]
  · rw [hro, hout]
    unfold replayed
    rw [hreplay]

section
variable (h : x.Hears y)
include h
theorem Port.Hears.up : y.up = x.up := by rw [h]; rfl
theorem Port.Hears.lanes : y.lanes = x.lanes := by rw [h]
theorem Port.Hears.failed : y.failed = x.failed := by rw [h]
end

/-! ### Lanes -/

variable {lane : Nat} {found : List (Option Nat)}

/-- No lane that is in use has failed: none fails again. -/
theorem State.failLanes_none {bad active : List Nat} (h : ∀ i ∈ bad, i ∉ active) : s.failLanes p found bad active = s := by
  have hnone : bad.filter (active.contains ·) = [] := List.filter_eq_nil_iff.mpr fun i hi => by simpa using h i hi
  rw [State.failLanes, hnone]
  rfl

theorem State.badLanes_none {l : List Nat} (h : ∀ i ∈ l, ∃ k, laneFound found i = some k ∧ s.laneBad k = false) : s.badLanes found l = [] := by
  refine List.filter_eq_nil_iff.mpr fun i hi => ?_
  obtain ⟨k, hk, hgood⟩ := h i hi
  simp [hk, hgood]

/-- A port with its lane replaced by the spare. -/
def Port.spared (x : Port) (lane : Nat) : Port :=
  { x with failed := insertSet x.failed lane, lanes := x.lanes.map fun l => if l = lane then spareLane x.ganged else l }

def State.spared (s : State) (p lane : Nat) : State :=
  let s := s.setPort p ((s.port p).spared lane)
  { s with fabric := { s.fabric with taken := tset s.fabric.taken (p / 2) p } }

theorem State.spared_port_self (s : State) (p lane : Nat) : (s.spared p lane).port p = (s.port p).spared lane :=
  State.setPort_port_self s p _

/-- A failing lane gives its place to the spare while that is free. -/
theorem State.laneFails_spared {bad : List Nat} (hlane : lane ∈ (s.port p).lanes) (hfree : ∀ t ∈ s.fabric.taken, t.1 ≠ p / 2)
    (hspare : spareLane (s.port p).ganged ∉ bad) (ratio : Nat) : s.laneFails p lane ratio bad =
    (s.spared p lane).reportDevice 0x0702 0x08 (laneUnit p (s.port p).ganged lane) ratio (p / 2) := by
  have hfree' : (s.fabric.taken.all fun t => t.1 != p / 2) = true := by simpa using hfree
  unfold State.laneFails
  dsimp only
  rw [if_neg (by simpa using hlane), if_pos (by simp [hfree', hspare])]
  rfl

theorem State.reportDevice_port (s : State) (code cls unit a b q : Nat) : (s.reportDevice code cls unit a b).port q = s.port q := by
  rw [State.port, (s.reportDevice_records _ _ _ _ _).fabric, State.port]

theorem Port.up_state {x : Port} (h : x.up = true) : x.state ≠ 0 := by
  rintro hzero
  rw [Port.up, hzero] at h
  exact absurd h (by decide)

end

/-! ### RETRY_LIMIT_REACHED and ACK_TIMEOUT -/

section
variable {s : State} {p : Nat} {found : List (Option Nat)} {c : Instr} {trained : Bool}

theorem exec_trainAgain (hup : (s.port p).up = true) (hc : c = .retryLimitReached p trained found ∧ policy s 0x6000 5 ≤ (s.port p).naks ∨
    c = .ackTimeout p trained found ∧ (s.port p).replay ≠ []) : exec c s = .next (s.retrain p trained found) := by
  obtain ⟨rfl, hnaks⟩ | ⟨rfl, hreplay⟩ := hc
  · have harm : exec (.retryLimitReached p trained found) s = execRetryLimitReached p trained s found := rfl
    rw [harm, execRetryLimitReached]
    exact if_pos (by simp [hup, hnaks])
  · have harm : exec (.ackTimeout p trained found) s = execAckTimeout p trained s found := rfl
    rw [harm, execAckTimeout]
    exact if_pos (by simp [hup, hreplay])

/-- A port whose lanes and spare all train well stays up on them. -/
theorem State.retrain_good (hup : (s.port p).up = true) (hfailed : ∀ i ∈ (s.port p).failed, i ∉ (s.port p).lanes)
    (hgood : LanesGood s found (s.port p).lanes (spareLane (s.port p).ganged)) : s.retrain p true found = s.trainAgain p := by
  have hbad : s.badAgain p found = (s.port p).failed := by
    rw [State.badAgain, State.badLanes_none fun i hi => hgood i ((mem_insertSet _ _ _).mp hi).symm, List.filter_nil, List.append_nil]
  exact State.retrain_trained (by rw [hbad]; exact State.failLanes_none hfailed) (Port.up_state hup)

theorem State.retrain_spared {lane : Nat} (hup : (s.port p).up = true) (hfailed : ∀ i ∈ (s.port p).failed, i ∉ (s.port p).lanes)
    (hlane : lane ∈ (s.port p).lanes) (hbad : s.badLanes found (insertSet (s.port p).lanes (spareLane (s.port p).ganged)) = [lane])
    (hne : lane ≠ spareLane (s.port p).ganged) (hspare : spareLane (s.port p).ganged ∉ (s.port p).failed)
    (hfree : ∀ t ∈ s.fabric.taken, t.1 ≠ p / 2) : ∃ t : State, s.retrain p true found = t.trainAgain p ∧ t.port p = (s.port p).spared lane := by
  have hnot : lane ∉ (s.port p).failed := fun h => hfailed lane h hlane
  have hagain : s.badAgain p found = (s.port p).failed ++ [lane] := by
    rw [State.badAgain, hbad]
    simp [hnot]
  have hfails : ((s.port p).failed ++ [lane]).filter ((s.port p).lanes.contains ·) = [lane] := by
    rw [List.filter_append, List.filter_eq_nil_iff.mpr fun i hi => by simpa using hfailed i hi]
    simp [hlane]
  have hclear : spareLane (s.port p).ganged ∉ (s.port p).failed ++ [lane] := by simp [hspare, hne.symm]
  have hfail : ∃ t : State, s.failLanes p found (s.badAgain p found) (s.port p).lanes = t ∧ t.port p = (s.port p).spared lane := by
    rw [hagain, State.failLanes, hfails, List.foldl_cons, List.foldl_nil, if_neg (Port.up_state hup)]
    cases laneFound found lane with
    | some k =>
      refine ⟨_, rfl, ?_⟩
      dsimp only
      rw [State.laneFails_spared hlane hfree hclear, State.reportDevice_port, State.spared_port_self]
    | none =>
      refine ⟨_, rfl, ?_⟩
      have hfresh := State.laneFails_spared (s := s.fresh.2) (p := p) (lane := lane) hlane hfree hclear (Sys2Proof.Config.freeNat s.fresh.1 % 2 ^ 32)
      dsimp only
      rw [hfresh, State.reportDevice_port, State.spared_port_self]
      rfl
  obtain ⟨t, ht, hport⟩ := hfail
  refine ⟨t, State.retrain_trained ht ?_, hport⟩
  rw [hport]
  exact Port.up_state hup

end

/-- Settles O42: the flits of a linked port, and what a retrain leaves. -/
theorem flitsTaken : Obligations.FlitsTaken := by
  unfold Obligations.FlitsTaken
  refine ⟨fun s p flit whole fec hl => ⟨flitTaken hl, badFlitNaks hl, nakResends hl, idleTaken hl⟩,
    fun s p found c trained hup hc hfailed => ⟨fun ht hgood => ?_, fun lane ht hlane hbad hne hspare hfree => ?_, fun ht => ?_⟩⟩
  · subst ht
    refine ⟨_, exec_trainAgain hup hc, ?_⟩
    obtain ⟨hport, hwired, hout, -⟩ := s.trainAgain_spec p
    rw [State.retrain_good hup hfailed hgood]
    exact ⟨hport.up.trans (Port.again_up _), hport.lanes, hport.naks, hport.replay, hwired.memoryKept, hout⟩
  · subst ht
    refine ⟨_, exec_trainAgain hup hc, ?_⟩
    obtain ⟨t, hretrain, ht⟩ := State.retrain_spared hup hfailed hlane hbad hne hspare hfree
    obtain ⟨hport, -, -, -⟩ := t.trainAgain_spec p
    rw [hretrain]
    have hreplay : (t.port p).replay = (s.port p).replay := by rw [ht]; rfl
    have hlanes : (t.port p).lanes = ((s.port p).spared lane).lanes := by rw [ht]
    exact ⟨hport.up.trans (Port.again_up _), hport.replay.trans hreplay, hport.lanes.trans hlanes⟩
  · subst ht
    exact ⟨_, exec_trainAgain hup hc, s.portDown_down p 2⟩

end Sys2Proof.Machine
end

section
/-! PROOFS. Ports come up, agree with their peers, and lose lanes and clocks (R332 to R337, R344, R486). -/

namespace Sys2Proof.Machine

/-! ### Tables of the channels -/

/-- A table that lists the channels `a` to `a + n`, each with its value. -/
def channelTable {α : Type} (f : Nat → α) (a n : Nat) : Tab α := (List.range' a n).map fun c => (c, f c)

theorem channelTable_succ {α : Type} (f : Nat → α) (a n : Nat) : channelTable f a (n + 1) = (a, f a) :: channelTable f (a + 1) n := by
  rw [channelTable, List.range'_succ, List.map_cons, channelTable]

theorem tget_channelTable {α : Type} (d : α) (f : Nat → α) {a n c : Nat} (hlo : a ≤ c) (hhi : c < a + n) : tget d (channelTable f a n) c = f c := by
  induction n generalizing a with
  | zero => omega
  | succ n ih =>
    rw [channelTable, List.range'_succ, List.map_cons, tget]
    by_cases hc : a = c
    · rw [if_pos hc, hc]
    · rw [if_neg hc]
      exact ih (a := a + 1) (by omega) (by omega)

theorem tset_channelTable {α : Type} (f : Nat → α) {a n c : Nat} (x : α) (hlo : a ≤ c) (hhi : c < a + n) :
    tset (channelTable f a n) c x = channelTable (Function.update f c x) a n := by
  induction n generalizing a with
  | zero => omega
  | succ n ih =>
    rw [channelTable_succ, channelTable_succ, tset, if_neg (Nat.not_lt.mpr hlo)]
    by_cases hc : a = c
    · subst hc
      have hrest : channelTable (Function.update f a x) (a + 1) n = channelTable f (a + 1) n := by
        refine List.map_congr_left fun i hi => ?_
        have hi' := (List.mem_range'_1.mp hi).1
        rw [Function.update_of_ne (by omega)]
      rw [if_pos rfl, hrest, Function.update_self]
    · rw [if_neg hc, ih (by omega) (by omega), Function.update_of_ne (by omega)]

/-- The first channel found is the lowest. -/
theorem find?_channelTable {f : Nat → Nat} {a n c v : Nat} (h : (channelTable f a n).find? (fun o => o.2 != 0) = some (c, v)) :
    a ≤ c ∧ c < a + n ∧ v = f c ∧ ∀ j, a ≤ j → j < c → f j = 0 := by
  induction n generalizing a with
  | zero => cases h
  | succ n ih =>
    rw [channelTable_succ, List.find?_cons] at h
    by_cases hzero : f a = 0
    · have hskip : ((a, f a).2 != 0) = false := by simp [hzero]
      rw [hskip] at h
      obtain ⟨hlo, hhi, hv, hbefore⟩ := ih h
      refine ⟨by omega, by omega, hv, fun j hj hjc => ?_⟩
      by_cases haj : a = j
      · exact haj ▸ hzero
      · exact hbefore j (by omega) hjc
    · have htake : ((a, f a).2 != 0) = true := by simpa using hzero
      rw [htake] at h
      obtain ⟨rfl, rfl⟩ := Prod.mk.inj (Option.some.inj h)
      exact ⟨Nat.le_refl _, by omega, rfl, fun j hj hjc => by omega⟩

theorem mem_tset_self {α : Type} (t : Tab α) (k : Nat) (x : α) : (k, x) ∈ tset t k x := by
  induction t with
  | nil => exact List.mem_singleton.mpr rfl
  | cons q t ih =>
    obtain ⟨i, y⟩ := q
    rw [tset]
    split
    · exact List.mem_cons_self
    · split
      · exact List.mem_cons_self
      · exact List.mem_cons_of_mem _ ih

/-! ### Credit owed to the peer -/

section
variable {s t : State} {p k : Nat} {x y : Port}

/-- The channels' credit owed fits one flit each, and the channels below `k` are owed none. -/
def Port.Owes (k : Nat) (x : Port) : Prop := ∃ f : Nat → Nat, x.owed = channelTable f 0 18 ∧ (∀ c, f c ≤ 255) ∧ ∀ c < k, f c = 0

theorem Port.Owes.of_owed (h : x.Owes k) (heq : y.owed = x.owed) : y.Owes k := by
  unfold Port.Owes
  rw [heq]
  exact h

theorem Port.Owes.mono (h : x.Owes (k + 1)) : x.Owes k := by
  obtain ⟨f, hx, hle, hzero⟩ := h
  exact ⟨f, hx, hle, fun c hc => hzero c (by omega)⟩

/-- Nothing is owed on any channel. -/
theorem Port.Owes.settled (h : x.Owes k) (hnone : x.owed.any (fun o => o.2 != 0) = false) (j : Nat) : x.Owes j := by
  obtain ⟨f, hx, -, -⟩ := h
  refine ⟨fun _ => 0, ?_, fun _ => Nat.zero_le _, fun _ _ => rfl⟩
  rw [hx] at hnone ⊢
  refine List.map_congr_left fun c hc => ?_
  have hentry := List.any_eq_false.mp hnone (c, f c) (List.mem_map_of_mem hc)
  have hzero : f c = 0 := by simpa using hentry
  rw [hzero]

/-- The lowest channel that is owed credit is paid. -/
theorem Port.Owes.creditBack (h : x.Owes k) : x.creditBack.2.2.Owes (k + 1) := by
  obtain ⟨f, hx, hle, hzero⟩ := id h
  unfold Port.creditBack
  split
  · next c n hfind =>
    rw [hx] at hfind
    obtain ⟨hlo, hhi, rfl, hbefore⟩ := find?_channelTable hfind
    have hpaid : f c - min (f c) 255 = 0 := by have := hle c; omega
    refine ⟨Function.update f c 0, ?_, fun i => ?_, fun i hi => ?_⟩
    · dsimp only
      rw [hpaid, hx, tset_channelTable f 0 hlo hhi]
    · rw [Function.update_apply]
      split
      · exact Nat.zero_le _
      · exact hle i
    · have hne : f c ≠ 0 := by simpa using List.find?_some hfind
      have hkc : k ≤ c := Nat.not_lt.mp fun hlt => hne (hzero c hlt)
      rw [Function.update_apply]
      split
      · rfl
      · exact hbefore i (Nat.zero_le _) (by omega)
  · next hnone =>
    refine (h.settled ?_ (k + 1))
    rw [List.any_eq_false]
    exact fun o ho => by simpa using List.find?_eq_none.mp hnone o ho

theorem Port.Owes.push (h : x.Owes k) (bs : List Byte) : (x.push bs).Owes k := by
  refine h.of_owed ?_
  unfold Port.push
  dsimp only
  split <;> rfl

theorem Port.Owes.packetFlits (n : Nat) (q : Packet) (first : Bool) (bs : List Byte) (h : x.Owes k) (acc : List (List Byte)) :
    (packetFlits n q first bs x acc).1.Owes k := by
  induction n generalizing first bs x acc with
  | zero => exact h
  | succ n ih =>
    unfold Machine.packetFlits
    have hpaid := h.creditBack.mono
    refine ih _ _ (hpaid.of_owed ?_) _
    rfl

theorem sendFlits_owes (l : List (List Byte)) (h : (s.port p).Owes k) : ((l.foldl (fun s f => s.sendFlit p f) s).port p).Owes k := by
  induction l generalizing s with
  | nil => exact h
  | cons f l ih => exact ih (by rw [State.sendFlit_port_self]; exact h.push f)

theorem pump_owes (l : List Packet) (blocked : List Nat) (h : (s.port p).Owes k) : ((pump p l blocked s).port p).Owes k := by
  induction l generalizing blocked s with
  | nil => exact h
  | cons q l ih =>
    unfold pump
    dsimp only
    split
    · refine ih _ ?_
      rw [State.setPort_port_self]
      exact h.of_owed rfl
    · refine ih _ (sendFlits_owes _ ?_)
      rw [State.setPort_port_self]
      refine Port.Owes.packetFlits _ _ _ _ (h.of_owed ?_) _
      rfl

theorem State.sendControl_owes (kind : Nat) (h : (s.port p).Owes k) : ((s.sendControl p kind).port p).Owes (k + 1) := by
  unfold State.sendControl
  dsimp only
  rw [State.sendFlit_port_self, State.setPort_port_self]
  exact h.creditBack.push _

theorem State.advertise_owes (n : Nat) (h : (s.port p).Owes k) : ((s.advertise p n).port p).Owes (k + n) := by
  induction n generalizing s k with
  | zero => exact h
  | succ n ih =>
    unfold State.advertise
    split
    · have hnext := ih (s.sendControl_owes 1 h)
      rwa [Nat.add_right_comm, Nat.add_assoc] at hnext
    · next hnone => exact h.settled (by simpa using hnone) _

/-! ### PORT_BRING_UP -/

variable {found : List (Option Nat)} {credits : List Nat}

/-- A port whose lanes have trained, before its peer's parameters come. -/
def Port.training (x : Port) (g : Bool) (credits : List Nat) : Port :=
  let adv : Tab Nat := (List.range 18).map fun c => (c, credits.getD c 0)
  { Port.reset with
    state := 1, lanes := List.range (if g then 8 else 4), ganged := g, stats := x.stats, waiting := x.waiting, credits := adv, advertised := adv,
    owed := (List.range 18).map fun c => (c, rxBuffer c) }

/-- The second port of a pair as its first comes up. -/
def State.pairUp (s : State) (p : Nat) (g : Bool) : State :=
  if g then s.onPort (p + 1) fun y => { y with state := 5 }
  else if p % 2 = 0 && (s.port (p + 1)).state = 5 then s.onPort (p + 1) fun y => { y with state := 0 } else s

theorem State.pairUp_wired (s : State) (p : Nat) (g : Bool) : Wired s (s.pairUp p g) := by
  unfold State.pairUp
  split
  · exact s.onPort_wired _ _
  · split
    · exact s.onPort_wired _ _
    · exact .refl s

theorem State.pairUp_port_self (s : State) (p : Nat) (g : Bool) : (s.pairUp p g).port p = s.port p := by
  have hne : p ≠ p + 1 := Nat.ne_of_lt p.lt_succ_self
  unfold State.pairUp
  split
  · exact s.onPort_port_ne _ hne
  · split
    · exact s.onPort_port_ne _ hne
    · rfl

/-- The state in which a port sends its link parameters. -/
def State.linkUp (s : State) (p : Nat) (g : Bool) (credits : List Nat) : State :=
  let s := { s with fabric := { s.fabric with taken := s.fabric.taken.filter fun t => !(t.1 = p / 2 && t.2 = p) } }
  (s.setPort p ((s.port p).training g credits)).pairUp p g

theorem State.linkUp_port_self (s : State) (p : Nat) (g : Bool) (credits : List Nat) : (s.linkUp p g credits).port p = (s.port p).training g credits := by
  unfold State.linkUp
  dsimp only
  rw [State.pairUp_port_self]
  exact State.setPort_port_self _ _ _

theorem State.linkUp_wired (s : State) (p : Nat) (g : Bool) (credits : List Nat) : Wired s (s.linkUp p g credits) := by
  unfold State.linkUp
  dsimp only
  refine Wired.trans ?_ (State.pairUp_wired _ p g)
  exact ⟨rfl, List.prefix_rfl⟩

theorem exec_portBringUp {g : Bool} (hg : g = s.gangs p) (hup : s.vbusUp = true) (hp : p < 64) (hmask : (policy s 0x6000 1).testBit p = true)
    (hdown : (s.port p).up = false) (hfive : (s.port p).state ≠ 5) (hclk : s.fabric.refclk.getD (p / 16) false = true)
    (hpair : g = true → p % 2 = 0 ∧ (s.port (p + 1)).up = false)
    (hlanes : ∀ i, i ≤ (if g = true then 8 else 4) → ∃ k, laneFound found i = some k ∧ s.laneBad k = false) :
    exec (.portBringUp p found credits) s =
      .next ((pump p [(s.linkUp p g credits).mgmt p 1] [] (s.linkUp p g credits)).advertise p 18) := by
  have harm : exec (.portBringUp p found credits) s = execPortBringUp p found credits s := rfl
  have hgood : s.badLanes found (List.range ((if g = true then 8 else 4) + 1)) = [] :=
    State.badLanes_none fun i hi => hlanes i (Nat.lt_succ_iff.mp (List.mem_range.mp hi))
  have hodd : (g && decide (p % 2 = 1)) = false := by
    cases g
    · rfl
    · have := (hpair rfl).1
      simp [this]
  have hfirst : (g && (s.port (p + 1)).up) = false := by
    cases g
    · rfl
    · rw [(hpair rfl).2]
      rfl
  have hstate : ((s.linkUp p g credits).port p).state ≠ 0 := by
    rw [State.linkUp_port_self]
    exact Nat.one_ne_zero
  rw [harm, execPortBringUp, ← hg]
  dsimp only
  rw [if_neg (by simp [hup, Nat.not_le.mpr hp, hmask, hdown, hfive, hclk, hodd, hfirst, -Bool.and_eq_true, -List.getD_eq_getElem?_getD]), hgood,
    State.failLanes_none (by simp)]
  exact congrArg _ (if_neg hstate)

theorem portComesUp {g : Bool} (hg : g = s.gangs p) (hup : s.vbusUp = true) (hp : p < 64) (hmask : (policy s 0x6000 1).testBit p = true)
    (hdown : (s.port p).up = false) (hfive : (s.port p).state ≠ 5) (hclk : s.fabric.refclk.getD (p / 16) false = true)
    (hpair : g = true → p % 2 = 0 ∧ (s.port (p + 1)).up = false)
    (hlanes : ∀ i, i ≤ (if g = true then 8 else 4) → ∃ k, laneFound found i = some k ∧ s.laneBad k = false) :
    Completes (.portBringUp p found credits) s fun s' => (s'.port p).state = 1 ∧ (s'.port p).lanes = List.range (if g = true then 8 else 4) ∧
      (s'.port p).ganged = g ∧ s'.easels = s.easels ∧
      (∀ c, c < 18 → tget 0 (s'.port p).advertised c = credits.getD c 0 ∧ tget 0 (s'.port p).owed c = 0) ∧ MemoryKept s s' := by
  refine ⟨_, exec_portBringUp hg hup hp hmask hdown hfive hclk hpair hlanes, ?_⟩
  have hport := s.linkUp_port_self p g credits
  have hwired := s.linkUp_wired p g credits
  have howed : ((s.linkUp p g credits).port p).Owes 0 := by
    rw [hport]
    refine ⟨rxBuffer, by rw [Port.training, channelTable, ← List.range_eq_range'], fun c => ?_, fun c hc => absurd hc c.not_lt_zero⟩
    unfold rxBuffer
    split
    · decide
    · split <;> decide
  generalize s.linkUp p g credits = t at hport hwired howed ⊢
  have hsent := pump_sent p [t.mgmt p 1] [] t
  have hpaid := State.advertise_owes 18 (pump_owes [t.mgmt p 1] [] howed)
  have hall := hsent.ports.trans (State.advertise_controlled _ p 18).ports
  generalize State.advertise _ p 18 = u at hpaid hall ⊢
  obtain ⟨hself, -⟩ := hall.port p
  obtain ⟨f, hf, -, hzero⟩ := hpaid
  have hkept := hwired.trans hall.wired
  refine ⟨by rw [hself, hport]; rfl, by rw [hself, hport]; rfl, by rw [hself, hport]; rfl, hkept.easels, fun c hc => ⟨?_, ?_⟩, hkept.memoryKept⟩
  · rw [hself, hport]
    have hadv := tget_channelTable 0 (fun c => credits.getD c 0) (Nat.zero_le c) (Nat.zero_add 18 ▸ hc)
    rw [channelTable, ← List.range_eq_range'] at hadv
    exact hadv
  · rw [hf, tget_channelTable 0 f (Nat.zero_le c) (by omega)]
    exact hzero c (by omega)

/-! ### LINK_PARAMETERS and POSITION_ANNOUNCEMENT -/

variable {a : Arrival} {n : Nat}

/-- An arrival handled: it is gone, and its credit is owed or returned. -/
theorem State.handled_wired (s : State) (n : Nat) (a : Arrival) : Wired s (s.handled n a) := by
  have hdrop : Wired s { s with fabric := { s.fabric with received := dropAt s.fabric.received n } } := ⟨rfl, List.prefix_rfl⟩
  exact hdrop.trans (State.returnCredit_controlled _ a).ports.wired

theorem State.handled_port (s : State) (n : Nat) (a : Arrival) (q : Nat) : (s.port q).Controls ((s.handled n a).port q) :=
  (State.returnCredit_controlled { s with fabric := { s.fabric with received := dropAt s.fabric.received n } } a).port q

section
variable (h : x.Controls y)
include h
theorem Port.Controls.state : y.state = x.state := by rw [h]
theorem Port.Controls.up : y.up = x.up := by rw [h]; rfl
theorem Port.Controls.lanes : y.lanes = x.lanes := by rw [h]
theorem Port.Controls.ganged : y.ganged = x.ganged := by rw [h]
end

theorem upState_up (g : Bool) (n : Nat) : (upState g n = 2 || upState g n = 3 || upState g n = 4) = true := by
  unfold upState
  split <;> split <;> rfl

/-- The code of a port's lanes in its link parameters. -/
def laneCode (n : Nat) : Nat := if n = 8 then 2 else if n = 4 then 1 else 0

/-- The port's own parameters agree with those of its peer. -/
def State.agrees (s : State) (x : Port) (b : List Byte) : Prop :=
  (at8 b 8 1).testBit 0 = true ∧ (s.position ≠ 0xFFFFF → at8 b 4 4 ≠ s.position) ∧ (at8 b 8 1).testBit 1 = x.ganged ∧
    at8 b 8 1 / 4 = laneCode x.lanes.length

theorem exec_linkParameters (h : s.arrival n 8 = some a) (ha : a.packet.a = 1) (hm : mgmtOk a.packet.payload = true)
    (h1 : at8 a.packet.payload 0 1 = 1) (hl : linked s a.port = true) :
    (s.agrees (s.port a.port) a.packet.payload → exec (.linkParameters n) s =
      .next (((s.handled n a).setPort a.port { (s.handled n a).port a.port with
        state := upState (s.port a.port).ganged (s.port a.port).lanes.length, peer := some (at8 a.packet.payload 4 4) }).pumpPort a.port)) ∧
    (¬ s.agrees (s.port a.port) a.packet.payload → exec (.linkParameters n) s = .next ((s.handled n a).portDown a.port 3)) := by
  have hport := s.handled_port n a a.port
  have hposition : (s.handled n a).position = s.position := by
    unfold State.position policy
    rw [(s.handled_wired n a).dict]
  have hl' := State.linked_of hl
  have hrun : exec (.linkParameters n) s = .next
      (if !(at8 a.packet.payload 8 1).testBit 0 || (s.position != 0xFFFFF && at8 a.packet.payload 4 4 = s.position) ||
          (at8 a.packet.payload 8 1).testBit 1 != (s.port a.port).ganged ||
          at8 a.packet.payload 8 1 / 4 != laneCode (s.port a.port).lanes.length then (s.handled n a).portDown a.port 3
        else ((s.handled n a).setPort a.port { (s.handled n a).port a.port with
          state := upState (s.port a.port).ganged (s.port a.port).lanes.length, peer := some (at8 a.packet.payload 4 4) }).pumpPort a.port) := by
    have harm : exec (.linkParameters n) s = execLinkParameters n s := rfl
    rw [harm, execLinkParameters, h]
    dsimp only
    rw [hport.up, hport.state, hport.ganged, hport.lanes, hposition, hl', if_neg (by simp [ha]), if_neg (by simp [hm, h1]), if_neg (by decide)]
    exact (apply_ite Host.Outcome.next _ _ _).symm
  constructor
  · rintro ⟨hbit, hother, hgang, hlanes⟩
    rw [hrun, if_neg]
    simp only [hbit, hgang, hlanes, Bool.not_true, bne_self_eq_false, Bool.or_false, Bool.false_or, Bool.and_eq_true, bne_iff_ne, decide_eq_true_eq]
    exact fun hboth => hother hboth.1 hboth.2
  · intro hno
    rw [hrun, if_pos]
    by_contra hall
    simp only [Bool.or_eq_true, Bool.not_eq_true', Bool.and_eq_true, bne_iff_ne, decide_eq_true_eq, not_or, not_and, not_not,
      Bool.not_eq_false] at hall
    obtain ⟨⟨⟨hbit, hother⟩, hgang⟩, hlanes⟩ := hall
    exact hno ⟨hbit, hother, hgang, hlanes⟩

theorem exec_positionAnnouncement (h : s.arrival n 8 = some a) (ha : a.packet.a = 2) (hm : mgmtOk a.packet.payload = true)
    (h2 : at8 a.packet.payload 0 1 = 2) : exec (.positionAnnouncement n) s =
    .next ((s.handled n a).onPort a.port fun x => { x with peer := some (at8 a.packet.payload 4 4) }) := by
  have harm : exec (.positionAnnouncement n) s = execPositionAnnouncement n s := rfl
  rw [harm, execPositionAnnouncement, h]
  dsimp only
  rw [if_neg (by simp [ha]), if_neg (by simp [hm, h2])]

/-- Parameters that agree bring the port up. -/
theorem parametersAgree (h : s.arrival n 8 = some a) (ha : a.packet.a = 1) (hm : mgmtOk a.packet.payload = true)
    (h1 : at8 a.packet.payload 0 1 = 1) (hl : linked s a.port = true) (hagrees : s.agrees (s.port a.port) a.packet.payload) :
    Completes (.linkParameters n) s fun s' => (s'.port a.port).state = upState (s.port a.port).ganged (s.port a.port).lanes.length ∧
      (s'.port a.port).up = true ∧ (s'.port a.port).peer = some (at8 a.packet.payload 4 4) ∧ s'.easels = s.easels ∧ MemoryKept s s' := by
  refine ⟨_, (exec_linkParameters h ha hm h1 hl).1 hagrees, ?_⟩
  have hset := State.setPort_port_self (s.handled n a) a.port { (s.handled n a).port a.port with
    state := upState (s.port a.port).ganged (s.port a.port).lanes.length, peer := some (at8 a.packet.payload 4 4) }
  have hwired := (s.handled_wired n a).trans (State.setPort_wired _ a.port { (s.handled n a).port a.port with
    state := upState (s.port a.port).ganged (s.port a.port).lanes.length, peer := some (at8 a.packet.payload 4 4) })
  generalize (s.handled n a).setPort a.port _ = t at hset hwired ⊢
  have hpump := t.pumpPort_sent a.port
  have hself := hpump.port.1
  have hall := hwired.trans hpump.ports.wired
  refine ⟨by rw [hself, hset], ?_, by rw [hself, hset], hall.easels, hall.memoryKept⟩
  rw [hself, hset]
  exact upState_up _ _

/-! ### SER_WINDOW_END -/

variable {lane errors : Nat} {trained : Bool}

theorem exec_serWindowEnd_good (hgood : s.laneBad errors = false) : exec (.serWindowEnd p lane errors trained found) s = .next s := by
  have harm : exec (.serWindowEnd p lane errors trained found) s = execSerWindowEnd p lane errors trained s found := rfl
  rw [harm, execSerWindowEnd]
  exact if_pos (by simp [hgood])

/-- The state in which a lane has failed. -/
def State.laneLost (s : State) (p lane errors : Nat) : State :=
  s.laneFails p lane (errorRatio errors) (insertSet (s.port p).failed lane)

theorem exec_serWindowEnd_bad (hup : (s.port p).up = true) (hlane : lane ∈ (s.port p).lanes) (hbad : s.laneBad errors = true) :
    exec (.serWindowEnd p lane errors trained found) s =
      .next (if ((s.laneLost p lane errors).port p).lanes.isEmpty then s.laneLost p lane errors else (s.laneLost p lane errors).retrain p trained found) := by
  have harm : exec (.serWindowEnd p lane errors trained found) s = execSerWindowEnd p lane errors trained s found := rfl
  rw [harm, execSerWindowEnd]
  dsimp only
  rw [if_neg (by simp [hup, hlane, hbad])]
  exact (apply_ite Host.Outcome.next _ _ _).symm

/-- A lane that fails leaves its port lanes to run on, or the port is down. -/
theorem State.laneLost_runs (hlane : lane ∈ (s.port p).lanes) : ((s.laneLost p lane errors).port p).lanes ≠ [] ∨
    ((s.laneLost p lane errors).port p).up = false := by
  have hfull : 2 ≤ (if (s.port p).ganged = true then 8 else 4) / 2 := by split <;> decide
  unfold State.laneLost State.laneFails
  dsimp only
  generalize (if (s.port p).ganged = true then 8 else 4) = full at hfull ⊢
  rw [if_neg (by simpa using hlane)]
  split
  · refine .inl ?_
    have hself (x : Port) (l : Tab Nat) : ({ s.setPort p x with fabric := { (s.setPort p x).fabric with taken := l } } : State).port p = x :=
      State.setPort_port_self s p x
    rw [State.reportDevice_port, hself]
    exact fun hnil => List.ne_nil_of_mem hlane (List.map_eq_nil_iff.mp hnil)
  · split
    · exact .inr (State.portDown_down _ _ _).1
    · next hmany =>
      refine .inl fun hnil => ?_
      rw [State.reportDevice_port, State.setPort_port_self] at hnil
      have hlen := congrArg List.length hnil
      rw [List.length_take, List.length_nil] at hlen
      simp only [Bool.or_eq_true, decide_eq_true_eq, not_or, not_lt] at hmany
      omega

/-- A lane of the port that fails while its pair's spare is free. -/
theorem laneSpared (hup : (s.port p).up = true) (hlane : lane ∈ (s.port p).lanes) (hbad : s.laneBad errors = true)
    (hfree : ∀ t ∈ s.fabric.taken, t.1 ≠ p / 2) (hspare : spareLane (s.port p).ganged ∉ (s.port p).failed) (hne : lane ≠ spareLane (s.port p).ganged)
    (hfailed : ∀ i ∈ (s.port p).failed, i ∉ (s.port p).lanes)
    (hgood : LanesGood s found ((s.port p).lanes.filter (· != lane)) (spareLane (s.port p).ganged)) :
    Completes (.serWindowEnd p lane errors true found) s fun s' =>
      (s'.port p).lanes = (s.port p).lanes.map (fun l => if l = lane then spareLane (s.port p).ganged else l) ∧
      lane ∈ (s'.port p).failed ∧ (p / 2, p) ∈ s'.fabric.taken ∧ (s'.port p).replay = (s.port p).replay := by
  refine ⟨_, exec_serWindowEnd_bad hup hlane hbad, ?_⟩
  have hclear : spareLane (s.port p).ganged ∉ insertSet (s.port p).failed lane := by
    rw [mem_insertSet]
    exact not_or.mpr ⟨hne.symm, hspare⟩
  have hlost : s.laneLost p lane errors = (s.spared p lane).reportDevice 0x0702 0x08 (laneUnit p (s.port p).ganged lane) (errorRatio errors) (p / 2) :=
    State.laneFails_spared hlane hfree hclear _
  have hrec := (s.spared p lane).reportDevice_records 0x0702 0x08 (laneUnit p (s.port p).ganged lane) (errorRatio errors) (p / 2)
  rw [← hlost] at hrec
  have hport : (s.laneLost p lane errors).port p = (s.port p).spared lane := by
    rw [hlost, State.reportDevice_port, State.spared_port_self]
  have hvalues : (s.laneLost p lane errors).dict.values = s.dict.values := hrec.values
  have htaken : (s.laneLost p lane errors).fabric.taken = tset s.fabric.taken (p / 2) p := congrArg Fabric.taken hrec.fabric
  generalize s.laneLost p lane errors = t at hport hvalues htaken ⊢
  have hmem (i : Nat) (hi : i ∈ (t.port p).lanes) : i ∈ (s.port p).lanes.filter (· != lane) ∨ i = spareLane (s.port p).ganged := by
    rw [hport] at hi
    obtain ⟨l, hl, rfl⟩ := List.mem_map.mp hi
    by_cases hll : l = lane
    · rw [if_pos hll]
      exact .inr rfl
    · rw [if_neg hll]
      exact .inl (List.mem_filter.mpr ⟨hl, by simpa using hll⟩)
  have hretrain : t.retrain p true found = t.trainAgain p := by
    have hlaneBad (k : Nat) : t.laneBad k = s.laneBad k := by rw [State.laneBad, policy_of_values hvalues, State.laneBad]
    refine State.retrain_good ?_ (fun i hi hin => ?_) fun i hi => ?_
    · rw [hport]
      exact hup
    · rw [hport] at hi
      obtain rfl | hi := (mem_insertSet _ _ _).mp hi
      · obtain h | h := hmem i hin
        · simpa using (List.mem_filter.mp h).2
        · exact hne h
      · obtain h | h := hmem i hin
        · exact hfailed i hi (List.mem_of_mem_filter h)
        · exact hspare (h ▸ hi)
    · have hspare' : spareLane (t.port p).ganged = spareLane (s.port p).ganged := by rw [hport]; rfl
      obtain ⟨k, hk, hkgood⟩ := hgood i (by
        obtain h | h := hi
        · exact hmem i h
        · exact .inr (h.trans hspare'))
      exact ⟨k, hk, (hlaneBad k).trans hkgood⟩
  have hsome : (t.port p).lanes.isEmpty = false := by
    rw [hport, List.isEmpty_eq_false_iff]
    exact fun hnil => List.ne_nil_of_mem hlane (List.map_eq_nil_iff.mp hnil)
  obtain ⟨hself, -, -, htaken'⟩ := t.trainAgain_spec p
  have hlanes : (t.port p).again.lanes = ((s.port p).spared lane).lanes := by rw [← hport]; rfl
  have hfailed' : (t.port p).again.failed = insertSet (s.port p).failed lane := by
    have h : (t.port p).failed = insertSet (s.port p).failed lane := by rw [hport]; rfl
    exact h
  have hreplay : (t.port p).again.replay = (s.port p).replay := by
    have h : (t.port p).replay = (s.port p).replay := by rw [hport]; rfl
    exact h
  rw [if_neg (by simp [hsome]), hretrain]
  refine ⟨hself.lanes.trans hlanes, ?_, ?_, hself.replay.trans hreplay⟩
  · rw [hself.failed, hfailed']
    exact (mem_insertSet _ _ _).mpr (.inl rfl)
  · rw [htaken', htaken]
    exact mem_tset_self _ _ _

end

/-- Settles O43: each event of a port's life. -/
theorem portsComeAndGo : Obligations.PortsComeAndGo := by
  unfold Obligations.PortsComeAndGo
  refine ⟨?_, fun s p lanes credits hfive => ?_, fun s k a b h hb hm => ⟨fun ha h1 hl agrees hagrees => ?_, fun ha h2 => ?_⟩,
    fun s p lane errors found hup hlane => ⟨fun hgood trained => exec_serWindowEnd_good hgood, laneSpared hup hlane, fun hbad => ?_⟩,
    fun s die hdie => ⟨_, rfl, ?_, ?_⟩, fun s die => ⟨_, rfl, rfl⟩⟩
  · rintro s p lanes credits g n hg rfl hup hp hmask hdown hfive hclk hpair hlanes
    exact portComesUp hg hup hp hmask hdown hfive hclk hpair hlanes
  · have harm : exec (.portBringUp p lanes credits) s = execPortBringUp p lanes credits s := rfl
    rw [harm, execPortBringUp]
    exact if_pos (by simp [hfive])
  · subst hb
    refine ⟨fun hyes => parametersAgree h ha hm h1 hl (hagrees.mp hyes), fun hno => ?_⟩
    exact ⟨_, (exec_linkParameters h ha hm h1 hl).2 (fun hyes => hno (hagrees.mpr hyes)), (State.portDown_down _ _ _).1⟩
  · subst hb
    refine ⟨_, exec_positionAnnouncement h ha hm h2, ?_⟩
    have hwired := (s.handled_wired k a).trans (State.onPort_wired _ a.port fun x => { x with peer := some (at8 a.packet.payload 4 4) })
    refine ⟨?_, ?_, hwired.easels, hwired.memoryKept⟩
    · rw [State.onPort_port_self]
    · rw [State.onPort_port_self]
      exact (s.handled_port k a a.port).state
  · refine ⟨_, exec_serWindowEnd_bad hup hlane hbad, ?_⟩
    split
    · next hempty => exact (State.laneLost_runs hlane).resolve_left (not_not.mpr (List.isEmpty_iff.mp hempty))
    · exact (State.portDown_down _ _ _).1
  · refine foldl_keeps_state (fun s s' => s'.fabric.refclk = s.fabric.refclk) (fun _ => rfl) (fun _ _ _ h k => k.trans h) _ (fun s p => ?_) _ _
    split
    · exact s.portDown_refclk p 4
    · rfl
  · intro p hlo hhi
    refine foldl_establishes (I := fun _ => True) (P := fun s : State => (s.port p).up = false) (x := p) (by rw [mem_span]; omega)
      (fun _ _ _ => trivial) (fun s _ => ?_) (fun s _ q _ h => ?_) trivial
    · split
      · exact (s.portDown_down p 4).1
      · next h => simpa using h
    · split
      · exact s.portDown_stays q 4 h
      · exact h

end Sys2Proof.Machine
end

section
/-! PROOFS. Packets of far devices, and answers to the device's own requests (R264, R284, R339 to R343). -/

namespace Sys2Proof.Machine

section
variable {s t u : State} {k e p : Nat} {a : Arrival} {q : Packet}

/-! ### What a packet's handling leaves -/

theorem Wired.of_fabric {f : Fabric} : Wired s { s with fabric := f } := ⟨rfl, List.prefix_rfl⟩

theorem State.respond_ports (s : State) (q : Packet) (status : Nat) (payload : List Byte) (poisoned : Bool) :
    PortsOnly s (s.respond q status payload poisoned) := by
  unfold State.respond
  split
  · exact (s.sendOn_sent _ _).ports
  · exact .refl s

theorem State.countPort_wired (s : State) (p i n : Nat) : Wired s (s.countPort p i n) := s.onPort_wired p _

theorem State.discard_wired (s : State) (k : Nat) (a : Arrival) (stat : Nat) : Wired s (s.discard k a stat) :=
  (s.handled_wired k a).trans (State.countPort_wired _ _ _ _)

theorem State.landed_wired (s : State) (k : Nat) (a : Arrival) : Wired s (s.landed k a) := by
  unfold State.landed
  split
  · exact .of_fabric
  · exact s.handled_wired k a

theorem Wired.mem (h : Wired s t) : t.mem = s.mem := by rw [h.rest]
theorem Wired.flash (h : Wired s t) : t.flash = s.flash := by rw [h.rest]

theorem Wired.tiers (h : Wired s t) : t.tiers = s.tiers := by rw [h.rest]

/-- What a store leaves below flash depends on what was there and on the pages written. -/
theorem Wired.writeAt_mem (h : Wired s t) (a : Nat) (bs : List Byte) : (t.writeAt a bs).mem = (s.writeAt a bs).mem := by
  by_cases hbs : bs = []
  · rw [hbs]
    exact h.mem
  · rw [State.writeAt_mem hbs, State.writeAt_mem hbs, State.fillsPage, State.fillsPage, h.mem, h.tiers]

/-! ### FABRIC_WRITE (R343) -/

/-- A write landed: the bytes, and the marks of a poisoned packet. -/
theorem State.landWrite_spec (s : State) (e : Nat) (q : Packet) : MemoryOnly s (s.landWrite e q) ∧
    (s.landWrite e q).mem = (s.writeVa e q.a q.payload).mem ∧ (s.landWrite e q).flash = (s.writeVa e q.a q.payload).flash := by
  have hwrite := s.writeVa_memoryOnly e q.a q.payload
  unfold State.landWrite
  dsimp only
  split
  · generalize s.writeVa e q.a q.payload = w at hwrite ⊢
    refine foldl_keeps_state (fun u v => MemoryOnly s u → (MemoryOnly s v ∧ v.mem = u.mem ∧ v.flash = u.flash)) (fun u h => ⟨h, rfl, rfl⟩)
      (fun a b c h h' hs => ?_) _ (fun u c hu => ?_) _ w hwrite
    · obtain ⟨hb, hmem, hflash⟩ := h hs
      obtain ⟨hc, hmem', hflash'⟩ := h' hb
      exact ⟨hc, hmem'.trans hmem, hflash'.trans hflash⟩
    · split
      · exact ⟨hu.trans (u.setPoison_memoryOnly _ _), rfl, rfl⟩
      · exact ⟨hu, rfl, rfl⟩
  · exact ⟨hwrite, rfl, rfl⟩

theorem exec_fabricWrite_lands (h : s.arrival k 1 = some a) (hreach : s.reach a.packet = .easel e ∨ (s.reach a.packet = .faulted e ∧ s.orphaned a.packet = true))
    (hm : s.mapped e a.packet.a a.packet.payload.length = true) :
    exec (.fabricWrite k) s = .next (((s.landWrite e a.packet).landed k a).respond a.packet 0 [] false) := by
  have harm : exec (.fabricWrite k) s = execFabricWrite k s := rfl
  rw [harm, execFabricWrite, h]
  dsimp only
  obtain hr | ⟨hr, horphan⟩ := hreach
  · rw [hr]
    exact if_neg (by simp [hm])
  · rw [hr]
    exact if_pos (by simp [hm, horphan])

/-- A write that is not taken changes the fabric alone. -/
theorem exec_fabricWrite_refused (h : s.arrival k 1 = some a) (hreach : s.reach a.packet = .none ∨ s.reach a.packet = .epoch ∨
    (s.reach a.packet = .faulted e ∧ s.orphaned a.packet = false) ∨
    (s.reach a.packet = .easel e ∧ s.mapped e a.packet.a a.packet.payload.length = false)) :
    Completes (.fabricWrite k) s fun s' => Wired s s' := by
  have harm : exec (.fabricWrite k) s = execFabricWrite k s := rfl
  unfold Completes
  rw [harm, execFabricWrite, h]
  dsimp only
  obtain hr | hr | ⟨hr, horphan⟩ | ⟨hr, hm⟩ := hreach
  · rw [hr]
    exact ⟨_, rfl, s.discard_wired k a 5⟩
  · rw [hr]
    exact ⟨_, rfl, s.discard_wired k a 4⟩
  · rw [hr]
    exact ⟨_, if_neg (by simp [horphan]), (s.discard_wired k a 5).trans (State.respond_ports _ _ _ _ _).wired⟩
  · rw [hr]
    exact ⟨_, if_pos (by simp [hm]), (s.handled_wired k a).trans (State.respond_ports _ _ _ _ _).wired⟩

/-! ### FABRIC_READ_REQUEST (R343) -/

theorem exec_fabricReadRequest (h : s.arrival k 2 = some a) : Completes (.fabricReadRequest k) s fun s' => Wired s s' ∧
    (s.reach a.packet = .easel e → s.mapped e a.packet.a (a.packet.b / 65536) = true → s' = (s.handled k a).respond a.packet
      (if s.poisonedVa e a.packet.a (a.packet.b / 65536) = true then 2 else 0) ((s.readVa e a.packet.a (a.packet.b / 65536)).getD [])
      (s.poisonedVa e a.packet.a (a.packet.b / 65536))) := by
  have harm : exec (.fabricReadRequest k) s = execFabricReadRequest k s := rfl
  unfold Completes
  rw [harm, execFabricReadRequest, h]
  dsimp only
  have hanswer (t : State) (h : Wired s t) (st : Nat) (bs : List Byte) (bad : Bool) : Wired s (t.respond a.packet st bs bad) :=
    h.trans (State.respond_ports _ _ _ _ _).wired
  cases hr : s.reach a.packet with
  | none => exact ⟨_, rfl, s.discard_wired k a 5, fun h => by cases h⟩
  | epoch => exact ⟨_, rfl, s.discard_wired k a 4, fun h => by cases h⟩
  | faulted f => exact ⟨_, rfl, hanswer _ (s.discard_wired k a 5) _ _ _, fun h => by cases h⟩
  | easel f =>
    by_cases hm : s.mapped f a.packet.a (a.packet.b / 65536) = true
    · refine ⟨_, if_neg (by simp [hm]), hanswer _ (s.handled_wired k a) _ _ _, fun h _ => ?_⟩
      cases h
      rfl
    · refine ⟨_, if_pos (by simp [hm]), hanswer _ (s.handled_wired k a) _ _ _, fun h hm' => ?_⟩
      cases h
      exact absurd hm' hm

/-! ### FABRIC_SIGNAL (R284, R285) -/

variable {d : SemDecl} {key n : Nat}

/-- A signal applied at its semaphore, with those it releases. -/
theorem State.applySignal_lands (hkey : (s.easel e).semKey d = some key) (hsound : (s.sem key).sound = true) (hpos : 0 < n) (hword : n ≤ 0xFFFFFFFF)
    (hmax : (s.sem key).count.toNat + n ≤ (s.sem key).max) (cls unit : Nat) :
    (s.applySignal e d n cls unit).sems = tset s.sems key ((s.sem key).signal n).1 ∧ MemoryKept s (s.applySignal e d n cls unit) := by
  rw [State.applySignal_taken hkey hsound hpos hword hmax]
  obtain ⟨hsems, hmem⟩ := State.releaseAll_kept ((s.sem key).signal n).2 (s.setSem key ((s.sem key).signal n).1)
  exact ⟨hsems, memoryKept_trans (memoryKept_of_fields rfl rfl rfl rfl) hmem.2⟩

theorem exec_fabricSignal (h : s.arrival k 4 = some a) (hr : s.reach a.packet = .easel e) (hd : (s.easel e).semDecl a.packet.a = some d) :
    ∃ st, exec (.fabricSignal k) s = .next
      (((s.handled k a).applySignal e d (a.packet.b / 65536) 0x08 (a.port + a.packet.channel * 65536)).respond a.packet st [] false) := by
  have harm : exec (.fabricSignal k) s = execFabricSignal k s := rfl
  rw [harm, execFabricSignal, h]
  dsimp only
  rw [hr]
  dsimp only
  rw [(s.handled_wired k a).easel e, hd]
  exact ⟨_, rfl⟩

/-! ### Requests gone -/

/-- A fault takes from the fabric only posted signals that pend and requests of its easel. -/
theorem State.fault_fabric (s : State) (e : Nat) : ∃ (fences : List Fence) (remotes : List Remote), (s.fault e).fabric = { s.fabric with fences := fences, remotes := remotes } ∧
    fences.Sublist s.fabric.fences ∧ remotes.Sublist s.fabric.remotes := by
  unfold State.fault
  split
  · have hform : (s.undefineForming e).fabric = s.fabric := by rw [(s.undefineForming_only e).1]
    have hstop : ((s.undefineForming e).undefineUpdate e).fabric = s.fabric := by rw [((s.undefineForming e).undefineUpdate_only e).1, hform]
    have heq (u : State) (l : List Xfer) (y : List Issue) : (State.onEasel { u.stopEasel e with streams := { (u.stopEasel e).streams with
        issues := (u.stopEasel e).streams.issues ++ y, xfers := (u.stopEasel e).streams.xfers ++ l } } e fun x => { x with mode := .faulted }).fabric =
        (u.stopEasel e).fabric := rfl
    dsimp only
    rw [heq]
    unfold State.stopEasel
    generalize (s.undefineForming e).undefineUpdate e = v at hstop ⊢
    rw [← hstop]
    exact ⟨_, _, rfl, List.filter_sublist, List.filter_sublist⟩
  · exact ⟨_, _, rfl, List.Sublist.refl _, List.Sublist.refl _⟩

theorem State.faultWith_fabric (s : State) (code e cls unit seq a b : Nat) :
    ∃ (fences : List Fence) (remotes : List Remote), (s.faultWith code e cls unit seq a b).fabric = { s.fabric with fences := fences, remotes := remotes } ∧
      fences.Sublist s.fabric.fences ∧ remotes.Sublist s.fabric.remotes := by
  obtain ⟨fences, remotes, h, hf, hr⟩ := (s.reportSeq code e cls unit seq a b).fault_fabric e
  have hrec := (s.reportSeq_records code e cls unit seq a b).fabric
  rw [hrec] at h hf hr
  exact ⟨fences, remotes, h, hf, hr⟩

variable {tag : Nat} {r : Remote}

/-- The drain that a request served ended. -/
def State.endDrainOf (s : State) (r : Remote) : State :=
  match r.drain with
  | some l => s.onEasel r.easel fun x => { x with drains := x.drains.filter (·.id != l / 8) }
  | none => s

/-- The other requests of that drain gone. -/
def State.dropDrainRemotes (s : State) (r : Remote) : State :=
  { s with fabric := { s.fabric with remotes := s.fabric.remotes.filter fun (q : Remote) =>
    !(q.easel = r.easel && r.drain.isSome && q.drain = r.drain) } }

theorem State.remoteFails_eq (s : State) (r : Remote) (code status : Nat) : ∃ unit seq, s.remoteFails r code status =
    ((s.endDrainOf r).dropDrainRemotes r).faultWith code r.easel (s.remoteUnit r).1 unit seq r.packet.a (status + r.packet.destination * 256) :=
  ⟨_, _, rfl⟩

theorem State.endDrainOf_kept (s : State) (r : Remote) : (s.endDrainOf r).works r.easel = s.works r.easel ∧ (s.endDrainOf r).fabric = s.fabric := by
  unfold State.endDrainOf
  split
  · refine ⟨?_, rfl⟩
    rw [State.works, State.onEasel_easel_self, State.works]
    rfl
  · exact ⟨rfl, rfl⟩

theorem State.dropDrainRemotes_works (s : State) (r : Remote) (e : Nat) : (s.dropDrainRemotes r).works e = s.works e := rfl

theorem State.dropDrainRemotes_subset {q : Remote} (h : q ∈ (s.dropDrainRemotes r).fabric.remotes) : q ∈ s.fabric.remotes :=
  List.mem_of_mem_filter h

/-- A refusal or a timeout puts the sending easel in FAULTED, and the request is gone. -/
theorem State.remoteFails_stops (hw : s.works r.easel = true) (hgone : s.remote tag = none) (code status : Nat) :
    ((s.remoteFails r code status).easel r.easel).mode = .faulted ∧ (s.remoteFails r code status).remote tag = none := by
  obtain ⟨unit, seq, heq⟩ := s.remoteFails_eq r code status
  obtain ⟨hworks, hfabric⟩ := s.endDrainOf_kept r
  obtain ⟨_, remotes, hfault, -, hsub⟩ := ((s.endDrainOf r).dropDrainRemotes r).faultWith_fabric code r.easel (s.remoteUnit r).1 unit seq r.packet.a
    (status + r.packet.destination * 256)
  rw [heq]
  refine ⟨(State.faultWith_stops ((State.dropDrainRemotes_works _ r _).trans (hworks.trans hw)) _ _ _ _ _ _).1, ?_⟩
  have hremotes := congrArg Fabric.remotes hfault
  rw [State.remote, hremotes]
  refine List.find?_eq_none.mpr fun q hq => List.find?_eq_none.mp hgone q ?_
  rw [← hfabric]
  exact State.dropDrainRemotes_subset (hsub.subset hq)

theorem State.dropRemote_gone (s : State) (tag : Nat) : (s.dropRemote tag).remote tag = none :=
  List.find?_eq_none.mpr fun q hq => by simpa using (List.mem_filter.mp hq).2

/-! ### Answers (R264, R342) -/

variable {x : Xfer} {bs : List Byte}

theorem State.account_mode (s : State) (c : IssueCtx) (n : Nat) (counts : Option (List Nat)) (f : Nat) :
    ((s.account c n counts).easel f).mode = (s.easel f).mode := by
  have hhealth (t : State) (e stream step : Nat) (h : List Nat) : ((t.countHealth e stream step h).easel f).mode = (t.easel f).mode := by
    unfold State.countHealth
    by_cases hf : f = e
    · subst hf
      rw [State.onEasel_easel_self]
      rfl
    · rw [State.onEasel_easel_ne _ _ _ _ hf]
      rfl
  have hslice (t : State) (sl seq i m : Nat) : (t.bumpSlice sl seq i m).easel f = t.easel f := rfl
  have hset (t : State) (w : Flow) : (t.setFlow w).easel f = t.easel f := rfl
  unfold State.account
  dsimp only
  rw [hslice]
  split
  · split
    · rw [hset]
    · rw [hhealth, hset]
  · rw [hset]

/-- A transfer acknowledged: it is gone, and its bytes count as landed. -/
theorem State.xferAcked_spec (hx : s.xfer x.id = some x) (bs : List Byte) : let u := s.xferAcked x.id bs
    u = { s with easels := u.easels, streams := u.streams } ∧ (∀ f, (u.easel f).mode = (s.easel f).mode) ∧
      u.streams.xfers = s.streams.xfers.filter (·.id != x.id) ∧
      ∀ c, s.xferCtx x = some c → (u.flow c.y.tile c.y.stream c.y.seq).landed = (s.flow c.y.tile c.y.stream c.y.seq).landed + bs.length := by
  unfold State.xferAcked
  rw [hx]
  dsimp only
  cases hctx : s.xferCtx x with
  | none => exact ⟨rfl, fun _ => rfl, rfl, fun c h => by cases h⟩
  | some c =>
    dsimp only
    generalize some (healthOf _ _ _) = counts
    obtain ⟨hframe, hxfers, hflow⟩ := s.account_frame c bs.length counts
    have hmode := s.account_mode c bs.length counts
    generalize s.account c bs.length counts = v at hframe hxfers hflow hmode ⊢
    refine ⟨?_, hmode, congrArg _ hxfers, fun c' h => ?_⟩
    · unfold State.dropXfer
      conv_lhs => rw [hframe]
    · cases h
      exact hflow

theorem State.xfer_of_remote (h : r.xfer.bind s.xfer = some x) : s.xfer x.id = some x := by
  obtain ⟨i, -, hi⟩ := Option.bind_eq_some_iff.mp h
  have hid : x.id = i := by simpa using List.find?_some hi
  rw [hid]
  exact hi

/-- The state in which an answer is acted on. -/
def State.answeredBy (s : State) (k : Nat) (a : Arrival) : State := (s.handled k a).dropRemote a.packet.b

theorem State.answeredBy_wired (s : State) (k : Nat) (a : Arrival) : Wired s (s.answeredBy k a) := (s.handled_wired k a).trans .of_fabric

variable (h : s.arrival k 3 = some a) (hnone : s.reach a.packet ≠ .none) (hepoch : s.reach a.packet ≠ .epoch) (hr : s.remote a.packet.b = some r)
include h hnone hepoch hr

theorem exec_fabricResponse_refused (h0 : a.packet.a ≠ 0) (h2 : a.packet.a ≠ 2) :
    exec (.fabricResponse k) s = .next ((s.answeredBy k a).remoteFails r 0x0706 a.packet.a) := by
  have harm : exec (.fabricResponse k) s = execFabricResponse k s := rfl
  rw [harm, execFabricResponse, h]
  dsimp only
  rw [hr]
  cases hreach : s.reach a.packet with
  | none => exact absurd hreach hnone
  | epoch => exact absurd hreach hepoch
  | faulted e => exact if_pos (by simp [h0, h2])
  | easel e => exact if_pos (by simp [h0, h2])

theorem refusalStops (h0 : a.packet.a ≠ 0) (h2 : a.packet.a ≠ 2) (hw : s.works r.easel = true) : Completes (.fabricResponse k) s fun s' =>
    (s'.easel r.easel).mode = .faulted ∧ s'.remote a.packet.b = none := by
  have hgone : (s.answeredBy k a).remote a.packet.b = none := State.dropRemote_gone _ _
  refine ⟨_, exec_fabricResponse_refused h hnone hepoch hr h0 h2, State.remoteFails_stops ?_ hgone _ _⟩
  rw [State.works, (s.answeredBy_wired k a).easel]
  exact hw

/-- What an answer to a transfer's request does. -/
theorem exec_fabricResponse_xfer (hok : a.packet.a = 0 ∨ a.packet.a = 2) (hx : r.xfer.bind s.xfer = some x) :
    (∀ src addr n position channel slot, x.move = .remoteWrite src addr n position channel slot →
      exec (.fabricResponse k) s = .next ((s.answeredBy k a).xferAcked x.id r.packet.payload)) ∧
    (∀ addr dst position channel, x.move = .remoteRead addr dst a.packet.payload.length position channel →
      exec (.fabricResponse k) s = .next ((s.answeredBy k a).landRead x.id dst a.packet.payload (a.packet.a = 2 || a.packet.poisoned))) := by
  have harm : exec (.fabricResponse k) s = execFabricResponse k s := rfl
  have hcond : (a.packet.a != 0 && a.packet.a != 2) = false := by
    obtain h | h := hok <;> simp [h]
  constructor
  · intro src addr n position channel slot hm
    rw [harm, execFabricResponse, h]
    dsimp only
    rw [hr, hcond]
    dsimp only
    rw [hx]
    dsimp only
    rw [hm]
    cases hreach : s.reach a.packet with
    | none => exact absurd hreach hnone
    | epoch => exact absurd hreach hepoch
    | faulted e => rfl
    | easel e => rfl
  · intro addr dst position channel hm
    rw [harm, execFabricResponse, h]
    dsimp only
    rw [hr, hcond]
    dsimp only
    rw [hx]
    dsimp only
    rw [hm]
    dsimp only
    rw [bne_self_eq_false]
    cases hreach : s.reach a.packet with
    | none => exact absurd hreach hnone
    | epoch => exact absurd hreach hepoch
    | faulted e => rfl
    | easel e => rfl

theorem writeAnswered (hok : a.packet.a = 0 ∨ a.packet.a = 2) (hx : r.xfer.bind s.xfer = some x) {src addr n position channel slot}
    (hm : x.move = .remoteWrite src addr n position channel slot) : Completes (.fabricResponse k) s fun s' =>
      MemoryKept s s' ∧ (∀ f, (s'.easel f).mode = (s.easel f).mode) ∧ s'.remote a.packet.b = none ∧
      s'.streams.xfers = s.streams.xfers.filter (·.id != x.id) ∧
      ∀ c, s.xferCtx x = some c → (s'.flow c.y.tile c.y.stream c.y.seq).landed =
        (s.flow c.y.tile c.y.stream c.y.seq).landed + r.packet.payload.length := by
  refine ⟨_, (exec_fabricResponse_xfer h hnone hepoch hr hok hx).1 src addr n position channel slot hm, ?_⟩
  have hwired := s.answeredBy_wired k a
  have hgone : (s.answeredBy k a).remote a.packet.b = none := State.dropRemote_gone _ _
  generalize s.answeredBy k a = v at hwired hgone ⊢
  have hstreams : v.streams = s.streams := by rw [hwired.rest]
  have hxv : v.xfer x.id = some x := by
    rw [State.xfer, hstreams]
    exact State.xfer_of_remote hx
  have hctx : v.xferCtx x = s.xferCtx x := by
    rw [hwired.rest]
    rfl
  have hflow (t st q : Nat) : v.flow t st q = s.flow t st q := by rw [State.flow, hstreams, State.flow]
  obtain ⟨hframe, hmode, hxfers, hlanded⟩ := State.xferAcked_spec hxv r.packet.payload
  refine ⟨memoryKept_trans hwired.memoryKept ?_, fun f => (hmode f).trans (by rw [hwired.easel]), ?_, hxfers.trans (by rw [hstreams]), fun c hc => ?_⟩
  · rw [hframe]
    exact memoryKept_of_fields rfl rfl rfl rfl
  · rw [hframe]
    exact hgone
  · rw [hlanded c (hctx.trans hc), hflow]

theorem readAnswered (hok : a.packet.a = 0 ∨ a.packet.a = 2) (hx : r.xfer.bind s.xfer = some x) {addr dst position channel}
    (hm : x.move = .remoteRead addr dst a.packet.payload.length position channel) (hdst : dst < flashBase) :
    Completes (.fabricResponse k) s fun s' => s'.mem = (s.writeAt dst a.packet.payload).mem ∧ s'.remote a.packet.b = none ∧
      s'.streams.xfers = s.streams.xfers.filter (·.id != x.id) ∧ s'.tiles = s.tiles ∧ s'.sems = s.sems := by
  refine ⟨_, (exec_fabricResponse_xfer h hnone hepoch hr hok hx).2 addr dst position channel hm, ?_⟩
  have hwired := s.answeredBy_wired k a
  have hgone : (s.answeredBy k a).remote a.packet.b = none := State.dropRemote_gone _ _
  generalize s.answeredBy k a = v at hwired hgone ⊢
  generalize (decide (a.packet.a = 2) || a.packet.poisoned) = bad
  have hwritten := hwired.writeAt_mem dst a.packet.payload
  have hland : MemoryOnly v (v.landBytes dst a.packet.payload bad) ∧ (v.landBytes dst a.packet.payload bad).mem = (v.writeAt dst a.packet.payload).mem := by
    have hw := v.writeAt_memoryOnly dst a.packet.payload
    unfold State.landBytes
    rw [if_neg (Nat.not_le.mpr hdst)]
    dsimp only
    split
    · exact ⟨hw.trans (State.setPoison_memoryOnly _ _ _), rfl⟩
    · exact ⟨hw, rfl⟩
  obtain ⟨⟨hmemory, -, -⟩, hmem⟩ := hland
  unfold State.landRead
  generalize v.landBytes dst a.packet.payload bad = w at hmemory hmem ⊢
  have hstreams : w.streams = s.streams := by
    rw [hmemory, hwired.rest]
  have hxw : w.xfer x.id = some x := by
    rw [State.xfer, hstreams]
    exact State.xfer_of_remote hx
  obtain ⟨hframe, -, hxfers, -⟩ := State.xferAcked_spec hxw a.packet.payload
  refine ⟨?_, ?_, hxfers.trans (by rw [hstreams]), ?_, ?_⟩
  · rw [hframe]
    exact hmem.trans hwritten
  · rw [hframe, hmemory]
    exact hgone
  · rw [hframe, hmemory]
    exact hwired.tiles
  · rw [hframe, hmemory]
    exact hwired.sems

end

/-- Settles O44: packets that come, and answers to those that left. -/
theorem farRequests : Obligations.FarRequests := by
  unfold Obligations.FarRequests
  refine ⟨fun s k e a h => ⟨fun hreach hm => ?_, fun hreach => ?_⟩, fun s k e a h => ?_, fun s k e key a d h hr hd hkey hsound hpos hword hmax => ?_,
    fun s k a r h hnone hepoch hr => ⟨fun h0 h2 hw => refusalStops h hnone hepoch hr h0 h2 hw, fun hok x hx => ⟨fun _ _ _ _ _ _ hm => writeAnswered h hnone hepoch hr hok hx hm,
      fun _ _ _ _ hm hdst => readAnswered h hnone hepoch hr hok hx hm hdst⟩⟩, fun s tag r hr hw => ?_⟩
  · refine ⟨_, exec_fabricWrite_lands h hreach hm, ?_⟩
    obtain ⟨⟨hframe, -, -⟩, hmem, hflash⟩ := s.landWrite_spec e a.packet
    have hwired := (State.landed_wired (s.landWrite e a.packet) k a).trans (State.respond_ports _ a.packet 0 [] false).wired
    refine ⟨hwired.mem.trans hmem, hwired.flash.trans hflash, ?_, ?_, ?_⟩
    · rw [hwired.easels, hframe]
    · rw [hwired.tiles, hframe]
    · rw [hwired.sems, hframe]
  · obtain ⟨u, hexec, hwired⟩ := exec_fabricWrite_refused h hreach
    exact ⟨u, hexec, hwired.memoryKept, hwired.easels, hwired.tiles, hwired.sems⟩
  · obtain ⟨u, hexec, hwired, hread⟩ := exec_fabricReadRequest (e := e) h
    refine ⟨u, hexec, hwired.memoryKept, hwired.easels, hwired.tiles, hwired.sems, fun hr hm bad hbad => ?_⟩
    subst hbad
    exact hread hr hm
  · obtain ⟨st, hexec⟩ := exec_fabricSignal h hr hd
    refine ⟨_, hexec, ?_⟩
    have hwired := s.handled_wired k a
    generalize s.handled k a = t at hwired ⊢
    have hsem (j : Nat) : t.sem j = s.sem j := by rw [State.sem, hwired.sems, State.sem]
    obtain ⟨hsems, hmem⟩ := State.applySignal_lands (s := t) (by rw [hwired.easel]; exact hkey) (by rw [hsem]; exact hsound) hpos hword
      (by rw [hsem]; exact hmax) 0x08 (a.port + a.packet.channel * 65536)
    have hanswer := (State.respond_ports (t.applySignal e d (a.packet.b / 65536) 0x08 (a.port + a.packet.channel * 65536)) a.packet st [] false)
    refine ⟨hanswer.sems.trans (hsems.trans ?_), memoryKept_trans (memoryKept_trans hwired.memoryKept hmem) hanswer.memoryKept⟩
    rw [hwired.sems, hsem]
  · have hexec : exec (.remoteAccessTimeout tag) s = .next ((s.dropRemote tag).remoteFails r 0x0705 0xFF) := by
      have harm : exec (.remoteAccessTimeout tag) s = execRemoteAccessTimeout tag s := rfl
      rw [harm, execRemoteAccessTimeout, hr]
    exact ⟨_, hexec, State.remoteFails_stops (s := s.dropRemote tag) hw (State.dropRemote_gone _ _) _ _⟩

end Sys2Proof.Machine
end

section
/-! PROOFS. Posted signals and their fence keys (R285 to R289, R300). -/

namespace Sys2Proof.Machine

section
variable {s t : State} {k e position channel tag : Nat} {a : Arrival} {f : Fence}

/-! ### Fence keys -/

/-- The key of a fence. -/
def Fence.keyed (f : Fence) (position channel tag : Nat) : Prop := f.position = position ∧ f.channel = channel ∧ f.tag = tag

theorem State.fence_keyed (h : s.fence position channel tag = some f) : f.keyed position channel tag := by
  have hf := List.find?_some h
  simpa [Fence.keyed, and_assoc] using hf

theorem State.fence_of_fences (h : t.fabric.fences = s.fabric.fences) (position channel tag : Nat) :
    t.fence position channel tag = s.fence position channel tag := by rw [State.fence, h, State.fence]

theorem State.dropFence_gone (hf : f.keyed position channel tag) : (s.dropFence f).fence position channel tag = none := by
  obtain ⟨rfl, rfl, rfl⟩ := hf
  refine List.find?_eq_none.mpr fun g hg => ?_
  have hother := (List.mem_filter.mp hg).2
  simpa [imp_iff_not_or, or_assoc] using hother

theorem State.setFence_set (hf : f.keyed position channel tag) : (s.setFence f).fence position channel tag = some f := by
  have hgone := State.dropFence_gone (s := s) hf
  obtain ⟨rfl, rfl, rfl⟩ := hf
  unfold State.fence at hgone ⊢
  unfold State.setFence
  dsimp only
  rw [List.find?_append, hgone]
  simp

/-- The packets of an arrival's key that have landed. -/
def State.landedFor (s : State) (a : Arrival) : Nat :=
  match s.fence a.packet.source a.packet.channel a.packet.tag with | some f => f.landed | none => 0

theorem State.fenceFor_keyed (s : State) (a : Arrival) : (s.fenceFor a).keyed a.packet.source a.packet.channel a.packet.tag ∧
    (s.fenceFor a).landed = s.landedFor a := by
  unfold State.fenceFor State.landedFor
  cases h : s.fence a.packet.source a.packet.channel a.packet.tag with
  | some f => exact ⟨State.fence_keyed h, rfl⟩
  | none => exact ⟨⟨rfl, rfl, rfl⟩, rfl⟩

theorem Controlled.fences (h : Controlled s t) : t.fabric.fences = s.fabric.fences := by rw [h.rest]
theorem Controlled.landed (h : Controlled s t) : t.fabric.landed = s.fabric.landed := by rw [h.rest]
theorem Controlled.orphans (h : Controlled s t) : t.fabric.orphans = s.fabric.orphans := by rw [h.rest]

/-! ### A pending signal -/

variable {sem count n key : Nat} {d : SemDecl}

/-- A key whose packets have not all landed is kept. -/
theorem State.fenceReady_waits (h : f.posted = none ∨ ∃ sem count n, f.posted = some (sem, count, n) ∧ f.landed < count) :
    s.fenceReady f = s.setFence f := by
  unfold State.fenceReady
  obtain h | ⟨sem, count, n, h, hlt⟩ := h
  · rw [h]
  · rw [h]
    exact if_pos hlt

theorem State.release_fabric (s : State) (w : Who) : (s.release w).fabric = s.fabric := by cases w <;> rfl

theorem State.applySignal_fabric (hkey : (s.easel e).semKey d = some key) (hsound : (s.sem key).sound = true) (hpos : 0 < n) (hword : n ≤ 0xFFFFFFFF)
    (hmax : (s.sem key).count.toNat + n ≤ (s.sem key).max) (cls unit : Nat) : (s.applySignal e d n cls unit).fabric = s.fabric := by
  rw [State.applySignal_taken hkey hsound hpos hword hmax]
  exact foldl_keeps_state (fun s s' => s'.fabric = s.fabric) (fun _ => rfl) (fun _ _ _ h k => k.trans h) _
    (fun s (w : Waiter) => s.release_fabric w.who) _ _

/-- The pending signal of a key whose packets have all landed is applied, and the key is free. -/
theorem State.fenceReady_applies (hp : f.posted = some (sem, count, n)) (hcount : count ≤ f.landed) (ho : s.ownerOf 7 f.channel = some e)
    (hd : (s.easel e).semDecl sem = some d) (hkey : (s.easel e).semKey d = some key) (hsound : (s.sem key).sound = true) (hpos : 0 < n)
    (hword : n ≤ 0xFFFFFFFF) (hmax : (s.sem key).count.toNat + n ≤ (s.sem key).max) :
    (s.fenceReady f).sems = tset s.sems key ((s.sem key).signal n).1 ∧ MemoryKept s (s.fenceReady f) ∧ (s.fenceReady f).fabric = (s.dropFence f).fabric := by
  have heq : s.fenceReady f = (s.dropFence f).applySignal e d n 0x08 (f.port + f.channel * 65536) := by
    have ho' : (s.dropFence f).ownerOf 7 f.channel = some e := ho
    have hd' : ((s.dropFence f).easel e).semDecl sem = some d := hd
    unfold State.fenceReady
    rw [hp]
    dsimp only
    rw [if_neg (Nat.not_lt.mpr hcount), ho']
    dsimp only
    rw [hd']
  obtain ⟨hsems, hmem⟩ := State.applySignal_lands (s := s.dropFence f) hkey hsound hpos hword hmax 0x08 (f.port + f.channel * 65536)
  rw [heq]
  exact ⟨hsems, memoryKept_trans (memoryKept_of_fields rfl rfl rfl rfl) hmem, State.applySignal_fabric (s := s.dropFence f) hkey hsound hpos hword hmax _ _⟩

/-! ### POSTED_SIGNAL (R285, R286) -/

/-- The state without the arrival. -/
def State.unreceived (s : State) (k : Nat) : State := { s with fabric := { s.fabric with received := dropAt s.fabric.received k } }

theorem exec_postedSignal (h : s.arrival k 5 = some a) (hr : s.reach a.packet = .easel e) (hfree : s.postedBlocked a.packet = false)
    (hd : (s.easel e).semDecl a.packet.a = some d) : exec (.postedSignal k) s = .next
      (((s.unreceived k).fenceReady { s.fenceFor a with posted := some (a.packet.a, a.packet.b % 65536, a.packet.b / 65536) }).returnTagged a) := by
  have harm : exec (.postedSignal k) s = execPostedSignal k s := rfl
  have hd' : ((s.unreceived k).easel e).semDecl a.packet.a = some d := hd
  rw [harm, execPostedSignal, h]
  dsimp only
  rw [hr]
  dsimp only
  rw [hfree, if_neg (by decide)]
  unfold State.unreceived at hd'
  rw [hd']
  rfl

theorem State.reach_owner {q : Packet} (hr : s.reach q = .easel e) : s.ownerOf 7 q.channel = some e := by
  unfold State.reach at hr
  split at hr
  · cases hr
  · next f ho =>
    split at hr
    · cases hr
    · split at hr
      · cases hr
      · cases hr
        exact ho

theorem postedWaits (h : s.arrival k 5 = some a) (hr : s.reach a.packet = .easel e) (hfree : s.postedBlocked a.packet = false)
    (hd : (s.easel e).semDecl a.packet.a = some d)
    (hlt : s.landedFor a < a.packet.b % 65536) :
    Completes (.postedSignal k) s fun s' => s'.sems = s.sems ∧ s'.easels = s.easels ∧ MemoryKept s s' ∧
      ∃ f, s'.fence a.packet.source a.packet.channel a.packet.tag = some f ∧ f.posted = some (a.packet.a, a.packet.b % 65536, a.packet.b / 65536) ∧
        f.landed = s.landedFor a := by
  refine ⟨_, exec_postedSignal h hr hfree hd, ?_⟩
  obtain ⟨hkeyed, hlanded⟩ := s.fenceFor_keyed a
  rw [State.fenceReady_waits (.inr ⟨_, _, _, rfl, hlanded ▸ hlt⟩)]
  have hkeyed' : Fence.keyed { s.fenceFor a with posted := some (a.packet.a, a.packet.b % 65536, a.packet.b / 65536) } a.packet.source
    a.packet.channel a.packet.tag := hkeyed
  have hset := State.setFence_set (s := s.unreceived k) hkeyed'
  have hwired : Wired s ((s.unreceived k).setFence { s.fenceFor a with posted := some (a.packet.a, a.packet.b % 65536, a.packet.b / 65536) }) := .of_fabric
  generalize (s.unreceived k).setFence _ = t at hset hwired ⊢
  have hback := t.returnTagged_controlled a
  have hall := hwired.trans hback.ports.wired
  refine ⟨hall.sems, hall.easels, hall.memoryKept, _, (State.fence_of_fences hback.fences _ _ _).trans hset, rfl, hlanded⟩

theorem postedApplies (h : s.arrival k 5 = some a) (hr : s.reach a.packet = .easel e) (hfree : s.postedBlocked a.packet = false)
    (hd : (s.easel e).semDecl a.packet.a = some d)
    (hcount : a.packet.b % 65536 ≤ s.landedFor a)
    (hkey : (s.easel e).semKey d = some key) (hsound : (s.sem key).sound = true) (hpos : 0 < a.packet.b / 65536) (hword : a.packet.b / 65536 ≤ 0xFFFFFFFF)
    (hmax : (s.sem key).count.toNat + a.packet.b / 65536 ≤ (s.sem key).max) : Completes (.postedSignal k) s fun s' =>
      s'.sems = tset s.sems key ((s.sem key).signal (a.packet.b / 65536)).1 ∧ MemoryKept s s' ∧
      s'.fence a.packet.source a.packet.channel a.packet.tag = none := by
  refine ⟨_, exec_postedSignal h hr hfree hd, ?_⟩
  obtain ⟨hkeyed, hlanded⟩ := s.fenceFor_keyed a
  have hkeyed' : Fence.keyed { s.fenceFor a with posted := some (a.packet.a, a.packet.b % 65536, a.packet.b / 65536) } a.packet.source
    a.packet.channel a.packet.tag := hkeyed
  have howner : (s.unreceived k).ownerOf 7 (s.fenceFor a).channel = some e := by
    rw [hkeyed.2.1]
    exact State.reach_owner hr
  obtain ⟨hsems, hmem, hfabric⟩ := State.fenceReady_applies (s := s.unreceived k) (f := { s.fenceFor a with
    posted := some (a.packet.a, a.packet.b % 65536, a.packet.b / 65536) }) rfl (hlanded ▸ hcount) howner hd hkey hsound hpos hword hmax
  have hgone := State.dropFence_gone (s := s.unreceived k) hkeyed'
  generalize State.fenceReady _ _ = t at hsems hmem hfabric ⊢
  have hback := t.returnTagged_controlled a
  refine ⟨hback.ports.sems.trans hsems, memoryKept_trans (memoryKept_trans ?_ hmem) hback.ports.memoryKept, ?_⟩
  · exact memoryKept_of_fields rfl rfl rfl rfl
  · refine (State.fence_of_fences hback.fences _ _ _).trans ((State.fence_of_fences ?_ _ _ _).trans hgone)
    rw [hfabric]

/-! ### FENCE_PACKET_LANDED (R286, R287) -/

/-- The state without the landed packet. -/
def State.unlanded (s : State) (k : Nat) : State := { s with fabric := { s.fabric with landed := dropAt s.fabric.landed k } }

theorem exec_fencePacketLanded (h : s.fabric.landed[k]? = some a) (hf : s.fence a.packet.source a.packet.channel a.packet.tag = some f)
    (ho : s.ownerOf 7 a.packet.channel = some e) (hepoch : a.packet.epoch = s.epoch a.packet.channel) : exec (.fencePacketLanded k) s = .next
      ((if s.orphaned a.packet then (s.unlanded k).countPort a.port 6 1
        else (s.unlanded k).fenceReady { f with landed := f.landed + 1, port := a.port }).returnTagged a) := by
  have harm : exec (.fencePacketLanded k) s = execFencePacketLanded k s := rfl
  have ho' : (s.unlanded k).ownerOf 7 a.packet.channel = some e := ho
  have hfor : (s.unlanded k).fenceFor a = f := by
    have hf' : (s.unlanded k).fence a.packet.source a.packet.channel a.packet.tag = some f := hf
    unfold State.fenceFor
    rw [hf']
  have hepoch' : (a.packet.epoch != (s.unlanded k).epoch a.packet.channel) = false := by
    have hsame : (s.unlanded k).epoch a.packet.channel = s.epoch a.packet.channel := rfl
    rw [hsame, hepoch, bne_self_eq_false]
  unfold State.unlanded at ho' hfor hepoch'
  rw [harm, execFencePacketLanded, h]
  dsimp only
  rw [if_neg (by simp [hf]), ho', hepoch', hfor]
  rfl

theorem orphanCounted (h : s.fabric.landed[k]? = some a) (hf : s.fence a.packet.source a.packet.channel a.packet.tag = some f)
    (ho : s.ownerOf 7 a.packet.channel = some e) (hepoch : a.packet.epoch = s.epoch a.packet.channel) (horphan : s.orphaned a.packet = true) :
    Completes (.fencePacketLanded k) s fun s' => s'.sems = s.sems ∧ s'.easels = s.easels ∧ MemoryKept s s' ∧
      s'.fabric.landed = dropAt s.fabric.landed k ∧ s'.fabric.fences = s.fabric.fences := by
  refine ⟨_, exec_fencePacketLanded h hf ho hepoch, ?_⟩
  rw [if_pos horphan]
  have hback := ((s.unlanded k).countPort a.port 6 1).returnTagged_controlled a
  have hdropped : Wired s (s.unlanded k) := .of_fabric
  have hall := (hdropped.trans (State.countPort_wired _ a.port 6 1)).trans hback.ports.wired
  exact ⟨hall.sems, hall.easels, hall.memoryKept, hback.landed.trans rfl, hback.fences.trans rfl⟩

theorem landedWaits (h : s.fabric.landed[k]? = some a) (hf : s.fence a.packet.source a.packet.channel a.packet.tag = some f)
    (ho : s.ownerOf 7 a.packet.channel = some e) (hepoch : a.packet.epoch = s.epoch a.packet.channel) (horphan : s.orphaned a.packet = false)
    (hwait : f.posted = none ∨ ∃ sem count n, f.posted = some (sem, count, n) ∧ f.landed + 1 < count) :
    Completes (.fencePacketLanded k) s fun s' => s'.sems = s.sems ∧ s'.easels = s.easels ∧ MemoryKept s s' ∧
      s'.fabric.landed = dropAt s.fabric.landed k ∧
      s'.fence a.packet.source a.packet.channel a.packet.tag = some { f with landed := f.landed + 1, port := a.port } := by
  refine ⟨_, exec_fencePacketLanded h hf ho hepoch, ?_⟩
  have hown := State.fence_keyed hf
  have hkeyed : Fence.keyed { f with landed := f.landed + 1, port := a.port } a.packet.source a.packet.channel a.packet.tag := hown
  rw [if_neg (by simp [horphan]), State.fenceReady_waits (f := { f with landed := f.landed + 1, port := a.port }) hwait]
  have hset := State.setFence_set (s := s.unlanded k) hkeyed
  have hwired : Wired s ((s.unlanded k).setFence { f with landed := f.landed + 1, port := a.port }) := .of_fabric
  have hlanded : ((s.unlanded k).setFence { f with landed := f.landed + 1, port := a.port }).fabric.landed = dropAt s.fabric.landed k := rfl
  generalize (s.unlanded k).setFence _ = t at hset hwired hlanded ⊢
  have hback := t.returnTagged_controlled a
  have hall := hwired.trans hback.ports.wired
  exact ⟨hall.sems, hall.easels, hall.memoryKept, hback.landed.trans hlanded, (State.fence_of_fences hback.fences _ _ _).trans hset⟩

theorem landedApplies (h : s.fabric.landed[k]? = some a) (hf : s.fence a.packet.source a.packet.channel a.packet.tag = some f)
    (ho : s.ownerOf 7 a.packet.channel = some e) (hepoch : a.packet.epoch = s.epoch a.packet.channel) (horphan : s.orphaned a.packet = false)
    (hp : f.posted = some (sem, count, n)) (hcount : count ≤ f.landed + 1) (hd : (s.easel e).semDecl sem = some d)
    (hkey : (s.easel e).semKey d = some key) (hsound : (s.sem key).sound = true) (hpos : 0 < n) (hword : n ≤ 0xFFFFFFFF)
    (hmax : (s.sem key).count.toNat + n ≤ (s.sem key).max) : Completes (.fencePacketLanded k) s fun s' =>
      s'.sems = tset s.sems key ((s.sem key).signal n).1 ∧ MemoryKept s s' ∧ s'.fence a.packet.source a.packet.channel a.packet.tag = none := by
  refine ⟨_, exec_fencePacketLanded h hf ho hepoch, ?_⟩
  have hown := State.fence_keyed hf
  have hkeyed : Fence.keyed { f with landed := f.landed + 1, port := a.port } a.packet.source a.packet.channel a.packet.tag := hown
  have howner : (s.unlanded k).ownerOf 7 f.channel = some e := by
    rw [(State.fence_keyed hf).2.1]
    exact ho
  rw [if_neg (by simp [horphan])]
  obtain ⟨hsems, hmem, hfabric⟩ := State.fenceReady_applies (s := s.unlanded k) (f := { f with landed := f.landed + 1, port := a.port }) hp hcount
    howner hd hkey hsound hpos hword hmax
  have hgone := State.dropFence_gone (s := s.unlanded k) hkeyed
  generalize State.fenceReady _ _ = t at hsems hmem hfabric ⊢
  have hback := t.returnTagged_controlled a
  refine ⟨hback.ports.sems.trans hsems, memoryKept_trans (memoryKept_trans ?_ hmem) hback.ports.memoryKept, ?_⟩
  · exact memoryKept_of_fields rfl rfl rfl rfl
  · refine (State.fence_of_fences hback.fences _ _ _).trans ((State.fence_of_fences ?_ _ _ _).trans hgone)
    rw [hfabric]

/-! ### REMOTE_SIGNAL_ORPHAN and FENCE_KEY_EXPIRY (R287, R288) -/

/-- The state in which a signal is an orphan. -/
def State.orphan (s : State) (f : Fence) (position channel tag : Nat) : State :=
  { s.dropFence f with fabric := { (s.dropFence f).fabric with orphans := (position, channel, tag) :: s.fabric.orphans } }

theorem exec_remoteSignalOrphan (hf : s.fence position channel tag = some f) (ho : s.ownerOf 7 channel = some e) (hp : f.posted ≠ none) :
    ∃ unit seq a b, exec (.remoteSignalOrphan position channel tag) s =
      .next ((s.orphan f position channel tag).settleCredit.faultWith 0x0405 e 0x08 unit seq a b) := by
  have harm : exec (.remoteSignalOrphan position channel tag) s = execRemoteSignalOrphan position channel tag s := rfl
  obtain ⟨⟨sem, count, n⟩, hposted⟩ := Option.ne_none_iff_exists'.mp hp
  rw [harm, execRemoteSignalOrphan, hf]
  dsimp only
  rw [hposted, ho]
  exact ⟨_, _, _, _, rfl⟩

theorem orphanStops (hf : s.fence position channel tag = some f) (ho : s.ownerOf 7 channel = some e) (hp : f.posted ≠ none) (hw : s.works e = true) :
    Completes (.remoteSignalOrphan position channel tag) s fun s' => (s'.easel e).mode = .faulted ∧ s'.fence position channel tag = none ∧
      (position, channel, tag) ∈ s'.fabric.orphans ∧ ∀ j, (s'.sem j).count = (s.sem j).count := by
  obtain ⟨unit, seq, x, y, hexec⟩ := exec_remoteSignalOrphan hf ho hp
  refine ⟨_, hexec, ?_⟩
  have hgone : (s.orphan f position channel tag).fence position channel tag = none := State.dropFence_gone (State.fence_keyed hf)
  have hwired : Wired s (s.orphan f position channel tag) := .of_fabric
  have hin : (position, channel, tag) ∈ (s.orphan f position channel tag).fabric.orphans := List.mem_cons_self
  generalize s.orphan f position channel tag = t at hgone hwired hin ⊢
  have hsettle := t.settleCredit_controlled
  have hall := hwired.trans hsettle.ports.wired
  rw [← State.fence_of_fences hsettle.fences] at hgone
  rw [← hsettle.orphans] at hin
  generalize t.settleCredit = u at hgone hin hall ⊢
  have hworks : u.works e = true := by
    rw [State.works, hall.easel]
    exact hw
  obtain ⟨hmode, -, hcounts, -⟩ := State.faultWith_stops hworks 0x0405 0x08 unit seq x y
  obtain ⟨fences, _, hfabric, hsub, -⟩ := u.faultWith_fabric 0x0405 e 0x08 unit seq x y
  generalize u.faultWith 0x0405 e 0x08 unit seq x y = v at hmode hcounts hfabric ⊢
  refine ⟨hmode, ?_, ?_, fun j => (hcounts j).trans (by rw [State.sem, hall.sems, State.sem])⟩
  · rw [State.fence, hfabric]
    exact List.find?_eq_none.mpr fun g hg => List.find?_eq_none.mp hgone g (hsub.subset hg)
  · rw [hfabric]
    exact hin

theorem exec_fenceKeyExpiry (hf : s.fence position channel tag = some f) (hp : f.posted = none) : exec (.fenceKeyExpiry position channel tag) s =
    .next ((s.dropFence f).settleCredit.countPort f.port 6 1) := by
  have harm : exec (.fenceKeyExpiry position channel tag) s = execFenceKeyExpiry position channel tag s := rfl
  rw [harm, execFenceKeyExpiry, hf]
  exact if_pos (by simp [hp])

theorem State.countPort_stats (s : State) (p n : Nat) {i : Nat} (hi : i < 8) :
    ((s.countPort p i n).port p).stats.getD i 0 = (s.port p).stats.getD i 0 + n := by
  unfold State.countPort
  rw [State.onPort_port_self]
  simp [hi]

theorem keyExpires (hf : s.fence position channel tag = some f) (hp : f.posted = none) :
    Completes (.fenceKeyExpiry position channel tag) s fun s' => s'.fence position channel tag = none ∧
      (s'.port f.port).stats.getD 6 0 = (s.port f.port).stats.getD 6 0 + 1 ∧ s' = { s with fabric := s'.fabric, out := s'.out } := by
  refine ⟨_, exec_fenceKeyExpiry hf hp, ?_⟩
  have hsettle := (s.dropFence f).settleCredit_controlled
  have hgone := State.dropFence_gone (s := s) (State.fence_keyed hf)
  have hport : (s.dropFence f).port f.port = s.port f.port := rfl
  have hstats : ((s.dropFence f).settleCredit.port f.port).stats = (s.port f.port).stats := by
    rw [hsettle.port f.port, hport]
  have hchoices : (s.dropFence f).settleCredit.choices = s.choices := by rw [hsettle.rest]; rfl
  have hwired : Wired s (s.dropFence f).settleCredit := Wired.trans .of_fabric hsettle.ports.wired
  rw [← State.fence_of_fences hsettle.fences] at hgone
  generalize (s.dropFence f).settleCredit = t at hgone hstats hchoices hwired ⊢
  refine ⟨hgone, (State.countPort_stats t f.port 1 (by decide)).trans (by rw [hstats]), ?_⟩
  have h := (hwired.trans (t.countPort_wired f.port 6 1)).rest
  have hcount : (t.countPort f.port 6 1).choices = s.choices := hchoices
  rwa [hcount] at h

end

/-- Settles O45: keys, their packets and their signals. -/
theorem fencesHold : Obligations.FencesHold := by
  unfold Obligations.FencesHold
  refine ⟨?_, fun s k e a f h hf ho hepoch => ⟨orphanCounted h hf ho hepoch, landedWaits h hf ho hepoch,
    fun sem count n key d horphan hp hcount hd hkey hsound hpos hword hmax => landedApplies h hf ho hepoch horphan hp hcount hd hkey hsound hpos hword hmax⟩,
    fun s position channel tag e f hf ho => ⟨orphanStops hf ho, keyExpires hf⟩⟩
  rintro s k e landed count n key a d h hr hfree hd rfl rfl hlanded
  have hlanded' : landed = s.landedFor a := hlanded
  subst hlanded'
  exact ⟨postedWaits h hr hfree hd, postedApplies h hr hfree hd⟩

end Sys2Proof.Machine
end

section
/-! PROOFS. Training steps decided, and reductions (R166, R169, R346 to R354). -/

namespace Sys2Proof.Machine

section
variable {s t w : State} {e p v : Nat}

/-! ### Accesses through arbiters -/

/-- An access whose effect is `go`, in the state that its request has left. -/
theorem throughArbiters_of {c : Instr} {a : Asker} {slack : Nat} {arbs : List Arb} {go : State → State} {P : State → State → Prop}
    (hexec : exec c s = .next (s.atArbiters a slack arbs go)) (hP : ∀ t, t = s ∨ t = s.unask (· == a) → P t (go t)) :
    ThroughArbiters c s a slack arbs P := by
  refine ⟨fun q hq hnone => ⟨_, ?_, hP _ (.inr rfl)⟩, fun hq hnone => ⟨_, ?_, hP _ (.inl rfl)⟩, fun hq hsome => ?_, fun q hq hsome => ?_⟩
  · rw [hexec, State.atArbiters_granted hq hnone]
  · rw [hexec, hnone, State.atArbiters_free hq]
  · rw [hexec, State.atArbiters_asks hq _ hsome]
  · rw [hexec, State.atArbiters, hq]
    exact congrArg _ (if_neg (by simpa using hsome))

/-! ### The verdict of a step (R166, R169) -/

/-- What a decision writes of its easel. -/
def Easel.decide (x : Easel) (v : Verdict) (t : Nat) (skipped : Bool) : Easel :=
  { x with
    verdicts := tset x.verdicts t v, lossNext := some v.next, clean := v.clean, verdictStep := t, verdictSkipped := skipped,
    skippedSteps := x.skippedSteps + skipped.toNat, counts := x.counts.filter (·.step != t) }

theorem State.verdictRecords_records (s : State) (e t nonfinite saturated : Nat) (k : Int) :
    RecordsOnly s (s.verdictRecords e t nonfinite saturated k) := by
  have hreport (b : Bool) (s : State) (code e cls unit a b' : Nat) : RecordsOnly s (if b then s.report code e cls unit a b' else s) := by
    split
    · exact s.report_records _ _ _ _ _ _
    · exact .refl s
  unfold State.verdictRecords
  exact ((hreport _ _ _ _ _ _ _ _).trans (hreport _ _ _ _ _ _ _ _)).trans (hreport _ _ _ _ _ _ _ _)

theorem State.markPartnerLog_memoryOnly (s : State) (e t : Nat) (skipped : Bool) : MemoryOnly s (s.markPartnerLog e t skipped) := by
  unfold State.markPartnerLog
  dsimp only
  split
  · exact .refl s
  · split
    · exact s.writeVa_memoryOnly _ _ _
    · exact .refl s

theorem State.decideStep_easel (s : State) (e t nonfinite saturated : Nat) : EaselRecords ((s.easel e).decide
    (Easel.nextVerdict (s.easel e).lossExp (s.easel e).clean (policy s (0x8040 + e) 3) (nonfinite != 0)) t (nonfinite != 0))
    ((s.decideStep e t nonfinite saturated).easel e) := by
  unfold State.decideStep
  dsimp only
  have hset := State.setEasel_easel_self s e ((s.easel e).decide
    (Easel.nextVerdict (s.easel e).lossExp (s.easel e).clean (policy s (0x8040 + e) 3) (nonfinite != 0)) t (nonfinite != 0))
  have hlog := State.markPartnerLog_memoryOnly (s.setEasel e ((s.easel e).decide
    (Easel.nextVerdict (s.easel e).lossExp (s.easel e).clean (policy s (0x8040 + e) 3) (nonfinite != 0)) t (nonfinite != 0))) e t (nonfinite != 0)
  have hrec := (State.verdictRecords_records (State.markPartnerLog (s.setEasel e ((s.easel e).decide
    (Easel.nextVerdict (s.easel e).lossExp (s.easel e).clean (policy s (0x8040 + e) 3) (nonfinite != 0)) t (nonfinite != 0))) e t (nonfinite != 0))
    e t nonfinite saturated (s.easel e).lossExp).2.1 e
  have heasel : (State.markPartnerLog (s.setEasel e ((s.easel e).decide
    (Easel.nextVerdict (s.easel e).lossExp (s.easel e).clean (policy s (0x8040 + e) 3) (nonfinite != 0)) t (nonfinite != 0))) e t (nonfinite != 0)).easel e =
      (s.easel e).decide (Easel.nextVerdict (s.easel e).lossExp (s.easel e).clean (policy s (0x8040 + e) 3) (nonfinite != 0)) t (nonfinite != 0) := by
    rw [hlog.1]
    exact hset
  rw [heasel] at hrec
  exact hrec

theorem Easel.decide_verdict (x : Easel) (v : Verdict) (t : Nat) (skipped : Bool) : (x.decide v t skipped).verdict t = v := tget_tset_self _ _ _ _

theorem Easel.decide_decided (x : Easel) (v : Verdict) (t : Nat) (skipped : Bool) : (x.decide v t skipped).decided t = true :=
  List.any_eq_true.mpr ⟨_, mem_tset_self x.verdicts t v, by simp⟩

section
variable {x y : Easel} (h : EaselRecords x y)
include h
theorem EaselRecords.verdicts : y.verdicts = x.verdicts := by rw [h]
theorem EaselRecords.verdict (t : Nat) : y.verdict t = x.verdict t := by rw [h]; rfl
theorem EaselRecords.decided (t : Nat) : y.decided t = x.decided t := by rw [h]; rfl
theorem EaselRecords.lossNext : y.lossNext = x.lossNext := by rw [h]
theorem EaselRecords.clean : y.clean = x.clean := by rw [h]
theorem EaselRecords.verdictStep : y.verdictStep = x.verdictStep := by rw [h]
theorem EaselRecords.skippedSteps : y.skippedSteps = x.skippedSteps := by rw [h]
end

theorem Easel.nextVerdict_skipped (k : Int) (clean interval : Nat) : (Easel.nextVerdict k clean interval true) =
    { skipped := true, k, next := max (k - 1) (-16), clean := 0 } := rfl

theorem Easel.nextVerdict_k (k : Int) (clean interval : Nat) (skipped : Bool) : (Easel.nextVerdict k clean interval skipped).k = k ∧
    (Easel.nextVerdict k clean interval skipped).skipped = skipped := by
  unfold Easel.nextVerdict
  cases skipped
  · by_cases h : interval ≤ clean + 1 <;> simp [h]
  · exact ⟨rfl, rfl⟩

theorem State.decideStep_decides (s : State) (e t nonfinite saturated : Nat) : Decided e t nonfinite s (s.decideStep e t nonfinite saturated) := by
  have h := s.decideStep_easel e t nonfinite saturated
  generalize s.decideStep e t nonfinite saturated = u at h ⊢
  obtain ⟨hk, hskipped⟩ := Easel.nextVerdict_k (s.easel e).lossExp (s.easel e).clean (policy s (0x8040 + e) 3) (nonfinite != 0)
  unfold Decided Easel.wasSkipped
  rw [h.decided, h.verdict, h.lossNext, h.clean, h.verdictStep, h.skippedSteps, Easel.decide_decided, Easel.decide_verdict]
  refine ⟨rfl, by rw [hskipped]; simp, hk, rfl, rfl, fun hn => ?_, fun hn => ?_⟩
  · have hbad : (nonfinite != 0) = true := by simpa using hn
    rw [hbad]
    exact ⟨rfl, rfl, rfl⟩
  · subst hn
    refine ⟨rfl, fun hlong => ?_, fun hshort => ?_⟩
    · have hv : Easel.nextVerdict (s.easel e).lossExp (s.easel e).clean (policy s (0x8040 + e) 3) (0 != 0) =
        { skipped := false, k := (s.easel e).lossExp, next := min ((s.easel e).lossExp + 1) 32, clean := 0 } := by
        unfold Easel.nextVerdict
        rw [if_neg (by decide), if_pos hlong]
        rfl
      rw [hv]
      exact ⟨rfl, rfl⟩
    · have hv : Easel.nextVerdict (s.easel e).lossExp (s.easel e).clean (policy s (0x8040 + e) 3) (0 != 0) =
        { skipped := false, k := (s.easel e).lossExp, next := (s.easel e).lossExp, clean := (s.easel e).clean + 1 } := by
        unfold Easel.nextVerdict
        rw [if_neg (by decide), if_neg (Nat.not_le.mpr hshort)]
        rfl
      rw [hv]
      exact ⟨rfl, rfl⟩

/-- A total handled leaves what a decision reads. -/
theorem Wired.decideStep (h : Wired s w) (e t nonfinite saturated : Nat) : Decided e t nonfinite s (w.decideStep e t nonfinite saturated) := by
  have hdecided := w.decideStep_decides e t nonfinite saturated
  unfold Decided at hdecided ⊢
  rwa [h.easel, policy_of_values (congrArg Dict.values h.dict)] at hdecided

/-! ### VERDICT_WORD_SEND, STEP_VERDICT and VERDICT_TIMEOUT -/

theorem State.sendWord_sent {t : Nat} {word : Nat} {k : State} (hp : segmentPort (s.mask v) 0 = some p) (h : s.sendWord v t word = some k) :
    Sent p s k := by
  unfold State.sendWord at h
  rw [hp] at h
  cases h
  exact s.sendOn_sent p _

theorem exec_verdictWordSend {t : Nat} {k : State} (hw : s.works e = true) (hg : s.groupChannel e = some v) (ht : t = (s.easel e).lastDone) (h0 : t ≠ 0)
    (hnot : (s.easel e).decided t = false) (hnew : (s.easel e).wordSent ≠ t)
    (hlog : s.layerOn e 1 = true → ∃ l ∈ (s.easel e).logs, l.step = t ∧ l.phase = 2) (hsend : s.sendWord v t ((s.easel e).word t) = some k) :
    exec (.verdictWordSend e) s = .next ((k.onEasel e fun x => { x with wordSent := t }).markSent e) := by
  have harm : exec (.verdictWordSend e) s = execVerdictWordSend e s := rfl
  have hlogged : (s.layerOn e 1 && !((s.easel e).logs.any fun l => l.step = t && l.phase = 2)) = false := by
    cases hon : s.layerOn e 1 with
    | false => rfl
    | true =>
      obtain ⟨l, hl, hstep, hphase⟩ := hlog hon
      have hany : ((s.easel e).logs.any fun l => l.step = t && l.phase = 2) = true := List.any_eq_true.mpr ⟨l, hl, by simp [hstep, hphase]⟩
      rw [hany]
      rfl
  rw [harm, execVerdictWordSend, hg]
  dsimp only
  rw [← ht, if_neg (by rw [hlogged]; simp [hw, h0, hnot, hnew]), hsend]

theorem exec_stepVerdict_alone {t : Nat} (hw : s.works e = true) (hg : s.groupChannel e = none) (ht : t = (s.easel e).lastDone)
    (hclosed : t = (s.easel e).closedStep) (h0 : t ≠ 0) (hnot : (s.easel e).decided t = false) : exec (.stepVerdict e) s =
    .next (s.decideStep e t ((s.easel e).word t % 2 ^ 32) ((s.easel e).word t / 2 ^ 32)) := by
  have harm : exec (.stepVerdict e) s = execStepVerdict e s := rfl
  rw [harm, execStepVerdict, hg]
  dsimp only
  rw [← ht, ← hclosed]
  exact if_neg (by simp [hw, h0, hnot])

theorem exec_stepVerdict_total {k : Nat} {a : Arrival} (hw : s.works e = true) (hg : s.groupChannel e = some v) (ha : s.totalFor v = some (k, a))
    (hr : (s.easel e).restore = none) (h0 : a.packet.b ≠ 0) (hnot : (s.easel e).decided a.packet.b = false) : exec (.stepVerdict e) s =
    .next (if (s.easel e).wordSent = a.packet.b then
      (s.handled k a).decideStep e a.packet.b (at8 a.packet.payload 0 4) (at8 a.packet.payload 4 4) else s.discard k a 5) := by
  have harm : exec (.stepVerdict e) s = execStepVerdict e s := rfl
  rw [harm, execStepVerdict, hg]
  dsimp only
  rw [ha]
  dsimp only
  rw [hr]
  dsimp only
  by_cases hsent : (s.easel e).wordSent = a.packet.b
  · rw [if_pos hsent, if_pos (by simp [hw, h0, hnot, hsent])]
  · rw [if_neg hsent, if_neg (by simp [hsent])]

theorem exec_verdictTimeout (hg : s.groupChannel e = some v) (h0 : (s.easel e).wordSent ≠ 0) (hnot : (s.easel e).decided (s.easel e).wordSent = false) :
    exec (.verdictTimeout e) s = .next (s.reductionTimedOut e 0x03 (s.sequencer e) (s.easel e).lastSeq (s.easel e).wordSent 0 v) := by
  have harm : exec (.verdictTimeout e) s = execVerdictTimeout e s := rfl
  rw [harm, execVerdictTimeout, hg]
  exact if_pos (by simp [h0, hnot])

theorem State.faultWith_verdicts (hw : s.works e = true) (code cls unit seq a b : Nat) :
    ((s.faultWith code e cls unit seq a b).easel e).verdicts = (s.easel e).verdicts := by
  have hrec := s.reportSeq_records code e cls unit seq a b
  unfold State.faultWith
  rw [State.fault_easel ((hrec.works e).trans hw)]
  have hkept := EaselRecords.verdicts (hrec.2.1 e)
  exact hkept

end

/-- Settles O40: words, totals and the verdict they make. -/
theorem stepsDecided : Obligations.StepsDecided := by
  unfold Obligations.StepsDecided
  refine fun s e hw => ⟨fun v p t k hg ht h0 hnot hnew hlog hp hsend => ?_, fun t hg ht hclosed h0 hnot => ?_,
    fun v k a hg ha hr h0 hnot => ⟨fun hsent => ?_, fun hsent => ?_⟩, fun v hg h0 hnot => ?_⟩
  · refine ⟨_, exec_verdictWordSend hw hg ht h0 hnot hnew hlog hsend, ?_⟩
    have hports := (State.sendWord_sent hp hsend).ports
    unfold State.markSent
    dsimp only
    rw [State.onEasel_easel_self, State.onEasel_easel_self]
    refine ⟨rfl, rfl, rfl, memoryKept_trans hports.memoryKept (memoryKept_of_fields rfl rfl rfl rfl), ?_⟩
    have hkept := congrArg Easel.verdicts (hports.easel e)
    exact hkept
  · exact ⟨_, exec_stepVerdict_alone hw hg ht hclosed h0 hnot, s.decideStep_decides e t _ _⟩
  · refine ⟨_, exec_stepVerdict_total hw hg ha hr h0 hnot, ?_⟩
    rw [if_pos hsent]
    exact (s.handled_wired k a).decideStep e _ _ _
  · refine ⟨_, exec_stepVerdict_total hw hg ha hr h0 hnot, ?_⟩
    rw [if_neg hsent]
    exact ⟨(s.discard_wired k a 5).easels, (s.discard_wired k a 5).memoryKept⟩
  · refine ⟨_, exec_verdictTimeout hg h0 hnot, (State.faultWith_stops hw _ _ _ _ _ _).1, State.faultWith_verdicts hw _ _ _ _ _ _⟩

end Sys2Proof.Machine
end

section
/-! PROOFS. Reductions and the group port mask (R346 to R353). -/

namespace Sys2Proof.Machine

section
variable {s t u : State} {e : Nat}

/-! ### Segments sent -/

/-- Contributions of an easel sent: the fabric, what leaves, and the easel's counts and marks of what it sent. -/
structure Contributed (e : Nat) (s s' : State) : Prop where
  rest : s' = { s with easels := s'.easels, fabric := s'.fabric, out := s'.out, choices := s'.choices }
  easel : s'.easel e = { s.easel e with counts := (s'.easel e).counts, cmds := (s'.easel e).cmds }

theorem Contributed.refl (e : Nat) (s : State) : Contributed e s s := ⟨rfl, rfl⟩

theorem Contributed.trans (h : Contributed e s t) (k : Contributed e t u) : Contributed e s u := by
  refine ⟨?_, ?_⟩
  · rw [k.rest]
    conv_lhs => rw [h.rest]
  · rw [k.easel]
    conv_lhs => rw [h.easel]

theorem Wired.contributed (h : Wired s t) : Contributed e s t := by
  refine ⟨?_, by rw [h.easel]⟩
  conv_lhs => rw [h.rest]
  conv_rhs => rw [h.rest]

theorem State.onEasel_contributed {g : Easel → Easel} (h : g (s.easel e) = { s.easel e with counts := (g (s.easel e)).counts, cmds := (g (s.easel e)).cmds }) :
    Contributed e s (s.onEasel e g) := ⟨rfl, by rw [State.onEasel_easel_self]; exact h⟩

theorem State.sendSegment_contributed (s : State) (e : Nat) (r : RedEntry) (x : Int) (step seg : Nat) :
    Contributed e s (s.sendSegment e r x step seg) := by
  have hsend (t : State) (o : Option Nat) (k : Packet) : Contributed e t (match o with | some p => t.sendOn p k | none => t) := by
    cases o with
    | some p => exact (t.sendOn_sent p k).ports.wired.contributed
    | none => exact .refl e t
  unfold State.sendSegment
  dsimp only
  refine Contributed.trans ?_ (hsend _ _ _)
  split
  · refine State.onEasel_contributed ?_
    rfl
  · refine State.onEasel_contributed ?_
    rfl

theorem State.markSent_contributed (s : State) (e : Nat) : Contributed e s (s.markSent e) := by
  refine State.onEasel_contributed ?_
  rfl

theorem Contributed.memoryKept (h : Contributed e s t) : MemoryKept s t := by
  rw [h.rest]
  exact memoryKept_of_fields rfl rfl rfl rfl

/-! ### REDUCTION_FIRE (R350) -/

variable {r : Nat} {c : Cmd} {d : RedEntry}

/-- The firing that a reduction begins. -/
def State.newFiring (s : State) (e : Nat) (d : RedEntry) (c : Cmd) : Firing :=
  ⟨d.channel, d.id, c.step, c.seq, s.reductionScale e d, [], healthZero, true, decide (s.shardCount d = 0)⟩

theorem Easel.setFiring_firing (x : Easel) (f : Firing) : (x.setFiring f).firing f.channel f.id = some f := by
  have hgone : (x.firings.filter fun g => !(g.channel = f.channel && g.id = f.id)).find? (fun g => g.channel = f.channel && g.id = f.id) = none :=
    List.find?_eq_none.mpr fun g hg => by simpa [imp_iff_not_or] using (List.mem_filter.mp hg).2
  unfold Easel.setFiring Easel.firing
  dsimp only
  rw [List.find?_append, hgone]
  simp

/-- The easel as a reduction fires, before its segments are sent. -/
def Easel.fire (x : Easel) (r : Nat) (f : Firing) (c : Cmd) : Easel :=
  { ({ x with awaiting := x.awaiting.filter (· != r) } : Easel).setFiring f with fired := (f.channel, f.id, c.step) :: x.fired }

theorem State.fireReduction_eq (s : State) (e r : Nat) (d : RedEntry) (c : Cmd) : s.fireReduction e r d c [] =
    ((List.range d.segments).foldl (fun t seg => t.sendSegment e d (s.reductionScale e d) c.step seg)
      ((s.onEasel e fun x => { x with awaiting := x.awaiting.filter (· != r) }).onEasel e fun x =>
        { x.setFiring (s.newFiring e d c) with fired := (d.channel, d.id, c.step) :: x.fired })).markSent e := rfl

theorem State.fireReduction_fires (s : State) (e r : Nat) (d : RedEntry) (c : Cmd) : let s' := s.fireReduction e r d c []
    MemoryKept s s' ∧ r ∉ (s'.easel e).awaiting ∧ (d.channel, d.id, c.step) ∈ (s'.easel e).fired ∧
      (s'.easel e).firing d.channel d.id = some (s.newFiring e d c) := by
  rw [State.fireReduction_eq]
  have hbegin : ((s.onEasel e fun x => { x with awaiting := x.awaiting.filter (· != r) }).onEasel e fun x =>
      { x.setFiring (s.newFiring e d c) with fired := (d.channel, d.id, c.step) :: x.fired }).easel e = (s.easel e).fire r (s.newFiring e d c) c := by
    rw [State.onEasel_easel_self, State.onEasel_easel_self]
    rfl
  have hmem : MemoryKept s ((s.onEasel e fun x => { x with awaiting := x.awaiting.filter (· != r) }).onEasel e fun x =>
      { x.setFiring (s.newFiring e d c) with fired := (d.channel, d.id, c.step) :: x.fired }) := memoryKept_of_fields rfl rfl rfl rfl
  generalize State.onEasel (s.onEasel e _) e _ = t at hbegin hmem ⊢
  have hsent : Contributed e t (((List.range d.segments).foldl (fun t seg => t.sendSegment e d (s.reductionScale e d) c.step seg) t).markSent e) :=
    (foldl_keeps_state (Contributed e) (.refl e) (fun _ _ _ => .trans) _ (fun t seg => t.sendSegment_contributed e d _ _ seg) _ t).trans
      (State.markSent_contributed _ e)
  generalize State.markSent _ e = u at hsent ⊢
  have heasel := hsent.easel
  rw [hbegin] at heasel
  refine ⟨memoryKept_trans hmem hsent.memoryKept, ?_, ?_, ?_⟩
  · rw [heasel]
    exact fun hr => by simpa using (List.mem_filter.mp hr).2
  · rw [heasel]
    exact List.mem_cons_self
  · rw [heasel]
    have hset := Easel.setFiring_firing { s.easel e with awaiting := (s.easel e).awaiting.filter (· != r) } (s.newFiring e d c)
    exact hset

section
variable (hc : (s.easel e).running 1 = some c) (hd : ((s.easel e).sheetDef.bind fun d => d.reds[r]?) = some d)
  (hawait : r ∈ (s.easel e).awaiting) (hw : s.works e = true)
include hc hd hawait hw

theorem exec_reductionFire_fires (hnew : c.step = 0 ∨ (d.channel, d.id, c.step) ∉ (s.easel e).fired) (errs : List (Nat × MemErr)) :
    exec (.reductionFire e r errs) s =
      .next (s.atArbiters (.reduction e r) 4096 (s.reductionArbs e d) fun s => s.fireReduction e r d c errs) := by
  have harm : exec (.reductionFire e r errs) s = execReductionFire e r errs s := rfl
  rw [harm, execReductionFire, hc, hd]
  dsimp only
  rw [if_neg (by simp [hawait, hw]), if_neg]
  obtain h | h := hnew <;> simp [h]

theorem exec_reductionFire_ignored (h0 : c.step ≠ 0) (hfired : (d.channel, d.id, c.step) ∈ (s.easel e).fired) (errs : List (Nat × MemErr)) :
    exec (.reductionFire e r errs) s =
      .next { (s.onEasel e fun x => { x with awaiting := x.awaiting.filter (· != r) }) with
        fabric := { s.fabric with ignored := tset s.fabric.ignored e (tget 0 s.fabric.ignored e + 1) } } := by
  have harm : exec (.reductionFire e r errs) s = execReductionFire e r errs s := rfl
  rw [harm, execReductionFire, hc, hd]
  dsimp only
  rw [if_neg (by simp [hawait, hw]), if_pos (by simp [h0, hfired])]
  rfl

end

/-! ### SHARD_DELIVERY (R353) -/

variable {k seg slot : Nat} {a : Arrival} {x : RedEntry} {f : Firing}

section
variable (h : s.arrival k 7 = some a) (hch : a.packet.channel ≠ 16) (hr : s.reach a.packet = .easel e)
  (hx : (s.easel e).redEntry a.packet.channel (fld a.packet.a 0 24) = some x) (hf : (s.easel e).firing a.packet.channel (fld a.packet.a 0 24) = some f)
include h hch hr hx hf

theorem exec_shardDelivery_stale (hstep : f.step ≠ a.packet.b) : exec (.shardDelivery k) s = .next (s.discard k a 5) := by
  have harm : exec (.shardDelivery k) s = execShardDelivery k s := rfl
  rw [harm, execShardDelivery, h]
  dsimp only
  rw [if_neg hch, hr]
  dsimp only
  rw [hx, hf]
  exact if_pos (by simpa using hstep)

theorem exec_shardDelivery_placed (hstep : f.step = a.packet.b) (hslot : s.segmentSlot x (fld a.packet.a 24 32) = some slot)
    (hlen : a.packet.payload.length = 4096) : exec (.shardDelivery k) s = .next (if f.landed.contains (fld a.packet.a 24 32) then s.discard k a 7
      else (s.landShard e x f slot (fld a.packet.a 24 32) a.packet).landed k a) := by
  have harm : exec (.shardDelivery k) s = execShardDelivery k s := rfl
  rw [harm, execShardDelivery, h]
  dsimp only
  rw [if_neg hch, hr]
  dsimp only
  rw [hx, hf]
  dsimp only
  rw [if_neg (by simp [hstep]), hslot]
  dsimp only
  rw [if_neg (by simp [hlen])]
  exact (apply_ite Host.Outcome.next _ _ _).symm

theorem exec_shardDelivery_outside (hstep : f.step = a.packet.b) (hslot : s.segmentSlot x (fld a.packet.a 24 32) = none) :
    ∃ unit n b, exec (.shardDelivery k) s = .next ((s.handled k a).faultWith 0x0310 e 0x08 unit f.seq n b) := by
  have harm : exec (.shardDelivery k) s = execShardDelivery k s := rfl
  rw [harm, execShardDelivery, h]
  dsimp only
  rw [if_neg hch, hr]
  dsimp only
  rw [hx, hf]
  dsimp only
  rw [if_neg (by simp [hstep]), hslot]
  exact ⟨_, _, _, rfl⟩

end

/-- A firing with one more segment landed. -/
def State.landedFiring (s : State) (x : RedEntry) (f : Firing) (seg : Nat) (bs : List Byte) : Firing :=
  { f with landed := insertSet f.landed seg, health := healthJoin f.health (healthOf 0 bs []),
           complete := decide (s.shardCount x ≤ (insertSet f.landed seg).length) }

/-- The bytes of a segment as they are written. -/
def shardBytesOf (x : RedEntry) (f : Firing) (q : Packet) : List Byte :=
  (List.range 1024).flatMap fun j => leBytes 4 (shardElem x.wire f.scale (at8 q.payload (4 * j) 4))

/-- A mark of poison changes no byte. -/
theorem State.poisonSpace_mem (s : State) (e space a n : Nat) : (s.poisonSpace e space a n).mem = s.mem := by
  refine foldl_keeps_state (fun s s' => s'.mem = s.mem) (fun _ => rfl) (fun _ _ _ h k => k.trans h) _ (fun s p => ?_) _ s
  split <;> rfl

/-- The state in which a segment has been written. -/
def State.shardWritten (s : State) (e : Nat) (x : RedEntry) (f : Firing) (slot : Nat) (q : Packet) : State :=
  let a := x.shardBase + 4096 * slot
  let s := s.writeSpace e x.shardSpace a (shardBytesOf x f q)
  if q.poisoned then s.poisonSpace e x.shardSpace a 4096 else s

theorem State.shardWritten_spec (s : State) (e : Nat) (x : RedEntry) (f : Firing) (slot : Nat) (q : Packet) :
    MemoryOnly s (s.shardWritten e x f slot q) ∧
    (s.shardWritten e x f slot q).mem = (s.writeSpace e x.shardSpace (x.shardBase + 4096 * slot) (shardBytesOf x f q)).mem := by
  have hwrite := s.writeSpace_memoryOnly e x.shardSpace (x.shardBase + 4096 * slot) (shardBytesOf x f q)
  unfold State.shardWritten
  dsimp only
  split
  · exact ⟨hwrite.trans (State.poisonSpace_memoryOnly ..), State.poisonSpace_mem ..⟩
  · exact ⟨hwrite, rfl⟩

theorem State.landShard_eq (s : State) (e : Nat) (x : RedEntry) (f : Firing) (slot seg : Nat) (q : Packet) :
    let w := s.shardWritten e x f slot q
    let g := w.landedFiring x f seg (shardBytesOf x f q)
    s.landShard e x f slot seg q = if g.complete then (w.onEasel e fun y => y.setFiring g).shardHealth e x g else w.onEasel e fun y => y.setFiring g := rfl

theorem State.shardHealth_memoryOnly (s : State) (e : Nat) (x : RedEntry) (f : Firing) : MemoryOnly s (s.shardHealth e x f) := by
  unfold State.shardHealth
  split
  · exact .refl s
  · exact s.writeVa_memoryOnly _ _ _

theorem MemoryOnly.dict (h : MemoryOnly s t) : t.dict = s.dict := by rw [h.1]
theorem MemoryOnly.easel (h : MemoryOnly s t) (e : Nat) : t.easel e = s.easel e := by rw [h.1]; rfl

/-- A segment landed: its bytes at its place, and the firing counts it. -/
theorem State.landShard_spec (s : State) (e : Nat) (x : RedEntry) (f : Firing) (slot seg : Nat) (q : Packet) :
    let s' := s.landShard e x f slot seg q
    s'.tiles = s.tiles ∧ s'.sems = s.sems ∧ ∃ g, (s'.easel e).firing f.channel f.id = some g ∧ g.step = f.step ∧
      (∀ j, j ∈ g.landed ↔ j = seg ∨ j ∈ f.landed) ∧ (g.complete = true ↔ s.shardCount x ≤ g.landed.length) ∧
      (g.complete = false → s'.mem = (s.writeSpace e x.shardSpace (x.shardBase + 4096 * slot) (shardBytesOf x f q)).mem) := by
  obtain ⟨hwrite, hmem⟩ := s.shardWritten_spec e x f slot q
  rw [State.landShard_eq]
  dsimp only
  generalize s.shardWritten e x f slot q = w at hwrite hmem ⊢
  have hcount : w.shardCount x = s.shardCount x := by
    have hpolicy (i b : Nat) := policy_of_values (s := s) (t := w) (congrArg Dict.values hwrite.dict) i b
    simp only [State.shardCount, State.owned, State.spread, State.group, hpolicy]
    rfl
  generalize hg : w.landedFiring x f seg (shardBytesOf x f q) = g
  have hfields : g.channel = f.channel ∧ g.id = f.id ∧ g.step = f.step ∧ g.landed = insertSet f.landed seg ∧
      g.complete = decide (s.shardCount x ≤ g.landed.length) := by
    subst hg
    refine ⟨rfl, rfl, rfl, rfl, ?_⟩
    unfold State.landedFiring
    dsimp only
    rw [hcount]
  obtain ⟨hchannel, hid, hstep, hlanded, hcomplete⟩ := hfields
  have hset : ((w.onEasel e fun y => y.setFiring g).easel e).firing f.channel f.id = some g := by
    rw [State.onEasel_easel_self, ← hchannel, ← hid]
    exact Easel.setFiring_firing _ g
  have htiles : (w.onEasel e fun y => y.setFiring g).tiles = s.tiles := by rw [State.onEasel_tiles, hwrite.1]
  have hsems : (w.onEasel e fun y => y.setFiring g).sems = s.sems := by rw [State.onEasel_sems, hwrite.1]
  have hkept : (w.onEasel e fun y => y.setFiring g).mem = w.mem := rfl
  have hj (j : Nat) : j ∈ g.landed ↔ j = seg ∨ j ∈ f.landed := by rw [hlanded, mem_insertSet]
  have hiff : g.complete = true ↔ s.shardCount x ≤ g.landed.length := by rw [hcomplete, decide_eq_true_eq]
  generalize w.onEasel e _ = v at hset htiles hsems hkept ⊢
  by_cases hdone : g.complete = true
  · have hhealth := v.shardHealth_memoryOnly e x g
    rw [if_pos hdone]
    refine ⟨?_, ?_, g, ?_, hstep, hj, hiff, fun hno => absurd hdone (by simp [hno])⟩
    · rw [hhealth.1]
      exact htiles
    · rw [hhealth.1]
      exact hsems
    · rw [hhealth.easel]
      exact hset
  · rw [if_neg hdone]
    exact ⟨htiles, hsems, g, hset, hstep, hj, hiff, fun _ => hkept.trans hmem⟩

/-! ### REDUCTION_TIMEOUT (R353) -/

theorem exec_reductionTimeout (hd : ((s.easel e).sheetDef.bind fun d => d.reds[r]?) = some d) (hf : (s.easel e).firing d.channel d.id = some f) :
    exec (.reductionTimeout e r) s =
      .next (if f.complete then s else s.reductionTimedOut e 0x05 (d.slice / 4) f.seq f.step d.id d.channel) := by
  have harm : exec (.reductionTimeout e r) s = execReductionTimeout e r s := rfl
  rw [harm, execReductionTimeout, hd]
  dsimp only
  rw [hf]
  exact (apply_ite Host.Outcome.next _ _ _).symm

/-! ### GROUP_MASK_SWITCH (R351) -/

theorem exec_groupMaskSwitch {v step : Nat} (ho : s.ownerOf 7 v = some e) (hstep : step = policy s (0x6110 + v) 7)
    (hat : (if (s.easel e).openStep ≠ 0 then (s.easel e).openStep else (s.easel e).closedStep) = step)
    (hnone : ∀ f ∈ (s.easel e).fired, f.1 = v → f.2.2 = step → step = 0) : exec (.groupMaskSwitch v) s =
    .next { s with fabric := { s.fabric with masks := tset s.fabric.masks v (policy s (0x6110 + v) 6) } } := by
  have harm : exec (.groupMaskSwitch v) s = execGroupMaskSwitch v s := rfl
  have hfired : ((s.easel e).fired.any fun f => f.1 = v && f.2.2 = step && step != 0) = false := by
    rw [List.any_eq_false]
    intro f hf hall
    simp only [Bool.and_eq_true, decide_eq_true_eq, bne_iff_ne] at hall
    exact hall.2 (hnone f hf hall.1.1 hall.1.2)
  have hat' : (if ((s.easel e).openStep != 0) = true then (s.easel e).openStep else (s.easel e).closedStep) = step := by
    rw [← hat]
    simp
  rw [harm, execGroupMaskSwitch, ho]
  dsimp only
  rw [← hstep, hat', hfired]
  simp

end

/-- Settles O41: firings, segments, timeouts and masks. -/
theorem reductionsRun : Obligations.ReductionsRun := by
  unfold Obligations.ReductionsRun
  refine ⟨fun s e r c d hc hd hawait hw => ⟨fun hnew => ?_, fun h0 hfired errs => ?_⟩, fun s k e seg a x f h hch hr hseg hx hf => ?_,
    fun s e r d f hd hf => ⟨fun hdone => ?_, fun hopen hw => ?_⟩, fun s e v step ho hstep hat hnone => ?_⟩
  · refine throughArbiters_of (exec_reductionFire_fires hc hd hawait hw hnew []) fun t _ => ?_
    exact t.fireReduction_fires e r d c
  · refine ⟨_, exec_reductionFire_ignored hc hd hawait hw h0 hfired errs, ?_⟩
    have heasel := State.onEasel_easel_self s e fun x => { x with awaiting := x.awaiting.filter (· != r) }
    generalize hq : (s.onEasel e fun x => { x with awaiting := x.awaiting.filter (· != r) }) = t at heasel ⊢
    refine ⟨tget_tset_self _ _ _ _, rfl, ?_, ?_, ?_⟩
    · have hgone : r ∉ (t.easel e).awaiting := by
        rw [heasel]
        exact fun hr => by simpa using (List.mem_filter.mp hr).2
      exact hgone
    · have hkept : (t.easel e).firings = (s.easel e).firings := by rw [heasel]
      exact hkept
    · subst hq
      exact memoryKept_of_fields rfl rfl rfl rfl
  · subst hseg
    refine ⟨fun hstep => ?_, fun slot hstep hslot hlen => ⟨fun hin => ?_, fun hnot => ?_⟩, fun hstep hslot hw => ?_⟩
    · exact ⟨_, exec_shardDelivery_stale h hch hr hx hf hstep, (s.discard_wired k a 5).easels, (s.discard_wired k a 5).memoryKept⟩
    · refine ⟨_, exec_shardDelivery_placed h hch hr hx hf hstep hslot hlen, ?_⟩
      rw [if_pos (by simpa using hin)]
      exact ⟨(s.discard_wired k a 7).easels, (s.discard_wired k a 7).memoryKept⟩
    · refine ⟨_, exec_shardDelivery_placed h hch hr hx hf hstep hslot hlen, ?_⟩
      rw [if_neg (by simpa using hnot)]
      have hkey : f.channel = a.packet.channel ∧ f.id = fld a.packet.a 0 24 := by simpa using List.find?_some hf
      obtain ⟨htiles, hsems, g, hg, hgstep, hgl, hgc, hgm⟩ := s.landShard_spec e x f slot (fld a.packet.a 24 32) a.packet
      have hwired := (s.landShard e x f slot (fld a.packet.a 24 32) a.packet).landed_wired k a
      rw [← hkey.1, ← hkey.2]
      refine ⟨hwired.tiles.trans htiles, hwired.sems.trans hsems, g, by rw [hwired.easel]; exact hg, hgstep, hgl, hgc, fun hopen => ?_⟩
      exact hwired.mem.trans (hgm hopen)
    · obtain ⟨unit, n, b, hexec⟩ := exec_shardDelivery_outside h hch hr hx hf hstep hslot
      refine ⟨_, hexec, (State.faultWith_stops ?_ _ _ _ _ _ _).1⟩
      rw [State.works, (s.handled_wired k a).easel]
      exact hw
  · rw [exec_reductionTimeout hd hf, if_pos hdone]
  · refine ⟨_, exec_reductionTimeout hd hf, ?_⟩
    rw [if_neg (by simp [hopen])]
    exact (State.faultWith_stops hw _ _ _ _ _ _).1
  · refine ⟨_, exec_groupMaskSwitch ho hstep hat hnone, rfl, tget_tset_self _ _ _ _, fun w hne => tget_tset_ne _ _ _ _ _ hne⟩

end Sys2Proof.Machine
end

section
/-! PROOFS. The intakes of the primer (R303, R304). -/

namespace Sys2Proof.Machine

section
variable {s t : State} {e : Nat} {c : Cmd}

/-! ### INTAKE -/

/-- With no error found, a range of a space is read as it stands. -/
theorem State.intakeErrors_nil (s : State) (e seq : Nat) (b : List Byte) : s.intakeErrors e seq b [] = s := rfl

/-- The intake of a block that every check passed. -/
def State.newIntake (s : State) (e : Nat) (c : Cmd) (b : List Byte) : Intake :=
  let spares := (List.range (ibSpares b)).filterMap fun j => (s.judge e b (s.recordOf e (ibSpace b) (ibSpareBase b) (ibKind b) j).2).2
  { easel := e, seq := c.seq, step := c.step, block := b, started := false, taken := 0, delivered := 0, consumed := 0,
    skips := 0, buffer := [], spares, row := [], slotRead := [], released := 0, starved := false }

/-- An intake taken: behind the others, its command started. -/
def State.withIntake (s : State) (e : Nat) (c : Cmd) (b : List Byte) : State :=
  let s' := s.onEasel e fun x => x.setPhase c.seq .started
  { s' with primer := { s'.primer with
    intakes := s'.primer.intakes ++ [s.newIntake e c b], nextSkip := tset s'.primer.nextSkip e (c.seq, ibK0 b) } }

theorem State.withIntake_spec (s : State) (e : Nat) (c : Cmd) (b : List Byte) : let s' := s.withIntake e c b
    s' = { s with primer := s'.primer }.setEasel e (s'.easel e) ∧ s'.easel e = (s.easel e).setPhase c.seq .started ∧
    s'.primer.lanes = s.primer.lanes ∧ s'.primer.intakes = s.primer.intakes ++ [s.newIntake e c b] := by
  have heasel : (s.withIntake e c b).easel e = (s.easel e).setPhase c.seq .started :=
    s.onEasel_easel_self e fun x => x.setPhase c.seq .started
  exact ⟨by rw [heasel]; rfl, heasel, rfl, rfl⟩

/-- Spares of which none fails are all decoded (R304 check 8). -/
theorem State.newIntake_spares {b : List Byte} (h : s.spareFault e b = none) : (s.newIntake e c b).spares.length = ibSpares b := by
  unfold State.newIntake
  dsimp only
  conv_rhs => rw [← List.length_range (n := ibSpares b)]
  rw [List.filterMap_length_eq_length]
  intro j hj
  have hnone := List.findSome?_eq_none_iff.mp h j hj
  generalize s.judge e b _ = r at hnone ⊢
  obtain ⟨code, sample⟩ := r
  cases sample with
  | some _ => rfl
  | none => split at hnone <;> simp_all

theorem State.spareFault_of_intakeFault {b : List Byte} {dirty : Bool} (h : s.intakeFault e b dirty = none) : s.spareFault e b = none := by
  have hlast := List.findSome?_eq_none_iff.mp h _ (List.getLast_mem (List.cons_ne_nil _ _))
  exact Option.map_eq_none_iff.mp hlast

theorem State.takeIntake_accepts (hdirty : s.poisonedVa e (c.param + 16 * c.listCount) 144 = false)
    (hfields : s.intakeFields e (s.blockOf e c) = none) (hfault : s.intakeFault e (s.withDefaults e (s.blockOf e c)) false = none) :
    s.takeIntake e c [] = s.withIntake e c (s.withDefaults e (s.blockOf e c)) := by
  unfold State.takeIntake
  dsimp only
  rw [hdirty, State.intakeErrors_nil, ite_self, if_neg (by decide), hfields]
  dsimp only
  rw [hfault]
  rfl

theorem State.takeIntake_refuses (h : s.poisonedVa e (c.param + 16 * c.listCount) 144 = true ∨ s.intakeFields e (s.blockOf e c) ≠ none ∨
      s.intakeFault e (s.withDefaults e (s.blockOf e c)) (s.poisonedVa e (c.param + 16 * c.listCount) 144) ≠ none) :
    ∃ code unit a b, s.takeIntake e c [] = s.faultWith code e 0x06 unit c.seq a b := by
  unfold State.takeIntake
  dsimp only
  rw [State.intakeErrors_nil, ite_self]
  generalize hb : s.withDefaults e (s.blockOf e c) = b at h ⊢
  cases hdirty : s.poisonedVa e (c.param + 16 * c.listCount) 144 with
  | true => exact ⟨_, _, _, _, rfl⟩
  | false =>
    rw [hdirty] at h
    cases hfields : s.intakeFields e (s.blockOf e c) with
    | some v => exact ⟨_, _, _, _, rfl⟩
    | none =>
      cases hfault : s.intakeFault e b false with
      | some r => exact ⟨_, _, _, _, rfl⟩
      | none => simp [hfields, hfault] at h

theorem exec_intake (hc : (s.easel e).dispatched 5 = some c) (hw : s.works e = true) : exec (.intake e []) s =
    .next (s.atArbiters (.intake e) 16384
      (s.arbsSpace (firstLane (s.blockOf e c) / 16) e (ibSpace (s.blockOf e c)) (ibBase (s.blockOf e c)) 64) fun t => t.takeIntake e c []) := by
  have harm : exec (.intake e []) s = execIntake e s [] := rfl
  rw [harm, execIntake, hc]
  exact if_neg (by simp [hw])

/-- What a record that stops its easel leaves of its commands and its intakes. -/
theorem State.faultWith_intakes (hw : s.works e = true) (code cls unit seq a b : Nat) :
    ((s.faultWith code e cls unit seq a b).easel e).cmds = [] ∧ ∀ i ∈ (s.faultWith code e cls unit seq a b).primer.intakes, i.easel ≠ e := by
  have hworks := ((s.reportSeq_records code e cls unit seq a b).works e).trans hw
  unfold State.faultWith
  refine ⟨by rw [State.fault_easel hworks], fun i hi => ?_⟩
  rw [(State.fault_primer hworks).1] at hi
  simpa using (List.mem_filter.mp hi).2

/-! ### INTAKE_START -/

theorem startable_spec {l : List Intake} {taken : Nat} {x : Intake} (h : startable e l taken = some x) :
    x.easel = e ∧ x.started = false ∧ ∃ before behind, l = before ++ x :: behind ∧
      ∀ i, (ibLanes x.block).testBit i = true → taken.testBit i = false ∧ ∀ y ∈ before, (ibLanes y.block).testBit i = false := by
  induction l generalizing taken with
  | nil => cases h
  | cons y ys ih =>
    rw [startable] at h
    split at h
    next hfree =>
      cases h
      simp only [Bool.and_eq_true, decide_eq_true_eq, Bool.not_eq_eq_eq_not, Bool.not_true] at hfree
      obtain ⟨⟨heasel, hwaits⟩, hlanes⟩ := hfree
      refine ⟨heasel, hwaits, [], ys, rfl, fun i hi => ⟨?_, by simp⟩⟩
      have hbit := congrArg (Nat.testBit · i) hlanes
      simpa [Nat.testBit_and, hi] using hbit
    next =>
      obtain ⟨heasel, hwaits, before, behind, rfl, hbefore⟩ := ih h
      refine ⟨heasel, hwaits, y :: before, behind, rfl, fun i hi => ?_⟩
      obtain ⟨htaken, hrest⟩ := hbefore i hi
      rw [Nat.testBit_or, Bool.or_eq_false_iff] at htaken
      refine ⟨htaken.1, fun z hz => ?_⟩
      rcases List.mem_cons.mp hz with rfl | hz
      · exact htaken.2
      · exact hrest z hz

/-- Counts of lanes: the primer's banks alone. -/
structure LanesCounted (s s' : State) : Prop where
  rest : s' = { s with primer := s'.primer }
  lanes : s'.primer.lanes = s.primer.lanes
  intakes : s'.primer.intakes = s.primer.intakes

theorem LanesCounted.refl (s : State) : LanesCounted s s := ⟨rfl, rfl, rfl⟩

theorem LanesCounted.trans {u : State} (h : LanesCounted s t) (k : LanesCounted t u) : LanesCounted s u := by
  refine ⟨?_, k.lanes.trans h.lanes, k.intakes.trans h.intakes⟩
  rw [k.rest]
  conv_lhs => rw [h.rest]

theorem State.bumpLane_counted (s : State) (l seq i n : Nat) : LanesCounted s (s.bumpLane l seq i n) := ⟨rfl, rfl, rfl⟩

theorem State.bumpLanes_counted (s : State) (ls : List Nat) (seq i n : Nat) :
    LanesCounted s (ls.foldl (fun s l => s.bumpLane l seq i n) s) :=
  foldl_keeps_state LanesCounted .refl (fun _ _ _ => .trans) _ (fun s l => s.bumpLane_counted l seq i n) ls s

theorem State.setIntake_intakes (s : State) (x y : Intake) (hk : y.easel = x.easel ∧ y.seq = x.seq) :
    (s.setIntake y).primer.intakes = intakesWith s x y := by
  unfold State.setIntake intakesWith
  refine List.map_congr_left fun i _ => ?_
  rw [hk.1, hk.2]
  exact if_congr (by simp) rfl rfl

theorem exec_intakeStart {x : Intake} (h : startable e s.primer.intakes 0 = some x) : exec (.intakeStart e) s =
    .next ((lanesOf x.block).foldl (fun s l => s.bumpLane l x.seq 0 0) (s.setIntake { x with started := true })) := by
  have harm : exec (.intakeStart e) s = execIntakeStart e s := rfl
  rw [harm, execIntakeStart, h]

/-! ### INTAKE_COMPLETE -/

/-- An intake of which nothing is left, and its lanes' counts published. -/
def State.intakeGone (s : State) (e : Nat) (x : Intake) : State :=
  let t := { s with primer := { s.primer with
    intakes := s.primer.intakes.filter fun i => !(decide (i.easel = e) && decide (i.seq = x.seq)),
    banks := tmap (fun l b => if (ibLanes x.block).testBit l then b.publish else b) s.primer.banks } }
  t.publishAt 0x06 e (tget [] t.primer.stats e)

theorem exec_intakeComplete {x : Intake}
    (hx : s.primer.intakes.find? (fun i => i.easel = e && i.started && i.consumed = ibCount i.block && i.row.isEmpty) = some x)
    (hc : (s.easel e).cmds.find? (·.seq = x.seq) = some c) : exec (.intakeComplete e) s = .next ((s.intakeGone e x).finishCmd e c) := by
  have harm : exec (.intakeComplete e) s = execIntakeComplete e s := rfl
  rw [harm, execIntakeComplete, hx]
  dsimp only
  rw [hc]
  rfl

end

/-- Settles O36: an intake checked, started in its turn and completed. -/
theorem intakeRuns : Obligations.IntakeRuns := by
  unfold Obligations.IntakeRuns
  refine ⟨fun s e c hc hw => throughArbiters_of (exec_intake hc hw) fun t ht => ?_, fun s e x hx => ⟨?_, ?_⟩, fun s e x c hx hc hf hs => ?_⟩
  · have hworks : t.works e = true := by
      rcases ht with rfl | rfl
      · exact hw
      · exact hw
    have hmem : c ∈ (t.easel e).cmds := by
      rcases ht with rfl | rfl
      · exact Easel.mem_of_dispatched hc
      · exact Easel.mem_of_dispatched hc
    rintro raw b dirty rfl rfl rfl
    refine ⟨fun hdirty hfields hfault => ?_, fun hbad => ?_⟩
    · rw [State.takeIntake_accepts hdirty hfields hfault]
      obtain ⟨honly, heasel, hlanes, hintakes⟩ := t.withIntake_spec e c (t.withDefaults e (t.blockOf e c))
      refine ⟨honly, ?_, by rw [heasel]; rfl, hlanes, _, hintakes, rfl, rfl, rfl, rfl, rfl, rfl, rfl, ?_⟩
      · unfold Started
        rw [heasel]
        exact Easel.setPhase_started hmem _
      · exact State.newIntake_spares (State.spareFault_of_intakeFault hfault)
    · obtain ⟨code, unit, v, w, heq⟩ := State.takeIntake_refuses hbad
      rw [heq]
      exact ⟨(State.faultWith_stops hworks ..).1, State.faultWith_intakes hworks ..⟩
  · obtain ⟨heasel, hwaits, before, behind, hsplit, hfree⟩ := startable_spec hx
    exact ⟨heasel, hwaits, before, behind, hsplit, fun y hy l hl => (hfree l hl).2 y hy⟩
  · have hcounted := (s.setIntake { x with started := true }).bumpLanes_counted (lanesOf x.block) x.seq 0 0
    refine ⟨_, exec_intakeStart hx, hcounted.rest, hcounted.lanes, hcounted.intakes.trans ?_⟩
    exact s.setIntake_intakes x _ ⟨rfl, rfl⟩
  · refine ⟨_, exec_intakeComplete hx hc, ?_⟩
    obtain ⟨hended, u, -, hrec⟩ := (s.intakeGone e x).finishCmd_kept c hf hs
    have hprimer : ((s.intakeGone e x).finishCmd e c).primer = (s.intakeGone e x).primer := by rw [hrec.1]; rfl
    exact ⟨hended, by rw [hprimer]; rfl, by rw [hprimer]; rfl, hrec.tiles⟩

end Sys2Proof.Machine
end

section
/-! PROOFS. The lanes of the primer and the delivery of what they decode (R312, R315 to R321). -/

namespace Sys2Proof.Machine

section
variable {s t : State} {e l : Nat} {x y : Intake} {o : Output} {c : Claim}

/-! ### LANE_RECORD_TAKE -/

/-- The checks made on a record as it is read (Table 12-7, orders 1 to 4). -/
def Intake.verdictOf (x : Intake) : Option (List Byte) → Nat × Option Claim
  | none => (0x0601, none)
  | some p => preCheck x.block p

/-- A record in the reorder buffer as its lane has read it. -/
def Intake.outputOf (x : Intake) (l : Nat) (r : Nat × Option (List Byte)) : Output :=
  { index := x.taken, lane := l, sampleId := r.1, skip := (x.verdictOf r.2).1, payload := r.2.getD [], sample := none,
    ready := (x.verdictOf r.2).1 != 0 }

/-- The record an intake takes next. -/
def State.nextRecord (s : State) (x : Intake) : Nat × Option (List Byte) :=
  s.recordOf x.easel (ibSpace x.block) (ibBase x.block) (ibKind x.block) (ibFirst x.block + x.taken)

theorem State.takeRecord_eq (s : State) (l : Nat) (x : Intake) : let o := x.outputOf l (s.nextRecord x)
    let s' := s.setIntake { x with taken := x.taken + 1, buffer := x.buffer ++ [o] }
    s.takeRecord l x [] = if o.ready then s'
      else { s' with primer := { s'.primer with lanes := tset s'.primer.lanes l ⟨x.easel, x.seq, x.taken⟩ } } := by
  have hnil : s.spaceErrors x.easel (ibSpace x.block) 6 x.seq [] = s := rfl
  unfold State.takeRecord
  simp only [List.filter_nil, List.map_nil, hnil]
  unfold State.nextRecord Intake.outputOf Intake.verdictOf
  generalize s.recordOf x.easel (ibSpace x.block) (ibBase x.block) (ibKind x.block) (ibFirst x.block + x.taken) = r
  cases r.2 <;> rfl

theorem State.takeRecord_spec (s : State) (l : Nat) (x : Intake) : let o := x.outputOf l (s.nextRecord x)
    let s' := s.takeRecord l x []
    s' = { s with primer := s'.primer } ∧
    s'.primer.intakes = intakesWith s x { x with taken := x.taken + 1, buffer := x.buffer ++ [o] } ∧
    (o.skip = 0 → s'.primer.lanes = tset s.primer.lanes l ⟨x.easel, x.seq, x.taken⟩) ∧ (o.skip ≠ 0 → s'.primer.lanes = s.primer.lanes) := by
  dsimp only
  rw [State.takeRecord_eq]
  have hready : (x.outputOf l (s.nextRecord x)).ready = true ↔ (x.outputOf l (s.nextRecord x)).skip ≠ 0 := bne_iff_ne
  generalize x.outputOf l (s.nextRecord x) = o at hready ⊢
  have hintakes := s.setIntake_intakes x { x with taken := x.taken + 1, buffer := x.buffer ++ [o] } ⟨rfl, rfl⟩
  dsimp only
  by_cases h : o.ready = true
  · rw [if_pos h]
    exact ⟨rfl, hintakes, fun h0 => absurd h0 (hready.mp h), fun _ => rfl⟩
  · rw [if_neg h]
    exact ⟨rfl, hintakes, fun _ => rfl, fun h0 => absurd (hready.mpr h0) h⟩

theorem exec_laneRecordTake (hx : s.intakeOfLane l = some x) (hfree : ∀ q ∈ s.primer.lanes, q.1 ≠ l) (hleft : x.taken < ibCount x.block)
    (hroom : x.bufferRoom = true) : exec (.laneRecordTake l []) s =
    .next (s.atArbiters (.lane l) 16384 (s.recordArbs l x) fun t => t.takeRecord l x []) := by
  have harm : exec (.laneRecordTake l []) s = execLaneRecordTake l [] s := rfl
  rw [harm, execLaneRecordTake, hx]
  refine if_neg ?_
  simp only [Bool.or_eq_true, List.any_eq_true, decide_eq_true_eq, Bool.not_eq_eq_eq_not, Bool.not_true]
  rintro ((⟨q, hq, hl⟩ | hle) | hno)
  · exact hfree q hq hl
  · omega
  · rw [hroom] at hno
    cases hno

/-! ### SAMPLE_SKIPPED_BUDGET and SAMPLE_DECODE_DONE -/

theorem State.laneDone_spec (s : State) (l : Nat) (x : Intake) (o p : Output) (work : Nat) (hp : p.index = o.index) : let s' := s.laneDone l x p work
    s' = { s with primer := s'.primer } ∧ (∀ q ∈ s'.primer.lanes, q.1 ≠ l) ∧
    s'.primer.intakes = intakesWith s x { x with buffer := x.buffer.map fun q => if q.index = o.index then { p with ready := true } else q } := by
  refine ⟨rfl, fun q hq => by simpa using (List.mem_filter.mp hq).2, ?_⟩
  rw [← hp]
  exact s.setIntake_intakes x _ ⟨rfl, rfl⟩

/-- The work of what a busy lane decodes. -/
def State.laneWork (s : State) (x : Intake) (o : Output) (c : Claim) : Nat :=
  s.workOf x.easel x.block o.payload c (s.cropFor x o.index c)

theorem exec_sampleSkippedBudget (hd : s.decoding l = some (x, o, c)) : exec (.sampleSkippedBudget l) s =
    if budgetOf x.block o.payload c < s.laneWork x o c then
      .next (s.laneDone l x { o with skip := 0x0602 } (budgetOf x.block o.payload c + 1)) else .next s := by
  have harm : exec (.sampleSkippedBudget l) s = execSampleSkippedBudget l s := rfl
  rw [harm, execSampleSkippedBudget, hd]
  rfl

theorem exec_sampleDecodeDone_over (hd : s.decoding l = some (x, o, c)) (hwork : budgetOf x.block o.payload c < s.laneWork x o c) :
    exec (.sampleDecodeDone l []) s = .next s := by
  have harm : exec (.sampleDecodeDone l []) s = execSampleDecodeDone l s [] := rfl
  rw [harm, execSampleDecodeDone, hd]
  exact if_pos hwork

theorem exec_sampleDecodeDone (hd : s.decoding l = some (x, o, c)) (hwork : s.laneWork x o c ≤ budgetOf x.block o.payload c) :
    exec (.sampleDecodeDone l []) s =
    if (isText (ibKind x.block) && utf8Ok o.payload && (s.tokensOf x.easel x.block o.payload).2.2) = true then
      .next (s.faultWith 0x0605 x.easel 0x06 l x.seq (ibTok x.block) 7)
    else match s.decodeSample x.easel x.block o.payload c (s.cropFor x o.index c) with
      | some d => .next (s.laneDone l x { o with sample := some d } (s.laneWork x o c))
      | none => .next (s.laneDone l x { o with skip := 0x0601 } (s.laneWork x o c)) := by
  have harm : exec (.sampleDecodeDone l []) s = execSampleDecodeDone l s [] := rfl
  have hnil : s.spaceErrors x.easel 1 6 x.seq (s.tokenErrors x.easel x.block []) = s := rfl
  rw [harm, execSampleDecodeDone, hd]
  dsimp only
  rw [hnil, ite_self]
  refine (if_neg (Nat.not_lt.mpr hwork)).trans ?_
  rfl

end

theorem lanesDecode : LanesDecode := by
  unfold LanesDecode
  refine ⟨fun s l x hx hfree hleft hroom => throughArbiters_of (exec_laneRecordTake hx hfree hleft hroom) fun t _ => ?_,
    fun s l x o c hd => ?_⟩
  · rintro r rfl
    obtain ⟨honly, hintakes, hbusy, hfree⟩ := t.takeRecord_spec l x
    refine ⟨honly, _, rfl, rfl, rfl, rfl, bne_iff_ne, fun hnone => ?_, fun p hp => ?_, hintakes, hbusy, hfree⟩
    · unfold Intake.outputOf State.nextRecord
      rw [hnone]
      rfl
    · unfold Intake.outputOf State.nextRecord
      rw [hp]
      exact ⟨rfl, rfl⟩
  · rintro work limit rfl rfl done hdone
    have hend (p : Output) (work : Nat) (hp : p.index = o.index) : done p (s.laneDone l x p work) :=
      (hdone _ _).mpr (s.laneDone_spec l x o p work hp)
    refine ⟨fun hmore => ⟨⟨_, (exec_sampleSkippedBudget hd).trans (if_pos hmore), hend _ _ rfl⟩, exec_sampleDecodeDone_over hd hmore⟩,
      fun hless => ⟨(exec_sampleSkippedBudget hd).trans (if_neg (Nat.not_lt.mpr hless)), fun hgood => ?_, fun htext hutf hbad hw => ?_⟩⟩
    · have hfine : ¬ (isText (ibKind x.block) && utf8Ok o.payload && (s.tokensOf x.easel x.block o.payload).2.2) = true := by
        simp only [Bool.and_eq_true]
        rintro ⟨⟨htext, hutf⟩, hbad⟩
        rw [hgood htext hutf] at hbad
        cases hbad
      have hexec := (exec_sampleDecodeDone hd hless).trans (if_neg hfine)
      refine ⟨fun d hsome => ?_, fun hnone => ?_⟩
      · rw [hsome] at hexec
        exact ⟨_, hexec, hend _ _ rfl⟩
      · rw [hnone] at hexec
        exact ⟨_, hexec, hend _ _ rfl⟩
    · refine ⟨_, (exec_sampleDecodeDone hd hless).trans (if_pos (by rw [htext, hutf, hbad]; rfl)), ?_⟩
      exact (State.faultWith_stops hw ..).1

end Sys2Proof.Machine
end

section
/-! PROOFS. Outputs of the primer in record order (R312, R317 to R321). -/

namespace Sys2Proof.Machine

section
variable {s t : State} {e : Nat} {x y z : Intake} {o : Output} {d : Sample}

/-! ### Intakes in their list -/

theorem mem_intakesWith (h : x ∈ s.primer.intakes) (y : Intake) : y ∈ intakesWith s x y :=
  List.mem_map.mpr ⟨x, h, if_pos ⟨rfl, rfl⟩⟩

/-- One replacement after another of the same intake is the later one. -/
theorem intakesWith_intakesWith (ht : t.primer.intakes = intakesWith s x y) (hy : y.easel = x.easel ∧ y.seq = x.seq) (z : Intake) :
    intakesWith t x z = intakesWith s x z := by
  unfold intakesWith at ht ⊢
  rw [ht, List.map_map]
  refine List.map_congr_left fun i _ => ?_
  dsimp only [Function.comp]
  by_cases hi : i.easel = x.easel ∧ i.seq = x.seq
  · simp only [if_pos hi, if_pos hy]
  · simp only [if_neg hi]

/-- A delivery that changed the intake's outputs or skips wrote something. -/
theorem Intake.wrote_iff (hx : x ∈ s.primer.intakes) (ht : t.primer.intakes = intakesWith s x y) (hy : y.easel = x.easel ∧ y.seq = x.seq) :
    x.wrote t = (y.delivered != x.delivered || y.skips != x.skips) := by
  have hfind : t.primer.intakes.find? (fun i => i.easel = x.easel && i.seq = x.seq) = some y := by
    rw [ht, intakesWith, List.find?_map]
    have hkeep : ((fun i : Intake => decide (i.easel = x.easel) && decide (i.seq = x.seq)) ∘
        fun i : Intake => if i.easel = x.easel ∧ i.seq = x.seq then y else i) = fun i => decide (i.easel = x.easel) && decide (i.seq = x.seq) := by
      funext i
      dsimp only [Function.comp]
      split
      next h => rw [hy.1, hy.2, h.1, h.2]
      next => rfl
    rw [hkeep]
    obtain ⟨z, hz⟩ := Option.isSome_iff_exists.mp (List.find?_isSome.mpr ⟨x, hx, by simp⟩ :
      (s.primer.intakes.find? fun i => decide (i.easel = x.easel) && decide (i.seq = x.seq)).isSome = true)
    rw [hz]
    exact congrArg some (if_pos (by simpa using List.find?_some hz))
  unfold Intake.wrote
  rw [hfind]

/-! ### An output placed -/

/-- The place of the next output of an intake. -/
def Intake.placeAt (x : Intake) : Nat :=
  if ibMemory x.block = true then ibOut x.block + x.delivered * ibPitch x.block else ibOut x.block + x.delivered % max x.ring 1 * ibSlot x.block

/-- The signal of an output in memory mode. -/
def Intake.signals (x : Intake) (lane : Nat) : List SyncReq :=
  if ibMemory x.block = true then
    [{ kind := .signal, easel := x.easel, sem := ibSem x.block, n := 1, who := .tile 0, after := 0, unitClass := 0x06, unitId := lane }] else []

/-- An output of `x` placed from `s` to `s'`, its bytes `bs`. -/
structure PlacedAt (s s' : State) (x : Intake) (lane next : Nat) (bs : List Byte) : Prop where
  mem : s'.mem = (s.writeVa x.easel x.placeAt bs).mem
  easels : s'.easels = s.easels
  tiles : s'.tiles = s.tiles
  sems : s'.sems = s.sems
  net : s'.net = s.net ++ x.signals lane
  intakes : s'.primer.intakes = intakesWith s x { x with delivered := x.delivered + 1 }
  nextOrdinal : tget 0 s'.primer.nextOrdinal x.easel = next
  nextSkip : s'.primer.nextSkip = s.primer.nextSkip

theorem State.place_placed (s : State) (x : Intake) (lane next : Nat) (bs : List Byte) : PlacedAt s (s.place x lane next bs) x lane next bs := by
  have hwrite := s.writeVa_memoryOnly x.easel x.placeAt bs
  unfold Intake.placeAt at hwrite
  unfold State.place
  dsimp only
  constructor
  case mem =>
    unfold Intake.placeAt
    generalize s.writeVa x.easel _ bs = w
    split <;> rfl
  case net =>
    unfold Intake.signals
    generalize s.writeVa x.easel _ bs = w at hwrite ⊢
    split <;> (rw [hwrite.1]; simp [State.setIntake, State.bumpStat, State.bumpLane])
  all_goals
    generalize s.writeVa x.easel _ bs = w at hwrite ⊢
    rw [hwrite.1]
  case intakes =>
    refine Eq.trans ?_ (s.setIntake_intakes x { x with delivered := x.delivered + 1 } ⟨rfl, rfl⟩)
    split <;> rfl
  case nextOrdinal => split <;> exact tget_tset_self 0 s.primer.nextOrdinal x.easel next
  all_goals split <;> rfl

/-! ### The head of the reorder buffer taken -/

/-- The skip index of the next skipped record. -/
def Intake.skipIndex (x : Intake) : Nat := (ibK0 x.block + x.skips) % 2 ^ 32

theorem State.settleHead_fine (s : State) (x : Intake) (h : o.skip = 0) : s.settleHead x o =
    (s, x, ⟨o.lane, o.sampleId, ibOrdinal x.block + o.index, 0, 0xFFFF, 0xFFFFFFFF, o.sample.getD Sample.empty⟩) := by
  unfold State.settleHead
  exact if_pos h

/-- A skipped record taken: its entry in the log, its counts and its record, and the intake's next skip. -/
structure Skipped (s s' : State) (x : Intake) : Prop where
  tiles : s'.tiles = s.tiles
  sems : s'.sems = s.sems
  intakes : s'.primer.intakes = s.primer.intakes
  nextSkip : s'.primer.nextSkip = if (tget (0, 0) s.primer.nextSkip x.easel).1 != x.seq then s.primer.nextSkip
    else tset s.primer.nextSkip x.easel (x.seq, (x.skipIndex + 1) % 2 ^ 32)

theorem RecordsOnly.primer (h : RecordsOnly s t) : t.primer = s.primer := by rw [h.1]

theorem State.settleHead_skips (s : State) (x : Intake) (h : o.skip ≠ 0) :
    Skipped s (s.settleHead x o).1 x ∧ (s.settleHead x o).2.1 = { x with skips := x.skips + 1 } := by
  unfold State.settleHead
  dsimp only
  rw [if_neg h]
  refine ⟨?_, rfl⟩
  dsimp only
  have hwrite := s.writeVa_memoryOnly x.easel (ibLog x.block + (ibK0 x.block + x.skips) % 2 ^ 32 % ibLogEntries x.block * 32)
    (logEntry (ibOrdinal x.block + o.index) o.sampleId ((ibK0 x.block + x.skips) % 2 ^ 32) ((ibK0 x.block + x.skips) % 2 ^ 32 % ibSpares x.block) o.skip x.seq)
  generalize s.writeVa x.easel _ _ = w at hwrite ⊢
  have hprimer : w.primer = s.primer := by rw [hwrite.1]
  constructor
  · rw [(State.reportSeq_records _ _ _ _ _ _ _ _).tiles]
    split <;> (rw [hwrite.1]; rfl)
  · rw [(State.reportSeq_records _ _ _ _ _ _ _ _).sems]
    split <;> (rw [hwrite.1]; rfl)
  · rw [(State.reportSeq_records _ _ _ _ _ _ _ _).primer]
    split <;> (rw [hwrite.1]; rfl)
  · rw [(State.reportSeq_records _ _ _ _ _ _ _ _).primer, ← hprimer]
    exact (apply_ite (fun v : State => v.primer.nextSkip) _ _ _)

/-! ### Deliveries -/

/-- An intake whose head has left the reorder buffer. -/
def Intake.consume (x : Intake) (o : Output) : Intake :=
  { x with consumed := x.consumed + 1, buffer := x.buffer.filter (·.index != o.index) }

/-- An intake of text whose head has joined its row. -/
def Intake.join (x : Intake) (o : Output) (d : Sample) : Intake :=
  { x.consume o with row := x.row ++ [⟨o.lane, o.sampleId, ibOrdinal x.block + o.index, 0, 0xFFFF, 0xFFFFFFFF, d⟩] }

theorem State.deliverNext_sample (s : State) (htext : isText (ibKind x.block) = false) (ho : x.buffer.find? (·.index = x.consumed) = some o)
    (hready : o.ready = true) (hfree : x.placeFree = true) : s.deliverNext x =
    let r := s.settleHead x o
    some (r.1.place (r.2.1.consume o) r.2.2.lane (r.2.2.ordinal + 1) (r.1.outputBytes (r.2.1.consume o) r.2.2)) := by
  unfold State.deliverNext
  rw [if_neg (by simp [htext]), State.deliverSample, ho]
  exact if_neg (by simp [hready, hfree])

theorem State.deliverNext_join (s : State) (htext : isText (ibKind x.block) = true) (hopen : x.rowCloses = false)
    (ho : x.buffer.find? (·.index = x.consumed) = some o) (hready : o.ready = true) (hskip : o.skip = 0) (hd : o.sample = some d)
    (hne : d.values ≠ []) (hlen : d.values.length ≤ ibMaxA x.block) (hroom : x.rowUsed + d.values.length ≤ ibMaxA x.block) :
    s.deliverNext x = some (s.closeRow (x.join o d)) := by
  have htake : d.values.take (ibMaxA x.block) = d.values := List.take_of_length_le hlen
  unfold State.deliverNext
  rw [if_pos htext, State.deliverText]
  dsimp only
  rw [if_neg (by simp [hopen]), ho]
  dsimp only
  rw [if_neg (by simp [hready]), State.settleHead_fine s x hskip, hd]
  simp only [Option.getD_some, htake, if_neg (Nat.not_lt.mpr hlen), List.length_eq_zero_iff, if_neg hne]
  exact if_pos hroom

theorem State.closeRow_open (s : State) (h : x.rowCloses = false) : s.closeRow x = s.setIntake x := by
  unfold State.closeRow
  exact if_neg (by simp [h])

/-- What a row of text placed by itself leaves. -/
theorem State.deliverNext_row (s : State) (htext : isText (ibKind x.block) = true) (hcloses : x.rowCloses = true) (hfree : x.placeFree = true) :
    s.deliverNext x = some ((s.place x ((x.row.head?.map (·.lane)).getD 0) ((x.row.getLast?.map (·.ordinal)).getD 0 + 1) (rowBytes x)).setIntake
      { x with delivered := x.delivered + 1, row := [] }) := by
  unfold State.deliverNext
  rw [if_pos htext, State.deliverText]
  dsimp only
  rw [if_pos hcloses, if_pos hfree, State.closeRow, if_pos (by simp [hcloses, hfree])]
  rfl

theorem exec_primerOutputDelivery {u : State}
    (hx : s.primer.intakes.find? (fun i => i.easel = e && i.started && (s.deliverNext i).isSome) = some x) (hd : s.deliverNext x = some u) :
    exec (.primerOutputDelivery e) s = .next (s.atArbiters (.output e x.seq) 16384 (if x.wrote u then s.outputArbs x else [])
      fun t => (t.deliverNext x).getD t) := by
  have harm : exec (.primerOutputDelivery e) s = execPrimerOutputDelivery e s := rfl
  rw [harm, execPrimerOutputDelivery, hx]
  dsimp only
  rw [hd]

/-- A delivery that writes goes through the arbiters of its output's place. -/
theorem delivers {P : State → State → Prop} (f : State → State)
    (hx : s.primer.intakes.find? (fun i => i.easel = e && i.started && (s.deliverNext i).isSome) = some x)
    (hd : ∀ t, t.deliverNext x = some (f t)) (hwrote : x.wrote (f s) = true) (hP : ∀ t, t = s ∨ t = s.unask (· == .output e x.seq) → P t (f t)) :
    ThroughArbiters (.primerOutputDelivery e) s (.output e x.seq) 16384 (s.outputArbs x) P := by
  have hexec := exec_primerOutputDelivery hx (hd s)
  rw [if_pos hwrote] at hexec
  refine throughArbiters_of hexec fun t ht => ?_
  rw [hd t]
  exact hP t ht

end

theorem outputsDelivered : OutputsDelivered := by
  unfold OutputsDelivered
  rintro s e x hx a ha
  have hin := List.mem_of_find?_eq_some hx
  have he : x.easel = e := by
    have hkey := List.find?_some hx
    simp only [Bool.and_eq_true, decide_eq_true_eq] at hkey
    exact hkey.1.1
  have hplace : x.placeAt = a := ha.symm
  have hintakes (t : State) (ht : t = s ∨ t = s.unask (· == .output e x.seq)) : t.primer.intakes = s.primer.intakes := by
    rcases ht with rfl | rfl <;> rfl
  refine ⟨fun o ho hready rest hrest => ⟨fun htext hfree hskip p hp => ?_, fun htext hfree hskip => ?_,
    fun d htext hopen hskip hd hne hlen hroom hlast hmore => ?_⟩, fun htext hclose hfree => ?_⟩
  · have hd (t : State) : t.deliverNext x = some (t.place (x.consume o) o.lane (ibOrdinal x.block + o.index + 1) (t.outputBytes x p)) := by
      rw [t.deliverNext_sample htext ho hready hfree, State.settleHead_fine t x hskip, hp]
      rfl
    have hplaced (t : State) := t.place_placed (x.consume o) o.lane (ibOrdinal x.block + o.index + 1) (t.outputBytes x p)
    refine delivers _ hx hd ?_ fun t _ => ?_
    · have hwith : _ = intakesWith s x { x.consume o with delivered := x.delivered + 1 } := (hplaced s).intakes
      rw [Intake.wrote_iff hin hwith ⟨rfl, rfl⟩]
      simp
    · have hplaced := hplaced t
      subst he hplace hrest
      exact ⟨hplaced.mem, hplaced.easels, hplaced.tiles, hplaced.sems, hplaced.intakes, hplaced.nextOrdinal, hplaced.net⟩
  · have hsettled (t : State) := t.settleHead_skips x hskip
    have hd (t : State) : t.deliverNext x = some ((t.settleHead x o).1.place ((t.settleHead x o).2.1.consume o) (t.settleHead x o).2.2.lane
        ((t.settleHead x o).2.2.ordinal + 1) ((t.settleHead x o).1.outputBytes ((t.settleHead x o).2.1.consume o) (t.settleHead x o).2.2)) :=
      t.deliverNext_sample htext ho hready hfree
    have hwith (t : State) (ht : t.primer.intakes = s.primer.intakes) :
        ((t.settleHead x o).1.place ((t.settleHead x o).2.1.consume o) (t.settleHead x o).2.2.lane
          ((t.settleHead x o).2.2.ordinal + 1) ((t.settleHead x o).1.outputBytes ((t.settleHead x o).2.1.consume o) (t.settleHead x o).2.2)).primer.intakes =
        intakesWith s x { x.consume o with skips := x.skips + 1, delivered := x.delivered + 1 } := by
      rw [(State.place_placed ..).intakes, (hsettled t).2]
      unfold intakesWith
      rw [(hsettled t).1.intakes, ht]
      rfl
    refine delivers _ hx hd ?_ fun t ht => ⟨⟨{ x.consume o with skips := x.skips + 1, delivered := x.delivered + 1 }, ?_, he, rfl, rfl, rfl, ?_⟩, ?_, ?_, ?_⟩
    · rw [Intake.wrote_iff hin (hwith s rfl) ⟨rfl, rfl⟩]
      simp
    · rw [hwith t (hintakes t ht)]
      exact mem_intakesWith hin _
    · rw [hrest]
      rfl
    · rw [(State.place_placed ..).nextSkip, (hsettled t).1.nextSkip, he]
      by_cases hseq : (tget (0, 0) t.primer.nextSkip e).1 = x.seq
      · rw [if_pos hseq, if_neg (by simpa using hseq), tget_tset_self]
        rfl
      · rw [if_neg hseq, if_pos (by simpa using hseq)]
    · exact (State.place_placed ..).tiles.trans (hsettled t).1.tiles
    · exact (State.place_placed ..).sems.trans (hsettled t).1.sems
  · have hopen' : (x.join o d).rowCloses = false := by
      unfold Intake.rowCloses Intake.join Intake.consume
      simp [hlast, hmore]
    have hd' (t : State) : t.deliverNext x = some (t.setIntake (x.join o d)) := by
      rw [t.deliverNext_join htext hopen ho hready hskip hd hne hlen hroom, State.closeRow_open _ hopen']
    have hexec := exec_primerOutputDelivery hx (hd' s)
    rw [if_neg (by rw [Intake.wrote_iff hin (s.setIntake_intakes x (x.join o d) ⟨rfl, rfl⟩) ⟨rfl, rfl⟩]; simp [Intake.join, Intake.consume])] at hexec
    refine throughArbiters_of hexec fun t _ => ?_
    rw [hd' t]
    subst hrest
    exact ⟨rfl, t.setIntake_intakes x (x.join o d) ⟨rfl, rfl⟩⟩
  · have hcloses : x.rowCloses = true := by
      unfold Intake.rowCloses
      rcases hclose with hfull | ⟨hlast, hrow⟩
      · simp [hfull]
      · simp [hlast, hrow]
    have hd (t : State) := t.deliverNext_row htext hcloses hfree
    have hplaced (t : State) := t.place_placed x ((x.row.head?.map (·.lane)).getD 0) ((x.row.getLast?.map (·.ordinal)).getD 0 + 1) (rowBytes x)
    have hwith (t : State) : _ = intakesWith t x { x with delivered := x.delivered + 1, row := [] } :=
      (State.setIntake_intakes _ x { x with delivered := x.delivered + 1, row := [] } ⟨rfl, rfl⟩).trans
        (intakesWith_intakesWith (hplaced t).intakes ⟨rfl, rfl⟩ _)
    refine delivers _ hx hd ?_ fun t _ => ?_
    · rw [Intake.wrote_iff hin (hwith s) ⟨rfl, rfl⟩]
      simp
    · have hplaced := hplaced t
      have hwith := hwith t
      generalize t.place x _ _ (rowBytes x) = u at hplaced hwith ⊢
      subst he hplace
      exact ⟨hplaced.mem, hplaced.easels, hplaced.tiles, hplaced.sems, hwith⟩

/-- Settles O37: what the lanes decode, and what is delivered of it. -/
theorem lanesDeliver : Obligations.LanesDeliver := ⟨lanesDecode, outputsDelivered⟩

end Sys2Proof.Machine
end

section
/-! PROOFS. Updates by the glaze units (R361 to R365). -/

namespace Sys2Proof.Machine

section
variable {s t u : State} {e : Nat} {c : Cmd} {b : List Byte} {y : Update}

/-! ### UPDATE -/

/-- Where every semaphore is sound, done values are armed; at most those already reached are noted of the update. -/
def UpdateArmed (e : Nat) (s s' : State) : Prop :=
  SemaphoresSound s → SemaphoresSound s' ∧ s'.tiles = s.tiles ∧ MemoryKept s s' ∧
    s'.easel e = { s.easel e with update := (s'.easel e).update } ∧
    ∀ v, (s.easel e).update = some v → ∃ ws, (s'.easel e).update = some { v with waiters := ws }

theorem UpdateArmed.refl (e : Nat) (s : State) : UpdateArmed e s s := fun h => ⟨h, rfl, memoryKept_refl s, rfl, fun v hv => ⟨v.waiters, hv⟩⟩

theorem UpdateArmed.trans (h : UpdateArmed e s t) (k : UpdateArmed e t u) : UpdateArmed e s u := fun hs => by
  obtain ⟨ht, htiles, hmem, heasel, hupdate⟩ := h hs
  obtain ⟨ku, ktiles, kmem, keasel, kupdate⟩ := k ht
  refine ⟨ku, ktiles.trans htiles, memoryKept_trans hmem kmem, ?_, fun v hv => ?_⟩
  · rw [keasel]
    conv_lhs => rw [heasel]
  · obtain ⟨ws, hws⟩ := hupdate v hv
    obtain ⟨vs, hvs⟩ := kupdate _ hws
    exact ⟨vs, hvs⟩

theorem State.applyWaitv_armsUpdate (s : State) (e i n : Nat) (m : SemDecl) : UpdateArmed e s (s.applyWaitv e m ⟨.update e i, n⟩) := by
  intro hsound
  cases hkey : (s.easel e).semKey m with
  | none => rw [State.applyWaitv, hkey]; exact UpdateArmed.refl e s hsound
  | some k =>
    by_cases hn : n ≤ (s.sem k).count.toNat
    · rw [State.applyWaitv_passes hkey (semaphoresSound_sem hsound k) hn]
      refine ⟨hsound, rfl, State.release_memoryKept _ _, ?_, fun v hv => ⟨v.waiters.filter (· != i), ?_⟩⟩
      · rw [State.release, State.onEasel_easel_self]
      · rw [State.release, State.onEasel_easel_self, hv]
        rfl
    · rw [State.applyWaitv_queued hkey (semaphoresSound_sem hsound k) (w := ⟨.update e i, n⟩) (Nat.not_le.mp hn)]
      exact ⟨semaphoresSound_setSem hsound (semaphoresSound_sem hsound k :), rfl, memoryKept_of_fields rfl rfl rfl rfl, rfl,
        fun v hv => ⟨v.waiters, hv⟩⟩

theorem State.armUpdate_arms (s : State) (e : Nat) (es : List (List Byte)) : UpdateArmed e s (s.armUpdate e es) := by
  unfold State.armUpdate
  refine foldl_keeps_state (UpdateArmed e) (.refl e) (fun _ _ _ => .trans) _ (fun s g => ?_) _ s
  split
  · exact s.applyWaitv_armsUpdate e _ _ _
  · exact .refl e s

theorem State.glazeTable_of_updateFault {bad : Bool} {step : Nat} (h : s.updateFault e b bad step = none) :
    s.glazeTable e b = some ((s.glazeTable e b).getD []) := by
  unfold State.updateFault at h
  dsimp only at h
  split at h
  · cases h
  · split at h
    · cases h
    next es hes => rw [hes]; rfl

/-- The update that a block starts. -/
def Cmd.update (c : Cmd) (b : List Byte) (es : List (List Byte)) : Update :=
  { seq := c.seq, step := c.step, block := b, entries := es, applied := false, skipped := false, nonfinite := 0,
    waiters := List.range es.length, stalled := false, writes := [] }

/-- An easel whose update starts. -/
def State.updateStarted (s : State) (e : Nat) (c : Cmd) (b : List Byte) (es : List (List Byte)) : State :=
  s.setEasel e { ((s.easel e).setPhase c.seq .started) with update := some (c.update b es), estimate := s.takeoverEstimate e es }

theorem exec_update (hc : (s.easel e).dispatched 6 = some c) (hw : s.works e = true) (hnone : (s.easel e).update = none) :
    exec (.update e) s = match s.updateFault e (s.blockOf e c) (s.poisonedVa e (c.param + 16 * c.listCount) 64) c.step with
      | some r => .next (s.glazeFault e c r)
      | none =>
        let es := (s.glazeTable e (s.blockOf e c)).getD []
        .next ((s.updateStarted e c (s.blockOf e c) es).armUpdate e es) := by
  have harm : exec (.update e) s = execUpdate e s := rfl
  rw [harm, execUpdate]
  dsimp only
  rw [hc]
  dsimp only
  rw [if_neg (by simp [hw, hnone])]
  rfl

theorem State.faultWith_update (hw : s.works e = true) (code cls unit seq a b : Nat) :
    ((s.faultWith code e cls unit seq a b).easel e).update = none := by
  unfold State.faultWith
  rw [State.fault_easel (((s.reportSeq_records code e cls unit seq a b).works e).trans hw)]

/-! ### UPDATE_APPLY -/

/-- A pass of the glaze units: memory and its marks, and the counts of the easel's units. -/
structure Glazed (e : Nat) (s s' : State) : Prop where
  rest : s' = { s with mem := s'.mem, flash := s'.flash, poison := s'.poison, tags := s'.tags,
                       tiers := { s.tiers with written := s'.tiers.written }, easels := s'.easels }
  easel : s'.easel e = { s.easel e with glazeStats := (s'.easel e).glazeStats }
  mem : Memory.wf s.mem = true → Memory.wf s'.mem = true
  flash : Memory.wf s.flash = true → Memory.wf s'.flash = true

theorem Glazed.refl (e : Nat) (s : State) : Glazed e s s := ⟨rfl, rfl, id, id⟩

theorem Glazed.trans (h : Glazed e s t) (k : Glazed e t u) : Glazed e s u := by
  refine ⟨?_, ?_, k.mem ∘ h.mem, k.flash ∘ h.flash⟩
  · rw [k.rest]
    conv_lhs => rw [h.rest]
  · rw [k.easel]
    conv_lhs => rw [h.easel]

theorem glazed_ite {p : Prop} [Decidable p] (h : Glazed e s t) (k : Glazed e s u) : Glazed e s (if p then t else u) := by
  split
  · exact h
  · exact k

theorem MemoryOnly.glazed (h : MemoryOnly s t) : Glazed e s t := by
  refine ⟨?_, by rw [h.easel], h.2.1, h.2.2⟩
  conv_lhs => rw [h.1]
  conv_rhs => rw [h.1]

theorem State.onEasel_glazed (s : State) (e a b c : Nat) : Glazed e s (s.onEasel e fun x => x.countGlaze a b c) :=
  ⟨rfl, by rw [State.onEasel_easel_self]; rfl, id, id⟩

theorem State.poisonSpace_glazed (s : State) (e space a n : Nat) : Glazed e s (s.poisonSpace e space a n) :=
  (s.poisonSpace_memoryOnly e space a n).glazed

theorem State.writeVa_glazed (s : State) (e va : Nat) (bs : List Byte) : Glazed e s (s.writeVa e va bs) := (s.writeVa_memoryOnly e va bs).glazed

theorem State.freshPlanes_glazed (s : State) (e : Nat) (g : List Byte) (buffer : Nat) : Glazed e s (s.freshPlanes e g buffer) := by
  refine foldl_keeps_state (Glazed e) (.refl e) (fun _ _ _ => .trans) _ (fun s p => ?_) _ s
  refine foldl_keeps_state (Glazed e) (.refl e) (fun _ _ _ => .trans) _ (fun s q => ?_) _ s
  split
  · exact ⟨rfl, rfl, id, id⟩
  · exact .refl e s

theorem State.putCopies_glazed (s : State) (e a : Nat) (l : List (Option (Nat × Bool))) : Glazed e s (s.putCopies e a l) := by
  refine foldl_keeps_state (Glazed e) (.refl e) (fun _ _ _ => .trans) _ (fun s i => ?_) _ s
  dsimp only
  have hline : Glazed e s (if ((l.drop (32 * i)).take 32).all (·.isSome) then
      s.writeVa e (a + 64 * i) (((l.drop (32 * i)).take 32).flatMap fun c => leBytes 2 (c.getD (0, false)).1)
      else ((l.drop (32 * i)).take 32).zipIdx.foldl (fun (s : State) c =>
        match c.1 with | some v => s.writeVa e (a + 64 * i + 2 * c.2) (leBytes 2 v.1) | none => s) s) := by
    split
    · exact s.writeVa_glazed _ _ _
    · refine foldl_keeps_state (Glazed e) (.refl e) (fun _ _ _ => .trans) _ (fun s c => ?_) _ s
      split
      · exact s.writeVa_glazed _ _ _
      · exact .refl e s
  generalize (if ((l.drop (32 * i)).take 32).all (·.isSome) then _ else _ : State) = w at hline ⊢
  refine hline.trans ?_
  split
  · exact ⟨rfl, rfl, id, id⟩
  · exact .refl e w

/-- One element of an entry: its planes, its marks and the counts. -/
theorem PassAcc.element_glazed (acc : PassAcc) (e : Nat) (g : List Byte) (w : Pass) (b1 b2 : Num) (recBad : Bool) (shard : Nat × Bool) (i j : Nat) :
    Glazed e acc.s (acc.element e g w b1 b2 recBad shard i j).s := by
  unfold PassAcc.element
  extract_lets s rd bad n two wr old p put s0 mark at_ s1 s2 s3 grad r s4
  have hwr (t : State) (plane m v : Nat) : Glazed e t (wr t plane m v) := t.writeVa_glazed _ _ _
  have hput (p m v : Nat) : Glazed e s (put p m v) := by
    have hthree : Glazed e s (wr (wr (wr s 0 4 (p / 2 ^ 16)) 1 2 (p % 2 ^ 16)) 2 n m) := ((hwr _ _ _ _).trans (hwr _ _ _ _)).trans (hwr _ _ _ _)
    exact glazed_ite (hthree.trans (hwr _ _ _ _)) hthree
  split
  · have hmark (t : State) (a : Nat) : Glazed e t (mark t a) := t.poisonSpace_glazed _ _ _ _
    have hs1 : Glazed e s s1 := (((hput _ _ _).trans (hmark _ _)).trans (hmark _ _)).trans (hmark _ _)
    have hs2 : Glazed e s s2 := glazed_ite (hs1.trans (hmark _ _)) hs1
    have hs3 : Glazed e s s3 := glazed_ite (hs2.trans (hmark _ _)) hs2
    exact hs3.trans (s3.onEasel_glazed e 0 0 1)
  · split
    · exact (hput _ _ _).trans (State.onEasel_glazed _ e 1 0 0)
    · exact glazed_ite ((hput _ _ _).trans (State.onEasel_glazed _ e 0 1 0)) (hput _ _ _)

theorem PassAcc.land_glazed (acc : PassAcc) (e : Nat) (g : List Byte) : Glazed e acc.s (acc.land e g).s :=
  glazed_ite (acc.s.putCopies_glazed _ _ _) (.refl e _)

/-- A fold whose every step is part of a pass. -/
theorem foldl_glazed {α : Type} (f : PassAcc → α → PassAcc) (h : ∀ acc a, Glazed e acc.s (f acc a).s) (l : List α) (acc : PassAcc) :
    Glazed e acc.s (l.foldl f acc).s := by
  induction l generalizing acc with
  | nil => exact .refl e _
  | cons a l ih => exact (h acc a).trans (ih _)

theorem PassAcc.entry_glazed (acc : PassAcc) (e : Nat) (g : List Byte) (w : Pass) (shard : Nat → Nat × Bool) :
    Glazed e acc.s (acc.entry e g w shard).s := by
  unfold PassAcc.entry
  extract_lets s ra bad r z s'
  have hz : Glazed e acc.s z.s := by
    refine (acc.s.freshPlanes_glazed e g (1 - w.select)).trans (Glazed.trans ?_ (PassAcc.land_glazed _ e g))
    exact foldl_glazed _ (fun acc i => acc.element_glazed e g w _ _ _ _ i i) _ { acc with s := s.freshPlanes e g (1 - w.select) }
  have hs : Glazed e acc.s s' := hz.trans (State.writeVa_glazed _ _ _ _)
  exact glazed_ite (hs.trans (State.poisonSpace_glazed _ _ _ _ _)) hs

theorem State.passAll_glazed (s : State) (e : Nat) (es : List (List Byte)) (w : Pass) : Glazed e s (s.passAll e es w).s :=
  foldl_glazed _ (fun acc g => acc.entry_glazed e g w fun i => acc.s.shardAt e g i) es { s, skips := 0, copies := [] }

/-- The waits of an easel's update are gone, and every count stands. -/
theorem State.dropUpdateWaiters_sem (s : State) (e k : Nat) : ((s.dropUpdateWaiters e).sem k).count = (s.sem k).count ∧
    ∀ v ∈ ((s.dropUpdateWaiters e).sem k).values, ∀ i, v.who ≠ .update e i := by
  unfold State.sem State.dropUpdateWaiters
  dsimp only
  rw [tget_tmap _ _ _ _ rfl]
  refine ⟨rfl, fun v hv i hi => ?_⟩
  have hkeep := (List.mem_filter.mp hv).2
  rw [hi] at hkeep
  simp at hkeep

theorem exec_updateApply_skips (hu : (s.easel e).update = some y) (hw : s.works e = true) (hopen : y.applied = false)
    (hd : (s.easel e).decided y.step = true) (hskip : (s.easel e).wasSkipped y.step = true) (errs : List (Nat × MemErr)) :
    exec (.updateApply e errs) s = .next ((s.dropUpdateWaiters e).setEasel e
      { s.easel e with update := some { y with applied := true, skipped := true, waiters := [] } }) := by
  have harm : exec (.updateApply e errs) s = execUpdateApply e errs s := rfl
  rw [harm, execUpdateApply]
  dsimp only
  rw [hu]
  dsimp only
  rw [if_neg (by simp [hopen, hw, hd])]
  exact if_pos hskip

/-- An easel whose update waits for its varnish buffer. -/
def Easel.updateStalled (x : Easel) (y : Update) : Easel :=
  { x with update := some { y with stalled := true }, varnishStalls := addSat (2 ^ 64 - 1) x.varnishStalls 1 }

theorem exec_updateApply (hu : (s.easel e).update = some y) (hw : s.works e = true) (hopen : y.applied = false)
    (hd : (s.easel e).decided y.step = true) (hskip : (s.easel e).wasSkipped y.step = false) (hwait : y.waiters = []) (errs : List (Nat × MemErr)) :
    exec (.updateApply e errs) s = if (s.easel e).bufferHeld (1 - (s.easel e).select) then
        if y.stalled then .next s
        else .next ((s.setEasel e ((s.easel e).updateStalled y)).reportSeq 0x0903 e 0x09 0 y.seq y.step 0)
      else .next (s.atArbiters (.glaze e) 1024 (s.arbsBeside e (y.entries.flatMap gRegions)) fun t => t.runUpdate e y errs) := by
  have harm : exec (.updateApply e errs) s = execUpdateApply e errs s := rfl
  rw [harm, execUpdateApply, hu]
  dsimp only
  rw [if_neg (by simp [hopen, hw, hd]), if_neg (by simp [hskip]), if_neg (by simp [hwait])]
  rfl

/-- What a pass takes beside the entries. -/
def State.passOf (t : State) (e : Nat) (y : Update) : Pass :=
  ⟨y.step, ((t.easel e).verdict y.step).k, of32 (ubScale y.block), policy t (0x3000 + e) 4, (t.easel e).select⟩

/-- The ranges that a pass writes. -/
def State.passWrites (t : State) (e : Nat) (y : Update) : List (Nat × Nat) :=
  y.entries.flatMap fun g => (gPlanes g).map fun p => (p.1 + (1 - (t.easel e).select) * gVarnish g, p.2)

theorem State.mem_passWrites {p : Nat × Nat} : p ∈ t.passWrites e y ↔
    ∃ g ∈ y.entries, ∃ q ∈ gPlanes g, p = (q.1 + (1 - (t.easel e).select) * gVarnish g, q.2) := by
  simp [State.passWrites, List.mem_flatMap, List.mem_map, eq_comm]

theorem State.runUpdate_eq (t : State) (e : Nat) (y : Update) : t.runUpdate e y [] =
    (t.passAll e y.entries (t.passOf e y)).s.onEasel e fun x => { x with
      update := some { y with applied := true, nonfinite := (t.passAll e y.entries (t.passOf e y)).skips, writes := t.passWrites e y } } := rfl

/-- A pass over every entry, and what its easel notes of it. -/
theorem State.runUpdate_spec (t : State) (e : Nat) (y : Update) : let s' := t.runUpdate e y []
    let r := t.passAll e y.entries (t.passOf e y)
    s'.mem = r.s.mem ∧ (s'.easel e).select = (t.easel e).select ∧ s'.tiles = t.tiles ∧ s'.sems = t.sems ∧
    (s'.easel e).update = some { y with applied := true, nonfinite := r.skips, writes := t.passWrites e y } := by
  have hglazed := t.passAll_glazed e y.entries (t.passOf e y)
  dsimp only
  rw [State.runUpdate_eq]
  generalize t.passAll e y.entries (t.passOf e y) = r at hglazed ⊢
  refine ⟨rfl, ?_, by rw [State.onEasel_tiles, hglazed.rest], by rw [State.onEasel_sems, hglazed.rest], ?_⟩
  · rw [State.onEasel_easel_self, hglazed.easel]
  · rw [State.onEasel_easel_self]

/-! ### UPDATE_COMPLETE -/

/-- Drains begun and records made: what a command's end reads of its easel, and its update's results, stand. -/
structure Drained (e : Nat) (s s' : State) : Prop where
  easel : s'.easel e = { s.easel e with
    drains := (s'.easel e).drains, nextDrain := (s'.easel e).nextDrain, nextDue := (s'.easel e).nextDue, partnerSlot := (s'.easel e).partnerSlot
    flashSlot := (s'.easel e).flashSlot, varnishStalls := (s'.easel e).varnishStalls, events := (s'.easel e).events
    queues := (s'.easel e).queues, held := (s'.easel e).held, lost := (s'.easel e).lost, dropped := (s'.easel e).dropped
    msix := (s'.easel e).msix }
  completed : CompletedKept s s'
  tiles : s'.tiles = s.tiles
  stopped : s'.sequencerStopped e = s.sequencerStopped e

theorem Drained.refl (e : Nat) (s : State) : Drained e s s := ⟨rfl, .refl s, rfl, rfl⟩

theorem Drained.trans (h : Drained e s t) (k : Drained e t u) : Drained e s u := by
  refine ⟨?_, h.completed.trans k.completed, k.tiles.trans h.tiles, k.stopped.trans h.stopped⟩
  rw [k.easel]
  conv_lhs => rw [h.easel]

theorem drained_ite {p : Prop} [Decidable p] (h : Drained e s t) (k : Drained e s u) : Drained e s (if p then t else u) := by
  split
  · exact h
  · exact k

theorem RecordsOnly.drained (h : RecordsOnly s t) (k : CompletedKept s t) (e : Nat) : Drained e s t := by
  refine ⟨?_, k, h.tiles, by rw [h.1]; rfl⟩
  have heasel := h.2.1 e
  unfold EaselRecords at heasel
  rw [heasel]

theorem State.ask_drained (s : State) (e : Nat) (w : Asker) (slack : Nat) (arbs : List Arb) : Drained e s (s.ask w slack arbs) :=
  ⟨rfl, .of_easels rfl, rfl, rfl⟩

theorem State.onEasel_drained {g : Easel → Easel} (h : g (s.easel e) = { s.easel e with
    drains := (g (s.easel e)).drains, nextDrain := (g (s.easel e)).nextDrain, nextDue := (g (s.easel e)).nextDue
    partnerSlot := (g (s.easel e)).partnerSlot, flashSlot := (g (s.easel e)).flashSlot, varnishStalls := (g (s.easel e)).varnishStalls }) :
    Drained e s (s.onEasel e g) := by
  refine ⟨?_, State.setEasel_completed (Easel.queueAt_congr ?_ ?_), rfl, rfl⟩
  · rw [State.onEasel_easel_self]
    rw [h]
  · rw [h]
  · rw [h]

theorem State.addDrain_drained (s : State) (e : Nat) (d : Drain) (now : Bool) : Drained e s (s.addDrain e d now) := by
  unfold State.addDrain
  extract_lets d s'
  have hs : Drained e s s' := State.onEasel_drained rfl
  exact drained_ite (hs.trans (State.ask_drained _ e _ _ _)) hs

theorem State.startLayer_drained (s : State) (e t layer : Nat) : Drained e s (s.startLayer e t layer) := by
  unfold State.startLayer
  split
  · exact .refl e s
  · extract_lets n busy s'
    have hs : Drained e s s' := State.onEasel_drained rfl
    split
    · exact hs
    · refine (hs.trans (State.onEasel_drained ?_)).trans (State.addDrain_drained _ e _ _)
      split
      · rfl
      · split <;> rfl

theorem State.beginExports_drained (s : State) (e t : Nat) (block : List Byte) : Drained e s (s.beginExports e t block) := by
  unfold State.beginExports
  refine foldl_keeps_state (Drained e) (.refl e) (fun _ _ _ => .trans) _ (fun s d => ?_) _ s
  extract_lets d' s'
  have hs : Drained e s s' := State.onEasel_drained rfl
  exact drained_ite hs (hs.trans (State.ask_drained _ e _ _ _))

/-- The end of a command after the drains that its update begins. -/
theorem Drained.finishes (h : Drained e s t) (c : Cmd) (hf : (s.easel e).faultAtBoundary = false) (hs : s.sequencerStopped e = false) :
    let s' := t.finishCmd e c
    Ended e c s s' ∧ s'.tiles = s.tiles ∧ EaselDone (t.easel e) (s'.easel e) := by
  have hft : (t.easel e).faultAtBoundary = false := by
    rw [h.easel]
    exact hf
  have hdone := State.finishCmd_after c (.refl t) (.refl t) hft (h.stopped.trans hs)
  obtain ⟨hcmds, hcompleted⟩ := hdone.ended
  refine ⟨⟨hcmds.trans ?_, hcompleted.trans ?_⟩, hdone.tiles.trans h.tiles, hdone.easel⟩
  · rw [h.easel]
  · rw [h.completed]

/-- The easel of an update that is over: its results in force unless its step was skipped. -/
def Easel.updateOver (x : Easel) (y : Update) : Easel :=
  if y.skipped = true then { x with update := none }
  else { x with update := none, select := 1 - x.select, lastApplied := y.step, lastBlock := y.block, lastEntries := y.entries }

theorem exec_updateComplete (hu : (s.easel e).update = some y) (hc : (s.easel e).running 6 = some c) (hw : s.works e = true)
    (hdone : y.applied = true) : ∃ t, Drained e (s.setEasel e ((s.easel e).updateOver y)) t ∧ exec (.updateComplete e) s = .next (t.finishCmd e c) := by
  have harm : exec (.updateComplete e) s = execUpdateComplete e s := rfl
  rw [harm, execUpdateComplete]
  dsimp only
  rw [hu, hc]
  dsimp only
  rw [if_neg (by simp [hdone, hw])]
  by_cases hskip : y.skipped = true
  · rw [if_pos hskip, Easel.updateOver, if_pos hskip]
    exact ⟨_, State.beginExports_drained _ e y.step y.block, rfl⟩
  · rw [if_neg hskip, Easel.updateOver, if_neg hskip]
    refine ⟨_, ?_, rfl⟩
    refine Drained.trans ?_ (State.beginExports_drained _ e y.step y.block)
    refine Drained.trans (drained_ite (.refl e _) ?_) (foldl_keeps_state (Drained e) (.refl e) (fun _ _ _ => .trans) _ (fun s l => s.startLayer_drained e _ l) _ _)
    exact (State.reportSeq_records _ _ _ _ _ _ _ _).drained (State.reportSeq_completed _ _ _ _ _ _ _ _) e

end

/-- Settles O38: an update started, applied and completed. -/
theorem updateRuns : Obligations.UpdateRuns := by
  unfold Obligations.UpdateRuns
  refine ⟨fun s e c b hc hw hnone hb r hr => ⟨fun hfine hsound => ?_, fun hbad => ?_⟩,
    fun s e y hu hw hopen hd => ⟨fun hskip errs => ?_, fun hskip hwait hfree => ?_, fun hskip hwait hheld hstall errs => ?_⟩,
    fun s e y c hu hc hw hdone hf hs => ?_⟩
  · subst hb hr
    have hexec := exec_update hc hw hnone
    rw [hfine] at hexec
    refine ⟨_, hexec, ?_⟩
    have htable := State.glazeTable_of_updateFault hfine
    generalize (s.glazeTable e (s.blockOf e c)).getD [] = es at htable ⊢
    have hstart : (s.updateStarted e c (s.blockOf e c) es).easel e = { ((s.easel e).setPhase c.seq .started) with
        update := some (c.update (s.blockOf e c) es), estimate := s.takeoverEstimate e es } := State.setEasel_easel_self _ _ _
    obtain ⟨-, htiles, hmem, heasel, hupdate⟩ := State.armUpdate_arms (s.updateStarted e c (s.blockOf e c) es) e es hsound
    obtain ⟨ws, hws⟩ := hupdate (c.update (s.blockOf e c) es) (by rw [hstart])
    refine ⟨?_, memoryKept_trans (memoryKept_of_fields rfl rfl rfl rfl) hmem, htiles, ?_, _, hws, rfl, rfl, rfl, htable, rfl, rfl⟩
    · unfold Started
      rw [heasel, hstart]
      exact Easel.setPhase_started (Easel.mem_of_dispatched hc) _
    · rw [heasel, hstart]
      rfl
  · subst hb hr
    obtain ⟨r, hr⟩ := Option.ne_none_iff_exists'.mp hbad
    have hexec := exec_update hc hw hnone
    rw [hr] at hexec
    exact ⟨_, hexec, (State.faultWith_stops hw ..).1, State.faultWith_update hw ..⟩
  · refine ⟨_, exec_updateApply_skips hu hw hopen hd hskip errs, ?_, s.dropUpdateWaiters_sem e⟩
    rfl
  · refine throughArbiters_of ((exec_updateApply hu hw hopen hd hskip hwait []).trans (if_neg (by simp [hfree]))) fun t _ => ?_
    rintro w rfl
    obtain ⟨hmem, hselect, htiles, hsems, hupdate⟩ := t.runUpdate_spec e y
    exact ⟨hmem, hselect, htiles, hsems, _, hupdate, fun p => State.mem_passWrites⟩
  · refine ⟨_, (exec_updateApply hu hw hopen hd hskip hwait errs).trans ((if_pos hheld).trans (if_neg (by simp [hstall]))), ?_⟩
    have heasel := ((s.setEasel e ((s.easel e).updateStalled y)).reportSeq_records 0x0903 e 0x09 0 y.seq y.step 0).2.1 e
    rw [State.setEasel_easel_self] at heasel
    unfold EaselRecords at heasel
    dsimp only
    rw [heasel]
    exact ⟨rfl, rfl⟩
  · obtain ⟨t, hdrained, hexec⟩ := exec_updateComplete hu hc hw hdone
    have hself := State.setEasel_easel_self s e ((s.easel e).updateOver y)
    obtain ⟨⟨hcmds, hcompleted⟩, htiles, heasel⟩ := hdrained.finishes c (by rw [hself]; unfold Easel.updateOver; split <;> exact hf) hs
    refine ⟨_, hexec, ⟨hcmds.trans ?_, hcompleted.trans ?_⟩, ?_, htiles, fun hskip => ?_, fun hskip => ?_⟩
    · rw [hself]
      unfold Easel.updateOver
      split <;> rfl
    · rw [hself]
      unfold Easel.updateOver
      split <;> rfl
    · rw [heasel, hdrained.easel, hself]
      unfold Easel.updateOver
      split <;> rfl
    · rw [heasel, hdrained.easel, hself, Easel.updateOver, if_pos hskip]
      exact ⟨rfl, rfl⟩
    · rw [heasel, hdrained.easel, hself, Easel.updateOver, if_neg (by simp [hskip])]
      exact ⟨rfl, rfl, rfl, rfl⟩

end Sys2Proof.Machine
end

section
/-! PROOFS. Exports, checkpoint drains and the log (R366, R369 to R375, R392). -/

namespace Sys2Proof.Machine

section
variable {s t : State} {e : Nat} {c : Cmd} {d : Drain} {y : Update}

/-! ### EXPORT -/

/-- A drain registered under the next number. -/
theorem State.addDrain_easel (s : State) (e : Nat) (d : Drain) (now : Bool) : (s.addDrain e d now).easel e =
    { s.easel e with drains := (s.easel e).drains ++ [{ d with id := (s.easel e).nextDrain }], nextDrain := (s.easel e).nextDrain + 1 } := by
  have hset := s.onEasel_easel_self e fun x =>
    { x with drains := x.drains ++ [{ d with id := (s.easel e).nextDrain }], nextDrain := x.nextDrain + 1 }
  unfold State.addDrain
  extract_lets d' s'
  split
  · exact hset
  · exact hset

/-- The drain of an exported image, before it has its number. -/
def State.exportDrain (s : State) (e : Nat) (c : Cmd) (b : List Byte) : Drain :=
  { id := 0, layer := 4, step := c.step, buffer := (s.easel e).select, held := c.step = (s.easel e).lastApplied, via := 0, phase := 0
    space := fld (at8 b 8 1) 0 4, address := at8 b 0 8, position := fld (at8 b 12 4) 0 20, channel := fld (at8 b 12 4) 24 4
    format := fld (at8 b 8 1) 4 4, slot := 0, header := [], facts := s.factsOf e c.step (s.easel e).lastBlock }

theorem exec_exportImage {b : List Byte} (hc : (s.easel e).dispatched 7 = some c) (hw : s.works e = true) (hb : b = s.blockOf e c)
    (hclean : s.poisonedVa e (c.param + 16 * c.listCount) 32 = false) (hlegal : s.exportLegal e b c.step = true)
    (hroom : c.step = (s.easel e).lastApplied → fld (at8 b 8 1) 0 4 = 1 →
      s.mapped e (at8 b 0 8) (128 + payloadBytes (s.easel e).lastEntries (s.extras e) (fld (at8 b 8 1) 4 4)) = true) :
    exec (.exportImage e) s = .next ((s.addDrain e (s.exportDrain e c b) (c.step = (s.easel e).lastApplied)).finishCmd e c) := by
  have harm : exec (.exportImage e) s = execExportImage e s := rfl
  rw [harm, execExportImage]
  dsimp only
  rw [hc]
  dsimp only
  rw [if_neg (by simp [hw]), ← hb, if_neg (by simp [hclean, hlegal]), if_neg]
  · rfl
  · simp only [Bool.and_eq_true, decide_eq_true_eq, Bool.not_eq_eq_eq_not, Bool.not_true]
    rintro ⟨⟨hnow, hspace⟩, hnot⟩
    rw [hroom hnow hspace] at hnot
    cases hnot

/-! ### CHECKPOINT_WRITTEN -/

theorem State.writeMarked_memoryOnly (s : State) (e space a : Nat) (bs : List Byte) (bad : List Bool) : MemoryOnly s (s.writeMarked e space a bs bad) := by
  refine (s.writeSpace_memoryOnly e space a bs).trans ?_
  refine foldl_keeps_state MemoryOnly .refl (fun _ _ _ => .trans) _ (fun s b => ?_) _ _
  split
  · exact s.poisonSpace_memoryOnly _ _ _ _
  · exact .refl s

/-- A drain that goes on: the oldest of its layer. -/
def Easel.nextOf (x : Easel) (layer : Nat) : Option Drain :=
  x.drains.find? fun d => d.layer = layer && (d.phase != 0 || d.held || x.slotWritten d)

/-- A drain's image acknowledged, before its record. -/
def State.imageOver (s : State) (e : Nat) (d : Drain) : State :=
  (s.endDrain e d).onEasel e fun x => { x with
    ckptLast := if d.layer = 4 then x.ckptLast else x.ckptLast.set (d.layer - 1) d.step,
    logs := if d.layer = 1 then x.logs.filter (fun l => decide (d.step < l.step)) else x.logs }

theorem State.imageDone_eq (s : State) (e : Nat) (d : Drain) : s.imageDone e d =
    (s.imageOver e d).reportSeq 0x0904 e 0x09 0 ((s.imageOver e d).easel e).lastSeq d.step d.layer := rfl

theorem State.imageOver_easel (s : State) (e : Nat) (d : Drain) : (s.imageOver e d).easel e = { s.easel e with
    drains := (s.easel e).drains.filter (·.id != d.id)
    ckptLast := if d.layer = 4 then (s.easel e).ckptLast else (s.easel e).ckptLast.set (d.layer - 1) d.step
    logs := if d.layer = 1 then (s.easel e).logs.filter (fun l => decide (d.step < l.step)) else (s.easel e).logs } := by
  have hend : (s.endDrain e d).easel e = { s.easel e with drains := (s.easel e).drains.filter (·.id != d.id) } :=
    s.onEasel_easel_self e fun x => { x with drains := x.drains.filter (·.id != d.id) }
  unfold State.imageOver
  rw [State.onEasel_easel_self, hend]

theorem State.copyToStage_stages {b : List Byte} (hb : t.payload e d.facts d.buffer 0 = some b) : let s' := t.copyToStage e d
    (∀ q ∈ (s'.easel e).drains, q.id = d.id → q.held = false ∧ q.phase = 1) ∧
    s'.mem = (t.writeMarked e 1 (policy t (0x9040 + e) 6) (imageHeader d.facts d.layer d.step 0 b ++ b)
      ([false, false] ++ t.payloadBad e d.facts d.buffer 0)).mem := by
  unfold State.copyToStage
  dsimp only
  rw [hb]
  refine ⟨fun q hq hid => ?_, rfl⟩
  dsimp only at hq
  rw [State.onEasel_easel_self] at hq
  obtain ⟨p, -, hp⟩ := List.mem_map.mp hq
  by_cases hsame : p.id = d.id
  · rw [if_pos hsame] at hp
    exact hp ▸ ⟨rfl, rfl⟩
  · rw [if_neg hsame] at hp
    exact absurd (hp ▸ hid) hsame

theorem State.exportHere_lands {b : List Byte} {bad : List Bool} (hb : t.drainPayload e d = some (b, bad))
    (hroom : t.mapped e d.address (128 + b.length) = true) : t.exportHere e d =
    (t.writeMarked e 1 d.address (imageHeader d.facts 4 d.step d.format b ++ b) ([false, false] ++ bad)).imageDone e d := by
  unfold State.exportHere
  rw [hb]
  exact if_neg (by simp [hroom])

theorem exec_checkpointWritten {layer : Nat} (hd : (s.easel e).nextOf layer = some d) : exec (.checkpointWritten e layer) s =
    if (decide (d.via = 1) && decide (d.phase = 0)) = true then .next (s.drainCopy e d fun s => s.copyToStage e d)
    else if d.space = 4 then
      if ((s.easel e).drains.any fun q => q.layer = 3 && q.via = 2 && q.slot = d.slot && q.step != d.step) = true then .next s
      else .next (s.drainCopy e d fun s => s.copyToFlash e d)
    else if (decide (d.via = 1) && decide (d.phase = 1) && !s.drainOpen e d) = true then .next (s.drainCopy e d fun s => s.beginFar e d)
    else if d.space = 1 then .next (s.drainCopy e d fun s => s.exportHere e d)
    else if d.phase = 0 then .next (s.drainCopy e d fun s => s.beginFar e d)
    else if (decide (d.phase = 2) && !s.drainOpen e d) = true then .next (s.imageDone e d)
    else .next s := by
  have harm : exec (.checkpointWritten e layer) s = execCheckpointWritten e layer s := rfl
  unfold Easel.nextOf at hd
  rw [harm, execCheckpointWritten, hd]

/-! ### LOG_ENTRY_WRITE -/

theorem State.sendWrites_sends {ch : Nat} (hport : s.ownPort ch ≠ none) (e dest a : Nat) (bs : List Byte) (bad : List Bool) (drain log : Option Nat) :
    ∃ w, s.sendWrites e ch dest a bs bad drain log = some w ∧ Requested s w := by
  obtain ⟨p, hp⟩ := Option.ne_none_iff_exists'.mp hport
  unfold State.sendWrites
  rw [hp]
  refine ⟨_, rfl, foldl_keeps_state Requested .refl (fun _ _ _ => .trans) _ (fun s i => ?_) _ s⟩
  split
  · exact s.requestOn_requested _ _ _ _ _ _ _ _ _ _ _ _ _ _
  · exact .refl s

theorem exec_logEntryWrite {ch : Nat} {skipped : Bool} (hu : (s.easel e).update = some y) (hch : s.drainChannel e = some ch) (hw : s.works e = true)
    (hon : s.layerOn e 1 = true) (hnew : ∀ l ∈ (s.easel e).logs, l.step ≠ y.step) (hstep : y.step ≤ (s.easel e).lastDone)
    (hskipped : skipped = ((s.easel e).decided y.step && (s.easel e).wasSkipped y.step)) (hin : skipped = true ∨ (s.easel e).shardsIn y = true) :
    exec (.logEntryWrite e) s = .next (s.atArbiters (.log e y.step) 1024
      (if skipped = true then [] else s.arbsBeside e (y.entries.map fun g => (gShard g, 4 * gCount g))) fun t => t.writeLog e ch y) := by
  have harm : exec (.logEntryWrite e) s = execLogEntryWrite e s := rfl
  have hlogs : ((s.easel e).logs.any fun l => decide (l.step = y.step)) = false := by simpa using hnew
  have hready : (skipped || (s.easel e).shardsIn y) = true := by
    rcases hin with h | h
    · rw [h]; rfl
    · rw [h, Bool.or_true]
  rw [harm, execLogEntryWrite]
  dsimp only
  rw [hu, hch]
  dsimp only
  rw [← hskipped]
  exact if_neg (by simp [hw, hon, hlogs, hready, hstep])

/-- A log entry sent to the partner takes the next position. -/
theorem State.writeLog_logs (t : State) {ch : Nat} (hport : t.ownPort ch ≠ none) (e : Nat) (y : Update) : ∀ s', s' = t.writeLog e ch y →
    MemoryKept t s' ∧ s'.tiles = t.tiles ∧ ∃ l, s'.easel e = { t.easel e with
        logs := (t.easel e).logs ++ [l], logPos := ((t.easel e).logPos + 1) % (2 * t.every e 1) } ∧
      l.step = y.step ∧ l.address = policy t (0x9040 + e) 2 + 2 * t.imageRoom e y.entries +
        (t.easel e).logPos % (2 * t.every e 1) * (64 + shardBytes y.entries) := by
  intro s' hs
  unfold State.writeLog at hs
  extract_lets x skipped n part payload bad a k h l dest at hs
  have hsent : ∃ w, (if payload.isEmpty then t.sendWrites e ch dest a h [] none (some y.step)
      else t.sendWrites e ch dest (a + 64) payload bad none (some y.step)) = some w ∧ Requested t w := by
    split
    · exact State.sendWrites_sends hport ..
    · exact State.sendWrites_sends hport ..
  obtain ⟨w, hw, hreq⟩ := hsent
  rw [hw] at hs
  subst hs
  refine ⟨memoryKept_trans hreq.memoryKept (memoryKept_of_fields rfl rfl rfl rfl), (State.onEasel_tiles ..).trans hreq.tiles, l, ?_, rfl, rfl⟩
  rw [State.onEasel_easel_self, hreq.easel]

end

/-- Settles O39: exports, drains and the log. -/
theorem checkpointsAndLog : Obligations.CheckpointsAndLog := by
  unfold Obligations.CheckpointsAndLog
  refine ⟨fun s e c b space format hc hw hb hspace hformat hclean hlegal hroom hf hs => ?_, fun s e layer d hd => ⟨?_, ?_, ?_, ?_⟩,
    fun s e ch y hu hch hw hon hnew hstep skipped hskipped hin => ?_⟩
  · subst hspace hformat
    refine ⟨_, exec_exportImage hc hw hb hclean hlegal hroom, ?_⟩
    have hadd := s.addDrain_easel e (s.exportDrain e c b) (c.step = (s.easel e).lastApplied)
    obtain ⟨hended, -, hdone⟩ := (s.addDrain_drained e (s.exportDrain e c b) (c.step = (s.easel e).lastApplied)).finishes c hf hs
    unfold EaselDone at hdone
    rw [hadd] at hdone
    refine ⟨hended, ?_, ?_, { s.exportDrain e c b with id := (s.easel e).nextDrain }, ?_, rfl, rfl, rfl, rfl, ?_, rfl, rfl, rfl⟩
    · rw [hdone]
    · rw [hdone]
    · rw [hdone]
    · exact decide_eq_true_iff
  · intro hvia hspace hphase hopen
    rw [exec_checkpointWritten hd]
    simp [hvia, hspace, hphase, hopen]
  · intro hvia hspace
    have hexec : exec (.checkpointWritten e layer) s = .next (s.drainCopy e d fun s => s.exportHere e d) := by
      rw [exec_checkpointWritten hd]
      simp [hvia, hspace]
    refine throughArbiters_of hexec fun t _ b bad hb hroom => ?_
    have hmarked := t.writeMarked_memoryOnly e 1 d.address (imageHeader d.facts 4 d.step d.format b ++ b) ([false, false] ++ bad)
    rw [State.exportHere_lands hb hroom]
    generalize t.writeMarked e 1 d.address (imageHeader d.facts 4 d.step d.format b ++ b) ([false, false] ++ bad) = w at hmarked ⊢
    refine ⟨w.imageOver e d, rfl, ?_, ?_, State.imageDone_eq w e d⟩
    · rw [State.imageOver_easel, hmarked.easel]
    · have htiles : (w.imageOver e d).tiles = w.tiles := rfl
      rw [htiles, hmarked.1]
  · intro hvia hphase
    have hexec : exec (.checkpointWritten e layer) s = .next (s.drainCopy e d fun s => s.copyToStage e d) := by
      rw [exec_checkpointWritten hd]
      simp [hvia, hphase]
    refine throughArbiters_of hexec fun t _ b hb => ?_
    obtain ⟨hdrains, hmem⟩ := State.copyToStage_stages hb
    exact ⟨hdrains, _, hmem⟩
  · intro hvia hspace hphase hopen
    have hexec : exec (.checkpointWritten e layer) s = .next (s.imageDone e d) := by
      rw [exec_checkpointWritten hd]
      simp [hvia, hspace, hphase, hopen]
    have hlayer : d.layer = layer := by
      have hkey := List.find?_some hd
      simp only [Bool.and_eq_true, decide_eq_true_eq] at hkey
      exact hkey.1
    refine ⟨_, hexec, ?_⟩
    rw [State.imageDone_eq]
    have hrec := (s.imageOver e d).reportSeq_records 0x0904 e 0x09 0 ((s.imageOver e d).easel e).lastSeq d.step d.layer
    generalize (s.imageOver e d).reportSeq 0x0904 e 0x09 0 ((s.imageOver e d).easel e).lastSeq d.step d.layer = w at hrec ⊢
    have heasel := hrec.2.1 e
    rw [State.imageOver_easel, hlayer] at heasel
    unfold EaselRecords at heasel
    refine ⟨?_, ?_, ?_, ?_, hrec.tiles, hrec.sems⟩
    · rw [heasel]
    · rw [heasel]
    · rw [heasel]
    · rw [heasel]
  · refine throughArbiters_of (exec_logEntryWrite hu hch hw hon hnew hstep hskipped hin) fun t ht hport => ?_
    have hupdate : (t.easel e).update = some y := by
      rcases ht with rfl | rfl
      · exact hu
      · exact hu
    obtain ⟨hmem, htiles, l, heasel, hlstep, haddress⟩ := t.writeLog_logs hport e y _ rfl
    refine ⟨hmem, htiles, ?_, ?_, l, ?_, hlstep, haddress⟩
    · rw [heasel]
    · rw [heasel]
      exact hupdate
    · rw [heasel]

end Sys2Proof.Machine
end

section
/-! PROOFS. Doorbells, queue registers, the memory window, MSI-X and configuration requests (R398 to R412). -/

namespace Sys2Proof.Machine

/-! ### What records leave of the queues -/

/-- What records leave of a queue: its head, state and cause, and a command queue's tail. -/
def Queue.front (q : Nat) (u : Queue) : Nat × Nat × Nat × Nat := (u.head, u.state, u.cause, if q = 32 then 0 else u.tail)

/-- Every queue of every easel has its front. -/
def FrontKept (s s' : State) : Prop := ∀ e q, ((s'.easel e).queueAt q).front q = ((s.easel e).queueAt q).front q

section
variable {s t u : State} {e : Nat} {x : Easel}

theorem FrontKept.refl (s : State) : FrontKept s s := fun _ _ => rfl

theorem FrontKept.trans (h : FrontKept s t) (k : FrontKept t u) : FrontKept s u := fun e q => (k e q).trans (h e q)

theorem FrontKept.of_easels (h : t.easels = s.easels) : FrontKept s t := fun e q => by rw [State.easel, h, State.easel]

theorem State.setEasel_front (h : ∀ q, (x.queueAt q).front q = ((s.easel e).queueAt q).front q) : FrontKept s (s.setEasel e x) := by
  intro f q
  by_cases hf : f = e
  · rw [hf, State.setEasel_easel_self, h]
  · rw [State.setEasel_easel_ne _ _ _ _ hf]

theorem Easel.setQueue_front {q : Nat} {v : Queue} (h : v.front q = (x.queueAt q).front q) (j : Nat) :
    ((x.setQueue q v).queueAt j).front j = (x.queueAt j).front j := by
  by_cases hj : j = q
  · rw [hj, Easel.setQueue_queueAt_self, h]
  · rw [Easel.setQueue_queueAt_ne x q v hj]

theorem Easel.queueAt_front {y : Easel} (hq : y.queues = x.queues) (he : y.events.front 32 = x.events.front 32) (q : Nat) :
    (y.queueAt q).front q = (x.queueAt q).front q := by
  unfold Easel.queueAt
  by_cases h : q = 32
  · rw [if_pos h, if_pos h, h, he]
  · rw [if_neg h, if_neg h, hq]

theorem MemoryOnly.front (h : MemoryOnly s t) : FrontKept s t := .of_easels (by rw [h.1])

theorem State.emit_front (s : State) (o : Out) : FrontKept s (s.emit o) := .of_easels rfl

theorem State.fireVector_front (s : State) (e q : Nat) : FrontKept s (s.fireVector e q) := by
  unfold State.fireVector
  dsimp only
  split
  · exact .refl s
  · split
    · exact State.setEasel_front (Easel.setQueue_front rfl)
    · split
      · refine FrontKept.trans ?_ (State.emit_front _ _)
        exact State.setEasel_front (Easel.setQueue_front rfl)
      · exact State.setEasel_front (Easel.queueAt_front rfl rfl)

theorem State.putRecord_front (s : State) (e : Nat) (v : Event) : FrontKept s (s.putRecord e v) := by
  unfold State.putRecord
  dsimp only
  refine FrontKept.trans ?_ (State.fireVector_front _ _ _)
  refine FrontKept.trans ?_ (State.setEasel_front (Easel.queueAt_front rfl rfl))
  split
  · exact (s.writeVa_memoryOnly _ _ _).front
  · exact s.emit_front _

theorem flushHeld_front (e : Nat) (l : List Event) (s : State) : FrontKept s (flushHeld s e l) := by
  induction l generalizing s with
  | nil => exact State.setEasel_front (Easel.queueAt_front rfl rfl)
  | cons v l ih =>
    unfold flushHeld
    split
    · exact (s.putRecord_front e v).trans (ih _)
    · exact State.setEasel_front (Easel.queueAt_front rfl rfl)

theorem State.flush_front (s : State) (e : Nat) : FrontKept s (s.flush e) := by
  unfold State.flush
  dsimp only
  split
  · refine FrontKept.trans ?_ (flushHeld_front _ _ _)
    split
    · exact .refl s
    · have hdropped : FrontKept s (s.setEasel e { s.easel e with dropped := 0 }) := State.setEasel_front (Easel.queueAt_front rfl rfl)
      exact hdropped.trans (State.putRecord_front _ _ _)
  · exact .refl s

theorem Easel.hold_front (x : Easel) (v : Event) (q : Nat) : ((x.hold v).queueAt q).front q = (x.queueAt q).front q := by
  unfold Easel.hold
  dsimp only
  split
  · exact Easel.queueAt_front rfl rfl q
  · split
    · exact Easel.queueAt_front rfl rfl q
    · split <;> exact Easel.queueAt_front rfl rfl q

theorem State.post_front (s : State) (v : Event) : FrontKept s (s.post v) := by
  have hdeliver (e : Nat) : FrontKept s (s.deliver e v) := by
    unfold State.deliver
    dsimp only
    split
    · exact s.putRecord_front e v
    · exact (State.setEasel_front (Easel.hold_front _ v)).trans (State.flush_front _ _)
  exact (hdeliver _).trans (.of_easels rfl)

/-- A trace unit changes no easel. -/
theorem State.traceTake_easels (s : State) (d e code seq : Nat) : (s.traceTake d e code seq).1.easels = s.easels := by
  have hask (t : State) : (t.traceAsk d).easels = t.easels := by
    unfold State.traceAsk
    dsimp only
    split <;> rfl
  have hstore (t : State) (bs : List Byte) : (t.traceStore d e bs).1.easels = t.easels := by
    unfold State.traceStore
    dsimp only
    split
    · rfl
    split
    · rfl
    · split
      · rfl
      · exact hask _
  unfold State.traceTake
  dsimp only
  split
  · exact hstore _ _
  · rfl

theorem raiseChain_front (n : Nat) (v : Event) (s : State) : FrontKept s (raiseChain n v s) := by
  induction n generalizing v s with
  | zero => exact s.post_front v
  | succ n ih =>
    unfold raiseChain
    dsimp only
    split
    · refine (s.post_front v).trans (foldl_keeps_state FrontKept .refl (fun _ _ _ => .trans) _ (fun t d => ?_) _ _)
      exact (FrontKept.of_easels (t.traceTake_easels _ _ _ _)).trans
        (foldl_keeps_state FrontKept .refl (fun _ _ _ => .trans) _ (fun u w => ih w u) _ _)
    · exact s.post_front v

theorem State.report_front (s : State) (code e cls unit a b : Nat) : FrontKept s (s.report code e cls unit a b) := raiseChain_front _ _ s

end

/-! ### Doorbells (R400, R401, R407) -/

theorem onlyEasel_setEasel (s : State) (e : Nat) (x : Easel) : OnlyEasel e s (s.setEasel e x) ∧ (s.setEasel e x).easel e = x := by
  unfold OnlyEasel
  rw [State.setEasel_easel_self]
  exact ⟨rfl, rfl⟩

section
variable {s t : State} {f q v : Nat} {u : Queue}

theorem exec_doorbell (hr : s.reachable f = true) (hq : q < 32) : exec (.doorbell f q v) s = .next (s.ring f q v) := by
  have harm : exec (.doorbell f q v) s = execDoorbell f q v s := rfl
  rw [harm, execDoorbell, State.atBar0_reached hr]
  exact congrArg _ (if_pos hq)

theorem exec_eventDoorbell (hr : s.reachable f = true) : exec (.eventDoorbell f v) s = .next (s.ring f 32 v) := by
  have harm : exec (.eventDoorbell f v) s = execEventDoorbell f v s := rfl
  rw [harm, execEventDoorbell, State.atBar0_reached hr]

theorem State.ring_waits (h : s.asked (.bar2 f true) ≠ none) (q v : Nat) :
    s.ring f q v = { s with host := { s.host with doorbells := s.host.doorbells ++ [(f, q, v)] } } := by
  unfold State.ring
  exact if_pos (Option.isSome_iff_ne_none.mpr h)

theorem State.ring_applies (h : s.asked (.bar2 f true) = none) (q v : Nat) : s.ring f q v = s.applyDoorbell f q v := by
  unfold State.ring
  rw [h]
  exact if_neg (by simp)

theorem State.applyDoorbell_command (s : State) (f v : Nat) (hq : q < 32) : s.applyDoorbell f q v = s.doorbell f q v := by
  unfold State.applyDoorbell
  exact if_neg (by omega)

theorem State.applyDoorbell_event (s : State) (f v : Nat) : s.applyDoorbell f 32 v = s.eventDoorbell f v := if_pos rfl

theorem Easel.queueAt_event (x : Easel) : x.queueAt 32 = x.events := if_pos rfl

theorem State.doorbell_enabled (ho : s.ownsQueue f q = true) (hu : u = (s.easel f).queueAt q) (he : u.enable = true) (hs : u.state ≠ 3)
    (hb : s.bound f = true) (v : Nat) : s.doorbell f q v = if since v u.head ≤ u.size ∧ since v u.tail ≤ u.size then
      s.setEasel f ((s.easel f).setQueue q { u with tail := v % 2 ^ 32, state := waitState u.head (v % 2 ^ 32) }) else s.overrun f q v := by
  subst hu
  unfold State.doorbell
  dsimp only
  rw [if_neg (by simp [ho]), if_neg (by simp [he, hs, hb])]
  rfl

theorem State.doorbell_disabled (ho : s.ownsQueue f q = true) (he : ((s.easel f).queueAt q).enable = false) (v : Nat) :
    s.doorbell f q v = s.rejectDoorbell := by
  unfold State.doorbell
  dsimp only
  rw [if_neg (by simp [ho])]
  exact if_pos (by simp [he])

/-- A doorbell outside the rule stops its queue. -/
theorem State.overrun_stops (s : State) (f v : Nat) (hq : q < 32) : let s' := s.overrun f q v
    ((s'.easel f).queueAt q).state = 3 ∧ ((s'.easel f).queueAt q).cause = 2 ∧ ((s'.easel f).queueAt q).tail = ((s.easel f).queueAt q).tail ∧
    s'.host.doorbellsRejected = s.host.doorbellsRejected + 1 := by
  unfold State.overrun
  dsimp only
  have hstop := State.onEasel_easel_self s.rejectDoorbell f fun x => x.setQueue q { x.queueAt q with state := 3, cause := 0x02 }
  have hreject : s.rejectDoorbell.easel f = s.easel f := rfl
  have hhost : (s.rejectDoorbell.onEasel f fun x => x.setQueue q { x.queueAt q with state := 3, cause := 0x02 }).host.doorbellsRejected =
      s.host.doorbellsRejected + 1 := rfl
  rw [hreject] at hstop
  generalize (s.rejectDoorbell.onEasel f fun x => x.setQueue q { x.queueAt q with state := 3, cause := 0x02 }) = t at hstop hhost ⊢
  have hfront := t.report_front 0x0102 f 0x01 (queueUnit f q) v 1 f q
  have hrec := State.reportSeq_records t 0x0102 f 0x01 (queueUnit f q) (t.easel f).lastSeq v 1
  have hkept : (t.report 0x0102 f 0x01 (queueUnit f q) v 1).host = t.host := by
    have := congrArg State.host hrec.1
    exact this
  rw [hstop, Easel.setQueue_queueAt_self, Queue.front, Queue.front] at hfront
  simp only [Prod.mk.injEq, if_neg (show q ≠ 32 by omega)] at hfront
  obtain ⟨-, hstate, hcause, htail⟩ := hfront
  exact ⟨hstate, hcause, htail, by rw [hkept, hhost]⟩

/-- A doorbell of the event queue within the rule moves its head. -/
theorem State.eventDoorbell_moves (hm : (s.easel f).mode ≠ .free) (hu : u = (s.easel f).events) (he : u.enable = true) (hs : u.state ≠ 3)
    (hleft : since u.tail v ≤ u.size) (hhead : since v u.head ≤ u.size) : let s' := s.eventDoorbell f v
    (s'.easel f).events.head = v % 2 ^ 32 ∧ (s'.easel f).mode = (s.easel f).mode ∧ s'.tiles = s.tiles ∧ s'.sems = s.sems := by
  subst hu
  unfold State.eventDoorbell
  dsimp only
  rw [if_neg hm, if_neg (by simp [he, hs]), if_pos ⟨hleft, hhead⟩]
  have hself := s.onEasel_easel_self f fun x => { x with events := { (s.easel f).events with head := v % 2 ^ 32 } }
  have hkept : (s.onEasel f fun x => { x with events := { (s.easel f).events with head := v % 2 ^ 32 } }).tiles = s.tiles ∧
      (s.onEasel f fun x => { x with events := { (s.easel f).events with head := v % 2 ^ 32 } }).sems = s.sems := ⟨rfl, rfl⟩
  generalize (s.onEasel f fun x => { x with events := { (s.easel f).events with head := v % 2 ^ 32 } }) = t at hself hkept ⊢
  have hfront := congrArg Prod.fst (t.flush_front f f 32)
  have hrec := t.flush_records f
  have heasel := hrec.2.1 f
  unfold EaselRecords at heasel
  refine ⟨?_, ?_, hrec.tiles.trans hkept.1, hrec.sems.trans hkept.2⟩
  · rw [hself] at hfront
    exact hfront
  · rw [heasel, hself]

/-! ### Queue registers (R398, R399) -/

theorem State.writeControl_owned (ho : s.ownsQueue f q = true) (v : Nat) : s.writeControl f q v =
    if v.testBit 0 then
      if (((s.easel f).queueAt q).control v).enable then s.setEasel f ((s.easel f).setQueue q (((s.easel f).queueAt q).control v))
      else if s.enableLegal f q (((s.easel f).queueAt q).control v) then
        if q = 32 then ((s.setEasel f ((s.easel f).setQueue q (((s.easel f).queueAt q).control v).start)).onEasel f fun x => { x with lost := 0 }).flush f
        else s.setEasel f ((s.easel f).setQueue q (((s.easel f).queueAt q).control v).start)
      else s.setEasel f ((s.easel f).setQueue q (((s.easel f).queueAt q).control v))
    else s.setEasel f ((s.easel f).setQueue q (((s.easel f).queueAt q).control v).stop) := by
  unfold State.writeControl
  exact if_neg (by simp [ho])

theorem exec_queueEnable (hr : s.reachable f = true) (hv : v.testBit 0 = true) : exec (.queueEnable f q v) s = .next (s.writeControl f q v) := by
  have harm : exec (.queueEnable f q v) s = execQueueEnable f q v s := rfl
  rw [harm, execQueueEnable, State.atBar0_reached hr]
  exact congrArg _ (if_pos hv)

theorem exec_queueDisable (hr : s.reachable f = true) (hv : v.testBit 0 = false) : exec (.queueDisable f q v) s = .next (s.writeControl f q v) := by
  have harm : exec (.queueDisable f q v) s = execQueueDisable f q v s := rfl
  rw [harm, execQueueDisable, State.atBar0_reached hr]
  exact congrArg _ (if_neg (by simp [hv]))

theorem exec_registerWrite_word {off : Nat} (hr : s.reachable f = true) (ho : off % 4 = 0) : exec (.registerWrite f off 4 v) s =
    .next (s.writeBar0 f off (v % 2 ^ 32)) := by
  have harm : exec (.registerWrite f off 4 v) s = execRegisterWrite f off 4 v s := rfl
  rw [harm, execRegisterWrite, State.atBar0_reached hr]
  exact congrArg _ (if_pos ⟨rfl, ho⟩)

theorem exec_registerWrite_pair {off : Nat} (hr : s.reachable f = true) (ho : off % 8 = 0) : exec (.registerWrite f off 8 v) s =
    .next ((s.writeBar0 f off (v % 2 ^ 32)).writeBar0 f (off + 4) (v / 2 ^ 32 % 2 ^ 32)) := by
  have harm : exec (.registerWrite f off 8 v) s = execRegisterWrite f off 8 v s := rfl
  rw [harm, execRegisterWrite, State.atBar0_reached hr, if_neg (by simp)]
  exact congrArg _ (if_pos ⟨rfl, ho⟩)

/-- A write of a command queue's size register. -/
theorem State.writeBar0_size (ho : s.ownsQueue f q = true) (hq : q < 32) (v : Nat) : s.writeBar0 f (0x1000 + 0x100 * q + 8) v =
    if ((s.easel f).queueAt q).enable then s else s.setEasel f ((s.easel f).setQueue q { (s.easel f).queueAt q with size := v % 2 ^ 32 }) := by
  have hnum : (0x1000 + 0x100 * q + 8) / 0x100 - 0x10 = q := by omega
  have hoff : (0x1000 + 0x100 * q + 8) % 0x100 = 8 := by omega
  unfold State.writeBar0
  rw [if_neg (by omega), if_pos (by omega), hnum, hoff, State.writeQueueReg]
  exact if_neg (by simp [ho])

/-- A window base below 2^48 in whole pages is what its two words make of it. -/
theorem windowBase_words {old v : Nat} (hv : v < 2 ^ 48) (hpage : v % 2097152 = 0) :
    half64 (half64 old 0 (v % 2 ^ 32) / 2097152 * 2097152) 1 (v / 2 ^ 32 % 2 ^ 32 % 65536) = v := by
  unfold half64
  simp only [if_true, if_neg (show (1 : Nat) ≠ 0 by decide)]
  omega

theorem State.writeBar0_window (s : State) (f : Nat) {v : Nat} (hv : v < 2 ^ 48) (hpage : v % 2097152 = 0) :
    (s.writeBar0 f 0x18 (v % 2 ^ 32)).writeBar0 f 0x1C (v / 2 ^ 32 % 2 ^ 32) = s.setEasel f { s.easel f with windowBase := v } := by
  have hlow (t : State) (w : Nat) : t.writeBar0 f 0x18 w =
      t.setEasel f { t.easel f with windowBase := half64 (t.easel f).windowBase 0 w / 2097152 * 2097152 } := rfl
  have hhigh (t : State) (w : Nat) : t.writeBar0 f 0x1C w = t.setEasel f { t.easel f with windowBase := half64 (t.easel f).windowBase 1 (w % 65536) } := rfl
  rw [hlow, hhigh, State.setEasel_easel_self, State.setEasel_setEasel]
  dsimp only
  rw [windowBase_words hv hpage]

/-! ### The memory window (R410, R411) -/

/-- Translations asked of caches. -/
def TranslationsOnly (s s' : State) : Prop :=
  s' = { s with streams := { s.streams with caches := s'.streams.caches, misses := s'.streams.misses } }

theorem TranslationsOnly.refl (s : State) : TranslationsOnly s s := rfl

theorem TranslationsOnly.trans {w : State} (h : TranslationsOnly s t) (k : TranslationsOnly t w) : TranslationsOnly s w := by
  unfold TranslationsOnly at *
  rw [k]
  conv_lhs => rw [h]

theorem State.useTranslation_only (s : State) (holder e va n : Nat) : TranslationsOnly s (s.useTranslation holder e va n) := by
  unfold State.useTranslation
  split
  · exact .refl s
  · refine foldl_keeps_state TranslationsOnly .refl (fun _ _ _ => .trans) _ (fun s vpn => ?_) _ s
    split
    · exact .refl s
    · split
      · exact .refl s
      · exact rfl

/-- Streams alone: the cached translations and the requests at the arbiters. -/
def StreamsOnly (s s' : State) : Prop := s' = { s with streams := s'.streams }

theorem State.useTranslation_streams (s : State) (holder e va n : Nat) : StreamsOnly s (s.useTranslation holder e va n) := by
  have honly := s.useTranslation_only holder e va n
  unfold TranslationsOnly at honly
  unfold StreamsOnly
  conv_lhs => rw [honly]
  conv_rhs => rw [honly]

/-- A store reads and changes no stream. -/
theorem State.writeAt_streams (s : State) (x : Streams) (a : Nat) (bs : List Byte) :
    ({ s with streams := x } : State).writeAt a bs = { s.writeAt a bs with streams := x } := by
  unfold State.writeAt
  dsimp only
  split
  · rfl
  · split
    · rfl
    · split <;> rfl

theorem State.writeVa_streams (s : State) (x : Streams) (e va : Nat) (bs : List Byte) :
    ({ s with streams := x } : State).writeVa e va bs = { s.writeVa e va bs with streams := x } := by
  unfold State.writeVa
  generalize piecesOf pageBytes va bs.length = l
  induction l generalizing s bs with
  | nil => rfl
  | cons p l ih =>
    rw [List.foldl_cons, List.foldl_cons]
    have htranslate : ({ s with streams := x } : State).translate e p.1 = s.translate e p.1 := rfl
    dsimp only
    rw [htranslate]
    cases s.translate e p.1 with
    | none => exact ih s _
    | some a =>
      dsimp only
      rw [State.writeAt_streams]
      exact ih _ _

theorem StreamsOnly.writeVa_mem (h : StreamsOnly s t) (e va : Nat) (bs : List Byte) : (t.writeVa e va bs).mem = (s.writeVa e va bs).mem := by
  unfold StreamsOnly at h
  rw [h, State.writeVa_streams]

/-- A store through the window: the bytes written, and marks of poison. -/
theorem State.bar2Store_stores (s : State) (e va : Nat) (bs : List Byte) :
    MemoryOnly s (s.bar2Store e va bs) ∧ (s.bar2Store e va bs).mem = (s.writeVa e va bs).mem := by
  unfold State.bar2Store
  dsimp only
  refine ⟨(s.writeVa_memoryOnly e va bs).trans (foldl_keeps_state MemoryOnly .refl (fun _ _ _ => .trans) _ (fun s p => ?_) _ _), ?_⟩
  · split
    · exact s.setPoison_memoryOnly _ _
    · exact .refl s
  · refine foldl_keeps_state (fun s s' => s'.mem = s.mem) (fun _ => rfl) (fun _ _ _ h k => k.trans h) _ (fun s p => ?_) _ _
    split <;> rfl

/-- With no line of it poisoned, a read answers the bytes of its lines, and no EP bit. -/
theorem State.bar2Bytes_clean {e va n : Nat} (h : ∀ p ∈ piecesOf 64 va n, s.poisonedVa e (p.1 / 64 * 64) 64 = false) :
    s.bar2Bytes e va n = ((piecesOf 64 va n).flatMap fun p => (s.readVa e p.1 p.2).getD [], false) := by
  unfold State.bar2Bytes
  have hfold (l : List (Nat × Nat)) (acc : List Byte) (hl : ∀ p ∈ l, s.poisonedVa e (p.1 / 64 * 64) 64 = false) :
      l.foldl (fun (r : List Byte × Bool) p => if s.poisonedVa e (p.1 / 64 * 64) 64 then (r.1 ++ List.replicate p.2 0xFF, true)
        else (r.1 ++ (s.readVa e p.1 p.2).getD [], r.2)) (acc, false) = (acc ++ l.flatMap fun p => (s.readVa e p.1 p.2).getD [], false) := by
    induction l generalizing acc with
    | nil => simp
    | cons p l ih =>
      rw [List.foldl_cons, if_neg (by simp [hl p]), ih _ fun q hq => hl q (List.mem_cons_of_mem _ hq), List.flatMap_cons, List.append_assoc]
  exact (hfold _ [] h).trans (by rw [List.nil_append])

theorem exec_bar2Read {off n : Nat} (ha : s.answers f = true) (errs : List (Nat × MemErr)) : exec (.bar2Read f off n errs) s =
    if s.host.d3hot.contains f || !s.bar2Ok f off n then .next (s.unsupported.emit (.barRead f 1 []))
    else .next (s.bar2Access f false ((s.easel f).windowBase + off) n fun t => t.bar2Answer f ((s.easel f).windowBase + off) n errs) := by
  have harm : exec (.bar2Read f off n errs) s = execBar2Read f off n errs s := rfl
  rw [harm, execBar2Read]
  exact if_neg (by simp [ha])

theorem exec_bar2Write {off : Nat} (ha : s.answers f = true) (bs : List Byte) : exec (.bar2Write f off bs) s =
    if s.host.d3hot.contains f || !s.bar2Ok f off bs.length then .next s.unsupported
    else .next (s.bar2Access f true ((s.easel f).windowBase + off) bs.length fun t => (t.bar2Store f ((s.easel f).windowBase + off) bs).ringHeld f) := by
  have harm : exec (.bar2Write f off bs) s = execBar2Write f off bs s := rfl
  rw [harm, execBar2Write]
  exact if_neg (by simp [ha])

/-- The doorbells of a function that waited, where none did and where one did. -/
theorem State.ringHeld_none (h : ∀ d ∈ s.host.doorbells, d.1 ≠ f) : s.ringHeld f = s := by
  unfold State.ringHeld
  have hnone : s.host.doorbells.filter (fun d => decide (d.1 = f)) = [] := List.filter_eq_nil_iff.mpr fun d hd => by simpa using h d hd
  have hall : s.host.doorbells.filter (fun d => d.1 != f) = s.host.doorbells := List.filter_eq_self.mpr fun d hd => by simpa using h d hd
  rw [hnone, hall]
  rfl

theorem State.ringHeld_one {d : Nat} (h : s.host.doorbells = [(f, q, d)]) :
    s.ringHeld f = ({ s with host := { s.host with doorbells := [] } } : State).applyDoorbell f q d := by
  unfold State.ringHeld
  rw [h]
  simp

/-! ### MSI-X (R409) -/

theorem exec_msixHoldoffExpiry (hu : u = (s.easel f).queueAt q) (hh : u.inHoldoff = true) : exec (.msixHoldoffExpiry f q) s =
    let t := s.setEasel f ((s.easel f).setQueue q { u with inHoldoff := false, covered := false })
    .next (if u.covered then t.fireVector f q else t) := by
  subst hu
  have harm : exec (.msixHoldoffExpiry f q) s = execMsixHoldoffExpiry f q s := rfl
  rw [harm, execMsixHoldoffExpiry]
  exact if_neg (by simp [hh])

/-- An unmasked vector of a queue with irq fires at once outside a holdoff interval, and begins one. -/
theorem State.fireVector_fires (hu : u = (s.easel f).queueAt q) (he : u.enable = true) (hh : u.inHoldoff = false) (hi : u.irq = true)
    (hm : ((s.easel f).vectorAt u.vector).masked = false) (hl : s.host.linkUp = true) : s.fireVector f q =
    (s.setEasel f ((s.easel f).setQueue q { u with inHoldoff := u.holdoff != 0 })).emit (.msix f u.vector) := by
  subst hu
  unfold State.fireVector
  dsimp only
  rw [if_neg (by simp [he]), if_neg (by simp [hh])]
  exact if_pos (by simp [hi, hm, hl])

theorem Easel.setQueue_vectorAt (x : Easel) (q : Nat) (u : Queue) (i : Nat) : (x.setQueue q u).vectorAt i = x.vectorAt i :=
  x.setQueue_keeps q u (fun y => y.vectorAt i) fun _ _ _ => rfl

/-! ### Configuration requests -/

theorem exec_configRequest {r : CfgReq} (hl : s.host.linkUp = true) (hf : s.functionOn f = true) : exec (.configRequest f r) s =
    if !s.vbusUp then .next (s.emit (.cfg f 1 0))
    else match r with
      | .readDeviceId => .next (s.emit (.cfg f 0 (Sys2Proof.Config.vendorId % 65536 + (if f = 0 then 0x1280 else 0x1281) * 65536)))
      | .readClass => .next (s.emit (.cfg f 0 0x120000))
      | .readBarSizes => .next (s.emit (.cfg f 0 (2 ^ 26 + 2 ^ 38 * 2 ^ 64)))
      | .writeVfEnable enable n =>
        if f != 0 then .next (s.emit (.cfg f 0 0))
        else if (if enable then min n 63 else 0) < s.host.numVfs then .next ((s.disableVfs (if enable then min n 63 else 0) 2).emit (.cfg f 0 0))
        else .next (({ s with host := { s.host with numVfs := if enable then min n 63 else 0 } } : State).emit (.cfg f 0 0))
      | .writeAbsent => .next (s.emit (.cfg f 0 0)) := by
  have harm : exec (.configRequest f r) s = execConfigRequest f r s := rfl
  rw [harm]
  unfold execConfigRequest
  exact if_neg (by simp [hl, hf])

end

/-- Settles O54: doorbells and registers, the memory window, messages and configuration requests. -/
theorem hostAccesses : Obligations.HostAccesses := by
  unfold Obligations.HostAccesses
  refine ⟨fun s f q v u hr hu => ⟨fun hq hask => ?_, fun hq hask ho he hs hb => ⟨fun hhead htail => ?_, fun hout => ?_⟩, fun hq hask ho he => ?_,
      fun hq hask hm he hs hleft hhead => ?_, fun hq ho hv w hw => ⟨fun hoff hlegal => ?_, fun hoff hlegal => ?_⟩, fun hq ho hv => ?_,
      fun hq ho he => ?_, fun hq ho he => ?_, fun hv hpage => ?_⟩,
    fun s f off n ha va hva => ⟨fun hd hok hclean => ?_, fun bs hd hok => ?_, fun hno errs => ?_, fun bs hno => ?_⟩,
    fun s f q u hu hh => ⟨fun hc => ?_, fun hc he hi hm hl => ?_⟩,
    fun s f r hl hf => ⟨fun hdown => ?_, fun hup hread => ?_, fun n hup h0 hwrite hless => ?_⟩⟩
  · exact ⟨_, exec_doorbell hr hq, State.ring_waits hask q v⟩
  · refine ⟨_, exec_doorbell hr hq, ?_⟩
    rw [State.ring_applies hask, State.applyDoorbell_command s f v hq, State.doorbell_enabled ho hu he hs hb, if_pos ⟨hhead, htail⟩]
    exact onlyEasel_setEasel _ _ _
  · refine ⟨_, exec_doorbell hr hq, ?_⟩
    rw [State.ring_applies hask, State.applyDoorbell_command s f v hq, State.doorbell_enabled ho hu he hs hb,
      if_neg fun hin => hout.elim (Nat.not_lt.mpr hin.1) (Nat.not_lt.mpr hin.2), hu]
    exact s.overrun_stops f v hq
  · subst hu
    refine ⟨_, exec_doorbell hr hq, ?_⟩
    rw [State.ring_applies hask, State.applyDoorbell_command s f v hq, State.doorbell_disabled ho he]
  · subst hq
    refine ⟨_, exec_eventDoorbell hr, ?_⟩
    rw [Easel.queueAt_event] at hu
    rw [State.ring_applies hask, State.applyDoorbell_event]
    exact State.eventDoorbell_moves hm hu he hs hleft hhead
  · subst hw hu
    refine ⟨_, exec_queueEnable hr hv, ?_⟩
    rw [State.writeControl_owned ho, if_pos hv, if_neg (by simp [hoff]), if_pos hlegal, if_neg (by omega)]
    exact onlyEasel_setEasel _ _ _
  · subst hw hu
    refine ⟨_, exec_queueEnable hr hv, ?_⟩
    rw [State.writeControl_owned ho, if_pos hv, if_neg (by simp [hoff]), if_neg (by simp [hlegal])]
  · subst hu
    refine ⟨_, exec_queueDisable hr hv, ?_⟩
    rw [State.writeControl_owned ho, if_neg (by simp [hv])]
    exact onlyEasel_setEasel _ _ _
  · subst hu
    refine ⟨_, exec_registerWrite_word hr (by omega), ?_⟩
    rw [State.writeBar0_size ho hq, if_neg (by simp [he]), Nat.mod_mod]
  · subst hu
    refine ⟨_, exec_registerWrite_word hr (by omega), ?_⟩
    rw [State.writeBar0_size ho hq, if_pos he]
  · refine ⟨_, exec_registerWrite_pair hr (by omega), ?_⟩
    rw [State.writeBar0_window s f hv hpage]
    obtain ⟨honly, heasel⟩ := onlyEasel_setEasel s f { s.easel f with windowBase := v }
    exact ⟨honly, by rw [heasel]⟩
  · subst hva
    refine throughArbiters_of ((exec_bar2Read ha []).trans (if_neg (by simp [hd, hok]))) fun t ht => ?_
    have hstreams : StreamsOnly s (t.useTranslation 32 f ((s.easel f).windowBase + off) n) := by
      have hone := t.useTranslation_streams 32 f ((s.easel f).windowBase + off) n
      unfold StreamsOnly at hone ⊢
      rcases ht with rfl | rfl
      · exact hone
      · exact hone
    generalize t.useTranslation 32 f ((s.easel f).windowBase + off) n = w at hstreams ⊢
    have hbytes : w.bar2Bytes f ((s.easel f).windowBase + off) n = s.bar2Bytes f ((s.easel f).windowBase + off) n := by
      rw [hstreams]
      rfl
    refine ⟨_, ?_, rfl⟩
    have hanswer : w.bar2Answer f ((s.easel f).windowBase + off) n [] = w.emit (.barRead f
        (if (w.bar2Bytes f ((s.easel f).windowBase + off) n).2 then 2 else 0) (w.bar2Bytes f ((s.easel f).windowBase + off) n).1) := rfl
    exact hanswer.trans (by rw [hbytes, State.bar2Bytes_clean hclean]; rfl)
  · subst hva
    refine throughArbiters_of ((exec_bar2Write ha bs).trans (if_neg (by simp [hd, hok]))) fun t ht => ?_
    have hstreams : StreamsOnly s (t.useTranslation 32 f ((s.easel f).windowBase + off) bs.length) := by
      have hone := t.useTranslation_streams 32 f ((s.easel f).windowBase + off) bs.length
      unfold StreamsOnly at hone ⊢
      rcases ht with rfl | rfl
      · exact hone
      · exact hone
    have hhost : t.host = s.host := by
      rcases ht with rfl | rfl <;> rfl
    dsimp only
    generalize t.useTranslation 32 f ((s.easel f).windowBase + off) bs.length = w at hstreams ⊢
    obtain ⟨hmemory, hmem⟩ := w.bar2Store_stores f ((s.easel f).windowBase + off) bs
    rw [hstreams.writeVa_mem] at hmem
    generalize w.bar2Store f ((s.easel f).windowBase + off) bs = z at hmemory hmem ⊢
    have hz : z.easels = s.easels ∧ z.bind = s.bind ∧ z.host = s.host ∧ z.out = s.out := by
      rw [hmemory.1, hstreams]
      exact ⟨rfl, rfl, rfl, rfl⟩
    obtain ⟨heasels, hbind, hzhost, hout⟩ := hz
    refine ⟨fun hnone => ?_, fun q d hone => ?_⟩
    · rw [State.ringHeld_none (by rw [hzhost, ← hhost]; exact hnone)]
      exact ⟨hmem, heasels, hzhost, hout⟩
    · refine ⟨{ z with host := { z.host with doorbells := [] } }, hmem, heasels, hbind, ?_, ?_⟩
      · dsimp only
        rw [hzhost]
      · exact State.ringHeld_one (by rw [hzhost, ← hhost]; exact hone)
  · refine ⟨_, (exec_bar2Read ha errs).trans (if_pos ?_), rfl⟩
    rcases hno with h | h
    · simp [h]
    · simp [h]
  · refine ⟨_, (exec_bar2Write ha bs).trans (if_pos ?_), rfl⟩
    rcases hno with h | h
    · simp [h]
    · simp [h]
  · refine ⟨_, exec_msixHoldoffExpiry hu hh, ?_⟩
    rw [if_neg (by simp [hc])]
    rw [← hc]
  · refine ⟨_, exec_msixHoldoffExpiry hu hh, ?_⟩
    rw [if_pos hc]
    have hself := s.setEasel_easel_self f ((s.easel f).setQueue q { u with inHoldoff := false, covered := false })
    have hkept : (s.setEasel f ((s.easel f).setQueue q { u with inHoldoff := false, covered := false })).out = s.out ∧
      (s.setEasel f ((s.easel f).setQueue q { u with inHoldoff := false, covered := false })).host = s.host := ⟨rfl, rfl⟩
    generalize s.setEasel f ((s.easel f).setQueue q { u with inHoldoff := false, covered := false }) = t at hself hkept ⊢
    have hqueue : { u with inHoldoff := false, covered := false } = (t.easel f).queueAt q := by rw [hself, Easel.setQueue_queueAt_self]
    have hmasked : ((t.easel f).vectorAt u.vector).masked = false := by rw [hself, Easel.setQueue_vectorAt, hm]
    rw [State.fireVector_fires hqueue he rfl hi hmasked (by rw [hkept.2]; exact hl)]
    have hset := t.setEasel_easel_self f ((t.easel f).setQueue q { u with inHoldoff := u.holdoff != 0, covered := false })
    refine ⟨congrArg (· ++ [Out.msix f u.vector]) hkept.1, ?_, ?_⟩
    · have hat := congrArg (fun x : Easel => (x.queueAt q).inHoldoff) hset
      exact hat.trans (congrArg _ (Easel.setQueue_queueAt_self ..))
    · have hat := congrArg (fun x : Easel => (x.queueAt q).covered) hset
      exact hat.trans (congrArg _ (Easel.setQueue_queueAt_self ..))
  · exact ⟨_, (exec_configRequest hl hf).trans (if_pos (by simp [hdown])), rfl⟩
  · subst hread
    exact ⟨_, (exec_configRequest hl hf).trans (if_neg (by simp [hup])), rfl⟩
  · subst h0 hwrite
    refine ⟨_, (exec_configRequest hl hf).trans ((if_neg (by simp [hup])).trans ?_), rfl⟩
    exact (if_neg (by simp)).trans (if_neg (Nat.not_lt.mpr hless))

end Sys2Proof.Machine
end

section
/-! PROOFS. STREAM_RUN: runs and blocks checked and cut into transfers (R254, R258, R260, R262). -/

namespace Sys2Proof.Machine

section
variable {s t u : State} {i steps : Nat} {c c₀ : IssueCtx} {y y₀ y' : Issue} {r : Run} {rest : List Run} {new : List Xfer}

/-! ### Transfers put in flight -/

/-- Transfers `new` put in flight for issue `c`, with the slack it has in `s`. -/
structure Launched (c : IssueCtx) (steps : Nat) (new : List Xfer) (s s' : State) : Prop where
  rest : s' = { s with streams := s'.streams }
  issues : s'.streams.issues = s.streams.issues
  flows : s'.streams.flows = s.streams.flows
  xfers : s'.streams.xfers = s.streams.xfers ++ new
  each : ∀ x ∈ new, x.issue = c.y.id ∧ x.sent = none ∧ x.slack = s.slack c steps

theorem Launched.refl (c : IssueCtx) (steps : Nat) (s : State) : Launched c steps [] s s :=
  ⟨rfl, rfl, rfl, (List.append_nil _).symm, fun _ h => by cases h⟩

/-- The slack of a transfer depends on its stream's flow. -/
theorem State.slack_congr (h : t.streams.flows = s.streams.flows) (c : IssueCtx) (steps : Nat) : t.slack c steps = s.slack c steps := by
  unfold State.slack State.flow
  rw [h]

theorem Launched.trans {more : List Xfer} (h : Launched c steps new s t) (k : Launched c steps more t u) : Launched c steps (new ++ more) s u := by
  refine ⟨?_, k.issues.trans h.issues, k.flows.trans h.flows, by rw [k.xfers, h.xfers, List.append_assoc], fun x hx => ?_⟩
  · rw [k.rest]
    conv_lhs => rw [h.rest]
  · rcases List.mem_append.mp hx with hx | hx
    · exact h.each x hx
    · rw [← State.slack_congr h.flows]
      exact k.each x hx

/-- The transfer that is put in flight next. -/
def State.nextXferOf (s : State) (c : IssueCtx) (m : Move) (steps space addr : Nat) : Xfer :=
  { id := s.streams.nextXfer, issue := c.y.id, move := m, slack := s.slack c steps, arbs := s.arbsOf c m,
    sent := none, block := c.y.block, space := space, addr := addr, stores := c.storesOf m }

theorem State.translateFor_only (s : State) (c : IssueCtx) (m : Move) (r : Option Run) (n : Nat) : TranslationsOnly s (s.translateFor c m r n) := by
  have hone (t : State) (space a : Nat) : TranslationsOnly t (if space = 1 then t.useTranslation (c.d.slice / 4) c.y.easel a n else t) := by
    split
    · exact t.useTranslation_only _ _ _ _
    · exact .refl t
  unfold State.translateFor
  cases r with
  | some r =>
    refine TranslationsOnly.trans ?_ (hone _ _ _)
    split
    · exact .refl s
    · exact hone _ _ _
  | none => exact foldl_keeps_state TranslationsOnly .refl (fun _ _ _ => .trans) _ (fun s a => s.useTranslation_only _ _ _ _) _ s

/-- One transfer put in flight, its translations asked first. -/
theorem State.launch_launched (s : State) (c : IssueCtx) (m : Move) (r : Option Run) (n steps space addr : Nat) :
    let t := s.translateFor c m r n
    Launched c steps [t.nextXferOf c m steps space addr] s (t.launch c m steps space addr) := by
  have honly := s.translateFor_only c m r n
  unfold TranslationsOnly at honly
  dsimp only
  generalize s.translateFor c m r n = t at honly ⊢
  have hstreams : t.streams = { s.streams with caches := t.streams.caches, misses := t.streams.misses } := by
    have hk := congrArg State.streams honly
    exact hk
  have hrest : t = { s with streams := t.streams } := by
    conv_lhs => rw [honly]
    conv_rhs => rw [hstreams]
  have hissues : t.streams.issues = s.streams.issues := by rw [hstreams]
  have hflows : t.streams.flows = s.streams.flows := by rw [hstreams]
  have hxfers : t.streams.xfers = s.streams.xfers := by rw [hstreams]
  refine ⟨?_, hissues, hflows, congrArg (· ++ [t.nextXferOf c m steps space addr]) hxfers, fun x hx => ?_⟩
  · exact congrArg (fun w : State => { w with streams := (t.launch c m steps space addr).streams }) hrest
  · obtain rfl := List.mem_singleton.mp hx
    exact ⟨rfl, rfl, State.slack_congr hflows c steps⟩

/-- Transfers launched, and their issue stored: they are put in flight. -/
theorem Launched.inFlight (h : Launched c steps new s t) (hc : c.y.id = y.id) (hy : y'.id = y.id) :
    PutInFlight s (t.setIssue y') c y y' steps new := by
  refine ⟨?_, h.xfers, fun x hx => hc ▸ h.each x hx, ?_⟩
  · conv_lhs => rw [State.setIssue, h.rest]
    rfl
  · refine Eq.trans (congrArg (List.map _) h.issues) ?_
    rw [hy]

/-! ### Runs split (R260) -/

theorem pieceLen_facts (c : IssueCtx) (r : Run) : pieceLen c r ≤ 512 ∧ pieceLen c r ≤ r.length ∧ (0 < r.length → 0 < pieceLen c r) ∧
    (memEnd c.b.dst = true → (c.b.src = 4 → c.b.dst = 4 ∨ r.zero = true) → r.dst % 512 + pieceLen c r ≤ 512) ∧
    (memEnd c.b.src = true → r.zero = false → c.b.dst ≠ 4 → r.src % 512 + pieceLen c r ≤ 512) := by
  have hdst : r.dst % 512 < 512 := Nat.mod_lt _ (by decide)
  have hsrc : r.src % 512 < 512 := Nat.mod_lt _ (by decide)
  have hpage (a : Nat) : 0 < pageBytes - a % pageBytes := Nat.sub_pos_of_lt (Nat.mod_lt _ (by decide))
  have hpages : 0 < pageBytes := by decide
  have hside (space a : Nat) : 0 < (if memEnd space then pageBytes - a % pageBytes else pageBytes) := by
    split
    · exact hpage a
    · exact hpages
  unfold pieceLen
  dsimp only
  by_cases hto : (decide (c.b.dst = 4) && !r.zero) = true
  · rw [if_pos hto]
    simp only [Bool.and_eq_true, decide_eq_true_eq, Bool.not_eq_eq_eq_not, Bool.not_true] at hto
    have hpos := hside c.b.src r.src
    generalize (if memEnd c.b.src then pageBytes - r.src % pageBytes else pageBytes) = p at hpos ⊢
    exact ⟨by omega, by omega, by omega, fun _ _ => by omega, fun _ _ h => absurd hto.1 h⟩
  · rw [if_neg hto]
    by_cases hfrom : (decide (c.b.src = 4) && !r.zero) = true
    · rw [if_pos hfrom]
      simp only [Bool.and_eq_true, decide_eq_true_eq, Bool.not_eq_eq_eq_not, Bool.not_true] at hto hfrom
      have hpos := hside c.b.dst r.dst
      generalize (if memEnd c.b.dst then pageBytes - r.dst % pageBytes else pageBytes) = p at hpos ⊢
      refine ⟨by omega, by omega, by omega, fun _ h => ?_, fun _ _ _ => by omega⟩
      rcases h hfrom.1 with hflash | hzero
      · exact absurd ⟨hflash, hfrom.2⟩ hto
      · rw [hfrom.2] at hzero
        cases hzero
    · rw [if_neg hfrom]
      cases hz : r.zero with
      | true =>
        simp only [if_true]
        cases memEnd c.b.dst with
        | true => simp; omega
        | false => simp
      | false =>
        simp only [Bool.false_eq_true, if_false]
        cases memEnd c.b.src <;> cases memEnd c.b.dst <;> simp <;> omega

/-- What a transfer of a run moves: as many bytes as it was cut to. -/
theorem State.moveOf_bytes {n : Nat} {m : Move} (h : s.moveOf c r n = some m) : moveBytes m = n := by
  unfold State.moveOf at h
  dsimp only at h
  split at h
  · split at h
    · cases h
      rfl
    · obtain ⟨d, -, rfl⟩ := Option.map_eq_some_iff.mp h
      rfl
  · split at h
    · split at h
      · obtain ⟨a, -, rfl⟩ := Option.map_eq_some_iff.mp h
        rfl
      · split at h
        · cases h
          rfl
        · obtain ⟨a, -, rfl⟩ := Option.map_eq_some_iff.mp h
          rfl
    · obtain ⟨d, -, hd⟩ := Option.bind_eq_some_iff.mp h
      split at hd
      · cases hd
        rfl
      · split at hd
        · obtain ⟨a, -, rfl⟩ := Option.map_eq_some_iff.mp hd
          rfl
        · obtain ⟨a, -, rfl⟩ := Option.map_eq_some_iff.mp hd
          rfl

/-- A run past its first `n` bytes. -/
def Run.past (r : Run) (n : Nat) : Run := { r with length := r.length - n, src := r.src + n, dst := r.dst + n }

theorem splitRun_succ {n fuel : Nat} {m : Move} (hlen : r.length ≠ 0) (hn : n = pieceLen c r) (hm : s.moveOf c r n = some m)
    (hroom : s.roomFor c m = true) : splitRun c steps (fuel + 1) r s =
    splitRun c steps fuel (r.past n) ((s.translateFor c m (some r) n).launch c m steps c.b.src r.src) := by
  subst hn
  rw [splitRun, if_neg hlen]
  dsimp only
  rw [hm]
  exact if_neg (by simp [hroom])

/-- A run split as far as the limits let it: what its transfers move and what is left of it are the run. -/
theorem splitRun_spec (fuel : Nat) : ∀ (r : Run) (s : State), ∃ new, Launched c steps new s (splitRun c steps fuel r s).1 ∧
    (∀ x ∈ new, moveBytes x.move ≤ 512) ∧ (new.map fun x => moveBytes x.move).sum + (splitRun c steps fuel r s).2.length = r.length := by
  induction fuel with
  | zero => exact fun r s => ⟨[], .refl c steps s, fun _ h => (nomatch h), Nat.zero_add _⟩
  | succ fuel ih =>
    intro r s
    have hstays : ∃ new, Launched c steps new s s ∧ (∀ x ∈ new, moveBytes x.move ≤ 512) ∧
        (new.map fun x => moveBytes x.move).sum + r.length = r.length := ⟨[], .refl c steps s, fun _ h => (nomatch h), Nat.zero_add _⟩
    by_cases hlen : r.length = 0
    · rw [splitRun, if_pos hlen]
      exact hstays
    · cases hm : s.moveOf c r (pieceLen c r) with
      | none =>
        rw [splitRun, if_neg hlen]
        dsimp only
        rw [hm]
        exact hstays
      | some m =>
        cases hroom : s.roomFor c m with
        | false =>
          rw [splitRun, if_neg hlen]
          dsimp only
          rw [hm]
          dsimp only
          rw [if_pos (by simp [hroom])]
          exact hstays
        | true =>
          rw [splitRun_succ hlen rfl hm hroom]
          have hfirst := s.launch_launched c m (some r) (pieceLen c r) steps c.b.src r.src
          obtain ⟨new, hnew, hshort, hsum⟩ := ih (r.past (pieceLen c r)) ((s.translateFor c m (some r) (pieceLen c r)).launch c m steps c.b.src r.src)
          obtain ⟨hle, hin, -⟩ := pieceLen_facts c r
          have hbytes := State.moveOf_bytes hm
          refine ⟨_, hfirst.trans hnew, fun x hx => ?_, ?_⟩
          · rcases List.mem_append.mp hx with hx | hx
            · obtain rfl := List.mem_singleton.mp hx
              exact hbytes.le.trans hle
            · exact hshort x hx
          · have hlength : (r.past (pieceLen c r)).length = r.length - pieceLen c r := rfl
            have hmove : moveBytes (((s.translateFor c m (some r) (pieceLen c r)).nextXferOf c m steps c.b.src r.src).move) = pieceLen c r := hbytes
            rw [hlength] at hsum
            rw [List.map_append, List.sum_append, List.map_singleton, List.sum_singleton, hmove]
            omega

/-! ### The run at the head of an issue -/

/-- What an issue's context says of it. -/
theorem State.issueCtx_spec (hy : s.issue i = some y) (h : s.issueCtx i = some c) : c.y = { y with begun := true } ∧ s.mayStart y = true ∧
    c.d.blocks[c.y.block]? = some c.b := by
  unfold State.issueCtx at h
  rw [hy] at h
  dsimp only at h
  split at h
  · cases h
  · split at h
    · cases h
    next hgo =>
      split at h
      · cases h
      · obtain ⟨b, hb, rfl⟩ := Option.map_eq_some_iff.mp h
        exact ⟨rfl, by simp at hgo; exact hgo.2, hb⟩

theorem IssueCtx.ofRun_fields (c : IssueCtx) (r : Run) : (c.ofRun r).y.id = c.y.id ∧ (c.ofRun r).y.easel = c.y.easel ∧
    (c.ofRun r).y.seq = c.y.seq ∧ (c.ofRun r).d = c.d := by
  unfold IssueCtx.ofRun
  split <;> exact ⟨rfl, rfl, rfl, rfl⟩

theorem State.streamFault_ofRun (s : State) (c : IssueCtx) (r : Run) (code a b : Nat) : s.streamFault (c.ofRun r) code a b = s.streamFault c code a b := by
  obtain ⟨-, heasel, hseq, hd⟩ := c.ofRun_fields r
  unfold State.streamFault
  rw [heasel, hseq, hd]

/-- A checked run split, its issue going on as `y`. -/
def State.splitInto (s : State) (c : IssueCtx) (steps : Nat) (r : Run) (rest : List Run) (y : Issue) : State :=
  let p := splitRun c steps 192 r s
  p.1.setIssue { y with runs := if p.2.length = 0 then rest else { p.2 with checked := true } :: rest, gated := false }

/-- What STREAM_RUN does with the run at the head of an issue, the issue going on as `y`. -/
def State.runAt (s : State) (c : IssueCtx) (steps : Nat) (r : Run) (rest : List Run) (y : Issue) : State :=
  if r.checked = true then s.splitInto c steps r rest y
  else match s.checkRun c r with
    | .fine => s.splitInto c steps r rest y
    | .waits => s.starve c r rest y
    | .bad code a b => s.streamFault c code a b

theorem State.stepRun_eq (s : State) (c : IssueCtx) (steps : Nat) (r : Run) (rest : List Run) (y : Issue) :
    s.stepRun c steps r rest y = s.runAt (c.ofRun r) steps r rest y := by
  unfold State.stepRun State.runAt
  by_cases hr : r.checked = true
  · rw [if_pos hr, if_pos hr]
    rfl
  · rw [if_neg hr, if_neg hr]
    cases s.checkRun (c.ofRun r) r with
    | fine => rfl
    | waits => rfl
    | bad code a b => exact (s.streamFault_ofRun c r code a b).symm

/-- STREAM_RUN of an issue with a run at its head. -/
theorem HeadRun.exec (h : HeadRun s i y r rest c) (steps : Nat) : c.y.id = y.id ∧ c.y.easel = y.easel ∧
    ∃ y₀ : Issue, y₀.id = y.id ∧ y₀.begun = (y.begun || (s.issueCtx i).isSome) ∧
      exec (.streamRun i steps) s = .next (s.runAt c steps r rest y₀) := by
  have harm : Machine.exec (.streamRun i steps) s = execStreamRun i steps s := rfl
  obtain ⟨hy, ⟨hruns, ⟨c₀, hc, rfl⟩ | ⟨hnone, k, d, b, hk, hw, hd, hb, rfl⟩⟩ | ⟨hruns, rfl, hc, hkind, rfl, hlen⟩⟩ := h
  · obtain ⟨hcy, -⟩ := State.issueCtx_spec hy hc
    obtain ⟨hid, heasel, -⟩ := c₀.ofRun_fields r
    refine ⟨hid.trans (by rw [hcy]), heasel.trans (by rw [hcy]), c₀.y, by rw [hcy], by rw [hcy, hc]; simp, ?_⟩
    rw [harm, execStreamRun, hy]
    dsimp only
    rw [hruns, hc]
    exact congrArg _ (s.stepRun_eq c₀ steps r rest c₀.y)
  · refine ⟨rfl, rfl, y, rfl, by rw [hnone]; simp, ?_⟩
    have hof : IssueCtx.ofRun ⟨y, k, d, b⟩ r = ⟨{ y with block := r.block }, k, d, b⟩ := by
      unfold IssueCtx.ofRun
      dsimp only
      rw [hb]
    rw [harm, execStreamRun, hy]
    dsimp only
    rw [hruns, hnone]
    dsimp only
    rw [hk, hd]
    dsimp only
    rw [hb]
    dsimp only
    rw [if_pos hw, State.stepRun_eq, hof, hruns]
  · obtain ⟨hcy, -, hblock⟩ := State.issueCtx_spec hy hc
    refine ⟨by rw [hcy], by rw [hcy], c.y.nextBlock c.d, by rw [hcy]; rfl, by rw [hc, hcy]; simp [Issue.nextBlock], ?_⟩
    have hof : c.ofRun (extentRun c) = c := by
      have hrun : (extentRun c).block = c.y.block := rfl
      unfold IssueCtx.ofRun
      rw [hrun, hblock]
    rw [harm, execStreamRun, hy]
    dsimp only
    rw [hruns, hc]
    dsimp only
    rw [hkind]
    refine (if_neg hlen).trans ?_
    rw [State.stepRun_eq, hof]

theorem State.runAt_fine (h : s.checkRun c r = .fine ∨ r.checked = true) (steps : Nat) (rest : List Run) (y : Issue) :
    s.runAt c steps r rest y = s.splitInto c steps r rest y := by
  unfold State.runAt
  by_cases hr : r.checked = true
  · exact if_pos hr
  · rw [if_neg hr, h.resolve_right hr]

/-- A run split: its transfers in flight, and what is left of it at the head of its issue. -/
def RunSplit (s s' : State) (c : IssueCtx) (y : Issue) (r : Run) (rest : List Run) (begun : Bool) (steps : Nat) (new : List Xfer) : Prop :=
  ∃ left y', PutInFlight s s' c y y' steps new ∧ (∀ x ∈ new, moveBytes x.move ≤ 512) ∧
    (new.map fun x => moveBytes x.move).sum + left = r.length ∧ y'.begun = begun ∧
    (left = 0 → y'.runs = rest) ∧ (left ≠ 0 → ∃ q, y'.runs = q :: rest ∧ q.length = left ∧ q.checked = true)

theorem RunSplit.of_launched {q : Run} (h : Launched c steps new s t) (hshort : ∀ x ∈ new, moveBytes x.move ≤ 512)
    (hsum : (new.map fun x => moveBytes x.move).sum + q.length = r.length) (hc : c.y.id = y.id) (hy : y₀.id = y.id) :
    RunSplit s (t.setIssue { y₀ with runs := if q.length = 0 then rest else { q with checked := true } :: rest, gated := false })
      c y r rest y₀.begun steps new :=
  ⟨q.length, _, h.inFlight hc hy, hshort, hsum, rfl, fun h0 => if_pos h0, fun h0 => ⟨{ q with checked := true }, if_neg h0, rfl, rfl⟩⟩

theorem State.splitInto_splits (s : State) (r : Run) (rest : List Run) (steps : Nat) (hc : c.y.id = y.id) (hy : y₀.id = y.id) :
    ∃ new, RunSplit s (s.splitInto c steps r rest y₀) c y r rest y₀.begun steps new := by
  obtain ⟨new, hnew, hshort, hsum⟩ := splitRun_spec (c := c) (steps := steps) 192 r s
  exact ⟨new, .of_launched hnew hshort hsum hc hy⟩

/-- A run whose first transfer may be formed: it is the first of those put in flight. -/
theorem State.splitInto_first {n : Nat} {m : Move} (hlen : r.length ≠ 0) (hn : n = pieceLen c r) (hm : s.moveOf c r n = some m)
    (hroom : s.roomFor c m = true) (rest : List Run) (steps : Nat) (hc : c.y.id = y.id) (hy : y₀.id = y.id) :
    ∃ x new, RunSplit s (s.splitInto c steps r rest y₀) c y r rest y₀.begun steps (x :: new) ∧ x.move = m ∧ x.stores = c.storesOf m := by
  have hfirst := s.launch_launched c m (some r) n steps c.b.src r.src
  obtain ⟨new, hnew, hshort, hsum⟩ := splitRun_spec (c := c) (steps := steps) 191 (r.past n) ((s.translateFor c m (some r) n).launch c m steps c.b.src r.src)
  obtain ⟨hle, hin, -⟩ := pieceLen_facts c r
  rw [← hn] at hle hin
  have hbytes := State.moveOf_bytes hm
  have hsplit : s.splitInto c steps r rest y₀ =
      (let p := splitRun c steps 191 (r.past n) ((s.translateFor c m (some r) n).launch c m steps c.b.src r.src)
       p.1.setIssue { y₀ with runs := if p.2.length = 0 then rest else { p.2 with checked := true } :: rest, gated := false }) := by
    unfold State.splitInto
    rw [splitRun_succ hlen hn hm hroom]
  rw [hsplit]
  refine ⟨_, new, RunSplit.of_launched (hfirst.trans hnew) (fun x hx => ?_) ?_ hc hy, rfl, rfl⟩
  · rcases List.mem_cons.mp hx with rfl | hx
    · exact hbytes.le.trans hle
    · exact hshort x hx
  · have hlength : (r.past n).length = r.length - n := rfl
    have hmove : moveBytes (((s.translateFor c m (some r) n).nextXferOf c m steps c.b.src r.src).move) = n := hbytes
    rw [hlength] at hsum
    rw [List.map_cons, List.sum_cons, hmove]
    omega

/-! ### Checks of a run (R258) -/

theorem within_iff {o n size : Nat} : within o n size = true ↔ o + n ≤ size := by
  simp only [within, Bool.and_eq_true, decide_eq_true_eq]
  omega

theorem EndCheck.orElse_fine {x y : EndCheck} : x.orElse y = .fine ↔ x = .fine ∧ y = .fine := by
  cases x <;> simp [EndCheck.orElse]

theorem endAligned_fine {space a : Nat} : endAligned c r space a = .fine ↔ a % endUnit c.b space = 0 ∧ r.length % endUnit c.b space = 0 := by
  unfold endAligned
  dsimp only
  split
  · simp [*]
  · simp [*]

theorem State.checkRun_fine : s.checkRun c r = .fine ↔
    (r.zero = false → endAligned c r c.b.src r.src = .fine ∧ s.inWindow c r c.b.src r.src c.b.srcBase c.b.srcExt = .fine ∧
      s.endHeld c r false c.b.src r.src = .fine) ∧
    endAligned c r c.b.dst r.dst = .fine ∧ s.inWindow c r c.b.dst r.dst c.b.dstBase c.b.dstExt = .fine ∧ s.endHeld c r true c.b.dst r.dst = .fine := by
  unfold State.checkRun
  cases r.zero with
  | true => simp [EndCheck.orElse_fine]
  | false => simp [EndCheck.orElse_fine]; tauto

/-- A range of easel virtual memory lies in its window. -/
theorem State.inWindow_memory {a base ext : Nat} : s.inWindow c r 1 a base ext = .fine ↔
    base ≤ a ∧ a + r.length ≤ base + roomOf (c.k.canvas.formula ext c.k.slots) := by
  have hone : s.inWindow c r 1 a base ext =
      if base ≤ a ∧ within (a - base) r.length (roomOf (c.k.canvas.formula ext c.k.slots)) then .fine
      else if s.compat c.y.easel && c.b.kind = 1 && extentDerived c.k.canvas c.b && decide (roomOf (c.k.canvas.formula ext c.k.slots) < r.length) then
        .bad 0x0310 (r.length % 2 ^ 64) (roomOf (c.k.canvas.formula ext c.k.slots) % 2 ^ 32)
      else .bad 0x0501 a (rangeDetail c r 1) := rfl
  rw [hone]
  split
  next hin =>
    have hroom := within_iff.mp hin.2
    simp only [true_iff]
    omega
  next hout =>
    rw [not_and, within_iff] at hout
    split <;> simp <;> omega

theorem State.endHeld_memory {write : Bool} {a : Nat} : s.endHeld c r write 1 a = .fine ↔ s.mapped c.y.easel a r.length = true := by
  unfold State.endHeld
  cases write <;> cases s.mapped c.y.easel a r.length <;> simp

theorem endUnit_memory (hpage : c.b.page = false) : endUnit c.b 1 = 64 := by
  unfold endUnit
  simp [hpage]

/-- A run that lies in its tile's single buffer, past the local offset. -/
theorem State.inWindow_local {b : BufPlan} {a base ext : Nat} (hb : c.localBuf = some b) (hdbl : b.dbl = false) (hword : c.y.off + a < 2 ^ 64)
    (hin : c.y.off + a + r.length ≤ b.size) : s.inWindow c r 0 a base ext = .fine := by
  have hone : s.inWindow c r 0 a base ext = c.localCheck ((c.y.off + a) % 2 ^ 64) r.length := rfl
  have hroom : b.room = b.size := by
    unfold BufPlan.room
    rw [hdbl]
    rfl
  rw [hone, Nat.mod_eq_of_lt hword, IssueCtx.localCheck, hb]
  dsimp only
  rw [hroom, hdbl]
  exact if_pos ⟨Nat.zero_le _, within_iff.mpr (show c.y.off + a - 0 + r.length ≤ b.size by omega), show 0 + b.size ≤ b.size by omega⟩

theorem State.endHeld_local {a : Nat} : s.endHeld c r true 0 a = .fine := rfl

theorem endUnit_local (hpage : c.b.page = false) : endUnit c.b 0 = 64 := by
  unfold endUnit
  simp [hpage]

/-- A run that fails a check: the easel is FAULTED, and what is left of its streams is transfers granted before. -/
theorem State.streamFault_stops (hw : s.works c.y.easel = true) (code a b : Nat) : let s' := s.streamFault c code a b
    (s'.easel c.y.easel).mode = .faulted ∧
    (∀ z ∈ s'.streams.issues, z.easel = c.y.easel → z.runs = [] ∧ ∃ x ∈ s.streams.xfers, x.issue = z.id ∧ x.arbs = []) ∧
    ∀ x ∈ s'.streams.xfers, x ∈ s.streams.xfers := by
  have hrec := s.reportSeq_records code c.y.easel 0x05 (streamUnit c.d) c.y.seq a b
  have hworks := (hrec.works c.y.easel).trans hw
  have hxfers : (s.reportSeq code c.y.easel 0x05 (streamUnit c.d) c.y.seq a b).streams.xfers = s.streams.xfers := by rw [hrec.1]
  refine ⟨(State.faultWith_stops hw ..).1, fun z hz he => ?_, fun x hx => ?_⟩
  · obtain ⟨hruns, -, x, hx, hissue, harbs, -⟩ := State.fault_issues hworks hz he
    exact ⟨hruns, x, hxfers ▸ hx, hissue, harbs⟩
  · exact hxfers ▸ State.fault_xfers hworks hx

/-! ### A run that waits (R320) -/

/-- A run that waits keeps its place at the head of its issue, which is gated. -/
theorem State.starve_waits (hr : r.checked = false) (hy : y₀.id = y.id) : let s' := s.starve c r rest y₀
    s'.streams.xfers = s.streams.xfers ∧ s'.tiles = s.tiles ∧
    ∃ q y', s'.streams.issues = s.streams.issues.map (fun z => if z.id = y.id then y' else z) ∧ y'.gated = true ∧
      y'.runs = q :: rest ∧ q.length = r.length ∧ q.src = r.src ∧ q.checked = false := by
  unfold State.starve
  dsimp only
  have hset (q : Run) (hq : q.length = r.length ∧ q.src = r.src ∧ q.checked = false) (t : State)
      (ht : t.streams.xfers = s.streams.xfers ∧ t.tiles = s.tiles ∧
        t.streams.issues = (s.setIssue { y₀ with runs := q :: rest, gated := true }).streams.issues) :
      t.streams.xfers = s.streams.xfers ∧ t.tiles = s.tiles ∧
      ∃ q y', t.streams.issues = s.streams.issues.map (fun z => if z.id = y.id then y' else z) ∧ y'.gated = true ∧
        y'.runs = q :: rest ∧ q.length = r.length ∧ q.src = r.src ∧ q.checked = false := by
    obtain ⟨hxfers, htiles, hissues⟩ := ht
    refine ⟨hxfers, htiles, q, { y₀ with runs := q :: rest, gated := true }, hissues.trans ?_, rfl, rfl, hq⟩
    rw [← hy]
    rfl
  split
  · exact hset r ⟨rfl, rfl, hr⟩ _ ⟨rfl, rfl, rfl⟩
  · refine hset { r with starved := true } ⟨rfl, rfl, hr⟩ _ ?_
    split
    · exact ⟨rfl, rfl, rfl⟩
    · split
      · exact ⟨rfl, rfl, rfl⟩
      · refine ⟨?_, ?_, ?_⟩
        · rw [(State.reportSeq_records _ _ _ _ _ _ _ _).1]
          rfl
        · rw [(State.reportSeq_records _ _ _ _ _ _ _ _).tiles]
          rfl
        · rw [(State.reportSeq_records _ _ _ _ _ _ _ _).1]

/-! ### Window and attention blocks (R183, R238) -/

theorem launchParts_spec (parts : List Move) : ∀ s : State, ∃ new, Launched c steps new s (launchParts c steps parts s).1 ∧
    parts = new.map (·.move) ++ (launchParts c steps parts s).2 := by
  induction parts with
  | nil => exact fun s => ⟨[], .refl c steps s, rfl⟩
  | cons m ms ih =>
    intro s
    rw [launchParts]
    cases hroom : s.roomFor c m with
    | true =>
      rw [if_pos rfl]
      obtain ⟨new, hnew, hparts⟩ := ih ((s.translateFor c m none 0).launch c m steps 0x1 ((s.partPlaces c m).headD 0))
      exact ⟨_, (s.launch_launched c m none 0 steps 1 _).trans hnew, congrArg (m :: ·) hparts⟩
    | false =>
      rw [if_neg (by decide)]
      exact ⟨[], .refl c steps s, rfl⟩

/-- The parts of a block taken as far as the limits let them. -/
theorem State.stepParts_taken (s : State) (c : IssueCtx) (steps : Nat) (parts : List Move) : PartsTaken s (s.stepParts c steps parts) c steps parts := by
  obtain ⟨new, hnew, hparts⟩ := launchParts_spec (c := c) (steps := steps) parts s
  unfold State.stepParts
  generalize launchParts c steps parts s = p at hnew hparts
  obtain ⟨t, left⟩ := p
  dsimp only at hnew hparts ⊢
  refine ⟨new, left, if left.isEmpty then c.y.nextBlock c.d else { c.y with parts := left }, hnew.inFlight rfl ?_, hparts, fun h => ?_, fun h => ?_⟩
  · split <;> rfl
  · exact if_pos (by simp [h])
  · exact if_neg (by simp [h])

theorem State.beginParts_fine (s : State) (c : IssueCtx) (steps : Nat) (parts : List Move) {check : EndCheck} (h : check = .fine) :
    s.beginParts c steps parts check = s.stepParts c steps parts := by
  rw [h]
  rfl

theorem State.beginParts_bad (s : State) (c : IssueCtx) (steps : Nat) (parts : List Move) {check : EndCheck} {code a b : Nat}
    (h : check = .bad code a b) : s.beginParts c steps parts check = s.streamFault c code a b := by
  rw [h]
  rfl

/-- STREAM_RUN of an issue with no run, at an extent of length 0. -/
theorem exec_streamRun_extent (hy : s.issue i = some y) (hruns : y.runs = []) (hc : s.issueCtx i = some c) (hkind : c.b.kind = 1)
    (hlen : (extentRun c).length = 0) (steps : Nat) : exec (.streamRun i steps) s = .next (s.setIssue (c.y.nextBlock c.d)) := by
  have harm : exec (.streamRun i steps) s = execStreamRun i steps s := rfl
  rw [harm, execStreamRun, hy]
  simp only [hruns, hc, hkind, hlen, if_true]

/-- STREAM_RUN of an issue with no run, at a window block. -/
theorem exec_streamRun_window (hy : s.issue i = some y) (hruns : y.runs = []) (hc : s.issueCtx i = some c) (hkind : c.b.kind = 3) (steps : Nat) :
    exec (.streamRun i steps) s = .next (s.windowStep c steps) := by
  have harm : exec (.streamRun i steps) s = execStreamRun i steps s := rfl
  rw [harm, execStreamRun, hy]
  simp only [hruns, hc, hkind]

/-- STREAM_RUN of an issue with no run, at an attention block. -/
theorem exec_streamRun_attention (hy : s.issue i = some y) (hruns : y.runs = []) (hc : s.issueCtx i = some c) (hkind : c.b.kind = 4) (steps : Nat) :
    exec (.streamRun i steps) s = .next (s.attentionStep c steps) := by
  have harm : exec (.streamRun i steps) s = execStreamRun i steps s := rfl
  rw [harm, execStreamRun, hy]
  simp only [hruns, hc, hkind]

/-- The waits that a window block sends to its gates. -/
def gatesOf (c : IssueCtx) (w : List (Nat × Nat)) : List (Nat × Nat) :=
  w.map fun g => (g.1, g.2 + match c.k.x.semDecl g.1 with | some d => d.initial | none => 0)

theorem State.windowStep_eq (s : State) (c : IssueCtx) (steps : Nat) : s.windowStep c steps =
    let waits := gatesOf c (if wGate c.b.payload then gateWaits c.b.payload c.k.slots c.y.p.toNat else [])
    if !c.y.inBlock then
      (s.sendGates c waits .waitv (.gate c.y.id)).setIssue { c.y with inBlock := true, gates := waits.length, gated := waits.length != 0 }
    else if c.y.gates != 0 then s
    else if !c.y.parts.isEmpty then s.stepParts c steps c.y.parts
    else if zeroStripe c.b.payload c.k.slots c.y.p.toNat then s.setIssue (c.y.nextBlock c.d)
    else s.beginParts c steps (cutRows (s.chunkSizes c)) (s.checkChunk c (cutRows (s.chunkSizes c))) := rfl

/-- The transfers that rows are cut into lie within their row, and none is longer than 512 B. -/
theorem mem_cutRows {sizes : List (Nat × Nat)} {k o n : Nat} (h : Move.chunk k o n ∈ cutRows sizes) :
    ∃ z, sizes[k]? = some z ∧ o + n ≤ z.2 ∧ 0 < n ∧ n * z.1 ≤ 4096 := by
  unfold cutRows at h
  obtain ⟨⟨⟨w, m⟩, j⟩, hj, hmem⟩ := List.mem_flatMap.mp h
  obtain ⟨i, hi, heq⟩ := List.mem_map.mp hmem
  cases heq
  have hat := List.mem_zipIdx_iff_getElem?.mp hj
  have hi := List.mem_range.mp hi
  have hwide : perTransfer w * w ≤ 4096 := by
    unfold perTransfer
    split
    · omega
    · rcases Nat.eq_zero_or_pos w with rfl | hw
      · simp
      · rw [Nat.max_eq_left hw]
        exact Nat.div_mul_le_self 4096 w
  unfold ceilDiv at hi
  split at hi
  next => cases hi
  next hper =>
    have hleft : i * perTransfer w < m := by
      have hmul := (Nat.le_div_iff_mul_le (Nat.pos_of_ne_zero hper)).mp (Nat.succ_le_of_lt hi)
      rw [Nat.succ_mul] at hmul
      omega
    refine ⟨(w, m), hat, ?_, ?_, (Nat.mul_le_mul_right w (Nat.min_le_left _ _)).trans hwide⟩
    · dsimp only
      omega
    · exact Nat.lt_min.mpr ⟨Nat.pos_of_ne_zero hper, by omega⟩

/-- The release wait of an attention block, from block 2 on. -/
def releaseOf (c : IssueCtx) : List (Nat × Nat) :=
  let tiles := match c.k.sheet.panels.find? (·.number = aPanel c.b.payload) with | some q => q.rows * q.cols | none => 0
  if 2 ≤ c.y.p.toNat then [(aRelease c.b.payload, tiles)] else []

theorem State.attentionStep_eq (s : State) (c : IssueCtx) (steps : Nat) : s.attentionStep c steps =
    if ceilDiv (aKeys c.b.payload c.k.slots) (aBk c.b.payload) ≤ c.y.p.toNat then s.setIssue (c.y.nextBlock c.d)
    else if !c.y.inBlock then
      (s.sendGates c (releaseOf c) .wait (.issue c.y.id)).setIssue { c.y with inBlock := true, consumed := decide (c.y.p.toNat < 2) }
    else if !c.y.consumed then s
    else if !c.y.parts.isEmpty then s.stepParts c steps c.y.parts
    else s.beginParts c steps (s.attnMoves c) (s.checkAttn c (s.attnMoves c)) := rfl

theorem State.attnMoves_short {m : Move} (h : m ∈ s.attnMoves c) : moveBytes m ≤ 512 := by
  unfold State.attnMoves at h
  obtain ⟨q, -, hq⟩ := List.mem_flatMap.mp h
  obtain ⟨what, -, hwhat⟩ := List.mem_flatMap.mp hq
  obtain ⟨i, -, rfl⟩ := List.mem_map.mp hwhat
  exact Nat.min_le_left _ _

/-- An issue before its turn does nothing (R261). -/
theorem exec_streamRun_early {z : Issue} (hy : s.issue i = some y) (hz : z ∈ s.streams.issues) (htile : z.tile = y.tile) (hstream : z.stream = y.stream)
    (hid : z.id < y.id) (hbegun : z.begun = false) (hruns : y.runs = []) (steps : Nat) : exec (.streamRun i steps) s = .next s := by
  have hmay : s.mayStart y = false := by
    unfold State.mayStart
    exact List.all_eq_false.mpr ⟨z, hz, by simp [htile, hstream, hid, hbegun]⟩
  have hnone : s.issueCtx i = none := by
    unfold State.issueCtx
    rw [hy]
    dsimp only
    split
    · rfl
    · exact if_pos (by simp [hmay])
  have harm : exec (.streamRun i steps) s = execStreamRun i steps s := rfl
  rw [harm, execStreamRun, hy]
  dsimp only
  rw [hruns, hnone]

end

/-! ### The cases of STREAM_RUN -/

theorem runIsSplit : RunIsSplit := by
  unfold RunIsSplit
  refine ⟨fun s i steps y r rest c h hfine => ?_, fun s i steps y c hy hc hruns hkind hlen => ?_, pieceLen_facts⟩
  · obtain ⟨hid, -, y₀, hy₀, hbegun, hexec⟩ := HeadRun.exec h steps
    obtain ⟨new, left, y', hput, hshort, hsum, hbegan, h0, hne⟩ := s.splitInto_splits (c := c) (y := y) (y₀ := y₀) r rest steps hid hy₀
    rw [State.runAt_fine hfine] at hexec
    exact ⟨_, hexec, new, left, y', hput, hshort, hsum, hbegan.trans hbegun, h0, hne⟩
  · exact ⟨_, exec_streamRun_extent hy hruns hc hkind hlen steps, rfl⟩

theorem runFetched : RunFetched := by
  unfold RunFetched
  intro s i steps y r rest c b a h hsrc hdst hzero hb hdbl hword hpage hsrc64 hdst64 hlen64 hpos hbase hwindow hroom hmapped ha hblock hslice hport
    hstore htile hmem
  obtain ⟨hid, -, y₀, hy₀, -, hexec⟩ := HeadRun.exec h steps
  have hfine : s.checkRun c r = .fine := by
    rw [State.checkRun_fine, hsrc, hdst]
    refine ⟨fun _ => ⟨?_, State.inWindow_memory.mpr ⟨hbase, hwindow⟩, State.endHeld_memory.mpr hmapped⟩, ?_,
      State.inWindow_local hb hdbl hword hroom, State.endHeld_local⟩
    · exact endAligned_fine.mpr ⟨by rw [endUnit_memory hpage]; exact hsrc64, by rw [endUnit_memory hpage]; exact hlen64⟩
    · exact endAligned_fine.mpr ⟨by rw [endUnit_local hpage]; exact hdst64, by rw [endUnit_local hpage]; exact hlen64⟩
  have hpiece : min r.length (512 - r.src % 512) = pieceLen c r := by
    unfold pieceLen
    simp only [hsrc, hdst, hzero, memEnd]
    simp
  have hmove : s.moveOf c r (min r.length (512 - r.src % 512)) = some (.copy a (c.local0 + r.dst) (min r.length (512 - r.src % 512))) := by
    have hplace : s.placeOf c.y.easel c.local0 1 r.src = some a := ha
    have hlocal : s.placeOf c.y.easel c.local0 0 r.dst = some (c.local0 + r.dst) := rfl
    unfold State.moveOf
    simp [hzero, hsrc, hdst, hplace, hlocal]
  have hstores : c.storesOf (.copy a (c.local0 + r.dst) (min r.length (512 - r.src % 512))) = [c.y.tile] := by
    unfold IssueCtx.storesOf
    simp [hmem, hstore, htile]
  have hmay : s.roomFor c (.copy a (c.local0 + r.dst) (min r.length (512 - r.src % 512))) = true := by
    have hmid : s.midBlock c = false := by
      unfold State.midBlock
      rw [List.any_eq_false] at hblock ⊢
      intro z hz
      have hno := hblock z hz
      cases hzr : z.runs with
      | nil => simp
      | cons q qs =>
        rw [hzr] at hno
        have hsame : z.id = c.y.id := by simpa using hno
        simp [hsame]
    unfold State.roomFor
    rw [hmid, hstores]
    simp [hslice, hport]
  obtain ⟨x, new, ⟨left, y', hput, -⟩, hm, hs⟩ := State.splitInto_first (y := y) (y₀ := y₀) (Nat.pos_iff_ne_zero.mp hpos) hpiece hmove hmay rest steps hid hy₀
  rw [State.runAt_fine (.inl hfine)] at hexec
  exact ⟨_, hexec, x, new, y', hput, hm, hs.trans hstores⟩

theorem runChecks : RunChecks := by
  unfold RunChecks
  refine ⟨fun s i steps y c r rest code a b h hr hbad hw => ?_, fun s c r hfine hdst hpage => ?_⟩
  · obtain ⟨-, heasel, y₀, -, -, hexec⟩ := HeadRun.exec h steps
    rw [State.runAt, if_neg (by simp [hr]), hbad] at hexec
    rw [← heasel] at hw ⊢
    exact ⟨_, hexec, State.streamFault_stops hw code a b⟩
  · obtain ⟨hsource, halign, hin, hheld⟩ := State.checkRun_fine.mp hfine
    rw [hdst] at halign hin hheld
    have halign := endAligned_fine.mp halign
    rw [endUnit_memory hpage] at halign
    obtain ⟨hbase, hend⟩ := State.inWindow_memory.mp hin
    refine ⟨halign.1, halign.2, hbase, hend, State.endHeld_memory.mp hheld, fun hsrc hzero => ?_⟩
    obtain ⟨salign, sin, sheld⟩ := hsource hzero
    rw [hsrc] at salign sin sheld
    have salign := endAligned_fine.mp salign
    rw [endUnit_memory hpage] at salign
    obtain ⟨sbase, send⟩ := State.inWindow_memory.mp sin
    exact ⟨salign.1, sbase, send, State.endHeld_memory.mp sheld⟩

theorem runWaits : RunWaits := by
  unfold RunWaits
  intro s i steps y c r rest h hr hwaits
  obtain ⟨-, -, y₀, hy₀, -, hexec⟩ := HeadRun.exec h steps
  rw [State.runAt, if_neg (by simp [hr]), hwaits] at hexec
  exact ⟨_, hexec, State.starve_waits hr hy₀⟩

theorem windowBlockRuns : WindowBlockRuns := by
  unfold WindowBlockRuns
  refine ⟨fun s i steps y c hy hruns hc hkind => ?_, fun sizes k o n => mem_cutRows⟩
  have hexec := exec_streamRun_window hy hruns hc hkind steps
  rw [State.windowStep_eq] at hexec
  dsimp only at hexec
  refine ⟨fun hout w hw => ?_, fun hin hgates => ?_, fun hin hgates hparts => ?_, fun hin hgates hparts => ⟨fun hzero => ?_, fun hzero parts hp =>
    ⟨fun hfine => ?_, fun code a b hbad hworks => ?_⟩⟩⟩
  · rw [if_pos (by simp [hout]), ← hw] at hexec
    have hlen : (gatesOf c w).length = w.length := List.length_map ..
    refine ⟨_, hexec, rfl, ⟨_, rfl, by rw [List.length_map, hlen], fun j g v hg hv => ?_⟩, by rw [hlen]; rfl⟩
    rw [gatesOf, List.map_map, List.getElem?_map, hv] at hg
    cases hg
    exact ⟨rfl, rfl, rfl, rfl, rfl⟩
  · rw [hexec, if_neg (by simp [hin]), if_pos (by simpa using hgates)]
  · rw [if_neg (by simp [hin]), if_neg (by simp [hgates]), if_pos (by simpa using hparts)] at hexec
    exact ⟨_, hexec, s.stepParts_taken c steps _⟩
  · rw [if_neg (by simp [hin]), if_neg (by simp [hgates]), if_neg (by simp [hparts]), if_pos hzero] at hexec
    exact ⟨_, hexec, rfl⟩
  · subst hp
    rw [if_neg (by simp [hin]), if_neg (by simp [hgates]), if_neg (by simp [hparts]), if_neg (by simp [hzero]), State.beginParts_fine _ _ _ _ hfine] at hexec
    exact ⟨_, hexec, s.stepParts_taken c steps _⟩
  · subst hp
    rw [if_neg (by simp [hin]), if_neg (by simp [hgates]), if_neg (by simp [hparts]), if_neg (by simp [hzero]), State.beginParts_bad _ _ _ _ hbad] at hexec
    exact ⟨_, hexec, (State.streamFault_stops hworks code a b).1⟩

theorem attentionBlockRuns : AttentionBlockRuns := by
  unfold AttentionBlockRuns
  intro s i steps y c hy hruns hc hkind
  have hexec := exec_streamRun_attention hy hruns hc hkind steps
  rw [State.attentionStep_eq] at hexec
  refine ⟨fun hpast => ?_, fun hmore => ?_⟩
  · rw [if_pos hpast] at hexec
    exact ⟨_, hexec, rfl⟩
  · rw [if_neg (Nat.not_le.mpr hmore)] at hexec
    refine ⟨fun hout => ?_, fun hin hwait => ?_, fun hin hgo hparts => ?_, fun hin hgo hparts => ⟨fun hfine => ?_, fun code a b hbad hworks => ?_⟩,
      fun m => State.attnMoves_short⟩
    · rw [if_pos (by simp [hout])] at hexec
      refine ⟨_, hexec, rfl, fun hfew => ?_, fun htwo => ?_, rfl⟩
      · have hnone : releaseOf c = [] := if_neg (by omega)
        rw [hnone]
        exact List.append_nil _
      · have hone : releaseOf c = [(aRelease c.b.payload,
            match c.k.sheet.panels.find? (·.number = aPanel c.b.payload) with | some q => q.rows * q.cols | none => 0)] := if_pos htwo
        rw [hone]
        refine ⟨_, rfl, rfl, rfl, rfl, rfl, fun q hq => ?_⟩
        dsimp only
        rw [hq]
    · rw [hexec, if_neg (by simp [hin]), if_pos (by simp [hwait])]
    · rw [if_neg (by simp [hin]), if_neg (by simp [hgo]), if_pos (by simpa using hparts)] at hexec
      exact ⟨_, hexec, s.stepParts_taken c steps _⟩
    · rw [if_neg (by simp [hin]), if_neg (by simp [hgo]), if_neg (by simp [hparts]), State.beginParts_fine _ _ _ _ hfine] at hexec
      exact ⟨_, hexec, s.stepParts_taken c steps _⟩
    · rw [if_neg (by simp [hin]), if_neg (by simp [hgo]), if_neg (by simp [hparts]), State.beginParts_bad _ _ _ _ hbad] at hexec
      exact ⟨_, hexec, (State.streamFault_stops hworks code a b).1⟩

/-- Settles O28: runs split, checked and waiting, and the blocks of windows and attention. -/
theorem runsMove : Obligations.RunsMove := by
  unfold Obligations.RunsMove
  exact ⟨runIsSplit, runFetched, runChecks, runWaits, windowBlockRuns, attentionBlockRuns,
    fun s i steps y z hy hz htile hstream hid hbegun hruns => exec_streamRun_early hy hz htile hstream hid hbegun hruns steps⟩

end Sys2Proof.Machine
end

section
/-! PROOFS. What every command keeps: the queue of commands that wait, the memories' canonical form, the semaphores' complements. -/

namespace Sys2Proof.Machine

/-- From `s₀` to `s` the queue of commands stands, canonical memories are canonical still, and sound semaphores sound still. -/
structure Kept (s₀ s : State) : Prop where
  pending : s.pending = s₀.pending
  mem : Memory.wf s₀.mem = true → Memory.wf s.mem = true
  flash : Memory.wf s₀.flash = true → Memory.wf s.flash = true
  sems : SemaphoresSound s₀ → SemaphoresSound s

/-- An outcome is a next state that keeps what `Kept` names. -/
def GoesOn (s₀ : State) (o : Host.Outcome State Fault Refusal) : Prop := ∃ s, o = .next s ∧ Kept s₀ s

theorem Kept.refl (s : State) : Kept s s := ⟨rfl, id, id, id⟩

theorem GoesOn.next {s₀ s : State} (h : Kept s₀ s) : GoesOn s₀ (.next s) := ⟨s, rfl, h⟩

section
variable {s₀ s t : State}

theorem Kept.trans (h : Kept s₀ s) (k : Kept s t) : Kept s₀ t :=
  ⟨k.pending.trans h.pending, k.mem ∘ h.mem, k.flash ∘ h.flash, k.sems ∘ h.sems⟩

/-- Every other field may change. -/
theorem Kept.rest {power : Power} {trust : Trust} {dict : Dict} {bind : Binding} {easels : Tab Easel} {tiles : Tab Tile} {poison : List Nat}
    {tags : Tab Tag} {tiers : Tiers} {counters : Tab Counter} {net : List SyncReq} {streams : Streams} {host : HostLink} {fabric : Fabric}
    {primer : Primer} {obs : Obs} {out : List Out} {choices : Nat} (h : Kept s₀ s) :
    Kept s₀ ⟨s.pending, power, trust, dict, bind, easels, tiles, s.mem, s.flash, poison, tags, tiers, s.sems, counters, net, streams, host,
      fabric, primer, obs, out, choices⟩ := ⟨h.pending, h.mem, h.flash, h.sems⟩

theorem Kept.ite {c : Prop} [Decidable c] (h : Kept s₀ s) (k : Kept s₀ t) : Kept s₀ (if c then s else t) := by
  split
  · exact h
  · exact k

theorem Kept.foldl {α : Type} {f : State → α → State} {l : List α} (h : Kept s₀ s) (hf : ∀ t x, Kept s₀ t → Kept s₀ (f t x)) :
    Kept s₀ (l.foldl f s) := by
  induction l generalizing s with
  | nil => exact h
  | cons x l ih => exact ih (hf s x h)

theorem Kept.foldl_fst {α β : Type} {f : State × β → α → State × β} {l : List α} {p : State × β} (h : Kept s₀ p.1)
    (hf : ∀ p x, Kept s₀ p.1 → Kept s₀ (f p x).1) : Kept s₀ (l.foldl f p).1 := by
  induction l generalizing p with
  | nil => exact h
  | cons x l ih => exact ih (hf p x h)

/-! ### Memory, records and what a pass writes -/

theorem Kept.ofMemory (h : Kept s₀ s) (k : MemoryOnly s t) : Kept s₀ t := by
  obtain ⟨heq, hmem, hflash⟩ := k
  exact h.trans ⟨by rw [heq], hmem, hflash, fun hs => by rw [heq]; exact hs⟩

theorem Kept.ofRecords (h : Kept s₀ s) (k : RecordsOnly s t) : Kept s₀ t := by
  obtain ⟨heq, -, hmem, hflash⟩ := k
  exact h.trans ⟨by rw [heq], hmem, hflash, fun hs => by rw [heq]; exact hs⟩

theorem Kept.ofUndefined (h : Kept s₀ s) (k : UndefinedOnly s t) : Kept s₀ t := by
  obtain ⟨heq, hmem, hflash⟩ := k
  exact h.trans ⟨by rw [heq], hmem, hflash, fun hs => by rw [heq]; exact hs⟩

theorem Kept.ofGlazed {e : Nat} (h : Kept s₀ s) (k : Glazed e s t) : Kept s₀ t := by
  obtain ⟨heq, -, hmem, hflash⟩ := k
  exact h.trans ⟨by rw [heq], hmem, hflash, fun hs => by rw [heq]; exact hs⟩

theorem Kept.ofLaunched {c : IssueCtx} {steps : Nat} {new : List Xfer} (h : Kept s₀ s) (k : Launched c steps new s t) : Kept s₀ t :=
  k.rest ▸ h.rest

theorem Kept.writeAt {a : Nat} {bs : List Byte} (h : Kept s₀ s) : Kept s₀ (s.writeAt a bs) := h.ofMemory (s.writeAt_memoryOnly _ _)

theorem Kept.writeVa {e va : Nat} {bs : List Byte} (h : Kept s₀ s) : Kept s₀ (s.writeVa e va bs) := h.ofMemory (s.writeVa_memoryOnly _ _ _)

theorem Kept.setPoison {a n : Nat} (h : Kept s₀ s) : Kept s₀ (s.setPoison a n) := h.ofMemory (s.setPoison_memoryOnly _ _)

theorem Kept.writeSpace {e space a : Nat} {bs : List Byte} (h : Kept s₀ s) : Kept s₀ (s.writeSpace e space a bs) :=
  h.ofMemory (s.writeSpace_memoryOnly _ _ _ _)

theorem Kept.poisonSpace {e space a n : Nat} (h : Kept s₀ s) : Kept s₀ (s.poisonSpace e space a n) := h.ofMemory (s.poisonSpace_memoryOnly _ _ _ _)

theorem Kept.writeMarked {e space a : Nat} {bs : List Byte} {bad : List Bool} (h : Kept s₀ s) : Kept s₀ (s.writeMarked e space a bs bad) :=
  h.ofMemory (s.writeMarked_memoryOnly _ _ _ _ _)

theorem Kept.copyBytes {a d n : Nat} (h : Kept s₀ s) : Kept s₀ (s.copyBytes a d n) := h.ofMemory (State.copyBytes_memoryOnly)

theorem Kept.wipe {a n : Nat} (h : Kept s₀ s) : Kept s₀ (s.wipe a n) := h.ofMemory (s.wipe_memoryOnly _ _)

theorem Kept.clearPages {base first count : Nat} (h : Kept s₀ s) : Kept s₀ (s.clearPages base first count) :=
  h.ofMemory (s.clearPages_memoryOnly _ _ _)

theorem Kept.landWrite {e : Nat} {q : Packet} (h : Kept s₀ s) : Kept s₀ (s.landWrite e q) := h.ofMemory ((s.landWrite_spec _ _).1)

theorem Kept.markPartnerLog {e t : Nat} {skipped : Bool} (h : Kept s₀ s) : Kept s₀ (s.markPartnerLog e t skipped) :=
  h.ofMemory (s.markPartnerLog_memoryOnly _ _ _)

theorem Kept.shardHealth {e : Nat} {x : RedEntry} {f : Firing} (h : Kept s₀ s) : Kept s₀ (s.shardHealth e x f) :=
  h.ofMemory (s.shardHealth_memoryOnly _ _ _)

theorem Kept.undefineForming {e : Nat} (h : Kept s₀ s) : Kept s₀ (s.undefineForming e) := h.ofUndefined (s.undefineForming_only _)

theorem Kept.undefineUpdate {e : Nat} (h : Kept s₀ s) : Kept s₀ (s.undefineUpdate e) := h.ofUndefined (s.undefineUpdate_only _)

theorem Kept.emit {o : Out} (h : Kept s₀ s) : Kept s₀ (s.emit o) := h.ofRecords (s.emit_records _)

theorem Kept.fireVector {e q : Nat} (h : Kept s₀ s) : Kept s₀ (s.fireVector e q) := h.ofRecords (s.fireVector_records _ _)

theorem Kept.flush {e : Nat} (h : Kept s₀ s) : Kept s₀ (s.flush e) := h.ofRecords (s.flush_records _)

theorem Kept.ask {w : Asker} {slack : Nat} {arbs : List Arb} (h : Kept s₀ s) : Kept s₀ (s.ask w slack arbs) := h.ofRecords (s.ask_records _ _ _)

theorem Kept.setTrace {d : Nat} {u : TraceUnit} (h : Kept s₀ s) : Kept s₀ (s.setTrace d u) := h.ofRecords (s.setTrace_records _ _)

theorem Kept.traceAsk {d : Nat} (h : Kept s₀ s) : Kept s₀ (s.traceAsk d) := h.ofRecords (s.traceAsk_records _)

theorem Kept.raise {v : Event} (h : Kept s₀ s) : Kept s₀ (s.raise v) := h.ofRecords (s.raise_records _)

theorem Kept.report {code e cls unit a b : Nat} (h : Kept s₀ s) : Kept s₀ (s.report code e cls unit a b) := h.ofRecords (s.report_records _ _ _ _ _ _)

theorem Kept.reportSeq {code e cls unit seq a b : Nat} (h : Kept s₀ s) : Kept s₀ (s.reportSeq code e cls unit seq a b) :=
  h.ofRecords (s.reportSeq_records _ _ _ _ _ _ _)

theorem Kept.reportDevice {code cls unit a b : Nat} (h : Kept s₀ s) : Kept s₀ (s.reportDevice code cls unit a b) :=
  h.ofRecords (s.reportDevice_records _ _ _ _ _)

theorem Kept.tell {es : List Nat} {v : Event} (h : Kept s₀ s) : Kept s₀ (s.tell es v) := h.ofRecords (s.tell_records _ _)

theorem Kept.freshPlanes {e : Nat} {g : List Byte} {buffer : Nat} (h : Kept s₀ s) : Kept s₀ (s.freshPlanes e g buffer) :=
  h.ofGlazed (s.freshPlanes_glazed _ _ _)

theorem Kept.putRecord {e : Nat} {v : Event} (h : Kept s₀ s) : Kept s₀ (s.putRecord e v) := h.ofRecords (s.putRecord_records _ _)

theorem Kept.traceStore {d e : Nat} {bs : List Byte} {p : State × List Event} (h : Kept s₀ s) (hp : s.traceStore d e bs = p) : Kept s₀ p.1 :=
  hp ▸ h.ofRecords (s.traceStore_records _ _ _)

theorem Kept.traceTake {d e code seq : Nat} {p : State × List Event} (h : Kept s₀ s) (hp : s.traceTake d e code seq = p) : Kept s₀ p.1 :=
  hp ▸ h.ofRecords (s.traceTake_records _ _ _ _)

theorem Kept.raiseAll {p : State × List Event} (h : Kept s₀ p.1) : Kept s₀ (raiseAll p) := h.foldl fun _ _ ht => ht.raise

theorem Kept.runChain {c : VecCtx} {p : State × Word64 × Nat} (h : Kept s₀ s) (hp : s.runChain c = p) : Kept s₀ p.1 :=
  hp ▸ h.ofUndefined (s.runChain_only c)

/-! ### Semaphores -/

theorem Kept.sound (h : Kept s₀ s) (hs : SemaphoresSound s₀) (k : Nat) : (s.sem k).sound = true := semaphoresSound_sem (h.sems hs) k

/-- A semaphore set: sound wherever the semaphores it came from are. -/
theorem Kept.setSem {k : Nat} {m : Sem} (h : Kept s₀ s) (hm : (∀ k, (s.sem k).sound = true) → m.sound = true) : Kept s₀ (s.setSem k m) :=
  ⟨h.pending, h.mem, h.flash, fun hs => semaphoresSound_setSem (h.sems hs) (hm (h.sound hs))⟩

/-- Semaphores taken away, or changed in their waiters alone. -/
theorem Kept.semaphores {sems : Tab Sem} (h : Kept s₀ s) (hs : SemaphoresSound s → SemaphoresSound { s with sems }) : Kept s₀ { s with sems } :=
  ⟨h.pending, h.mem, h.flash, hs ∘ h.sems⟩

theorem semaphoresSound_filter {p : Nat × Sem → Bool} (h : SemaphoresSound s) : SemaphoresSound { s with sems := s.sems.filter p } :=
  fun q hq => h q (List.mem_of_mem_filter hq)

theorem semaphoresSound_waiters {f : Sem → Sem} (hf : ∀ m, (f m).sound = m.sound) (h : SemaphoresSound s) :
    SemaphoresSound { s with sems := tmap (fun _ => f) s.sems } := by
  intro q hq
  obtain ⟨p, hp, rfl⟩ := List.mem_map.mp hq
  exact (hf p.2).trans (h p hp)

theorem Kept.dropWaiters {e : Nat} (h : Kept s₀ s) : Kept s₀ (s.dropWaiters e) := h.semaphores (semaphoresSound_waiters fun _ => rfl)

theorem Kept.dropUpdateWaiters {e : Nat} (h : Kept s₀ s) : Kept s₀ (s.dropUpdateWaiters e) :=
  h.semaphores (semaphoresSound_waiters fun _ => rfl)

theorem Kept.setCount {e n : Nat} {m : SemDecl} (h : Kept s₀ s) : Kept s₀ (s.setCount e m n) := by
  unfold State.setCount
  split
  · exact h.setSem fun _ => Sem.store_sound _ _
  · exact h

theorem Kept.restoreSync {e : Nat} (h : Kept s₀ s) : Kept s₀ (s.restoreSync e) := by
  refine Kept.rest (Kept.foldl (h.semaphores (semaphoresSound_waiters fun _ => rfl)) fun t q ht => ?_)
  split
  · exact ht.setCount
  · exact ht

end

end Sys2Proof.Machine
end

section
/-! PROOFS. What every command keeps: tiles, synchronization, links and health (R90 to R119, R165, R275 to R301, R326 to R345). -/

namespace Sys2Proof.Machine

section
variable {s₀ s t : State}

/-! ### The shared operations -/

theorem Kept.setEasel {e : Nat} {x : Easel} (h : Kept s₀ s) : Kept s₀ (s.setEasel e x) := h.rest

theorem Kept.onEasel {e : Nat} {f : Easel → Easel} (h : Kept s₀ s) : Kept s₀ (s.onEasel e f) := h.setEasel

theorem Kept.setTile {t : Nat} {x : Tile} (h : Kept s₀ s) : Kept s₀ (s.setTile t x) := h.rest

theorem Kept.onTile {t : Nat} {f : Tile → Tile} (h : Kept s₀ s) : Kept s₀ (s.onTile t f) := h.setTile

theorem Kept.fresh {p : Nat × State} (h : Kept s₀ s) (hp : s.fresh = p) : Kept s₀ p.2 := by
  subst hp
  exact h.rest

theorem Kept.useTranslation {holder e va n : Nat} (h : Kept s₀ s) : Kept s₀ (s.useTranslation holder e va n) := by
  unfold State.useTranslation
  split
  · exact h
  · refine h.foldl fun t y ht => ?_
    split
    · exact ht
    · exact ht.ite ht.rest

theorem Kept.invalidate (h : Kept s₀ s) : Kept s₀ s.invalidate := h.rest

theorem Kept.tag {l : List (Nat × Tag)} (h : Kept s₀ s) : Kept s₀ (s.tag l) := h.rest

theorem Kept.unask {p : Asker → Bool} (h : Kept s₀ s) : Kept s₀ (s.unask p) := h.rest

theorem Kept.atArbiters {w : Asker} {slack : Nat} {arbs : List Arb} {go : State → State} (h : Kept s₀ s) (hgo : ∀ t, Kept s₀ t → Kept s₀ (go t)) :
    Kept s₀ (s.atArbiters w slack arbs go) := by
  unfold State.atArbiters
  split
  · exact (hgo _ h.unask).ite h
  · exact (hgo _ h).ite h.ask

theorem Kept.deliver {e : Nat} {v : Event} (h : Kept s₀ s) : Kept s₀ (s.deliver e v) := h.putRecord.ite h.setEasel.flush

theorem Kept.copyIn {v : Event} (h : Kept s₀ s) : Kept s₀ (s.copyIn v) := h.rest

theorem Kept.sinkWrite {k : Nat × Nat × Nat × Nat} {o : Nat} {bs : List Byte} (h : Kept s₀ s) : Kept s₀ (s.sinkWrite k o bs) :=
  h.ofMemory (s.sinkWrite_memoryOnly _ _ _)

theorem Kept.traceWrite {d : Nat} (h : Kept s₀ s) : Kept s₀ (s.traceWrite d) := by
  unfold State.traceWrite
  dsimp only
  split
  · exact h
  · exact h.setTrace.ite (h.sinkWrite.sinkWrite.setTrace.traceAsk.raise.ite h.sinkWrite.sinkWrite.setTrace.traceAsk)

theorem Kept.dropStreams {e : Nat} (h : Kept s₀ s) : Kept s₀ (s.dropStreams e) := h.rest

theorem Kept.dropPosted {e : Nat} (h : Kept s₀ s) : Kept s₀ (s.dropPosted e) := h.rest

theorem Kept.dropKeys {e : Nat} (h : Kept s₀ s) : Kept s₀ (s.dropKeys e) := h.rest

theorem Kept.stopEasel {e : Nat} (h : Kept s₀ s) : Kept s₀ (s.stopEasel e) := by
  unfold State.stopEasel
  dsimp only
  exact h.undefineUpdate.dropWaiters.dropStreams.dropPosted.rest.onEasel

theorem Kept.fault {e : Nat} (h : Kept s₀ s) : Kept s₀ (s.fault e) := h.undefineForming.stopEasel.rest.onEasel.ite h

theorem Kept.faultWith {code e cls unit seq a b : Nat} (h : Kept s₀ s) : Kept s₀ (s.faultWith code e cls unit seq a b) := h.reportSeq.fault

theorem Kept.faultLater {e : Nat} (h : Kept s₀ s) : Kept s₀ (s.faultLater e) := h.onEasel

theorem Kept.uncorrectable {e cls unit seq space addr tier requester stream : Nat} (h : Kept s₀ s) :
    Kept s₀ (s.uncorrectable e cls unit seq space addr tier requester stream) :=
  h.reportSeq.faultLater.ite h.reportSeq

theorem Kept.complete {e : Nat} {c : Cmd} {boundary : Bool} (h : Kept s₀ s) : Kept s₀ (s.complete e c boundary) :=
  h.onEasel.fault.ite (h.setEasel.reportSeq.ite h.setEasel)

/-! ### Control and trace instructions -/

theorem Kept.tileFault {k : TileCtx} {t code a b : Nat} (h : Kept s₀ s) : Kept s₀ (s.tileFault k t code a b) := h.faultWith

theorem Kept.operandFault {k : TileCtx} {t reason : Nat} (h : Kept s₀ s) : Kept s₀ (s.operandFault k t reason) := h.tileFault

theorem Kept.execEndProg {t : Nat} (h : Kept s₀ s) : GoesOn s₀ (execEndProg t s) := by
  unfold Machine.execEndProg
  split
  · exact .next h.onTile
  · exact .next h

theorem Kept.execLoop {t : Nat} (h : Kept s₀ s) : GoesOn s₀ (execLoop t s) := by
  unfold Machine.execLoop
  split
  · exact .next h.onTile
  · exact .next h

theorem Kept.execBr {t : Nat} (h : Kept s₀ s) : GoesOn s₀ (execBr t s) := by
  unfold Machine.execBr
  split
  · exact .next h.onTile
  · exact .next h

theorem Kept.setNext {t d : Nat} {v : Word64} (h : Kept s₀ s) : Kept s₀ (s.setNext t d v) := h.onTile

theorem Kept.execSeti {t : Nat} (h : Kept s₀ s) : GoesOn s₀ (execSeti t s) := by
  unfold Machine.execSeti
  split
  · exact .next h.setNext
  · exact .next h

theorem Kept.execSethi {t : Nat} (h : Kept s₀ s) : GoesOn s₀ (execSethi t s) := by
  unfold Machine.execSethi
  split
  · exact .next h.setNext
  · exact .next h

theorem Kept.execAlu {t : Nat} (h : Kept s₀ s) : GoesOn s₀ (execAlu t s) := by
  unfold Machine.execAlu
  split
  · exact .next h.setNext
  · exact .next h

theorem Kept.execGetslot {t : Nat} (h : Kept s₀ s) : GoesOn s₀ (execGetslot t s) := by
  unfold Machine.execGetslot
  split
  · exact .next h.setNext
  · exact .next h

theorem Kept.execGetctx {t : Nat} (h : Kept s₀ s) : GoesOn s₀ (execGetctx t s) := by
  unfold Machine.execGetctx
  split
  · exact .next h.setNext
  · exact .next h

theorem Kept.traceMark {k : TileCtx} {t value reg : Nat} (h : Kept s₀ s) : Kept s₀ (s.traceMark k t value reg) :=
  (((h.onTile.traceStore rfl).raiseAll.traceTake rfl).raiseAll).ite (h.onTile.traceStore rfl).raiseAll

theorem Kept.execMark {t : Nat} (h : Kept s₀ s) : GoesOn s₀ (execMark t s) := by
  unfold Machine.execMark
  split
  · dsimp only
    exact .next (h.traceMark.ite h).onTile
  · exact .next h

/-! ### Semaphores and work counters -/

theorem Kept.release {w : Who} (h : Kept s₀ s) : Kept s₀ (s.release w) := by
  unfold State.release
  split
  · exact h.onTile
  · exact h.rest
  · exact h.rest
  · exact h.onEasel
  · exact h.onEasel

theorem Kept.semComplement {e : Nat} {d : SemDecl} {m : Sem} (h : Kept s₀ s) : Kept s₀ (s.semComplement e d m) := h.faultWith

theorem Kept.semFault {code e cls unit count limit id cause : Nat} (h : Kept s₀ s) : Kept s₀ (s.semFault code e cls unit count limit id cause) :=
  h.faultWith

theorem Kept.applySignal {e n cls unit : Nat} {d : SemDecl} (h : Kept s₀ s) : Kept s₀ (s.applySignal e d n cls unit) := by
  unfold State.applySignal
  split
  · exact h
  · dsimp only
    split
    · exact h
    · split
      · exact h.semComplement
      · split
        · exact h.semFault
        · split
          · exact h.semFault
          · exact (h.setSem fun _ => Sem.signal_sound _ _).foldl fun _ _ ht => ht.release

theorem Kept.applyWait {e : Nat} {d : SemDecl} {w : Waiter} (h : Kept s₀ s) : Kept s₀ (s.applyWait e d w) := by
  unfold State.applyWait
  split
  · exact h
  · dsimp only
    split
    · exact h.semComplement
    · split
      · exact (h.setSem fun _ => Sem.store_sound _ _).release
      · exact h.setSem fun hs => hs _

theorem Kept.applyWaitv {e : Nat} {d : SemDecl} {w : Waiter} (h : Kept s₀ s) : Kept s₀ (s.applyWaitv e d w) := by
  unfold State.applyWaitv
  split
  · exact h
  · dsimp only
    split
    · exact h.semComplement
    · split
      · exact h.release
      · exact h.setSem fun hs => hs _

theorem Kept.execSyncRequestArrival {k : Nat} (h : Kept s₀ s) : GoesOn s₀ (execSyncRequestArrival k s) := by
  unfold Machine.execSyncRequestArrival
  split
  · exact .next h
  next r _ =>
    split
    · exact .next h
    · dsimp only
      split
      · exact .next h.rest
      · refine .next ?_
        cases r.kind with
        | signal => exact h.rest.applySignal
        | wait => exact h.rest.applyWait
        | waitv => exact h.rest.applyWaitv

theorem Kept.sendSync {k : TileCtx} {t : Nat} {kind : SyncKind} {sem n : Nat} (h : Kept s₀ s) : Kept s₀ (s.sendSync k t kind sem n) := h.rest

theorem Kept.execSignal {t : Nat} (h : Kept s₀ s) : GoesOn s₀ (execSignal t s) := by
  unfold Machine.execSignal
  split
  · dsimp only
    exact .next (h.ite h.sendSync).onTile
  · exact .next h

theorem Kept.issueWait {k : TileCtx} {t : Nat} {kind : SyncKind} {hold : Hold} {sem n : Nat} (h : Kept s₀ s) :
    Kept s₀ (s.issueWait k t kind hold sem n) := by
  unfold State.issueWait
  split
  · exact h.onTile
  · split
    · exact h
    · exact (h.semComplement.ite h.semFault).ite h.sendSync.onTile

theorem Kept.execWait {t : Nat} (h : Kept s₀ s) : GoesOn s₀ (execWait t s) := by
  unfold Machine.execWait
  split
  · exact .next h.issueWait
  · exact .next h

theorem Kept.execWaitv {t : Nat} (h : Kept s₀ s) : GoesOn s₀ (execWaitv t s) := by
  unfold Machine.execWaitv
  split
  · exact .next h.issueWait
  · exact .next h

theorem Kept.execFadd {t : Nat} (h : Kept s₀ s) : GoesOn s₀ (execFadd t s) := by
  unfold Machine.execFadd
  split
  · dsimp only
    split
    · exact .next h.tileFault
    · exact .next (h.ite h.rest).setNext
  · exact .next h

theorem Kept.execClaim {t : Nat} (h : Kept s₀ s) : GoesOn s₀ (execClaim t s) := by
  unfold Machine.execClaim
  split
  · dsimp only
    split
    · split
      · exact .next h.operandFault
      · split
        · exact .next h.onEasel.reportSeq.setNext
        · exact .next h.rest.setNext
    · split
      · exact .next h.operandFault
      · split
        · exact .next h.onEasel.reportSeq.setNext
        · exact .next h.rest.setNext
  · exact .next h

/-! ### The sending side of the fabric -/

theorem Kept.setPort {p : Nat} {x : Port} (h : Kept s₀ s) : Kept s₀ (s.setPort p x) := h.rest

theorem Kept.stamp {k : Packet} {p : Packet × State} (h : Kept s₀ s) (hp : s.stamp k = p) : Kept s₀ p.2 := by
  subst hp
  unfold State.stamp
  dsimp only
  split
  · dsimp only
    exact h
  · dsimp only
    exact h.fresh rfl

theorem Kept.sendFlit {p : Nat} {f : List Byte} (h : Kept s₀ s) : Kept s₀ (s.sendFlit p f) := h.setPort.emit

theorem Kept.pump {p : Nat} {l : List Packet} {blocked : List Nat} (h : Kept s₀ s) : Kept s₀ (pump p l blocked s) := by
  induction l generalizing s blocked with
  | nil => exact h
  | cons k rest ih =>
    unfold Machine.pump
    dsimp only
    split
    · exact ih h.setPort
    · exact ih ((h.stamp rfl).setPort.foldl fun _ _ ht => ht.sendFlit)

theorem Kept.pumpPort {p : Nat} (h : Kept s₀ s) : Kept s₀ (s.pumpPort p) := h.setPort.pump

theorem Kept.sendOn {p : Nat} {k : Packet} (h : Kept s₀ s) : Kept s₀ (s.sendOn p k) := h.setPort.pumpPort

theorem Kept.markSent {e : Nat} (h : Kept s₀ s) : Kept s₀ (s.markSent e) := h.onEasel

theorem Kept.requestOn {p e type channel dest a bHigh : Nat} {payload : List Byte} {poisoned : Bool} {issue xfer drain log fetch : Option Nat}
    (h : Kept s₀ s) :
    Kept s₀ (s.requestOn p e type channel dest a bHigh payload poisoned issue xfer drain log fetch) :=
  h.rest.sendOn

theorem Kept.request {e type channel dest a bHigh : Nat} {payload : List Byte} {poisoned : Bool} {issue xfer : Option Nat} (h : Kept s₀ s)
    (ht : s.request e type channel dest a bHigh payload poisoned issue xfer = some t) : Kept s₀ t := by
  obtain ⟨p, -, rfl⟩ := Option.map_eq_some_iff.mp ht
  exact h.requestOn.markSent

/-! ### Sliding windows -/

theorem Kept.storePiece {a0 : Nat} {k : Piece} {off n : Nat} (h : Kept s₀ s) : Kept s₀ (s.storePiece a0 k off n) := by
  unfold State.storePiece
  dsimp only
  exact h.writeAt.foldl fun _ _ ht => ht.setPoison.ite ht

theorem Kept.putElem {e : Nat} {place : Nat × Nat} {w bits : Nat} {bad : Bool} (h : Kept s₀ s) : Kept s₀ (s.putElem e place w bits bad) := by
  unfold State.putElem
  dsimp only
  split
  · exact h.writeVa.setPoison.ite h.writeVa
  · exact h

theorem Kept.windowOutput {e : Nat} {p : List Byte} {v : List Nat} {base st q n0 n total src m off len : Nat} (h : Kept s₀ s) :
    Kept s₀ (s.windowOutput e p v base st q n0 n total src m off len) := by
  unfold State.windowOutput
  dsimp only
  split
  · exact h
  · exact h.foldl fun _ _ ht => ht.putElem

theorem Kept.attnLand {e : Nat} {p : List Byte} {v : List Nat} {bufs : List BufPlan} {t qBlock j what off len : Nat} (h : Kept s₀ s) :
    Kept s₀ (s.attnLand e p v bufs t qBlock j what off len) := by
  unfold State.attnLand
  split
  · exact h
  · dsimp only
    exact h.writeAt.foldl fun _ _ ht => ht.setPoison

/-! ### Health counts and errors of a tier -/

theorem Kept.setHealth {x : Health} (h : Kept s₀ s) : Kept s₀ (s.setHealth x) := h.rest

theorem Kept.countHealth {e stream step : Nat} {counts : List Nat} (h : Kept s₀ s) : Kept s₀ (s.countHealth e stream step counts) := by
  unfold State.countHealth
  dsimp only
  exact h.setHealth.onEasel

theorem Kept.corrected {a : Nat} (h : Kept s₀ s) : Kept s₀ (s.corrected a) := by
  unfold State.corrected
  split
  · exact h
  · exact h.rest
  · dsimp only
    exact h.rest
  · dsimp only
    split
    · exact h.rest
    · split
      · exact h.rest.report
      · exact h.rest.reportDevice

theorem Kept.poisonAt {e a space addr requester stream seq : Nat} (h : Kept s₀ s) : Kept s₀ (s.poisonAt e a space addr requester stream seq) := by
  unfold State.poisonAt
  extract_lets k t i u v
  have ht : Kept s₀ t := h.setPoison.ite h.setPoison
  have hv : Kept s₀ v := ht.rest.ite ht
  exact hv.uncorrectable.ite hv.uncorrectable

theorem Kept.readError {e a space addr requester stream seq : Nat} {err : MemErr} (h : Kept s₀ s) :
    Kept s₀ (s.readError e a space addr requester stream seq err) := by
  unfold State.readError
  split
  · exact h
  · split
    · exact h
    · exact h.corrected
    · exact h.ite h.poisonAt

end

end Sys2Proof.Machine
end

section
/-! PROOFS. What every command keeps: streams, the matrix array and the vector engine (R100 to R143, R197 to R274). -/

namespace Sys2Proof.Machine

section
variable {s₀ s t : State}

/-! ### Streams -/

theorem Kept.setFlow {f : Flow} (h : Kept s₀ s) : Kept s₀ (s.setFlow f) := h.rest

theorem Kept.openIssue {y : Issue} {chunk : Option (Nat × Nat)} (h : Kept s₀ s) : Kept s₀ (s.openIssue y chunk) := (h.ite h.setHealth).setFlow.rest

theorem Kept.execIssue {t : Nat} (h : Kept s₀ s) : GoesOn s₀ (execIssue t s) := by
  unfold Machine.execIssue
  split
  · split
    · exact .next h
    · dsimp only
      split
      · exact .next h.operandFault
      · split
        · exact .next h
        · split
          · exact .next h
          · split
            · exact .next h.openIssue.onTile
            · split
              · exact .next h.openIssue.onTile
              · exact .next h.faultWith
  · exact .next h

theorem Kept.execAwait {t : Nat} (h : Kept s₀ s) : GoesOn s₀ (execAwait t s) := by
  unfold Machine.execAwait
  split
  · split
    · exact .next h.onTile
    · exact .next h.onTile
  · exact .next h

theorem Kept.setIssue {y : Issue} (h : Kept s₀ s) : Kept s₀ (s.setIssue y) := h.rest

theorem Kept.streamFault {c : IssueCtx} {code a b : Nat} (h : Kept s₀ s) : Kept s₀ (s.streamFault c code a b) := h.faultWith

theorem Kept.execAddrEnd {i : Nat} (h : Kept s₀ s) : GoesOn s₀ (execAddrEnd i s) := by
  unfold Machine.execAddrEnd
  split
  · exact .next h.setIssue
  · exact .next h

theorem Kept.execAddrSeti {i : Nat} (h : Kept s₀ s) : GoesOn s₀ (execAddrSeti i s) := by
  unfold Machine.execAddrSeti
  split
  · exact .next h.setIssue
  · exact .next h

theorem Kept.execGetv {i : Nat} (h : Kept s₀ s) : GoesOn s₀ (execGetv i s) := by
  unfold Machine.execGetv
  split
  · exact .next h.setIssue
  · exact .next h

theorem Kept.execMadd {i : Nat} (h : Kept s₀ s) : GoesOn s₀ (execMadd i s) := by
  unfold Machine.execMadd
  split
  · exact .next h.setIssue
  · exact .next h

theorem Kept.execAddi {i : Nat} (h : Kept s₀ s) : GoesOn s₀ (execAddi i s) := by
  unfold Machine.execAddi
  split
  · exact .next h.setIssue
  · exact .next h

theorem Kept.programFault {c : IssueCtx} (h : Kept s₀ s) : Kept s₀ (s.programFault c) := by
  unfold State.programFault
  split
  next _ _ t heq =>
    exact (h.fresh heq).streamFault

theorem Kept.execAddrLoop {i : Nat} (h : Kept s₀ s) : GoesOn s₀ (execAddrLoop i s) := by
  unfold Machine.execAddrLoop
  split
  · dsimp only
    split
    · exact .next h.programFault
    · split
      · exact .next h.setIssue
      · exact .next h.setIssue
  · exact .next h

theorem Kept.emitRun {c : IssueCtx} {r : Run} {y : Issue} (h : Kept s₀ s) : Kept s₀ (s.emitRun c r y) :=
  h.setIssue.ite (h.programFault.ite h.setIssue)

theorem Kept.execEmit {i : Nat} (h : Kept s₀ s) : GoesOn s₀ (execEmit i s) := by
  unfold Machine.execEmit
  split
  · dsimp only
    exact .next h.emitRun
  · exact .next h

theorem Kept.execZero {i : Nat} (h : Kept s₀ s) : GoesOn s₀ (execZero i s) := by
  unfold Machine.execZero
  split
  · dsimp only
    exact .next h.emitRun
  · exact .next h

theorem Kept.splitRun {c : IssueCtx} {steps fuel : Nat} {r : Run} {p : State × Run} (h : Kept s₀ s) (hp : splitRun c steps fuel r s = p) :
    Kept s₀ p.1 := by
  obtain ⟨new, hnew, -⟩ := splitRun_spec (c := c) (steps := steps) fuel r s
  exact hp ▸ h.ofLaunched hnew

theorem Kept.launchParts {c : IssueCtx} {steps : Nat} {l : List Move} {p : State × List Move} (h : Kept s₀ s) (hp : launchParts c steps l s = p) :
    Kept s₀ p.1 := by
  obtain ⟨new, hnew, -⟩ := launchParts_spec (c := c) (steps := steps) l s
  exact hp ▸ h.ofLaunched hnew

theorem Kept.takeRun {c : IssueCtx} {steps : Nat} {r : Run} {rest : List Run} {y : Issue} (h : Kept s₀ s) : Kept s₀ (s.takeRun c steps r rest y) := by
  unfold State.takeRun
  split
  next _ t _ heq =>
    exact (h.splitRun heq).setIssue

theorem Kept.starve {c : IssueCtx} {r : Run} {rest : List Run} {y : Issue} (h : Kept s₀ s) : Kept s₀ (s.starve c r rest y) := by
  unfold State.starve
  split
  · exact h.setIssue
  · dsimp only
    exact h.setIssue.ite (h.setIssue.rest.ite h.setIssue.rest.reportSeq)

theorem Kept.stepRun {c : IssueCtx} {steps : Nat} {r : Run} {rest : List Run} {y : Issue} (h : Kept s₀ s) : Kept s₀ (s.stepRun c steps r rest y) := by
  unfold State.stepRun
  split
  · exact h.takeRun
  · split
    · exact h.takeRun
    · exact h.starve
    · exact h.streamFault

theorem Kept.sendGates {c : IssueCtx} {w : List (Nat × Nat)} {kind : SyncKind} {who : Who} (h : Kept s₀ s) : Kept s₀ (s.sendGates c w kind who) :=
  h.rest

theorem Kept.stepParts {c : IssueCtx} {steps : Nat} {parts : List Move} (h : Kept s₀ s) : Kept s₀ (s.stepParts c steps parts) := by
  unfold State.stepParts
  split
  next _ t _ heq =>
    exact (h.launchParts heq).setIssue

theorem Kept.beginParts {c : IssueCtx} {steps : Nat} {parts : List Move} {check : EndCheck} (h : Kept s₀ s) :
    Kept s₀ (s.beginParts c steps parts check) := by
  unfold State.beginParts
  split
  · exact h.streamFault
  · exact h.stepParts

theorem Kept.windowStep {c : IssueCtx} {steps : Nat} (h : Kept s₀ s) : Kept s₀ (s.windowStep c steps) :=
  h.sendGates.setIssue.ite (h.ite (h.stepParts.ite (h.setIssue.ite h.beginParts)))

theorem Kept.attentionStep {c : IssueCtx} {steps : Nat} (h : Kept s₀ s) : Kept s₀ (s.attentionStep c steps) :=
  h.setIssue.ite (h.sendGates.setIssue.ite (h.ite (h.stepParts.ite h.beginParts)))

theorem Kept.execStreamRun {i steps : Nat} (h : Kept s₀ s) : GoesOn s₀ (execStreamRun i steps s) := by
  unfold Machine.execStreamRun
  split
  · exact .next h
  · split
    · exact .next h.stepRun
    · split
      · split
        · split
          · exact .next h.stepRun
          · exact .next h
        · exact .next h
      · exact .next h
    · split
      · dsimp only
        split
        · exact .next h.setIssue
        · exact .next h.stepRun
      · exact .next h.windowStep
      · exact .next h.attentionStep
      · exact .next h
    · exact .next h

theorem Kept.bumpSlice {slice seq i n : Nat} (h : Kept s₀ s) : Kept s₀ (s.bumpSlice slice seq i n) := h.rest

theorem Kept.onXfer {x : Nat} {f : Xfer → Xfer} (h : Kept s₀ s) : Kept s₀ (s.onXfer x f) := h.rest

theorem Kept.grant {x : Xfer} {forced : Bool} (h : Kept s₀ s) : Kept s₀ (s.grant x forced) := by
  unfold State.grant
  extract_lets b t u
  have hu : Kept s₀ u := by
    refine Kept.onXfer ?_
    unfold t
    split
    · exact h.ite h.rest
    · exact h
  clear_value u
  split
  · extract_lets v
    have hv : Kept s₀ v := hu.bumpSlice.ite hu
    exact hv.bumpSlice.ite hv
  · exact hu

theorem Kept.grantAsk {q : Ask} (h : Kept s₀ s) : Kept s₀ (s.grantAsk q) := by
  unfold State.grantAsk
  dsimp only
  split
  · exact h.rest.unask.traceWrite
  · exact h.rest

theorem Kept.grantPending {p : Pending} {forced : Bool} (h : Kept s₀ s) : Kept s₀ (s.grantPending p forced) := by
  unfold State.grantPending
  split
  · exact h.grant
  · exact h.grantAsk

theorem Kept.execArbiterGrant {a : Arb} (h : Kept s₀ s) : GoesOn s₀ (execArbiterGrant a s) := by
  unfold Machine.execArbiterGrant
  split
  · exact .next h.grantPending
  · exact .next h

theorem Kept.execStarvationGuardExpiry {x : Nat} (h : Kept s₀ s) : GoesOn s₀ (execStarvationGuardExpiry x s) := by
  unfold Machine.execStarvationGuardExpiry
  split
  · exact .next h.grantPending
  · exact .next h

theorem Kept.sourceErrors {c : IssueCtx} {f : Xfer} {a n : Nat} {errs : List (Nat × MemErr)} (h : Kept s₀ s) :
    Kept s₀ (s.sourceErrors c f a n errs) :=
  h.foldl fun _ _ ht => ht.readError.ite ht

theorem Kept.blockErrors {c : IssueCtx} {errs : List (Nat × MemErr)} (h : Kept s₀ s) : Kept s₀ (s.blockErrors c errs) := by
  unfold State.blockErrors
  refine h.foldl fun t y ht => ?_
  split
  · exact ht.readError
  · split
    · exact ht.readError
    · exact ht

theorem Kept.account {c : IssueCtx} {n : Nat} {counts : Option (List Nat)} (h : Kept s₀ s) : Kept s₀ (s.account c n counts) := by
  unfold State.account
  dsimp only
  refine Kept.bumpSlice ?_
  split
  · exact h.setFlow.ite h.setFlow.countHealth
  · exact h.setFlow

theorem Kept.dropXfer {x : Nat} (h : Kept s₀ s) : Kept s₀ (s.dropXfer x) := h.rest

theorem Kept.flashLanded {st n : Nat} {p : Bool × State} (h : Kept s₀ s) (hp : s.flashLanded st n = p) : Kept s₀ p.2 := by
  subst hp
  unfold State.flashLanded
  dsimp only
  split
  · dsimp only
    exact h.rest
  · dsimp only
    exact h

theorem Kept.programFlash {d : Nat} {bs : List Byte} {bad : Bool} (h : Kept s₀ s) : Kept s₀ (s.programFlash d bs bad) := by
  unfold State.programFlash
  dsimp only
  split
  next _ t heq =>
    have ht := h.rest.flashLanded heq
    exact ht.rest.writeAt.setPoison.ite ht.rest.writeAt
  next _ t heq =>
    exact h.rest.flashLanded heq

theorem Kept.landBytes {d : Nat} {bs : List Byte} {bad : Bool} (h : Kept s₀ s) : Kept s₀ (s.landBytes d bs bad) :=
  h.programFlash.ite (h.writeAt.setPoison.ite h.writeAt)

theorem Kept.landChunk {c : IssueCtx} {k off n : Nat} (h : Kept s₀ s) : Kept s₀ (s.landChunk c k off n) := by
  unfold State.landChunk
  dsimp only
  split
  · exact h.windowOutput.account
  · split
    · exact h.storePiece.account
    · exact h

theorem Kept.landAttention {c : IssueCtx} {x t what off len : Nat} (h : Kept s₀ s) : Kept s₀ (s.landAttention c x t what off len) := by
  unfold State.landAttention
  dsimp only
  split
  · exact h
  · exact h.attnLand.account.ite h.attnLand.account.sendGates

theorem Kept.landCopy {a d n : Nat} (h : Kept s₀ s) : Kept s₀ (s.landCopy a d n) := h.programFlash.ite ((h.copyBytes.flashLanded rfl).ite h.copyBytes)

theorem Kept.readSlot {e lane output n : Nat} (h : Kept s₀ s) : Kept s₀ (s.readSlot e lane output n) := by
  unfold State.readSlot
  split
  · exact h
  · dsimp only
    exact h.rest

theorem Kept.execTransferLand {x : Nat} {errs : List (Nat × MemErr)} (h : Kept s₀ s) : GoesOn s₀ (execTransferLand x errs s) := by
  unfold Machine.execTransferLand
  split
  · exact .next h
  · split
    · exact .next h
    · split
      · exact .next h
      · dsimp only
        split
        · exact .next h.sourceErrors.landCopy.account.dropXfer
        · exact .next h.sourceErrors.landCopy.account.readSlot.dropXfer
        · exact .next (h.programFlash.ite h.writeAt).account.dropXfer
        · exact .next h.blockErrors.landChunk.dropXfer
        · exact .next h.blockErrors.landAttention.dropXfer
        next src _ _ _ _ slot _ =>
          cases src with
          | none =>
            split
            next t heq =>
              cases slot with
              | none => exact .next (h.request heq).onXfer
              | some l => exact .next (h.request heq).onXfer.readSlot
            · exact .next h
          | some a =>
            split
            next t heq =>
              have ht := h.sourceErrors.request heq
              cases slot with
              | none => exact .next ((ht.onXfer.flashLanded rfl).ite ht.onXfer)
              | some l => exact .next ((ht.onXfer.flashLanded rfl).ite ht.onXfer).readSlot
            · exact .next h.sourceErrors
        · split
          next t heq => exact .next (h.request heq).onXfer
          · exact .next h
        next got _ =>
          cases got with
          | none =>
            split
            next t heq => exact .next (h.request heq).onXfer
            · exact .next h
          | some q =>
            split
            next t heq => exact .next (h.request heq).onXfer
            · exact .next h

theorem Kept.execStreamIssueComplete {i : Nat} (h : Kept s₀ s) : GoesOn s₀ (execStreamIssueComplete i s) := by
  unfold Machine.execStreamIssueComplete
  split
  · exact .next h
  · split
    · split
      · exact .next h
      · dsimp only
        split
        · exact .next h.rest
        · split
          · split
            next _ t heq =>
              exact .next (h.request heq).rest
            · exact .next h
          · exact .next h.rest
        · exact .next h.rest
    · exact .next h

/-! ### The matrix array -/

theorem Kept.tileOverflow {k : TileCtx} {t offset buf : Nat} (h : Kept s₀ s) : Kept s₀ (s.tileOverflow k t offset buf) := h.tileFault

theorem Kept.execMma {t : Nat} (h : Kept s₀ s) : GoesOn s₀ (execMma t s) := by
  unfold Machine.execMma
  split
  · dsimp only
    split
    · exact .next h
    · split
      · exact .next h
      · split
        · exact .next h.operandFault
        · exact .next h.tileOverflow
        · split
          · exact .next h.onTile
          · exact .next h.onTile
  · exact .next h

theorem Kept.mmaRow {t : Nat} {op : MmaOp} {bs : List Line} {i : Nat} {p : State × Nat} (h : Kept s₀ s) (hp : s.mmaRow t op bs i = p) :
    Kept s₀ p.1 := by
  subst hp
  exact (h.rest.ite h).writeAt.tag.foldl fun _ _ ht => ht.setPoison.ite ht

theorem Kept.product {t : Nat} {op : MmaOp} {p : State × Nat} (h : Kept s₀ s) (hp : s.product t op = p) : Kept s₀ p.1 := by
  subst hp
  refine Kept.foldl_fst h fun q i hq => ?_
  dsimp only
  exact hq.mmaRow rfl

theorem Kept.storeErrors {k : TileCtx} {t requester : Nat} {ranges : List (Nat × Nat)} {errs : List (Nat × MemErr)} (h : Kept s₀ s) :
    Kept s₀ (s.storeErrors k t requester ranges errs) :=
  h.foldl fun _ _ ht => ht.readError.ite ht

theorem Kept.execMmaComplete {t : Nat} {errs : List (Nat × MemErr)} (h : Kept s₀ s) : GoesOn s₀ (execMmaComplete t errs s) := by
  unfold Machine.execMmaComplete
  split
  · exact .next h
  · split
    · exact .next h
    · split
      · exact .next h
      · dsimp only
        exact .next ((h.storeErrors.product rfl).onTile.ite (h.storeErrors.product rfl).onTile.reportSeq)

/-! ### The vector engine -/

theorem Kept.descPoison {k : TileCtx} {t lo n : Nat} {fresh : Bool} (h : Kept s₀ s) : Kept s₀ (s.descPoison k t lo n fresh) :=
  (h.ite h.uncorrectable).operandFault

theorem Kept.readDesc {k : TileCtx} {t lo n : Nat} {errs : List (Nat × MemErr)} {p : Bool × State}
    (h : Kept s₀ s) (hp : s.readDesc k t lo n errs = p) :
    Kept s₀ p.2 := by
  subst hp
  unfold State.readDesc
  dsimp only
  split
  · dsimp only
    exact h.storeErrors.descPoison
  · dsimp only
    exact h.storeErrors

/-- A descriptor read: with an error the state stands as the read left it. -/
theorem Kept.described {q : Bool × State} {f : State → State} (h : Kept s₀ q.2) (hf : ∀ t, Kept s₀ t → Kept s₀ (f t)) :
    Kept s₀ (match (generalizing := false) q with | (true, t) => t | (false, t) => f t) := by
  obtain ⟨_ | _, t⟩ := q
  · exact hf t h
  · exact h

theorem Kept.vchainIssue {k : TileCtx} {t off param : Nat} {b : BufPlan} {errs : List (Nat × MemErr)} (h : Kept s₀ s) :
    Kept s₀ (s.vchainIssue k t b off param errs) := by
  unfold State.vchainIssue
  extract_lets x lo
  refine h.operandFault.ite (h.tileOverflow.ite (Kept.described (h.readDesc rfl) fun u hu => ?_))
  refine hu.tileOverflow.ite (Kept.described (hu.readDesc rfl) fun v hv => ?_)
  extract_lets p
  clear_value p
  split
  · exact hv.operandFault
  · exact hv.tileOverflow
  · exact h.ite hv.onTile

theorem Kept.execVchain {t : Nat} {errs : List (Nat × MemErr)} (h : Kept s₀ s) : GoesOn s₀ (execVchain t errs s) := by
  unfold Machine.execVchain
  split
  · dsimp only
    split
    · exact .next h
    · split
      · exact .next h
      · exact .next h.vchainIssue
  · exact .next h

theorem Kept.execVchainComplete {t : Nat} {errs : List (Nat × MemErr)} (h : Kept s₀ s) : GoesOn s₀ (execVchainComplete t errs s) := by
  unfold Machine.execVchainComplete
  split
  · exact .next h
  · split
    · exact .next h
    · split
      · exact .next h
      · dsimp only
        exact .next (h.storeErrors.runChain rfl).onTile

end

end Sys2Proof.Machine
end

section
/-! PROOFS. What every command keeps: commands, the host interface, the dictionary and canvases (R60 to R91, R395 to R433). -/

namespace Sys2Proof.Machine

section
variable {s₀ s t : State}

/-! ### Commands -/

theorem Kept.execDescriptorTake {e : Nat} {entry : List Byte} {intact : Bool} (h : Kept s₀ s) : GoesOn s₀ (execDescriptorTake e entry intact s) := by
  unfold Machine.execDescriptorTake
  split
  · exact .next h
  · split
    · exact .next h
    · dsimp only
      split
      · split
        · exact .next ((((h.setEasel.onEasel.ite h.setEasel).fresh rfl).setPoison).uncorrectable)
        · exact .next ((h.setEasel.onEasel.ite h.setEasel).fresh rfl)
      · exact .next (h.setEasel.onEasel.ite h.setEasel)

theorem Kept.reject {e : Nat} {c : Cmd} {r : Reject} (h : Kept s₀ s) : Kept s₀ (s.reject e c r) := h.reportSeq.fault.ite h.reportSeq.onEasel

theorem Kept.execCommandDispatch {e : Nat} (h : Kept s₀ s) : GoesOn s₀ (execCommandDispatch e s) := by
  unfold Machine.execCommandDispatch
  dsimp only
  split
  · exact .next h
  · split
    · exact .next h
    · split
      · exact .next h
      · split
        · exact .next h.reject
        · split
          · exact .next h.reject
          · split
            · exact .next h.reject
            · exact .next h.setEasel

theorem Kept.finishCmd {e : Nat} {c : Cmd} (h : Kept s₀ s) : Kept s₀ (s.finishCmd e c) := (h.setEasel.ite h).complete

theorem Kept.execNoOperation {e : Nat} (h : Kept s₀ s) : GoesOn s₀ (execNoOperation e s) := by
  unfold Machine.execNoOperation
  split
  · exact .next h.finishCmd
  · exact .next h

theorem Kept.armTriggers {e : Nat} (h : Kept s₀ s) : Kept s₀ (s.armTriggers e) := by
  unfold State.armTriggers
  split
  · exact h
  · refine h.foldl fun t y ht => ?_
    split
    · exact ht.applyWaitv
    · exact ht

theorem Kept.startTiles {e seq : Nat} (h : Kept s₀ s) : Kept s₀ (s.startTiles e seq) := h.foldl fun _ _ ht => ht.onTile

theorem Kept.runAgain {e : Nat} {c : Cmd} (h : Kept s₀ s) : Kept s₀ (s.runAgain e c) :=
  h.restoreSync.dropStreams.rest.onEasel.startTiles.armTriggers.foldl fun _ _ ht => ht.reportSeq

theorem Kept.execRunWork {e : Nat} (h : Kept s₀ s) : GoesOn s₀ (execRunWork e s) := by
  unfold Machine.execRunWork
  dsimp only
  split
  · split
    · split
      · exact .next h
      · exact .next h.runAgain
    · exact .next h
  · split
    · exact .next h
    · exact .next h.setEasel.startTiles.armTriggers

theorem Kept.execTileDone {t : Nat} (h : Kept s₀ s) : GoesOn s₀ (execTileDone t s) := by
  unfold Machine.execTileDone
  dsimp only
  split
  · exact .next h.setTile
  · exact .next h

theorem Kept.initialSync {e : Nat} (h : Kept s₀ s) : Kept s₀ (s.initialSync e) := by
  unfold State.initialSync
  split
  · dsimp only
    exact (h.foldl fun _ _ ht => ht.setCount).rest
  · exact h

theorem Kept.publishWork {e : Nat} (h : Kept s₀ s) : Kept s₀ (s.publishWork e) := h.rest

theorem Kept.endFault {e : Nat} {m : SemDecl} {final : Int} (h : Kept s₀ s) : Kept s₀ (s.endFault e m final) := by
  unfold State.endFault
  split
  · exact h
  · dsimp only
    exact h.semComplement.ite (h.semFault.ite h.semFault)

theorem Kept.execCommandEnd {e : Nat} (h : Kept s₀ s) : GoesOn s₀ (execCommandEnd e s) := by
  unfold Machine.execCommandEnd
  split
  · exact .next h
  · split
    · exact .next h
    · split
      · exact .next h.endFault
      · exact .next h.initialSync.publishWork.finishCmd

/-! ### Samples and counters -/

theorem Kept.execPcSample {t : Nat} (h : Kept s₀ s) : GoesOn s₀ (execPcSample t s) := by
  unfold Machine.execPcSample
  dsimp only
  split
  · split
    · exact .next (h.onTile.traceStore rfl).raiseAll
    · exact .next h
  · exact .next h

theorem Kept.publishAt {cls unit : Nat} {l : List Nat} (h : Kept s₀ s) : Kept s₀ (s.publishAt cls unit l) := h.rest

theorem Kept.execCounterPublication {cls unit : Nat} (h : Kept s₀ s) : GoesOn s₀ (execCounterPublication cls unit s) := by
  unfold Machine.execCounterPublication
  split
  · exact .next h.onTile
  · split
    · exact .next h.rest
    · dsimp only
      exact .next h.setHealth
  · dsimp only
    refine .next ?_
    split
    · exact h.rest.publishAt
    · exact h.rest
  · exact .next h

theorem Kept.execDeviceCounterPublication {cls unit : Nat} (h : Kept s₀ s) : GoesOn s₀ (execDeviceCounterPublication cls unit s) := by
  unfold Machine.execDeviceCounterPublication
  split
  · exact .next (h.foldl fun _ _ ht => ht.publishAt)
  · split
    · exact .next h.publishAt
    · exact .next h

/-! ### The host interface -/

theorem Kept.unsupported (h : Kept s₀ s) : Kept s₀ s.unsupported := h.rest

theorem Kept.atBar0 {f : Nat} {go : State → State} (h : Kept s₀ s) (hgo : ∀ t, Kept s₀ t → Kept s₀ (go t)) : Kept s₀ (s.atBar0 f go) :=
  (hgo _ h).ite (h.unsupported.ite h)

theorem Kept.writeControl {e q v : Nat} (h : Kept s₀ s) : Kept s₀ (s.writeControl e q v) :=
  h.ite ((h.setEasel.ite ((h.setEasel.onEasel.flush.ite h.setEasel).ite h.setEasel)).ite h.setEasel)

theorem Kept.execQueueEnable {f q value : Nat} (h : Kept s₀ s) : GoesOn s₀ (execQueueEnable f q value s) :=
  .next (h.atBar0 fun _ ht => ht.writeControl.ite ht)

theorem Kept.execQueueDisable {f q value : Nat} (h : Kept s₀ s) : GoesOn s₀ (execQueueDisable f q value s) :=
  .next (h.atBar0 fun _ ht => ht.ite ht.writeControl)

theorem Kept.rejectDoorbell (h : Kept s₀ s) : Kept s₀ s.rejectDoorbell := h.rest

theorem Kept.overrun {e q d : Nat} (h : Kept s₀ s) : Kept s₀ (s.overrun e q d) := h.rejectDoorbell.onEasel.report

theorem Kept.doorbell {e q d : Nat} (h : Kept s₀ s) : Kept s₀ (s.doorbell e q d) := h.ite (h.rejectDoorbell.ite (h.onEasel.ite h.overrun))

theorem Kept.eventDoorbell {e d : Nat} (h : Kept s₀ s) : Kept s₀ (s.eventDoorbell e d) := h.ite (h.rejectDoorbell.ite (h.onEasel.flush.ite h.overrun))

theorem Kept.applyDoorbell {e q d : Nat} (h : Kept s₀ s) : Kept s₀ (s.applyDoorbell e q d) := h.eventDoorbell.ite h.doorbell

theorem Kept.ring {f q d : Nat} (h : Kept s₀ s) : Kept s₀ (s.ring f q d) := h.rest.ite h.applyDoorbell

theorem Kept.ringHeld {f : Nat} (h : Kept s₀ s) : Kept s₀ (s.ringHeld f) := h.rest.foldl fun _ _ ht => ht.applyDoorbell

theorem Kept.execDoorbell {f q value : Nat} (h : Kept s₀ s) : GoesOn s₀ (execDoorbell f q value s) := .next (h.atBar0 fun _ ht => ht.ring.ite ht)

theorem Kept.execEventDoorbell {f value : Nat} (h : Kept s₀ s) : GoesOn s₀ (execEventDoorbell f value s) := .next (h.atBar0 fun _ ht => ht.ring)

theorem Kept.sendPending {e v : Nat} (h : Kept s₀ s) : Kept s₀ (s.sendPending e v) := h.onEasel.emit.ite h

theorem Kept.writeMsix {e v word val : Nat} (h : Kept s₀ s) : Kept s₀ (s.writeMsix e v word val) := h.onEasel.sendPending

theorem Kept.writeQueueReg {e q off v : Nat} (h : Kept s₀ s) : Kept s₀ (s.writeQueueReg e q off v) := by
  unfold State.writeQueueReg
  split
  · exact h
  · dsimp only
    split
    · exact h.ite h.onEasel
    · exact h.ite h.onEasel
    · exact h.ite h.onEasel
    · exact h.writeControl
    · exact h.onEasel.ite h
    · exact h

theorem Kept.writeBar0 {e off v : Nat} (h : Kept s₀ s) : Kept s₀ (s.writeBar0 e off v) := by
  unfold State.writeBar0
  split
  · split
    · exact h.onEasel
    · exact h.onEasel
    · exact h.writeQueueReg
    · exact h.writeQueueReg
    · exact h.writeQueueReg
    · exact h.writeQueueReg
    · exact h.writeQueueReg
    · exact h
  · exact h.writeQueueReg.ite (h.ring.ite (h.ring.ite (h.writeMsix.ite h)))

theorem Kept.execRegisterWrite {f offset size value : Nat} (h : Kept s₀ s) : GoesOn s₀ (execRegisterWrite f offset size value s) :=
  .next (h.atBar0 fun _ ht => ht.writeBar0.ite (ht.writeBar0.writeBar0.ite ht))

theorem Kept.bar2Errors {e va : Nat} {errs : List (Nat × MemErr)} {n : Nat} (h : Kept s₀ s) : Kept s₀ (s.bar2Errors e va errs n) := by
  unfold State.bar2Errors
  refine h.foldl fun t y ht => ?_
  split
  · split
    · exact ht.readError
    · exact ht
  · exact ht

theorem Kept.bar2Access {e : Nat} {write : Bool} {va n : Nat} {go : State → State} (h : Kept s₀ s) (hgo : ∀ t, Kept s₀ t → Kept s₀ (go t)) :
    Kept s₀ (s.bar2Access e write va n go) :=
  h.atArbiters fun _ ht => hgo _ ht.useTranslation

theorem Kept.bar2Answer {e va n : Nat} {errs : List (Nat × MemErr)} (h : Kept s₀ s) : Kept s₀ (s.bar2Answer e va n errs) := h.bar2Errors.emit

theorem Kept.execBar2Read {f offset length : Nat} {errs : List (Nat × MemErr)} (h : Kept s₀ s) : GoesOn s₀ (execBar2Read f offset length errs s) := by
  unfold Machine.execBar2Read
  split
  · exact .next h
  · split
    · exact .next h.unsupported.emit
    · dsimp only
      exact .next (h.bar2Access fun _ ht => ht.bar2Answer)

theorem Kept.bar2Store {e va : Nat} {bs : List Byte} (h : Kept s₀ s) : Kept s₀ (s.bar2Store e va bs) := by
  unfold State.bar2Store
  dsimp only
  refine h.writeVa.foldl fun t y ht => ?_
  split
  · exact ht.setPoison
  · exact ht

theorem Kept.execBar2Write {f offset : Nat} {bytes : List Byte} (h : Kept s₀ s) : GoesOn s₀ (execBar2Write f offset bytes s) := by
  unfold Machine.execBar2Write
  split
  · exact .next h
  · split
    · exact .next h.unsupported
    · dsimp only
      exact .next (h.bar2Access fun _ ht => ht.bar2Store.ringHeld)

theorem Kept.execMsixHoldoffExpiry {f q : Nat} (h : Kept s₀ s) : GoesOn s₀ (execMsixHoldoffExpiry f q s) := by
  unfold Machine.execMsixHoldoffExpiry
  dsimp only
  split
  · exact .next h
  · exact .next (h.onEasel.fireVector.ite h.onEasel)

theorem Kept.execPcieLinkDown (h : Kept s₀ s) : GoesOn s₀ (execPcieLinkDown s) := .next h.rest

theorem Kept.linkBack (h : Kept s₀ s) : Kept s₀ s.linkBack := h.foldl fun _ _ ht => ht.flush.foldl fun _ _ hu => hu.sendPending

theorem Kept.execPcieLinkUp {generation width : Nat} (h : Kept s₀ s) : GoesOn s₀ (execPcieLinkUp generation width s) := by
  unfold Machine.execPcieLinkUp
  split
  · exact .next h
  · exact .next h.rest.linkBack

theorem Kept.execD3hotEntry {f : Nat} (h : Kept s₀ s) : GoesOn s₀ (execD3hotEntry f s) := by
  unfold Machine.execD3hotEntry
  split
  · exact .next h.rest
  · exact .next h

/-! ### Values of entries -/

theorem Kept.freeze (h : Kept s₀ s) : Kept s₀ s.freeze := h.rest

/-! ### The object dictionary -/

theorem Kept.commitValue {index sub : Nat} {isBlob : Bool} {d : List Byte} (h : Kept s₀ s) : Kept s₀ (s.commitValue index sub isBlob d) := h.rest

theorem Kept.storeSegment {k index sub : Nat} {bytes : List Byte} {last : Bool} (h : Kept s₀ s) : Kept s₀ (s.storeSegment k index sub bytes last) :=
  h.rest.commitValue.ite h.rest

theorem Kept.countMgmt {i : Nat} (h : Kept s₀ s) : Kept s₀ (s.countMgmt i) := h.rest

theorem Kept.answer {m : Msg} {r : Reply} (h : Kept s₀ s) : Kept s₀ (s.answer m r) := by
  unfold State.answer
  dsimp only
  refine (Kept.rest ?_).emit
  split
  · exact h.countMgmt
  · exact h

theorem Kept.serve {m : Msg} {run : State → Role → Reply × State} {p : State × Option Nat}
    (h : Kept s₀ s) (hrun : ∀ t a, Kept s₀ t → Kept s₀ (run t a).2) (hp : s.serve m run = p) :
    Kept s₀ p.1 := by
  subst hp
  unfold State.serve
  dsimp only
  split
  · dsimp only
    exact h
  · split
    · dsimp only
      exact h.countMgmt
    · split
      · dsimp only
        exact h
      · split
        · dsimp only
          exact h.countMgmt.emit
        · dsimp only
          refine Kept.answer ?_
          split
          · exact hrun _ _ h.countMgmt
          · dsimp only
            exact h.countMgmt

theorem Kept.atCurator {c : Instr} {m : Msg} {go : State → State} (h : Kept s₀ s) (hgo : ∀ t, Kept s₀ t → Kept s₀ (go t)) :
    Kept s₀ (s.atCurator c m go) :=
  (hgo _ h.rest).ite ((hgo _ h).ite (h.countMgmt.countMgmt.emit.ite h.rest))

theorem Kept.refresh {index sub off : Nat} (h : Kept s₀ s) : Kept s₀ (s.refresh index sub off) := by
  unfold State.refresh
  split
  · exact h.rest.ite h
  · split
    · exact h.ite h.rest
    · exact h

theorem Kept.readBlob {index sub off : Nat} {p : Reply × State} (h : Kept s₀ s) (hp : s.readBlob index sub off = p) : Kept s₀ p.2 := by
  subst hp
  unfold State.readBlob
  dsimp only
  split
  · dsimp only
    exact h
  · split
    · dsimp only
      exact h.refresh
    · dsimp only
      exact h.refresh

theorem Kept.readEntry {m : Msg} {role : Role} {p : Reply × State} (h : Kept s₀ s) (hp : s.readEntry m role = p) : Kept s₀ p.2 := by
  subst hp
  unfold State.readEntry
  split
  · dsimp only
    exact h
  · split
    · dsimp only
      exact h
    · split
      · dsimp only
        exact h
      · split
        · dsimp only
          exact h
        · split
          · exact h.readBlob rfl
          · dsimp only
            exact h

theorem Kept.execRead {m : Msg} (h : Kept s₀ s) : GoesOn s₀ (execRead m s) := by
  unfold Machine.execRead
  split
  · exact .next h
  · exact .next (h.atCurator fun _ ht => ht.serve (fun _ _ hu => hu.readEntry rfl) rfl)

theorem Kept.execList {m : Msg} (h : Kept s₀ s) : GoesOn s₀ (execList m s) := by
  unfold Machine.execList
  split
  · exact .next (h.atCurator fun _ ht => ht.serve (fun _ _ hu => hu) rfl)
  · exact .next h

theorem Kept.writeEntry {m : Msg} {role : Role} {p : Reply × State} (h : Kept s₀ s) (hp : s.writeEntry m role = p) : Kept s₀ p.2 := by
  subst hp
  unfold State.writeEntry
  dsimp only
  split
  · dsimp only
    exact h
  · split
    · dsimp only
      exact h
    · split
      · split
        · dsimp only
          exact h
        · split
          · dsimp only
            exact h.storeSegment
          · split
            · dsimp only
              exact h
            · dsimp only
              exact h.commitValue
      · dsimp only
        exact h.rest.ite h

theorem Kept.execWrite {m : Msg} (h : Kept s₀ s) : GoesOn s₀ (execWrite m s) := by
  unfold Machine.execWrite
  split
  · exact .next (h.atCurator fun _ ht => ht.serve (fun _ _ hu => hu.writeEntry rfl) rfl)
  · exact .next h

theorem Kept.command {m : Msg} {check : State → Nat → Nat} {fail go : State → Nat → State}
    (h : Kept s₀ s) (hfail : ∀ t a, Kept s₀ t → Kept s₀ (fail t a)) (hgo : ∀ t a, Kept s₀ t → Kept s₀ (go t a)) :
    Kept s₀ (s.command m check fail go) := by
  unfold State.command
  split
  next _ t heq =>
    have ht := h.serve (fun _ _ ht => ht) heq
    exact hgo _ _ ht
  next _ t _ _ heq =>
    have ht := h.serve (fun _ _ ht => ht) heq
    exact hfail _ _ ht
  next _ t heq =>
    exact h.serve (fun _ _ ht => ht) heq

theorem Kept.execBlobStagingTimeout {requester index sub : Nat} (h : Kept s₀ s) : GoesOn s₀ (execBlobStagingTimeout requester index sub s) :=
  .next h.rest

theorem Kept.execTransactionMemoryExpiry {requester transaction : Nat} (h : Kept s₀ s) :
    GoesOn s₀ (execTransactionMemoryExpiry requester transaction s) :=
  .next h.rest

theorem Kept.notify {v : Event} {k : Nat} (h : Kept s₀ s) : Kept s₀ (s.notify v k) := by
  unfold State.notify
  split
  · exact h
  · dsimp only
    exact h.rest.countMgmt.ite (h.rest.countMgmt.emit.ite h.rest.countMgmt)

theorem Kept.execFaultLineRecord {aged : List Nat} (h : Kept s₀ s) : GoesOn s₀ (execFaultLineRecord aged s) := by
  unfold Machine.execFaultLineRecord
  split
  · exact .next h
  · dsimp only
    split
    · exact .next h.rest
    · split
      · exact .next (h.rest.foldl fun _ _ ht => ht.notify)
      · exact .next h.rest

theorem Kept.execNeighborDiscovery {target : List Byte} (h : Kept s₀ s) : GoesOn s₀ (execNeighborDiscovery target s) := by
  unfold Machine.execNeighborDiscovery
  dsimp only
  split
  · exact .next h.emit
  · exact .next h

theorem Kept.execI3cDynamicAddress {address : Nat} (h : Kept s₀ s) : GoesOn s₀ (execI3cDynamicAddress address s) := by
  unfold Machine.execI3cDynamicAddress
  split
  · exact .next h.rest
  · exact .next h

/-! ### Canvases -/

theorem Kept.authFail {e seq a cause : Nat} (h : Kept s₀ s) : Kept s₀ (s.authFail e seq a cause) := h.rest.reportSeq

theorem Kept.loadFault {e : Nat} {c : Cmd} {code n : Nat} {l : Locus} (h : Kept s₀ s) : Kept s₀ (s.loadFault e c code n l) := h.reportSeq

theorem Kept.loadImage {e : Nat} {c : Cmd} {verified : Bool} (h : Kept s₀ s) : Kept s₀ (s.loadImage e c verified) := by
  unfold State.loadImage
  split
  · split
    · exact h.loadFault.finishCmd
    · split
      · exact h.loadFault.finishCmd
      · split
        · exact h.authFail.finishCmd
        · split
          · exact h.loadFault.finishCmd
          · exact h.onEasel

theorem Kept.execLoadCanvas {e : Nat} {verified : Bool} (h : Kept s₀ s) : GoesOn s₀ (execLoadCanvas e verified s) := by
  unfold Machine.execLoadCanvas
  split
  · split
    · exact .next h.loadImage
    · exact .next h
  · exact .next h

theorem Kept.installPrograms {e : Nat} (h : Kept s₀ s) : Kept s₀ (s.installPrograms e) := by
  unfold State.installPrograms
  split
  · exact h
  · exact h.foldl fun _ _ ht => ht.foldl fun _ _ hu => hu.onTile

theorem Kept.clearFlows {e : Nat} (h : Kept s₀ s) : Kept s₀ (s.clearFlows e) := h.rest

theorem Kept.installSheet {e : Nat} (h : Kept s₀ s) : Kept s₀ (s.installSheet e) := h.installPrograms.initialSync.clearFlows

theorem Kept.execCanvasLoaded {e us : Nat} (h : Kept s₀ s) : GoesOn s₀ (execCanvasLoaded e us s) := by
  unfold Machine.execCanvasLoaded
  dsimp only
  split
  · split
    · exact .next h
    · exact .next h.setEasel.installSheet.reportSeq.finishCmd
  · exact .next h

theorem Kept.unloadCanvas {e : Nat} (h : Kept s₀ s) : Kept s₀ (s.unloadCanvas e) := by
  unfold State.unloadCanvas
  split
  · exact h.report.onEasel
  · exact h

theorem Kept.execSheetSwitch {e : Nat} (h : Kept s₀ s) : GoesOn s₀ (execSheetSwitch e s) := by
  unfold Machine.execSheetSwitch
  split
  · split
    · exact .next h.onEasel
    · exact .next h
  · exact .next h

theorem Kept.execSheetSwitched {e : Nat} (h : Kept s₀ s) : GoesOn s₀ (execSheetSwitched e s) := by
  unfold Machine.execSheetSwitched
  dsimp only
  split
  · exact .next h
  · split
    · exact .next h
    · exact .next h.setEasel.installSheet.reportSeq.finishCmd

theorem Kept.execReweight {e : Nat} (h : Kept s₀ s) : GoesOn s₀ (execReweight e s) := by
  unfold Machine.execReweight
  dsimp only
  split
  · split
    · exact .next h
    · split
      · exact .next h.reportSeq.finishCmd
      · exact .next h.setEasel
  · exact .next h

theorem Kept.execPanelReweighted {e us : Nat} (h : Kept s₀ s) : GoesOn s₀ (execPanelReweighted e us s) := by
  unfold Machine.execPanelReweighted
  dsimp only
  split
  · split
    · exact .next h
    · exact .next h.setEasel.installPrograms.reportSeq.finishCmd
  · exact .next h

end

end Sys2Proof.Machine
end

section
/-! PROOFS. What every command keeps: binding, tiles, trust and power (R39 to R62, R385 to R390, R434 to R457). -/

namespace Sys2Proof.Machine

section
variable {s₀ s t : State}

/-! ### Binding -/

theorem Kept.clearTile {t : Nat} (h : Kept s₀ s) : Kept s₀ (s.clearTile t) := by
  have hw : Kept s₀ (s.wipe (storeBase t) pageBytes) := h.wipe
  exact ⟨hw.pending, hw.mem, hw.flash, fun hs => semaphoresSound_filter (hw.sems hs)⟩

theorem Kept.clearChannel {v : Nat} {released : Bool} (h : Kept s₀ s) : Kept s₀ (s.clearChannel v released) := h.rest

theorem Kept.clearUnits {cls first count : Nat} {released erase : Bool} (h : Kept s₀ s) : Kept s₀ (s.clearUnits cls first count released erase) := by
  unfold State.clearUnits
  dsimp only
  split
  · exact h.foldl fun _ _ ht => ht.clearTile
  · exact h.clearPages
  · exact h.clearPages
  · exact h.wipe
  · exact h.rest
  · exact h.rest
  · exact h.foldl fun _ _ ht => ht.clearChannel
  · exact h.semaphores semaphoresSound_filter
  · exact h.rest
  · split
    · exact ⟨h.pending, h.mem, fun hf => mclear_wf _ _ _ (h.flash hf), h.sems⟩
    · exact h
  · exact h

theorem Kept.clearQueues {e first count : Nat} (h : Kept s₀ s) : Kept s₀ (s.clearQueues e first count) :=
  h.foldl fun _ _ ht => ht.foldl fun _ _ hu => hu.onEasel

theorem Kept.clearEasel {e : Nat} {memory : Bool} (h : Kept s₀ s) : Kept s₀ (s.clearEasel e memory) := by
  unfold State.clearEasel
  dsimp only
  exact (h.foldl fun _ _ ht => (ht.foldl fun _ _ hu => hu.onEasel).ite ht.clearUnits).onEasel

theorem Kept.drawKey {e : Nat} (h : Kept s₀ s) : Kept s₀ (s.drawKey e) := h.onEasel

theorem Kept.forgetRemotes {e : Nat} (h : Kept s₀ s) : Kept s₀ (s.forgetRemotes e) := h.rest

theorem Kept.freeEasel {e : Nat} (h : Kept s₀ s) : Kept s₀ (s.freeEasel e) := h.forgetRemotes.onEasel

theorem Kept.leaveFree {e : Nat} (h : Kept s₀ s) : Kept s₀ (s.leaveFree e) := h.onEasel.drawKey

theorem Kept.retirePages {e cls first count : Nat} (h : Kept s₀ s) : Kept s₀ (s.retirePages e cls first count) :=
  (h.foldl fun _ _ ht => ht.rest.report).ite h

theorem Kept.unbindRun {cls first count : Nat} (h : Kept s₀ s) : Kept s₀ (s.unbindRun cls first count) := h.rest

theorem Kept.releaseRuns {e : Nat} {l : List (Nat × Nat × Nat)} {erase : Bool} (h : Kept s₀ s) : Kept s₀ (s.releaseRuns e l erase) :=
  h.foldl fun _ _ ht => (ht.clearQueues.ite ht.clearUnits).retirePages.unbindRun

theorem Kept.revoked {e cause : Nat} (h : Kept s₀ s) : Kept s₀ (s.revoked e cause) := h.tell

theorem Kept.revokeEasel {e cause : Nat} (h : Kept s₀ s) : Kept s₀ (s.revokeEasel e cause) :=
  h.ite h.stopEasel.revoked.releaseRuns.freeEasel.invalidate

theorem Kept.revokeWaiting (h : Kept s₀ s) : Kept s₀ s.revokeWaiting := h.rest.foldl fun _ _ ht => ht.revokeEasel

theorem Kept.endRequest {easel status code a b : Nat} (h : Kept s₀ s) : Kept s₀ (s.endRequest easel status code a b) :=
  h.invalidate.rest.tell.revokeWaiting

theorem Kept.rejectRequest {easel tag reason idx : Nat} (h : Kept s₀ s) : Kept s₀ (s.rejectRequest easel tag reason idx) := h.endRequest

theorem Kept.beginRequest {r : Request} (h : Kept s₀ s) : Kept s₀ (s.beginRequest r) := by
  have ht {c : Prop} [Decidable c] {x : Nat} : Kept s₀ (if c then s.leaveFree x else s) := h.leaveFree.ite h
  exact ht.rest.ite (ht.stopEasel.dropKeys.onEasel.rest.ite (ht.onEasel.rest.ite (ht.rest.ite ht.onEasel.rest)))

theorem Kept.wakeRequest (h : Kept s₀ s) : Kept s₀ s.wakeRequest := by
  unfold State.wakeRequest
  split
  · exact h.beginRequest.ite h
  · exact h

theorem Kept.startRequest (h : Kept s₀ s) : Kept s₀ s.startRequest := by
  unfold State.startRequest
  dsimp only
  split
  · exact h.rejectRequest
  · exact h.rest.wakeRequest

theorem Kept.bindExecute {c : Instr} {m : Msg} {which : List Byte → Bool} (h : Kept s₀ s) : Kept s₀ (s.bindExecute c m which) :=
  (h.atCurator fun _ ht => ht.command (fun _ _ hu => hu) fun _ _ hu => hu.startRequest).ite h

theorem Kept.execBind {m : Msg} (h : Kept s₀ s) : GoesOn s₀ (execBind m s) := .next h.bindExecute

theorem Kept.execUnbind {m : Msg} (h : Kept s₀ s) : GoesOn s₀ (execUnbind m s) := .next h.bindExecute

theorem Kept.execForcedUnbind {m : Msg} (h : Kept s₀ s) : GoesOn s₀ (execForcedUnbind m s) := .next h.bindExecute

theorem Kept.execMove {m : Msg} (h : Kept s₀ s) : GoesOn s₀ (execMove m s) := .next h.bindExecute

theorem Kept.execForcedMove {m : Msg} (h : Kept s₀ s) : GoesOn s₀ (execForcedMove m s) := .next h.bindExecute

theorem Kept.execDrainComplete (h : Kept s₀ s) : GoesOn s₀ (execDrainComplete s) := by
  unfold Machine.execDrainComplete
  split
  · split
    · exact .next h
    · split
      · dsimp only
        split
        · exact .next h.dropStreams.onEasel.rest
        · exact .next h
      · exact .next h.wakeRequest
  · exact .next h

theorem Kept.backToFree {r : Request} (h : Kept s₀ s) : Kept s₀ (s.backToFree r) := h.freeEasel.ite h

theorem Kept.execDrainTimeout (h : Kept s₀ s) : GoesOn s₀ (execDrainTimeout s) := by
  unfold Machine.execDrainTimeout
  split
  · split
    · dsimp only
      exact .next (h.onEasel.ite h).backToFree.rejectRequest
    · exact .next h
  · exact .next h

theorem Kept.afterRelease {e : Nat} {before : EaselMode} (h : Kept s₀ s) : Kept s₀ (s.afterRelease e before) := h.freeEasel.ite h.onEasel

theorem Kept.releaseFor {r : Request} (h : Kept s₀ s) : Kept s₀ (s.releaseFor r) := (h.revoked.ite (h.unloadCanvas.ite h)).releaseRuns

theorem Kept.acquire {r : Request} (h : Kept s₀ s) : Kept s₀ (s.acquire r) := by
  unfold State.acquire
  extract_lets t u gone v w
  have ht : Kept s₀ t := (h.foldl fun _ _ hx => hx.ite hx.clearUnits).ite h
  have hu : Kept s₀ u := ht.foldl fun _ _ hx => hx.rest
  have hv : Kept s₀ v := hu.foldl fun _ _ hx => hx.unbindRun
  have hw : Kept s₀ w := hv.foldl fun _ _ hx => hx.unbindRun
  exact hw.onEasel

theorem Kept.execClearingComplete {us : Nat} (h : Kept s₀ s) : GoesOn s₀ (execClearingComplete us s) := by
  unfold Machine.execClearingComplete
  split
  · split
    · exact .next h
    · split
      · extract_lets b t u v
        have hu : Kept s₀ u := h.rest.ite h.rest.releaseFor.afterRelease
        have hv : Kept s₀ v := hu.ite hu.acquire
        exact .next hv.endRequest
      · exact .next h.wakeRequest
  · exact .next h

theorem Kept.rollback {r : Request} {reason idx : Nat} {lost : List (Nat × Nat × Nat)} (h : Kept s₀ s) : Kept s₀ (s.rollback r reason idx lost) := by
  unfold State.rollback
  extract_lets b t e total u runs v w
  have ht : Kept s₀ t := h.rest
  have hu : Kept s₀ u := ht.rest
  have hv : Kept s₀ v := hu.ite (hu.unloadCanvas.ite hu).releaseRuns
  have hw : Kept s₀ w := hv.ite (hv.freeEasel.ite hv.onEasel)
  exact hw.backToFree.rejectRequest

theorem Kept.dropRemoved {e : Nat} (h : Kept s₀ s) : Kept s₀ (s.dropRemoved e) := h.foldl fun _ _ ht => ht.unbindRun

theorem Kept.resetEasel {e : Nat} (h : Kept s₀ s) : Kept s₀ (s.resetEasel e) := h.dropStreams.unloadCanvas.clearEasel.dropRemoved.onEasel

theorem Kept.execEaselReset {m : Msg} (h : Kept s₀ s) : GoesOn s₀ (execEaselReset m s) := by
  unfold Machine.execEaselReset
  dsimp only
  split
  · exact .next (h.atCurator fun _ ht => ht.command (fun _ _ hu => hu) fun _ _ hu => hu.resetEasel)
  · exact .next h

theorem Kept.dropAccesses {f : Nat} (h : Kept s₀ s) : Kept s₀ (s.dropAccesses f) := h.unask.rest

theorem Kept.functionReset {e : Nat} (h : Kept s₀ s) : Kept s₀ (s.functionReset e) :=
  h.dropAccesses.drawKey.ite h.dropAccesses.stopEasel.forgetRemotes.unloadCanvas.clearEasel.drawKey.onEasel

theorem Kept.setD0 {f : Nat} (h : Kept s₀ s) : Kept s₀ (s.setD0 f) := h.rest

theorem Kept.execFlrVf {e : Nat} (h : Kept s₀ s) : GoesOn s₀ (execFlrVf e s) := by
  unfold Machine.execFlrVf
  split
  · exact .next h.functionReset.setD0
  · exact .next h

theorem Kept.disableVfs {n cause : Nat} (h : Kept s₀ s) : Kept s₀ (s.disableVfs n cause) := by
  unfold State.disableVfs
  extract_lets es p t u
  have hu : Kept s₀ u := h.rest.foldl fun _ _ ht => ht.dropAccesses
  exact hu.rest.ite (hu.foldl fun _ _ ht => ht.revokeEasel)

theorem Kept.pfReset (h : Kept s₀ s) : Kept s₀ s.pfReset := h.disableVfs.functionReset.rest

theorem Kept.execFlrPf (h : Kept s₀ s) : GoesOn s₀ (execFlrPf s) := by
  unfold Machine.execFlrPf
  split
  · exact .next h.pfReset
  · exact .next h

theorem Kept.execVfDisable {numVfs : Nat} (h : Kept s₀ s) : GoesOn s₀ (execVfDisable numVfs s) := by
  unfold Machine.execVfDisable
  split
  · exact .next h.disableVfs
  · exact .next h

theorem Kept.execHotReset (h : Kept s₀ s) : GoesOn s₀ (execHotReset s) := by
  unfold Machine.execHotReset
  split
  · dsimp only
    exact .next h.pfReset.rest
  · exact .next h

theorem Kept.assertPerst (h : Kept s₀ s) : Kept s₀ s.assertPerst := h.ite (h.pfReset.ite h).rest

theorem Kept.execPerstAssert (h : Kept s₀ s) : GoesOn s₀ (execPerstAssert s) := .next h.assertPerst

theorem Kept.execPerstDeassert (h : Kept s₀ s) : GoesOn s₀ (execPerstDeassert s) := by
  unfold Machine.execPerstDeassert
  split
  · exact .next h.rest
  · exact .next h

theorem Kept.execD0Return {f : Nat} (h : Kept s₀ s) : GoesOn s₀ (execD0Return f s) := by
  unfold Machine.execD0Return
  split
  · exact .next h
  · split
    · exact .next h.pfReset
    · exact .next h.functionReset.setD0

/-! ### Tiles and patrol -/

theorem Kept.setRole {n r : Nat} (h : Kept s₀ s) : Kept s₀ (s.setRole n r) := h.rest

theorem Kept.recordRetired {cls unit step : Nat} (h : Kept s₀ s) : Kept s₀ (s.recordRetired cls unit step) := h.rest

theorem Kept.replaceTile {n spare : Nat} (h : Kept s₀ s) : Kept s₀ (s.replaceTile n spare) := h.recordRetired.setRole.setRole.rest

theorem Kept.removeTile {n : Nat} (h : Kept s₀ s) : Kept s₀ (s.removeTile n) := h.recordRetired.setRole.setRole.rest

theorem Kept.spareExhausted {owner : Option Nat} {phys : Nat} (h : Kept s₀ s) : Kept s₀ (s.spareExhausted owner phys) := by
  unfold State.spareExhausted
  split
  · exact h.report
  · exact h.reportDevice

theorem Kept.stopToRerun {e die phys : Nat} (h : Kept s₀ s) : Kept s₀ (s.stopToRerun e die phys) := by
  unfold State.stopToRerun
  dsimp only
  exact h.undefineForming.rest.onEasel

theorem Kept.afterFailure {e die phys : Nat} (h : Kept s₀ s) : Kept s₀ (s.afterFailure e die phys) := by
  unfold State.afterFailure
  dsimp only
  split
  · exact h.stopToRerun.ite h.fault
  · exact h

theorem Kept.freshStore {n : Nat} (h : Kept s₀ s) : Kept s₀ (s.freshStore n) := h.wipe.onTile

theorem Kept.requestTileLost {n : Nat} (h : Kept s₀ s) : Kept s₀ (s.requestTileLost n) := by
  unfold State.requestTileLost
  split
  · split
    · split
      · exact h.rollback
      · exact h
    · exact h
  · exact h

theorem Kept.loadTileLost {e : Nat} (h : Kept s₀ s) : Kept s₀ (s.loadTileLost e) := by
  unfold State.loadTileLost
  dsimp only
  split
  · exact h.setEasel.loadFault.finishCmd
  · exact h

theorem Kept.loseTile {n : Nat} {sudden : Bool} (h : Kept s₀ s) : Kept s₀ (s.loseTile n sudden) := by
  unfold State.loseTile
  extract_lets owner phys t u v
  have hu : Kept s₀ u := h.removeTile.clearTile.unbindRun.ite h.removeTile
  have hv : Kept s₀ v := hu.spareExhausted.requestTileLost
  clear_value v owner
  split
  · exact hv.loadTileLost.fault.ite hv.loadTileLost.faultLater
  · exact hv

theorem Kept.execTileFailure {t choice : Nat} (h : Kept s₀ s) : GoesOn s₀ (execTileFailure t choice s) := by
  unfold Machine.execTileFailure
  split
  · exact .next h
  · split
    · exact .next h.loseTile
    · dsimp only
      refine .next ?_
      split
      · exact h.replaceTile.freshStore.afterFailure
      · exact h.replaceTile.freshStore

theorem Kept.unitRetired {owner : Option Nat} {unit cls : Nat} (h : Kept s₀ s) : Kept s₀ (s.unitRetired owner unit cls) := by
  unfold State.unitRetired
  split
  · exact h.report
  · exact h.reportDevice

theorem Kept.execTileRetire {t choice : Nat} (h : Kept s₀ s) : GoesOn s₀ (execTileRetire t choice s) := by
  unfold Machine.execTileRetire
  dsimp only
  split
  · split
    · exact .next h
    · split
      · exact .next h.replaceTile.unitRetired
      · exact .next h.unitRetired.loseTile
  · split
    · exact .next h
    · split
      · exact .next h.replaceTile.unitRetired
      · exact .next h.unitRetired.loseTile

theorem Kept.retireSpare {t : Nat} (h : Kept s₀ s) : Kept s₀ (s.retireSpare t) := h.recordRetired.setRole.unitRetired

theorem Kept.execSpareTileFailure {t : Nat} (h : Kept s₀ s) : GoesOn s₀ (execSpareTileFailure t s) := by
  unfold Machine.execSpareTileFailure
  split
  · exact .next h.retireSpare
  · exact .next h

theorem Kept.execTileSelftest {m : Msg} (h : Kept s₀ s) : GoesOn s₀ (execTileSelftest m s) := by
  unfold Machine.execTileSelftest
  split
  · exact .next (h.atCurator fun _ ht => ht.command (fun _ _ hu => hu) fun _ _ hu => hu.rest)
  · exact .next h

theorem Kept.failedTest {n : Nat} (h : Kept s₀ s) : Kept s₀ (s.failedTest n) := by
  unfold State.failedTest
  split
  · exact h.retireSpare
  · split
    · exact h
    · dsimp only
      split
      · exact h.rest.replaceTile.unitRetired
      · exact h.rest.unitRetired.loseTile

theorem Kept.execSelftestComplete {passed : Bool} (h : Kept s₀ s) : GoesOn s₀ (execSelftestComplete passed s) := by
  unfold Machine.execSelftestComplete
  dsimp only
  split
  · exact .next h
  · split
    · exact .next h.rest.failedTest
    · exact .next h.rest

theorem Kept.newPatrol (h : Kept s₀ s) : Kept s₀ s.newPatrol := h.rest

theorem Kept.markWorn {a : Nat} (h : Kept s₀ s) : Kept s₀ (s.markWorn a) := h.rest.ite h

theorem Kept.execPatrolRead {address : Nat} {err : MemErr} {newPeriod : Bool} (h : Kept s₀ s) :
    GoesOn s₀ (execPatrolRead address err newPeriod s) := by
  unfold Machine.execPatrolRead
  split
  · exact .next h
  · dsimp only
    split
    · split
      · exact .next h.newPatrol
      · split
        · exact .next h.newPatrol.readError.markWorn
        · exact .next h.newPatrol
    · split
      · exact .next h
      · split
        · exact .next h.readError.markWorn
        · exact .next h

theorem Kept.execFlashReadOnly {die : Nat} (h : Kept s₀ s) : GoesOn s₀ (execFlashReadOnly die s) := by
  unfold Machine.execFlashReadOnly
  split
  · exact .next h
  · dsimp only
    exact .next h.rest.reportDevice

/-! ### Identity, firmware, configuration, keys and SPDM -/

theorem Kept.authFailDevice {a cause : Nat} (h : Kept s₀ s) : Kept s₀ (s.authFailDevice a cause) := h.rest.reportDevice

theorem Kept.bootFirmware {c : BootChecks} (h : Kept s₀ s) : Kept s₀ (s.bootFirmware c) :=
  h.rest.ite (h.authFailDevice.rest.reportDevice.ite h.authFailDevice.authFailDevice.rest)

theorem Kept.bootIdentity {c : BootChecks} (h : Kept s₀ s) : Kept s₀ (s.bootIdentity c) :=
  h.ite ((h.ite h.authFailDevice).rest.ite (h.ite h.authFailDevice).rest.authFailDevice)

theorem Kept.bootConfig {c : BootChecks} (h : Kept s₀ s) : Kept s₀ (s.bootConfig c) := by
  unfold State.bootConfig
  refine h.ite ?_
  extract_lets take a b best
  have htake (t : State) (copy : Nat) (img : Option CfgImage) (ok : Bool) (ht : Kept s₀ t) : Kept s₀ (take t copy img ok).1 := by
    cases img with
    | none => exact ht
    | some i => cases ok with
      | true => exact ht
      | false => exact ht.authFailDevice
  have hb : Kept s₀ b.1 := htake a.1 1 _ _ (htake s 0 _ _ h)
  clear_value best b
  split
  · exact (hb.foldl fun _ _ ht => ht.commitValue).rest
  · exact hb.reportDevice

theorem Kept.startManagement {c : BootChecks} (h : Kept s₀ s) : Kept s₀ (s.startManagement c) := h.rest.bootFirmware.bootIdentity.bootConfig

theorem Kept.stopCurator (h : Kept s₀ s) : Kept s₀ s.stopCurator := h.rest

theorem Kept.restartCurator {c : BootChecks} (h : Kept s₀ s) : Kept s₀ (s.restartCurator c) := by
  unfold State.restartCurator
  dsimp only
  split
  · exact h.stopCurator.rest.bootFirmware.bootIdentity.rollback
  · exact h.stopCurator.rest.bootFirmware.bootIdentity

theorem Kept.execCuratorRestart {c : BootChecks} {down : Bool} (h : Kept s₀ s) : GoesOn s₀ (execCuratorRestart c s down) := by
  unfold Machine.execCuratorRestart
  split
  · exact .next h
  · split
    · exact .next h.stopCurator
    · exact .next h.restartCurator

theorem Kept.execFwCommit {m : Msg} {verified : Bool} (h : Kept s₀ s) : GoesOn s₀ (execFwCommit m verified s) := by
  unfold Machine.execFwCommit
  split
  · exact .next (h.atCurator fun _ ht => ht.command (fun _ _ hu => hu) fun _ _ hu => hu.rest.stopCurator.ite hu.rest)
  · exact .next h

theorem Kept.execFwConfirm {m : Msg} (h : Kept s₀ s) : GoesOn s₀ (execFwConfirm m s) := by
  unfold Machine.execFwConfirm
  split
  · refine .next (h.atCurator fun t ht => ?_)
    refine ht.command (fun _ _ hu => hu) fun u y hu => ?_
    split
    · exact hu.rest
    · exact hu
  · exact .next h

theorem Kept.execConfigCommit {m : Msg} {verified : Bool} (h : Kept s₀ s) : GoesOn s₀ (execConfigCommit m verified s) := by
  unfold Machine.execConfigCommit
  split
  · refine .next (h.atCurator fun t ht => ?_)
    refine ht.command (fun _ _ hu => hu.authFailDevice.ite hu) fun u y hu => ?_
    split
    · dsimp only
      exact hu.rest
    · exact hu
  · exact .next h

theorem Kept.setKeySlot {k : Nat} {x : Nat × List Byte × List Byte} (h : Kept s₀ s) : Kept s₀ (s.setKeySlot k x) := h.rest

theorem Kept.nextNonce (h : Kept s₀ s) : Kept s₀ s.nextNonce := h.rest

theorem Kept.keyEnrolled {slot what : Nat} (h : Kept s₀ s) : Kept s₀ (s.keyEnrolled slot what) := h.reportDevice

theorem Kept.execKeyEnrol {m : Msg} {verified : Bool} (h : Kept s₀ s) : GoesOn s₀ (execKeyEnrol m verified s) := by
  unfold Machine.execKeyEnrol
  split
  · exact .next (h.atCurator fun _ ht => ht.command (fun _ _ hu => hu.nextNonce.authFailDevice.ite hu) fun _ _ hu =>
    hu.setKeySlot.nextNonce.keyEnrolled)
  · exact .next h

theorem Kept.execKeyRevoke {m : Msg} (h : Kept s₀ s) : GoesOn s₀ (execKeyRevoke m s) := by
  unfold Machine.execKeyRevoke
  split
  · exact .next (h.atCurator fun _ ht => ht.command (fun _ _ hu => hu) fun _ _ hu => hu.setKeySlot.keyEnrolled)
  · exact .next h

theorem Kept.spdmReply {q : Spdm} {request : Nat} {content : List Byte} (h : Kept s₀ s) : Kept s₀ (s.spdmReply q request content) := h.emit

theorem Kept.spdmError {q : Spdm} {code : Nat} (h : Kept s₀ s) : Kept s₀ (s.spdmError q code) := h.emit

theorem Kept.onSpdm {q : Spdm} {f : State → State} (h : Kept s₀ s) (hf : ∀ t, Kept s₀ t → Kept s₀ (f t)) : GoesOn s₀ (s.onSpdm q f) := by
  unfold State.onSpdm
  split
  · exact .next (hf _ h)
  · exact .next h

theorem Kept.execGetVersion {q : Spdm} (h : Kept s₀ s) : GoesOn s₀ (execGetVersion q s) := h.onSpdm fun _ ht => ht.spdmReply

theorem Kept.execGetCapabilities {q : Spdm} (h : Kept s₀ s) : GoesOn s₀ (execGetCapabilities q s) := h.onSpdm fun _ ht => ht.spdmReply

theorem Kept.execNegotiateAlgorithms {q : Spdm} (h : Kept s₀ s) : GoesOn s₀ (execNegotiateAlgorithms q s) := h.onSpdm fun _ ht => ht.spdmReply

theorem Kept.attested {q : Spdm} {request : Nat} {content : List Byte} (h : Kept s₀ s) : Kept s₀ (s.attested q request content) :=
  h.spdmReply.ite h.spdmError

theorem Kept.execGetDigests {q : Spdm} (h : Kept s₀ s) : GoesOn s₀ (execGetDigests q s) := h.onSpdm fun _ ht => ht.attested

theorem Kept.execGetCertificate {q : Spdm} (h : Kept s₀ s) : GoesOn s₀ (execGetCertificate q s) := h.onSpdm fun _ ht => ht.attested

theorem Kept.execChallenge {q : Spdm} (h : Kept s₀ s) : GoesOn s₀ (execChallenge q s) := h.onSpdm fun _ ht => ht.attested

theorem Kept.execGetMeasurements {q : Spdm} (h : Kept s₀ s) : GoesOn s₀ (execGetMeasurements q s) := h.onSpdm fun _ ht => ht.attested

theorem Kept.execKeyExchange {q : Spdm} {slot : Nat} {proven : Bool} (h : Kept s₀ s) : GoesOn s₀ (execKeyExchange q slot proven s) :=
  h.onSpdm (fun _ ht => ht.spdmError.ite (ht.spdmError.ite (ht.spdmError.authFailDevice.ite ht.rest.spdmReply)))

theorem Kept.dropSession {id : Nat} (h : Kept s₀ s) : Kept s₀ (s.dropSession id) := h.rest

theorem Kept.execFinish {q : Spdm} {proven : Bool} (h : Kept s₀ s) : GoesOn s₀ (execFinish q proven s) := by
  unfold Machine.execFinish
  refine h.onSpdm fun t ht => ?_
  split
  · exact ht.spdmError.ite (ht.rest.spdmReply.ite ht.dropSession.spdmError.authFailDevice)
  · exact ht.spdmError

theorem Kept.inSession {q : Spdm} {request : Nat} (h : Kept s₀ s) : Kept s₀ (s.inSession q request) := by
  unfold State.inSession
  split
  · exact h.spdmReply.ite h.spdmError
  · exact h.spdmError

theorem Kept.execKeyUpdate {q : Spdm} (h : Kept s₀ s) : GoesOn s₀ (execKeyUpdate q s) := h.onSpdm fun _ ht => ht.inSession

theorem Kept.execHeartbeat {q : Spdm} (h : Kept s₀ s) : GoesOn s₀ (execHeartbeat q s) := h.onSpdm fun _ ht => ht.inSession

theorem Kept.execEndSession {q : Spdm} (h : Kept s₀ s) : GoesOn s₀ (execEndSession q s) := by
  unfold Machine.execEndSession
  refine h.onSpdm fun t ht => ?_
  split
  · exact ht.spdmReply.dropSession
  · exact ht.spdmError

/-! ### Supplies, start-up and resets -/

theorem Kept.losePlanes (h : Kept s₀ s) : Kept s₀ s.losePlanes := by
  unfold State.losePlanes
  extract_lets t u
  have ht : Kept s₀ t := h.freeze.ite h
  have hu : Kept s₀ u := by
    unfold u
    split
    · exact ht.rejectRequest
    · exact ht
  exact ⟨hu.pending, fun _ => rfl, hu.flash, fun _ _ hp => nomatch hp⟩

theorem Kept.stopVbus {state cause : Nat} {v : Event} (h : Kept s₀ s) : Kept s₀ (s.stopVbus state cause v) := h.losePlanes.rest.copyIn

theorem Kept.markCause {cause : Nat} (h : Kept s₀ s) : Kept s₀ (s.markCause cause) := h.rest

theorem Kept.clearCauses {gone : Nat → Bool} (h : Kept s₀ s) : Kept s₀ (s.clearCauses gone) := h.rest

theorem Kept.supplyReport {cause a : Nat} (h : Kept s₀ s) : Kept s₀ (s.supplyReport cause a) := h.ite h.markCause.raise

theorem Kept.execVbusLow {mv : Nat} (h : Kept s₀ s) : GoesOn s₀ (execVbusLow mv s) := by
  unfold Machine.execVbusLow
  split
  · exact .next h.supplyReport
  · exact .next h

theorem Kept.execVbusHigh {mv : Nat} (h : Kept s₀ s) : GoesOn s₀ (execVbusHigh mv s) := by
  unfold Machine.execVbusHigh
  split
  · exact .next h.supplyReport
  · exact .next h

theorem Kept.execVbusCollapse {mv : Nat} (h : Kept s₀ s) : GoesOn s₀ (execVbusCollapse mv s) := by
  unfold Machine.execVbusCollapse
  split
  · dsimp only
    exact .next h.markCause.stopVbus.rest
  · exact .next h

theorem Kept.loseVaux (h : Kept s₀ s) : Kept s₀ s.loseVaux := h.losePlanes.rest

theorem Kept.execVauxOutOfRange {mv : Nat} (h : Kept s₀ s) : GoesOn s₀ (execVauxOutOfRange mv s) := by
  unfold Machine.execVauxOutOfRange
  split
  · exact .next h
  · split
    · exact .next h.loseVaux
    · exact .next h.supplyReport

theorem Kept.execVioOutOfRange {mv : Nat} (h : Kept s₀ s) : GoesOn s₀ (execVioOutOfRange mv s) := by
  unfold Machine.execVioOutOfRange
  split
  · exact .next h
  · dsimp only
    exact .next h.supplyReport.rest.assertPerst

theorem Kept.execVioPresent {perstAsserted : Bool} (h : Kept s₀ s) : GoesOn s₀ (execVioPresent perstAsserted s) :=
  .next (h.rest.clearCauses.assertPerst.ite h.rest.clearCauses.rest)

theorem Kept.retireStage {stage : Nat} (h : Kept s₀ s) : Kept s₀ (s.retireStage stage) := h.rest

theorem Kept.execPowerStageFailed {stage : Nat} (h : Kept s₀ s) : GoesOn s₀ (execPowerStageFailed stage s) := by
  unfold Machine.execPowerStageFailed
  split
  · exact .next h
  · dsimp only
    exact .next h.retireStage.markCause.raise

theorem Kept.execPowerStageFailedOutOfRating {stage : Nat} (h : Kept s₀ s) : GoesOn s₀ (execPowerStageFailedOutOfRating stage s) := by
  unfold Machine.execPowerStageFailedOutOfRating
  split
  · exact .next h
  · dsimp only
    exact .next h.retireStage.markCause.stopVbus

theorem Kept.execLimitNotMet {mv : Nat} (h : Kept s₀ s) : GoesOn s₀ (execLimitNotMet mv s) := by
  unfold Machine.execLimitNotMet
  split
  · exact .next h.supplyReport
  · exact .next h

theorem Kept.execPcieRefclkLost {mv : Nat} (h : Kept s₀ s) : GoesOn s₀ (execPcieRefclkLost mv s) := by
  unfold Machine.execPcieRefclkLost
  split
  · exact .next h
  · dsimp only
    exact .next h.markCause.stopVbus.rest

theorem Kept.freeTimes {lo n : Nat} (h : Kept s₀ s) : Kept s₀ (s.freeTimes lo n) := h.rest

theorem Kept.execVauxPowerOn {c : BootChecks} (h : Kept s₀ s) : GoesOn s₀ (execVauxPowerOn c s) := by
  unfold Machine.execVauxPowerOn
  split
  · exact .next h
  · dsimp only
    exact .next h.rest.startManagement.freeTimes

theorem Kept.testStages (h : Kept s₀ s) : Kept s₀ s.testStages := h.rest

theorem Kept.beginVbus (h : Kept s₀ s) : Kept s₀ s.beginVbus := h.rest

theorem Kept.startVbus (h : Kept s₀ s) : Kept s₀ s.startVbus :=
  (h.testStages.rest.clearCauses.beginVbus.ite h.testStages.rest.markCause.rest.copyIn).ite h.beginVbus

theorem Kept.execVbusStartup (h : Kept s₀ s) : GoesOn s₀ (execVbusStartup s) := by
  unfold Machine.execVbusStartup
  split
  · exact .next h.startVbus
  · exact .next h

theorem Kept.startupTests {failed : List Nat} (h : Kept s₀ s) : Kept s₀ (s.startupTests failed) := h.foldl fun _ _ ht => ht.failedTest

theorem Kept.initBinding (h : Kept s₀ s) : Kept s₀ s.initBinding := h.rest.ite h.rest.leaveFree.onEasel

theorem Kept.armTrace {d : Nat} (h : Kept s₀ s) : Kept s₀ (s.armTrace d) := h.setTrace

theorem Kept.startComplete {us : Nat} (h : Kept s₀ s) : Kept s₀ (s.startComplete us) := by
  unfold State.startComplete
  dsimp only
  refine (Kept.reportDevice ?_).foldl fun _ _ ht => ht.armTrace
  split
  · exact h.rest.deliver
  · exact h

theorem Kept.calibrate (h : Kept s₀ s) : Kept s₀ s.calibrate := h.rest.clearCauses

theorem Kept.endStartup {us : Nat} {failed : List Nat} (h : Kept s₀ s) : Kept s₀ (s.endStartup us failed) := by
  unfold State.endStartup
  extract_lets p t q u
  have ht : Kept s₀ t := h.rest.freeTimes
  have hu : Kept s₀ u := ht.rest
  exact hu.startupTests.initBinding.startComplete

theorem Kept.execRefclkArrival {us : Nat} {failed : List Nat} {later : Bool} (h : Kept s₀ s) : GoesOn s₀ (execRefclkArrival us failed s later) := by
  unfold Machine.execRefclkArrival
  split
  · exact .next (h.calibrate.ite h.calibrate.endStartup)
  · exact .next h

theorem Kept.execVbusCauseCleared (h : Kept s₀ s) : GoesOn s₀ (execVbusCauseCleared s) := by
  unfold Machine.execVbusCauseCleared
  split
  · dsimp only
    exact .next h.clearCauses.beginVbus
  · exact .next h

theorem Kept.execVbusRestart {m : Msg} (h : Kept s₀ s) : GoesOn s₀ (execVbusRestart m s) := by
  unfold Machine.execVbusRestart
  split
  · exact .next (h.atCurator fun _ ht => ht.command (fun _ _ hu => hu) fun _ _ hu => hu.startVbus)
  · exact .next h

theorem Kept.execMreset {c : BootChecks} (h : Kept s₀ s) : GoesOn s₀ (execMreset c s) := by
  unfold Machine.execMreset
  split
  · exact .next h
  · dsimp only
    exact .next h.losePlanes.rest.startManagement

theorem Kept.overtemps {temps : List Nat} (h : Kept s₀ s) : Kept s₀ (s.overtemps temps) := h.rest.foldl fun _ _ ht => ht.raise

theorem Kept.execPowerLoopTick {r : Readings} (h : Kept s₀ s) : GoesOn s₀ (execPowerLoopTick r s) := by
  unfold Machine.execPowerLoopTick
  split
  · exact .next h
  · dsimp only
    split
    · exact .next h.rest.clearCauses
    · exact .next h.rest.clearCauses.rest.clearCauses.overtemps

theorem Kept.execThermalTrip {die celsius : Nat} (h : Kept s₀ s) : GoesOn s₀ (execThermalTrip die celsius s) := by
  unfold Machine.execThermalTrip
  split
  · exact .next h
  · dsimp only
    exact .next h.rest.stopVbus

theorem Kept.execMgtClkLost (h : Kept s₀ s) : GoesOn s₀ (execMgtClkLost s) := .next h.rest

theorem Kept.execMgtClkReturn (h : Kept s₀ s) : GoesOn s₀ (execMgtClkReturn s) := .next h.rest

theorem Kept.execConfigRequest {f : Nat} {r : CfgReq} (h : Kept s₀ s) : GoesOn s₀ (execConfigRequest f r s) := by
  unfold Machine.execConfigRequest
  split
  · exact .next h
  · split
    · exact .next h.emit
    · split
      · exact .next h.emit
      · exact .next h.emit
      · exact .next h.emit
      · dsimp only
        split
        · exact .next h.emit
        · split
          · split
            · exact .next h.disableVfs.emit
            · exact .next h.rest.emit
          · split
            · exact .next h.disableVfs.emit
            · exact .next h.rest.emit
      · exact .next h.emit

end

end Sys2Proof.Machine
end

section
/-! PROOFS. What every command keeps: the fabric, reductions and the glaze units (R284 to R289, R326 to R375). -/

namespace Sys2Proof.Machine

section
variable {s₀ s t : State}

/-! ### The receiving side of the fabric -/

theorem Kept.onPort {p : Nat} {f : Port → Port} (h : Kept s₀ s) : Kept s₀ (s.onPort p f) := h.setPort

theorem Kept.countPort {p i n : Nat} (h : Kept s₀ s) : Kept s₀ (s.countPort p i n) := h.onPort

theorem Kept.sendControl {p kind : Nat} (h : Kept s₀ s) : Kept s₀ (s.sendControl p kind) := h.setPort.sendFlit

theorem Kept.returnCredit {a : Arrival} (h : Kept s₀ s) : Kept s₀ (s.returnCredit a) := h.ite h.setPort.sendControl

theorem Kept.advertise {p n : Nat} (h : Kept s₀ s) : Kept s₀ (s.advertise p n) := by
  induction n generalizing s with
  | zero => exact h
  | succ n ih =>
    unfold State.advertise
    split
    · exact ih h.sendControl
    · exact h

theorem Kept.settleCredit (h : Kept s₀ s) : Kept s₀ s.settleCredit := h.rest.foldl fun _ _ ht => ht.returnCredit

theorem Kept.returnTagged {a : Arrival} (h : Kept s₀ s) : Kept s₀ (s.returnTagged a) := h.rest.settleCredit

theorem Kept.resend {p : Nat} (h : Kept s₀ s) : Kept s₀ (s.resend p) := h.countPort.foldl fun _ _ ht => ht.sendFlit

theorem Kept.countFec {p : Nat} {fec : List MemErr} (h : Kept s₀ s) : Kept s₀ (s.countFec p fec) := h.countPort.countPort

theorem Kept.arrive {p channel flits : Nat} {bs : List Byte} (h : Kept s₀ s) : Kept s₀ (s.arrive p channel flits bs) := by
  unfold State.arrive
  split
  · exact h.rest.ite h.countPort.onPort
  · exact h.countPort.onPort

theorem Kept.takeBody {p : Nat} {flit : List Byte} (h : Kept s₀ s) : Kept s₀ (s.takeBody p flit) := by
  unfold State.takeBody
  dsimp only
  split
  · exact h.onPort.ite h.onPort
  · exact h.onPort.arrive.foldl fun _ _ ht => ht.arrive

theorem Kept.execDataFlit {p : Nat} {flit : List Byte} {whole : Bool} {fec : List MemErr} (h : Kept s₀ s) :
    GoesOn s₀ (execDataFlit p flit whole fec s) := by
  unfold Machine.execDataFlit
  dsimp only
  split
  · exact .next h
  · split
    · exact .next h.settleCredit.countFec
    · split
      · exact .next h.settleCredit.countFec.onPort.sendControl
      · split
        · exact .next h.settleCredit.countFec.setPort.takeBody.pumpPort.sendControl
        · split
          · exact .next h.settleCredit.countFec
          · split
            · exact .next h.settleCredit.countFec
            · exact .next h.settleCredit.countFec.onPort.sendControl

theorem Kept.execNakFlit {p : Nat} {flit : List Byte} {whole : Bool} {fec : List MemErr} (h : Kept s₀ s) :
    GoesOn s₀ (execNakFlit p flit whole fec s) := by
  unfold Machine.execNakFlit
  dsimp only
  split
  · exact .next h
  · split
    · exact .next h.settleCredit.countFec
    · exact .next h.settleCredit.countFec.setPort.resend.pumpPort

theorem Kept.execIdleFlit {p : Nat} {flit : List Byte} {whole : Bool} {fec : List MemErr} (h : Kept s₀ s) :
    GoesOn s₀ (execIdleFlit p flit whole fec s) := by
  unfold Machine.execIdleFlit
  dsimp only
  split
  · exact .next h
  · split
    · exact .next h.settleCredit.countFec.onPort.pumpPort
    · exact .next h.settleCredit.countFec

theorem Kept.sendElsewhere {p : Nat} {l : List Packet} (h : Kept s₀ s) : Kept s₀ (s.sendElsewhere p l) := by
  induction l generalizing s with
  | nil => exact h
  | cons k rest ih =>
    unfold State.sendElsewhere
    split
    · split
      · exact ih h.rest.sendOn
      · exact ih h
    · exact ih h

theorem Kept.portDown {p cause : Nat} (h : Kept s₀ s) : Kept s₀ (s.portDown p cause) :=
  (h.setPort.onPort.ite h.setPort).rest.reportDevice.sendElsewhere

theorem Kept.laneFails {p lane ratio : Nat} {bad : List Nat} (h : Kept s₀ s) : Kept s₀ (s.laneFails p lane ratio bad) :=
  h.setPort.ite (h.setPort.rest.reportDevice.ite (h.setPort.portDown.ite h.setPort.reportDevice))

theorem Kept.failLanes {p : Nat} {found : List (Option Nat)} {bad active : List Nat} (h : Kept s₀ s) : Kept s₀ (s.failLanes p found bad active) := by
  unfold State.failLanes
  refine h.foldl fun t l ht => ?_
  split
  · exact ht
  · split
    next r u heq =>
    have hu : Kept s₀ u := by
      split at heq
      · cases heq
        exact ht
      · have hfresh : t.fresh.2 = u := congrArg Prod.snd heq
        exact hfresh ▸ ht.fresh rfl
    exact hu.laneFails

theorem Kept.retrain {p : Nat} {trained : Bool} {found : List (Option Nat)} (h : Kept s₀ s) : Kept s₀ (s.retrain p trained found) :=
  h.portDown.ite (h.failLanes.ite h.failLanes.setPort.countPort.resend)

theorem Kept.execRetryLimitReached {p : Nat} {trained : Bool} {found : List (Option Nat)} (h : Kept s₀ s) :
    GoesOn s₀ (execRetryLimitReached p trained s found) := by
  unfold Machine.execRetryLimitReached
  dsimp only
  split
  · exact .next h.retrain
  · exact .next h

theorem Kept.execAckTimeout {p : Nat} {trained : Bool} {found : List (Option Nat)} (h : Kept s₀ s) :
    GoesOn s₀ (execAckTimeout p trained s found) := by
  unfold Machine.execAckTimeout
  dsimp only
  split
  · exact .next h.retrain
  · exact .next h

theorem Kept.execSerWindowEnd {p lane errors : Nat} {trained : Bool} {found : List (Option Nat)} (h : Kept s₀ s) :
    GoesOn s₀ (execSerWindowEnd p lane errors trained s found) := by
  unfold Machine.execSerWindowEnd
  dsimp only
  split
  · exact .next h
  · split
    · exact .next h.laneFails
    · exact .next h.laneFails.retrain

theorem Kept.execPortBringUp {p : Nat} {lanes : List (Option Nat)} {credits : List Nat} (h : Kept s₀ s) :
    GoesOn s₀ (execPortBringUp p lanes credits s) := by
  unfold Machine.execPortBringUp
  extract_lets g n bad adv f f' t x u v w
  have hu : Kept s₀ u := h.rest.setPort
  have hv : Kept s₀ v := hu.onPort.ite (hu.onPort.ite hu)
  have hw : Kept s₀ w := hv.failLanes
  split
  · exact .next h
  · exact .next (hw.ite hw.pump.advertise)

theorem Kept.handled {k : Nat} {a : Arrival} (h : Kept s₀ s) : Kept s₀ (s.handled k a) := h.rest.returnCredit

theorem Kept.discard {k : Nat} {a : Arrival} {stat : Nat} (h : Kept s₀ s) : Kept s₀ (s.discard k a stat) := h.handled.countPort

theorem Kept.respond {q : Packet} {status : Nat} {payload : List Byte} {poisoned : Bool} (h : Kept s₀ s) :
    Kept s₀ (s.respond q status payload poisoned) := by
  unfold State.respond
  split
  · exact h.sendOn
  · exact h

theorem Kept.landed {k : Nat} {a : Arrival} (h : Kept s₀ s) : Kept s₀ (s.landed k a) := h.rest.ite h.handled

theorem Kept.execFabricWrite {k : Nat} (h : Kept s₀ s) : GoesOn s₀ (execFabricWrite k s) := by
  unfold Machine.execFabricWrite
  split
  · exact .next h
  · dsimp only
    split
    · exact .next h.discard
    · exact .next h.discard
    · split
      · exact .next h.landWrite.landed.respond
      · exact .next h.discard.respond
    · split
      · exact .next h.handled.respond
      · exact .next h.landWrite.landed.respond

theorem Kept.execFabricReadRequest {k : Nat} (h : Kept s₀ s) : GoesOn s₀ (execFabricReadRequest k s) := by
  unfold Machine.execFabricReadRequest
  split
  · exact .next h
  · dsimp only
    split
    · exact .next h.discard
    · exact .next h.discard
    · exact .next h.discard.respond
    · split
      · exact .next h.handled.respond
      · exact .next h.handled.respond

theorem Kept.undeclared {e unit source sem channel : Nat} (h : Kept s₀ s) : Kept s₀ (s.undeclared e unit source sem channel) := h.reportSeq

theorem Kept.undeclaredIn {e : Nat} {a : Arrival} (h : Kept s₀ s) : Kept s₀ (s.undeclaredIn e a) := h.undeclared

theorem Kept.execFabricSignal {k : Nat} (h : Kept s₀ s) : GoesOn s₀ (execFabricSignal k s) := by
  unfold Machine.execFabricSignal
  split
  · exact .next h
  · dsimp only
    split
    · exact .next h.discard
    · exact .next h.discard
    · exact .next h.discard.respond
    · split
      · exact .next h.handled.undeclaredIn.respond
      · exact .next h.handled.applySignal.respond

theorem Kept.dropFence {f : Fence} (h : Kept s₀ s) : Kept s₀ (s.dropFence f) := h.rest

theorem Kept.setFence {f : Fence} (h : Kept s₀ s) : Kept s₀ (s.setFence f) := h.dropFence.rest

theorem Kept.fenceReady {f : Fence} (h : Kept s₀ s) : Kept s₀ (s.fenceReady f) := by
  unfold State.fenceReady
  split
  · split
    · exact h.setFence
    · dsimp only
      split
      · split
        · exact h.dropFence.applySignal
        · exact h.dropFence.undeclared
      · exact h.dropFence
  · exact h.setFence

theorem Kept.execPostedSignal {k : Nat} (h : Kept s₀ s) : GoesOn s₀ (execPostedSignal k s) := by
  unfold Machine.execPostedSignal
  split
  · exact .next h
  · dsimp only
    split
    · exact .next h.discard
    · exact .next h.discard
    · exact .next h.discard
    · split
      · exact .next h
      · exact .next (h.rest.undeclaredIn.ite h.rest.fenceReady).returnTagged

theorem Kept.execFencePacketLanded {k : Nat} (h : Kept s₀ s) : GoesOn s₀ (execFencePacketLanded k s) := by
  unfold Machine.execFencePacketLanded
  split
  · exact .next h
  · dsimp only
    split
    · exact .next h
    · exact .next ((h.rest.ite (h.rest.countPort.ite h.rest.fenceReady)).returnTagged)

theorem Kept.execRemoteSignalOrphan {position channel tag : Nat} (h : Kept s₀ s) : GoesOn s₀ (execRemoteSignalOrphan position channel tag s) := by
  unfold Machine.execRemoteSignalOrphan
  split
  · exact .next h
  · split
    · dsimp only
      exact .next h.dropFence.rest.settleCredit.faultWith
    · exact .next h

theorem Kept.execFenceKeyExpiry {position channel tag : Nat} (h : Kept s₀ s) : GoesOn s₀ (execFenceKeyExpiry position channel tag s) := by
  unfold Machine.execFenceKeyExpiry
  split
  · split
    · exact .next h.dropFence.settleCredit.countPort
    · exact .next h
  · exact .next h

theorem Kept.dropRemote {tag : Nat} (h : Kept s₀ s) : Kept s₀ (s.dropRemote tag) := h.rest

theorem Kept.remoteFails {r : Remote} {code status : Nat} (h : Kept s₀ s) : Kept s₀ (s.remoteFails r code status) := by
  unfold State.remoteFails
  dsimp only
  refine (Kept.rest ?_).faultWith
  split
  · exact h.onEasel
  · exact h

theorem Kept.execRemoteAccessTimeout {tag : Nat} (h : Kept s₀ s) : GoesOn s₀ (execRemoteAccessTimeout tag s) := by
  unfold Machine.execRemoteAccessTimeout
  split
  · exact .next h.dropRemote.remoteFails
  · exact .next h

theorem Kept.execLinkParameters {k : Nat} (h : Kept s₀ s) : GoesOn s₀ (execLinkParameters k s) := by
  unfold Machine.execLinkParameters
  split
  · exact .next h
  · dsimp only
    split
    · exact .next h
    · split
      · exact .next h.discard
      · split
        · exact .next h.handled
        · split
          · split
            · exact .next h.handled.portDown
            · exact .next h.handled.setPort.pumpPort
          · split
            · split
              · exact .next h.handled.portDown
              · exact .next h.handled.setPort.pumpPort
            · split
              · exact .next h.handled.portDown
              · exact .next h.handled.setPort.pumpPort

theorem Kept.execPositionAnnouncement {k : Nat} (h : Kept s₀ s) : GoesOn s₀ (execPositionAnnouncement k s) := by
  unfold Machine.execPositionAnnouncement
  split
  · exact .next h
  · dsimp only
    split
    · exact .next h
    · split
      · exact .next h.discard
      · exact .next h.handled.onPort

theorem Kept.adoptPosition {position : Nat} (h : Kept s₀ s) : Kept s₀ (s.adoptPosition position) := h.commitValue.foldl fun _ _ ht => ht.setPort.pump

theorem Kept.execFabricPositionWrite {m : Msg} (h : Kept s₀ s) : GoesOn s₀ (execFabricPositionWrite m s) := by
  unfold Machine.execFabricPositionWrite
  split
  · refine .next (h.atCurator fun t ht => ?_)
    split
    next _ u heq =>
      exact (ht.serve (fun _ _ hu => hu.writeEntry rfl) heq).adoptPosition
    next _ u _ _ heq =>
      exact ht.serve (fun _ _ hu => hu.writeEntry rfl) heq
  · exact .next h

theorem Kept.execFabricRefclkLost {die : Nat} (h : Kept s₀ s) : GoesOn s₀ (execFabricRefclkLost die s) :=
  .next (h.rest.foldl fun _ _ ht => ht.portDown.ite ht)

theorem Kept.execFabricRefclkReturn {die : Nat} (h : Kept s₀ s) : GoesOn s₀ (execFabricRefclkReturn die s) := .next h.rest

/-! ### Reductions -/

theorem Kept.spaceErrors {e space requester seq : Nat} {errs : List (Nat × MemErr)} (h : Kept s₀ s) :
    Kept s₀ (s.spaceErrors e space requester seq errs) := by
  unfold State.spaceErrors
  refine h.foldl fun t y ht => ?_
  split
  · exact ht.readError
  · exact ht

theorem Kept.sendSegment {e : Nat} {r : RedEntry} {x : Int} {step seg : Nat} (h : Kept s₀ s) : Kept s₀ (s.sendSegment e r x step seg) := by
  unfold State.sendSegment
  dsimp only
  split
  · exact (h.onEasel.ite h.onEasel).sendOn
  · exact h.onEasel.ite h.onEasel

theorem Kept.fireReduction {e r : Nat} {d : RedEntry} {c : Cmd} {errs : List (Nat × MemErr)} (h : Kept s₀ s) :
    Kept s₀ (s.fireReduction e r d c errs) :=
  (h.onEasel.spaceErrors.onEasel.foldl fun _ _ ht => ht.sendSegment).markSent

theorem Kept.execReductionFire {e r : Nat} {errs : List (Nat × MemErr)} (h : Kept s₀ s) : GoesOn s₀ (execReductionFire e r errs s) := by
  unfold Machine.execReductionFire
  dsimp only
  split
  · split
    · exact .next h
    · split
      · exact .next h.onEasel.rest
      · exact .next (h.atArbiters fun _ ht => ht.fireReduction)
  · exact .next h

theorem Kept.landShard {e : Nat} {r : RedEntry} {f : Firing} {slot seg : Nat} {q : Packet} (h : Kept s₀ s) : Kept s₀ (s.landShard e r f slot seg q) :=
  (h.writeSpace.poisonSpace.ite h.writeSpace).onEasel.shardHealth.ite (h.writeSpace.poisonSpace.ite h.writeSpace).onEasel

theorem Kept.execShardDelivery {k : Nat} (h : Kept s₀ s) : GoesOn s₀ (execShardDelivery k s) := by
  unfold Machine.execShardDelivery
  split
  · exact .next h
  · dsimp only
    split
    · exact .next h
    · split
      · exact .next h.discard
      · exact .next h.discard
      · exact .next h.discard
      · split
        · split
          · exact .next h.discard
          · split
            · split
              · exact .next h.handled.faultWith
              · split
                · exact .next h.discard
                · exact .next h.landShard.landed
            · exact .next h.handled.faultWith
        · exact .next h.discard

theorem Kept.reductionTimedOut {e cls unit seq step id channel : Nat} (h : Kept s₀ s) :
    Kept s₀ (s.reductionTimedOut e cls unit seq step id channel) :=
  h.faultWith

theorem Kept.execReductionTimeout {e r : Nat} (h : Kept s₀ s) : GoesOn s₀ (execReductionTimeout e r s) := by
  unfold Machine.execReductionTimeout
  dsimp only
  split
  · split
    · split
      · exact .next h
      · exact .next h.reductionTimedOut
    · exact .next h
  · exact .next h

theorem Kept.execGroupMaskSwitch {v : Nat} (h : Kept s₀ s) : GoesOn s₀ (execGroupMaskSwitch v s) := by
  unfold Machine.execGroupMaskSwitch
  split
  · exact .next h
  · dsimp only
    split
    · split
      · exact .next h.rest
      · exact .next h
    · split
      · exact .next h.rest
      · exact .next h

/-! ### The glaze units and checkpoints -/

theorem Kept.armUpdate {e : Nat} {es : List (List Byte)} (h : Kept s₀ s) : Kept s₀ (s.armUpdate e es) := by
  unfold State.armUpdate
  refine h.foldl fun t y ht => ?_
  split
  · exact ht.applyWaitv
  · exact ht

theorem Kept.glazeFault {e : Nat} {c : Cmd} {r : Reject} (h : Kept s₀ s) : Kept s₀ (s.glazeFault e c r) := h.faultWith

theorem Kept.execUpdate {e : Nat} (h : Kept s₀ s) : GoesOn s₀ (execUpdate e s) := by
  unfold Machine.execUpdate
  dsimp only
  split
  · exact .next h
  · split
    · exact .next h
    · split
      · exact .next h.glazeFault
      · exact .next h.setEasel.armUpdate

theorem Kept.runUpdate {e : Nat} {u : Update} {errs : List (Nat × MemErr)} (h : Kept s₀ s) : Kept s₀ (s.runUpdate e u errs) := by
  unfold State.runUpdate
  dsimp only
  exact (h.spaceErrors.ofGlazed (State.passAll_glazed _ e _ _)).onEasel

theorem Kept.execUpdateApply {e : Nat} {errs : List (Nat × MemErr)} (h : Kept s₀ s) : GoesOn s₀ (execUpdateApply e errs s) := by
  unfold Machine.execUpdateApply
  dsimp only
  split
  · exact .next h
  · split
    · exact .next h
    · split
      · exact .next h.dropUpdateWaiters.setEasel
      · split
        · exact .next h
        · split
          · split
            · exact .next h
            · exact .next h.setEasel.reportSeq
          · exact .next (h.atArbiters fun _ ht => ht.runUpdate)

theorem Kept.sendWrites {e channel dest a : Nat} {bs : List Byte} {bad : List Bool} {drain log : Option Nat} (h : Kept s₀ s)
    (ht : s.sendWrites e channel dest a bs bad drain log = some t) : Kept s₀ t := by
  unfold State.sendWrites at ht
  split at ht
  · cases ht
  · cases ht
    refine h.foldl fun u i hu => ?_
    split
    · exact hu.requestOn
    · exact hu

theorem Kept.endDrain {e : Nat} {d : Drain} (h : Kept s₀ s) : Kept s₀ (s.endDrain e d) := h.onEasel.unask

theorem Kept.beginFar {e : Nat} {d : Drain} (h : Kept s₀ s) : Kept s₀ (s.beginFar e d) := by
  unfold State.beginFar
  split
  · exact h.endDrain
  · dsimp only
    split
    next _ t heq =>
      exact (h.sendWrites heq).onEasel
    · exact h

theorem Kept.drainCopy {e : Nat} {d : Drain} {go : State → State} (h : Kept s₀ s) (hgo : ∀ t, Kept s₀ t → Kept s₀ (go t)) :
    Kept s₀ (s.drainCopy e d go) :=
  h.atArbiters fun _ ht => hgo _ ht

theorem Kept.addDrain {e : Nat} {d : Drain} {now : Bool} (h : Kept s₀ s) : Kept s₀ (s.addDrain e d now) := h.onEasel.ask.ite h.onEasel

theorem Kept.startLayer {e t layer : Nat} (h : Kept s₀ s) : Kept s₀ (s.startLayer e t layer) := by
  unfold State.startLayer
  split
  · exact h
  · dsimp only
    split
    · exact h.onEasel
    · exact h.onEasel.onEasel.addDrain

theorem Kept.beginExports {e t : Nat} {block : List Byte} (h : Kept s₀ s) : Kept s₀ (s.beginExports e t block) :=
  h.foldl fun _ _ ht => ht.onEasel.ite ht.onEasel.ask

theorem Kept.execUpdateComplete {e : Nat} (h : Kept s₀ s) : GoesOn s₀ (execUpdateComplete e s) := by
  unfold Machine.execUpdateComplete
  dsimp only
  split
  · split
    · exact .next h
    · split
      · exact .next h.setEasel.beginExports.finishCmd
      · exact .next ((((h.setEasel.ite h.setEasel.reportSeq).foldl fun _ _ ht => ht.startLayer).beginExports).finishCmd)
  · exact .next h

theorem Kept.execExportImage {e : Nat} (h : Kept s₀ s) : GoesOn s₀ (execExportImage e s) := by
  unfold Machine.execExportImage
  dsimp only
  split
  · exact .next h
  · split
    · exact .next h
    · split
      · exact .next h.glazeFault
      · split
        · exact .next h.glazeFault
        · exact .next h.addDrain.finishCmd

theorem Kept.imageDone {e : Nat} {d : Drain} (h : Kept s₀ s) : Kept s₀ (s.imageDone e d) := h.endDrain.onEasel.reportSeq

theorem Kept.copyToStage {e : Nat} {d : Drain} (h : Kept s₀ s) : Kept s₀ (s.copyToStage e d) := by
  unfold State.copyToStage
  split
  · exact h.endDrain
  · dsimp only
    exact h.writeMarked.onEasel

theorem Kept.copyToFlash {e : Nat} {d : Drain} (h : Kept s₀ s) : Kept s₀ (s.copyToFlash e d) := by
  unfold State.copyToFlash
  dsimp only
  split
  · exact h.endDrain
  · exact h.endDrain.onEasel.ite h.writeMarked.imageDone

theorem Kept.exportHere {e : Nat} {d : Drain} (h : Kept s₀ s) : Kept s₀ (s.exportHere e d) := by
  unfold State.exportHere
  split
  · exact h.endDrain
  · dsimp only
    exact h.endDrain.faultWith.ite h.writeMarked.imageDone

theorem Kept.execCheckpointWritten {e layer : Nat} (h : Kept s₀ s) : GoesOn s₀ (execCheckpointWritten e layer s) := by
  unfold Machine.execCheckpointWritten
  dsimp only
  split
  · exact .next h
  · split
    · exact .next (h.drainCopy fun _ ht => ht.copyToStage)
    · split
      · split
        · exact .next h
        · exact .next (h.drainCopy fun _ ht => ht.copyToFlash)
      · split
        · exact .next (h.drainCopy fun _ ht => ht.beginFar)
        · split
          · exact .next (h.drainCopy fun _ ht => ht.exportHere)
          · split
            · exact .next (h.drainCopy fun _ ht => ht.beginFar)
            · split
              · exact .next h.imageDone
              · exact .next h

theorem Kept.drainAcked {e key : Nat} (h : Kept s₀ s) : Kept s₀ (s.drainAcked e key) := by
  unfold State.drainAcked
  split
  · split
    · split
      next _ t heq =>
        exact (h.sendWrites heq).onEasel
      · exact h
    · exact h
  · exact h

theorem Kept.writeLog {e ch : Nat} {u : Update} (h : Kept s₀ s) : Kept s₀ (s.writeLog e ch u) := by
  unfold State.writeLog
  extract_lets x skipped n part payload bad a k hd l dest
  split
  next t heq =>
    have ht : Kept s₀ t := by
      split at heq
      · exact h.sendWrites heq
      · exact h.sendWrites heq
    exact ht.onEasel
  · exact h

theorem Kept.execLogEntryWrite {e : Nat} (h : Kept s₀ s) : GoesOn s₀ (execLogEntryWrite e s) := by
  unfold Machine.execLogEntryWrite
  dsimp only
  split
  · split
    · exact .next h
    · exact .next (h.atArbiters fun _ ht => ht.writeLog)
  · exact .next h

theorem Kept.logAcked {e t : Nat} (h : Kept s₀ s) : Kept s₀ (s.logAcked e t) := by
  unfold State.logAcked
  dsimp only
  split
  · split
    · exact h
    · split
      · split
        next _ t heq =>
          exact (h.sendWrites heq).onEasel
        · exact h
      · exact h.onEasel
  · exact h

theorem Kept.sendWord {v step word : Nat} (h : Kept s₀ s) (ht : s.sendWord v step word = some t) : Kept s₀ t := by
  obtain ⟨p, -, rfl⟩ := Option.map_eq_some_iff.mp ht
  exact h.sendOn

theorem Kept.execVerdictWordSend {e : Nat} (h : Kept s₀ s) : GoesOn s₀ (execVerdictWordSend e s) := by
  unfold Machine.execVerdictWordSend
  dsimp only
  split
  · exact .next h
  · split
    · exact .next h
    · split
      next _ t heq =>
        exact .next (h.sendWord heq).onEasel.markSent
      · exact .next h

theorem Kept.execVerdictTimeout {e : Nat} (h : Kept s₀ s) : GoesOn s₀ (execVerdictTimeout e s) := by
  unfold Machine.execVerdictTimeout
  dsimp only
  split
  · split
    · exact .next h.reductionTimedOut
    · exact .next h
  · exact .next h

end

end Sys2Proof.Machine
end

section
/-! PROOFS. What every command keeps: verdicts, restores, the primer and the sketch (R166 to R170, R302 to R325, R375 to R383, R470 to R474). -/

namespace Sys2Proof.Machine

section
variable {s₀ s t : State}

/-! ### Step verdicts and restores -/

theorem Kept.verdictRecords {e t nonfinite saturated : Nat} {k : Int} (h : Kept s₀ s) : Kept s₀ (s.verdictRecords e t nonfinite saturated k) :=
  (((h.report.ite h).report.ite (h.report.ite h)).report).ite ((h.report.ite h).report.ite (h.report.ite h))

theorem Kept.decideStep {e t nonfinite saturated : Nat} (h : Kept s₀ s) : Kept s₀ (s.decideStep e t nonfinite saturated) :=
  h.setEasel.markPartnerLog.verdictRecords

theorem Kept.putEntry {e : Nat} {g : List Byte} {planes : List (List Byte)} {buffer : Nat} (h : Kept s₀ s) : Kept s₀ (s.putEntry e g planes buffer) :=
  h.foldl fun _ _ ht => ht.writeVa

theorem Kept.mirror {e : Nat} {g : List Byte} {buffer : Nat} (h : Kept s₀ s) : Kept s₀ (s.mirror e g buffer) := h.foldl fun _ _ ht => ht.writeVa

theorem Kept.replayStep {e : Nat} {r : Restore} {l : List Byte} (h : Kept s₀ s) : Kept s₀ (s.replayStep e r l) := by
  unfold State.replayStep
  dsimp only
  split
  · refine h.foldl fun t q ht => ?_
    split
    next f g _ _ =>
      have hf : Kept s₀ (t.freshPlanes e (spreadEntry f g q.2.2.2) (1 - (s.easel e).select)) := ht.freshPlanes
      refine Kept.mirror (Kept.writeVa (hf.ofGlazed (e := e) (Glazed.trans ?_ (PassAcc.land_glazed _ e _))))
      exact foldl_glazed _ (fun acc j => acc.element_glazed e _ _ _ _ _ _ _ _) _ ⟨_, 0, []⟩
    · exact ht
  · exact (h.ofGlazed (foldl_glazed _ (fun acc g => acc.entry_glazed e _ _ _) _ ⟨s, 0, []⟩)).onEasel

theorem Kept.sequenceRecord {code e a b : Nat} (h : Kept s₀ s) : Kept s₀ (s.sequenceRecord code e a b) := h.report

theorem Kept.restoreRejected {e n : Nat} (h : Kept s₀ s) : Kept s₀ (s.restoreRejected e n) := h.onEasel.sequenceRecord

theorem Kept.finishRestore {e : Nat} {r : Restore} (h : Kept s₀ s) : Kept s₀ (s.finishRestore e r) := by
  unfold State.finishRestore
  extract_lets t x ordinal advisory stream p u skew v w
  have ht : Kept s₀ t := h.onEasel
  have hu : Kept s₀ u := ht.rest
  have hv : Kept s₀ v := hu.sequenceRecord.ite hu
  have hw : Kept s₀ w := hv.sequenceRecord.ite hv.sequenceRecord
  exact ht.sequenceRecord.ite (hw.fault.ite hw)

theorem Kept.restoredStep {e t nonfinite saturated : Nat} {k : Int} (h : Kept s₀ s) : Kept s₀ (s.restoredStep e t nonfinite saturated k) :=
  h.onEasel.verdictRecords

theorem Kept.replayLog {e : Nat} {l : List (List Byte)} {r : Restore} (h : Kept s₀ s) : Kept s₀ (replayLog e l r s) := by
  induction l generalizing r s with
  | nil => exact h.finishRestore
  | cons l rest ih =>
    unfold Machine.replayLog
    refine h.finishRestore.ite (Kept.ite (ih h.replayStep.onEasel) (Kept.ite (ih h) ?_))
    split
    · dsimp only
      split
      next heq => exact (h.onEasel.sendWord heq).onEasel
      · exact h.onEasel
    · exact ih (h.restoredStep.ite h.restoredStep.replayStep.onEasel)

theorem Kept.putElements {e : Nat} {es : List (List Byte × List (List Byte))} {q : Nat × Nat × Nat × Nat} (h : Kept s₀ s) :
    Kept s₀ (s.putElements e es q) := by
  unfold State.putElements
  split
  · dsimp only
    exact h.putEntry.putEntry
  · exact h

theorem Kept.applyImage {e : Nat} {r : Restore} (h : Kept s₀ s) : Kept s₀ (s.applyImage e r) := by
  unfold State.applyImage
  split
  · exact h.restoreRejected
  next es xs _ =>
    have hspread : Kept s₀ (r.elements.foldl (fun s q => s.putElements e es q) s) := h.foldl fun _ _ ht => ht.putElements
    have hwhole : Kept s₀ (es.foldl (fun s g => (s.putEntry e g.1 g.2 0).putEntry e g.1 g.2 1) s) := h.foldl fun _ _ ht => ht.putEntry.putEntry
    exact hspread.onEasel.replayLog.ite (h.restoreRejected.ite (hwhole.foldl fun _ _ ht => ht.writeVa).onEasel.replayLog)

theorem Kept.fetchFar {e : Nat} {r : Restore} {off n : Nat} (h : Kept s₀ s) : Kept s₀ (s.fetchFar e r off n) := by
  unfold State.fetchFar
  split
  · exact h.restoreRejected
  · dsimp only
    refine h.onEasel.foldl fun t y ht => ?_
    split
    · exact ht.requestOn
    · exact ht

theorem Kept.searchSlot {e : Nat} {r : Restore} (h : Kept s₀ s) : Kept s₀ (s.searchSlot e r) := by
  unfold State.searchSlot
  split
  · exact h.fetchFar
  · exact h.restoreRejected

theorem Kept.restoreNext {e : Nat} {r : Restore} {bs : List Byte} (h : Kept s₀ s) : Kept s₀ (s.restoreNext e r bs) := by
  unfold State.restoreNext
  split
  · exact (h.fetchFar.ite h.fetchFar).ite (h.searchSlot.ite h.restoreRejected)
  · exact h.fetchFar.ite h.searchSlot
  · dsimp only
    split
    · exact h.restoreRejected
    · exact h.fetchFar.ite h.applyImage
  · dsimp only
    exact h.applyImage

theorem Kept.fetched {e off : Nat} {bs : List Byte} {bad : Bool} (h : Kept s₀ s) : Kept s₀ (s.fetched e off bs bad) := by
  unfold State.fetched
  split
  · exact h
  · dsimp only
    exact h.onEasel.ite h.restoreNext

theorem Kept.resilienceCommand {c : Instr} {m : Msg} {sub : Nat} {go : State → Nat → State}
    (h : Kept s₀ s) (hgo : ∀ t a, Kept s₀ t → Kept s₀ (go t a)) :
    Kept s₀ (s.resilienceCommand c m sub go) :=
  (h.atCurator fun _ ht => ht.command (fun _ _ hu => hu) fun _ _ hu => hgo _ _ hu).ite h

theorem Kept.restoreFlash {e : Nat} {r : Restore} (h : Kept s₀ s) : Kept s₀ (s.restoreFlash e r) := by
  unfold State.restoreFlash
  dsimp only
  split
  · exact h.restoreRejected
  · split
    · exact h.applyImage
    · exact h.restoreRejected

theorem Kept.beginRestore {e : Nat} (h : Kept s₀ s) : Kept s₀ (s.beginRestore e) := h.restoreRejected.ite (h.restoreFlash.ite h.fetchFar)

theorem Kept.execRestoreExecute {m : Msg} (h : Kept s₀ s) : GoesOn s₀ (execRestoreExecute m s) :=
  .next (h.resilienceCommand fun _ _ ht => ht.beginRestore)

theorem Kept.beginTakeover {e : Nat} (h : Kept s₀ s) : Kept s₀ (s.beginTakeover e) :=
  h.restoreRejected.ite h.commitValue.adoptPosition.sequenceRecord.fetchFar

theorem Kept.execTakeoverExecute {m : Msg} (h : Kept s₀ s) : GoesOn s₀ (execTakeoverExecute m s) :=
  .next (h.resilienceCommand fun _ _ ht => ht.beginTakeover)

theorem Kept.rebindChannel {e v epoch f : Nat} (h : Kept s₀ s) : Kept s₀ (s.rebindChannel e v epoch f) :=
  h.unloadCanvas.releaseRuns.commitValue.commitValue.rest

theorem Kept.beginSpread {e : Nat} {verified : Bool} (h : Kept s₀ s) : Kept s₀ (s.beginSpread e verified) := by
  unfold State.beginSpread
  dsimp only
  split
  · exact h.restoreRejected
  · split
    · exact (h.rebindChannel.authFail.ite h.rebindChannel.report).restoreRejected
    · exact (h.rebindChannel.fresh rfl).setEasel.installSheet.report.fetchFar

theorem Kept.execSpreadExecute {m : Msg} {verified : Bool} (h : Kept s₀ s) : GoesOn s₀ (execSpreadExecute m verified s) :=
  .next (h.resilienceCommand fun _ _ ht => ht.beginSpread)

theorem Kept.restoreVerdict {e : Nat} {r : Restore} {t nonfinite saturated : Nat} (h : Kept s₀ s) :
    Kept s₀ (s.restoreVerdict e r t nonfinite saturated) := by
  unfold State.restoreVerdict
  split
  · exact h.ite (h.restoredStep.ite h.restoredStep.replayStep.onEasel).replayLog
  · exact h

theorem Kept.execStepVerdict {e : Nat} (h : Kept s₀ s) : GoesOn s₀ (execStepVerdict e s) := by
  unfold Machine.execStepVerdict
  dsimp only
  split
  · split
    · exact .next h
    · exact .next h.decideStep
  · split
    · exact .next h
    · split
      · split
        · split
          · exact .next h.handled.restoreVerdict
          · exact .next h.discard
        · split
          · exact .next h.handled.restoreVerdict
          · exact .next h.discard
      · split
        · exact .next h.handled.decideStep
        · exact .next h.discard

theorem Kept.xferAcked {x : Nat} {bs : List Byte} (h : Kept s₀ s) : Kept s₀ (s.xferAcked x bs) := by
  unfold State.xferAcked
  split
  · dsimp only
    refine Kept.dropXfer ?_
    split
    · exact h.account
    · exact h
  · exact h

theorem Kept.landRead {x dst : Nat} {bs : List Byte} {bad : Bool} (h : Kept s₀ s) : Kept s₀ (s.landRead x dst bs bad) := h.landBytes.xferAcked

theorem Kept.execFabricResponse {k : Nat} (h : Kept s₀ s) : GoesOn s₀ (execFabricResponse k s) := by
  unfold Machine.execFabricResponse
  split
  · exact .next h
  · dsimp only
    split
    · exact .next h.discard
    · exact .next h.discard
    · split
      · exact .next h.discard
      · split
        · exact .next h.handled.dropRemote.remoteFails
        · split
          · split
            · split
              · exact .next h.discard
              · exact .next h.handled.dropRemote.landRead
            · split
              · exact .next h.discard
              · exact .next h.handled.dropRemote.onXfer
            · exact .next h.handled.dropRemote.xferAcked
          · split
            · exact .next h.handled.dropRemote.drainAcked
            · exact .next h.handled.dropRemote.logAcked
            · split
              · exact .next h.discard
              · exact .next h.handled.dropRemote.fetched
            · exact .next h.handled.dropRemote

/-! ### The primer -/

theorem Kept.intakeErrors {e seq : Nat} {b : List Byte} {errs : List (Nat × Nat × MemErr)} (h : Kept s₀ s) : Kept s₀ (s.intakeErrors e seq b errs) :=
  h.spaceErrors.spaceErrors

theorem Kept.takeIntake {e : Nat} {c : Cmd} {errs : List (Nat × Nat × MemErr)} (h : Kept s₀ s) : Kept s₀ (s.takeIntake e c errs) := by
  unfold State.takeIntake
  dsimp only
  split
  · exact h.faultWith
  · split
    · exact (h.ite h.intakeErrors).faultWith
    · exact (h.ite h.intakeErrors).onEasel.rest

theorem Kept.execIntake {e : Nat} {errs : List (Nat × Nat × MemErr)} (h : Kept s₀ s) : GoesOn s₀ (execIntake e s errs) := by
  unfold Machine.execIntake
  split
  · exact .next h
  · split
    · exact .next h
    · dsimp only
      exact .next (h.atArbiters fun _ ht => ht.takeIntake)

theorem Kept.setIntake {x : Intake} (h : Kept s₀ s) : Kept s₀ (s.setIntake x) := h.rest

theorem Kept.bumpLane {l seq i n : Nat} (h : Kept s₀ s) : Kept s₀ (s.bumpLane l seq i n) := h.rest

theorem Kept.execIntakeStart {e : Nat} (h : Kept s₀ s) : GoesOn s₀ (execIntakeStart e s) := by
  unfold Machine.execIntakeStart
  split
  · exact .next h
  · exact .next (h.setIntake.foldl fun _ _ ht => ht.bumpLane)

theorem Kept.takeRecord {l : Nat} {x : Intake} {errs : List (Nat × MemErr)} (h : Kept s₀ s) : Kept s₀ (s.takeRecord l x errs) :=
  h.spaceErrors.setIntake.ite h.spaceErrors.setIntake.rest

theorem Kept.execLaneRecordTake {l : Nat} {errs : List (Nat × MemErr)} (h : Kept s₀ s) : GoesOn s₀ (execLaneRecordTake l errs s) := by
  unfold Machine.execLaneRecordTake
  split
  · exact .next h
  · split
    · exact .next h
    · exact .next (h.atArbiters fun _ ht => ht.takeRecord)

theorem Kept.laneDone {l : Nat} {x : Intake} {o : Output} {work : Nat} (h : Kept s₀ s) : Kept s₀ (s.laneDone l x o work) := h.setIntake.rest.bumpLane

theorem Kept.execSampleSkippedBudget {l : Nat} (h : Kept s₀ s) : GoesOn s₀ (execSampleSkippedBudget l s) := by
  unfold Machine.execSampleSkippedBudget
  split
  · exact .next h
  · dsimp only
    split
    · exact .next h.laneDone
    · exact .next h

theorem Kept.execSampleDecodeDone {l : Nat} {errs : List (Nat × MemErr)} (h : Kept s₀ s) : GoesOn s₀ (execSampleDecodeDone l s errs) := by
  unfold Machine.execSampleDecodeDone
  split
  · exact .next h
  · dsimp only
    split
    · exact .next h
    · split
      · split
        · exact .next h.spaceErrors.faultWith
        · split
          · exact .next h.spaceErrors.laneDone
          · exact .next h.spaceErrors.laneDone
      · split
        · exact .next h.faultWith
        · split
          · exact .next h.laneDone
          · exact .next h.laneDone

theorem Kept.bumpStat {e i : Nat} (h : Kept s₀ s) : Kept s₀ (s.bumpStat e i) := h.rest

theorem Kept.settleHead {x : Intake} {o : Output} {p : State × Intake × Placed} (h : Kept s₀ s) (hp : s.settleHead x o = p) : Kept s₀ p.1 := by
  subst hp
  unfold State.settleHead
  dsimp only
  split
  · dsimp only
    exact h
  · dsimp only
    exact (h.writeVa.bumpStat.bumpStat.bumpLane.ite h.writeVa.bumpStat.bumpStat.bumpLane.rest).reportSeq

theorem Kept.place {x : Intake} {lane next : Nat} {bs : List Byte} (h : Kept s₀ s) : Kept s₀ (s.place x lane next bs) := by
  unfold State.place
  extract_lets b a t p u signal v
  have ht : Kept s₀ t := h.writeVa.bumpStat.bumpLane
  have hu : Kept s₀ u := ht.rest
  have hv : Kept s₀ v := hu.rest.ite hu
  exact hv.setIntake

theorem Kept.placeRow {x : Intake} {p : State × Intake} (h : Kept s₀ s) (hp : s.placeRow x = p) : Kept s₀ p.1 := by
  subst hp
  exact h.place

theorem Kept.closeRow {x : Intake} (h : Kept s₀ s) : Kept s₀ (s.closeRow x) := (h.placeRow rfl).setIntake.ite h.setIntake

theorem Kept.deliverText {x : Intake} (h : Kept s₀ s) (ht : s.deliverText x = some t) : Kept s₀ t := by
  unfold State.deliverText at ht
  split at ht
  · split at ht
    · cases ht
      exact h.closeRow
    · cases ht
  · split at ht
    next o _ =>
      split at ht
      · cases ht
      · dsimp only at ht
        have hu : Kept s₀ (s.settleHead x o).1 := h.settleHead rfl
        have hv {n : Nat} : Kept s₀ (if ibMaxA x.block < n then (s.settleHead x o).1.bumpStat (s.settleHead x o).2.1.easel 5
          else (s.settleHead x o).1) := hu.bumpStat.ite hu
        split at ht
        · cases ht
          exact hv.closeRow
        · split at ht
          · cases ht
            exact hv.closeRow
          · split at ht
            · cases ht
              exact (hv.placeRow rfl).closeRow
            · cases ht
    · cases ht

theorem Kept.deliverSample {x : Intake} (h : Kept s₀ s) (ht : s.deliverSample x = some t) : Kept s₀ t := by
  unfold State.deliverSample at ht
  split at ht
  · cases ht
  · split at ht
    · cases ht
    · cases ht
      exact (h.settleHead rfl).place

theorem Kept.deliverNext {x : Intake} (h : Kept s₀ s) (ht : s.deliverNext x = some t) : Kept s₀ t := by
  unfold State.deliverNext at ht
  split at ht
  · exact h.deliverText ht
  · exact h.deliverSample ht

theorem Kept.execPrimerOutputDelivery {e : Nat} (h : Kept s₀ s) : GoesOn s₀ (execPrimerOutputDelivery e s) := by
  unfold Machine.execPrimerOutputDelivery
  split
  next x _ =>
    refine .next (h.atArbiters fun t ht => ?_)
    cases hd : t.deliverNext x with
    | none => exact ht
    | some u => exact ht.deliverNext hd
  · exact .next h

theorem Kept.execIntakeComplete {e : Nat} (h : Kept s₀ s) : GoesOn s₀ (execIntakeComplete e s) := by
  unfold Machine.execIntakeComplete
  split
  · exact .next h
  · split
    · exact .next h
    · dsimp only
      exact .next h.rest.publishAt.finishCmd

/-! ### The sketch and the trace units -/

theorem Kept.checkCounts {e : Nat} (h : Kept s₀ s) : Kept s₀ (s.checkCounts e) := by
  unfold State.checkCounts
  split
  · refine h.foldl fun t y ht => ?_
    split
    · exact ht.ite ht.semComplement
    · exact ht
  · exact h

theorem Kept.execSketchBuild {m : Msg} (h : Kept s₀ s) : GoesOn s₀ (execSketchBuild m s) := by
  unfold Machine.execSketchBuild
  split
  · exact .next (h.atCurator fun _ ht => ht.command (fun _ _ hu => hu) fun _ _ hu => hu.rest.checkCounts)
  · exact .next h

theorem Kept.execSketchSecondPublication (h : Kept s₀ s) : GoesOn s₀ (execSketchSecondPublication s) := by
  unfold Machine.execSketchSecondPublication
  split
  · exact .next h
  · split
    · exact .next h
    · dsimp only
      exact .next h.rest.report.checkCounts

theorem Kept.execTraceTrigger {m : Msg} (h : Kept s₀ s) : GoesOn s₀ (execTraceTrigger m s) := by
  unfold Machine.execTraceTrigger
  split
  · exact .next (h.atCurator fun _ ht => ht.command (fun _ _ hu => hu) fun _ _ hu => hu.foldl fun _ _ hv => (hv.traceTake rfl).raiseAll)
  · exact .next h

theorem Kept.execTraceArm {m : Msg} (h : Kept s₀ s) : GoesOn s₀ (execTraceArm m s) := by
  unfold Machine.execTraceArm
  split
  · exact .next (h.atCurator fun _ ht => ht.command (fun _ _ hu => hu) fun _ _ hu => hu.foldl fun _ _ hv => hv.armTrace)
  · exact .next h

end

end Sys2Proof.Machine
end

section
/-! PROOFS. Every command goes on, and keeps the queue, the memories' canonical form and the semaphores' complements; every step keeps
the last two. -/

namespace Sys2Proof.Machine

/-- Every command answers a next state that keeps what `Kept` names. -/
theorem Kept.exec {s₀ s : State} (c : Instr) (h : Kept s₀ s) : GoesOn s₀ (exec c s) := by
  cases c with
  | endProg _ => exact h.execEndProg
  | loop _ => exact h.execLoop
  | br _ => exact h.execBr
  | seti _ => exact h.execSeti
  | sethi _ => exact h.execSethi
  | alu _ => exact h.execAlu
  | getslot _ => exact h.execGetslot
  | getctx _ => exact h.execGetctx
  | mma _ => exact h.execMma
  | vchain _ _ => exact h.execVchain
  | issue _ => exact h.execIssue
  | await _ => exact h.execAwait
  | mark _ => exact h.execMark
  | signal _ => exact h.execSignal
  | wait _ => exact h.execWait
  | waitv _ => exact h.execWaitv
  | fadd _ => exact h.execFadd
  | claim _ => exact h.execClaim
  | mmaComplete _ _ => exact h.execMmaComplete
  | vchainComplete _ _ => exact h.execVchainComplete
  | addrEnd _ => exact h.execAddrEnd
  | addrSeti _ => exact h.execAddrSeti
  | getv _ => exact h.execGetv
  | madd _ => exact h.execMadd
  | addi _ => exact h.execAddi
  | addrLoop _ => exact h.execAddrLoop
  | emit _ => exact h.execEmit
  | zero _ => exact h.execZero
  | streamRun _ _ => exact h.execStreamRun
  | arbiterGrant _ => exact h.execArbiterGrant
  | starvationGuardExpiry _ => exact h.execStarvationGuardExpiry
  | transferLand _ _ => exact h.execTransferLand
  | streamIssueComplete _ => exact h.execStreamIssueComplete
  | syncRequestArrival _ => exact h.execSyncRequestArrival
  | tileDone _ => exact h.execTileDone
  | commandEnd _ => exact h.execCommandEnd
  | descriptorTake _ _ _ => exact h.execDescriptorTake
  | commandDispatch _ => exact h.execCommandDispatch
  | runWork _ => exact h.execRunWork
  | loadCanvas _ _ => exact h.execLoadCanvas
  | canvasLoaded _ _ => exact h.execCanvasLoaded
  | sheetSwitch _ => exact h.execSheetSwitch
  | sheetSwitched _ => exact h.execSheetSwitched
  | reweight _ => exact h.execReweight
  | panelReweighted _ _ => exact h.execPanelReweighted
  | intake _ _ => exact h.execIntake
  | intakeStart _ => exact h.execIntakeStart
  | laneRecordTake _ _ => exact h.execLaneRecordTake
  | sampleSkippedBudget _ => exact h.execSampleSkippedBudget
  | sampleDecodeDone _ _ => exact h.execSampleDecodeDone
  | primerOutputDelivery _ => exact h.execPrimerOutputDelivery
  | intakeComplete _ => exact h.execIntakeComplete
  | update _ => exact h.execUpdate
  | updateApply _ _ => exact h.execUpdateApply
  | updateComplete _ => exact h.execUpdateComplete
  | exportImage _ => exact h.execExportImage
  | checkpointWritten _ _ => exact h.execCheckpointWritten
  | noOperation _ => exact h.execNoOperation
  | logEntryWrite _ => exact h.execLogEntryWrite
  | verdictWordSend _ => exact h.execVerdictWordSend
  | stepVerdict _ => exact h.execStepVerdict
  | verdictTimeout _ => exact h.execVerdictTimeout
  | reductionFire _ _ _ => exact h.execReductionFire
  | shardDelivery _ => exact h.execShardDelivery
  | reductionTimeout _ _ => exact h.execReductionTimeout
  | groupMaskSwitch _ => exact h.execGroupMaskSwitch
  | dataFlit _ _ _ _ => exact h.execDataFlit
  | nakFlit _ _ _ _ => exact h.execNakFlit
  | idleFlit _ _ _ _ => exact h.execIdleFlit
  | retryLimitReached _ _ _ => exact h.execRetryLimitReached
  | ackTimeout _ _ _ => exact h.execAckTimeout
  | serWindowEnd _ _ _ _ _ => exact h.execSerWindowEnd
  | portBringUp _ _ _ => exact h.execPortBringUp
  | linkParameters _ => exact h.execLinkParameters
  | positionAnnouncement _ => exact h.execPositionAnnouncement
  | fabricWrite _ => exact h.execFabricWrite
  | fabricReadRequest _ => exact h.execFabricReadRequest
  | fabricResponse _ => exact h.execFabricResponse
  | fabricSignal _ => exact h.execFabricSignal
  | postedSignal _ => exact h.execPostedSignal
  | fencePacketLanded _ => exact h.execFencePacketLanded
  | remoteSignalOrphan _ _ _ => exact h.execRemoteSignalOrphan
  | fenceKeyExpiry _ _ _ => exact h.execFenceKeyExpiry
  | remoteAccessTimeout _ => exact h.execRemoteAccessTimeout
  | fabricRefclkLost _ => exact h.execFabricRefclkLost
  | fabricRefclkReturn _ => exact h.execFabricRefclkReturn
  | read _ => exact h.execRead
  | write _ => exact h.execWrite
  | list _ => exact h.execList
  | blobStagingTimeout _ _ _ => exact h.execBlobStagingTimeout
  | transactionMemoryExpiry _ _ => exact h.execTransactionMemoryExpiry
  | faultLineRecord _ => exact h.execFaultLineRecord
  | bind _ => exact h.execBind
  | unbind _ => exact h.execUnbind
  | forcedUnbind _ => exact h.execForcedUnbind
  | move _ => exact h.execMove
  | forcedMove _ => exact h.execForcedMove
  | drainComplete => exact h.execDrainComplete
  | drainTimeout => exact h.execDrainTimeout
  | clearingComplete _ => exact h.execClearingComplete
  | easelReset _ => exact h.execEaselReset
  | restoreExecute _ => exact h.execRestoreExecute
  | takeoverExecute _ => exact h.execTakeoverExecute
  | spreadExecute _ _ => exact h.execSpreadExecute
  | keyEnrol _ _ => exact h.execKeyEnrol
  | keyRevoke _ => exact h.execKeyRevoke
  | tileSelftest _ => exact h.execTileSelftest
  | selftestComplete _ => exact h.execSelftestComplete
  | sketchBuild _ => exact h.execSketchBuild
  | sketchSecondPublication => exact h.execSketchSecondPublication
  | traceTrigger _ => exact h.execTraceTrigger
  | traceArm _ => exact h.execTraceArm
  | fwCommit _ _ => exact h.execFwCommit
  | fwConfirm _ => exact h.execFwConfirm
  | configCommit _ _ => exact h.execConfigCommit
  | vbusRestart _ => exact h.execVbusRestart
  | fabricPositionWrite _ => exact h.execFabricPositionWrite
  | getVersion _ => exact h.execGetVersion
  | getCapabilities _ => exact h.execGetCapabilities
  | negotiateAlgorithms _ => exact h.execNegotiateAlgorithms
  | getDigests _ => exact h.execGetDigests
  | getCertificate _ => exact h.execGetCertificate
  | challenge _ => exact h.execChallenge
  | getMeasurements _ => exact h.execGetMeasurements
  | keyExchange _ _ _ => exact h.execKeyExchange
  | finish _ _ => exact h.execFinish
  | keyUpdate _ => exact h.execKeyUpdate
  | heartbeat _ => exact h.execHeartbeat
  | endSession _ => exact h.execEndSession
  | neighborDiscovery _ => exact h.execNeighborDiscovery
  | i3cDynamicAddress _ => exact h.execI3cDynamicAddress
  | doorbell _ _ _ => exact h.execDoorbell
  | eventDoorbell _ _ => exact h.execEventDoorbell
  | queueEnable _ _ _ => exact h.execQueueEnable
  | queueDisable _ _ _ => exact h.execQueueDisable
  | registerWrite _ _ _ _ => exact h.execRegisterWrite
  | bar2Read _ _ _ _ => exact h.execBar2Read
  | bar2Write _ _ _ => exact h.execBar2Write
  | msixHoldoffExpiry _ _ => exact h.execMsixHoldoffExpiry
  | configRequest _ _ => exact h.execConfigRequest
  | flrVf _ => exact h.execFlrVf
  | flrPf => exact h.execFlrPf
  | vfDisable _ => exact h.execVfDisable
  | hotReset => exact h.execHotReset
  | perstAssert => exact h.execPerstAssert
  | perstDeassert => exact h.execPerstDeassert
  | pcieLinkDown => exact h.execPcieLinkDown
  | d3hotEntry _ => exact h.execD3hotEntry
  | d0Return _ => exact h.execD0Return
  | vauxPowerOn _ => exact h.execVauxPowerOn
  | vbusStartup => exact h.execVbusStartup
  | refclkArrival _ _ _ => exact h.execRefclkArrival
  | vbusLow _ => exact h.execVbusLow
  | vbusHigh _ => exact h.execVbusHigh
  | vbusCollapse _ => exact h.execVbusCollapse
  | vauxOutOfRange _ => exact h.execVauxOutOfRange
  | vioOutOfRange _ => exact h.execVioOutOfRange
  | powerStageFailed _ => exact h.execPowerStageFailed
  | powerStageFailedOutOfRating _ => exact h.execPowerStageFailedOutOfRating
  | limitNotMet _ => exact h.execLimitNotMet
  | pcieRefclkLost _ => exact h.execPcieRefclkLost
  | vbusCauseCleared => exact h.execVbusCauseCleared
  | powerLoopTick _ => exact h.execPowerLoopTick
  | thermalTrip _ _ => exact h.execThermalTrip
  | mreset _ => exact h.execMreset
  | mgtClkLost => exact h.execMgtClkLost
  | curatorRestart _ _ => exact h.execCuratorRestart
  | tileFailure _ _ => exact h.execTileFailure
  | spareTileFailure _ => exact h.execSpareTileFailure
  | tileRetire _ _ => exact h.execTileRetire
  | flashReadOnly _ => exact h.execFlashReadOnly
  | patrolRead _ _ _ => exact h.execPatrolRead
  | pcSample _ => exact h.execPcSample
  | counterPublication _ _ => exact h.execCounterPublication
  | deviceCounterPublication _ _ => exact h.execDeviceCounterPublication
  | pcieLinkUp _ _ => exact h.execPcieLinkUp
  | vioPresent _ => exact h.execVioPresent
  | mgtClkReturn => exact h.execMgtClkReturn

theorem everyCommandKeeps (c : Instr) (s : State) : Completes c s (Kept s) := (Kept.refl s).exec c

/-- The oldest request at the Curator is taken out of its queue alone. -/
theorem State.nextRequest_kept {s t : State} {c : Instr} (h : s.nextRequest = some (c, t)) : Kept s t := by
  unfold State.nextRequest at h
  split at h
  · split at h
    · cases h
      exact (Kept.refl s).rest
    · cases h
  · cases h

/-- Every step keeps canonical memories and sound semaphores. -/
theorem step_keeps {s s' : State} (h : step s = .next s') : (Memory.wf s.mem = true → Memory.wf s'.mem = true) ∧
    (Memory.wf s.flash = true → Memory.wf s'.flash = true) ∧ (SemaphoresSound s → SemaphoresSound s') := by
  have hexec (c : Instr) (t : State) (hc : Machine.exec c t = .next s') : Kept t s' := by
    obtain ⟨u, hu, hkept⟩ := everyCommandKeeps c t
    rw [hu] at hc
    cases hc
    exact hkept
  unfold step at h
  split at h
  · split at h
    next c t hnext =>
      obtain ⟨-, hmem, hflash, hsems⟩ := (State.nextRequest_kept hnext).trans (hexec c t h)
      exact ⟨hmem, hflash, hsems⟩
    · cases h
      exact ⟨id, id, id⟩
  next c rest _ =>
    obtain ⟨-, hmem, hflash, hsems⟩ := hexec c { s with pending := rest } h
    exact ⟨hmem, hflash, hsems⟩

/-- Settles O4: every operation the commands share writes memory through the canonical writes, or leaves it. -/
theorem memoriesCanonicalKept : Obligations.MemoriesCanonicalKept := by
  unfold Obligations.MemoriesCanonicalKept
  intro s s' hs h
  obtain ⟨hmem, hflash, -⟩ := step_keeps h
  exact ⟨hmem hs.1, hflash hs.2⟩

/-- Settles O5: every count is set through `Sem.store`, and every other change of a semaphore is one of its waiters. -/
theorem semaphoresSoundKept : Obligations.SemaphoresSoundKept := by
  unfold Obligations.SemaphoresSoundKept
  intro s s' hs h
  exact (step_keeps h).2.2 hs

/-- Settles O6: each command's meaning ends in a next state, and none writes the queue. -/
theorem everyCommandGoesOn : Obligations.EveryCommandGoesOn := by
  unfold Obligations.EveryCommandGoesOn
  intro c s
  obtain ⟨s', hexec, hkept⟩ := everyCommandKeeps c s
  exact ⟨s', hexec, hkept.pending⟩

end Sys2Proof.Machine
end
